-- ==== Sys2Proof/Word.lean ====
section
/-!
DEFINITION. The word types of the CX-1600 and the two containers the state is built from: a sorted list of
key and value pairs (`Map`) and a vector register value (`Vec`, R159).
-/

set_option linter.unusedVariables false

namespace Sys2Proof

/-- A scalar register value, an address or a special register (R38, R179). -/
abbrev Word := BitVec 64
/-- One byte of memory. -/
abbrev Byte := BitVec 8
/-- One lane of a vector register (R159). -/
abbrev Lane := BitVec 32
/-- A vector register: lanes 0 to 63, lane 0 least significant (R159). -/
abbrev Vec := Vector Lane 64
/-- A lane mask k0 to k7 (R160). -/
abbrev Mask := BitVec 64
/-- The seven sticky flags: IV 0, DZ 1, OF 2, UF 3, NX 4, SB 5, SAT 6 (R137). -/
abbrev FlagBits := BitVec 7

/-- The vector whose lane i is `f i`. -/
def Vec.ofFn (f : Fin 64 → Lane) : Vec := Vector.ofFn f

/-- Every lane holds `x`. -/
def Vec.splat (x : Lane) : Vec := Vector.replicate 64 x

/-- Sparse data by key, in ascending key order. A key that is not listed reads as the type's default. -/
abbrev Map (α : Type) := List (Nat × α)

/-- The value at a key, if the key is listed. -/
def Map.get? {α : Type} : Map α → Nat → Option α
  | [], _ => none
  | (k', v) :: t, k => if k' = k then some v else Map.get? t k

/-- The value at a key, or `dflt` when the key is not listed. -/
def Map.getD {α : Type} (m : Map α) (k : Nat) (dflt : α) : α := (Map.get? m k).getD dflt

/-- Sets the value at a key and keeps the order of keys. -/
def Map.set {α : Type} : Map α → Nat → α → Map α
  | [], k, v => [(k, v)]
  | (k', v') :: t, k, v =>
    if k' = k then (k, v) :: t
    else if k < k' then (k, v) :: (k', v') :: t
    else (k', v') :: Map.set t k v

/-- Removes a key. -/
def Map.del {α : Type} : Map α → Nat → Map α
  | [], _ => []
  | (k', v') :: t, k => if k' = k then Map.del t k else (k', v') :: Map.del t k

/-- The keys that are listed, ascending. -/
def Map.keys {α : Type} (m : Map α) : List Nat := m.map Prod.fst

/-- The keys of a map rise strictly. -/
abbrev Map.wf {α : Type} (m : Map α) : Prop := (m.map Prod.fst).Pairwise (· < ·)

/-- Zero-extension of a Nat modulo 2^64. -/
abbrev w64 (n : Nat) : Word := BitVec.ofNat 64 n

end Sys2Proof
end

