-- ==== Sys2Proof/Syntax.lean ====
section
/-!
DEFINITION. The syntax: operand types, the data that the machine's own steps carry, and the one inductive `Instr`
with one constructor per row of the opcode table. The first 211 constructors are the instructions of R49 (four
opcodes have two rows each); the other 85 are the table's events, the machine's remaining indivisible steps. An event
has no encoding: it enters the machine through the agenda (log 1).
-/

set_option linter.unusedVariables false

namespace Sys2Proof

/-! ### Instruction operands -/

/-- The guard of R41: predicate number and negation. -/
structure Gd where
  gn : Bool
  gp : BitVec 3
deriving DecidableEq, Repr

/-- The guard that always holds (R41). -/
def Gd.always : Gd := ⟨false, 0⟩

/-- A scalar register code: 0-63 are x0-x63, 64-127 are y0-y63 (R38). -/
abbrev SReg := BitVec 7
/-- A vector register: 0-15 are v0-v15, 16-31 are w0-w15 (codes 64-79 in the word, R38). -/
abbrev VReg := BitVec 5
/-- A predicate register q0-q7. -/
abbrev QReg := BitVec 3
/-- A mask register k0-k7. -/
abbrev KReg := BitVec 3
/-- A private register that holds a handle, x1-x63 (R40); 0 only in `send`. -/
abbrev HReg := BitVec 6

/-- Operand B of an s kind where I is permitted: a register, or sext(IMM) (R46). -/
inductive Src where
  | reg (r : SReg)
  | imm (v : BitVec 32)
deriving DecidableEq, Repr

/-- Operand B of a v kind where I is permitted: a register, or IMM broadcast into all lanes (R46). -/
inductive VSrc where
  | reg (r : VReg)
  | imm (v : BitVec 32)
deriving DecidableEq, Repr

/-- The index of a memory address: none (I = 1), or a register shifted left by FN[2:0] (R46, R184). -/
inductive Idx where
  | none
  | reg (r : SReg) (sh : BitVec 3)
deriving DecidableEq, Repr

/-- The type codes of R36. -/
inductive Ty where
  | i8 | n8 | i16 | n16 | i32 | n32 | i64 | n64 | e4m3 | e5m2 | bf16 | f16 | f32 | f64 | a80 | b1
deriving DecidableEq, Repr

/-- The rounding modes of R37. -/
inductive Rm where
  | rne | rtz | rup | rdn | rna
deriving DecidableEq, Repr

/-- The widths of `sext` (R98). -/
inductive Wd where
  | w8 | w16 | w32
deriving DecidableEq, Repr

/-- The conditions of `cmp` (R102). -/
inductive ICond where
  | eq | ne | lt | le | gt | ge | ltu | leu | gtu | geu
deriving DecidableEq, Repr

/-- The conditions of `fcmp` and `vcmp` (R151, R170). -/
inductive FCond where
  | eq | ne | lt | le | gt | ge | un | ord
deriving DecidableEq, Repr

/-- The address forms of `mkadr` (R124). -/
inductive AdrForm where
  | abs | rel | win
deriving DecidableEq, Repr

/-- The fence scopes of R206. -/
inductive Scope where
  | core | cluster | job | device | system
deriving DecidableEq, Repr

/-- The operations of `amo` and `rupd` (R192, R193). -/
inductive AmoOp where
  | add | and | or | xor | min | max | minu | maxu | swap
deriving DecidableEq, Repr

/-- The operations of `famo`, `frupd` and the reductions: add or sum, min, max (R192, R357). -/
inductive FOp where
  | add | min | max
deriving DecidableEq, Repr

/-- The link directions of R266. -/
inductive Dir where
  | e | n | w | s
deriving DecidableEq, Repr

/-- The trap causes of R370. -/
inductive Cause where
  | ilOpc | ilRsv | ilOpnd | priv | pcAlign | addr | align | xlat | prot | guard | storeFault | atom | arith
  | spanOrder | spanTag | spanLink | spanState | handle | ddFull | ddBad | barPhase | msg | hang | sw | mcheck
deriving DecidableEq, Repr

/-! ### What the machine's own steps carry -/

/-- A thread of a job: job identifier, logical core number, logical thread number. -/
structure Tid where
  job : Nat
  lcn : Nat
  thr : Nat
deriving DecidableEq, Repr, Inhabited

/-- An entry of a thread's handle table: its owner, slot 0-31 and sequence number (R233, R235). -/
structure HRef where
  own : Tid
  slot : Nat
  seq : Nat
deriving DecidableEq, Repr, Inhabited

/-- A flit of `send` (R219, R220): sender, destination word, payload, whether relaxed, and the acknowledgement's handle. -/
structure Flit where
  id : Nat
  sender : Tid
  src : Word
  dst : Word
  payload : Word
  rx : Bool
  ack : Option HRef
  /-- The port by which it reached its router: local 0, north 1, east 2, south 3, west 4 (R222). -/
  port : Nat := 0
  /-- The sender's JOBID on the peer device that it comes from (R395). -/
  peerJob : Nat := 0
deriving DecidableEq, Repr, Inhabited

/-- A record or cue frame (R340): sender, receiver, header and payload flits; `own` when a thread waits for its
acceptance (`rsend`). -/
structure Frame where
  id : Nat
  src : Tid
  dst : Tid
  header : Word
  body : List Word
  own : Bool
  /-- The port by which it reached its router (R341). -/
  port : Nat := 0
deriving DecidableEq, Repr, Inhabited

/-- The operations of the copy and gather units (R244, R248, R302). -/
inductive EngKind where
  | copy | copy2 | gath | scat | pfetch
deriving DecidableEq, Repr, Inhabited

/-- How far a request of an engine has come: wanted; waiting for a permit; under way to its home; in the queue of its
bank; performed; answered. -/
inductive ReqState where
  | want | asked | sent | banked | performed | done
deriving DecidableEq, Repr, Inhabited

/-- A request of an engine operation (R18, R244): a write or a read of at most 256 bytes within one 256-byte block. -/
structure EngReq where
  wr : Bool
  addr : Word
  len : Nat
  /-- Its place in the bytes of the chunk or element. -/
  at_ : Nat
  /-- The list position, for a gather, none for the index list; and the move of it. -/
  pos : Option Nat
  mv : Nat
  st : ReqState
  /-- The slice whose permit it holds or waits for, and the physical address. -/
  slice : Option Nat
  pa : Nat
  /-- The bytes to write, or those read. -/
  data : List (BitVec 8)
deriving DecidableEq, Repr, Inhabited

/-- One operation of a copy or gather unit, with its progress (R245 to R251, R302). For a copy the rows are
`rows` rows of `rowb` bytes; for a gather the fields are those of the parameter block. -/
structure EngOp where
  id : Nat
  own : Tid
  h : HRef
  pc : Word
  kind : EngKind
  rx : Bool
  dst : Word
  src : Word
  rowb : Nat
  rows : Nat
  dstr : Word
  sstr : Word
  blk : Word
  idx : Word
  idx64 : Bool
  elem : Nat
  stride : Word
  pitch : Nat
  count : Nat
  pos : Nat
  /-- `pfetch`: REPLAY list; W1 rows named; W2 rows named; rows of FETCH before it. -/
  replay : Bool
  wm : BitVec 2
  nf : Nat
  /-- Chunk within the row, for a copy, and how many of its bytes stand written when the operation stops. -/
  chunk : Nat
  doneB : Nat
  active : Bool
  cancel : Bool
  guardHit : Bool
  subst : Bool
  stop : Option (BitVec 8)
  /-- `pfetch`: the layer block captured at issue (R302). -/
  cfg : List Byte
  /-- The requests of the chunk, of the index list or of the elements in hand. -/
  reqs : Map EngReq
  /-- Why a copy stops once its requests are done: address and reason, as for `bads`. -/
  fail : Option (Word × Nat)
  /-- A walk that failed for the request in hand: address, and whether it writes. -/
  flt : Option (Word × Bool × Cause)
  /-- A gather: reading indices 0, translating 1, moving elements 2 (R250); the cycle of the last index begun. -/
  phase : Nat
  begun : Nat
  /-- The indices of the batch in hand. -/
  got : Map Word
  /-- The positions of the batch still to be done, in binned order. -/
  order : List Nat
  /-- Positions that stop the operation: address and reason, 0 PROT, 1 XLAT of a read, 2 of a write, 3 outside the windows. -/
  bads : Map (Word × Nat)
  /-- `scat`: the places written in the batch in hand: position, place, first byte and length (R249). -/
  wrote : List (Nat × Nat × Nat × Nat)
deriving DecidableEq, Repr, Inhabited

/-- What the owning table answers to an adoption request (R242). -/
inductive AdoptReply where
  | refused
  | word (c : Word)
  | bound (h : HRef)
deriving DecidableEq, Repr

/-- An arrival at a link rendezvous (R269). -/
structure SpanArr where
  w : Tid
  dir : Dir
  link : Nat
  lead : Bool
  tag : BitVec 16
  round : BitVec 16
  t : Ty
  scl : Bool
  kt : Nat
  slot : Nat
  keep : Bool
  bop : Bool
  d : HReg
deriving DecidableEq, Repr

/-- What an entry of the decision-diagram command queue asks for (R308, R309). -/
inductive DdKind where
  | cfg (a : Word)
  | ord (u l : Nat)
  | wset (u : Nat) (side : Bool) (v : Word)
  | ref (n : Nat)
  | deref (n : Nat)
  | node (n : Nat) (d : SReg)
  | mk (v h l : Nat)
  | apply (tt : BitVec 4) (f g : Nat)
  | ite (f g h : Nat)
  | restr (f u : Nat) (b : Bool)
  | exist (f c : Nat)
  | count (r : Nat) (res : Word) (weighted : Bool)
  | gc
deriving DecidableEq, Repr

/-- One entry of the decision-diagram command queue (R316): the thread, its handle if it is an operation, the address
of its instruction and the logical cluster. -/
structure DdEntry where
  w : Tid
  clu : Nat
  h : Option HRef
  pc : Word
  kind : DdKind
deriving DecidableEq, Repr

/-- An access to the cast table at its home (R337, R344, R345): the requests, that of `exit` (R344), `redcfg` (R358), and
the home's answers, which name the register and value, the new STG, or the stage whose standby is taken. -/
inductive CastReq where
  | get (stage : Nat) (d : SReg)
  | set (stage : Nat) (user : BitVec 8)
  | offer (stage : Nat) (cid : BitVec 20)
  | withdraw (stage : Nat)
  | leave
  | group (id : Nat) (blk : List Byte) (devs : List Nat)
  | got (d : SReg) (v : Word)
  | did (stg : Option Word)
  | no (stage : Nat)
deriving DecidableEq, Repr

/-- The roles of R347: the first stage p or u; q or d, which follows the change; s; a stage that passes the cue; and the
injector that consumes a FAIL cue. -/
inductive CueRole where
  | first | last | s | pass | injector
deriving DecidableEq, Repr

/-- A cue as a thread takes it (R346, R347): the thread, its role, the register that receives the result (none for
`cue`), the home's answer to an arm, commit or release on its way back, and whether the thread waits for it. -/
structure CueTake where
  w : Tid
  cue : Word
  d : Option SReg
  role : CueRole
  answer : Option Nat
  waits : Bool
deriving DecidableEq, Repr

/-- A bind, open or unbind token (R347, R349, R350): the receiver, the binding values it carries, and for the new stage of
a REBIND the upstream thread that it opens (R349). -/
structure Token where
  dst : Tid
  ups : Word
  dns : Word
  stg : Word
  opens : Option Tid
  port : Nat := 0
deriving DecidableEq, Repr

/-- A stage-state transfer (R351). -/
structure StateXfer where
  id : Nat
  src : Tid
  stage : Nat
  addr : Word
  len : Nat
  h : HRef
  standby : Option Tid
  cid : BitVec 20
  /-- On its way to the home 0, with the home's answer 1, to the standby 2, acknowledged 3, resolved at the standby 4. -/
  phase : Nat
  bytes : List Byte
  guardHit : Bool
  subst : Bool
deriving DecidableEq, Repr

/-- The instructions that contribute to a reduction (R357). -/
inductive RedKind where
  | redv | reds | bcastv
deriving DecidableEq, Repr

/-- One contribution to a reduction (R360, R361): lanes for `redv` and `bcastv`, one value for `reds`; the result address
and the handle. -/
structure RedCon where
  w : Tid
  kind : RedKind
  op : FOp
  t : Ty
  rm : Rm
  sat : Bool
  vals : List Word
  res : Word
  h : HRef
deriving DecidableEq, Repr

/-- What one device tells another about a reduction (R361, R362): the sender's rank, its GEN, the contribution of its root, its
total in the combining view, the result when it comes from the device above, the flags, and whether anything disagreed. -/
structure RedMsg where
  rank : Nat
  gen : BitVec 32
  con : RedCon
  sub : List (BitVec 80)
  result : Option (List Word)
  flags : FlagBits
  mismatch : Bool
deriving DecidableEq, Repr

/-- The choices of the stage manager at a launch that the manual leaves to it: the frames of the job's pages, the place of
the translation tables, SVEC and the start cycle (R88, R113, R114, R368, R392). -/
structure LaunchPlan where
  /-- Physical address that backs the image's first page; the image's pages follow it. -/
  frames : Nat
  /-- Physical address of the root table; further tables follow it, 512 bytes each. -/
  tables : Nat
  /-- The other pages of the job, the argument block's among them: virtual base, frame, and R, W, X, AT. -/
  extra : List (Nat × Nat × BitVec 4)
  /-- The system handler. -/
  svec : Word
  /-- Cycles from the load to S. -/
  start : Nat
deriving DecidableEq, Repr, Inhabited

/-- One action of the stage manager in a spatial pre-emption, which the manual leaves it to choose (R111, R30): vacate a
physical cluster, write a map-table entry, give a cluster's cores the registers of a job, or resume a logical cluster. -/
inductive PreStep where
  | vacate (pcl : Nat) (base : Word)
  | map (pcl idx : Nat) (e : BitVec 32)
  | assign (pcl job : Nat)
  | resume (clu pcl : Nat) (base : Word)
deriving DecidableEq, Repr, Inhabited

/-! ### What some steps of the machine carry -/

/-- A code line that is here: its address, and the slice whose last block came, if it was read from the pool (R108, R195). -/
structure LineIn where
  line : Word
  slice : Option Nat
deriving DecidableEq, Repr

/-- A packet at a router, and whether it is buffered there (R20). -/
structure Hop where
  pid : Nat
  buffered : Bool
deriving DecidableEq, Repr

/-- A turn of an operation of a unit, or of a delivery, by its number: a request of it that has come to its place or back, if
any (R244, R250, R279). -/
structure Turn where
  id : Nat
  req : Option Nat
deriving DecidableEq, Repr

/-- What a node of a reduction combines: the child whose subtotal comes, and the message of another device, if any (R362). -/
structure RedIn where
  src : Option Nat
  msg : Option RedMsg
deriving DecidableEq, Repr

/-- The node that a result of a reduction reaches, and the message of another device that brings it, if any (R362). -/
structure RedOut where
  node : Nat
  msg : Option RedMsg
deriving DecidableEq, Repr

/-- The instructions and the steps of the machine, one constructor per row of the opcode table. -/
inductive Instr where
  /-- R107. Occupies its issue slot and has no effect. -/
  | nop (g : Gd)
  /-- R96. Writes the sum of A and B or the immediate, modulo 2^64, or the sign-extended 32-bit sum with MD=1. -/
  | add (g : Gd) (w : Bool) (d : SReg) (a : SReg) (b : Src)
  /-- R96. Writes A minus B or the immediate, wrapping. -/
  | sub (g : Gd) (w : Bool) (d : SReg) (a : SReg) (b : Src)
  /-- R96. Writes the low half of the product of A and B. -/
  | mul (g : Gd) (w : Bool) (d : SReg) (a : SReg) (b : Src)
  /-- R96. Writes the high half of the signed product of A and B. -/
  | mulh (g : Gd) (w : Bool) (d : SReg) (a : SReg) (b : Src)
  /-- R96. Writes the high half of the unsigned product of A and B. -/
  | mulhu (g : Gd) (w : Bool) (d : SReg) (a : SReg) (b : Src)
  /-- R97. Writes the signed quotient truncated toward zero; division by zero sets DZ and the overflow case sets OF. -/
  | div (g : Gd) (w : Bool) (la : BitVec 4) (d : SReg) (a : SReg) (b : Src)
  /-- R97. Writes the unsigned quotient; division by zero gives all ones and sets DZ. -/
  | divu (g : Gd) (w : Bool) (la : BitVec 4) (d : SReg) (a : SReg) (b : Src)
  /-- R97. Writes the signed remainder, which takes the sign of the dividend; division by zero sets DZ. -/
  | rem (g : Gd) (w : Bool) (la : BitVec 4) (d : SReg) (a : SReg) (b : Src)
  /-- R97. Writes the unsigned remainder; division by zero sets DZ. -/
  | remu (g : Gd) (w : Bool) (la : BitVec 4) (d : SReg) (a : SReg) (b : Src)
  /-- R96. Writes the bitwise AND of A and B. -/
  | and (g : Gd) (d : SReg) (a : SReg) (b : Src)
  /-- R96. Writes the bitwise OR of A and B. -/
  | or (g : Gd) (d : SReg) (a : SReg) (b : Src)
  /-- R96. Writes the bitwise XOR of A and B. -/
  | xor (g : Gd) (d : SReg) (a : SReg) (b : Src)
  /-- R96. Writes A AND NOT B. -/
  | andn (g : Gd) (d : SReg) (a : SReg) (b : Src)
  /-- R96. Shifts A left by the count taken modulo the width. -/
  | shl (g : Gd) (w : Bool) (d : SReg) (a : SReg) (b : Src)
  /-- R96. Shifts A right logically, with zeros entering. -/
  | shr (g : Gd) (w : Bool) (d : SReg) (a : SReg) (b : Src)
  /-- R96. Shifts A right arithmetically, with copies of the sign bit entering. -/
  | sar (g : Gd) (w : Bool) (d : SReg) (a : SReg) (b : Src)
  /-- R96. Rotates A left by the count. -/
  | rol (g : Gd) (w : Bool) (d : SReg) (a : SReg) (b : Src)
  /-- R98. Writes the count of leading zeros of A. -/
  | clz (g : Gd) (w : Bool) (d : SReg) (a : SReg)
  /-- R98. Writes the count of trailing zeros of A. -/
  | ctz (g : Gd) (w : Bool) (d : SReg) (a : SReg)
  /-- R98. Writes the count of one bits in A. -/
  | popc (g : Gd) (w : Bool) (d : SReg) (a : SReg)
  /-- R96. Writes the signed minimum of A and B. -/
  | min (g : Gd) (w : Bool) (d : SReg) (a : SReg) (b : Src)
  /-- R96. Writes the signed maximum of A and B. -/
  | max (g : Gd) (w : Bool) (d : SReg) (a : SReg) (b : Src)
  /-- R96. Writes the unsigned minimum of A and B. -/
  | minu (g : Gd) (w : Bool) (d : SReg) (a : SReg) (b : Src)
  /-- R96. Writes the unsigned maximum of A and B. -/
  | maxu (g : Gd) (w : Bool) (d : SReg) (a : SReg) (b : Src)
  /-- R99. Writes A or B, as the predicate named in FN selects. -/
  | sel (g : Gd) (p : BitVec 3) (d : SReg) (a : SReg) (b : Src)
  /-- R100. Writes the sign-extended immediate. -/
  | movi (g : Gd) (d : SReg) (imm : BitVec 32)
  /-- R100. Writes the immediate in the high half over the low half of A. -/
  | movhi (g : Gd) (d : SReg) (a : SReg) (imm : BitVec 32)
  /-- R101. Extracts a bit field of A and sign-extends it. -/
  | bext (g : Gd) (pos : BitVec 6) (len : BitVec 6) (d : SReg) (a : SReg) (b : Src)
  /-- R101. Extracts a bit field of A and zero-extends it. -/
  | bextu (g : Gd) (pos : BitVec 6) (len : BitVec 6) (d : SReg) (a : SReg) (b : Src)
  /-- R101. Inserts the low bits of B into a field of A. -/
  | bins (g : Gd) (pos : BitVec 6) (len : BitVec 6) (d : SReg) (a : SReg) (b : Src)
  /-- R98. Sign-extends A from 8, 16 or 32 bits. -/
  | sext (g : Gd) (wd : Wd) (d : SReg) (a : SReg)
  /-- R98. Reverses the byte order of A. -/
  | bswap (g : Gd) (w : Bool) (d : SReg) (a : SReg)
  /-- R98. Copies a scalar register into another, in either bank. -/
  | mov (g : Gd) (d : SReg) (a : SReg)
  /-- R106. Branches to PC plus 12 times the immediate. -/
  | br (g : Gd) (imm : BitVec 32)
  /-- R106. Jumps to A plus the displacement, raising PC_ALIGN when the target is not a valid PC. -/
  | jmp (g : Gd) (a : SReg) (imm : BitVec 32)
  /-- R106. Writes the link and branches by an instruction count. -/
  | call (g : Gd) (d : SReg) (imm : BitVec 32)
  /-- R106. Writes the link and jumps to A plus the displacement. -/
  | callr (g : Gd) (d : SReg) (a : SReg) (imm : BitVec 32)
  /-- R102. Sets a predicate from an integer comparison of A and B. -/
  | cmp (g : Gd) (w : Bool) (cnd : ICond) (d : QReg) (a : SReg) (b : Src)
  /-- R103. Sets a predicate from whether A AND B is non-zero. -/
  | tst (g : Gd) (zero : Bool) (d : QReg) (a : SReg) (b : Src)
  /-- R104. Sets a predicate by a truth table applied to two predicates. -/
  | plog (g : Gd) (tt : BitVec 4) (d : QReg) (a : QReg) (b : QReg)
  /-- R105. Writes the predicates selected in FN from the bits of A. -/
  | pset (g : Gd) (qm : BitVec 7) (a : SReg)
  /-- R105. Writes all eight predicates into a register. -/
  | pget (g : Gd) (d : SReg)
  /-- R106. Decrements D and branches when the result is non-zero. -/
  | dbnz (g : Gd) (d : SReg) (imm : BitVec 32)
  /-- R110. Waits until a cycle bound passes or every same-numbered thread of the cluster waits at the same syncf. -/
  | syncf (g : Gd) (imm : BitVec 32)
  /-- R119. Initializes a free helper thread at an entry point with an argument and writes a pending handle to it. -/
  | start (g : Gd) (th : BitVec 4) (d : HReg) (a : SReg) (b : Src)
  /-- R121. Drains and ends the thread; a helper's handle resolves with its exit value. -/
  | exit (g : Gd) (a : SReg)
  /-- R118. Reads a special register into a scalar register. -/
  | gets (g : Gd) (d : SReg) (imm : BitVec 32)
  /-- R118. Writes a scalar register into a special register. -/
  | sets (g : Gd) (a : SReg) (imm : BitVec 32)
  /-- R123. Computes this core's tile origin and edge masks from GEOM0, GEOM1 and LCN. -/
  | tilepos (g : Gd) (d : SReg)
  /-- R125. Waits a number of cycles before the thread issues again. -/
  | sleep (g : Gd) (a : SReg) (imm : BitVec 32)
  /-- R124. Builds an absolute, relative or cluster-window scratch address. -/
  | mkadr (g : Gd) (form : AdrForm) (d : SReg) (a : SReg) (b : Src)
  /-- R126. Reads one slot-table entry in its logical view. -/
  | slotrd (g : Gd) (d : SReg) (imm : BitVec 32)
  /-- R127. Reports the state, flags, wait kind and generation of a thread of the core. -/
  | thrst (g : Gd) (d : SReg) (a : SReg)
  /-- R141. Converts a scalar value between any two types under RM and SAT. -/
  | cvt (g : Gd) (t : Ty) (rm : Rm) (sat : Bool) (src : Ty) (d : SReg) (a : SReg)
  /-- R149. Writes the correctly rounded float sum. -/
  | fadd (g : Gd) (t : Ty) (rm : Rm) (d : SReg) (a : SReg) (b : SReg)
  /-- R149. Writes the correctly rounded float difference. -/
  | fsub (g : Gd) (t : Ty) (rm : Rm) (d : SReg) (a : SReg) (b : SReg)
  /-- R149. Writes the correctly rounded float product. -/
  | fmul (g : Gd) (t : Ty) (rm : Rm) (d : SReg) (a : SReg) (b : SReg)
  /-- R149. Writes A times B plus D, fused and rounded once. -/
  | ffma (g : Gd) (t : Ty) (rm : Rm) (d : SReg) (a : SReg) (b : SReg)
  /-- R149. Writes the correctly rounded float quotient. -/
  | fdiv (g : Gd) (la : BitVec 4) (t : Ty) (rm : Rm) (d : SReg) (a : SReg) (b : SReg)
  /-- R149. Writes the correctly rounded square root. -/
  | fsqrt (g : Gd) (la : BitVec 4) (t : Ty) (rm : Rm) (d : SReg) (a : SReg)
  /-- R150. Writes the smaller float operand, with NaN handling. -/
  | fmin (g : Gd) (t : Ty) (d : SReg) (a : SReg) (b : SReg)
  /-- R150. Writes the larger float operand, with NaN handling. -/
  | fmax (g : Gd) (t : Ty) (d : SReg) (a : SReg) (b : SReg)
  /-- R151. Sets a predicate from a float comparison. -/
  | fcmp (g : Gd) (t : Ty) (cnd : FCond) (d : QReg) (a : SReg) (b : SReg)
  /-- R152. Writes a one-hot class word for a float value. -/
  | fclass (g : Gd) (t : Ty) (d : SReg) (a : SReg)
  /-- R145. Converts every lane between lane types. -/
  | vcvt (g : Gd) (t : Ty) (rm : Rm) (sat : Bool) (src : Ty) (d : VReg) (a : VReg)
  /-- R146. Converts 128 lanes of two vectors into a packed narrow vector. -/
  | vpack (g : Gd) (t : Ty) (rm : Rm) (sat : Bool) (d : VReg) (a : VReg) (b : VReg)
  /-- R147. Widens one part of a packed vector into 64 lanes. -/
  | vunpk (g : Gd) (t : Ty) (part : BitVec 2) (d : VReg) (a : VReg)
  /-- R165. Adds lanes under the write mask. -/
  | vadd (g : Gd) (t : Ty) (rm : Rm) (sat : Bool) (km : BitVec 3) (d : VReg) (a : VReg) (b : VSrc)
  /-- R165. Subtracts lanes under the write mask. -/
  | vsub (g : Gd) (t : Ty) (rm : Rm) (sat : Bool) (km : BitVec 3) (d : VReg) (a : VReg) (b : VSrc)
  /-- R165. Multiplies lanes under the write mask. -/
  | vmul (g : Gd) (t : Ty) (rm : Rm) (sat : Bool) (km : BitVec 3) (d : VReg) (a : VReg) (b : VSrc)
  /-- R165. Computes a times b plus d per lane, fused. -/
  | vfma (g : Gd) (t : Ty) (rm : Rm) (sat : Bool) (km : BitVec 3) (d : VReg) (a : VReg) (b : VSrc)
  /-- R165. Computes a times b minus d per lane, fused. -/
  | vfms (g : Gd) (t : Ty) (rm : Rm) (sat : Bool) (km : BitVec 3) (d : VReg) (a : VReg) (b : VSrc)
  /-- R165. Writes the lane-wise minimum. -/
  | vmin (g : Gd) (t : Ty) (km : BitVec 3) (d : VReg) (a : VReg) (b : VSrc)
  /-- R165. Writes the lane-wise maximum. -/
  | vmax (g : Gd) (t : Ty) (km : BitVec 3) (d : VReg) (a : VReg) (b : VSrc)
  /-- R167. Writes the absolute value of each lane. -/
  | vabs (g : Gd) (t : Ty) (sat : Bool) (km : BitVec 3) (d : VReg) (a : VReg)
  /-- R167. Negates each lane. -/
  | vneg (g : Gd) (t : Ty) (sat : Bool) (km : BitVec 3) (d : VReg) (a : VReg)
  /-- R172. Sends a 2^a request for all lanes to the column's transcendental unit. -/
  | vexp2 (g : Gd) (la : BitVec 4) (km : BitVec 3) (d : VReg) (a : VReg)
  /-- R172. Sends a log2 request for all lanes to the transcendental unit. -/
  | vlog2 (g : Gd) (la : BitVec 4) (km : BitVec 3) (d : VReg) (a : VReg)
  /-- R172. Sends a reciprocal request for all lanes to the transcendental unit. -/
  | vrcp (g : Gd) (la : BitVec 4) (km : BitVec 3) (d : VReg) (a : VReg)
  /-- R172. Sends a reciprocal square root request for all lanes to the transcendental unit. -/
  | vrsq (g : Gd) (la : BitVec 4) (km : BitVec 3) (d : VReg) (a : VReg)
  /-- R170. Writes a lane mask from a lane comparison. -/
  | vcmp (g : Gd) (t : Ty) (km : BitVec 3) (cnd : FCond) (d : KReg) (a : VReg) (b : VSrc)
  /-- R175. Selects each lane from A or B by a mask. -/
  | vsel (g : Gd) (km : BitVec 3) (d : VReg) (a : VReg) (b : VReg)
  /-- R168. Applies a bitwise AND to the lanes. -/
  | vand (g : Gd) (km : BitVec 3) (d : VReg) (a : VReg) (b : VSrc)
  /-- R168. Applies a bitwise OR to the lanes. -/
  | vor (g : Gd) (km : BitVec 3) (d : VReg) (a : VReg) (b : VSrc)
  /-- R168. Applies a bitwise XOR to the lanes. -/
  | vxor (g : Gd) (km : BitVec 3) (d : VReg) (a : VReg) (b : VSrc)
  /-- R168. Shifts each lane left. -/
  | vshl (g : Gd) (km : BitVec 3) (d : VReg) (a : VReg) (b : VSrc)
  /-- R168. Shifts each lane right logically. -/
  | vshr (g : Gd) (km : BitVec 3) (d : VReg) (a : VReg) (b : VSrc)
  /-- R168. Shifts each lane right arithmetically. -/
  | vsar (g : Gd) (km : BitVec 3) (d : VReg) (a : VReg) (b : VSrc)
  /-- R168. Writes the count of one bits of each lane. -/
  | vpopc (g : Gd) (km : BitVec 3) (d : VReg) (a : VReg)
  /-- R169. Accumulates four byte products into each lane. -/
  | vdot4 (g : Gd) (t : Ty) (sat : Bool) (km : BitVec 3) (d : VReg) (a : VReg) (b : VSrc)
  /-- R171. Sums the masked lanes by a fixed tree into a scalar. -/
  | vsum (g : Gd) (t : Ty) (rm : Rm) (sat : Bool) (km : BitVec 3) (d : SReg) (a : VReg)
  /-- R171. Writes the maximum of the masked lanes to a scalar. -/
  | vmaxr (g : Gd) (t : Ty) (km : BitVec 3) (d : SReg) (a : VReg)
  /-- R166. Computes a times a scalar plus d per lane. -/
  | vfmas (g : Gd) (t : Ty) (rm : Rm) (sat : Bool) (km : BitVec 3) (d : VReg) (a : VReg) (b : Src)
  /-- R166. Multiplies each lane by a scalar. -/
  | vscal (g : Gd) (t : Ty) (rm : Rm) (sat : Bool) (km : BitVec 3) (d : VReg) (a : VReg) (b : Src)
  /-- R175. Copies lanes under the mask. -/
  | vmov (g : Gd) (km : BitVec 3) (d : VReg) (a : VReg)
  /-- R175. Broadcasts a scalar into the lanes. -/
  | vbcast (g : Gd) (km : BitVec 3) (d : VReg) (a : SReg)
  /-- R176. Reads one lane into a scalar register. -/
  | vget (g : Gd) (xs : Bool) (d : SReg) (a : VReg) (b : Src)
  /-- R176. Writes a scalar into one lane. -/
  | vput (g : Gd) (d : VReg) (a : SReg) (b : Src)
  /-- R175. Permutes lanes by an index vector. -/
  | vperm (g : Gd) (km : BitVec 3) (d : VReg) (a : VReg) (b : VReg)
  /-- R175. Rotates lanes by a scalar count. -/
  | vrot (g : Gd) (km : BitVec 3) (d : VReg) (a : VReg) (b : Src)
  /-- R177. Compresses the selected lanes to the bottom of the vector. -/
  | vcomp (g : Gd) (km : BitVec 3) (d : VReg) (a : VReg)
  /-- R177. Expands low lanes into the selected lane positions. -/
  | vexpd (g : Gd) (km : BitVec 3) (d : VReg) (a : VReg)
  /-- R177. Writes the prefix count of the mask into each lane. -/
  | viota (g : Gd) (km : BitVec 3) (d : VReg)
  /-- R178. Combines two masks by a truth table. -/
  | kop (g : Gd) (tt : BitVec 4) (d : KReg) (a : KReg) (b : KReg)
  /-- R178. Writes the count of set bits of a mask. -/
  | kpopc (g : Gd) (d : SReg) (a : KReg)
  /-- R178. With MD=0, writes a scalar register into a mask. -/
  | kmovToMask (g : Gd) (d : KReg) (a : SReg)
  /-- R178. With MD=1, writes a mask into a scalar register. -/
  | kmovFromMask (g : Gd) (d : SReg) (a : KReg)
  /-- R178. Writes the index of the lowest set mask bit, or 64 when the mask is empty. -/
  | kfirst (g : Gd) (d : SReg) (a : KReg)
  /-- R185. Loads a scalar element from memory. -/
  | ld (g : Gd) (la : BitVec 4) (rx : Bool) (t : Ty) (d : SReg) (a : SReg) (ix : Idx) (imm : BitVec 32)
  /-- R185. Stores a scalar element to memory, ordinary or posted. -/
  | st (g : Gd) (rx : Bool) (t : Ty) (d : SReg) (a : SReg) (ix : Idx) (imm : BitVec 32)
  /-- R186. Loads consecutive elements into lanes. -/
  | vld (g : Gd) (la : BitVec 4) (rx : Bool) (t : Ty) (cnt : BitVec 8) (d : VReg) (a : SReg) (ix : Idx) (imm : BitVec 32)
  /-- R186. Stores lanes to consecutive elements. -/
  | vst (g : Gd) (rx : Bool) (t : Ty) (cnt : BitVec 8) (d : VReg) (a : SReg) (ix : Idx) (imm : BitVec 32)
  /-- R186. Loads strided elements into lanes. -/
  | vlds (g : Gd) (la : BitVec 4) (rx : Bool) (t : Ty) (cnt : BitVec 8) (d : VReg) (a : SReg) (b : SReg) (imm : BitVec 32)
  /-- R186. Stores lanes to strided elements. -/
  | vsts (g : Gd) (rx : Bool) (t : Ty) (cnt : BitVec 8) (d : VReg) (a : SReg) (b : SReg) (imm : BitVec 32)
  /-- R186. Loads elements at indexed scratch addresses. -/
  | vldx (g : Gd) (la : BitVec 4) (rx : Bool) (t : Ty) (sh : BitVec 3) (cnt : BitVec 8) (d : VReg) (a : SReg) (b : VReg) (imm : BitVec 32)
  /-- R186. Stores lanes to indexed scratch addresses. -/
  | vstx (g : Gd) (rx : Bool) (t : Ty) (sh : BitVec 3) (cnt : BitVec 8) (d : VReg) (a : SReg) (b : VReg) (imm : BitVec 32)
  /-- R189. Waits for a full word, takes it and sets it empty. -/
  | ldf (g : Gd) (la : BitVec 4) (t : Ty) (d : SReg) (a : SReg) (ix : Idx) (imm : BitVec 32)
  /-- R189. Waits for a full word and reads it without changing FE. -/
  | ldp (g : Gd) (la : BitVec 4) (t : Ty) (d : SReg) (a : SReg) (ix : Idx) (imm : BitVec 32)
  /-- R189. Waits for an empty word, writes it and sets it full. -/
  | ste (g : Gd) (t : Ty) (d : SReg) (a : SReg) (ix : Idx) (imm : BitVec 32)
  /-- R189. Writes a word and sets it full without waiting. -/
  | stf (g : Gd) (rx : Bool) (t : Ty) (d : SReg) (a : SReg) (ix : Idx) (imm : BitVec 32)
  /-- R191. Sets the FE bits of a scratch range to empty or full. -/
  | fe (g : Gd) (full : Bool) (a : SReg) (b : SReg) (imm : BitVec 32)
  /-- R201. Looks up a key in the tag table and writes a hit offset or miss word. -/
  | tlook (g : Gd) (la : BitVec 4) (gs : BitVec 5) (d : SReg) (a : SReg)
  /-- R201. Writes a tag-table entry and advances the victim pointer. -/
  | tset (g : Gd) (gs : BitVec 5) (a : SReg) (b : SReg)
  /-- R201. Clears the tag-table entry that matches a key. -/
  | tinv (g : Gd) (gs : BitVec 5) (a : SReg)
  /-- R201. With all set, clears every tag-table entry. -/
  | tinvAll (g : Gd)
  /-- R203. Marks or unmarks the guard granules of a scratch range. -/
  | guard (g : Gd) (set : Bool) (a : SReg) (b : SReg) (imm : BitVec 32)
  /-- R205. Waits for all posted accesses and raises STORE_FAULT when the queue holds a record. -/
  | drain (g : Gd)
  /-- R206. Waits until earlier relaxed accesses in a scope instance are performed. -/
  | fence (g : Gd) (sc : Scope)
  /-- R200. Probes an address translation and reports its permissions without faulting. -/
  | xlat (g : Gd) (la : BitVec 4) (d : SReg) (a : SReg) (imm : BitVec 32)
  /-- R192. Performs an indivisible integer read-modify-write and returns the old value. -/
  | amo (g : Gd) (la : BitVec 4) (rx : Bool) (t : Ty) (op : AmoOp) (d : SReg) (a : SReg) (b : SReg) (imm : BitVec 32)
  /-- R192. Performs an indivisible compare-and-swap. -/
  | cas (g : Gd) (la : BitVec 4) (rx : Bool) (t : Ty) (d : SReg) (a : SReg) (b : SReg) (imm : BitVec 32)
  /-- R192. Performs an indivisible float add, min or max and returns the old value. -/
  | famo (g : Gd) (la : BitVec 4) (rx : Bool) (t : Ty) (rm : Rm) (op : FOp) (d : SReg) (a : SReg) (b : SReg) (imm : BitVec 32)
  /-- R193. Performs an integer atomic update with no result. -/
  | rupd (g : Gd) (rx : Bool) (t : Ty) (op : AmoOp) (a : SReg) (b : SReg) (imm : BitVec 32)
  /-- R193. Performs a float atomic update with no result. -/
  | frupd (g : Gd) (rx : Bool) (t : Ty) (rm : Rm) (op : FOp) (a : SReg) (b : SReg) (imm : BitVec 32)
  /-- R209. Arms a monitor on a 64-byte line. -/
  | mon (g : Gd) (mi : BitVec 2) (a : SReg) (imm : BitVec 32)
  /-- R209. Disarms all four monitors of the thread. -/
  | monc (g : Gd)
  /-- R211. Waits for a monitor trigger, a queued message or a timeout. -/
  | waitm (g : Gd) (mq : Bool) (d : SReg) (a : SReg)
  /-- R215. Arrives at a barrier counter and waits for the phase to complete. -/
  | bar (g : Gd) (bc : BitVec 4)
  /-- R215. Arrives at a barrier counter without waiting. -/
  | bara (g : Gd) (bc : BitVec 4) (d : SReg)
  /-- R215. Waits while the thread's barrier arrival is pending. -/
  | barw (g : Gd) (bc : BitVec 4)
  /-- R216. Sets a counter's COUNT and resets the thread's expected phase. -/
  | barset (g : Gd) (bc : BitVec 4) (a : SReg)
  /-- R221. Injects a 64-bit flit to a destination thread, optionally with an acknowledgement handle. -/
  | send (g : Gd) (rx : Bool) (d : HReg) (a : SReg) (b : Src)
  /-- R224. Takes the head flit of the receive queue, waiting while it is empty. -/
  | recv (g : Gd) (d : SReg)
  /-- R224. Takes a flit within a cycle bound and sets a predicate. -/
  | trecv (g : Gd) (p : BitVec 3) (d : SReg) (a : SReg)
  /-- R226. Writes the queue status or the head sender's identity. -/
  | mqst (g : Gd) (src : Bool) (d : SReg)
  /-- R245. Queues a block copy on the cluster copy unit and writes a handle. -/
  | copy (g : Gd) (rx : Bool) (d : HReg) (a : SReg) (b : SReg) (imm : BitVec 32)
  /-- R246. Queues a two-dimensional copy described by a shape block. -/
  | copy2 (g : Gd) (rx : Bool) (d : HReg) (a : SReg) (b : SReg) (imm : BitVec 32)
  /-- R249. Queues an indexed gather from a parameter block. -/
  | gath (g : Gd) (rx : Bool) (d : HReg) (a : SReg)
  /-- R249. Queues an indexed scatter from a parameter block. -/
  | scat (g : Gd) (rx : Bool) (d : HReg) (a : SReg)
  /-- R238. Waits for a handle and writes a field of its completion word. -/
  | hval (g : Gd) (fld : BitVec 2) (d : SReg) (a : HReg)
  /-- R239. Sets a predicate from whether a handle has resolved, without waiting. -/
  | htest (g : Gd) (d : QReg) (a : HReg)
  /-- R240. Sends a cancel request for a pending copy, gather, scatter or pfetch. -/
  | hcancel (g : Gd) (a : HReg)
  /-- R241. Turns a handle entry into a passed entry and writes its identity. -/
  | hpass (g : Gd) (d : SReg) (a : HReg)
  /-- R242. Sends an adoption request for a passed handle identity. -/
  | hadopt (g : Gd) (d : HReg) (a : SReg)
  /-- R269. Presents a lead arrival at a link rendezvous and writes the product handle on acceptance. -/
  | sopen (g : Gd) (t : Ty) (dir : Dir) (slot : BitVec 2) (scl : Bool) (keep : Bool) (bop : Bool) (d : HReg) (a : SReg) (b : SReg)
  /-- R269. Presents a partner arrival at a link rendezvous. -/
  | sjoin (g : Gd) (t : Ty) (dir : Dir) (scl : Bool) (d : HReg) (a : SReg) (b : SReg)
  /-- R274. Queues K-steps of operand rows from own scratch for a bound product. -/
  | sfeed (g : Gd) (dir : Dir) (a : SReg) (b : SReg) (imm : BitVec 32)
  /-- R276. Queues scale blocks for a scaled product. -/
  | sscale (g : Gd) (dir : Dir) (a : SReg) (b : SReg)
  /-- R278. Closes the lead's product and names the destination and done word of its tile. -/
  | sclose (g : Gd) (t : Ty) (rm : Rm) (sat : Bool) (dir : Dir) (a : SReg) (b : SReg) (imm : BitVec 32)
  /-- R280. With rdl, redelivers or releases a held slot. -/
  | scloseRdl (g : Gd) (t : Ty) (rm : Rm) (sat : Bool) (dir : Dir) (slot : BitVec 2) (a : SReg) (b : SReg) (imm : BitVec 32)
  /-- R281. Aborts the product in a slot of a link that the thread is party to. -/
  | sabort (g : Gd) (dir : Dir) (slot : BitVec 2)
  /-- R282. Reads one item of span state. -/
  | sstat (g : Gd) (d : SReg) (a : SReg)
  /-- R271. Advances the span round and clears the link order. -/
  | sround (g : Gd)
  /-- R296. Loads and checks a layer block and sends it to the prompter as CFG. -/
  | pcfg (g : Gd) (a : SReg)
  /-- R297. Queues a neuron prediction and replay selection on the prompter. -/
  | pplan (g : Gd) (d : HReg) (a : SReg) (b : SReg)
  /-- R302. Queues a gather of the listed weight rows into member scratch. -/
  | pfetch (g : Gd) (replay : Bool) (wm : BitVec 2) (d : HReg) (a : SReg)
  /-- R304. Reads a prompter counter. -/
  | pstat (g : Gd) (d : SReg) (imm : BitVec 32)
  /-- R311. Sets the DDE configuration and initialises the store. -/
  | ddcfg (g : Gd) (a : SReg)
  /-- R314. Moves a variable to a level by an exchange. -/
  | ddord (g : Gd) (a : SReg) (b : SReg)
  /-- R321. Writes a variable weight into the weight table. -/
  | ddwset (g : Gd) (a : SReg) (b : SReg)
  /-- R318. Queues the creation or lookup of a node. -/
  | ddmk (g : Gd) (d : HReg) (a : SReg) (b : SReg) (imm : BitVec 32)
  /-- R319. Queues a binary operation of two diagrams. -/
  | ddapply (g : Gd) (tt : BitVec 4) (d : HReg) (a : SReg) (b : SReg)
  /-- R319. Queues an if-then-else of three diagrams. -/
  | ddite (g : Gd) (d : HReg) (a : SReg) (b : SReg)
  /-- R319. Queues the restriction of a variable to a value. -/
  | ddrestr (g : Gd) (d : HReg) (a : SReg) (b : SReg)
  /-- R319. Queues existential quantification over a cube. -/
  | ddexist (g : Gd) (d : HReg) (a : SReg) (b : SReg)
  /-- R322. Queues a model count written as a80. -/
  | ddcount (g : Gd) (d : HReg) (a : SReg)
  /-- R322. Queues a weighted model count written as f64. -/
  | ddwcount (g : Gd) (d : HReg) (a : SReg)
  /-- R323. Raises a node's reference count. -/
  | ddref (g : Gd) (a : SReg)
  /-- R323. Lowers a node's reference count. -/
  | dderef (g : Gd) (a : SReg)
  /-- R324. Queues collection of every node with count 0. -/
  | ddgc (g : Gd) (d : HReg)
  /-- R327. Reads a node's two words consistently. -/
  | ddnode (g : Gd) (d : SReg) (a : SReg)
  /-- R328. Reads a DDE counter. -/
  | ddstat (g : Gd) (d : SReg) (imm : BitVec 32)
  /-- R342. Sends a record frame to the downstream stage, waiting for OPEN. -/
  | rsend (g : Gd) (a : SReg) (b : SReg)
  /-- R343. Takes the head frame of the record inbox. -/
  | rrecv (g : Gd) (d : SReg) (a : SReg)
  /-- R344. Registers the thread as standby for a stage. -/
  | cbindOffer (g : Gd) (a : SReg) (b : SReg)
  /-- R344. Withdraws the thread's standby registration. -/
  | cbindWithdraw (g : Gd) (a : SReg) (b : SReg)
  /-- R345. Reads a cast-table entry at its home. -/
  | cget (g : Gd) (d : SReg) (a : SReg)
  /-- R345. Writes USER of a cast-table entry. -/
  | cset (g : Gd) (a : SReg) (b : SReg)
  /-- R346. Injects a cue header and takes it at the issuing stage. -/
  | cue (g : Gd) (a : SReg)
  /-- R347. Takes the head cue and acts by the thread's role in the splice. -/
  | cuetake (g : Gd) (d : SReg) (a : SReg)
  /-- R351. Sends stage state to the registered standby. -/
  | sthand (g : Gd) (d : HReg) (a : SReg) (b : SReg)
  /-- R352. Registers a landing area for stage state and writes a handle. -/
  | sttake (g : Gd) (d : HReg) (a : SReg)
  /-- R359. Configures a reduction group from a group block. -/
  | redcfg (g : Gd) (a : SReg)
  /-- R360. Contributes a 64-lane vector to a group reduction. -/
  | redv (g : Gd) (t : Ty) (rm : Rm) (sat : Bool) (grp : BitVec 3) (op : FOp) (d : HReg) (a : VReg) (b : SReg)
  /-- R360. Contributes a scalar to a group reduction. -/
  | reds (g : Gd) (t : Ty) (rm : Rm) (sat : Bool) (grp : BitVec 3) (op : FOp) (d : HReg) (a : SReg) (b : SReg)
  /-- R360. Contributes to a broadcast of the root's vector. -/
  | bcastv (g : Gd) (grp : BitVec 3) (d : HReg) (a : VReg) (b : SReg)
  /-- R373. Raises SW with the immediate as EINFO. -/
  | trap (g : Gd) (imm : BitVec 32)
  /-- R374. Waits for results and raises STORE_FAULT, GUARD or ARITH where one is due. -/
  | tfence (g : Gd)
  /-- R375. Returns from the innermost trap handler. -/
  | rfe (g : Gd)
  /-- R373. Halts the core when debug is enabled, and otherwise raises SW. -/
  | brk (g : Gd) (imm : BitVec 32)
  /-- R378. Pops or reads a trap-queue record. -/
  | tqpop (g : Gd) (w : BitVec 2) (d : SReg)
  /-- R378. Pops or reads a store-fault record, or with tr reads the job record. -/
  | sfqpop (g : Gd) (w : BitVec 2) (tr : Bool) (d : SReg)
  /-- R387. Invalidates cached translations of a page package-wide. -/
  | tlbinv (g : Gd) (a : SReg) (b : SReg)
  /-- R380. Writes a slot-table entry. -/
  | slotwr (g : Gd) (a : SReg) (b : SReg)
  /-- R383. Writes a map-table entry, checking the fold limits. -/
  | mapwr (g : Gd) (a : SReg) (b : SReg)
  /-- R384. Empties a physical cluster into the save area. -/
  | vacate (g : Gd) (d : HReg) (a : SReg)
  /-- R385. Restores a logical cluster from the save area. -/
  | resume (g : Gd) (d : HReg) (a : SReg)
  /-- R381. Suspends a thread. -/
  | tsusp (g : Gd) (a : SReg)
  /-- R381. Releases a thread's suspension. -/
  | tresm (g : Gd) (a : SReg)
  /-- R381. Halts or releases every thread of a core. -/
  | halt (g : Gd) (a : SReg)
  /-- R52. An encoding that is not an instruction raises IL_OPC, IL_RSV or IL_OPND precisely to SVEC. -/
  | illegalInstruction (c : Cause)
  /-- R92. A result lands in its register after the instruction's latency, releasing dependent instructions. -/
  | resultLands (w : Tid) (id : Nat)
  /-- R108. The instruction-fetch port delivers a code line to the threads awaiting it. -/
  | lineDelivery (pcl : Nat) (x : LineIn)
  /-- R125. A sleep's cycle count expires and the thread issues at its next slot. -/
  | sleepExpiry (w : Tid) (stamp : Nat)
  /-- R110. A syncf bound expires and releases the waiting thread. -/
  | syncfRelease (w : Tid) (stamp : Nat)
  /-- R19. A router takes a packet and forwards it by dimension order, checking the tenant region. -/
  | packetForward (x : Hop)
  /-- R21. After 8 bypass cycles a router serves its waiting traffic on that output. -/
  | starvationToken (router port : Nat)
  /-- R183. An access request taken at the owning bank or slice is performed at its home. -/
  | remoteAccess (aid part : Nat)
  /-- R188. A response or acknowledgement returns to the issuing core and lands its result. -/
  | accessResponse (aid part : Nat)
  /-- R197. The cluster walker translates a pool address through the six-level table. -/
  | translationWalk (wid : Nat)
  /-- R204. A posted access whose delivery faults is discarded and recorded in the store-fault queue. -/
  | storeFaultRecord (aid part : Nat)
  /-- R190. An FE request refused for lack of remote entries is retried 64 cycles later. -/
  | feRetry (aid part : Nat)
  /-- R211. A waitm timeout expires and the thread resumes with CAUSE 2. -/
  | waitmTimeout (w : Tid) (stamp : Nat)
  /-- R173. The transcendental unit accepts a request in arrival order. -/
  | transRequest (rid : Nat)
  /-- R173. A transcendental result lands 47 cycles after acceptance. -/
  | transResult (rid : Nat)
  /-- R214. The barrier unit takes an arrival, checks its phase and may complete the phase. -/
  | barrierArrival (w : Tid) (n : BitVec 4) (wait : Bool) (d : Option SReg)
  /-- R216. The barrier unit takes a barset and may complete the phase at once. -/
  | barsetRequest (w : Tid) (n : BitVec 4) (count : Nat)
  /-- R214. The unit's verdict returns to the arriving core, releasing its issue or raising BAR_PHASE. -/
  | barrierVerdict (w : Tid) (n : BitVec 4) (ok ph : Bool) (wait : Bool)
  /-- R215. Every waiter of a completed phase resumes 4 cycles after completion. -/
  | barrierRelease (job clu : Nat) (n : BitVec 4) (ws : List Tid)
  /-- R222. A send flit reaching its core is enqueued, refused or found dead. -/
  | flitArrival (f : Flit)
  /-- R222. A refused flit is resent 64 cycles later. -/
  | flitResend (f : Flit)
  /-- R222. A send acknowledgement returns and resolves the sender's handle OK or MSG_DEAD. -/
  | sendAck (f : Flit) (dead : Bool)
  /-- R224. A trecv bound expires with no flit, so D and the predicate are cleared. -/
  | trecvTimeout (w : Tid) (stamp : Nat)
  /-- R228. Every 1,024 cycles the call boards sample whether the job is hung. -/
  | hangSample (job : Nat)
  /-- R244. An engine operation reaches its unit's queue 4 cycles after issue. -/
  | engineEnqueue (op : EngOp)
  /-- R245. The copy unit reads and writes one 256-byte chunk of an active operation. -/
  | copyChunk (job clu : Nat) (x : Turn)
  /-- R247. A copy resolves OK, GUARD, PARTIAL, XLAT, PROT or CANCELLED. -/
  | copyResolve (job clu id : Nat)
  /-- R250. The gather unit reads a batch of 64 indices and issues binned element requests. -/
  | gatherBatch (job clu : Nat) (x : Turn)
  /-- R251. A gather or scatter resolves, writing back START when it stops. -/
  | gatherResolve (job clu id : Nat)
  /-- R240. A cancel request reaches the unit and removes or stops the operation. -/
  | cancelRequest (h : HRef)
  /-- R242. An adoption request reaches the owning handle table and is refused, answered or bound. -/
  | adoptRequest (w : Tid) (d : HReg) (id : Word)
  /-- R242. The adoption reply lands in D or raises HANDLE. -/
  | adoptReply (w : Tid) (d : HReg) (id : Word) (r : AdoptReply)
  /-- R232. An operation's completion word lands in its handle register and PEND clears. -/
  | handleCompletion (h : HRef) (c : Word) (flags : FlagBits)
  /-- R270. An arrival reaches the link rendezvous, queues, pairs or is refused with SPAN_TAG. -/
  | spanArrival (a : SpanArr)
  /-- R273. A formed product takes its accumulator slot, clearing it unless keep is set. -/
  | spanSlotTake (job link pid : Nat)
  /-- R275. A span port reads one K-step of queued rows into its buffer. -/
  | spanPortRead (job link pid : Nat) (lead : Bool)
  /-- R275. A K-step whose rows are ready computes for 32 cycles. -/
  | spanKstep (job link pid : Nat)
  /-- R291. Under emulation the lead's vector unit computes a K-step in 1,024 cycles. -/
  | spanEmulKstep (job link pid : Nat)
  /-- R155. A K-step's partial is promoted into the accumulator. -/
  | spanPromote (job link pid : Nat)
  /-- R278. The closed tile is converted and injected as writes to the destination. -/
  | spanDeliver (job link : Nat) (x : Turn)
  /-- R278. After every tile write is acknowledged, the done word is written full. -/
  | spanDoneWord (job link pid : Nat)
  /-- R279. Both product handles resolve with the product's status. -/
  | spanResolve (job link pid : Nat)
  /-- R280. A pool write fault stops delivery and leaves the slot held. -/
  | spanDeliveryStop (job link pid : Nat)
  /-- R301. The prompter sets CFG 4 cycles after pcfg's load lands. -/
  | pcfgApply (w : Tid) (adr : Word) (blk : List Byte)
  /-- R297. The prompter scores, selects and writes the list area for the active plan. -/
  | pplanRun (job clu : Nat)
  /-- R299. A plan resolves with NF, NR and the rounded remaining bound. -/
  | pplanResolve (job clu : Nat)
  /-- R316. A DD operation or command enters the command queue 4 cycles after issue. -/
  | ddEnqueue (e : DdEntry)
  /-- R316. The DDE takes the next queue entry and performs it to the end. -/
  | ddExecute (job clu : Nat)
  /-- R317. A DD operation's handle resolves with status and result. -/
  | ddResolve (job clu : Nat) (e : DdEntry) (c : Word) (flags : FlagBits)
  /-- R337. The cast-table home takes one access request and returns the response. -/
  | castAccess (w : Tid) (r : CastReq)
  /-- R348. The home arms a cue, setting BUSY on its touched entries, or fails it with a reason. -/
  | cueArm (t : CueTake)
  /-- R348. The home writes the new chain, clears BUSY and sets DONE. -/
  | cueCommit (t : CueTake)
  /-- R341. A record or cue frame reaching a thread is enqueued whole or refused. -/
  | recordFrameArrival (f : Frame)
  /-- R341. A refused frame is resent 64 cycles later. -/
  | frameResend (f : Frame)
  /-- R347. A bind token sets the new stage's STG, UPS and DNS. -/
  | bindToken (t : Token)
  /-- R349. An open token sets OPEN in the receiver's DNS and resumes threads waiting on it. -/
  | openToken (t : Token)
  /-- R350. On a failed REBIND, u's DNS is restored and the standby is unbound. -/
  | unbindToken (u : Tid) (t : Token) (cue : Word)
  /-- R350. A failed cue clears BUSY at the home and is enqueued in the injector's inbox. -/
  | cueFailReturn (t : CueTake)
  /-- R351. Stage-state flits reach the standby's landing area, and both handles resolve. -/
  | stateTransfer (x : StateXfer)
  /-- R351. State refused by a standby with no pending sttake is resent every 64 cycles. -/
  | stateResend (x : StateXfer)
  /-- R362. A reduction node combines its own contribution with its children's subtotals. -/
  | redCombine (job grp k node : Nat) (x : RedIn)
  /-- R362. The result travels down the tree and is written to each contributor's result area. -/
  | redBroadcast (job grp k : Nat) (x : RedOut)
  /-- R362. A contributor's handle resolves after its result write. -/
  | redResolve (job grp k node : Nat)
  /-- R384. A vacate finishes saving and resolves SUSPENDED. -/
  | vacateResolve (h : HRef) (pcl : Nat) (vbase : Word)
  /-- R385. A resume finishes restoring and resolves OK. -/
  | resumeResolve (h : HRef) (clu pcl : Nat) (vbase : Word)
  /-- R376. A TQACK write with the serve verdict replays the access and frees the entry. -/
  | tqackServe (pc ent : Nat)
  /-- R376. A TQACK write with the refuse verdict raises XLAT or PROT and frees the entry. -/
  | tqackRefuse (pc ent : Nat)
  /-- R396. A write changing TENANT zeroes the core's scratch, FE bits and guard map. -/
  | tenantWrite (pc : Nat) (v : Word)
  /-- R379. Writes a core register that has no row of its own through space 0xF. -/
  | coreRegWrite (pc off : Nat) (v : Word)
  /-- R113. The stage manager places a ready job, loads its image and starts every thread 0 at cycle S. -/
  | jobLaunch (job : Nat) (p : LaunchPlan)
  /-- R111. A job exceeding its waiting limit blocks lower-rank placement and triggers pre-emption. -/
  | waitlimExpiry (job : Nat)
  /-- R388. The launch-queue doorbell posts launch entries to the tenant's queue. -/
  | lqtail (vf : Nat) (tail : Word)
  /-- R390. A completion record is written when a job ends. -/
  | jobCompletion (job : Nat)
  /-- R391. A bind command waits for the peer's matching command, or is refused. -/
  | bcmdBind
  /-- R391. An unbind command drops the binding at once. -/
  | bcmdUnbind
  /-- R395. The peer's matching bind command arrives and the binding forms. -/
  | peerBindMatch (dev peerJob localJob tenant : Nat)
  /-- R391. Writing peer-link enables makes DEVID and the route table read-only. -/
  | peeren (v : Word)
  /-- R391. Writes a PF0 or VF register that has no row of its own. -/
  | pf0RegWrite (fn off : Nat) (v : Word)
  /-- R394. An I/O die forwards a peer flit by its route table, or finds it dead. -/
  | peerForward (f : Flit)
  /-- R397. A DOE request with a nonce returns a signed measurement report. -/
  | attestationReport (nonce : List Byte)
  /-- R397. At reset the ROM verifies the firmware image and extends the measurements. -/
  | boot
  /-- R398. Every 1,024 cycles the governor measures power and steps the clock. -/
  | governorSample (watts : Nat)
  /-- R398. At 105 C every core halts and the job ends with status 5. -/
  | thermalTrip
  /-- R390. A running job is terminated, by the host or by the stage manager after machine-check hold or an unserviced SVEC trap, and its pending products, arrivals, DD operations and reductions resolve ABORTED. -/
  | jobTermination (job : Nat) (status : BitVec 8) (cause : BitVec 8)
  /-- R395. The notice that a bound peer job has ended or been unbound arrives over the peer links, dropping the binding so that flits to it become dead and reductions spanning it resolve ABORTED. -/
  | peerBindingDrop (dev localJob : Nat)
deriving DecidableEq, Repr

/-- A step of the machine that is due, as the agenda and the packets hold it: the rows of the table that are not
instructions, with the data of the constructors of `Instr` of the same names (log 1). -/
inductive Event where
  | resultLands (w : Tid) (id : Nat)
  | lineDelivery (pcl : Nat) (line : Word) (slice : Option Nat)
  | sleepExpiry (w : Tid) (stamp : Nat)
  | syncfRelease (w : Tid) (stamp : Nat)
  | packetForward (pid : Nat) (buffered : Bool)
  | starvationToken (router port : Nat)
  | remoteAccess (aid part : Nat)
  | accessResponse (aid part : Nat)
  | translationWalk (wid : Nat)
  | storeFaultRecord (aid part : Nat)
  | feRetry (aid part : Nat)
  | waitmTimeout (w : Tid) (stamp : Nat)
  | transRequest (rid : Nat)
  | transResult (rid : Nat)
  | barrierArrival (w : Tid) (n : BitVec 4) (wait : Bool) (d : Option SReg)
  | barsetRequest (w : Tid) (n : BitVec 4) (count : Nat)
  | barrierVerdict (w : Tid) (n : BitVec 4) (ok ph : Bool) (wait : Bool)
  | barrierRelease (job clu : Nat) (n : BitVec 4) (ws : List Tid)
  | flitArrival (f : Flit)
  | flitResend (f : Flit)
  | sendAck (f : Flit) (dead : Bool)
  | trecvTimeout (w : Tid) (stamp : Nat)
  | hangSample (job : Nat)
  | engineEnqueue (op : EngOp)
  | copyChunk (job clu id : Nat) (req : Option Nat)
  | copyResolve (job clu id : Nat)
  | gatherBatch (job clu id : Nat) (req : Option Nat)
  | gatherResolve (job clu id : Nat)
  | cancelRequest (h : HRef)
  | adoptRequest (w : Tid) (d : HReg) (id : Word)
  | adoptReply (w : Tid) (d : HReg) (id : Word) (r : AdoptReply)
  | handleCompletion (h : HRef) (c : Word) (flags : FlagBits)
  | spanArrival (a : SpanArr)
  | spanSlotTake (job link pid : Nat)
  | spanPortRead (job link pid : Nat) (lead : Bool)
  | spanKstep (job link pid : Nat)
  | spanEmulKstep (job link pid : Nat)
  | spanPromote (job link pid : Nat)
  | spanDeliver (job link pid : Nat) (req : Option Nat)
  | spanDoneWord (job link pid : Nat)
  | spanResolve (job link pid : Nat)
  | spanDeliveryStop (job link pid : Nat)
  | pcfgApply (w : Tid) (adr : Word) (blk : List Byte)
  | pplanRun (job clu : Nat)
  | pplanResolve (job clu : Nat)
  | ddEnqueue (e : DdEntry)
  | ddExecute (job clu : Nat)
  | ddResolve (job clu : Nat) (e : DdEntry) (c : Word) (flags : FlagBits)
  | castAccess (w : Tid) (r : CastReq)
  | cueArm (t : CueTake)
  | cueCommit (t : CueTake)
  | recordFrameArrival (f : Frame)
  | frameResend (f : Frame)
  | bindToken (t : Token)
  | openToken (t : Token)
  | unbindToken (u : Tid) (t : Token) (cue : Word)
  | cueFailReturn (t : CueTake)
  | stateTransfer (x : StateXfer)
  | stateResend (x : StateXfer)
  | redCombine (job grp k node : Nat) (src : Option Nat) (msg : Option RedMsg)
  | redBroadcast (job grp k node : Nat) (msg : Option RedMsg)
  | redResolve (job grp k node : Nat)
  | vacateResolve (h : HRef) (pcl : Nat) (vbase : Word)
  | resumeResolve (h : HRef) (clu pcl : Nat) (vbase : Word)
  | tqackServe (pc ent : Nat)
  | tqackRefuse (pc ent : Nat)
  | tenantWrite (pc : Nat) (v : Word)
  | coreRegWrite (pc off : Nat) (v : Word)
  | jobLaunch (job : Nat) (p : LaunchPlan)
  | waitlimExpiry (job : Nat)
  | lqtail (vf : Nat) (tail : Word)
  | jobCompletion (job : Nat)
  | bcmdBind
  | bcmdUnbind
  | peerBindMatch (dev peerJob localJob tenant : Nat)
  | peeren (v : Word)
  | pf0RegWrite (fn off : Nat) (v : Word)
  | peerForward (f : Flit)
  | attestationReport (nonce : List Byte)
  | boot
  | governorSample (watts : Nat)
  | thermalTrip
  | jobTermination (job : Nat) (status : BitVec 8) (cause : BitVec 8)
  | peerBindingDrop (dev localJob : Nat)
deriving DecidableEq, Repr

end Sys2Proof
end

