-- ==== Sys2Proof/Config.lean ====
section
/-!
DEFINITION. What one implementation fixes, and the free values: constants with no body of which nothing can be
proved, so that a theorem holds whatever they are.
-/

namespace Sys2Proof.Config

/-! ### The figures of the package (R1, R7 to R12) -/

/-- Cores of the package (R1). -/
def cores : Nat := 1600
/-- Physical clusters of the package (R10). -/
def clusters : Nat := 200
/-- Hardware threads of a core (R12). -/
def threads : Nat := 16
/-- Bytes of scratch of one core (R13). -/
def scratchBytes : Nat := 0x200000
/-- Request permits of a (core, slice) pair (R195). -/
def permits : Nat := 8
/-- Pool slices (R9, R392). -/
def slices : Nat := 24
/-- The fused power ceiling in watts (R398). -/
def powerCeiling : Nat := 3400

/-! ### Free timing (log 2)

The n-th free delay drawn by the machine. The manual leaves the fabric round trip, the duration of a walk and the time
of a stage-manager action open (R188, R197, R393), so each is a value of which nothing is known. -/

/-- The n-th passage of a message through the pool fabric, there or back, cycles (R188, R393). -/
opaque fabricDelay : Nat → Nat
/-- The n-th duration of a page-table walk, cycles (R197). -/
opaque walkDelay : Nat → Nat
/-- The n-th duration of a stage-manager action, cycles. -/
opaque managerDelay : Nat → Nat

/-! ### Free values -/

/-- What reading a write-only register gives (R379 TQACK, R388 LQTAIL, R391 BCMD): the manual states no value. -/
opaque writeOnlyRead : Nat → BitVec 64
/-- What `xlat` reports of an address of the system space, which R200 leaves out. -/
opaque xlatSystem : BitVec 64 → BitVec 64
/-- The n-th use of a save area: the byte at an offset that the manual does not lay out, or that lies outside the windows
(R386, log 44). -/
opaque saveByte : Nat → Nat → BitVec 8
/-- The MCHECK syndrome of a failed check (R369, R376): the manual gives its place, not its value. -/
opaque syndrome : Nat → BitVec 64

/-- The code base of a firmware image, where its threads begin, and how many management cores run it (R34, R367): the manual lays
out neither. -/
opaque firmwareBase : List (BitVec 8) → BitVec 64
/-- The number of management cores (R9). -/
opaque managementCores : Nat

/-- The n-th set of the stage manager's choices at a launch. -/
opaque launchPlan : Nat → LaunchPlan
/-- The n-th action of the stage manager in a spatial pre-emption (R111). -/
opaque preStep : Nat → PreStep
/-- The digests of the signing keys that the host has installed for a tenant (R88). -/
opaque tenantKeys : Nat → List (List (BitVec 8))
/-- A tenant's policy demands a signature (R88). -/
opaque demandsSignature : Nat → Bool
/-- The n-th measurement of package power, watts (R398). -/
opaque power : Nat → Nat
/-- The 8 bytes of rollback counter and fuse state in a report: their layout is not given (R397). -/
opaque fuseState : Nat → List (BitVec 8)

/-! ### Functions fixed by standards outside the manual (log 9) -/

/-- SHA3-512 of a byte string (R84, R397). -/
opaque sha3 : List (BitVec 8) → List (BitVec 8)
/-- ML-DSA-87 verification: key digest, message digest, signature (R84, R397). -/
opaque mldsaVerify : List (BitVec 8) → List (BitVec 8) → List (BitVec 8) → Bool
/-- ML-DSA-87 signing by the device identity key (R397). -/
opaque mldsaSign : List (BitVec 8) → List (BitVec 8)
/-- AES-256-XTS under the key of a job, which is never exposed (R396): for a job and the pool address of a 16-byte block, the
permutation of the block's values, as exchanges of two values one after the other. Every permutation is such a list. -/
opaque xtsSwaps : Nat → Nat → List (BitVec 128 × BitVec 128)

end Sys2Proof.Config
end

