-- ==== Sys2Proof/Machine/State.lean ====
section
/-!
DEFINITION. The state of the CX-1600 as plain data, and the state after reset. Logical state (jobs, logical clusters
and cores, threads) is kept by logical number and is unchanged by folding (R25, R116); physical state (core
registers, scratch, slot tables, trap queues, caches) is kept by physical core and cluster (R379).
-/

set_option linter.unusedVariables false

namespace Sys2Proof.Machine

/-! ### Memory -/

/-- Bytes by address in canonical form: addresses strictly rising, no entry equal to what an unlisted address reads as. -/
abbrev Memory := List Host.Cell

/-- What an unlisted address reads as. DESIGN CHOICE (log 5): zero. For scratch the manual gives zero at launch (R88). -/
def Memory.blank : Byte := 0

/-- The canonical form of a memory. -/
abbrev Memory.wf (m : Memory) : Prop :=
  (m.map Prod.fst).Pairwise (· < ·) ∧ ∀ c ∈ m, c.2 ≠ Memory.blank

/-! ### Registers in flight -/

/-- A register, predicate, mask or special register that an instruction names (R93). -/
inductive RegRef where
  | s (r : SReg)
  | v (r : VReg)
  | q (r : QReg)
  | k (r : KReg)
  | sp (n : Nat)
deriving DecidableEq, Repr

/-- One write that a landing performs (R92): a vector write names the lanes it writes (R159, R161). -/
inductive RegWrite where
  | s (r : SReg) (x : Word)
  | v (r : VReg) (x : Vec) (m : Mask)
  | q (r : QReg) (b : Bool)
  | k (r : KReg) (m : Mask)
  | sp (n : Nat) (x : Word)
  /-- The identity of a handle of the thread, which makes its register pending (R232, R266). -/
  | h (r : HReg) (x : Word)
deriving DecidableEq, Repr

/-- A result that has not landed yet (R92): what it writes and the sticky flags it sets (R138). -/
structure Landing where
  id : Nat
  due : Nat
  writes : List RegWrite
  flags : FlagBits
deriving DecidableEq, Repr

/-! ### Threads -/

/-- The states of R28 that a thread can be in, apart from HELD and SUSP. -/
inductive TState where
  | free | running | parked
deriving DecidableEq, Repr, Inhabited

/-- The wait kinds of the call board (R227), codes 0x01 to 0x0C. -/
inductive WaitKind where
  | fe | handle | msgq | barrier | monitor | rendezvous | relaxed | engq | permit | outbox | record | service
deriving DecidableEq, Repr

/-- What happens when a parked thread's wait ends (log 6): it issues its instruction again, or the event that ends the
wait has already completed the instruction. -/
inductive Cont where
  | reissue
  | recv (d : SReg)
  | trecv (d : SReg) (p : QReg)
  | waitm (d : SReg) (mq : Bool)
  | bar (n : BitVec 4)
  | barw (n : BitVec 4)
  | access (aid : Nat)
  | rendezvous
  | command
deriving DecidableEq, Repr

/-- A park (R28, R227): kind, object, cycle of entry, TIMED, and how it ends. -/
structure Wait where
  kind : WaitKind
  obj : Word
  since : Nat
  timed : Bool
  cont : Cont
deriving DecidableEq, Repr

/-- Why a running thread does not issue although its slot comes round: it is neither parked nor on the call board. -/
inductive Stall where
  | sleep (until_ : Nat)
  | syncf (addr : Word) (until_ : Nat)
  | verdict
  | home
  | walk
  | fetch
  | drain
  | quiet
deriving DecidableEq, Repr

/-- A monitor (R208). -/
structure Monitor where
  armed : Bool := false
  lcn : Nat := 0
  line : Nat := 0
  trig : Bool := false
deriving DecidableEq, Repr, Inhabited

/-- What a handle-table entry waits for (R240, R244). -/
inductive HKind where
  | start | send | copyGather | product (link pid : Nat) | plan | dd | state | red (grp : Nat) | system | value
deriving DecidableEq, Repr

/-- A handle-table entry (R235): bound to a register of its thread, or passed (R241), with an adopter (R242) or a kept word. -/
structure HEntry where
  seq : Nat
  kind : HKind
  reg : HReg
  pc : Word
  passed : Bool := false
  discarded : Bool := false
  target : Option (Tid × HReg) := none
  word : Option Word := none
deriving DecidableEq, Repr

/-- A store-fault record (R204). -/
structure SfRec where
  faddr : Word
  fpc : Word
  fcause : Cause
  felem : Nat
  fseq : Nat
  fdata : Word
deriving DecidableEq, Repr

/-- A thread's binding on one direction (R268): link, product and role. -/
structure Bind where
  link : Nat
  pid : Nat
  lead : Bool
deriving DecidableEq, Repr

/-- The hand-over record of R351. -/
structure Handover where
  lcn : Nat
  thr : Nat
  cid : BitVec 20
deriving DecidableEq, Repr

/-- A code line a thread holds (R34, R108): its address, its 48 bytes, and the bytes from `lo` below `hi` that lie in code
pages (log 47). -/
structure CodeLine where
  addr : Word
  bytes : BitVec 384
  lo : Nat
  hi : Nat
deriving DecidableEq, Repr

/-- A hardware thread of a logical core (R27, R115, R116, R120, R367, R368). -/
structure Thread where
  st : TState := .free
  held : Bool := false
  susp : Bool := false
  gen : BitVec 16 := 0
  pc : Word := 0
  x : Map Word := []
  pend : BitVec 64 := 0
  v : Map Vec := []
  q : BitVec 8 := 1
  k : Map Mask := []
  flags : FlagBits := 0
  flagsAt : Nat × FlagBits := (0, 0)
  ten : FlagBits := 0
  reported : FlagBits := 0
  ordLink : BitVec 16 := 0
  ordRound : BitVec 16 := 0
  geom0 : Word := 0
  geom1 : BitVec 48 := 0
  dns : Word := 0
  ups : Word := 0
  stg : Word := 0
  slog : Word := 0
  mdrop : BitVec 32 := 0
  epc : Word := 0
  ecause : Word := 0
  eaddr : Word := 0
  einfo : Word := 0
  tvec : Word := 0
  svec : Word := 0
  pstate : BitVec 4 := 0
  vbase : Word := 0
  jepc : Word := 0
  jcause : Word := 0
  jaddr : Word := 0
  jinfo : Word := 0
  mons : Map Monitor := []
  ep : BitVec 16 := 0
  bpend : BitVec 16 := 0
  mq : List Flit := []
  inbox : List Frame := []
  outbox : List Flit := []
  /-- Flits of the outbox that have been refused, and those held back behind one (R222). -/
  refused : List Nat := []
  outHeld : List Nat := []
  frames : List Frame := []
  handles : Map HEntry := []
  hseq : Nat := 0
  sfq : List SfRec := []
  fseq : Nat := 0
  sfDue : Bool := false
  rhold : List Word := []
  ghits : Nat := 0
  gaddr : Word := 0
  handover : Option Handover := none
  sttake : Option (HRef × Word) := none
  /-- The thread's last `sttake` has resolved OK or OK_SUBST; the thread that it opens once it is bound by a REBIND (R349). -/
  took : Bool := false
  opens : Option Tid := none
  ddFull : Map Word := []
  binds : Map Bind := []
  lines : List CodeLine := []
  landings : List Landing := []
  busy : List (Nat × RegRef) := []
  window : List (Nat × Nat) := []
  ordAcc : Option Nat := none
  accAt : Nat := 0
  relaxed : List Nat := []
  readyAt : Nat := 0
  stall : Option Stall := none
  wait : Option Wait := none
  /-- The instruction at PC has parked and has not completed: it does so before a pending STORE_FAULT (R204). -/
  retry : Bool := false
  /-- The cycle in which the thread was last held or suspended (R379, CYC at entry). -/
  capAt : Nat := 0
  /-- The cycle from which `st` holds: a started helper runs, and an ended thread is free, 8 cycles on (R120, R121). -/
  turnsAt : Nat := 0
  /-- The handle that `start` gave for this life of a helper (R119). -/
  starter : Option HRef := none
  /-- The first instruction of this life has not issued: it takes the bindings of the cast table (R339). -/
  unbound : Bool := false
  stamp : Nat := 0
  grants : List Nat := []
  /-- Registers both of whose copies have failed (R95). -/
  parity : List RegRef := []
deriving DecidableEq, Repr

/-! ### Accesses in flight -/

/-- Where an access is performed (R254): a scratch of the job, by logical core; the pool, by physical address; another
place of the system space (R379). -/
inductive Home where
  | scratch (lcn : Nat)
  | pool
  | raw (pc : Nat)
  | coreReg (pc : Nat)
  | unit (pcl : Nat)
deriving DecidableEq, Repr

/-- What an access does at its home (R185, R189, R191 to R193, R203). -/
inductive AccKind where
  | load
  | store
  | take
  | peek
  | put
  | putFull
  | fe (full : Bool)
  | guard (set : Bool)
  | mon (i : Nat)
  | amo (op : AmoOp)
  | cas
  | famo (op : FOp) (rm : Rm)
deriving DecidableEq, Repr

/-- One element of an access: element number, effective address, place at its home, operands, and the value read. -/
structure Elem where
  idx : Nat
  va : Word
  at_ : Nat
  val : Word
  cmp : Word
  res : Word := 0
deriving DecidableEq, Repr

/-- The part of an access that goes to one home as one request (R195, R255); `sent` once it holds its permit. -/
structure Part where
  home : Home
  slice : Nat := 0
  elems : List Elem
  sent : Bool := false
  performed : Bool := false
  returned : Bool := false
  fault : Option Cause := none
  /-- Elements that met a guard granule or a locked byte, and the address of the first (R202, R312). -/
  hits : Nat := 0
  hitVa : Word := 0
  subst : Bool := false
  flags : FlagBits := 0
deriving DecidableEq, Repr

/-- An access from issue until every part has been performed and answered (R187). -/
structure Access where
  id : Nat
  own : Tid
  pc : Word
  kind : AccKind
  t : Ty
  size : Nat
  /-- A vector access (R186, R204). -/
  vec : Bool
  rx : Bool
  /-- Latency on own scratch; a pool access adds 12 and the round trip (R188). -/
  lat : Nat
  /-- A store, `stf` or update with RX (R187). -/
  posted : Bool
  /-- The result's register, none for a store or update. -/
  dst : Option RegRef
  fseq : Nat
  parts : Map Part
deriving DecidableEq, Repr

/-- A pool translation in progress (R197): who asked, and for what address and use. -/
structure Walk where
  own : Tid
  pc : Word
  va : Word
  write : Bool
  atomic : Bool
  exec : Bool
  /-- A posted part that waits for its translation, if any. -/
  post : Option (Nat × Nat)
  eng : Option HRef
  /-- The code line that is asked for ahead (R108), and the register and name of the result of an `xlat` (R200). -/
  ahead : Option Word := none
  probe : Option (SReg × Nat) := none
deriving DecidableEq, Repr

/-! ### Network (R18 to R23) -/

/-- The virtual channels of R18. -/
inductive Chan where
  | req | rsp | msg | red
deriving DecidableEq, Repr

/-- A packet in the network: where it is, where it goes, whose it is, and the step that its arrival causes. A place below
1,600 is the router of a physical core, 1,600 + y the west I/O die at row y, and 1,640 + y the east one (R9). -/
structure Packet where
  chan : Chan
  src : Nat
  at_ : Nat
  dst : Nat
  tenant : Nat
  /-- It stands at an express entry point of its route (R20). -/
  entry : Bool
  own : Tid
  payload : Event
  /-- The routers that its express run still bypasses, the one where it stands first (R20). -/
  run : Nat := 0
  /-- Cycles for which it takes each link. -/
  beats : Nat := 1
  /-- The step of its arrival is due no earlier than this cycle. -/
  floor : Nat := 0
  /-- A request whose step is due when its response has come back (R18). -/
  trip : Bool := false
deriving DecidableEq, Repr

/-- A router (R18, R21, R23): tenant, membership bitmap of its links (bit per port), the routes reserved for jobs towards
the I/O dies (ports by job), the packets that wait for each port, the consecutive cycles in which a port with waiting
packets has been bypassed and the last of them, and the cycle of each port's token. -/
structure Router where
  tenant : Nat := 0
  member : BitVec 5 := 0
  io : Map (BitVec 5) := []
  queue : Map (List Nat) := []
  bypass : Map (Nat × Nat) := []
  token : Map Nat := []
deriving DecidableEq, Repr, Inhabited

/-! ### Cluster units -/

/-- A barrier counter (R213) with the threads that arrived in its phase (R214). -/
structure Counter where
  count : Nat := 8
  arr : Nat := 0
  ph : Bool := false
  who : List Tid := []
deriving DecidableEq, Repr, Inhabited

/-- A `pplan` in the prompter's queue (R297, R301). -/
structure Plan where
  own : Tid
  since : Nat
  h : HRef
  z : Word
  tau : BitVec 32
  bud : BitVec 32
  cfg : List Byte
  active : Bool
  /-- The cycle in which its list is written, or it resolves; what it writes, by window offset; it has begun to (R306). -/
  due : Nat := 0
  out : List (Nat × List Byte) := []
  begun : Bool := false
  word : Word
  /-- MISS of R298: Rem exceeds Bud. -/
  miss : Bool
  flags : FlagBits
deriving DecidableEq, Repr

/-- A prompter (R294, R301, R304). -/
structure Prompter where
  cfg : Option (List Byte) := none
  adr : Word := 0
  queue : List Plan := []
  counters : Map Word := []
  rr : Map Nat := []
deriving DecidableEq, Repr, Inhabited

/-- The configuration of a decision-diagram engine (R310). -/
structure DdCfg where
  nodes : Nat
  noden : Nat
  buck : Nat
  blog : Nat
  clog : Nat
  varn : Nat
  cache : Nat
  wtab : Nat
  stk : Nat
  adr : Word
deriving DecidableEq, Repr

/-- A decision-diagram engine (R310 to R328). -/
structure Dde where
  cfg : Option DdCfg := none
  lev : Map Nat := []
  var : Map Nat := []
  freeHead : Nat := 0
  queue : List DdEntry := []
  active : Option DdEntry := none
  seq : Nat := 0
  counters : Map Word := []
deriving DecidableEq, Repr, Inhabited

/-- A logical cluster (R11, R213, R244, R301, R316). -/
structure LCluster where
  bars : Map Counter := []
  copyQ : List EngOp := []
  gathQ : List EngOp := []
  /-- Round-robin places: the member last served at 8, the thread last served of member m at m (R244). -/
  rrCopy : Map Nat := []
  rrGath : Map Nat := []
  prm : Prompter := {}
  dde : Dde := {}
deriving DecidableEq, Repr, Inhabited

/-! ### Spans (R266 to R291) -/

/-- The state of a product in its slot (R282): awaiting a slot, accumulating, delivering, held. -/
inductive ProdState where
  | awaiting | accumulating | delivering | held
deriving DecidableEq, Repr

/-- A queued feed (R274): its order and cycle, the scratch offset of its next K-step's row 0, stride, rows, next K-step
and how many are left. -/
structure Feed where
  seq : Nat
  since : Nat
  base : Nat
  stride : Nat
  rows : Nat
  first : Nat
  count : Nat
deriving DecidableEq, Repr

/-- The rows of one K-step as a port has read them (R275): 32 rows of 64 bytes, each 512 bits, and the cycle in which they
were ready. -/
structure KRows where
  rows : List (BitVec 512)
  since : Nat
deriving DecidableEq, Repr

/-- One end of a product (R268, R274 to R276). -/
structure SpanEnd where
  w : Tid
  dir : Dir
  h : HRef
  bound : Bool := true
  fp : Nat := 0
  sp : Nat := 0
  feeds : List Feed := []
  scales : Map (List (BitVec 32)) := []
  buf : List KRows := []
  /-- The K-step that the port reads: its rows so far, the cycle in which it began, the cycle in which the banks take the next
  row, and whether its rows are on their way to the lead core (R291). -/
  rows : List (BitVec 512) := []
  begun : Nat := 0
  turnAt : Option Nat := none
  sent : Bool := false
  guardHit : Bool := false
deriving DecidableEq, Repr

/-- A close in force (R278): destination, stride, done word, mask, output type and conversion. -/
structure CloseRec where
  pc : Word
  dst : Word
  stride : Word
  done : Nat
  doneLcn : Nat
  mv : Nat
  nv : Nat
  nd : Bool
  t : Ty
  rm : Rm
  sat : Bool
  rdl : Bool
deriving DecidableEq, Repr

/-- A product of two ends on a link (R269, R273 to R283). -/
structure Product where
  pid : Nat
  st : ProdState := .awaiting
  slot : Nat
  tag : BitVec 16
  t : Ty
  scl : Bool
  keep : Bool
  bop : Bool
  kt : Nat
  lead : SpanEnd
  partner : SpanEnd
  done : Nat := 0
  promoted : Nat := 0
  /-- Per block or K-step not yet promoted: the exact sum n·2^q of each element 32·i + j, and its NaN, +∞ and −∞ bits
  (R154 to R156). -/
  part : Map (List (Int × Int)) := []
  marks : Map (List Nat) := []
  promoting : Bool := false
  log : List (BitVec 48) := []
  logMore : Bool := false
  flags : FlagBits := 0
  close : Option CloseRec := none
  /-- The delivery: rows written, or the first not delivered; the cycles in which banks take rows that have arrived; the
  requests to the pool; and the done word: sent, and the cycle in which its bank takes it. -/
  row : Nat := 0
  turns : Map Nat := []
  reqs : Map EngReq := []
  doneSent : Bool := false
  doneTurn : Option Nat := none
  rdFlags : FlagBits := 0
  dstGuard : Bool := false
  stop : Option Cause := none
  abort : Bool := false
  resolved : Bool := false
  /-- A walk that failed for the delivery, or the address that stops it (R280). -/
  flt : Option (Word × Cause) := none
deriving DecidableEq, Repr

/-- An accepted arrival that has not paired (R269, R270): its handle, the product it will be a party of, and what its thread
held before it: ORD[15:0] and register D. -/
structure SpanWait where
  arr : SpanArr
  h : HRef
  pid : Nat
  ordWas : BitVec 16
  dWas : Word
deriving DecidableEq, Repr

/-- A link and its span (R15, R270, R273): the queue of unpaired arrivals, products in order of forming, the four slots'
1,024 accumulator elements each (none listed: all zero) and error logs, the product in each slot, the product whose K-step computes, and
the product and end that each end's port reads. -/
structure SpanLink where
  queue : List SpanWait := []
  prods : List Product := []
  acc : Map (List (BitVec 80)) := []
  /-- The error logs that products which have left their slots leave there, each with its mark for more (R273, R282). -/
  logs : Map (List (BitVec 48) × Bool) := []
  occupant : Map Nat := []
  busy : Option Nat := none
  ports : Map (Nat × Bool) := []
deriving DecidableEq, Repr, Inhabited

/-! ### Logical cores and jobs -/

/-- A tag-table entry (R201). -/
structure TagEntry where
  tag : Word
  g : Nat
  off : Nat
deriving DecidableEq, Repr

/-- A waiter of an FE word (R190): word index, access and part, and whether it holds a remote entry. -/
structure FeWaiter where
  word : Nat
  aid : Nat
  part : Nat
  remote : Bool
deriving DecidableEq, Repr

/-- The state of a scratch word's check bits (R182): corrected on read, or beyond correction. -/
inductive Ecc where
  | single | double
deriving DecidableEq, Repr

/-- A trap-queue record (R376). -/
structure TqRec where
  pc : Word
  addr : Word
  cause : Cause
  fatal : Bool
  wr : Bool
  eng : Bool
  thr : Nat
  lcn : Nat
  ent : Nat
  info : Word
  own : Tid
  /-- The posted access and part that waits for the verdict, or the engine's handle. -/
  post : Option (Nat × Nat) := none
  h : Option HRef := none
  pcore : Nat := 0
deriving DecidableEq, Repr

/-- What a vacate keeps of a core beside its save area (R384, R386, log 44): failed check bits by offset from SEG; its
trap-queue records, each with whether it has been popped; the accesses of its threads that have been withdrawn; and the bounds
of its threads' waits, with the cycles that remain. -/
structure SavedCore where
  ecc : Map Ecc := []
  tq : List (TqRec × Bool) := []
  waits : List (Nat × Nat) := []
  timers : List (Nat × Event) := []
deriving DecidableEq, Repr, Inhabited

/-- A logical core (R25, R116, R159, R201). -/
structure LCore where
  threads : Map Thread := []
  y : Map Word := []
  w : Map Vec := []
  tags : Map TagEntry := []
  victim : Map Nat := []
  feQ : List FeWaiter := []
  starters : List (Tid × Nat) := []
  saved : Option SavedCore := none
  /-- The shared registers y and w both of whose copies have failed (R95). -/
  parity : List RegRef := []
deriving DecidableEq, Repr, Inhabited

/-- A cast-table entry: its 64 bits (R337) and the CID of its standby (R344). -/
structure CastEntry where
  bits : Word := 0
  cid : BitVec 20 := 0
  /-- The standby was captured by an armed cue (R344). -/
  captured : Bool := false
deriving DecidableEq, Repr, Inhabited

/-- An armed cue in flight, kept at the home by its stage S (R347, R348): the entries it made BUSY, the standby it captured
and the entry that registered it, the stage u before S, and the binding word of S's downstream, 0 when S is the sink. -/
structure CueCtx where
  touched : List Nat := []
  standby : Option Handover := none
  regAt : Nat := 0
  up : Option Nat := none
  down : Word := 0
deriving DecidableEq, Repr, Inhabited

/-- One reduction of a group (R360 to R362): contributions by node, subtotals (80-bit patterns, one per lane) and flags. -/
structure RedOp where
  cons : Map RedCon := []
  subs : Map (List (BitVec 80)) := []
  /-- The nodes whose subtotals have reached their parents. -/
  got : List Nat := []
  /-- The totals of the devices below this one, by rank, and that this device has combined them. -/
  devs : Map RedMsg := []
  combined : Bool := false
  result : Option (List Word) := none
  flags : FlagBits := 0
  mismatch : Bool := false
  resolved : List Nat := []
deriving DecidableEq, Repr, Inhabited

/-- A reduction group (R358). -/
structure RedGroup where
  thr : Nat
  x0 : Nat
  y0 : Nat
  gw : Nat
  gh : Nat
  gen : BitVec 32
  devs : List Nat
  /-- Contributions made by the thread of each node, and its handles that have not resolved (R360). -/
  cnt : Map Nat := []
  out : Map (List HRef) := []
  ops : Map RedOp := []
deriving DecidableEq, Repr

/-- Where a job stands; job 0 holds the threads of the management cores, which run the firmware (R367). -/
inductive JobState where
  | posted | running | ending | ended | firmware
deriving DecidableEq, Repr, Inhabited

/-- A job (R80, R111 to R115, R389, R390). -/
structure Job where
  st : JobState := .posted
  tenant : Nat := 0
  w : Nat := 4
  h : Nat := 2
  t : Nat := 1
  foot : Nat := 64
  pri : Nat := 0
  fold : Bool := false
  redgrp : Nat := 0
  entry : Word := 0
  image : Word := 0
  args : Word := 0
  argSize : Nat := 0
  pred : List Nat := []
  geom0 : Word := 0
  geom1 : BitVec 48 := 0
  dde : Option (Nat × Nat) := none
  prm : Option Nat := none
  cast0 : List (Nat × Nat) := []
  postedAt : Nat := 0
  start : Nat := 0
  status : BitVec 8 := 0
  cause : BitVec 8 := 0
  exitv : Word := 0
  root : Word := 0
  cbase : Word := 0
  /-- The pool memory that the stage manager backs the job with: its image and tables, as bases and sizes, and the frames of its
  other pages (R88, R392). -/
  backing : List (Nat × Nat) := []
  extra : List Nat := []
  cores : Map LCore := []
  clus : Map LCluster := []
  links : Map SpanLink := []
  cast : Map CastEntry := []
  cues : Map CueCtx := []
  groups : Map RedGroup := []
  bound : List (Nat × Nat) := []
  hangLast : Option (List (Nat × Nat)) := none
deriving DecidableEq, Repr, Inhabited

/-! ### Physical cores and clusters -/

/-- A cached translation (R199): job, page base, size, frame, R W X AT, level and size code. -/
structure Tlb where
  job : Nat
  base : Nat
  size : Nat
  frame : Nat
  perm : BitVec 4
  level : Nat
  code : Nat
deriving DecidableEq, Repr

/-- Who waits for a request permit (R195): a part of an access, a block of a code line, a request of an engine operation. -/
inductive PReq where
  | part (aid p : Nat)
  | fetch (w : Tid) (line : Word)
  | eng (h : HRef) (r : Nat)
deriving DecidableEq, Repr

/-- A physical core (R12, R13, R195, R199, R376, R379, R380). -/
structure PCore where
  ptroot : Word := 0
  tenant : Word := 0
  jobreg : Word := 0
  jshape : Word := 0
  cecnt : Word := 0
  cstat : Word := 0
  cbase : Word := 0
  slots : Map (BitVec 5) := []
  slotsNext : Map (BitVec 5) := []
  mem : Memory := []
  fe : Map Bool := []
  guard : Map Bool := []
  ecc : Map Ecc := []
  /-- The log of touched guard granules: bank and offset (R202). -/
  glog : List (Nat × Nat) := []
  tlb : List Tlb := []
  permits : Map Nat := []
  permitQ : List (Nat × PReq) := []
  bank : Map Nat := []
  tq : Map TqRec := []
  tqNew : List Nat := []
  tqWait : List TqRec := []
  loading : Bool := false
deriving DecidableEq, Repr, Inhabited

/-- A code line that is read from the pool (R108, R195): the core whose permits it takes, and the blocks not yet here. -/
structure CodeRead where
  pc : Nat
  left : Nat
deriving DecidableEq, Repr, Inhabited

/-- A physical cluster (R11, R108, R199, R383). Of each of its units, copy 0, gather 1, prompter 2 and decision-diagram engine
3, it keeps the fold position served last (R385) and the cycle from which it may move more bytes (R244). -/
structure PCluster where
  map : Map (BitVec 32) := []
  turn : Map Nat := []
  unitAt : Map Nat := []
  cache : Map (BitVec 384) := []
  reads : Map CodeRead := []
  fetch : List (Nat × Word × Tid) := []
  walker : List Tlb := []
deriving DecidableEq, Repr, Inhabited

/-- A request to a transcendental unit (R173): thread, function (0 exp2, 1 log2, 2 rcp, 3 rsq), register, source, mask. -/
structure TransReq where
  own : Tid
  pcore : Nat
  fn : Nat
  d : VReg
  src : Vec
  mask : Mask
  due : Nat
deriving DecidableEq, Repr

/-- A virtual function's registers (R388). -/
structure Vf where
  lqbase : Word := 0
  lqsize : Word := 0
  lqhead : Nat := 0
  cqbase : Word := 0
  cqsize : Word := 0
  cqhead : Word := 0
  cqtail : Nat := 0
  nextid : Nat := 1
deriving DecidableEq, Repr, Inhabited

/-- A completion record (R390). -/
structure Completion where
  jobid : Nat
  cstatus : BitVec 8
  ccause : BitVec 8
  exitv : Word
  cycles : Nat
deriving DecidableEq, Repr

/-- What leaves the device over a peer link (R394): a flit with its sender's JOBID, the acknowledgement of a flit that came
from a peer, such a flit refused, a message of a reduction (job at the peer, group, number, and whether it goes down the tree), a bind
command with its local job, peer job and tenant, or the news that a binding of a job of the peer is dropped (R395). -/
inductive PeerMsg where
  | flit (job : Nat) (f : Flit)
  | ack (f : Flit) (dead : Bool)
  | refused (f : Flit)
  | red (job grp k : Nat) (down : Bool) (m : RedMsg)
  | bind (job peerJob tenant : Nat)
  | drop (peerJob : Nat)
deriving DecidableEq, Repr

/-- A message on its way out: peer link, device, message. -/
structure PeerOut where
  link : Nat
  dev : Nat
  msg : PeerMsg
deriving DecidableEq, Repr

/-- The device beyond its cores: PF0 (R391), measurements and boot (R397), governor (R398), peers (R394, R395). -/
structure Device where
  booted : Bool := false
  /-- The code base of the firmware image that the management cores run (R34). -/
  fwBase : Word := 0
  bootFail : Bool := false
  devid : BitVec 14 := 0
  peeren : BitVec 16 := 0
  /-- A peer link has been enabled since reset (R391). -/
  fixed : Bool := false
  pcap : BitVec 16 := 3400
  waitlim : Map Word := []
  win0 : Map Word := []
  win1 : Map Word := []
  bljob : Word := 0
  bpdev : Word := 0
  bpjob : Word := 0
  bstat : Word := 0
  /-- The bind command that waits: local job, peer device, peer job (R391). -/
  bindCmd : Option (Nat × Nat × Nat) := none
  route : Map (BitVec 8) := []
  vfs : Map Vf := []
  m0 : List Byte := List.replicate 64 0
  m1 : List Byte := List.replicate 64 0
  m2 : List Byte := List.replicate 64 0
  rollback : Nat := 0
  fwVersion : Nat := 0
  fw : List Byte := []
  fwSig : List Byte := []
  fuseKey : List Byte := []
  identity : List Byte := []
  report : List Byte := []
  steps : Nat := 0
  low : Nat := 0
  service : List TqRec := []
  peerOut : List PeerOut := []
  lastTenant : Map Nat := []
  completions : List Completion := []
deriving DecidableEq, Repr, Inhabited

/-- A pending step: the cycle in which it is due and the step (log 1). -/
structure Pending where
  due : Nat
  ev : Event
deriving DecidableEq, Repr

/-- The state of the package. `agenda`, `scan`, `seq` and `cur` are the model's own (log 1, log 2). -/
structure State where
  cyc : Nat := 0
  scan : Nat := 0
  seq : Nat := 0
  cur : Tid := ⟨0, 0, 0⟩
  agenda : List Pending := []
  jobs : Map Job := []
  pcores : Map PCore := []
  pclus : Map PCluster := []
  accs : Map Access := []
  walks : Map Walk := []
  packets : Map Packet := []
  routers : Map Router := []
  linkLast : Map Nat := []
  trans : Map Nat := []
  transReqs : Map TransReq := []
  pool : Memory := []
  poolBuf : List (Nat × Host.Cell) := []
  host : Memory := []
  dev : Device := {}
deriving DecidableEq, Repr

/-! ### Outcomes -/

/-- Reasons to stop with a fault. The manual gives every encoding and every combination of modes a defined result
(R6), so no step of this machine stops. -/
inductive Fault where
  /-- Raised by nobody; safe. -/
  | undefinedStep
deriving DecidableEq, Repr

/-- Reasons to refuse an instruction. -/
inductive Refusal where
  /-- Raised by an arm of `exec` whose instruction has no meaning yet; safe. -/
  | notModelled (mnemonic : String)
deriving DecidableEq, Repr

/-- The machine right after reset (R116, R126, R367, R368, R379, R383, R388, R391): no job, every core register 0, every
slot entry at its default, nothing in flight, and the boot step of R397 due. -/
def State.reset : State := { agenda := [⟨0, .boot⟩] }

end Sys2Proof.Machine
end

