-- ==== Sys2Proof/Machine/Memory.lean ====
section
/-!
DEFINITION. The named operations on a memory held in canonical form: one byte, and little-endian values of several
bytes, so that byte order is decided here once (R34, R129).
-/

set_option linter.unusedVariables false

namespace Sys2Proof.Machine

/-- The byte at an address. -/
def Memory.read : Memory → Nat → Byte
  | [], _ => Memory.blank
  | (a', b) :: t, a => if a' = a then b else if a < a' then Memory.blank else Memory.read t a

/-- Writes one byte. Writing what an unlisted address reads as removes the entry. -/
def Memory.write : Memory → Nat → Byte → Memory
  | [], a, b => if b = Memory.blank then [] else [(a, b)]
  | (a', b') :: t, a, b =>
    if a' = a then (if b = Memory.blank then t else (a, b) :: t)
    else if a < a' then (if b = Memory.blank then (a', b') :: t else (a, b) :: (a', b') :: t)
    else (a', b') :: Memory.write t a b

/-- The `n` bytes from `a`, lowest address first. -/
def Memory.readBytes (m : Memory) (a n : Nat) : List Byte := (List.range n).map fun i => m.read (a + i)

/-- Writes a list of bytes from `a` upward. -/
def Memory.writeBytes (m : Memory) (a : Nat) : List Byte → Memory
  | [] => m
  | b :: bs => (m.write a b).writeBytes (a + 1) bs

/-- The little-endian value of a list of bytes. -/
def leNat : List Byte → Nat
  | [] => 0
  | b :: bs => b.toNat + 256 * leNat bs

/-- The `n` little-endian bytes of a value. -/
def leBytes : Nat → Nat → List Byte
  | 0, _ => []
  | n + 1, v => BitVec.ofNat 8 v :: leBytes n (v / 256)

/-- The little-endian value of `n` bytes. -/
def Memory.readNat (m : Memory) (a n : Nat) : Nat := leNat (m.readBytes a n)

/-- Writes a value as `n` little-endian bytes. -/
def Memory.writeNat (m : Memory) (a n v : Nat) : Memory := m.writeBytes a (leBytes n v)

/-- The 64-bit word of 8 bytes. -/
def Memory.read64 (m : Memory) (a : Nat) : Word := w64 (m.readNat a 8)

/-- Writes a 64-bit word. -/
def Memory.write64 (m : Memory) (a : Nat) (v : Word) : Memory := m.writeNat a 8 v.toNat

/-- Removes every listed byte of a range, which then reads as an unlisted address does. -/
def Memory.clear (m : Memory) (a n : Nat) : Memory := m.filter fun c => c.1 < a || a + n ≤ c.1

/-- Replaces the entries of a range of keys by others of that range. -/
def spliceAt {α : Type} (m : List (Nat × α)) (a n : Nat) (cells : List (Nat × α)) : List (Nat × α) :=
  (m.filter fun c => c.1 < a) ++ cells ++ m.filter fun c => a + n ≤ c.1

/-- The entries of a range of keys, counted from its start. -/
def cutFrom {α : Type} (m : List (Nat × α)) (a n : Nat) : List (Nat × α) :=
  (m.filter fun c => a ≤ c.1 && c.1 < a + n).map fun c => (c.1 - a, c.2)

/-- Entries moved up by a distance. -/
def shiftBy {α : Type} (a : Nat) (m : List (Nat × α)) : List (Nat × α) := m.map fun c => (a + c.1, c.2)

/-- Overwrites `n` bytes from `a` with the bytes that a function gives. -/
def Memory.overlay (m : Memory) (a n : Nat) (f : Nat → Byte) : Memory :=
  spliceAt m a n (((List.range n).map fun i => (a + i, f i)).filter fun c => c.2 != Memory.blank)

end Sys2Proof.Machine
end

