-- ==== Sys2Proof/Machine/Types.lean ====
section
/-!
DEFINITION. The codes of the operand types (R35 to R37, R47), the sizes and ranges of the number formats (R129 to R134),
and the limits of R50 on rounding and saturation.
-/

namespace Sys2Proof

/-! ### Codes -/

/-- The type code of R36. -/
def Ty.code : Ty → BitVec 4
  | .i8 => 0x0 | .n8 => 0x1 | .i16 => 0x2 | .n16 => 0x3 | .i32 => 0x4 | .n32 => 0x5 | .i64 => 0x6 | .n64 => 0x7
  | .e4m3 => 0x8 | .e5m2 => 0x9 | .bf16 => 0xA | .f16 => 0xB | .f32 => 0xC | .f64 => 0xD | .a80 => 0xE | .b1 => 0xF

/-- The type with a code (R36); every code names a type. -/
def Ty.ofCode (c : BitVec 4) : Ty :=
  match c.toNat with
  | 0 => .i8 | 1 => .n8 | 2 => .i16 | 3 => .n16 | 4 => .i32 | 5 => .n32 | 6 => .i64 | 7 => .n64
  | 8 => .e4m3 | 9 => .e5m2 | 10 => .bf16 | 11 => .f16 | 12 => .f32 | 13 => .f64 | 14 => .a80 | _ => .b1

/-- The rounding code of R37. -/
def Rm.code : Rm → BitVec 3
  | .rne => 0 | .rtz => 1 | .rup => 2 | .rdn => 3 | .rna => 4

/-- The mode with a code (R37); codes 5 to 7 are never valid and are refused before this is used (R51 case 12). -/
def Rm.ofCode (c : BitVec 3) : Rm :=
  match c.toNat with
  | 0 => .rne | 1 => .rtz | 2 => .rup | 3 => .rdn | _ => .rna

/-- FN[1:0] of `sext` (R98). -/
def Wd.code : Wd → BitVec 2
  | .w8 => 0 | .w16 => 1 | .w32 => 2

/-- The width named by FN[1:0] of `sext` (R98). -/
def Wd.ofCode (c : BitVec 2) : Wd :=
  match c.toNat with
  | 0 => .w8 | 1 => .w16 | _ => .w32

/-- FN[3:0] of `cmp` (R102). -/
def ICond.code : ICond → BitVec 4
  | .eq => 0 | .ne => 1 | .lt => 2 | .le => 3 | .gt => 4 | .ge => 5 | .ltu => 6 | .leu => 7 | .gtu => 8 | .geu => 9

/-- The condition named by FN[3:0] of `cmp` (R102). -/
def ICond.ofCode (c : BitVec 4) : ICond :=
  match c.toNat with
  | 0 => .eq | 1 => .ne | 2 => .lt | 3 => .le | 4 => .gt | 5 => .ge | 6 => .ltu | 7 => .leu | 8 => .gtu | _ => .geu

/-- The three condition bits of `fcmp` and `vcmp` (R151, R170). -/
def FCond.code : FCond → BitVec 3
  | .eq => 0 | .ne => 1 | .lt => 2 | .le => 3 | .gt => 4 | .ge => 5 | .un => 6 | .ord => 7

/-- The condition with a code (R151, R170). -/
def FCond.ofCode (c : BitVec 3) : FCond :=
  match c.toNat with
  | 0 => .eq | 1 => .ne | 2 => .lt | 3 => .le | 4 => .gt | 5 => .ge | 6 => .un | _ => .ord

/-- FN[1:0] of `mkadr` (R124). -/
def AdrForm.code : AdrForm → BitVec 2
  | .abs => 0 | .rel => 1 | .win => 2

/-- The form named by FN[1:0] of `mkadr` (R124). -/
def AdrForm.ofCode (c : BitVec 2) : AdrForm :=
  match c.toNat with
  | 0 => .abs | 1 => .rel | _ => .win

/-- FN[2:0] of `fence` (R206). -/
def Scope.code : Scope → BitVec 3
  | .core => 0 | .cluster => 1 | .job => 2 | .device => 3 | .system => 4

/-- The scope named by FN[2:0] of `fence` (R206). -/
def Scope.ofCode (c : BitVec 3) : Scope :=
  match c.toNat with
  | 0 => .core | 1 => .cluster | 2 => .job | 3 => .device | _ => .system

/-- FN[3:0] of `amo` and `rupd` (R192, R193). -/
def AmoOp.code : AmoOp → BitVec 4
  | .add => 0 | .and => 1 | .or => 2 | .xor => 3 | .min => 4 | .max => 5 | .minu => 6 | .maxu => 7 | .swap => 8

/-- The operation named by FN[3:0] of `amo` (R192). -/
def AmoOp.ofCode (c : BitVec 4) : AmoOp :=
  match c.toNat with
  | 0 => .add | 1 => .and | 2 => .or | 3 => .xor | 4 => .min | 5 => .max | 6 => .minu | 7 => .maxu | _ => .swap

/-- The operation codes of `famo` (R192) and of the reductions (R357). -/
def FOp.code : FOp → BitVec 2
  | .add => 0 | .min => 1 | .max => 2

/-- The operation with a code (R192, R357). -/
def FOp.ofCode (c : BitVec 2) : FOp :=
  match c.toNat with
  | 0 => .add | 1 => .min | _ => .max

/-- FN[1:0] of the span instructions (R266). -/
def Dir.code : Dir → BitVec 2
  | .e => 0 | .n => 1 | .w => 2 | .s => 3

/-- The direction with a code (R266). -/
def Dir.ofCode (c : BitVec 2) : Dir :=
  match c.toNat with
  | 0 => .e | 1 => .n | 2 => .w | _ => .s

/-- The cause codes of R370. -/
def Cause.code : Cause → BitVec 8
  | .ilOpc => 0x01 | .ilRsv => 0x02 | .ilOpnd => 0x03 | .priv => 0x04 | .pcAlign => 0x05
  | .addr => 0x10 | .align => 0x11 | .xlat => 0x12 | .prot => 0x13 | .guard => 0x14 | .storeFault => 0x15
  | .atom => 0x16 | .arith => 0x20 | .spanOrder => 0x30 | .spanTag => 0x31 | .spanLink => 0x32
  | .spanState => 0x33 | .handle => 0x40 | .ddFull => 0x41 | .ddBad => 0x42 | .barPhase => 0x50
  | .msg => 0x51 | .hang => 0x60 | .sw => 0x70 | .mcheck => 0x7F

/-- The vector of a cause is TVEC, the job handler; otherwise it is SVEC (R369). -/
def Cause.toTvec : Cause → Bool
  | .guard | .storeFault | .arith | .spanOrder | .spanTag | .spanLink | .spanState | .ddFull | .barPhase | .hang
  | .sw => true
  | _ => false

/-! ### Formats -/

/-- The width of a type in bits (R36). -/
def Ty.width : Ty → Nat
  | .i8 | .n8 | .e4m3 | .e5m2 => 8
  | .i16 | .n16 | .bf16 | .f16 => 16
  | .i32 | .n32 | .f32 => 32
  | .i64 | .n64 | .f64 => 64
  | .a80 => 80
  | .b1 => 1

/-- The size of a type in bytes as an element in memory. -/
def Ty.bytes (t : Ty) : Nat := (t.width + 7) / 8

/-- A signed integer type. -/
def Ty.signed : Ty → Bool
  | .i8 | .i16 | .i32 | .i64 => true
  | _ => false

/-- An integer type (R134). -/
def Ty.isInt : Ty → Bool
  | .i8 | .n8 | .i16 | .n16 | .i32 | .n32 | .i64 | .n64 => true
  | _ => false

/-- A floating type (R130). -/
def Ty.isFloat : Ty → Bool
  | .e4m3 | .e5m2 | .bf16 | .f16 | .f32 | .f64 | .a80 => true
  | _ => false

/-- The smallest value of an integer type (R134). -/
def Ty.intMin (t : Ty) : Int := if t.signed then -(2 ^ (t.width - 1) : Int) else 0

/-- The largest value of an integer type (R134). -/
def Ty.intMax (t : Ty) : Int := if t.signed then 2 ^ (t.width - 1) - 1 else 2 ^ t.width - 1

/-- The significand bits of a floating type, the leading bit included (R130). -/
def Ty.prec : Ty → Nat
  | .e4m3 => 4 | .e5m2 => 3 | .bf16 => 8 | .f16 => 11 | .f32 => 24 | .f64 => 53 | .a80 => 64 | _ => 0

/-- The bias of a floating type (R130). -/
def Ty.bias : Ty → Nat
  | .e4m3 => 7 | .e5m2 => 15 | .bf16 => 127 | .f16 => 15 | .f32 => 127 | .f64 => 1023 | .a80 => 16383 | _ => 0

/-- The exponent bits of a floating type (R130). -/
def Ty.expBits : Ty → Nat
  | .e4m3 => 4 | .e5m2 => 5 | .bf16 => 8 | .f16 => 5 | .f32 => 8 | .f64 => 11 | .a80 => 15 | _ => 0

/-- The exponent q of the unit of a floating type's subnormals: its smallest positive value is 2^q (R130, R131). -/
def Ty.minQ (t : Ty) : Int := 2 - (t.bias : Int) - (t.prec : Int)

/-- The largest finite value of a floating type as significand and exponent of its unit (R131). e4m3 gives up the
all-ones fraction of its last exponent to NaN. -/
def Ty.maxFinite (t : Ty) : Nat × Int :=
  match t with
  | .e4m3 => (14, 5)
  | _ => (2 ^ t.prec - 1, (2 ^ t.expBits - 2 : Int) - t.bias - ((t.prec : Int) - 1))

/-! ### Type sets (R47) -/

/-- The type sets of R47, and none for a T column holding a dash. -/
inductive TSet where
  | none | int | wide | f | fa | all | lane | narrow | memv | v | vs | dot | span | out | rs | f32
deriving DecidableEq, Repr

/-- Membership in a type set (R47). With no set the type field must be 0, which is the code of i8. -/
def TSet.has : TSet → Ty → Bool
  | .none, t => t == .i8
  | .int, t => t.isInt
  | .wide, t => t == .i32 || t == .n32 || t == .i64 || t == .n64
  | .f, t => t == .f32 || t == .f64
  | .fa, t => t == .f32 || t == .f64 || t == .a80
  | .all, t => t != .b1
  | .lane, t => (t.isInt && t.width ≤ 32) || (t.isFloat && t.width ≤ 32)
  | .narrow, t => (t.isInt && t.width ≤ 16) || (t.isFloat && t.width ≤ 16)
  | .memv, t => t.isInt && t.width ≤ 32
  | .v, t => t == .i32 || t == .n32 || t == .f32
  | .vs, t => t == .i32 || t == .f32
  | .dot, t => t == .i8 || t == .n8
  | .span, t => t == .i8 || t == .e4m3 || t == .e5m2 || t == .bf16 || t == .b1
  | .out, t => t == .i32 || t == .e4m3 || t == .bf16 || t == .f32 || t == .a80
  | .rs, t => t == .i32 || t == .n32 || t == .i64 || t == .n64 || t == .f32 || t == .f64
  | .f32, t => t == .f32

/-! ### Limits on rounding and saturation (R50) -/

/-- m·2^q ≤ m'·2^q' for naturals m and m'. -/
def scaledLe (m : Nat) (q : Int) (m' : Nat) (q' : Int) : Bool :=
  let lo := min q q'
  decide (m * 2 ^ (q - lo).toNat ≤ m' * 2 ^ (q' - lo).toNat)

/-- Every finite value of `s` lies within the finite range of `d`, both floats. -/
def finiteCovers (d s : Ty) : Bool :=
  scaledLe s.maxFinite.1 s.maxFinite.2 d.maxFinite.1 d.maxFinite.2

/-- Every source value is exactly representable in the destination type (R50). A float source holds infinities and
NaNs, which no integer type represents. -/
def convExact (d s : Ty) : Bool :=
  if d == s then true
  else if s.isInt && d.isInt then decide (d.intMin ≤ s.intMin) && decide (s.intMax ≤ d.intMax)
  else if s.isInt then
    let m := if s.signed then s.width - 1 else s.width
    decide (m ≤ d.prec) && scaledLe (2 ^ m) 0 d.maxFinite.1 d.maxFinite.2
  else if d.isInt then false
  else decide (s.prec ≤ d.prec) && decide (d.minQ ≤ s.minQ) && finiteCovers d s && (d != .e4m3)

/-- RM non-zero is permitted for this conversion (R50). -/
def convRm (d s : Ty) : Bool := !convExact d s

/-- SAT = 1 is permitted for this conversion (R50). -/
def convSat (d s : Ty) : Bool :=
  if d == s then false
  else if d.isInt then
    if s.isInt then !(decide (d.intMin ≤ s.intMin) && decide (s.intMax ≤ d.intMax)) else true
  else if s.isInt then
    !(scaledLe s.intMin.natAbs 0 d.maxFinite.1 d.maxFinite.2 && scaledLe s.intMax.natAbs 0 d.maxFinite.1 d.maxFinite.2)
  else !finiteCovers d s

/-- The element type that `vpack` reads its lanes as (R146). -/
def packSrc (p : Ty) : Ty := if p.isFloat then .f32 else if p.signed then .i32 else .n32

end Sys2Proof
end

