-- ==== Sys2Proof/Machine/Ops.lean ====
section
/-!
DEFINITION. The named operations of the machine over its state: threads, cores, clusters and jobs by number, the
agenda, registers and their landings, special registers, parking and waking, handles, traps and their return. Every
meaning is written over these.
-/

set_option linter.unusedVariables false

namespace Sys2Proof

/-- The place of a step among those due in the same cycle: tokens, express packets and buffered ones (R21), answers, landings
by thread number (R94, R159), completion words, unit work, requests that a unit or the job's home takes by member or core
and thread (R214, R244, R316, R337), and after the cycle's issue the arrivals that a pop precedes, by port (R222, R225), and
the bounds that an arrival beats (R211, R224). -/
def Event.rank : Event → Nat
  | .starvationToken _ _ => 0
  | .packetForward _ buffered => if buffered then 2 else 1
  | .accessResponse _ _ => 3
  | .transResult _ => 3
  | .resultLands w _ => 10 + w.thr
  | .handleCompletion _ _ _ => 40
  | .barrierArrival w _ _ _ => 100 + w.lcn * 16 + w.thr
  | .barsetRequest w _ _ => 100 + w.lcn * 16 + w.thr
  | .engineEnqueue op => 100 + op.own.lcn * 16 + op.own.thr
  | .ddEnqueue e => 100 + e.w.lcn * 16 + e.w.thr
  | .pcfgApply w _ _ => 100 + w.lcn * 16 + w.thr
  | .castAccess w _ => 100 + w.lcn * 16 + w.thr
  | .cueArm t => 100 + t.w.lcn * 16 + t.w.thr
  | .cueCommit t => 100 + t.w.lcn * 16 + t.w.thr
  | .cueFailReturn t => 100 + t.w.lcn * 16 + t.w.thr
  | .flitArrival f => 100000 + f.port
  | .recordFrameArrival f => 100000 + f.port
  | .bindToken t => 100000 + t.port
  | .openToken t => 100000 + t.port
  | .waitmTimeout _ _ => 100010
  | .trecvTimeout _ _ => 100010
  | .hangSample _ => 100020
  | _ => 50

/-- Lane by lane, `x` where the mask is set and `old` elsewhere (R161). -/
def Vec.merge (old x : Vec) (m : Mask) : Vec :=
  Vec.ofFn fun i => if m.getLsbD i then x[i] else old[i]

/-- The identity word of an entry (R233). -/
def HRef.word (h : HRef) : Word :=
  w64 (0xC * 2 ^ 60 + (h.seq % 65536) * 2 ^ 32 + h.own.lcn * 2 ^ 16 + h.own.thr * 2 ^ 12 + h.slot)

end Sys2Proof

namespace Sys2Proof.Machine

/-! ### Looking up and updating -/

/-- The job with an identifier. -/
def State.job (s : State) (j : Nat) : Job := s.jobs.getD j {}
/-- A logical core of a job. -/
def State.core (s : State) (j l : Nat) : LCore := (s.job j).cores.getD l {}
/-- A logical cluster of a job. -/
def State.clu (s : State) (j c : Nat) : LCluster := (s.job j).clus.getD c {}
/-- A thread. -/
def State.thread (s : State) (w : Tid) : Thread := (s.core w.job w.lcn).threads.getD w.thr {}
/-- A physical core. -/
def State.pcore (s : State) (pc : Nat) : PCore := s.pcores.getD pc {}
/-- A physical cluster. -/
def State.pclu (s : State) (pcl : Nat) : PCluster := s.pclus.getD pcl {}

/-- Replaces a job by its image under `f`. -/
def State.modJob (s : State) (j : Nat) (f : Job → Job) : State := { s with jobs := s.jobs.set j (f (s.job j)) }
/-- Replaces a logical core. -/
def State.modCore (s : State) (j l : Nat) (f : LCore → LCore) : State :=
  s.modJob j fun b => { b with cores := b.cores.set l (f (b.cores.getD l {})) }
/-- Replaces a logical cluster. -/
def State.modClu (s : State) (j c : Nat) (f : LCluster → LCluster) : State :=
  s.modJob j fun b => { b with clus := b.clus.set c (f (b.clus.getD c {})) }
/-- Replaces a thread. -/
def State.modThread (s : State) (w : Tid) (f : Thread → Thread) : State :=
  s.modCore w.job w.lcn fun c => { c with threads := c.threads.set w.thr (f (c.threads.getD w.thr {})) }
/-- Replaces a physical core. -/
def State.modPCore (s : State) (pc : Nat) (f : PCore → PCore) : State :=
  { s with pcores := s.pcores.set pc (f (s.pcore pc)) }
/-- Replaces a physical cluster. -/
def State.modPClu (s : State) (pcl : Nat) (f : PCluster → PCluster) : State :=
  { s with pclus := s.pclus.set pcl (f (s.pclu pcl)) }

/-- The threads of a job that have ever run, by core and number. -/
def State.threadsOf (s : State) (j : Nat) : List (Tid × Thread) :=
  (s.job j).cores.flatMap fun c => c.2.threads.map fun t => (⟨j, c.1, t.1⟩, t.2)

/-! ### Logical numbers (R25) -/

/-- Logical x of a core. -/
def Job.xOf (b : Job) (l : Nat) : Nat := l % b.w
/-- Logical y of a core. -/
def Job.yOf (b : Job) (l : Nat) : Nat := l / b.w
/-- The logical core at (x, y). -/
def Job.lcnAt (b : Job) (x y : Nat) : Nat := y * b.w + x
/-- The logical cluster index of a core. -/
def Job.cluOf (b : Job) (l : Nat) : Nat := (b.yOf l / 2) * (b.w / 4) + b.xOf l / 4
/-- The member index of a core in its logical cluster. -/
def Job.memOf (b : Job) (l : Nat) : Nat := (b.yOf l % 2) * 4 + b.xOf l % 4
/-- The logical core of a member of a logical cluster. -/
def Job.lcnOf (b : Job) (c m : Nat) : Nat :=
  b.lcnAt ((c % (b.w / 4)) * 4 + m % 4) ((c / (b.w / 4)) * 2 + m / 4)
/-- The number of logical clusters. -/
def Job.cluN (b : Job) : Nat := (b.w / 4) * (b.h / 2)

/-- The physical core number of a physical cluster's member (R10, R379). -/
def pcOf (pcl m : Nat) : Nat := ((pcl / 10) * 2 + m / 4) * 40 + (pcl % 10) * 4 + m % 4
/-- The physical column of a core (R379). -/
def pxOf (pc : Nat) : Nat := pc % 40
/-- The physical row of a core (R379). -/
def pyOf (pc : Nat) : Nat := pc / 40
/-- The physical cluster of a core (R379). -/
def pclOf (pc : Nat) : Nat := (pyOf pc / 2) * 10 + pxOf pc / 4
/-- The member index of a physical core in its cluster. -/
def pmemOf (pc : Nat) : Nat := (pyOf pc % 2) * 4 + pxOf pc % 4

/-- Map-table fields (R383). -/
def mapV (e : BitVec 32) : Bool := e.getLsbD 31
/-- VAC of a map-table entry. -/
def mapVac (e : BitVec 32) : Bool := e.getLsbD 30
/-- FF of a map-table entry. -/
def mapFF (e : BitVec 32) : Nat := (e.extractLsb' 20 4).toNat
/-- G of a map-table entry. -/
def mapG (e : BitVec 32) : Nat := (e.extractLsb' 16 4).toNat
/-- PCL of a map-table entry. -/
def mapPcl (e : BitVec 32) : Nat := (e.extractLsb' 0 8).toNat
/-- The entry that places a resident cluster. -/
def mapEntry (pcl ff g : Nat) : BitVec 32 := BitVec.ofNat 32 (0x80000000 + ff * 0x100000 + g * 0x10000 + pcl)

/-- The physical cluster that carries a logical cluster of a job, and its map entry: the one whose own copy of the
table places that cluster on itself, with the job resident (R26, R383). -/
def State.carrier (s : State) (j c : Nat) : Option (Nat × BitVec 32) :=
  s.pclus.findSome? fun (pcl, p) =>
    let e := p.map.getD c 0
    if mapV e && mapPcl e == pcl && (s.pcore (pcOf pcl 0)).jobreg.toNat == j then some (pcl, e) else none

/-- The physical cluster that holds the contents of a logical cluster of a job, and its map entry: the one that carries it,
or the one that a vacate has begun to empty and has not yet saved (R384). -/
def State.seat (s : State) (j c : Nat) : Option (Nat × BitVec 32) :=
  s.pclus.findSome? fun (pcl, p) =>
    let e := p.map.getD c 0
    if (mapV e || (mapVac e && (s.core j ((s.job j).lcnOf c 0)).saved.isNone)) && mapPcl e == pcl &&
        (s.pcore (pcOf pcl 0)).jobreg.toNat == j then some (pcl, e) else none

/-- The physical core that holds a logical core, if its cluster is in the device. -/
def State.phys? (s : State) (j l : Nat) : Option Nat :=
  (s.seat j ((s.job j).cluOf l)).map fun (pcl, _) => pcOf pcl ((s.job j).memOf l)

/-- The physical core that holds a logical core. -/
def State.phys (s : State) (j l : Nat) : Nat := (s.phys? j l).getD 0

/-- The physical cluster that holds a logical core. -/
def State.physClu (s : State) (j l : Nat) : Nat :=
  ((s.seat j ((s.job j).cluOf l)).map Prod.fst).getD 0

/-- The fold position of a logical core (R383). -/
def State.foldG (s : State) (j l : Nat) : Nat :=
  ((s.seat j ((s.job j).cluOf l)).map fun p => mapG p.2).getD 0

/-- The cluster of a logical core is resident: packets for it are taken. -/
def State.resident (s : State) (j l : Nat) : Bool := (s.carrier j ((s.job j).cluOf l)).isSome

/-- A logical core takes the accesses of another: it is resident, or both leave one physical cluster, whose own accesses a
vacate lets end before it saves it (R263, R384, log 17). -/
def State.serves (s : State) (j l l' : Nat) : Bool :=
  s.resident j l' || ((s.phys? j l').isSome && s.physClu j l == s.physClu j l')

/-- SEG, the scratch base of a logical core: G·F (R116, R383). -/
def State.seg (s : State) (j l : Nat) : Nat := s.foldG j l * (s.job j).foot

/-- The thread that a physical thread of a physical core carries: logical cluster of the resident job placed here at
fold position p div T, logical thread p mod T (R383). -/
def State.carried (s : State) (pc p : Nat) : Option Tid :=
  let j := (s.pcore pc).jobreg.toNat
  let b := s.job j
  if j = 0 || b.t = 0 then none
  else
    let pcl := pclOf pc
    ((s.pclu pcl).map.find? fun (_, e) => mapV e && mapPcl e == pcl && mapG e == p / b.t).map fun (c, _) =>
      ⟨j, b.lcnOf c (pmemOf pc), p % b.t⟩

/-! ### The agenda (log 1) -/

/-- The first rank that runs after the issue of its cycle (R225). -/
def lateRank : Nat := 100000

/-- Inserts a pending step after every step of the same or an earlier place. -/
def insertPending (p : Pending) : List Pending → List Pending
  | [] => [p]
  | q :: qs =>
    if p.due < q.due || (p.due == q.due && p.ev.rank < q.ev.rank) then p :: q :: qs
    else q :: insertPending p qs

/-- Puts a step on the agenda for a cycle. -/
def State.atCycle (s : State) (due : Nat) (e : Event) : State := { s with agenda := insertPending ⟨due, e⟩ s.agenda }

/-- Puts a step on the agenda, `d` cycles from now. -/
def State.later (s : State) (d : Nat) (e : Event) : State := s.atCycle (s.cyc + d) e

/-- Draws a number that no earlier draw gave: the name of an access, a packet or a landing (log 2). -/
def State.drawn (s : State) : State := { s with seq := s.seq + 1 }

/-! ### Registers -/

/-- `Rd` of R91: x0 reads 0, codes 64 up are the core's y registers. -/
def State.rd (s : State) (w : Tid) (r : SReg) : Word :=
  if r = 0 then 0
  else if r.toNat < 64 then (s.thread w).x.getD r.toNat 0
  else (s.core w.job w.lcn).y.getD (r.toNat - 64) 0

/-- The register of a handle operand. -/
def State.rdH (s : State) (w : Tid) (r : HReg) : Word := s.rd w ((0 : BitVec 1) ++ r)

/-- `B_op` of R91. -/
def State.src (s : State) (w : Tid) : Src → Word
  | .reg r => s.rd w r
  | .imm v => v.signExtend 64

/-- A vector register: v of the thread or w of the core (R159). -/
def State.rdV (s : State) (w : Tid) (r : VReg) : Vec :=
  if r.toNat < 16 then (s.thread w).v.getD r.toNat (Vec.splat 0)
  else (s.core w.job w.lcn).w.getD (r.toNat - 16) (Vec.splat 0)

/-- A v operand where I is permitted (R46). -/
def State.vsrc (s : State) (w : Tid) : VSrc → Vec
  | .reg r => s.rdV w r
  | .imm v => Vec.splat v

/-- A predicate; q0 is always 1 (R38). -/
def State.rdQ (s : State) (w : Tid) (q : QReg) : Bool := q == 0 || (s.thread w).q.getLsbD q.toNat

/-- A mask; k0 is all ones (R160). -/
def State.rdK (s : State) (w : Tid) (k : KReg) : Mask := if k = 0 then BitVec.allOnes 64 else (s.thread w).k.getD k.toNat 0

/-- The guard of R41. -/
def State.guardOn (s : State) (w : Tid) (g : Gd) : Bool := s.rdQ w g.gp != g.gn

/-- The PEND tag of a private register (R232). -/
def State.pending (s : State) (w : Tid) (r : HReg) : Bool := (s.thread w).pend.getLsbD r.toNat

/-! ### Special registers (R116, R367, R368) -/

/-- The identity of a thread as `send` and `mqst` write it (R220). -/
def State.identity (s : State) (w : Tid) : Word :=
  w64 (w.lcn * 2 ^ 20 + w.thr * 2 ^ 16 + (s.thread w).gen.toNat)

/-- MQS (R226). -/
def mqStatus (n : Nat) : Word :=
  w64 ((if n = 0 then 64 else 0) + (if n = 16 then 32 else 0) + n)

/-- A special register as `gets` reads it; unassigned numbers read 0. -/
def State.spRead (s : State) (w : Tid) (n : Nat) : Word :=
  let t := s.thread w
  let b := s.job w.job
  match n with
  | 0x000 => w64 w.thr
  | 0x001 => w64 (b.yOf w.lcn * 2 ^ 16 + b.xOf w.lcn)
  | 0x002 => w64 w.lcn
  | 0x003 => w64 (b.h * 2 ^ 16 + b.w)
  | 0x004 => w64 (b.memOf w.lcn * 2 ^ 16 + b.cluOf w.lcn)
  | 0x005 => w64 s.cyc
  | 0x006 => t.flags.zeroExtend 64
  | 0x007 => t.ten.zeroExtend 64
  | 0x008 => (t.ordRound ++ t.ordLink).zeroExtend 64
  | 0x009 => t.geom0
  | 0x00A => t.geom1.zeroExtend 64
  | 0x00B => w64 (s.seg w.job w.lcn)
  | 0x00C => t.dns
  | 0x00D => t.ups
  | 0x00E => t.stg
  | 0x00F => w64 w.job
  | 0x010 => mqStatus t.mq.length
  | 0x011 => t.slog
  | 0x012 => t.mdrop.zeroExtend 64
  | 0x800 => t.epc
  | 0x801 => t.ecause
  | 0x802 => t.eaddr
  | 0x803 => t.einfo
  | 0x804 => t.tvec
  | 0x805 => t.svec
  | 0x806 => t.pstate.zeroExtend 64
  | 0x807 => t.vbase
  | 0x808 => t.jepc
  | 0x809 => t.jcause
  | 0x80A => t.jaddr
  | 0x80B => t.jinfo
  | _ => 0

/-- What the landing of a `sets` does in cycle `cyc`. FLAGS takes the written value ORed with the flags that landed in
the same cycle (R138), and Reported loses the flags cleared (R139). Read-only and unassigned numbers are unchanged; DNS, UPS
and STG are written here by the cast instructions alone (R337, R339). -/
def Thread.spWrite (t : Thread) (cyc n : Nat) (v : Word) : Thread :=
  match n with
  | 0x006 =>
    let now : FlagBits := if t.flagsAt.1 = cyc then t.flagsAt.2 else 0
    { t with flags := v.truncate 7 ||| now, reported := t.reported &&& v.truncate 7 }
  | 0x007 => { t with ten := v.truncate 7 }
  | 0x009 => { t with geom0 := v }
  | 0x00C => { t with dns := v }
  | 0x00D => { t with ups := v }
  | 0x00E => { t with stg := v }
  | 0x00A => { t with geom1 := v.truncate 48 }
  | 0x012 => { t with mdrop := v.truncate 32 }
  | 0x800 => { t with epc := v }
  | 0x801 => { t with ecause := v &&& 0x1FF }
  | 0x802 => { t with eaddr := v }
  | 0x803 => { t with einfo := v }
  | 0x804 => { t with tvec := v }
  | 0x805 => { t with svec := v }
  | 0x806 => { t with pstate := v.truncate 4 }
  | 0x807 => { t with vbase := v &&& 0x000FFFFFFFFF0000 }
  | 0x808 => { t with jepc := v }
  | 0x809 => { t with jcause := v &&& 0xFF }
  | 0x80A => { t with jaddr := v }
  | 0x80B => { t with jinfo := v }
  | _ => t

/-- Bit 0 of PSTATE (R367). -/
def Thread.priv (t : Thread) : Bool := t.pstate.getLsbD 0
/-- Bit 1 of PSTATE: in the job handler. -/
def Thread.jh (t : Thread) : Bool := t.pstate.getLsbD 1
/-- Bit 2 of PSTATE: in the system handler. -/
def Thread.sh (t : Thread) : Bool := t.pstate.getLsbD 2
/-- Bit 3 of PSTATE. -/
def Thread.spriv (t : Thread) : Bool := t.pstate.getLsbD 3

/-- PSTATE from its four bits (R367). -/
def mkPstate (spriv sh jh priv : Bool) : BitVec 4 :=
  BitVec.ofBool spriv ++ BitVec.ofBool sh ++ BitVec.ofBool jh ++ BitVec.ofBool priv

/-! ### Landings (R92 to R94, R138, R159) -/

/-- The register that a write names. -/
def RegWrite.ref : RegWrite → RegRef
  | .s r _ => .s r
  | .v r _ _ => .v r
  | .q r _ => .q r
  | .k r _ => .k r
  | .sp n _ => .sp n
  | .h r _ => .s (r.zeroExtend 7)

/-- A register of the core that its threads share. -/
def RegRef.shared : RegRef → Bool
  | .s r => decide (64 ≤ r.toNat)
  | .v r => decide (16 ≤ r.toNat)
  | _ => false

/-- What a result of an earlier life of a thread still writes: the registers that the core shares (R94, R159). -/
def Landing.shared (l : Landing) : Option Landing :=
  let ws := l.writes.filter fun x => x.ref.shared
  if ws.isEmpty then none else some { l with writes := ws, flags := 0 }

/-- One register write as it lands: x0, q0 and k0 are never changed (R39). The identity of a handle whose entry has resolved
meanwhile is not written. -/
def State.applyWrite (s : State) (w : Tid) : RegWrite → State
  | .s r x =>
    if r = 0 then s
    else if r.toNat < 64 then s.modThread w fun t => { t with x := t.x.set r.toNat x, ddFull := t.ddFull.del r.toNat }
    else s.modCore w.job w.lcn fun c => { c with y := c.y.set (r.toNat - 64) x }
  | .v r x m =>
    if r.toNat < 16 then
      s.modThread w fun t => { t with v := t.v.set r.toNat ((t.v.getD r.toNat (Vec.splat 0)).merge x m) }
    else
      s.modCore w.job w.lcn fun c =>
        { c with w := c.w.set (r.toNat - 16) ((c.w.getD (r.toNat - 16) (Vec.splat 0)).merge x m) }
  | .q r b =>
    if r = 0 then s
    else s.modThread w fun t =>
      { t with q := if b then t.q ||| (1#8 <<< r.toNat) else t.q &&& ~~~(1#8 <<< r.toNat) }
  | .k r m => if r = 0 then s else s.modThread w fun t => { t with k := t.k.set r.toNat m }
  | .sp n x => s.modThread w fun t => t.spWrite s.cyc n x
  | .h r x =>
    if r = 0 then s
    else s.modThread w fun t =>
      match t.handles.get? (x.toNat % 32) with
      | some e =>
        if e.reg = r && e.seq = x.toNat / 2 ^ 32 % 65536 then
          { t with x := t.x.set r.toNat x, ddFull := t.ddFull.del r.toNat, pend := t.pend ||| (1#64 <<< r.toNat) }
        else t
      | none => t

/-- Register writes in order. -/
def State.applyWrites (s : State) (w : Tid) (ws : List RegWrite) : State := ws.foldl (fun s x => s.applyWrite w x) s

/-- ORs sticky flags into FLAGS in this cycle (R138). -/
def State.setFlags (s : State) (w : Tid) (f : FlagBits) : State :=
  if f = 0 then s
  else s.modThread w fun t =>
    { t with flags := t.flags ||| f, flagsAt := (s.cyc, f ||| (if t.flagsAt.1 = s.cyc then t.flagsAt.2 else 0)) }

/-- x0, q0 and k0, to which every write is discarded (R39). -/
def RegRef.fixed : RegRef → Bool
  | .s r => r == 0
  | .q r => r == 0
  | .k r => r == 0
  | _ => false

/-- Marks registers as not yet landed under a name (R93). A discarded write leaves nothing to land: an instruction that names
x0 does not wait for one (log 56). -/
def State.hold (s : State) (w : Tid) (id : Nat) (rs : List RegRef) : State :=
  s.modThread w fun t => { t with busy := t.busy ++ (rs.filter fun r => !r.fixed).map fun r => (id, r) }

/-- Releases the registers held under a name, and the lookahead window of that result (R42). -/
def State.release (s : State) (w : Tid) (id : Nat) : State :=
  s.modThread w fun t =>
    { t with busy := t.busy.filter fun p => p.1 != id, window := t.window.filter fun p => p.1 != id }

/-- Queues a result that lands `lat` cycles after this one (R92). -/
def State.land (s : State) (w : Tid) (lat : Nat) (ws : List RegWrite) (fl : FlagBits) : State :=
  let id := s.seq
  ((s.drawn.modThread w fun t => { t with landings := t.landings ++ [⟨id, s.cyc + lat, ws, fl⟩] }).hold w id
    (ws.map RegWrite.ref)).later lat (.resultLands w id)

/-- Opens the lookahead window of the result just queued: `la` instructions may follow it before it lands (R42). -/
def State.openWindow (s : State) (w : Tid) (id : Nat) (la : BitVec 4) : State :=
  s.modThread w fun t => { t with window := t.window ++ [(id, la.toNat)] }

/-- A scalar result. -/
def State.landS (s : State) (w : Tid) (lat : Nat) (d : SReg) (v : Word) : State := s.land w lat [.s d v] 0

/-- A scalar result of an opcode with L (R42). -/
def State.landLa (s : State) (w : Tid) (lat : Nat) (la : BitVec 4) (ws : List RegWrite) (fl : FlagBits) : State :=
  (s.land w lat ws fl).openWindow w s.seq la

/-- Lands the queued result `id` of a thread; one that has landed already changes nothing (log 7). -/
def State.landNow (s : State) (w : Tid) (id : Nat) : State :=
  match (s.thread w).landings.find? fun l => l.id == id with
  | none => s
  | some l =>
    (((s.modThread w fun t => { t with landings := t.landings.filter fun l => l.id != id }).applyWrites w l.writes).setFlags
      w l.flags).release w id

/-! ### The program counter -/

/-- A code address is valid: a multiple of 12 from CBASE, as a signed distance (R34). -/
def validPc (cbase a : Word) : Bool := (a - cbase).toInt % 12 == 0

/-- CBASE of the core that carries a thread (R379); a management core uses the code base of the firmware (R34). -/
def State.cbase (s : State) (w : Tid) : Word := if w.job = 0 then s.dev.fwBase else (s.pcore (s.phys w.job w.lcn)).cbase

/-- Sets the PC of a thread. -/
def State.setPc (s : State) (w : Tid) (a : Word) : State := s.modThread w fun t => { t with pc := a }

/-- Passes to the next instruction. -/
def State.advance (s : State) (w : Tid) : State := s.setPc w ((s.thread w).pc + 12)

/-- A taken transfer: its target issues no earlier than 8 cycles on (R106). -/
def State.jump (s : State) (w : Tid) (a : Word) : State :=
  s.modThread w fun t => { t with pc := a, readyAt := s.cyc + 8 }

/-- The address of the current instruction of a thread. -/
def State.pcOf (s : State) (w : Tid) : Word := (s.thread w).pc

/-- The result of an instruction under its guard: the effect, or only the passage to the next instruction (R41). -/
def State.guarded (s : State) (g : Gd) (body : State → State) : Host.Outcome State Fault Refusal :=
  .next (if s.guardOn s.cur g then body s else s.advance s.cur)

/-! ### Live and free threads (R28, R120, R121) -/

/-- The thread is live in a cycle: not free. Within the 8 cycles after its `start` a helper still counts as free, already with
its new generation: `thrst` shows it so, and flits to it are dead (log 72). -/
def Thread.isLive (t : Thread) (cyc : Nat) : Bool := if cyc < t.turnsAt then t.st == .free else t.st != .free

/-- The thread is free, and no `start` has taken it. -/
def Thread.isFree (t : Thread) (cyc : Nat) : Bool := t.st == .free && decide (t.turnsAt ≤ cyc)

/-! ### Parking (R28, R227) -/

/-- Parks a thread; its PC stays at the instruction. -/
def State.park (s : State) (w : Tid) (k : WaitKind) (obj : Word) (timed : Bool) (c : Cont) : State :=
  s.modThread w fun t =>
    { t with st := .parked, wait := some ⟨k, obj, s.cyc, timed, c⟩, stamp := t.stamp + 1 }

/-- Ends a thread's wait. It runs, or passes to the held or suspended state (R28). -/
def State.unpark (s : State) (w : Tid) : State :=
  s.modThread w fun t =>
    if t.st = .parked then
      { t with st := .running, wait := none, stamp := t.stamp + 1,
               retry := match t.wait with | some { cont := .reissue, .. } => true | _ => t.retry }
    else t

/-- Holds back a running thread's issue. -/
def State.stallFor (s : State) (w : Tid) (c : Stall) : State :=
  s.modThread w fun t => { t with stall := some c, stamp := t.stamp + 1 }

/-- Ends a stall. -/
def State.unstall (s : State) (w : Tid) : State := s.modThread w fun t => { t with stall := none }

/-- Inserts into a list in ascending order of `k`, after equals. -/
def insertBy {α : Type} (k : α → Nat) (x : α) : List α → List α
  | [] => [x]
  | y :: ys => if k x < k y then x :: y :: ys else y :: insertBy k x ys

/-- Sorts by `k`, keeping the order of equals. -/
def sortBy {α : Type} (k : α → Nat) (l : List α) : List α := l.foldl (fun acc x => insertBy k x acc) []

/-- The job of a physical cluster (R379). -/
def State.jobAt (s : State) (p : Nat) : Nat := (s.pcore (Machine.pcOf p 0)).jobreg.toNat

/-- The logical clusters that a physical cluster carries, in order of fold position. -/
def State.carriedBy (s : State) (p : Nat) : List Nat :=
  (sortBy (fun x => mapG x.2) ((s.pclu p).map.filter fun (_, e) => mapV e && mapPcl e == p)).map Prod.fst

/-- The smallest number above the last one served, else the smallest. -/
def nextAfter (last : Option Nat) (l : List Nat) : Option Nat :=
  let l := sortBy id l
  match last with
  | some x => (l.find? fun y => x < y).orElse fun _ => l.head?
  | none => l.head?

/-- The logical cluster of a physical cluster whose turn it is at a unit, among those with work for it: round-robin by fold
position (R385). -/
def State.foldTurn (s : State) (p u : Nat) (work : Nat → Bool) : Option Nat :=
  let cs := (s.carriedBy p).filter work
  let g (c : Nat) : Nat := mapG ((s.pclu p).map.getD c 0)
  (nextAfter ((s.pclu p).turn.get? u) (cs.map g)).bind fun x => cs.find? fun c => g c == x

/-- Notes that a unit has served a logical cluster. -/
def State.tookTurn (s : State) (p u c : Nat) : State :=
  s.modPClu p fun q => { q with turn := q.turn.set u (mapG (q.map.getD c 0)) }

/-- Parked threads of a job that satisfy a condition, longest parked first. -/
def State.waiters (s : State) (j : Nat) (p : Tid → Wait → Bool) : List Tid :=
  let ws := (s.threadsOf j).filterMap fun (w, t) =>
    match t.st, t.wait with
    | .parked, some x => if p w x then some (x.since, w) else none
    | _, _ => none
  (sortBy Prod.fst ws).map Prod.snd

/-- Resumes every parked thread of a job that satisfies a condition. -/
def State.wakeAll (s : State) (j : Nat) (p : Tid → Wait → Bool) : State :=
  (s.waiters j p).foldl (fun s w => s.unpark w) s

/-! ### Tokens of queued resources

A thread that leaves a first-in, first-out wait list has the place it waited for; the token keeps the place for it
until it issues (R195, R244, R231). -/

/-- Gives a thread a token. -/
def State.grant (s : State) (w : Tid) (k : Nat) : State := s.modThread w fun t => { t with grants := t.grants ++ [k] }

/-- A thread has a token. -/
def State.granted (s : State) (w : Tid) (k : Nat) : Bool := (s.thread w).grants.contains k

/-- Takes a token back. -/
def State.spend (s : State) (w : Tid) (k : Nat) : State := s.modThread w fun t => { t with grants := t.grants.erase k }

/-- Tokens of one kind held by the threads of a job that satisfy a condition. -/
def State.tokens (s : State) (j k : Nat) (p : Tid → Bool) : Nat :=
  ((s.threadsOf j).map fun (w, t) => if p w then (t.grants.filter (· == k)).length else 0).sum

/-! ### Handles (R232 to R236) -/

/-- A completion word: status in [7:0], data in [63:8] (R232). -/
def cword (status data : Nat) : Word := w64 (data * 256 + status)

/-- A completion word with a count in [63:32]. -/
def cwordHi (status flags hi : Nat) : Word := w64 (hi * 2 ^ 32 + flags + status)

/-- The lowest free entry of a handle table (R235). -/
def Thread.freeSlot (t : Thread) : Option Nat := (List.range 32).find? fun i => (t.handles.get? i).isNone

/-- Allocates the entry `slot` for a register, which is not written yet. -/
def State.allocEntry (s : State) (w : Tid) (slot : Nat) (reg : HReg) (k : HKind) : State :=
  s.modThread w fun t =>
    { t with
      handles := t.handles.set slot { seq := t.hseq, kind := k, reg := reg, pc := t.pc }
      hseq := (t.hseq + 1) % 65536 }

/-- Allocates the entry `slot`. With `reg` not 0, the register receives the identity and becomes pending (R232). -/
def State.allocHandle (s : State) (w : Tid) (slot : Nat) (reg : HReg) (k : HKind) : State :=
  s.modThread w fun t =>
    let h : HRef := ⟨w, slot, t.hseq⟩
    { t with
      handles := t.handles.set slot { seq := t.hseq, kind := k, reg := reg, pc := t.pc }
      hseq := (t.hseq + 1) % 65536
      x := if reg = 0 then t.x else t.x.set reg.toNat h.word
      ddFull := if reg = 0 then t.ddFull else t.ddFull.del reg.toNat
      pend := if reg = 0 then t.pend else t.pend ||| (1#64 <<< reg.toNat) }

/-- The entry that the next allocation in `slot` will name. -/
def State.nextHandle (s : State) (w : Tid) (slot : Nat) : HRef := ⟨w, slot, (s.thread w).hseq⟩

/-- An instruction that needs a handle entry: the body with the entry, or a park on ENGQ (R235). -/
def State.withHandle (s : State) (w : Tid) (reg : HReg) (k : HKind) (body : HRef → State → State) : State :=
  match (s.thread w).freeSlot with
  | none => s.park w .engq 0 false .reissue
  | some i => body (s.nextHandle w i) (s.allocHandle w i reg k)

/-- The entry that a reference names, if it is still the same one. -/
def State.entry? (s : State) (h : HRef) : Option HEntry :=
  match (s.thread h.own).handles.get? h.slot with
  | some e => if e.seq = h.seq then some e else none
  | none => none

/-- Resolves an operation: its completion word lands `d` cycles from now (R232). -/
def State.resolve (s : State) (d : Nat) (h : HRef) (c : Word) (fl : FlagBits) : State := s.later d (.handleCompletion h c fl)

/-- Frees an entry and resumes a thread that waited for one (R235). -/
def State.freeEntry (s : State) (h : HRef) : State :=
  let s := s.modThread h.own fun t => { t with handles := t.handles.del h.slot }
  match (s.thread h.own).wait with
  | some x => if x.kind = .engq && x.obj = 0 then s.unpark h.own else s
  | none => s

/-- A completion word lands in a register of a thread: PEND clears, the flags are set, and a thread parked on the
handle resumes (R232, R236). -/
def State.landWord (s : State) (w : Tid) (reg : HReg) (c : Word) (fl : FlagBits) : State :=
  let s := (s.modThread w fun t =>
    { t with x := t.x.set reg.toNat c, pend := t.pend &&& ~~~(1#64 <<< reg.toNat), ddFull := t.ddFull.del reg.toNat }).setFlags
      w fl
  match (s.thread w).wait with
  | some x => if x.kind = .handle && x.obj = w64 (2 ^ 32 + reg.toNat) then s.unpark w else s
  | none => s

/-- The object under which a thread parks on its register `reg`: the register. The call board shows the identity that
the register holds. -/
def handleObj (reg : Nat) : Word := w64 (2 ^ 32 + reg)

/-- An object that stands for a register of the thread. -/
def isHandleObj (o : Word) : Bool := decide (2 ^ 32 ≤ o.toNat) && decide (o.toNat < 2 ^ 33)

/-- HANDLE_COMPLETION: the word goes to the register of the entry, to the adopter, or into the passed entry; the word
of a discarded entry is discarded (R232, R241 to R243). -/
def State.completeHandle (s : State) (h : HRef) (c : Word) (fl : FlagBits) : State :=
  match s.entry? h with
  | none => s
  | some e =>
    if e.discarded then s.freeEntry h
    else if e.passed then
      match e.target with
      | none => s.modThread h.own fun t => { t with handles := t.handles.set h.slot { e with word := some c } }
      | some (w, r) => (s.landWord w r c fl).freeEntry h
    else if e.reg = 0 then s.freeEntry h
    else
      let s := s.landWord h.own e.reg c fl
      let s := if e.kind = .dd && c.toNat % 256 = 10 then
          s.modThread h.own fun t => { t with ddFull := t.ddFull.set e.reg.toNat e.pc }
        else s
      s.freeEntry h

/-! ### Ending a job -/

/-- Has the stage manager end a job: the termination step is due now (R229, R334, R377, R390). -/
def State.endJob (s : State) (j : Nat) (status cause : BitVec 8) : State := s.later 0 (.jobTermination j status cause)

/-! ### Traps (R371, R377) -/

/-- Writes now the special registers that outstanding results of a thread will write, so that a trap record is not
overwritten by an older `sets` (R43, R371). -/
def State.flushSpecial (s : State) (w : Tid) : State :=
  let isSp : RegWrite → Bool := fun x => match x with | .sp _ _ => true | _ => false
  let ws := (s.thread w).landings.flatMap fun l => l.writes.filter isSp
  (s.modThread w fun t =>
    { t with landings := t.landings.map fun l => { l with writes := l.writes.filter fun x => !isSp x } }).applyWrites w ws

/-- Copies placed trap-queue records to the stage manager's service queue in order of placing (R376). -/
def State.toService (s : State) (r : TqRec) : State :=
  { s with dev := { s.dev with service := s.dev.service ++ [r] } }

/-- A thread is suspended: it stops where it is, and its call-board entry dates from now (R227, R263). -/
def State.suspend (s : State) (v : Tid) : State :=
  s.modThread v fun t => if t.st != .free && !t.susp then { t with susp := true, capAt := s.cyc } else t

/-- A fatal event: a record in entry 15, or machine-check hold when entry 15 is occupied (R377). -/
def State.fatalRecord (s : State) (w : Tid) (c : Cause) (p addr info : Word) : State :=
  let pc := s.phys w.job w.lcn
  match (s.pcore pc).tq.get? 15 with
  | some _ =>
    (s.modPCore pc fun q => { q with cstat := q.cstat ||| 2 }).endJob w.job 5 c.code
  | none =>
    let r : TqRec := { pc := p, addr := addr, cause := c, fatal := true, wr := false, eng := false, thr := w.thr,
                       lcn := w.lcn, ent := 15, info := info, own := w, pcore := pc }
    (s.modPCore pc fun q => { q with tq := q.tq.set 15 r, tqNew := q.tqNew ++ [15] }).toService r

/-- TAKING A TRAP of cause `c` at instruction `p` (R371). With TVEC 0 a trap for TVEC ends the job (R334); a trap while
SH is set is fatal: its record is placed, with TQINFO 0, and the thread is suspended as by `tsusp` (R376, R377). The handler's first instruction issues
only after the thread's outstanding results have been written (R43). -/
def State.trapAt (s : State) (w : Tid) (c : Cause) (p eaddr einfo : Word) : State :=
  let s := s.flushSpecial w
  let t := s.thread w
  if c.toTvec && !t.jh && !t.sh then
    if t.tvec = 0 then
      ((s.unpark w).stallFor w .quiet).endJob w.job (if c = .hang then 3 else 4) (if c = .hang then 0 else c.code)
    else
      (s.unpark w).modThread w fun t =>
        { t with jepc := p, jcause := c.code.zeroExtend 64, jaddr := eaddr, jinfo := einfo,
                 pstate := mkPstate t.spriv t.sh true t.priv, pc := t.tvec, stall := some .quiet, retry := false }
  else if !t.sh then
    (s.unpark w).modThread w fun t =>
      { t with epc := p, ecause := w64 (c.code.toNat + (if c.toTvec then 256 else 0)), eaddr := eaddr, einfo := einfo,
               pstate := mkPstate t.priv true t.jh true, pc := t.svec, stall := some .quiet, retry := false }
  else
    (((s.unpark w).fatalRecord w c p eaddr 0).suspend w).modThread w fun t => { t with pc := p, stall := none }

/-- A trap at the instruction that the thread is at. -/
def State.trap (s : State) (w : Tid) (c : Cause) (eaddr einfo : Word) : State := s.trapAt w c (s.pcOf w) eaddr einfo

/-- A machine-check condition: a fatal record, and MCHECK at SVEC when SH = 0 (R377). -/
def State.machineCheck (s : State) (w : Tid) (syndrome : Word) : State :=
  let s' := s.fatalRecord w .mcheck (s.pcOf w) 0 syndrome
  if (s.thread w).sh then s' else s'.trap w .mcheck 0 syndrome

/-- RETURNING FROM A TRAP: `rfe` (R375). -/
def State.trapReturn (s : State) (w : Tid) : State :=
  let t := s.thread w
  if t.sh then
    if !validPc (s.cbase w) t.epc then
      (s.fatalRecord w .pcAlign t.pc t.epc 0).suspend w
    else
      s.modThread w fun t =>
        { t with pstate := mkPstate t.spriv false t.jh t.spriv, pc := t.epc, readyAt := s.cyc + 8 }
  else if t.jh then
    if !validPc (s.cbase w) t.jepc then s.trap w .pcAlign t.jepc 0
    else s.modThread w fun t => { t with pstate := mkPstate t.spriv t.sh false t.priv, pc := t.jepc, readyAt := s.cyc + 8 }
  else s.trap w .priv 0 0

/-- The result of a privileged instruction: PRIV without privilege, after the guard (R48, R52). -/
def State.privileged (s : State) (g : Gd) (body : State → State) : Host.Outcome State Fault Refusal :=
  s.guarded g fun s => if (s.thread s.cur).priv then body s else s.trap s.cur .priv 0 0

end Sys2Proof.Machine
end

