-- ==== Sys2Proof/Machine/Network.lean ====
section
/-!
DEFINITION. The network (R9, R18 to R23): routes in dimension order, express runs, transit times, the link that the channels
share, the tenant check, and the starvation token.
-/

set_option linter.unusedVariables false

namespace Sys2Proof.Machine

/-! ### Places of the mesh (R7, R9) -/

/-- The column of a place: 0 for the west I/O die, px + 1 for a router, 41 for the east I/O die. -/
def meshX (r : Nat) : Nat := if r < 1600 then pxOf r + 1 else if r < 1640 then 0 else 41
/-- The row of a place. -/
def meshY (r : Nat) : Nat := if r < 1600 then pyOf r else (r - 1600) % 40
/-- A place on an I/O die. -/
def onIoDie (r : Nat) : Bool := decide (1600 ≤ r)
/-- The I/O die that fronts a slice, at a row: slices 0 to 11 west, 12 to 23 east (R9). -/
def dieOf (slice row : Nat) : Nat := if slice < 12 then 1600 + row else 1640 + row

/-! ### Routes (R19, R20) -/

/-- The port towards a destination: first along the row, then along the column. Ports: local 0, north 1, east 2,
south 3, west 4. -/
def nextPort (at_ dst : Nat) : Nat :=
  if meshX at_ < meshX dst then 2 else if meshX dst < meshX at_ then 4
  else if meshY at_ < meshY dst then 1 else if meshY dst < meshY at_ then 3 else 0

/-- The place beyond a port: west of px = 0 and east of px = 39 lie the I/O dies (R9). -/
def beyond (at_ port : Nat) : Nat :=
  match port with
  | 1 => at_ + 40
  | 2 => if meshX at_ = 40 then 1640 + meshY at_ else if meshX at_ = 0 then meshY at_ * 40 else at_ + 1
  | 3 => at_ - 40
  | 4 => if meshX at_ = 1 then 1600 + meshY at_ else if meshX at_ = 41 then meshY at_ * 40 + 39 else at_ - 1
  | _ => at_

/-- A link crosses a die seam (R8). -/
def seamBetween (a b : Nat) : Bool := decide (meshX a < 21) != decide (meshX b < 21) || decide (meshY a < 20) != decide (meshY b < 20)

/-- The port by which a packet from `src` enters the router of `dst` (R222). -/
def entryPort (src dst : Nat) : Nat :=
  if meshY src < meshY dst then 3 else if meshY dst < meshY src then 1
  else if meshX src < meshX dst then 4 else if meshX dst < meshX src then 2 else 0

/-- Routers passed straight through before the next turn, the destination or a seam (R20); at most 40. -/
def straightRun (at_ dst : Nat) : Nat → Nat
  | 0 => 0
  | k + 1 =>
    let p := nextPort at_ dst
    let r := beyond at_ p
    if p = 0 || seamBetween at_ r || nextPort r dst != p then 0 else 1 + straightRun r dst k

/-- Links of a route, as places and ports, in order; at most `k` of them. -/
def routeLinks (at_ dst : Nat) : Nat → List (Nat × Nat)
  | 0 => []
  | k + 1 =>
    let p := nextPort at_ dst
    if p = 0 then [] else (at_, p) :: routeLinks (beyond at_ p) dst k

/-! ### Transit (R20, R22) -/

/-- REQ and RSP packets may use express channels. -/
def Chan.express : Chan → Bool
  | .req | .rsp => true
  | _ => false

/-- A packet crosses the next link of its route: where it then stands, and the cycles until it may leave that place. At an
express entry point it takes a run past the next min(4, s) routers; a bypassed router takes 1 cycle, one passed normally
2, a seam 8. -/
def Packet.crossed (p : Packet) : Packet × Nat :=
  let port := nextPort p.at_ p.dst
  let r := beyond p.at_ port
  let n := if p.run > 0 then p.run - 1 else if p.chan.express && p.entry then min 4 (straightRun p.at_ p.dst 40) else 0
  ({ p with at_ := r, run := n, entry := n == 0 && decide (p.run > 0) && nextPort r p.dst == port },
    if n > 0 then 1 else 2 + (if seamBetween p.at_ r then 8 else 0))

/-- The cycles in which a packet that meets no other traffic reaches the router of its destination, over at most `n`
links. -/
def Packet.transit : Nat → Packet → Nat
  | 0, _ => 0
  | n + 1, p => if p.at_ = p.dst then 0 else p.crossed.2 + Packet.transit n p.crossed.1

/-- A packet of a job at the router where it is injected. -/
def State.newPacket (s : State) (c : Chan) (src dst : Nat) (own : Tid) (ev : Event) : Packet :=
  { chan := c, src := src, at_ := src, dst := dst, tenant := (s.job own.job).tenant, entry := true, own := own, payload := ev }

/-- The uncontended time of R22 from one logical core of a job to another, 0 within one core. -/
def State.flight (s : State) (j : Nat) (c : Chan) (l l' : Nat) : Nat :=
  match s.phys? j l, s.phys? j l' with
  | some a, some b => if a = b then 0 else (s.newPacket c a b ⟨j, l, 0⟩ .boot).transit 82 + 4
  | _, _ => 0

/-! ### The tenant check (R23) -/

/-- The router lets a packet onto a link: the link stays in the packet's region, or it lies on a route reserved for the job
between its region and the I/O dies, and the packet is bound for one or comes from one. -/
def State.linkOpen (s : State) (p : Packet) (r port : Nat) : Bool :=
  let q := s.routers.getD r {}
  (q.tenant == p.tenant && q.member.getLsbD port) ||
    ((onIoDie p.dst || onIoDie p.src) && (onIoDie r || (q.io.getD p.own.job 0).getLsbD port))

/-- Every router of a packet's route lets it on. -/
def State.routeOpen (s : State) (p : Packet) : Bool := (routeLinks p.at_ p.dst 82).all fun (r, port) => s.linkOpen p r port

/-- The routers of a job's region admit its tenant's packets to every link between two of its cores, and the rows of the
region are its routes to the I/O dies (R23, R113); what they admitted for it before is withdrawn. DEDUCED: log 69. -/
def State.openRoutes (s : State) (j : Nat) : State :=
  let mine (pc : Nat) : Bool := decide (pc < 1600) && (s.pcores.get? pc).isSome && (s.pcore pc).jobreg.toNat == j
  let cells := (s.pcores.map Prod.fst).filter mine
  let member (pc : Nat) : BitVec 5 :=
    BitVec.ofNat 5 (1 + (if mine (beyond pc 1) then 2 else 0) + (if mine (beyond pc 2) then 4 else 0) +
      (if 40 ≤ pc && mine (beyond pc 3) then 8 else 0) + if mine (beyond pc 4) then 16 else 0)
  let row (m : Map Router) (r : Nat) : Map Router :=
    let q := m.getD r {}
    m.set r { q with io := q.io.set j 0x14 }
  let own (m : Map Router) (r : Nat) : Map Router :=
    let q := m.getD r {}
    m.set r { q with tenant := (s.job j).tenant, member := member r }
  let rs : Map Router := s.routers.map fun (r, q) => (r, { q with io := q.io.del j })
  let rows := (cells.map pyOf).eraseDups.flatMap fun y => (List.range 40).map fun x => y * 40 + x
  { s with routers := cells.foldl own (rows.foldl row rs) }

/-! ### Links, waiting packets and the token (R18, R21) -/

/-- The number of a link: router and port. The four channels share it. -/
def linkKey (r port : Nat) : Nat := r * 8 + port

/-- A packet holds the link in this cycle. -/
def State.linkTaken (s : State) (r port : Nat) : Bool :=
  match s.linkLast.get? (linkKey r port) with
  | some l => decide (s.cyc ≤ l)
  | none => false

/-- Changes a router. -/
def State.modRouter (s : State) (r : Nat) (f : Router → Router) : State := { s with routers := s.routers.set r (f (s.routers.getD r {})) }

/-- The packets that wait at a router for a port, in order. -/
def State.waiting (s : State) (r port : Nat) : List Nat := (s.routers.getD r {}).queue.getD port []

/-- Sets the packets that wait. -/
def State.setWaiting (s : State) (r port : Nat) (l : List Nat) : State :=
  s.modRouter r fun q => { q with queue := if l.isEmpty then q.queue.del port else q.queue.set port l }

/-- A packet bypasses a router on a port for some cycles. When others wait for that port these are bypass cycles of theirs; at
the eighth in a row the router raises its token for the next cycle. -/
def State.noteBypass (s : State) (r port beats : Nat) : State :=
  if (s.waiting r port).isEmpty then s.modRouter r fun q => { q with bypass := q.bypass.del port }
  else
    let (n, last) := (s.routers.getD r {}).bypass.getD port (0, 0)
    let n := if last + 1 = s.cyc then n + beats else beats
    if n < 8 then s.modRouter r fun q => { q with bypass := q.bypass.set port (n, s.cyc + beats - 1) }
    else (s.modRouter r fun q => { q with bypass := q.bypass.del port }).later beats (.starvationToken r port)

/-- STARVATION_TOKEN: in this cycle the router serves its waiting traffic on an output, so express traffic that reaches
it is buffered (R21). -/
def execStarvationToken (router port : Nat) (s : State) : Host.Outcome State Fault Refusal :=
  .next (s.modRouter router fun q => { q with token := q.token.set port s.cyc, bypass := q.bypass.del port })

/-- A packet that would bypass a router is buffered there: the token is up, the link is taken, or one of its channel, source
and destination waits there, which it must not overtake (R19, R21). -/
def State.buffers (s : State) (p : Packet) (port : Nat) : Bool :=
  (s.routers.getD p.at_ {}).token.get? port == some s.cyc || s.linkTaken p.at_ port ||
    (s.waiting p.at_ port).any fun i =>
      match s.packets.get? i with
      | some q => q.chan == p.chan && q.src == p.src && q.dst == p.dst
      | none => false

/-! ### Injection -/

/-- Injects a packet at its router, `d` cycles from now; injection takes 2 cycles. -/
def State.injectPacket (s : State) (d : Nat) (p : Packet) : State :=
  ({ s.drawn with packets := s.packets.set s.seq p }).later (d + 2) (.packetForward s.seq true)

/-- Injects the packet of a step. -/
def State.inject (s : State) (d : Nat) (c : Chan) (src dst : Nat) (own : Tid) (ev : Event) : State :=
  s.injectPacket d (s.newPacket c src dst own ev)

/-- The physical core to which the router of a physical core translates a logical destination: by its own cluster's copy of
the map table (R26, R383). -/
def State.routed? (s : State) (src j l : Nat) : Option Nat :=
  let e := (s.pclu (pclOf src)).map.getD ((s.job j).cluOf l) 0
  if mapV e || (mapVac e && mapPcl e == pclOf src && (s.phys? j l).isSome) then some (Machine.pcOf (mapPcl e) ((s.job j).memOf l)) else none

/-- The packet of a step that goes from one logical core of a job to another, when they lie on two physical cores. -/
def State.packetTo (s : State) (c : Chan) (own : Tid) (l l' : Nat) (ev : Event) : Option Packet :=
  (s.phys? own.job l).bind fun a =>
    (s.routed? a own.job l').bind fun b => if a = b then none else some (s.newPacket c a b own ev)

/-- Sends a step from one logical core of a job to another: at once after `d` cycles within one physical core, otherwise
as a packet of some beats, whose last follows its first (R22, R26). -/
def State.sendTo (s : State) (d : Nat) (c : Chan) (own : Tid) (l l' : Nat) (ev : Event) (beats : Nat := 1) : State :=
  match s.packetTo c own l l' ev with
  | some p => s.injectPacket d { p with beats := beats }
  | none => s.later (d + beats - 1) ev

/-- The request of a core to a pool slice, or a response to it: a packet between its router and the I/O die in its row. The
step is due no earlier than a cycle of the fabric's (R9, R18, R188). -/
def State.poolPacket (s : State) (c : Chan) (own : Tid) (slice floor : Nat) (trip : Bool) (ev : Event) : Packet :=
  let pc := s.phys own.job own.lcn
  let die := dieOf slice (pyOf pc)
  if c == .rsp then { s.newPacket c die pc own ev with floor := floor, trip := trip }
  else { s.newPacket c pc die own ev with floor := floor, trip := trip }

end Sys2Proof.Machine
end

