-- ==== Sys2Proof/Machine/Flags.lean ====
section
/-!
DEFINITION. The sticky flags of R137 and the clamps that set SAT (R134, R141 to R143, R165).
-/

set_option linter.unusedVariables false

namespace Sys2Proof

/-! ### Flags (R137) -/

/-- IV: invalid operation. -/
def fIV : FlagBits := 0x01
/-- DZ: division by zero. -/
def fDZ : FlagBits := 0x02
/-- OF: overflow. -/
def fOF : FlagBits := 0x04
/-- UF: tiny and inexact. -/
def fUF : FlagBits := 0x08
/-- NX: inexact. -/
def fNX : FlagBits := 0x10
/-- SB: substituted data. -/
def fSB : FlagBits := 0x20
/-- SAT: clamped. -/
def fSAT : FlagBits := 0x40

/-- A flag when a condition holds. -/
def flagIf (b : Bool) (f : FlagBits) : FlagBits := if b then f else 0

/-- A clamp into a range, with SAT when it acts. -/
def clampInt (lo hi v : Int) : Int × FlagBits :=
  if v < lo then (lo, fSAT) else if v > hi then (hi, fSAT) else (v, 0)

/-- A value in two's complement of `w` bits, as a natural. -/
def intBits (w : Nat) (v : Int) : Nat := (v % 2 ^ w).toNat

/-- The value of the low `w` bits as two's complement. -/
def bitsInt (w : Nat) (n : Nat) : Int := if (n % 2 ^ w).testBit (w - 1) then (n % 2 ^ w : Int) - 2 ^ w else (n % 2 ^ w : Nat)

/-- An integer result of type `t`: clamped under SAT, else reduced modulo 2^w with no flag (R165, R171). -/
def Ty.intResult (t : Ty) (sat : Bool) (v : Int) : Nat × FlagBits :=
  if sat then
    let (r, f) := clampInt t.intMin t.intMax v
    (intBits t.width r, f)
  else (intBits t.width v, 0)

/-- The value of a pattern of an integer type (R134). -/
def Ty.intValue (t : Ty) (bits : Nat) : Int :=
  if t.signed then bitsInt t.width bits else ((bits % 2 ^ t.width : Nat) : Int)

end Sys2Proof
end

