-- ==== Sys2Proof/Machine/Float.lean ====
section
/-!
DEFINITION. Floating arithmetic on exact values: every operation is computed as a real number of the form n·2^q (or a
truncation of one with a sticky bit) and rounded once into its format (R130 to R136, R149 to R152, R172).
-/

set_option linter.unusedVariables false

namespace Sys2Proof

/-! ### Values (R130, R132, R133) -/

/-- The value of a floating pattern: a NaN, an infinity, or (−1)^neg · m · 2^q. -/
inductive FVal where
  | nan (signalling : Bool)
  | inf (neg : Bool)
  | fin (neg : Bool) (m : Nat) (q : Int)
deriving DecidableEq, Repr

/-- The value of a pattern of a floating type. -/
def Ty.value (t : Ty) (bits : Nat) : FVal :=
  match t with
  | .a80 =>
    let neg := bits.testBit 79
    let e := bits / 2 ^ 64 % 2 ^ 15
    let f := bits % 2 ^ 64
    if e = 0x7FFF then (if f = 2 ^ 63 then .inf neg else .nan (!f.testBit 62))
    else .fin neg f ((max e 1 : Nat) - 16446 : Int)
  | _ =>
    let fb := t.prec - 1
    let neg := bits.testBit (t.width - 1)
    let e := bits / 2 ^ fb % 2 ^ t.expBits
    let f := bits % 2 ^ fb
    let emax := 2 ^ t.expBits - 1
    if t = .e4m3 then
      if e = emax ∧ f = 7 then .nan false
      else if e = 0 then .fin neg f t.minQ else .fin neg (f + 2 ^ fb) (t.minQ + e - 1)
    else if e = emax then (if f = 0 then .inf neg else .nan (!f.testBit (fb - 1)))
    else if e = 0 then .fin neg f t.minQ
    else .fin neg (f + 2 ^ fb) (t.minQ + e - 1)

/-- A signalling NaN sets IV. -/
def FVal.sigFlag : FVal → FlagBits
  | .nan true => fIV
  | _ => 0

/-- A NaN. -/
def FVal.isNan : FVal → Bool
  | .nan _ => true
  | _ => false

/-- The sign bit of a pattern. -/
def Ty.signBit (t : Ty) (neg : Bool) : Nat := if neg then 2 ^ (t.width - 1) else 0

/-- The canonical NaN (R131). -/
def Ty.canonNan : Ty → Nat
  | .f64 => 0x7FF8000000000000 | .f32 => 0x7FC00000 | .f16 => 0x7E00 | .bf16 => 0x7FC0 | .e5m2 => 0x7E | .e4m3 => 0x7F
  | .a80 => 0x7FFFC000000000000000 | _ => 0

/-- The pattern of an infinity; e4m3 has none and its canonical NaN stands for it (R136). -/
def Ty.infBits (t : Ty) (neg : Bool) : Nat :=
  match t with
  | .e4m3 => 0x7F
  | .a80 => t.signBit neg + 0x7FFF8000000000000000
  | _ => t.signBit neg + (2 ^ t.expBits - 1) * 2 ^ (t.prec - 1)

/-- The pattern of the finite value m·2^q, where m has at most `prec` bits, and exactly `prec` unless q = minQ. -/
def Ty.finBits (t : Ty) (neg : Bool) (m : Nat) (q : Int) : Nat :=
  let lead := 2 ^ (t.prec - 1)
  if m < lead then t.signBit neg + m
  else
    let e := (q - t.minQ).toNat + 1
    match t with
    | .a80 => t.signBit neg + e * 2 ^ 64 + m
    | _ => t.signBit neg + e * lead + (m - lead)

/-- The pattern of the largest finite value (R131). -/
def Ty.maxBits (t : Ty) (neg : Bool) : Nat :=
  match t with
  | .e4m3 => t.signBit neg + 0x7E
  | .a80 => t.signBit neg + 0x7FFEFFFFFFFFFFFFFFFF
  | _ => t.signBit neg + ((2 ^ t.expBits - 1) * 2 ^ (t.prec - 1) - 1)

/-! ### Rounding (R135, R136) -/

/-- Number of bits of a positive natural; 0 for 0. -/
def bitLen (n : Nat) : Nat := if n = 0 then 0 else n.log2 + 1

/-- Whether the magnitude is rounded up: `low` is the kept lowest bit, `cmp` compares the dropped part with a half. -/
def roundsUp (rm : Rm) (neg low : Bool) (cmp : Ordering) (exact : Bool) : Bool :=
  match rm with
  | .rne => cmp = .gt || (cmp = .eq && low)
  | .rna => cmp = .gt || cmp = .eq
  | .rtz => false
  | .rup => !exact && !neg
  | .rdn => !exact && neg

/-- m·2^q with a sticky fraction, rounded to a multiple of 2^q': the multiple and whether it is exact. -/
def roundAt (rm : Rm) (neg : Bool) (m : Nat) (q : Int) (sticky : Bool) (q' : Int) : Nat × Bool :=
  if q' ≤ q then (m * 2 ^ (q - q').toNat, !sticky)
  else
    let k := (q' - q).toNat
    let r := m / 2 ^ k
    let d := m % 2 ^ k
    let half := 2 ^ (k - 1)
    let cmp : Ordering := if d < half then .lt else if d > half || sticky then .gt else .eq
    let exact := d == 0 && !sticky
    (if roundsUp rm neg (r % 2 == 1) cmp exact then r + 1 else r, exact)

/-- What stands for an overflowing result (R136, and R143 with SAT). -/
def Ty.overflow (t : Ty) (rm : Rm) (sat neg : Bool) : Nat × FlagBits :=
  if sat then (t.maxBits neg, fSAT ||| fNX)
  else
    let inf := match rm with
      | .rne | .rna => true
      | .rtz => false
      | .rup => !neg
      | .rdn => neg
    (if inf then t.infBits neg else t.maxBits neg, fOF ||| fNX)

/-- The exact value (−1)^neg · (m + sticky) · 2^q rounded into the format. A sticky fraction needs m to have at least
two bits more than the format. -/
def Ty.round (t : Ty) (rm : Rm) (sat neg : Bool) (m : Nat) (q : Int) (sticky : Bool) : Nat × FlagBits :=
  if m = 0 && !sticky then (t.signBit neg, 0)
  else
    let qu := q + (bitLen m : Int) - t.prec
    let (r0, ex) := roundAt rm neg m q sticky qu
    let (r, qr) := if bitLen r0 > t.prec then (r0 / 2, qu + 1) else (r0, qu)
    if !scaledLe r qr t.maxFinite.1 t.maxFinite.2 then t.overflow rm sat neg
    else if qr < t.minQ then
      let (r', ex') := roundAt rm neg m q sticky t.minQ
      (t.finBits neg r' t.minQ, flagIf (!ex') (fUF ||| fNX))
    else (t.finBits neg r qr, flagIf (!ex) fNX)

/-- A signed dyadic n·2^q. -/
structure Dy where
  n : Int
  q : Int
deriving DecidableEq, Repr

/-- The dyadic of a finite value. -/
def FVal.dy : FVal → Dy
  | .fin neg m q => ⟨if neg then -(m : Int) else m, q⟩
  | _ => ⟨0, 0⟩

/-- The exact sum. -/
def Dy.add (a b : Dy) : Dy :=
  let q := min a.q b.q
  ⟨a.n * 2 ^ (a.q - q).toNat + b.n * 2 ^ (b.q - q).toNat, q⟩

/-- The exact product. -/
def Dy.mul (a b : Dy) : Dy := ⟨a.n * b.n, a.q + b.q⟩

/-- Comparison of exact values. -/
def Dy.lt (a b : Dy) : Bool :=
  let q := min a.q b.q
  decide (a.n * 2 ^ (a.q - q).toNat < b.n * 2 ^ (b.q - q).toNat)

/-- Equality of exact values. -/
def Dy.eqv (a b : Dy) : Bool :=
  let q := min a.q b.q
  decide (a.n * 2 ^ (a.q - q).toNat = b.n * 2 ^ (b.q - q).toNat)

/-- A dyadic rounded into the format; `zeroNeg` is the sign of an exact zero. -/
def Ty.roundDy (t : Ty) (rm : Rm) (sat zeroNeg : Bool) (d : Dy) : Nat × FlagBits :=
  if d.n = 0 then (t.signBit zeroNeg, 0) else t.round rm sat (d.n < 0) d.n.natAbs d.q false

/-! ### Arithmetic (R149) -/

/-- The canonical NaN with the given flags. -/
def Ty.nanR (t : Ty) (f : FlagBits) : Nat × FlagBits := (t.canonNan, f)

/-- x + y of values, rounded. An exact zero sum is +0, except −0 under rdn; two zeros of one sign keep it. -/
def Ty.addV (t : Ty) (rm : Rm) (x y : FVal) : Nat × FlagBits :=
  if x.isNan || y.isNan then t.nanR (x.sigFlag ||| y.sigFlag)
  else match x, y with
    | .inf a, .inf b => if a = b then (t.infBits a, 0) else t.nanR fIV
    | .inf a, _ => (t.infBits a, 0)
    | _, .inf b => (t.infBits b, 0)
    | .fin a m _, .fin b n _ =>
      let z := if m = 0 ∧ n = 0 ∧ a = b then a else rm == .rdn
      t.roundDy rm false z (x.dy.add y.dy)
    | _, _ => t.nanR 0

/-- The sign of a value. -/
def FVal.neg : FVal → Bool
  | .inf a => a
  | .fin a _ _ => a
  | _ => false

/-- The value with the opposite sign. -/
def FVal.negate : FVal → FVal
  | .inf a => .inf (!a)
  | .fin a m q => .fin (!a) m q
  | .nan g => .nan g

/-- A zero. -/
def FVal.isZero : FVal → Bool
  | .fin _ 0 _ => true
  | _ => false

/-- The exact product of two values, with the flags of an invalid one. -/
def FVal.mul (x y : FVal) : FVal × FlagBits :=
  if x.isNan || y.isNan then (.nan false, x.sigFlag ||| y.sigFlag)
  else
    let s := x.neg != y.neg
    match x, y with
    | .fin _ m q, .fin _ n r => (.fin s (m * n) (q + r), 0)
    | _, _ => if x.isZero || y.isZero then (.nan false, fIV) else (.inf s, 0)

/-- A value rounded into the format. -/
def Ty.roundV (t : Ty) (rm : Rm) (x : FVal) : Nat × FlagBits :=
  match x with
  | .nan _ => t.nanR 0
  | .inf a => (t.infBits a, 0)
  | .fin a m q => t.round rm false a m q false

/-- a + b. -/
def fAdd (t : Ty) (rm : Rm) (a b : Nat) : Nat × FlagBits := t.addV rm (t.value a) (t.value b)

/-- a − b. A NaN operand is a NaN operand whatever its sign. -/
def fSub (t : Ty) (rm : Rm) (a b : Nat) : Nat × FlagBits := t.addV rm (t.value a) (t.value b).negate

/-- a × b. -/
def fMul (t : Ty) (rm : Rm) (a b : Nat) : Nat × FlagBits :=
  let (p, f) := (t.value a).mul (t.value b)
  let (r, g) := t.roundV rm p
  (r, f ||| g)

/-- a × b + c on values. DEDUCED (log 11): a quiet NaN decides before 0 × ∞ is looked at. -/
def Ty.fmaV (t : Ty) (rm : Rm) (x y z : FVal) : Nat × FlagBits :=
  if x.isNan || y.isNan || z.isNan then t.nanR (x.sigFlag ||| y.sigFlag ||| z.sigFlag)
  else
    let (p, f) := x.mul y
    if p.isNan then t.nanR f else t.addV rm p z

/-- a × b + c, fused. -/
def fFma (t : Ty) (rm : Rm) (a b c : Nat) : Nat × FlagBits := t.fmaV rm (t.value a) (t.value b) (t.value c)

/-- a × b − c, fused. -/
def fFms (t : Ty) (rm : Rm) (a b c : Nat) : Nat × FlagBits := t.fmaV rm (t.value a) (t.value b) (t.value c).negate

/-- The quotient of m·2^q by n·2^r to at least `p` + 3 bits: truncated mantissa, exponent, sticky. -/
def divApprox (p : Nat) (m : Nat) (q : Int) (n : Nat) (r : Int) : Nat × Int × Bool :=
  let k := p + 3 + bitLen n - bitLen m
  let num := m * 2 ^ k
  (num / n, q - r - k, num % n != 0)

/-- a / b. -/
def fDiv (t : Ty) (rm : Rm) (a b : Nat) : Nat × FlagBits :=
  let x := t.value a
  let y := t.value b
  if x.isNan || y.isNan then t.nanR (x.sigFlag ||| y.sigFlag)
  else
    let s := x.neg != y.neg
    match x, y with
    | .inf _, .inf _ => t.nanR fIV
    | .inf _, _ => (t.infBits s, 0)
    | _, .inf _ => (t.signBit s, 0)
    | .fin _ m q, .fin _ n r =>
      if n = 0 then (if m = 0 then t.nanR fIV else (t.infBits s, fDZ))
      else if m = 0 then (t.signBit s, 0)
      else
        let (d, e, st) := divApprox t.prec m q n r
        t.round rm false s d e st
    | _, _ => t.nanR 0

/-- The largest r with r² ≤ n, found bit by bit from bit k − 1 down. -/
def isqrtFrom (n : Nat) : Nat → Nat → Nat
  | 0, r => r
  | k + 1, r => isqrtFrom n k (if (r + 2 ^ k) * (r + 2 ^ k) ≤ n then r + 2 ^ k else r)

/-- The integer square root. -/
def isqrt (n : Nat) : Nat := isqrtFrom n (bitLen n / 2 + 1) 0

/-- √a. -/
def fSqrt (t : Ty) (rm : Rm) (a : Nat) : Nat × FlagBits :=
  match t.value a with
  | .nan g => t.nanR (flagIf g fIV)
  | .inf neg => if neg then t.nanR fIV else (t.infBits false, 0)
  | .fin neg m q =>
    if m = 0 then (t.signBit neg, 0)
    else if neg then t.nanR fIV
    else
      let k0 := 2 * (t.prec + 3)
      let k := if (q - k0) % 2 = 0 then k0 else k0 + 1
      let n := m * 2 ^ k
      let r := isqrt n
      t.round rm false false r ((q - k) / 2) (r * r != n)

/-! ### Comparison, minimum and maximum, class (R150 to R152) -/

/-- x < y for values that are not NaNs; zeros are equal. -/
def FVal.lt (x y : FVal) : Bool :=
  match x, y with
  | .inf a, .inf b => a && !b
  | .inf a, _ => a
  | _, .inf b => !b
  | _, _ => x.dy.lt y.dy

/-- x = y for values that are not NaNs; zeros are equal. -/
def FVal.eqv (x y : FVal) : Bool :=
  match x, y with
  | .inf a, .inf b => a == b
  | .inf _, _ => false
  | _, .inf _ => false
  | _, _ => x.dy.eqv y.dy

/-- A pattern as `fmin` and `fmax` write it: bit for bit, or the canonical encoding for a80. -/
def Ty.canonical (t : Ty) (bits : Nat) : Nat :=
  match t, t.value bits with
  | .a80, .fin neg m q => (t.round .rne false neg m q false).1
  | _, _ => bits

/-- The smaller (or with `mx` the larger) of a and b, −0 below +0 (R150). -/
def fMinMax (t : Ty) (mx : Bool) (a b : Nat) : Nat × FlagBits :=
  let x := t.value a
  let y := t.value b
  let f := x.sigFlag ||| y.sigFlag
  if x.isNan && y.isNan then (t.canonNan, f)
  else if x.isNan then (t.canonical b, f)
  else if y.isNan then (t.canonical a, f)
  else
    let less := x.lt y || (x.eqv y && x.neg && !y.neg)
    (t.canonical (if less != mx then a else b), f)

/-- The condition of `fcmp` and its IV (R151). -/
def fCmp (t : Ty) (c : FCond) (a b : Nat) : Bool × FlagBits :=
  let x := t.value a
  let y := t.value b
  let un := x.isNan || y.isNan
  let sig := x.sigFlag ||| y.sigFlag
  let any := flagIf un fIV
  match c with
  | .eq => (!un && x.eqv y, sig)
  | .ne => (un || !x.eqv y, sig)
  | .lt => (!un && x.lt y, any)
  | .le => (!un && (x.lt y || x.eqv y), any)
  | .gt => (!un && y.lt x, any)
  | .ge => (!un && (y.lt x || x.eqv y), any)
  | .un => (un, sig)
  | .ord => (!un, sig)

/-- The one-hot class word of R152. -/
def fClass (t : Ty) (a : Nat) : Nat :=
  match t.value a with
  | .nan g => if g then 2 ^ 8 else 2 ^ 9
  | .inf neg => if neg then 2 ^ 0 else 2 ^ 7
  | .fin neg m q =>
    if m = 0 then (if neg then 2 ^ 3 else 2 ^ 4)
    else if scaledLe (2 ^ (t.prec - 1)) t.minQ m q then (if neg then 2 ^ 1 else 2 ^ 6)
    else (if neg then 2 ^ 2 else 2 ^ 5)

/-! ### Transcendental functions (R172, log 10)

Each is bracketed between two multiples of 2^−p whose rounding agrees, at growing p. -/

/-- Bounds of ln 2 in units of 2^−p: the sum of 2^−k/k for k = 1 to p, each term truncated. -/
def ln2Bounds (p : Nat) : Nat × Nat :=
  let lo := ((List.range p).map fun i => 2 ^ p / (2 ^ (i + 1) * (i + 1))).sum
  (lo, lo + p + 1)

/-- The sum of y^k/k! in units of 2^−p for k = 0 to n − 1, each step truncated; `term` is the k-th term. -/
def expSum (p y : Nat) : Nat → Nat → Nat → Nat → Nat
  | 0, _, _, acc => acc
  | n + 1, k, term, acc => expSum p y n (k + 1) (term * y / 2 ^ p / (k + 1)) (acc + term)

/-- Bounds of 2^f in units of 2^−p, for f in [0, 1) given in the same units. Sixty-four and p/4 terms leave a remainder
below one unit; each term is truncated by less than three. -/
def exp2Bounds (p f : Nat) : Nat × Nat :=
  let (l, h) := ln2Bounds p
  let n := 64 + p / 4
  (expSum p (f * l / 2 ^ p) n 0 (2 ^ p) 0, expSum p (f * h / 2 ^ p + 1) n 0 (2 ^ p) 0 + 4 * n)

/-- The sum of z^(2k+1)/(2k+1) in units of 2^−p, each step truncated; `pw` is the power, `z2` the square of z. -/
def atanhSum (p z2 : Nat) : Nat → Nat → Nat → Nat → Nat
  | 0, _, _, acc => acc
  | n + 1, k, pw, acc => atanhSum p z2 n (k + 1) (pw * z2 / 2 ^ p) (acc + pw / (2 * k + 1))

/-- Bounds of log2 u in units of 2^−p, for u = m / 2^b in [1, 2): log2 u = 2·atanh((u − 1)/(u + 1)) / ln 2. -/
def log2Bounds (p m b : Nat) : Nat × Nat :=
  let (l, h) := ln2Bounds p
  let num := (m - 2 ^ b) * 2 ^ p
  let den := m + 2 ^ b
  let zl := num / den
  let zh := zl + 1
  let n := p / 3 + 8
  let al := 2 * atanhSum p (zl * zl / 2 ^ p) n 0 zl 0
  let ah := 2 * (atanhSum p (zh * zh / 2 ^ p + 1) n 0 zh 0 + 4 * n)
  (al * 2 ^ p / h, ah * 2 ^ p / l + 1)

/-- Rounds a bracketed f32 result whose exact value is irrational: the first precision of the list at which both bounds
round alike decides. -/
def bracketRound (f : Nat → Bool × Nat × Nat × Int) : List Nat → Nat × FlagBits
  | [] => (0, 0)
  | p :: ps =>
    let (neg, lo, hi, q) := f p
    let a := Ty.f32.round .rne false neg lo q true
    let b := Ty.f32.round .rne false neg hi q true
    if a = b || ps.isEmpty then a else bracketRound f ps

/-- 2^a. -/
def fExp2 (a : Nat) : Nat × FlagBits :=
  match Ty.f32.value a with
  | .nan g => Ty.f32.nanR (flagIf g fIV)
  | .inf neg => if neg then (0, 0) else (Ty.f32.infBits false, 0)
  | .fin neg m q =>
    if m = 0 then (0x3F800000, 0)
    else if scaledLe 256 0 m q then
      (if neg then (0, fUF ||| fNX) else Ty.f32.overflow .rne false false)
    else
      let n : Int := if neg then -(m : Int) else m
      if q ≥ 0 then
        Ty.f32.round .rne false false 1 (n * 2 ^ q.toNat) false
      else
        let k := (-q).toNat
        let i := n / 2 ^ k
        let f := (n % 2 ^ k).toNat
        if f = 0 then Ty.f32.round .rne false false 1 i false
        else
          bracketRound (fun p =>
            let (lo, hi) := exp2Bounds p (f * 2 ^ p / 2 ^ k)
            (false, lo, hi, i - p)) [192, 384, 768]

/-- log₂ a. -/
def fLog2 (a : Nat) : Nat × FlagBits :=
  match Ty.f32.value a with
  | .nan g => Ty.f32.nanR (flagIf g fIV)
  | .inf neg => if neg then Ty.f32.nanR fIV else (Ty.f32.infBits false, 0)
  | .fin neg m q =>
    if m = 0 then (Ty.f32.infBits true, fDZ)
    else if neg then Ty.f32.nanR fIV
    else
      let b := m.log2
      let e : Int := q + b
      if m = 2 ^ b then Ty.f32.roundDy .rne false false ⟨e, 0⟩
      else
        bracketRound (fun p =>
          let (lo, hi) := log2Bounds p m b
          let l := e * 2 ^ p + lo
          let h := e * 2 ^ p + hi
          if e < 0 then (true, (-h).toNat, (-l).toNat, -(p : Int)) else (false, l.toNat, h.toNat, -(p : Int)))
          [192, 384, 768]

/-- 1/a. -/
def fRcp (a : Nat) : Nat × FlagBits := fDiv .f32 .rne 0x3F800000 a

/-- 1/√a. -/
def fRsq (a : Nat) : Nat × FlagBits :=
  match Ty.f32.value a with
  | .nan g => Ty.f32.nanR (flagIf g fIV)
  | .inf neg => if neg then Ty.f32.nanR fIV else (0, 0)
  | .fin neg m q =>
    if m = 0 then (Ty.f32.infBits neg, fDZ)
    else if neg then Ty.f32.nanR fIV
    else
      let (m', q') := if q % 2 = 0 then (m, q) else (2 * m, q - 1)
      let r := isqrt (2 ^ 128 / m')
      Ty.f32.round .rne false false r (-(q' / 2) - 64) (r * r * m' != 2 ^ 128)

end Sys2Proof
end

