-- ==== Sys2Proof/Machine/Operands.lean ====
section
/-!
DEFINITION. Typed operands: how a value of each type lies in a scalar register, a pair or a lane (R129), conversion
between types (R141 to R143), and the effective addresses of the memory operand forms (R184).
-/

set_option linter.unusedVariables false

namespace Sys2Proof

/-! ### Registers and lanes (R129) -/

/-- The 64-bit register value of a pattern: sign copies for the i types, zeros for the others. -/
def Ty.extend (t : Ty) (bits : Nat) : Word :=
  if t.signed then BitVec.ofInt 64 (bitsInt t.width bits) else w64 (bits % 2 ^ t.width)

/-- The 32-bit lane value of a pattern. -/
def Ty.extendLane (t : Ty) (bits : Nat) : Lane :=
  if t.signed then BitVec.ofInt 32 (bitsInt t.width bits) else BitVec.ofNat 32 (bits % 2 ^ t.width)

/-- The pattern of a type in a lane. -/
def Ty.ofLane (t : Ty) (x : Lane) : Nat := x.toNat % 2 ^ t.width

/-! ### Conversion (R141 to R143) -/

/-- A float value to an integer type (R142). -/
def convToInt (d : Ty) (rm : Rm) (sat : Bool) (x : FVal) : Nat × FlagBits :=
  let bound (neg : Bool) : Nat × FlagBits :=
    if sat then (intBits d.width (if neg then d.intMin else d.intMax), fSAT ||| fNX) else (2 ^ (d.width - 1), fIV)
  match x with
  | .nan _ => (0, fIV)
  | .inf neg => bound neg
  | .fin neg m q =>
    let (r, ex) := roundAt rm neg m q false 0
    let y : Int := if neg then -(r : Int) else r
    if d.intMin ≤ y ∧ y ≤ d.intMax then (intBits d.width y, flagIf (!ex) fNX) else bound neg

/-- A value to a float type (R141, R143). -/
def convToFloat (d : Ty) (rm : Rm) (sat : Bool) (x : FVal) : Nat × FlagBits :=
  match x with
  | .nan g => (d.canonNan, flagIf g fIV)
  | .inf neg =>
    if sat then (d.maxBits neg, fSAT ||| fNX)
    else if d = .e4m3 then (0x7F, fIV)
    else (d.infBits neg, 0)
  | .fin neg m q => d.round rm sat neg m q false

/-- An integer as a value. -/
def FVal.ofInt (v : Int) : FVal := .fin (v < 0) v.natAbs 0

/-- conv of R141: a pattern of type `s` to type `d`, with its flags. -/
def conv (d s : Ty) (rm : Rm) (sat : Bool) (bits : Nat) : Nat × FlagBits :=
  if d = s then
    if s.isFloat then
      match s.value bits with
      | .nan g => (s.canonNan, flagIf g fIV)
      | _ => (s.canonical (bits % 2 ^ s.width), 0)
    else (bits % 2 ^ s.width, 0)
  else if s.isInt then
    let v := s.intValue bits
    if d.isInt then d.intResult sat v
    else convToFloat d rm sat (FVal.ofInt v)
  else if d.isInt then convToInt d rm sat (s.value bits)
  else convToFloat d rm sat (s.value bits)

end Sys2Proof

namespace Sys2Proof.Machine

/-! ### Scalar operands of kind s* (R38, R129) -/

/-- The pattern of type `t` in a register, or in the pair r, r + 1 when t is a80. -/
def State.rdT (s : State) (w : Tid) (t : Ty) (r : SReg) : Nat :=
  if t = .a80 then (s.rd w r).toNat + ((s.rd w (r + 1)).toNat % 2 ^ 16) * 2 ^ 64
  else (s.rd w r).toNat % 2 ^ t.width

/-- The writes of a pattern of type `t` to a register or pair. -/
def writesT (t : Ty) (d : SReg) (bits : Nat) : List RegWrite :=
  if t = .a80 then [.s d (w64 bits), .s (d + 1) (w64 (bits / 2 ^ 64 % 2 ^ 16))] else [.s d (t.extend bits)]

/-! ### Effective addresses (R184, R192) -/

/-- Rd(A) + sext(IMM). -/
def State.eaImm (s : State) (w : Tid) (a : SReg) (imm : BitVec 32) : Word := s.rd w a + imm.signExtend 64

/-- Rd(A) + (B << FN[2:0]) + sext(IMM), or Rd(A) + sext(IMM) with I = 1. -/
def State.eaIdx (s : State) (w : Tid) (a : SReg) (ix : Idx) (imm : BitVec 32) : Word :=
  match ix with
  | .none => s.eaImm w a imm
  | .reg b sh => s.rd w a + (s.rd w b <<< sh.toNat) + imm.signExtend 64

end Sys2Proof.Machine
end

