-- ==== Sys2Proof/Machine/Scratch.lean ====
section
/-!
DEFINITION. One word of scratch or pool as its home performs an access to it: check bits (R182), FE bits (R189), guard
granules (R202), locked decision-diagram areas (R312), monitors (R210) and the two scopes of a pool store (R256). Every
reader and writer of memory (threads, engines, spans, reductions) goes through these operations.
-/

set_option linter.unusedVariables false

namespace Sys2Proof

/-- `amo` at a type of 32 or 64 bits. -/
def AmoOp.apply (op : AmoOp) (t : Ty) (a b : Nat) : Nat :=
  let w := t.width
  match op with
  | .add => (a + b) % 2 ^ w
  | .and => a &&& b
  | .or => a ||| b
  | .xor => a ^^^ b
  | .min => if bitsInt w a ≤ bitsInt w b then a else b
  | .max => if bitsInt w a ≤ bitsInt w b then b else a
  | .minu => Nat.min a b
  | .maxu => Nat.max a b
  | .swap => b

/-- `famo`. -/
def FOp.apply (op : FOp) (t : Ty) (rm : Rm) (a b : Nat) : Nat × FlagBits :=
  match op with
  | .add => fAdd t rm a b
  | .min => fMinMax t false a b
  | .max => fMinMax t true a b

end Sys2Proof

namespace Sys2Proof.Machine

/-- What a read or write of a place met: the value, a guard hit, substituted data (R182). -/
structure Port where
  val : Nat := 0
  guard : Bool := false
  subst : Bool := false
deriving DecidableEq, Repr

/-! ### The scratch of a physical core -/

/-- The granule of a scratch byte is marked (R202). -/
def PCore.guarded (q : PCore) (a : Nat) : Bool := q.guard.getD (a / 64) false
/-- The FE bit of the word of a scratch byte. At launch every bit is empty (R88). -/
def PCore.full (q : PCore) (a : Nat) : Bool := q.fe.getD (a / 8) false

/-- Reads `n` bytes of one word. -/
def PCore.load (q : PCore) (a n : Nat) : Port :=
  if q.guarded a then { guard := true }
  else match q.ecc.get? (a / 8) with
    | some .double => { subst := true }
    | _ => { val := q.mem.readNat a n }

/-- Counts a single-bit error that a read corrected (R182, R379). -/
def PCore.counted (q : PCore) (a : Nat) : PCore :=
  if q.ecc.get? (a / 8) = some .single && !q.guarded a then { q with cecnt := q.cecnt + 1 } else q

/-- Writes `n` bytes of one word that is neither guarded nor locked. The word is left with good check bits. A write of part of
a word reads the rest, and corrects it. -/
def PCore.store (q : PCore) (a n v : Nat) : PCore × Port :=
  match q.ecc.get? (a / 8) with
  | none => ({ q with mem := q.mem.writeNat a n v }, {})
  | some .single =>
    ({ (if n = 8 then q else q.counted a) with mem := q.mem.writeNat a n v, ecc := q.ecc.del (a / 8) }, {})
  | some .double =>
    let m := if n = 8 then q.mem else q.mem.clear (a / 8 * 8) 8
    ({ q with mem := m.writeNat a n v, ecc := q.ecc.del (a / 8) }, { subst := n != 8 })

/-- The bank of a physical core takes a request for a 32-byte unit: `d` cycles from now, or when its earlier requests have
been served (R13, R188). The cycle in which it does so. -/
def State.bankSlot (s : State) (pc a : Nat) (d : Nat := 4) : State × Nat :=
  let b := a / 32 % 16
  let c := match (s.pcore pc).bank.get? b with
    | some l => max (s.cyc + d) (l + 1)
    | none => s.cyc + d
  (s.modPCore pc fun q => { q with bank := q.bank.set b c }, c)

/-- The banks of a physical core take requests for the units of `n` bytes from a scratch byte; the cycle in which the last is
served. At most `k` units. -/
def State.bankRun (s : State) (pc a n d : Nat) : Nat → State × Nat
  | 0 => (s, s.cyc + d)
  | k + 1 =>
    if n = 0 then (s, s.cyc + d)
    else
    let (s, c) := s.bankSlot pc a d
    let next := a / 32 * 32 + 32
    if a + n ≤ next then (s, c)
    else
      let (s, c') := s.bankRun pc next (a + n - next) d k
      (s, max c c')

/-! ### Scratch of a job -/

/-- Notes a touch of a guard granule in the log of its core: bank and offset (R202). -/
def PCore.logGuard (q : PCore) (a : Nat) : PCore :=
  if q.guarded a then { q with glog := q.glog ++ [(a / 32 % 16, a)] } else q

/-- The intervals of R312, as window offsets and lengths. -/
def DdCfg.areas (c : DdCfg) : List (Nat × Nat) :=
  [(c.nodes, 16 * c.noden), (c.buck, 4 * 2 ^ c.blog), (c.cache, 32 * 2 ^ c.clog), (c.stk, 262144)]

/-- One of the `n` bytes from a window offset is locked (R312). -/
def Dde.locks (d : Dde) (p n : Nat) : Bool :=
  match d.cfg with
  | none => false
  | some c => c.areas.any fun (a, m) => a < p + n && p < a + m

/-- The window offset of a byte of a member's scratch (R179, space 0xA). -/
def windowOff (m off : Nat) : Nat := m * 2 ^ 21 + off

/-- One of the `n` bytes from an offset of a logical core's scratch is in a locked area. -/
def State.locked (s : State) (j l off n : Nat) : Bool :=
  let b := s.job j
  (s.clu j (b.cluOf l)).dde.locks (windowOff (b.memOf l) off) n

/-- The owning core logs a guard granule that an access touches (R202). -/
def State.noteGuard (s : State) (j l off : Nat) : State :=
  let pc := s.phys j l
  let a := s.seg j l + off
  if (s.pcore pc).guarded a then s.modPCore pc fun q => q.logGuard a else s

/-- Reads `n` bytes of one word of a logical core's scratch. -/
def State.scrLoad (s : State) (j l off n : Nat) : State × Port :=
  let pc := s.phys j l
  let a := s.seg j l + off
  let q := s.pcore pc
  (if q.ecc.get? (a / 8) = none then s.noteGuard j l off else s.modPCore pc fun q => (q.counted a).logGuard a, q.load a n)

/-- TRIG bits of a thread's monitors. -/
def Thread.trigs (t : Thread) : Nat :=
  (t.mons.map fun (i, m) => if m.armed && m.trig then 2 ^ i else 0).sum

/-- A `waitm` ends with a cause (R211): the reported triggers clear, D lands 8 cycles on, and the thread resumes. -/
def State.waitmEnd (s : State) (w : Tid) (d : SReg) (cause : Nat) : State :=
  let v := w64 (cause + (s.thread w).trigs * 16)
  ((((s.modThread w fun t => { t with mons := t.mons.map fun (i, m) => (i, { m with trig := false }) }).landS w 8 d v).unpark
    w).advance w)

/-- A monitor that a write to a line triggers. -/
def Monitor.hit (m : Monitor) (l line : Nat) : Bool := m.armed && m.lcn == l && m.line == line

/-- A thread that waits in `waitm` looks at its conditions once everything of this cycle has been performed (R211). -/
def State.waitmLook (s : State) (w : Tid) : State :=
  let t := s.thread w
  match t.wait with
  | some { cont := .waitm _ _, .. } => s.later 0 (.waitmTimeout w t.stamp)
  | _ => s

/-- Triggers the monitors of a thread that watch a line (R210). -/
def State.triggerIn (s : State) (l line : Nat) (w : Tid) : State :=
  (s.modThread w fun t =>
    { t with mons := t.mons.map fun (i, m) => (i, if m.hit l line then { m with trig := true } else m) }).waitmLook w

/-- A write performed on a byte of scratch, as the monitors of the cluster see it (R208, R210). -/
def State.watch (s : State) (j l off : Nat) : State :=
  let b := s.job j
  let ws := (s.threadsOf j).filter fun (w, t) =>
    b.cluOf w.lcn == b.cluOf l && t.mons.any fun (_, m) => m.hit l (off / 64)
  ws.foldl (fun s (w, _) => s.triggerIn l (off / 64) w) s

/-- What is written to `n` bytes of one granule is discarded: the granule is marked, or one of the bytes is locked. -/
def State.closed (s : State) (j l off n : Nat) : Bool :=
  (s.pcore (s.phys j l)).guarded (s.seg j l + off) || s.locked j l off n

/-- The first byte of a range that a read, or a write, meets closed: the first guarded address of R202. -/
def State.firstShut (s : State) (j l off n : Nat) (wr : Bool) : Nat :=
  off + ((List.range n).find? fun i =>
    if wr then s.closed j l (off + i) 1 else (s.pcore (s.phys j l)).guarded (s.seg j l + off + i)).getD 0

/-- Writes `n` bytes of one word of a logical core's scratch. -/
def State.scrStore (s : State) (j l off n v : Nat) : State × Port :=
  if s.closed j l off n then (s.noteGuard j l off, { guard := true })
  else
    let pc := s.phys j l
    let (q, p) := (s.pcore pc).store (s.seg j l + off) n v
    ((s.modPCore pc fun _ => q).watch j l off, p)

/-- Writes of the decision-diagram engine itself, which its locks do not stop but a guard granule does (R202, R312). -/
def State.ddStore (s : State) (j l off n v : Nat) : State × Bool :=
  let pc := s.phys j l
  if (s.pcore pc).guarded (s.seg j l + off) then (s.noteGuard j l off, true)
  else ((s.modPCore pc fun q => (q.store (s.seg j l + off) n v).1).watch j l off, false)

/-- Sets the FE bit of a word; a change counts as a write (R210). -/
def State.setFe (s : State) (j l off : Nat) (full : Bool) : State :=
  let pc := s.phys j l
  let k := (s.seg j l + off) / 8
  if (s.pcore pc).fe.getD k false = full then s
  else (s.modPCore pc fun q => { q with fe := if full then q.fe.set k true else q.fe.del k }).watch j l off

/-- The FE bit of a word of a logical core. -/
def State.isFull (s : State) (j l off : Nat) : Bool := (s.pcore (s.phys j l)).full (s.seg j l + off)

/-- Reads `k` words of 8 bytes from an aligned scratch offset, as bytes. -/
def State.scrBytes (s : State) (j l off : Nat) : Nat → State × List Byte × Bool × Bool
  | 0 => (s, [], false, false)
  | k + 1 =>
    let (s, p) := s.scrLoad j l off 8
    let (s, bs, g, u) := s.scrBytes j l (off + 8) k
    (s, leBytes 8 p.val ++ bs, p.guard || g, p.subst || u)

/-- A word whose single-bit error a read has corrected, and counted, holds good check bits for the write of the same atomic. -/
def State.corrected (s : State) (j l off : Nat) : State :=
  let k := (s.seg j l + off) / 8
  s.modPCore (s.phys j l) fun q => if q.ecc.get? k = some .single then { q with ecc := q.ecc.del k } else q

/-! ### Atomics (R192, R193) -/

/-- The new value of an atomic, its flags, and whether it writes (R210: a `cas` that fails does not). -/
def AccKind.update (k : AccKind) (t : Ty) (old val cmp : Nat) : Nat × FlagBits × Bool :=
  match k with
  | .amo op => (op.apply t old val, 0, true)
  | .cas => if old = cmp then (val, 0, true) else (old, 0, false)
  | .famo op rm => let (v, f) := op.apply t rm old val; (v, f, true)
  | _ => (old, 0, false)

/-- Atomic kinds. -/
def AccKind.atomic : AccKind → Bool
  | .amo _ | .cas | .famo _ _ => true
  | _ => false

/-- Kinds that write. -/
def AccKind.writes : AccKind → Bool
  | .load | .peek | .take | .mon _ => false
  | _ => true

/-- Kinds for which only scratch is a place (R180). -/
def AccKind.scratchOnly : AccKind → Bool
  | .take | .peek | .put | .putFull | .fe _ | .guard _ | .mon _ => true
  | _ => false

/-! ### One element at its home -/

/-- What an element did: its result, flags, and what it met. -/
structure ElemOut where
  res : Nat := 0
  flags : FlagBits := 0
  guard : Bool := false
  subst : Bool := false
deriving DecidableEq, Repr

/-- An FE form that finds its word guarded or locked neither waits nor acts (R202, R312). -/
def State.feClosed (s : State) (k : AccKind) (j l off : Nat) : Bool :=
  if k = .peek then (s.pcore (s.phys j l)).guarded (s.seg j l + off) else s.closed j l (off / 8 * 8) 8

/-- An FE form must wait at its word (R189). -/
def State.feWaits (s : State) (k : AccKind) (j l off : Nat) : Bool :=
  match k with
  | .take | .peek => !s.feClosed k j l off && !s.isFull j l off
  | .put => !s.feClosed k j l off && s.isFull j l off
  | _ => false

/-- Performs one element in scratch, indivisibly (R183, R185, R189, R191, R192, R203). -/
def State.scrElem (s : State) (k : AccKind) (t : Ty) (size j l : Nat) (e : Elem) : State × ElemOut :=
  let off := e.at_
  let v := e.val.toNat % 2 ^ (8 * size)
  match k with
  | .load =>
    let (s, p) := s.scrLoad j l off size
    (s, { res := p.val, guard := p.guard, subst := p.subst })
  | .store =>
    let (s, p) := s.scrStore j l off size v
    (s, { guard := p.guard, subst := p.subst })
  | .take | .peek =>
    let shut := s.feClosed k j l off
    let (s, p) := s.scrLoad j l off size
    (if k = .take && !shut then s.setFe j l off false else s, { res := p.val, guard := shut || p.guard, subst := p.subst })
  | .put | .putFull =>
    if s.feClosed k j l off then (s.noteGuard j l off, { guard := true })
    else
      let (s, p) := s.scrStore j l off size v
      (s.setFe j l off true, { subst := p.subst })
  | .fe full => if s.feClosed k j l off then (s.noteGuard j l off, { guard := true }) else (s.setFe j l off full, {})
  | .guard g =>
    if s.locked j l (off / 64 * 64) 64 then (s, { guard := true })
    else
      let k := (s.seg j l + off) / 64
      (s.modPCore (s.phys j l) fun q => { q with guard := if g then q.guard.set k true else q.guard.del k }, {})
  | .mon _ => (s, {})
  | .amo _ | .cas | .famo _ _ =>
    if s.closed j l off size then (s.noteGuard j l off, { guard := true })
    else
      let (s, p) := s.scrLoad j l off size
      let (n, f, wr) := k.update t p.val v (e.cmp.toNat % 2 ^ (8 * size))
      let s := if wr then (s.corrected j l off).scrStore j l off size n |>.1 else s
      (s, { res := p.val, flags := f, subst := p.subst })

/-! ### The pool (R254 to R256) -/

/-- A byte of the pool as its slice gives it: the latest store that has not reached the fabric memory, else that memory. -/
def State.poolByte (s : State) (a : Nat) : Byte :=
  match (s.poolBuf.filter fun c => c.2.1 == a).getLast? with
  | some c => c.2.2
  | none => s.pool.read a

/-- The value of `n` bytes of the pool at its slice. -/
def State.poolNat (s : State) (a n : Nat) : Nat := leNat ((List.range n).map fun i => s.poolByte (a + i))

/-- The slice passes to the fabric memory the buffered stores of one location, up to the last that `upTo` admits. -/
def State.flushLoc (s : State) (loc : Nat) (upTo : Nat → Bool) : State :=
  let here := s.poolBuf.filter fun c => c.2.1 / 8 == loc
  let keepN := (here.reverse.takeWhile fun c => !upTo c.1).length
  let out := here.take (here.length - keepN)
  let rest := here.drop (here.length - keepN)
  { s with
    pool := out.foldl (fun m c => m.write c.2.1 c.2.2) s.pool
    poolBuf := (s.poolBuf.filter fun c => c.2.1 / 8 != loc) ++ rest }

/-- Writes `n` bytes of one location of the pool at both scopes. -/
def State.poolStore (s : State) (a n v : Nat) : State :=
  let s := s.flushLoc (a / 8) fun _ => true
  { s with pool := s.pool.writeNat a n v }

/-- Bytes of the pool, written at both scopes. -/
def State.poolWrite (s : State) (a : Nat) : List Byte → State
  | [] => s
  | b :: bs => (s.poolStore a 1 b.toNat).poolWrite (a + 1) bs

/-- A store performed at the slice only, under a name. -/
def State.poolPost (s : State) (tag a n v : Nat) : State :=
  { s with poolBuf := s.poolBuf ++ (leBytes n v).mapIdx fun i b => (tag, (a + i, b)) }

/-- The stores of a name, with those before them, reach the fabric memory. -/
def State.poolFlush (s : State) (tag : Nat) : State :=
  let locs := ((s.poolBuf.filter fun c => c.1 == tag).map fun c => c.2.1 / 8).eraseDups
  locs.foldl (fun s loc => s.flushLoc loc fun t => t == tag) s

/-- Performs one element in the pool; a posted plain store is performed at device scope only (R256). -/
def State.poolElem (s : State) (k : AccKind) (t : Ty) (size : Nat) (posted : Bool) (tag : Nat) (e : Elem) : State × ElemOut :=
  let v := e.val.toNat % 2 ^ (8 * size)
  match k with
  | .store => (if posted then s.poolPost tag e.at_ size v else s.poolStore e.at_ size v, {})
  | .amo _ | .cas | .famo _ _ =>
    let old := s.poolNat e.at_ size
    let (n, f, wr) := k.update t old v (e.cmp.toNat % 2 ^ (8 * size))
    (if wr then s.poolStore e.at_ size n else s, { res := old, flags := f })
  | _ => (s, { res := s.poolNat e.at_ size })

end Sys2Proof.Machine
end

