-- ==== Sys2Proof/Machine/Translate.lean ====
section
/-!
DEFINITION. Where an address leads (R179, R180, R379), the windows of the pool (R392), page tables, walks and cached
translations (R196 to R199), and the trap queue (R376).
-/

set_option linter.unusedVariables false

namespace Sys2Proof.Machine

/-! ### Places (R179, R379) -/

/-- Where an address leads before translation. -/
inductive Place where
  | scratch (l off : Nat)
  | pool (va : Nat)
  | phys (pa : Nat)
  | raw (pc off : Nat)
  | reg (pc off : Nat)
  | unit (pcl off : Nat)
deriving DecidableEq, Repr

/-- A place in a scratch space, 0x8, 0x9 or 0xA. -/
def Place.isScratch : Place → Bool
  | .scratch _ _ => true
  | _ => false

/-- Bits [lo+n-1:lo] of an address. -/
def bitsOf (a : Word) (lo n : Nat) : Nat := a.toNat / 2 ^ lo % 2 ^ n

/-- The scratch byte of a logical core, if the offset is below the footprint (R180). -/
def Job.inScratch (b : Job) (l off : Nat) : Option Place := if off < b.foot then some (.scratch l off) else none

/-- The logical core at signed coordinates, if it lies in the region. -/
def Job.coreAt (b : Job) (x y : Int) : Option Nat :=
  if 0 ≤ x ∧ x < b.w ∧ 0 ≤ y ∧ y < b.h then some (b.lcnAt x.toNat y.toNat) else none

/-- A register offset of R379 that is listed. -/
def regListed (off : Nat) : Bool := off % 8 == 0 && off ≤ 0x38

/-- A cluster-unit offset of R379 that is listed: the map table and the call board. -/
def unitListed (off : Nat) : Bool := off < 0x400 || (0x1000 ≤ off && off < 0x1800)

/-- A place of the system space (R379). -/
def sysPlace (a : Word) : Option Place :=
  match bitsOf a 56 4 with
  | 0 => if bitsOf a 52 4 = 0 then some (.phys (bitsOf a 0 52)) else none
  | 1 =>
    if bitsOf a 12 28 = 0 && decide (bitsOf a 40 16 < Config.cores) && regListed (bitsOf a 0 12) then
      some (.reg (bitsOf a 40 16) (bitsOf a 0 12))
    else none
  | 2 =>
    if bitsOf a 21 19 = 0 && decide (bitsOf a 40 16 < Config.cores) then some (.raw (bitsOf a 40 16) (bitsOf a 0 21))
    else none
  | 3 =>
    if bitsOf a 48 8 = 0 && bitsOf a 16 24 = 0 && decide (bitsOf a 40 8 < Config.clusters) && unitListed (bitsOf a 0 16) then
      some (.unit (bitsOf a 40 8) (bitsOf a 0 16))
    else none
  | _ => none

/-- Where an address leads for a thread; none is ADDR (R179, R180). -/
def State.place (s : State) (w : Tid) (a : Word) : Option Place :=
  let b := s.job w.job
  match bitsOf a 60 4 with
  | 0x0 => if bitsOf a 48 12 = 0 then some (.pool (bitsOf a 0 48)) else none
  | 0x8 =>
    if bitsOf a 58 2 = 0 && bitsOf a 21 25 = 0 then
      (b.coreAt (bitsOf a 52 6) (bitsOf a 46 6)).bind fun l => b.inScratch l (bitsOf a 0 21)
    else none
  | 0x9 =>
    if bitsOf a 58 2 = 0 && bitsOf a 21 25 = 0 then
      (b.coreAt (b.xOf w.lcn + bitsInt 6 (bitsOf a 52 6)) (b.yOf w.lcn + bitsInt 6 (bitsOf a 46 6))).bind fun l =>
        b.inScratch l (bitsOf a 0 21)
    else none
  | 0xA => if bitsOf a 24 36 = 0 then b.inScratch (b.lcnOf (b.cluOf w.lcn) (bitsOf a 21 3)) (bitsOf a 0 21) else none
  | 0xF => if (s.thread w).priv then sysPlace a else none
  | _ => none

/-! ### Windows of the pool (R392) -/

/-- The slice that one window gives a physical address. -/
def Device.windowSlice (d : Device) (pa i : Nat) : Option Nat :=
  let w0 := d.win0.getD i 0
  let base := bitsOf w0 30 22 * 2 ^ 30
  let size := bitsOf (d.win1.getD i 0) 0 22 * 2 ^ 30
  if base ≤ pa && pa < base + size then
    match bitsOf w0 22 2 with
    | 1 => some ((pa - base) / 256 % Config.slices)
    | 2 => some (bitsOf w0 24 5)
    | _ => none
  else none

/-- The one member of a list that has one. -/
def theOnly : List Nat → Option Nat
  | [x] => some x
  | _ => none

/-- The slice of a physical address: none when it lies in no enabled window, or in two. -/
def Device.slice (d : Device) (pa : Nat) : Option Nat := theOnly ((List.range 16).filterMap fun i => d.windowSlice pa i)

/-! ### Page tables (R196 to R198) -/

/-- Bytes of a page at a leaf level with a group code. -/
def pageSize (level grp : Nat) : Nat := 4096 * 64 ^ (5 - level) * 4 ^ grp

/-- The size code of R200. -/
def pageCode (level grp : Nat) : Nat := (5 - level) * 3 + grp

/-- How a walk ends: with a leaf, or with a fault at a level: XLAT, or PROT when the table lies in no window or in two
(R392). -/
inductive WalkEnd where
  | leaf (t : Tlb)
  | fault (level : Nat) (c : Cause)
deriving DecidableEq, Repr

/-- R W X AT of a leaf: R in bit 0, W in bit 1, X in bit 2, AT in bit 3. -/
def leafPerm (e : Nat) : BitVec 4 := BitVec.ofNat 4 (e / 4 % 16)

/-- The walk of R197 from the table at `base`, at level 6 − fuel. -/
def State.walkFrom (s : State) (job va : Nat) : Nat → Nat → WalkEnd
  | 0, _ => .fault 5 .xlat
  | fuel + 1, base =>
    let l := 5 - fuel
    let i := va / 2 ^ (42 - 6 * l) % 64
    let e := s.poolNat (base + 8 * i) 8
    if (s.dev.slice base).isNone then .fault l .prot
    else if !e.testBit 0 || e.testBit 8 then .fault l .xlat
    else if !e.testBit 1 then if l = 5 then .fault l .xlat else s.walkFrom job va fuel (e / 512 % 2 ^ 43 * 512)
    else
      let grp := e / 64 % 4
      let g := 4 ^ grp
      let size := pageSize l grp
      let frame := e / 4096 % 2 ^ 40 * 4096
      if l < 2 || grp = 3 || (l = 2 && grp != 0) then .fault l .xlat
      else if (List.range g).any fun k => s.poolNat (base + 8 * (i / g * g + k)) 8 != e then .fault l .xlat
      else if frame % size != 0 then .fault l .xlat
      else .leaf { job := job, base := va / size * size, size := size, frame := frame, perm := leafPerm e, level := l,
                   code := pageCode l grp }

/-- The walk of an address from the root that a core holds. -/
def State.walkTable (s : State) (pc job va : Nat) : WalkEnd :=
  s.walkFrom job va 6 ((s.pcore pc).ptroot.toNat / 512 % 2 ^ 43 * 512)

/-! ### Cached translations (R199) -/

/-- A cached translation covers an address of a job. -/
def Tlb.covers (t : Tlb) (job va : Nat) : Bool := t.job == job && decide (t.base ≤ va) && decide (va < t.base + t.size)

/-- The translation that a core, or else the walker of its cluster, has cached. -/
def State.cached (s : State) (pc job va : Nat) : Option Tlb :=
  (((s.pcore pc).tlb ++ (s.pclu (pclOf pc)).walker).find? fun t => t.covers job va)

/-- Adds a translation to a cache of a capacity; the oldest leaves. -/
def cacheTlb (cap : Nat) (t : Tlb) (l : List Tlb) : List Tlb :=
  let l := (l.filter fun u => !(u.covers t.job t.base)) ++ [t]
  l.drop (l.length - cap)

/-- Caches a translation in a core and in the walker of its cluster. -/
def State.fillTlb (s : State) (pc : Nat) (t : Tlb) : State :=
  (s.modPCore pc fun q => { q with tlb := cacheTlb 64 t q.tlb }).modPClu (pclOf pc) fun q =>
    { q with walker := cacheTlb 2048 t q.walker }

/-- The use of a page. -/
inductive Use where
  | read | write | atomic | exec
deriving DecidableEq, Repr

/-- The cause with which a page denies a use, if it does (R194, R197). -/
def Tlb.denies (t : Tlb) (u : Use) : Option Cause :=
  match u with
  | .read => if t.perm.getLsbD 0 then none else some .prot
  | .write => if t.perm.getLsbD 1 then none else some .prot
  | .exec => if t.perm.getLsbD 2 then none else some .prot
  | .atomic => if !(t.perm.getLsbD 0 && t.perm.getLsbD 1) then some .prot else if t.perm.getLsbD 3 then none else some .atom

/-- What a translation gives: a physical address and its slice; nothing cached; a page that denies the use; or a frame
outside the windows (R392). -/
inductive Xlat where
  | hit (pa slice : Nat)
  | miss
  | denied (c : Cause)
  | outside
deriving DecidableEq, Repr

/-- Translates a pool address for a use by a logical core's job. -/
def State.translate (s : State) (pc job va : Nat) (u : Use) : Xlat :=
  match s.cached pc job va with
  | none => .miss
  | some t =>
    match t.denies u with
    | some c => .denied c
    | none =>
      let pa := t.frame + va % t.size
      match s.dev.slice pa with
      | some sl => .hit pa sl
      | none => .outside

/-! ### Walks -/

/-- The latest walk under way in a physical cluster ends no earlier than this cycle (R199: arrival order). -/
def State.walkerFree (s : State) (pcl : Nat) : Nat :=
  s.agenda.foldl (fun c p =>
    match p.ev with
    | .translationWalk i =>
      match s.walks.get? i with
      | some k => if s.physClu k.own.job k.own.lcn = pcl then max c p.due else c
      | none => c
    | _ => c) s.cyc

/-- Asks the walker for a translation; its duration is free (log 2). -/
def State.startWalk (s : State) (k : Walk) : State :=
  let id := s.seq
  let t := s.walkerFree (s.physClu k.own.job k.own.lcn)
  ({ s.drawn with walks := s.walks.set id k }).atCycle (t + Config.walkDelay id) (.translationWalk id)

/-- A thread's own translation: it does not issue until the walk ends, and then issues its instruction again. -/
def State.walkFor (s : State) (w : Tid) (va : Nat) (u : Use) : State :=
  (s.startWalk { own := w, pc := s.pcOf w, va := w64 va, write := u == .write || u == .atomic, atomic := u == .atomic,
                 exec := u == .exec, post := none, eng := none }).stallFor w .walk

/-- Ends a wait for a walk. -/
def State.endWalkStall (s : State) (w : Tid) : State := if (s.thread w).stall = some .walk then s.unstall w else s

/-- An engine operation or a span delivery goes on, when a walk ends or a permit is granted. -/
def State.engGo (s : State) (h : HRef) : State :=
  let j := h.own.job
  let b := s.job j
  match b.clus.findSome? fun (c, q) => (q.copyQ.find? fun o => o.h == h).map fun o => (c, o.id) with
  | some (c, i) => s.later 0 (.copyChunk j c i none)
  | none =>
    match b.clus.findSome? fun (c, q) => (q.gathQ.find? fun o => o.h == h).map fun o => (c, o.id) with
    | some (c, i) => s.later 0 (.gatherBatch j c i none)
    | none =>
      match b.links.findSome? fun (k, l) => (l.prods.find? fun p => p.lead.h == h).map fun p => (k, p.pid) with
      | some (k, i) => s.later 0 (.spanDeliver j k i none)
      | none => s

/-- Changes the operation of a handle in the queue of its unit. -/
def State.modEng (s : State) (h : HRef) (f : EngOp → EngOp) : State :=
  let g (l : List EngOp) : List EngOp := l.map fun o => if o.h = h then f o else o
  s.modJob h.own.job fun b => { b with clus := b.clus.map fun (i, c) => (i, { c with copyQ := g c.copyQ, gathQ := g c.gathQ }) }

/-- Changes the product whose lead has a handle. -/
def State.modLeadProd (s : State) (h : HRef) (f : Product → Product) : State :=
  s.modJob h.own.job fun b =>
    { b with links := b.links.map fun (k, l) => (k, { l with prods := l.prods.map fun p => if p.lead.h = h then f p else p }) }

/-- A walk for an operation or a delivery failed. -/
def State.engFault (s : State) (h : HRef) (va : Word) (wr : Bool) (c : Cause) : State :=
  (s.modEng h fun o => { o with flt := some (va, wr, c) }).modLeadProd h fun p => { p with flt := some (va, c) }

/-- An operation or a delivery waits for something of its own. -/
def State.engLives (s : State) (h : HRef) : Bool :=
  let b := s.job h.own.job
  (b.clus.any fun (_, c) => (c.copyQ ++ c.gathQ).any fun o => o.h == h && o.active) ||
    b.links.any fun (_, l) => l.prods.any fun p => p.lead.h == h

/-- A permit for a slice is granted to a request of an operation or to a delivery; one that has ended gives it back. -/
def State.engPermit (s : State) (pc : Nat) (h : HRef) (r sl : Nat) : State :=
  let give (l : Map EngReq) : Map EngReq := l.map fun (i, q) => (i, if i = r then { q with st := .want, slice := some sl } else q)
  if s.engLives h then
    ((s.modEng h fun o => { o with reqs := give o.reqs }).modLeadProd h fun p => { p with reqs := give p.reqs }).engGo h
  else s.modPCore pc fun q => { q with permits := q.permits.set sl (q.permits.getD sl 0 - 1) }

/-! ### The trap queue (R376) -/

/-- A record of an access of a thread that waits parked for the verdict. -/
def TqRec.parks (r : TqRec) : Bool := !r.eng && !r.fatal && r.post.isNone

/-- Places a record in the lowest free entry of 0 to 14, or holds it and its thread until one frees. -/
def State.placeTq (s : State) (r : TqRec) : State :=
  match (List.range 15).find? fun i => ((s.pcore r.pcore).tq.get? i).isNone with
  | none =>
    let s := s.modPCore r.pcore fun q => { q with tqWait := q.tqWait ++ [r] }
    if r.parks then s.stallFor r.own .walk else s
  | some i =>
    let r := { r with ent := i }
    let s := (s.modPCore r.pcore fun q => { q with tq := q.tq.set i r, tqNew := q.tqNew ++ [i] }).toService r
    if r.parks then (s.unstall r.own).park r.own .service (w64 i) false .reissue else s

/-- Frees an entry; the first record that waits for one is placed. -/
def State.freeTq (s : State) (pc ent : Nat) : State :=
  let s := s.modPCore pc fun q => { q with tq := q.tq.del ent, tqNew := q.tqNew.filter (· != ent) }
  match (s.pcore pc).tqWait with
  | [] => s
  | r :: rs => (s.modPCore pc fun q => { q with tqWait := rs }).placeTq r

/-- The record of a thread's access, a posted part or an engine operation that faults in translation. -/
def State.faultRec (s : State) (w : Tid) (p : Word) (va : Word) (c : Cause) (wr : Bool) (post : Option (Nat × Nat))
    (h : Option HRef) : TqRec :=
  { pc := p, addr := va, cause := c, fatal := false, wr := wr, eng := h.isSome, thr := w.thr, lcn := w.lcn, ent := 0,
    info := match h with | some h => h.word | none => 0,
    own := w, post := post, h := h, pcore := s.phys w.job w.lcn }

end Sys2Proof.Machine
end

