-- ==== Sys2Proof/Machine/Sources.lean ====
section
/-!
DEFINITION. What an operation of the copy or gather unit has still to read. Of an operation with RX = 0 no later access of
its thread changes it (R252).
-/

set_option linter.unusedVariables false

namespace Sys2Proof.Machine

/-- The address of a list index, and its size. -/
def EngOp.indexAt (o : EngOp) (p : Nat) : Word × Nat :=
  if o.idx64 then (o.idx + w64 (8 * p), 8) else (o.idx + w64 (4 * p), 4)

/-- The index at a list position: the one that the operation has read, else what the list holds now. -/
def State.indexNow (s : State) (o : EngOp) (p : Nat) : Word :=
  match o.got.get? p with
  | some i => i
  | none =>
    let (a, n) := EngOp.indexAt o p
    match s.place o.own a with
    | some (.scratch l off) => w64 (s.scrLoad o.own.job l off n).2.val
    | _ => 0

/-- The ranges that an operation has still to read: address and bytes. -/
def State.unread (s : State) (o : EngOp) : List (Word × Nat) :=
  let ps := (List.range (o.count - o.pos)).map (o.pos + ·)
  match o.kind with
  | .copy | .copy2 =>
    if o.rows ≤ o.pos then []
    else
      let n := 256 * (o.chunk + if o.reqs.any fun x => x.2.wr then 1 else 0)
      (o.src + w64 o.pos * o.sstr + w64 n, o.rowb - n) ::
        (List.range (o.rows - o.pos - 1)).map fun i => (o.src + w64 (o.pos + 1 + i) * o.sstr, o.rowb)
  | .gath => ps.map (EngOp.indexAt o) ++ ps.map fun p => (o.src + s.indexNow o p * o.stride, o.elem)
  | .scat => ps.map (EngOp.indexAt o) ++ ps.map fun p => (o.dst + w64 (p * o.pitch), o.elem)
  | .pfetch => []

/-- Two pool addresses of a job name one location. -/
def State.samePool (s : State) (w : Tid) (va va' : Nat) : Bool :=
  let at_ (x : Nat) : Option Nat := (s.cached (s.phys w.job w.lcn) w.job x).map fun t => t.frame + x % t.size
  match at_ va, at_ va' with
  | some x, some y => x / 8 == y / 8
  | _, _ => va / 8 == va' / 8

/-- A range that a thread names touches the location of an element of one of its accesses. -/
def State.rangeMeets (s : State) (w : Tid) (a : Word) (n : Nat) (h : Home) (e : Elem) : Bool :=
  match s.place w a, h with
  | some (.scratch l off), .scratch l' => l == l' && decide (off < e.at_ / 8 * 8 + 8) && decide (e.at_ / 8 * 8 < off + n)
  | some (.pool va), .pool =>
    let x := bitsOf e.va 0 48
    (List.range (n / 4096 + 2)).any fun i =>
      let y := (va / 4096 + i) * 4096 + x % 4096 / 8 * 8
      decide (va < y + 8) && decide (y < va + n) && s.samePool w y x
  | _, _ => false

/-- A write of a thread must wait: an earlier engine operation of the thread with RX = 0 has still to read the location
(R252). DEDUCED: log 68. -/
def State.sourceHeld (s : State) (a : Access) (q : Part) : Bool :=
  let c := s.clu a.own.job ((s.job a.own.job).cluOf a.own.lcn)
  a.kind.writes && (c.copyQ ++ c.gathQ).any fun o =>
    o.own == a.own && !o.rx && decide (o.id < a.id) && o.stop.isNone &&
      (s.unread o).any fun (x, n) => q.elems.any fun e => s.rangeMeets a.own x n q.home e

end Sys2Proof.Machine
end

