-- ==== Sys2Proof/Machine/Access.lean ====
section
/-!
DEFINITION. Accesses of threads from issue to acknowledgement (R179 to R206, R254 to R257): checks, parts, request
permits, performing at the home, FE waiters, responses, store-fault records, and the table's steps for them.
-/

set_option linter.unusedVariables false

namespace Sys2Proof.Machine

/-! ### Checks at issue -/

/-- One element of an access as its instruction gives it: number, address, data, and comparand of `cas`. -/
structure ElemReq where
  idx : Nat
  va : Word
  val : Word := 0
  cmp : Word := 0
deriving DecidableEq, Repr

/-- The use of a page by an access. -/
def AccKind.use (k : AccKind) : Use := if k.atomic then .atomic else if k.writes then .write else .read

/-- The routers let a request between two places through, and its response back. -/
def State.openBetween (s : State) (own : Tid) (a b : Nat) : Bool :=
  s.routeOpen (s.newPacket .req a b own .boot) && s.routeOpen (s.newPacket .rsp b a own .boot)

/-- The network lets the thread's packets through to a place in scratch, and the answers back (R23, R180). -/
def State.reaches (s : State) (w : Tid) : Place → Bool
  | .scratch l _ =>
    match s.phys? w.job l with
    | some b => s.openBetween w (s.phys w.job w.lcn) b
    | none => true
  | _ => true

/-- The network lets the thread's requests through to a pool slice, and the answers back. -/
def State.reachesSlice (s : State) (w : Tid) (slice : Nat) : Bool :=
  let pc := s.phys w.job w.lcn
  s.openBetween w pc (dieOf slice (pyOf pc))

/-- The address checks in the order of R180 and then ALIGN (R181); a posted access leaves out the router's (R187). -/
def State.checkPlace (s : State) (w : Tid) (scrOnly posted : Bool) (size : Nat) (a : Word) : Except Cause Place :=
  match s.place w a with
  | none => .error .addr
  | some p =>
    if scrOnly && !p.isScratch then .error .addr
    else if !posted && !s.reaches w p then .error .addr
    else if a.toNat % size != 0 then .error .align
    else .ok p

/-- What the checks of one element give: its home, the key that groups elements into requests, slice and place; a trap;
a missing translation; or a fault for the stage manager. -/
inductive Check where
  | pass (home : Home) (key slice at_ : Nat)
  | trap (c : Cause)
  | walk (va : Nat)
  | record (c : Cause)
deriving DecidableEq, Repr

/-- `fe` and `guard` change their words or granules one by one in ascending order (R191, R203). -/
def AccKind.serial : AccKind → Bool
  | .fe _ | .guard _ => true
  | _ => false

/-- The bytes of scratch that one request of an access covers at most: a unit of a bank (R13), or a word or granule of a
range. -/
def AccKind.unit : AccKind → Nat
  | .fe _ => 8
  | .guard _ => 64
  | _ => 32

/-- The checks of one element. The pool part of a posted access is translated later. -/
def State.checkElem (s : State) (w : Tid) (k : AccKind) (scrOnly posted : Bool) (size : Nat) (a : Word) : Check :=
  match s.checkPlace w scrOnly posted size a with
  | .error c => .trap c
  | .ok (.scratch l off) => .pass (.scratch l) (off / k.unit) 0 off
  | .ok (.pool va) =>
    if posted then .pass .pool (va / 256) 0 va
    else
      match s.translate (s.phys w.job w.lcn) w.job va k.use with
      | .hit pa sl => if s.reachesSlice w sl then .pass .pool (va / 256) sl pa else .trap .addr
      | .miss => .walk va
      | .denied c => .trap c
      | .outside => .record .prot
  | .ok (.phys pa) =>
    match s.dev.slice pa with
    | some sl => .pass .pool (pa / 256) sl pa
    | none => .trap .prot
  | .ok (.raw pc off) => .pass (.raw pc) (off / 32) 0 off
  | .ok (.reg pc off) => .pass (.coreReg pc) off 0 off
  | .ok (.unit pcl off) => .pass (.unit pcl) off 0 off

/-- The checks of every element in ascending order: the parts of the access, or the first check that does not pass with
its address (R186). -/
inductive Checked where
  | parts (l : List (Nat × Part))
  | stop (c : Check) (va : Word)
deriving DecidableEq, Repr

/-- Adds an element to the part with its home, key and slice, or as a new part. -/
def addElem (h : Home) (key sl : Nat) (e : Elem) : List (Nat × Part) → List (Nat × Part)
  | [] => [(key, { home := h, slice := sl, elems := [e] })]
  | (k, p) :: t =>
    if k = key && p.home = h && p.slice = sl then (k, { p with elems := p.elems ++ [e] }) :: t
    else (k, p) :: addElem h key sl e t

/-- Checks a list of elements over the parts found so far. -/
def State.checkAll (s : State) (w : Tid) (k : AccKind) (scrOnly posted : Bool) (size : Nat) (acc : List (Nat × Part)) :
    List ElemReq → Checked
  | [] => .parts acc
  | e :: es =>
    match s.checkElem w k scrOnly posted size e.va with
    | .pass h key sl at_ =>
      s.checkAll w k scrOnly posted size (addElem h key sl { idx := e.idx, va := e.va, at_ := at_, val := e.val, cmp := e.cmp } acc) es
    | c => .stop c e.va

/-! ### Parts on their way -/

/-- Changes an access. -/
def State.modAcc (s : State) (aid : Nat) (f : Access → Access) : State :=
  match s.accs.get? aid with
  | some a => { s with accs := s.accs.set aid (f a) }
  | none => s

/-- Changes a part of an access. -/
def State.modPart (s : State) (aid p : Nat) (f : Part → Part) : State :=
  s.modAcc aid fun a =>
    match a.parts.get? p with
    | some q => { a with parts := a.parts.set p (f q) }
    | none => a

/-- A part of an access. -/
def State.part? (s : State) (aid p : Nat) : Option (Access × Part) :=
  (s.accs.get? aid).bind fun a => (a.parts.get? p).map fun q => (a, q)

/-- A request at the core that owns its scratch enters the queue of its bank, `d` cycles before it can be served. A vacated
core sends it back for 64 cycles (R384). -/
def State.toBank (s : State) (aid p : Nat) (d : Nat := 4) : State :=
  match s.part? aid p with
  | some (a, { home := .scratch l, elems := e :: _, .. }) =>
    if !s.serves a.own.job a.own.lcn l then s.later 64 (.remoteAccess aid p)
    else
      let (s, c) := s.bankSlot (s.phys a.own.job l) (s.seg a.own.job l + e.at_) d
      s.atCycle c (.remoteAccess aid p)
  | some (_, { home := .raw pc, elems := e :: _, .. }) =>
    let (s, c) := s.bankSlot pc e.at_ d
    s.atCycle c (.remoteAccess aid p)
  | _ => s

/-- A pool request that holds its permit leaves for the I/O die that fronts its slice, which takes it no earlier than half of
the fixed time and one way of the fabric (R9, R188, log 2, log 20). -/
def State.sendPart (s : State) (aid p : Nat) : State :=
  match s.part? aid p with
  | none => s
  | some (a, q) =>
    let t := s.cyc + 12 + Config.fabricDelay s.seq
    (s.drawn.modPart aid p fun q => { q with sent := true }).injectPacket 0
      (s.poolPacket .req a.own q.slice t false (.remoteAccess aid p))

/-- The request for a block of a code line that holds its permit leaves `d` cycles from now, and comes back (R108, R195). -/
def State.sendRead (s : State) (w : Tid) (line : Word) (sl d : Nat) : State :=
  let t := s.cyc + d + 24 + Config.fabricDelay s.seq
  s.drawn.injectPacket d (s.poolPacket .req w sl t true (.lineDelivery (s.physClu w.job w.lcn) line (some sl)))

/-- Takes a permit of a (core, slice) pair, if one is free and nobody waits for it (R195). -/
def PCore.permitFree (q : PCore) (sl : Nat) : Bool :=
  decide (q.permits.getD sl 0 < Config.permits) && !(q.permitQ.any fun x => x.1 == sl)

/-- Counts a permit as taken. -/
def State.takePermit (s : State) (pc sl : Nat) : State :=
  s.modPCore pc fun q => { q with permits := q.permits.set sl (q.permits.getD sl 0 + 1) }

/-- A part asks for a permit. A request that finds none parks its thread (R195); one that waited for its translation no
longer has a thread to park. -/
def State.askPermit (s : State) (aid p : Nat) (parks : Bool) : State :=
  match s.part? aid p with
  | none => s
  | some (a, q) =>
    let pc := s.phys a.own.job a.own.lcn
    if (s.pcore pc).permitFree q.slice then (s.takePermit pc q.slice).sendPart aid p
    else
      let s := s.modPCore pc fun c => { c with permitQ := c.permitQ ++ [(q.slice, .part aid p)] }
      if parks && (s.thread a.own).st = .running then s.park a.own .permit (w64 q.slice) false (.access aid) else s

/-- No part of an access waits for a permit. -/
def State.permitsHeld (s : State) (pc aid : Nat) : Bool :=
  !((s.pcore pc).permitQ.any fun x => match x.2 with | .part i _ => i == aid | _ => false)

/-- A permit returns; the first request parked for its slice takes it and is sent in that cycle (R195). -/
def State.returnPermit (s : State) (pc sl : Nat) : State :=
  let q := s.pcore pc
  match q.permitQ.find? fun x => x.1 == sl with
  | none => s.modPCore pc fun q => { q with permits := q.permits.set sl (q.permits.getD sl 0 - 1) }
  | some x =>
    let s := s.modPCore pc fun q => { q with permitQ := q.permitQ.erase x }
    match x.2 with
    | .part aid p =>
      let s := s.sendPart aid p
      match s.accs.get? aid with
      | some a =>
        match (s.thread a.own).wait with
        | some { kind := .permit, cont := .access i, .. } =>
          if i = aid && s.permitsHeld pc aid then s.unpark a.own else s
        | _ => s
      | none => s
    | .fetch w line => s.sendRead w line sl 0
    | .eng h r => s.engPermit pc h r sl

/-! ### Store faults (R204) -/

/-- The record of a part that faults. -/
def Access.record (a : Access) (q : Part) (c : Cause) : SfRec :=
  let e := q.elems.headD { idx := 0, va := 0, at_ := 0, val := 0, cmp := 0 }
  { faddr := e.va, fpc := a.pc, fcause := c, felem := if a.vec then e.idx else 0, fseq := a.fseq,
    fdata := if a.vec then 0 else w64 (e.val.toNat % 2 ^ (8 * a.size)) }

/-! ### Completion -/

/-- Every part has been performed, or recorded. -/
def Access.performed (a : Access) : Bool := a.parts.all fun (_, q) => q.performed
/-- Every part has been answered, or recorded. -/
def Access.returned (a : Access) : Bool := a.parts.all fun (_, q) => q.returned

/-- A relaxed access leaves the thread's list of 16; a thread parked on the limit resumes (R187). -/
def State.leaveRelaxed (s : State) (w : Tid) (id : Nat) : State :=
  let s := s.modThread w fun t => { t with relaxed := t.relaxed.erase id }
  match (s.thread w).wait with
  | some { kind := .relaxed, .. } => s.unpark w
  | _ => s

/-- What performing the last part does to the thread's count of relaxed accesses. -/
def State.afterPerform (s : State) (aid : Nat) : State :=
  match s.accs.get? aid with
  | some a => if a.rx && a.performed then s.leaveRelaxed a.own aid else s
  | none => s

/-- The result's writes: the value of a scalar, or one lane per element (R185, R186, R192). -/
def Access.writes (a : Access) : List RegWrite :=
  let es := a.parts.flatMap fun (_, q) => q.elems
  match a.dst with
  | some (.s r) => [.s r (a.t.extend ((es.map fun e => e.res.toNat).headD 0))]
  | some (.v r) =>
    let x : Map Lane := es.foldl (fun m e => m.set e.idx (a.t.extendLane e.res.toNat)) []
    [.v r (Vec.ofFn fun i => x.getD i.val 0) (es.foldl (fun m e => m ||| (1#64 <<< e.idx)) 0)]
  | _ => []

/-- The end of an access: the result lands, or the flags of an update are set, and the next access may begin in the
cycle after (R187, R188). A thread that waited on an FE word resumes. -/
def State.finishAccess (s : State) (aid : Nat) : State :=
  match s.accs.get? aid with
  | none => s
  | some a =>
    if !a.returned then s
    else
      let w := a.own
      let fl := a.parts.foldl (fun (f : FlagBits) (_, q) => f ||| q.flags ||| flagIf q.subst fSB) 0
      let s := { s with accs := s.accs.del aid }
      let s := s.modThread w fun t =>
        if t.ordAcc = some aid then { t with ordAcc := none, accAt := s.cyc + 1 } else t
      let s := s.release w aid
      let s := if a.dst.isSome then s.land w 0 a.writes fl else s.setFlags w fl
      match (s.thread w).wait with
      | some { kind := .fe, cont := .access i, .. } => if i = aid then s.unpark w else s
      | _ => s

/-- Marks the thread for guard hits of a response (R202). -/
def State.markGuard (s : State) (w : Tid) (hits : Nat) (va : Word) : State :=
  if hits = 0 then s
  else s.modThread w fun t => { t with gaddr := if t.ghits = 0 then va else t.gaddr, ghits := t.ghits + hits }

/-- The 256-byte block of a home that a part lies in: a fault leaves one record for each (R204). -/
def Part.block (q : Part) : Home × Nat := (q.home, (q.elems.head?.map fun e => e.va.toNat / 256).getD 0)

/-- The parts of a posted access in the block of a part fault with it. -/
def State.faultBlock (s : State) (aid : Nat) (q : Part) (c : Cause) (done : Bool) : State :=
  s.modAcc aid fun a =>
    { a with parts := a.parts.map fun (i, r) =>
        (i, if r.block = q.block && !r.performed then { r with fault := some c, performed := done, returned := done } else r) }

/-- A posted access that faults enters the store-fault queue, or stays outstanding while that is full. -/
def State.recordFault (s : State) (aid p : Nat) (c : Cause) : State :=
  match s.part? aid p with
  | none => s
  | some (a, q) =>
    let w := a.own
    if (s.thread w).sfq.length < 4 then
      let s := s.modThread w fun t =>
        { t with sfq := t.sfq ++ [a.record q c], sfDue := t.sfDue || decide (t.sfq.length + 1 = 4) }
      ((s.faultBlock aid q c true).afterPerform aid).finishAccess aid
    else s.faultBlock aid q c false

/-- STORE_FAULT_RECORD: the fault found at the delivery of a posted part (R204). -/
def execStoreFaultRecord (aid part : Nat) (s : State) : Host.Outcome State Fault Refusal :=
  match s.part? aid part with
  | none => .next s
  | some (_, q) =>
    match q.fault with
    | some c => .next (if q.returned then s else s.recordFault aid part c)
    | none => .next s

/-- A faulting posted part held by a full queue records when an entry has been popped (R204, R378). -/
def State.recordHeld (s : State) (w : Tid) : State :=
  let held := s.accs.flatMap fun (i, a) =>
    if a.own = w then a.parts.filterMap fun (p, q) => if q.fault.isSome && !q.returned then some (i, p) else none else []
  match held with
  | [] => s
  | (i, p) :: _ =>
    match (s.part? i p).bind fun x => x.2.fault with
    | some c => s.recordFault i p c
    | none => s

/-! ### Posted parts to the pool -/

/-- A posted part is translated and asks for its permit; a denied page is found 12 cycles on (R187, R204). -/
def State.postPart (s : State) (aid p : Nat) (parks : Bool) : State :=
  match s.part? aid p with
  | some (a, q) =>
    match q.elems with
    | [] => s
    | e :: _ =>
      let pc := s.phys a.own.job a.own.lcn
      let va := bitsOf e.va 0 48
      if bitsOf e.va 60 4 = 0xF then s.askPermit aid p parks
      else
        match s.translate pc a.own.job va a.kind.use with
        | .hit pa sl =>
          let base := pa - va % 4096
          (s.modPart aid p fun q =>
            { q with slice := sl, elems := q.elems.map fun e => { e with at_ := base + bitsOf e.va 0 12 } }).askPermit aid p parks
        | .miss =>
          s.startWalk { own := a.own, pc := a.pc, va := e.va, write := true, atomic := a.kind.atomic, exec := false,
                        post := some (aid, p), eng := none }
        | .denied c => (s.modPart aid p fun q => { q with fault := some c }).later 12 (.storeFaultRecord aid p)
        | .outside => s.placeTq (s.faultRec a.own a.pc e.va .prot true (some (aid, p)) none)
  | none => s

/-! ### Issue -/

/-- Sends one part towards its home. -/
def State.dispatchPart (s : State) (aid p : Nat) : State :=
  match s.part? aid p with
  | none => s
  | some (a, q) =>
    match q.home with
    | .scratch l =>
      if s.serves a.own.job a.own.lcn l && s.phys a.own.job l != s.phys a.own.job a.own.lcn then
        s.sendTo 0 .req a.own a.own.lcn l (.remoteAccess aid p)
      else s.toBank aid p
    | .raw _ => s.toBank aid p
    | .pool => if a.posted then s.postPart aid p true else s.askPermit aid p true
    | _ => s.later 4 (.remoteAccess aid p)

/-- The fixed data of an access: what the instruction says apart from its elements. -/
structure AccSpec where
  kind : AccKind
  t : Ty
  size : Nat
  lat : Nat
  vec : Bool := false
  rx : Bool := false
  posted : Bool := false
  /-- Only a scratch space is a place for it (R180). -/
  scrOnly : Bool := false
  dst : Option RegRef := none
  la : Option (BitVec 4) := none
deriving DecidableEq, Repr

/-- Enters an access whose checks have passed: its name, the registers it will write, the lookahead window, and its
parts on their way (R42, R43, R187). -/
def State.beginAccess (s : State) (w : Tid) (x : AccSpec) (parts : List (Nat × Part)) : State :=
  let id := s.seq
  let ps : Map Part := parts.mapIdx fun i p => (i, p.2)
  let t := s.thread w
  let a : Access :=
    { id := id, own := w, pc := t.pc, kind := x.kind, t := x.t, size := x.size, vec := x.vec, rx := x.rx, lat := x.lat,
      posted := x.posted, dst := x.dst, fseq := t.fseq, parts := ps }
  let s := { s.drawn with accs := s.accs.set id a }
  let s := s.modThread w fun t =>
    { t with
      ordAcc := if x.rx then t.ordAcc else some id
      relaxed := if x.rx then t.relaxed ++ [id] else t.relaxed
      fseq := if x.posted then (t.fseq + 1) % 65536 else t.fseq }
  let s := match x.dst with | some r => s.hold w id [r] | none => s
  let s := match x.la with | some n => s.openWindow w id n | none => s
  (if x.kind.serial then ps.take 1 else ps).foldl (fun s (i, _) => s.dispatchPart id i) s

/-- An access instruction: the limit of R187, the checks, and the access; the thread passes to its next instruction. -/
def State.access (s : State) (w : Tid) (x : AccSpec) (es : List ElemReq) : State :=
  if x.rx && decide (16 ≤ (s.thread w).relaxed.length) then s.park w .relaxed 0 false .reissue
  else
    match s.checkAll w x.kind x.scrOnly x.posted x.size [] es with
    | .parts ps => (s.beginAccess w x ps).advance w
    | .stop (.trap c) va => s.trap w c va 0
    | .stop (.walk p) _ => s.walkFor w p x.kind.use
    | .stop (.record c) va => s.placeTq (s.faultRec w (s.pcOf w) va c x.kind.writes none none)
    | .stop (.pass ..) _ => s

/-! ### System-space elements (R379, R383, R396) -/

/-- A core register (R379). -/
def State.readReg (s : State) (pc off : Nat) : Word :=
  let q := s.pcore pc
  match off with
  | 0x00 => q.ptroot
  | 0x08 => q.tenant
  | 0x10 => q.jobreg
  | 0x18 => q.jshape
  | 0x20 => q.cecnt
  | 0x28 => q.cstat
  | 0x38 => q.cbase
  | _ => Config.writeOnlyRead off

/-- The call-board code of a wait kind (R227). -/
def WaitKind.code : WaitKind → Nat
  | .fe => 1 | .handle => 2 | .msgq => 3 | .barrier => 4 | .monitor => 5 | .rendezvous => 6 | .relaxed => 7 | .engq => 8
  | .permit => 9 | .outbox => 10 | .record => 11 | .service => 12

/-- The cores at the ends of a link (R267). -/
def Job.linkEnds (b : Job) (link : Nat) : Nat × Nat := (link / 2, if link % 2 = 0 then link / 2 + 1 else link / 2 + b.w)

/-- The members of a group on this device in ascending order (R358, R362). -/
def RedGroup.members (g : RedGroup) (w : Nat) : List Nat :=
  (List.range (g.gw * g.gh)).map fun i => (g.y0 + i / g.gw) * w + g.x0 + i % g.gw

/-- The threads whose absence an entry takes over (R288, R366): the contributors of a reduction's group, those at the other end of the link of a rendezvous, or the other
party of the product behind a handle. -/
def State.otherParties (s : State) (w : Tid) (x : Wait) : List Thread :=
  let b := s.job w.job
  match x.kind with
  | .rendezvous =>
    let (p, q) := b.linkEnds (bitsOf x.obj 0 16)
    ((s.core w.job (if w.lcn = p then q else p)).threads.map Prod.snd).filter fun t => t.st != .free
  | .handle =>
    if !isHandleObj x.obj then []
    else
      let id := (s.thread w).x.getD (x.obj.toNat % 64) 0
      let own : Tid := ⟨w.job, bitsOf id 16 16, bitsOf id 12 4⟩
      match (s.thread own).handles.get? (bitsOf id 0 5) with
      | some { kind := .product link pid, .. } =>
        match (b.links.getD link {}).prods.find? fun p => p.pid == pid with
        | some p => [s.thread (if p.lead.w = own then p.partner.w else p.lead.w)]
        | none => []
      | some { kind := .red grp, .. } =>
        match b.groups.get? grp with
        | some g => (g.members b.w).map fun l => s.thread ⟨w.job, l, g.thr⟩
        | none => []
      | _ => []
  | _ => []

/-- HELD and SUSP of a thread's entry (R227, R288). -/
def State.boardFlags (s : State) (w : Tid) (t : Thread) : Bool × Bool :=
  let ts := match t.wait with
    | some x => s.otherParties w x
    | none => []
  (t.held || ts.any fun u => u.held, t.susp || ts.any fun u => u.susp)

/-- The two words of a call-board entry (R227, R379): place `i` is member · 16 + physical thread. -/
def State.boardEntry (s : State) (pcl i : Nat) : Word × Word :=
  match s.carried (Machine.pcOf pcl (i / 16)) (i % 16) with
  | none => (0, 0)
  | some w =>
    let t := s.thread w
    let (hd, su) := s.boardFlags w t
    let flags := (if hd then 0x100 else 0) + (if su then 0x200 else 0) + 0x800 + (i % 16) * 0x1000 + (i / 16) * 0x10000
    match t.st, t.wait with
    | .parked, some x =>
      (w64 (x.kind.code + flags + (if x.timed then 0x400 else 0) + x.since % 2 ^ 32 * 2 ^ 32),
        if x.kind = .handle && isHandleObj x.obj then t.x.getD (x.obj.toNat % 64) 0 else x.obj)
    | .running, _ => if t.held || t.susp then (w64 (0x0D + flags + t.capAt % 2 ^ 32 * 2 ^ 32), 0) else (0, 0)
    | _, _ => (0, 0)

/-- A byte of a cluster unit's layout (R379, R383). -/
def State.unitByte (s : State) (pcl off : Nat) : Byte :=
  if off < 0x400 then (((s.pclu pcl).map.getD (off / 4) 0) >>> (8 * (off % 4))).truncate 8
  else
    let (a, b) := s.boardEntry pcl ((off - 0x1000) / 16)
    ((if off % 16 < 8 then a else b) >>> (8 * (off % 8))).truncate 8

/-- The write of a core register: the step of the table that performs it (R376, R379, R396). -/
def State.writeReg (s : State) (pc off : Nat) (v : Word) : State :=
  match off with
  | 0x08 => s.later 0 (.tenantWrite pc v)
  | 0x30 => s.later 0 (if v.getLsbD 8 then .tqackRefuse pc (v.toNat % 16) else .tqackServe pc (v.toNat % 16))
  | _ => s.later 0 (.coreRegWrite pc off v)

/-- Reads `n` bytes of a place of the system space that is not the pool. -/
def State.sysRead (s : State) (h : Home) (off n : Nat) : State × Port :=
  match h with
  | .raw pc =>
    if (s.pcore pc).tenant != 0 then (s, {})
    else (s.modPCore pc fun q => (q.counted off).logGuard off, (s.pcore pc).load off n)
  | .coreReg pc => (s, { val := (s.readReg pc off).toNat % 2 ^ (8 * n) })
  | .unit pcl => (s, { val := leNat ((List.range n).map fun i => s.unitByte pcl (off + i)) })
  | _ => (s, {})

/-- Writes `n` bytes of such a place. Raw scratch takes a write only while a job is loaded (R396), and no guard granule
takes one (R202); the map table and the call board are read-only. -/
def State.sysWrite (s : State) (h : Home) (off n v : Nat) : State × Port :=
  match h with
  | .raw pc =>
    if (s.pcore pc).guarded off then (s.modPCore pc fun q => q.logGuard off, { guard := true })
    else if !(s.pcore pc).loading then (s, {})
    else
      let (q, p) := (s.pcore pc).store off n v
      (s.modPCore pc fun _ => q, p)
  | .coreReg pc =>
    let old := if off = 0x30 then 0 else (s.readReg pc off).toNat
    (s.writeReg pc off (w64 (old / 2 ^ (8 * n) * 2 ^ (8 * n) + v)), {})
  | _ => (s, {})

/-- One element in the system space. -/
def State.sysElem (s : State) (k : AccKind) (t : Ty) (size : Nat) (h : Home) (e : Elem) : State × ElemOut :=
  let v := e.val.toNat % 2 ^ (8 * size)
  if k.atomic then
    let (s, old) := s.sysRead h e.at_ size
    let (n, f, wr) := k.update t old.val v (e.cmp.toNat % 2 ^ (8 * size))
    let (s, p) := if wr then s.sysWrite h e.at_ size n else (s, {})
    (s, { res := old.val, flags := if p.guard then 0 else f, guard := old.guard || p.guard, subst := old.subst || p.subst })
  else if k.writes then
    let (s, p) := s.sysWrite h e.at_ size v
    (s, { guard := p.guard, subst := p.subst })
  else
    let (s, p) := s.sysRead h e.at_ size
    (s, { res := p.val, guard := p.guard, subst := p.subst })

/-! ### Performing (R183, R187, R188, R190) -/

/-- Arms a monitor of a thread on the line of a byte (R209). -/
def State.armMonitor (s : State) (w : Tid) (i l off : Nat) : State :=
  s.modThread w fun t => { t with mons := t.mons.set i { armed := true, lcn := l, line := off / 64, trig := false } }

/-- An element at its home. -/
def State.homeElem (s : State) (a : Access) (p : Nat) (h : Home) (e : Elem) : State × ElemOut :=
  match h with
  | .scratch l =>
    match a.kind with
    | .mon i => (s.armMonitor a.own i l e.at_, {})
    | k => s.scrElem k a.t a.size a.own.job l e
  | .pool => s.poolElem a.kind a.t a.size a.posted (a.id * 256 + p) e
  | h => s.sysElem a.kind a.t a.size h e

/-- The elements of a part in ascending order, gathered into the part. -/
def State.runElems (s : State) (a : Access) (p : Nat) (q : Part) : List Elem → State × Part
  | [] => (s, { q with performed := true })
  | e :: es =>
    let (s, o) := s.homeElem a p q.home e
    let q :=
      { q with
        elems := q.elems.map fun e' => if e'.idx = e.idx then { e' with res := w64 o.res } else e'
        flags := q.flags ||| o.flags
        subst := q.subst || o.subst
        hits := q.hits + (if o.guard then 1 else 0)
        hitVa := if o.guard && q.hits = 0 then e.va else q.hitVa }
    s.runElems a p q es

/-- The response of a performed part sets out (R188). -/
def State.respond (s : State) (a : Access) (p : Nat) (q : Part) : State :=
  match q.home with
  | .scratch l => s.sendTo (a.lat - 4) .rsp a.own l a.own.lcn (.accessResponse a.id p)
  | .pool =>
    let t := s.cyc + a.lat + Config.fabricDelay s.seq
    s.drawn.injectPacket 0 (s.poolPacket .rsp a.own q.slice t false (.accessResponse a.id p))
  | _ => s.later (a.lat - 4) (.accessResponse a.id p)

/-- Performs a part at its home. A word or granule of a range that is not the last passes on to the next, and what it met
goes with it; the last answers for all. -/
def State.runPart (s : State) (a : Access) (p : Nat) (q : Part) : State :=
  let (s, q') := s.runElems a p q q.elems
  let s := s.modPart a.id p fun _ => q'
  if a.kind.serial && decide (p + 1 < a.parts.length) then
    ((s.modPart a.id p fun q => { q with returned := true }).modPart a.id (p + 1) fun r =>
      { r with hits := q'.hits, hitVa := q'.hitVa }).toBank a.id (p + 1) 1
  else (s.afterPerform a.id).respond a p q

/-- The first waiter of a word (R190). -/
def LCore.waiter (c : LCore) (word : Nat) : Option FeWaiter := c.feQ.find? fun x => x.word == word

/-- Removes a waiter. -/
def State.dropWaiter (s : State) (j l : Nat) (x : FeWaiter) : State :=
  s.modCore j l fun c => { c with feQ := c.feQ.erase x }

/-- Serves the waiters of a word in arrival order while the head's condition holds, at most `n` of them (R190). -/
def State.serveWaiters (j l word : Nat) : Nat → State → State
  | 0, s => s
  | n + 1, s =>
    match (s.core j l).waiter word with
    | none => s
    | some x =>
      match s.part? x.aid x.part with
      | none => State.serveWaiters j l word n (s.dropWaiter j l x)
      | some (a, q) =>
        if s.feWaits a.kind j l (word * 8) then s
        else State.serveWaiters j l word n ((s.dropWaiter j l x).runPart a x.part q)

/-- The words whose waiters an access may serve. -/
def AccKind.words (k : AccKind) (e : Elem) : List Nat :=
  match k with
  | .take | .put | .putFull | .fe _ => [e.at_ / 8]
  | .guard _ => (List.range 8).map fun i => e.at_ / 64 * 8 + i
  | _ => []

/-- Serves the waiters of every word that a part may have freed. -/
def State.serveAfter (s : State) (a : Access) (l : Nat) (es : List Elem) : State :=
  (es.flatMap fun e => a.kind.words e).foldl
    (fun s k => State.serveWaiters a.own.job l k (s.core a.own.job l).feQ.length s) s

/-- An FE form joins the wait list of its word, or with 32 remote entries taken is tried again 64 cycles later; its thread
parks either way (R190). -/
def State.feWait (s : State) (a : Access) (p l : Nat) (e : Elem) : State :=
  let remote := a.own.lcn != l
  let s :=
    if remote && decide (32 ≤ ((s.core a.own.job l).feQ.filter fun x => x.remote).length) then s.later 64 (.feRetry a.id p)
    else s.modCore a.own.job l fun c => { c with feQ := c.feQ ++ [⟨e.at_ / 8, a.id, p, remote⟩] }
  if (s.thread a.own).st = .running then s.park a.own .fe (w64 (e.va.toNat / 8 * 8)) false (.access a.id)
  else s

/-- The place that an element takes at its home: scratch by physical core, however it is addressed; the pool; another place. -/
def State.spot (s : State) (j : Nat) (h : Home) (a : Nat) : Nat × Nat :=
  match h with
  | .scratch l =>
    match s.phys? j l with
    | some pc => (pc, s.seg j l + a)
    | none => (2000 + l, a)
  | .raw pc => (pc, a)
  | .pool => (10000, a)
  | .coreReg pc => (12000 + pc, a)
  | .unit pcl => (14000 + pcl, a)

/-- Two elements touch one location. Of a pool part that has no permit yet the page alone may be unknown: it counts as
touching every location at its place within a page (log 71). -/
def State.meets (s : State) (a b : Access) (q r : Part) (e f : Elem) : Bool :=
  let (h, x) := s.spot a.own.job q.home e.at_
  let (h', y) := s.spot b.own.job r.home f.at_
  let n := if a.kind.unit = 64 then 64 else 8
  let m := if b.kind.unit = 64 then 64 else 8
  h == h' &&
    if q.home = .pool && !(q.sent && r.sent) then x % 4096 / 8 == y % 4096 / 8
    else decide (x / 8 * 8 < y / 8 * 8 + m) && decide (y / 8 * 8 < x / 8 * 8 + n)

/-- The part must wait: an earlier access of the same thread to a word of it has not been performed, or an engine operation
has still to read one (R187, R252, R257). -/
def State.blocked (s : State) (a : Access) (q : Part) : Bool :=
  s.sourceHeld a q || s.accs.any fun (i, b) =>
    decide (i < a.id) && b.own == a.own && b.parts.any fun (_, r) =>
      !r.performed && r.fault.isNone && q.elems.any fun e => r.elems.any fun f => s.meets a b q r e f

/-- A part reaches its home: performed, or waiting there. -/
def State.performPart (s : State) (aid p : Nat) : State :=
  match s.part? aid p with
  | none => s
  | some (a, q) =>
    if q.performed || q.fault.isSome then s
    else if s.blocked a q then s.later 1 (.remoteAccess aid p)
    else
      match q.home with
      | .scratch l =>
        if !s.serves a.own.job a.own.lcn l then s.later 64 (.remoteAccess aid p)
        else
          match q.elems.find? fun e => s.feWaits a.kind a.own.job l e.at_ with
          | some e => s.feWait a p l e
          | none => (s.runPart a p q).serveAfter a l q.elems
      | _ => s.runPart a p q

/-- REMOTE_ACCESS: an access is performed at its home (R183, R187, R188). -/
def execRemoteAccess (aid part : Nat) (s : State) : Host.Outcome State Fault Refusal := .next (s.performPart aid part)

/-- FE_RETRY: a refused FE request is tried again (R190). -/
def execFeRetry (aid part : Nat) (s : State) : Host.Outcome State Fault Refusal := .next (s.performPart aid part)

/-- ACCESS_RESPONSE: a response or acknowledgement returns; the permit, the guard mark, and at the last part the result
(R187, R188, R195, R202, R256). -/
def execAccessResponse (aid part : Nat) (s : State) : Host.Outcome State Fault Refusal :=
  match s.part? aid part with
  | none => .next s
  | some (a, q) =>
    if q.returned then .next s
    else
      let s := s.modPart aid part fun q => { q with returned := true }
      let s := if q.home = .pool then
          (s.poolFlush (aid * 256 + part)).returnPermit (s.phys a.own.job a.own.lcn) q.slice
        else s
      .next ((s.markGuard a.own q.hits q.hitVa).finishAccess aid)

/-! ### Packets that arrive (R19 to R23) -/

/-- A packet has reached the place it was bound for: its step is due, a request for scratch enters the queue of its bank, and
a request whose answer its sender awaits turns back (R18, R188). -/
def State.deliver (s : State) (p : Packet) : State :=
  if p.trip then
    s.injectPacket 0 { p with chan := .rsp, src := p.dst, at_ := p.dst, dst := p.src, entry := true, run := 0, trip := false }
  else
    let port := entryPort p.src p.dst
    match p.payload with
    | .remoteAccess aid i => if onIoDie p.dst then s.atCycle (max s.cyc p.floor) p.payload else s.toBank aid i
    | .flitArrival f => s.later 0 (.flitArrival { f with port := port })
    | .recordFrameArrival f => s.later 0 (.recordFrameArrival { f with port := port })
    | .bindToken t => s.later 0 (.bindToken { t with port := port })
    | .openToken t => s.later 0 (.openToken { t with port := port })
    | e => s.atCycle (max s.cyc p.floor) e

/-- The instruction whose packet a router refuses takes ADDR, if its thread still waits at it. -/
def State.refuseAt (s : State) (w : Tid) : State :=
  if (s.thread w).stall == some .home then (s.unstall w).trap w .addr 0 0 else s

/-- A packet that a router refuses is dropped, and the access that sent it faults as ADDR at the sender: a posted access
leaves a record, an ordinary one or an instruction that waits for an answer takes the trap, a flit is found dead (R23, R187,
log 70). -/
def State.dropPacket (s : State) (p : Packet) : State :=
  match p.payload with
  | .remoteAccess aid i | .accessResponse aid i =>
    match s.accs.get? aid with
    | none => s
    | some a =>
      if a.posted then
        match a.parts.get? i with
        | some q => if q.fault.isSome then s else (s.faultBlock aid q .addr false).later 0 (.storeFaultRecord aid i)
        | none => s
      else
        let va := ((a.parts.get? i).bind fun q => q.elems.head?.map fun e => e.va).getD 0
        let s := ({ s with accs := s.accs.del aid }.release a.own aid).leaveRelaxed a.own aid
        (s.modThread a.own fun t => { t with ordAcc := if t.ordAcc = some aid then none else t.ordAcc }).trapAt a.own .addr
          a.pc va 0
  | .flitArrival f => s.later 0 (.sendAck f true)
  | .recordFrameArrival f =>
    let s := s.modThread f.src fun t =>
      { t with frames := t.frames.filter fun x => x.id != f.id, ordAcc := if t.ordAcc = some f.id then none else t.ordAcc }
    if f.own then (s.unpark f.src).trap f.src .addr 0 0 else s
  | .lineDelivery pcl line _ =>
    let who := ((s.pclu pcl).fetch.filter fun x => x.2.1 == line).map fun x => x.2.2
    who.foldl (fun s w => if (s.pcOf w - line).ult 48 then s.trap w .addr (s.pcOf w) 0 else s)
      (s.modPClu pcl fun q => { q with fetch := q.fetch.filter fun x => !(x.2.1 == line), reads := q.reads.del line.toNat })
  | .adoptRequest w _ _ | .adoptReply w _ _ _ | .castAccess w _ => s.refuseAt w
  | .cueArm t | .cueCommit t | .cueFailReturn t => s.refuseAt t.w
  | _ => s

/-- A packet takes the next link of its route for its beats. At the last link it is due with its last beat, ejected. -/
def State.cross (s : State) (pid : Nat) (p : Packet) (port : Nat) : State :=
  let (p', c) := p.crossed
  let c := if p'.at_ = p'.dst then c + 2 + (p.beats - 1) else c
  { s with packets := s.packets.set pid p', linkLast := s.linkLast.set (linkKey p.at_ port) (s.cyc + p.beats - 1) }.later c
    (.packetForward pid (p'.run == 0))

/-- PACKET_FORWARD: a router ejects a packet, refuses it, or forwards it: an express packet that bypasses the router first,
another in the order in which the packets for the port came, when the link is free (R18 to R23). -/
def execPacketForward (h : Hop) (s : State) : Host.Outcome State Fault Refusal :=
  match s.packets.get? h.pid with
  | none => .next s
  | some p =>
    let port := nextPort p.at_ p.dst
    let queue := s.waiting p.at_ port
    if p.at_ = p.dst then .next ({ s with packets := s.packets.del h.pid }.deliver p)
    else if !s.linkOpen p p.at_ port then
      .next (({ s with packets := s.packets.del h.pid }.setWaiting p.at_ port (queue.erase h.pid)).dropPacket p)
    else if !h.buffered then
      if s.buffers p port then
        .next (({ s with packets := s.packets.set h.pid { p with run := 0, entry := true } }.setWaiting p.at_ port
          (queue ++ [h.pid])).later 1 (.packetForward h.pid true))
      else .next ((s.noteBypass p.at_ port p.beats).cross h.pid p port)
    else
      let queue := if queue.contains h.pid then queue else queue ++ [h.pid]
      if queue.head? = some h.pid && !s.linkTaken p.at_ port then .next ((s.setWaiting p.at_ port queue.tail).cross h.pid p port)
      else .next ((s.setWaiting p.at_ port queue).later 1 (.packetForward h.pid true))

end Sys2Proof.Machine
end

