-- ==== Sys2Proof/Machine/Atomics.lean ====
section
/-!
DEFINITION. The meanings of class 0x7, atomics and remote updates (R192 to R194).
-/

set_option linter.unusedVariables false

namespace Sys2Proof.Machine

/-- An atomic with a result: `val` is the operand B, `cmp` the comparand of `cas`. -/
def State.atomic (s : State) (k : AccKind) (la : BitVec 4) (rx : Bool) (t : Ty) (d : SReg) (va val cmp : Word) : State :=
  s.access s.cur { kind := k, t := t, size := t.bytes, lat := 16, rx := rx, dst := some (.s d), la := some la }
    [{ idx := 0, va := va, val := val, cmp := cmp }]

/-- An update with no result, posted under RX. -/
def State.update (s : State) (k : AccKind) (rx : Bool) (t : Ty) (va val : Word) : State :=
  s.access s.cur { kind := k, t := t, size := t.bytes, lat := 16, rx := rx, posted := rx } [{ idx := 0, va := va, val := val }]

/-- `amo`. -/
def execAmo (g : Gd) (la : BitVec 4) (rx : Bool) (t : Ty) (op : AmoOp) (d a b : SReg) (imm : BitVec 32) (s : State) :
    Host.Outcome State Fault Refusal :=
  s.guarded g fun s => s.atomic (.amo op) la rx t d (s.eaImm s.cur a imm) (s.rd s.cur b) 0

/-- `cas`. -/
def execCas (g : Gd) (la : BitVec 4) (rx : Bool) (t : Ty) (d a b : SReg) (imm : BitVec 32) (s : State) :
    Host.Outcome State Fault Refusal :=
  s.guarded g fun s => s.atomic .cas la rx t d (s.eaImm s.cur a imm) (s.rd s.cur b) (s.rd s.cur d)

/-- `famo`. -/
def execFamo (g : Gd) (la : BitVec 4) (rx : Bool) (t : Ty) (rm : Rm) (op : FOp) (d a b : SReg) (imm : BitVec 32) (s : State) :
    Host.Outcome State Fault Refusal :=
  s.guarded g fun s => s.atomic (.famo op rm) la rx t d (s.eaImm s.cur a imm) (s.rd s.cur b) 0

/-- `rupd`. -/
def execRupd (g : Gd) (rx : Bool) (t : Ty) (op : AmoOp) (a b : SReg) (imm : BitVec 32) (s : State) :
    Host.Outcome State Fault Refusal :=
  s.guarded g fun s => s.update (.amo op) rx t (s.eaImm s.cur a imm) (s.rd s.cur b)

/-- `frupd`. -/
def execFrupd (g : Gd) (rx : Bool) (t : Ty) (rm : Rm) (op : FOp) (a b : SReg) (imm : BitVec 32) (s : State) :
    Host.Outcome State Fault Refusal :=
  s.guarded g fun s => s.update (.famo op rm) rx t (s.eaImm s.cur a imm) (s.rd s.cur b)

end Sys2Proof.Machine
end

