-- ==== Sys2Proof/Machine/Scalar.lean ====
section
/-!
DEFINITION. The meanings of class 0x0, scalar integer instructions (R96 to R101).
-/

set_option linter.unusedVariables false

namespace Sys2Proof.Machine

/-! ### Shared operations -/

/-- Bits [31:0] sign-extended to 64 bits (R91). -/
def s32 (v : Word) : Word := (v.truncate 32 : BitVec 32).signExtend 64

/-- A two-operand operation on 64 bits, or on bits [31:0] with a sign-extended result (R45, R96). -/
def opW (w : Bool) (f64 : Word → Word → Word) (f32 : BitVec 32 → BitVec 32 → BitVec 32) (a b : Word) : Word :=
  if w then (f32 (a.truncate 32) (b.truncate 32)).signExtend 64 else f64 a b

/-- A one-operand operation of the same kind whose 32-bit result is zero-extended (R98). -/
def opW1 (w : Bool) (f64 : Word → Word) (f32 : BitVec 32 → Word) (a : Word) : Word :=
  if w then f32 (a.truncate 32) else f64 a

/-- The high half of a signed product. -/
def mulHiS {n : Nat} (a b : BitVec n) : BitVec n := BitVec.ofInt n (a.toInt * b.toInt / 2 ^ n)
/-- The high half of an unsigned product. -/
def mulHiU {n : Nat} (a b : BitVec n) : BitVec n := BitVec.ofNat n (a.toNat * b.toNat / 2 ^ n)
/-- A left shift, count modulo the width. -/
def shlOp {n : Nat} (a b : BitVec n) : BitVec n := a <<< (b.toNat % n)
/-- A logical right shift. -/
def shrOp {n : Nat} (a b : BitVec n) : BitVec n := a >>> (b.toNat % n)
/-- An arithmetic right shift. -/
def sarOp {n : Nat} (a b : BitVec n) : BitVec n := a.sshiftRight (b.toNat % n)
/-- A left rotation. -/
def rolOp {n : Nat} (a b : BitVec n) : BitVec n := a.rotateLeft (b.toNat % n)
/-- The signed minimum. -/
def minS {n : Nat} (a b : BitVec n) : BitVec n := if a.slt b then a else b
/-- The signed maximum. -/
def maxS {n : Nat} (a b : BitVec n) : BitVec n := if a.slt b then b else a
/-- The unsigned minimum. -/
def minU {n : Nat} (a b : BitVec n) : BitVec n := if a.ult b then a else b
/-- The unsigned maximum. -/
def maxU {n : Nat} (a b : BitVec n) : BitVec n := if a.ult b then b else a

/-- The most negative value of n bits. -/
def minVal (n : Nat) : BitVec n := BitVec.ofInt n (-(2 ^ (n - 1) : Int))

/-- `div` of R97 with its flags. -/
def divOp {n : Nat} (a b : BitVec n) : BitVec n × FlagBits :=
  if b = 0 then (BitVec.allOnes n, fDZ)
  else if a = minVal n ∧ b = BitVec.allOnes n then (minVal n, fOF)
  else (BitVec.ofInt n (a.toInt.tdiv b.toInt), 0)

/-- `divu` of R97. -/
def divuOp {n : Nat} (a b : BitVec n) : BitVec n × FlagBits :=
  if b = 0 then (BitVec.allOnes n, fDZ) else (BitVec.ofNat n (a.toNat / b.toNat), 0)

/-- `rem` of R97: the overflow case of `div` gives 0 and sets no flag. -/
def remOp {n : Nat} (a b : BitVec n) : BitVec n × FlagBits :=
  if b = 0 then (a, fDZ)
  else if a = minVal n ∧ b = BitVec.allOnes n then (0, 0)
  else (BitVec.ofInt n (a.toInt.tmod b.toInt), 0)

/-- `remu` of R97. -/
def remuOp {n : Nat} (a b : BitVec n) : BitVec n × FlagBits :=
  if b = 0 then (a, fDZ) else (BitVec.ofNat n (a.toNat % b.toNat), 0)

/-- Leading zeros. -/
def clzOp {n : Nat} (a : BitVec n) : Nat := n - bitLen a.toNat
/-- Trailing zeros. -/
def ctzOp {n : Nat} (a : BitVec n) : Nat := ((List.range n).find? fun i => a.getLsbD i).getD n
/-- Ones. -/
def popOp {n : Nat} (a : BitVec n) : Nat := ((List.range n).filter fun i => a.getLsbD i).length

/-- The low `k` bytes of a word in reverse order. -/
def revBytes (k : Nat) (a : Word) : Nat := leNat (leBytes k a.toNat).reverse

/-- The mask of a field of FN[11:6] + 1 bits (R101). -/
def fieldMask (len : BitVec 6) : Word := if len = 63 then BitVec.allOnes 64 else (1 <<< (len.toNat + 1)) - 1

/-- The field position of `bext` and `bextu` (R101). -/
def fieldPos (pos : BitVec 6) (b : Word) : Nat := (pos.toNat + b.toNat % 64) % 64

/-- The field of `bextu`, zero-extended. -/
def extractU (pos len : BitVec 6) (a b : Word) : Word := (a >>> fieldPos pos b) &&& fieldMask len

/-- The field of `bext`, sign-extended from its top bit. -/
def extractS (pos len : BitVec 6) (a b : Word) : Word :=
  let f := extractU pos len a b
  if f.getLsbD len.toNat then f ||| ~~~(fieldMask len) else f

/-- `bins`: bits shifted past 63 are dropped. -/
def insertField (pos len : BitVec 6) (a b : Word) : Word :=
  (a &&& ~~~(fieldMask len <<< pos.toNat)) ||| ((b &&& fieldMask len) <<< pos.toNat)

/-- A scalar result `lat` cycles on, and the next instruction (R92). -/
def State.result (s : State) (lat : Nat) (d : SReg) (v : Word) : State := (s.landS s.cur lat d v).advance s.cur

/-- The shape of the two-operand instructions of R96. -/
def State.alu (s : State) (lat : Nat) (d a : SReg) (b : Src) (f : Word → Word → Word) : State :=
  s.result lat d (f (s.rd s.cur a) (s.src s.cur b))

/-- The shape of the division group: 44 cycles, or 28 on 32 bits, with a lookahead window (R92, R97). -/
def State.divide (s : State) (w : Bool) (la : BitVec 4) (d a : SReg) (b : Src)
    (f64 : Word → Word → Word × FlagBits) (f32 : BitVec 32 → BitVec 32 → BitVec 32 × FlagBits) : State :=
  let x := s.rd s.cur a
  let y := s.src s.cur b
  if w then
    let r := f32 (x.truncate 32) (y.truncate 32)
    (s.landLa s.cur 28 la [.s d (r.1.signExtend 64)] r.2).advance s.cur
  else
    let r := f64 x y
    (s.landLa s.cur 44 la [.s d r.1] r.2).advance s.cur

/-! ### Meanings -/

/-- `nop` (R107). -/
def execNop (g : Gd) (s : State) : Host.Outcome State Fault Refusal := s.guarded g fun s => s.advance s.cur

/-- `add` (R96): the sum. -/
def execAdd (g : Gd) (w : Bool) (d a : SReg) (b : Src) (s : State) : Host.Outcome State Fault Refusal :=
  s.guarded g fun s => s.alu 8 d a b (opW w (· + ·) (· + ·))

/-- `sub` (R96): the difference. -/
def execSub (g : Gd) (w : Bool) (d a : SReg) (b : Src) (s : State) : Host.Outcome State Fault Refusal :=
  s.guarded g fun s => s.alu 8 d a b (opW w (· - ·) (· - ·))

/-- `mul` (R96): the low half of the product. -/
def execMul (g : Gd) (w : Bool) (d a : SReg) (b : Src) (s : State) : Host.Outcome State Fault Refusal :=
  s.guarded g fun s => s.alu 12 d a b (opW w (· * ·) (· * ·))

/-- `mulh` (R96): the high half of the signed product. -/
def execMulh (g : Gd) (w : Bool) (d a : SReg) (b : Src) (s : State) : Host.Outcome State Fault Refusal :=
  s.guarded g fun s => s.alu 12 d a b (opW w mulHiS mulHiS)

/-- `mulhu` (R96): the high half of the unsigned product. -/
def execMulhu (g : Gd) (w : Bool) (d a : SReg) (b : Src) (s : State) : Host.Outcome State Fault Refusal :=
  s.guarded g fun s => s.alu 12 d a b (opW w mulHiU mulHiU)

/-- `shl` (R96): left shift. -/
def execShl (g : Gd) (w : Bool) (d a : SReg) (b : Src) (s : State) : Host.Outcome State Fault Refusal :=
  s.guarded g fun s => s.alu 8 d a b (opW w shlOp shlOp)

/-- `shr` (R96): logical right shift. -/
def execShr (g : Gd) (w : Bool) (d a : SReg) (b : Src) (s : State) : Host.Outcome State Fault Refusal :=
  s.guarded g fun s => s.alu 8 d a b (opW w shrOp shrOp)

/-- `sar` (R96): arithmetic right shift. -/
def execSar (g : Gd) (w : Bool) (d a : SReg) (b : Src) (s : State) : Host.Outcome State Fault Refusal :=
  s.guarded g fun s => s.alu 8 d a b (opW w sarOp sarOp)

/-- `rol` (R96): left rotation. -/
def execRol (g : Gd) (w : Bool) (d a : SReg) (b : Src) (s : State) : Host.Outcome State Fault Refusal :=
  s.guarded g fun s => s.alu 8 d a b (opW w rolOp rolOp)

/-- `min` (R96): signed minimum. -/
def execMin (g : Gd) (w : Bool) (d a : SReg) (b : Src) (s : State) : Host.Outcome State Fault Refusal :=
  s.guarded g fun s => s.alu 8 d a b (opW w minS minS)

/-- `max` (R96): signed maximum. -/
def execMax (g : Gd) (w : Bool) (d a : SReg) (b : Src) (s : State) : Host.Outcome State Fault Refusal :=
  s.guarded g fun s => s.alu 8 d a b (opW w maxS maxS)

/-- `minu` (R96): unsigned minimum. -/
def execMinu (g : Gd) (w : Bool) (d a : SReg) (b : Src) (s : State) : Host.Outcome State Fault Refusal :=
  s.guarded g fun s => s.alu 8 d a b (opW w minU minU)

/-- `maxu` (R96): unsigned maximum. -/
def execMaxu (g : Gd) (w : Bool) (d a : SReg) (b : Src) (s : State) : Host.Outcome State Fault Refusal :=
  s.guarded g fun s => s.alu 8 d a b (opW w maxU maxU)

/-- `and` (R96): bitwise AND. -/
def execAnd (g : Gd) (d a : SReg) (b : Src) (s : State) : Host.Outcome State Fault Refusal :=
  s.guarded g fun s => s.alu 8 d a b (· &&& ·)

/-- `or` (R96): bitwise OR. -/
def execOr (g : Gd) (d a : SReg) (b : Src) (s : State) : Host.Outcome State Fault Refusal :=
  s.guarded g fun s => s.alu 8 d a b (· ||| ·)

/-- `xor` (R96): bitwise XOR. -/
def execXor (g : Gd) (d a : SReg) (b : Src) (s : State) : Host.Outcome State Fault Refusal :=
  s.guarded g fun s => s.alu 8 d a b (· ^^^ ·)

/-- `andn` (R96): A AND NOT B. -/
def execAndn (g : Gd) (d a : SReg) (b : Src) (s : State) : Host.Outcome State Fault Refusal :=
  s.guarded g fun s => s.alu 8 d a b (fun x y => x &&& ~~~y)

/-- `div` (R97). -/
def execDiv (g : Gd) (w : Bool) (la : BitVec 4) (d a : SReg) (b : Src) (s : State) : Host.Outcome State Fault Refusal :=
  s.guarded g fun s => s.divide w la d a b divOp divOp

/-- `divu` (R97). -/
def execDivu (g : Gd) (w : Bool) (la : BitVec 4) (d a : SReg) (b : Src) (s : State) : Host.Outcome State Fault Refusal :=
  s.guarded g fun s => s.divide w la d a b divuOp divuOp

/-- `rem` (R97). -/
def execRem (g : Gd) (w : Bool) (la : BitVec 4) (d a : SReg) (b : Src) (s : State) : Host.Outcome State Fault Refusal :=
  s.guarded g fun s => s.divide w la d a b remOp remOp

/-- `remu` (R97). -/
def execRemu (g : Gd) (w : Bool) (la : BitVec 4) (d a : SReg) (b : Src) (s : State) : Host.Outcome State Fault Refusal :=
  s.guarded g fun s => s.divide w la d a b remuOp remuOp

/-- `clz` (R98). -/
def execClz (g : Gd) (w : Bool) (d a : SReg) (s : State) : Host.Outcome State Fault Refusal :=
  s.guarded g fun s => s.result 8 d (opW1 w (fun x => w64 (clzOp x)) (fun x => w64 (clzOp x)) (s.rd s.cur a))

/-- `ctz` (R98). -/
def execCtz (g : Gd) (w : Bool) (d a : SReg) (s : State) : Host.Outcome State Fault Refusal :=
  s.guarded g fun s => s.result 8 d (opW1 w (fun x => w64 (ctzOp x)) (fun x => w64 (ctzOp x)) (s.rd s.cur a))

/-- `popc` (R98). -/
def execPopc (g : Gd) (w : Bool) (d a : SReg) (s : State) : Host.Outcome State Fault Refusal :=
  s.guarded g fun s => s.result 8 d (opW1 w (fun x => w64 (popOp x)) (fun x => w64 (popOp x)) (s.rd s.cur a))

/-- `bswap` (R98): all eight bytes reversed, or four with a sign-extended result. -/
def execBswap (g : Gd) (w : Bool) (d a : SReg) (s : State) : Host.Outcome State Fault Refusal :=
  s.guarded g fun s =>
    let x := s.rd s.cur a
    s.result 8 d (if w then s32 (w64 (revBytes 4 x)) else w64 (revBytes 8 x))

/-- `sel` (R99). -/
def execSel (g : Gd) (p : BitVec 3) (d a : SReg) (b : Src) (s : State) : Host.Outcome State Fault Refusal :=
  s.guarded g fun s => s.result 8 d (if s.rdQ s.cur p then s.rd s.cur a else s.src s.cur b)

/-- `movi` (R100). -/
def execMovi (g : Gd) (d : SReg) (imm : BitVec 32) (s : State) : Host.Outcome State Fault Refusal :=
  s.guarded g fun s => s.result 8 d (imm.signExtend 64)

/-- `movhi` (R100). -/
def execMovhi (g : Gd) (d a : SReg) (imm : BitVec 32) (s : State) : Host.Outcome State Fault Refusal :=
  s.guarded g fun s => s.result 8 d (imm ++ (s.rd s.cur a).truncate 32)

/-- `bext` (R101). -/
def execBext (g : Gd) (pos len : BitVec 6) (d a : SReg) (b : Src) (s : State) : Host.Outcome State Fault Refusal :=
  s.guarded g fun s => s.alu 8 d a b (extractS pos len)

/-- `bextu` (R101). -/
def execBextu (g : Gd) (pos len : BitVec 6) (d a : SReg) (b : Src) (s : State) : Host.Outcome State Fault Refusal :=
  s.guarded g fun s => s.alu 8 d a b (extractU pos len)

/-- `bins` (R101). -/
def execBins (g : Gd) (pos len : BitVec 6) (d a : SReg) (b : Src) (s : State) : Host.Outcome State Fault Refusal :=
  s.guarded g fun s => s.alu 8 d a b (insertField pos len)

/-- `sext` (R98). -/
def execSext (g : Gd) (wd : Wd) (d a : SReg) (s : State) : Host.Outcome State Fault Refusal :=
  s.guarded g fun s =>
    let x := s.rd s.cur a
    s.result 8 d (match wd with
      | .w8 => (x.truncate 8 : BitVec 8).signExtend 64
      | .w16 => (x.truncate 16 : BitVec 16).signExtend 64
      | .w32 => s32 x)

/-- `mov` (R98). -/
def execMov (g : Gd) (d a : SReg) (s : State) : Host.Outcome State Fault Refusal :=
  s.guarded g fun s => s.result 8 d (s.rd s.cur a)

end Sys2Proof.Machine
end

