-- ==== Sys2Proof/Machine/Numbers.lean ====
section
/-!
DEFINITION. The meanings of class 0x3: conversions and scalar float arithmetic (R140 to R153).
-/

set_option linter.unusedVariables false

namespace Sys2Proof.Machine

/-- A typed scalar result with its flags. -/
def State.resultT (s : State) (lat : Nat) (t : Ty) (d : SReg) (r : Nat × FlagBits) : State :=
  (s.land s.cur lat (writesT t d r.1) r.2).advance s.cur

/-- The latency of R153: 12 on a80. -/
def latT (t : Ty) : Nat := if t = .a80 then 12 else 8

/-- `cvt` (R140 to R143). -/
def execCvt (g : Gd) (t : Ty) (rm : Rm) (sat : Bool) (src : Ty) (d a : SReg) (s : State) :
    Host.Outcome State Fault Refusal :=
  s.guarded g fun s =>
    s.resultT (if t = .a80 ∨ src = .a80 then 12 else 8) t d (conv t src rm sat (s.rdT s.cur src a))

/-- A scalar float operation of two operands. -/
def State.float2 (s : State) (lat : Nat) (t : Ty) (d a b : SReg) (f : Nat → Nat → Nat × FlagBits) : State :=
  s.resultT lat t d (f (s.rdT s.cur t a) (s.rdT s.cur t b))

/-- `fadd` (R149). -/
def execFadd (g : Gd) (t : Ty) (rm : Rm) (d a b : SReg) (s : State) : Host.Outcome State Fault Refusal :=
  s.guarded g fun s => s.float2 (latT t) t d a b (fAdd t rm)

/-- `fsub` (R149). -/
def execFsub (g : Gd) (t : Ty) (rm : Rm) (d a b : SReg) (s : State) : Host.Outcome State Fault Refusal :=
  s.guarded g fun s => s.float2 (latT t) t d a b (fSub t rm)

/-- `fmul` (R149). -/
def execFmul (g : Gd) (t : Ty) (rm : Rm) (d a b : SReg) (s : State) : Host.Outcome State Fault Refusal :=
  s.guarded g fun s => s.float2 (latT t) t d a b (fMul t rm)

/-- `ffma` (R149): the addend is the old value of D. -/
def execFfma (g : Gd) (t : Ty) (rm : Rm) (d a b : SReg) (s : State) : Host.Outcome State Fault Refusal :=
  s.guarded g fun s => s.float2 12 t d a b fun x y => fFma t rm x y (s.rdT s.cur t d)

/-- A result of `fdiv` or `fsqrt`, which take LA (R42, R153). -/
def State.longFloat (s : State) (la : BitVec 4) (t : Ty) (d : SReg) (r : Nat × FlagBits) : State :=
  (s.landLa s.cur (if t = .f64 then 40 else 24) la (writesT t d r.1) r.2).advance s.cur

/-- `fdiv` (R149). -/
def execFdiv (g : Gd) (la : BitVec 4) (t : Ty) (rm : Rm) (d a b : SReg) (s : State) :
    Host.Outcome State Fault Refusal :=
  s.guarded g fun s => s.longFloat la t d (fDiv t rm (s.rdT s.cur t a) (s.rdT s.cur t b))

/-- `fsqrt` (R149). -/
def execFsqrt (g : Gd) (la : BitVec 4) (t : Ty) (rm : Rm) (d a : SReg) (s : State) : Host.Outcome State Fault Refusal :=
  s.guarded g fun s => s.longFloat la t d (fSqrt t rm (s.rdT s.cur t a))

/-- `fmin` (R150). -/
def execFmin (g : Gd) (t : Ty) (d a b : SReg) (s : State) : Host.Outcome State Fault Refusal :=
  s.guarded g fun s => s.float2 (latT t) t d a b (fMinMax t false)

/-- `fmax` (R150). -/
def execFmax (g : Gd) (t : Ty) (d a b : SReg) (s : State) : Host.Outcome State Fault Refusal :=
  s.guarded g fun s => s.float2 (latT t) t d a b (fMinMax t true)

/-- `fcmp` (R151). -/
def execFcmp (g : Gd) (t : Ty) (cnd : FCond) (d : QReg) (a b : SReg) (s : State) : Host.Outcome State Fault Refusal :=
  s.guarded g fun s =>
    let (r, f) := fCmp t cnd (s.rdT s.cur t a) (s.rdT s.cur t b)
    (s.land s.cur (latT t) [.q d r] f).advance s.cur

/-- `fclass` (R152). -/
def execFclass (g : Gd) (t : Ty) (d a : SReg) (s : State) : Host.Outcome State Fault Refusal :=
  s.guarded g fun s => s.result (latT t) d (w64 (fClass t (s.rdT s.cur t a)))

end Sys2Proof.Machine
end

