-- ==== Sys2Proof/Machine/Fetch.lean ====
section
/-!
DEFINITION. Instruction fetch (R34, R108, R109): the lines a thread holds, its requests to the fetch port of its cluster,
the code cache, and the delivery of a line.
-/

set_option linter.unusedVariables false

namespace Sys2Proof.Machine

/-! ### Lines (R34) -/

/-- The base of the code line of an address: CBASE + 48·i for an integer i. -/
def lineBase (cbase a : Word) : Word := cbase + BitVec.ofInt 64 ((a - cbase).toInt / 48 * 48)

/-- The line of a thread's PC. -/
def State.lineOf (s : State) (w : Tid) : Word := lineBase (s.cbase w) (s.pcOf w)

/-- A line that a thread holds. -/
def Thread.line? (t : Thread) (a : Word) : Option CodeLine := t.lines.find? fun l => l.addr == a

/-- The 96 bits at an offset of a line: byte 0 of an instruction holds bits [7:0]. -/
def CodeLine.word (l : CodeLine) (a : Word) : BitVec 96 := l.bytes.extractLsb' (8 * (a - l.addr).toNat) 96

/-- The instruction at an address of a line, if all its bytes came from code pages. -/
def CodeLine.word? (l : CodeLine) (a : Word) : Option (BitVec 96) :=
  if l.lo ≤ (a - l.addr).toNat && (a - l.addr).toNat + 12 ≤ l.hi then some (l.word a) else none

/-- The whole line is code: only such a line enters the code cache (R108). -/
def CodeLine.full (l : CodeLine) : Bool := l.lo == 0 && l.hi == 48

/-- The instruction word at a thread's PC, if it holds the line. -/
def State.fetched (s : State) (w : Tid) : Option (BitVec 96) :=
  ((s.thread w).line? (s.lineOf w)).bind fun l => l.word? (s.pcOf w)

/-! ### Reading a line from the pool -/

/-- The physical address of a byte of a code page, by a cached translation or a walk. -/
def State.codePa (s : State) (pc job va : Nat) : Option Nat :=
  let pa (t : Tlb) : Option Nat := if (t.denies .exec).isNone then some (t.frame + va % t.size) else none
  match s.cached pc job va with
  | some t => pa t
  | none =>
    match s.walkTable pc job va with
    | .leaf t => pa t
    | .fault _ _ => none

/-- The 48 bytes of a line. -/
def State.readLine (s : State) (pc job va : Nat) : BitVec 384 :=
  BitVec.ofNat 384 (leNat ((List.range 48).map fun i =>
    match s.codePa pc job (va + i) with
    | some a => s.poolByte a
    | none => 0))

/-- A line as the pool gives it: a line over two pages holds the bytes of those that are code. -/
def State.lineFrom (s : State) (pc job : Nat) (line : Word) : CodeLine :=
  let cut := 4096 - line.toNat % 4096
  { addr := line, bytes := s.readLine pc job line.toNat,
    lo := if (s.codePa pc job line.toNat).isSome then 0 else cut,
    hi := if (s.codePa pc job (line.toNat + 47)).isSome then 48 else cut }

/-- The slices of the 256-byte blocks that a line touches, those that a code page backs: one request for each (R195). -/
def State.lineSlices (s : State) (pc job : Nat) (line : Word) : List Nat :=
  let one (a : Nat) : List Nat := ((s.codePa pc job a).bind fun x => s.dev.slice x).toList
  let last := line.toNat + 47
  one line.toNat ++ if last / 256 = line.toNat / 256 then [] else one last

/-- Lines that fit the code cache of 128 KiB (R108). -/
def cacheLines : Nat := 128 * 1024 / 48

/-! ### The port -/

/-- The cycle in which the port starts the next delivery: up to two a cycle, first in, first out. -/
def PCluster.portSlot (q : PCluster) (now : Nat) : Nat :=
  let starts := ((q.fetch.map fun x => (x.1, x.2.1)).eraseDups).map Prod.fst
  let last := starts.foldl max now
  if (starts.filter (· == last)).length < 2 then last else last + 1

/-- A thread has asked for a line. -/
def State.asked (s : State) (w : Tid) (line : Word) : Bool :=
  (s.pclu (s.physClu w.job w.lcn)).fetch.any fun x => x.2.1 == line && x.2.2 == w

/-- What the code addresses from `a` on give, `n` bytes being wanted. -/
def State.codeUse (s : State) (w : Tid) (a : Word) (n : Nat) : Xlat :=
  let pc := s.phys w.job w.lcn
  match s.translate pc w.job (bitsOf a 0 48) .exec, s.translate pc w.job (bitsOf (a + w64 (n - 1)) 0 48) .exec with
  | .hit pa sl, .hit _ _ => .hit pa sl
  | .hit _ _, x => x
  | x, _ => x

/-- A line is read from the pool, `d` cycles from now: each of its blocks takes a permit of the asking thread's core. -/
def State.readPool (s : State) (w : Tid) (line : Word) (d : Nat) : State :=
  let pc := s.phys w.job w.lcn
  let sls := s.lineSlices pc w.job line
  sls.foldl (fun s sl =>
    if (s.pcore pc).permitFree sl then (s.takePermit pc sl).sendRead w line sl d
    else s.modPCore pc fun c => { c with permitQ := c.permitQ ++ [(sl, .fetch w line)] })
    (s.modPClu (pclOf pc) fun q => { q with reads := q.reads.set line.toNat ⟨pc, sls.length⟩ })

/-- Enters a request for a line that the cache or the pool will give. -/
def State.enterFetch (s : State) (w : Tid) (line : Word) : State :=
  let pcl := s.physClu w.job w.lcn
  let q := s.pclu pcl
  match q.fetch.find? fun x => x.2.1 == line with
  | some x => s.modPClu pcl fun q => { q with fetch := q.fetch ++ [(x.1, line, w)] }
  | none =>
    let t := q.portSlot s.cyc
    let s := s.modPClu pcl fun q => { q with fetch := q.fetch ++ [(t, line, w)] }
    if (q.cache.get? line.toNat).isSome then s.atCycle (t + 6) (.lineDelivery pcl line none)
    else s.readPool w line (t - s.cyc)

/-- A line can be asked for at once, for `n` bytes of it from `a` on: cached, on its way, or translated. -/
def State.fetchable (s : State) (w : Tid) (line a : Word) (n : Nat) : Bool :=
  let q := s.pclu (s.physClu w.job w.lcn)
  (q.cache.get? line.toNat).isSome || (q.fetch.any fun x => x.2.1 == line) ||
    (match s.codeUse w a n with | .hit _ _ => true | _ => false)

/-- The line that follows is asked for when a line is entered (R108); its page is walked to first if need be. A fault shows
when the line is fetched. -/
def State.prefetch (s : State) (w : Tid) (line : Word) : State :=
  if ((s.thread w).line? line).isSome || s.asked w line || bitsOf line 48 16 != 0 then s
  else if s.fetchable w line line 48 then s.enterFetch w line
  else
    match s.codeUse w line 48 with
    | .miss =>
      if s.walks.any fun (_, k) => k.own == w && k.ahead == some line then s
      else
        let far := (s.cached (s.phys w.job w.lcn) w.job line.toNat).isSome
        s.startWalk { own := w, pc := s.pcOf w, va := if far then line + 47 else line, write := false, atomic := false, exec := true,
                      post := none, eng := none, ahead := some line }
    | _ => s

/-- The current line of a thread that does not hold its instruction: a request, a walk, or the fault of R109 at the
instruction, whose bytes alone decide. -/
def State.fetchLine (s : State) (w : Tid) (line : Word) : State :=
  let p := s.pcOf w
  if s.asked w line then s
  else if bitsOf p 48 16 != 0 then s.trapAt w .addr p p 0
  else if s.fetchable w line p 12 then s.enterFetch w line
  else
    match s.codeUse w p 12 with
    | .denied c => s.trapAt w c p p 0
    | .outside => s.placeTq (s.faultRec w p p .prot false none none)
    | _ => s.walkFor w (bitsOf (if (s.cached (s.phys w.job w.lcn) w.job (bitsOf p 0 48)).isSome then p + 11 else p) 0 48) .exec

/-- Brings a thread's lines up to its PC: it keeps the current and the next line and asks for what it lacks (R108).
DEDUCED (log 25): the line after a line that the thread does not hold yet is asked for once that one is here. -/
def State.fetchAhead (s : State) (w : Tid) : State :=
  let line := s.lineOf w
  let keep := (s.thread w).lines.filter fun l => l.addr == line || l.addr == line + 48
  let s := if keep.length = (s.thread w).lines.length then s else s.modThread w fun t => { t with lines := keep }
  if (s.fetched w).isSome then s.prefetch w (line + 48)
  else
    let t := s.thread w
    if t.st = .running && t.stall.isNone then s.fetchLine w line else s

/-- A line is here: every thread that awaits it receives it, and one read from the pool enters the cache. -/
def State.deliverLine (s : State) (pcl : Nat) (line : Word) : State :=
  let q := s.pclu pcl
  let who := (q.fetch.filter fun x => x.2.1 == line).map fun x => x.2.2
  let s := s.modPClu pcl fun q => { q with fetch := q.fetch.filter fun x => !(x.2.1 == line), reads := q.reads.del line.toNat }
  match who with
  | [] => s
  | w :: _ =>
    let l := match q.cache.get? line.toNat with
      | some b => ⟨line, b, 0, 48⟩
      | none => s.lineFrom (s.phys w.job w.lcn) w.job line
    let s := if l.full && (q.cache.get? line.toNat).isNone then s.modPClu pcl fun q =>
        { q with cache := Map.set (if cacheLines ≤ q.cache.length then q.cache.drop 1 else q.cache) line.toNat l.bytes }
      else s
    who.foldl (fun s w => s.modThread w fun t =>
      { t with lines := (t.lines.filter fun x => !(x.addr == line)) ++ [l] }) s

/-- LINE_DELIVERY: a line comes from the cache, or one of its blocks from the pool, whose permit returns; with the last of
them the line is here (R108, R195). A line that has left the cache meanwhile is read from the pool. -/
def execLineDelivery (pcl : Nat) (i : LineIn) (s : State) : Host.Outcome State Fault Refusal :=
  let q := s.pclu pcl
  match i.slice with
  | some sl =>
    match q.reads.get? i.line.toNat with
    | none => .next s
    | some r =>
      let s := s.returnPermit r.pc sl
      .next (if r.left ≤ 1 then s.deliverLine pcl i.line
        else s.modPClu pcl fun q => { q with reads := q.reads.set i.line.toNat { r with left := r.left - 1 } })
  | none =>
    match q.fetch.find? fun x => x.2.1 == i.line with
    | none => .next s
    | some x => .next (if (q.cache.get? i.line.toNat).isSome then s.deliverLine pcl i.line else s.readPool x.2.2 i.line 0)

/-! ### Walks -/

/-- The word of `xlat` for a translation (R200). -/
def Tlb.report (t : Tlb) (reach : Bool) : Word :=
  w64 ((if reach && t.perm.toNat % 8 != 0 then 1 else 0) + t.perm.toNat * 2 + t.level * 32 + t.code * 256)

/-- The walk for an `xlat` has ended: its result lands 12 cycles on, within the lookahead window that the instruction
opened. -/
def State.probed (s : State) (w : Tid) (d : SReg) (id : Nat) (v : Word) : State :=
  let left := ((s.thread w).window.find? fun x => x.1 == id).map Prod.snd
  let s := s.release w id
  let s' := s.land w 12 [.s d v] 0
  match left with
  | some n => s'.openWindow w s.seq (BitVec.ofNat 4 n)
  | none => s'

/-- TRANSLATION_WALK: the walk of R197. A leaf is cached and the asker goes on; a fault becomes a trap-queue record
(R376). -/
def execTranslationWalk (wid : Nat) (s : State) : Host.Outcome State Fault Refusal :=
  match s.walks.get? wid with
  | none => .next s
  | some k =>
    let s := { s with walks := s.walks.del wid }
    let pc := s.phys k.own.job k.own.lcn
    let va := bitsOf k.va 0 48
    match s.walkTable pc k.own.job va with
    | .leaf t =>
      let s := s.fillTlb pc t
      match k.post, k.eng, k.ahead, k.probe with
      | some (a, p), _, _, _ => .next (s.postPart a p false)
      | none, some h, _, _ => .next (s.engGo h)
      | none, none, some l, _ => .next (s.prefetch k.own l)
      | none, none, none, some (d, id) =>
        .next (s.probed k.own d id (t.report (s.dev.slice (t.frame + va % t.size)).isSome))
      | none, none, none, none => .next (s.endWalkStall k.own)
    | .fault l c =>
      match k.eng, k.ahead, k.probe with
      | some h, _, _ => .next ((s.engFault h k.va k.write c).engGo h)
      | none, some _, _ => .next s
      | none, none, some (d, id) => .next (s.probed k.own d id (w64 (l * 32)))
      | none, none, none =>
        let r := s.faultRec k.own k.pc (if k.exec then k.pc else k.va) c k.write k.post none
        .next ((if k.post.isNone then s.endWalkStall k.own else s).placeTq r)

end Sys2Proof.Machine
end

