-- ==== Sys2Proof/Machine/MemInstr.lean ====
section
/-!
DEFINITION. The meanings of class 0x6: loads and stores, FE forms, the tag table, guard granules, `drain`, `fence` and
`xlat` (R184 to R191, R200 to R206).
-/

set_option linter.unusedVariables false

namespace Sys2Proof.Machine

/-! ### Scalar loads and stores (R185, R189) -/

/-- A scalar load of a kind. -/
def State.loadS (s : State) (k : AccKind) (la : BitVec 4) (rx : Bool) (t : Ty) (d : SReg) (va : Word) : State :=
  s.access s.cur { kind := k, t := t, size := t.bytes, lat := 12, rx := rx, scrOnly := k.scratchOnly, dst := some (.s d), la := some la }
    [{ idx := 0, va := va }]

/-- A scalar store of a kind. -/
def State.storeS (s : State) (k : AccKind) (rx : Bool) (t : Ty) (d : SReg) (va : Word) : State :=
  s.access s.cur { kind := k, t := t, size := t.bytes, lat := 12, rx := rx, posted := rx, scrOnly := k.scratchOnly }
    [{ idx := 0, va := va, val := s.rd s.cur d }]

/-- `ld`. -/
def execLd (g : Gd) (la : BitVec 4) (rx : Bool) (t : Ty) (d a : SReg) (ix : Idx) (imm : BitVec 32) (s : State) :
    Host.Outcome State Fault Refusal := s.guarded g fun s => s.loadS .load la rx t d (s.eaIdx s.cur a ix imm)

/-- `st`. -/
def execSt (g : Gd) (rx : Bool) (t : Ty) (d a : SReg) (ix : Idx) (imm : BitVec 32) (s : State) :
    Host.Outcome State Fault Refusal := s.guarded g fun s => s.storeS .store rx t d (s.eaIdx s.cur a ix imm)

/-- `ldf`. -/
def execLdf (g : Gd) (la : BitVec 4) (t : Ty) (d a : SReg) (ix : Idx) (imm : BitVec 32) (s : State) :
    Host.Outcome State Fault Refusal := s.guarded g fun s => s.loadS .take la false t d (s.eaIdx s.cur a ix imm)

/-- `ldp`. -/
def execLdp (g : Gd) (la : BitVec 4) (t : Ty) (d a : SReg) (ix : Idx) (imm : BitVec 32) (s : State) :
    Host.Outcome State Fault Refusal := s.guarded g fun s => s.loadS .peek la false t d (s.eaIdx s.cur a ix imm)

/-- `ste`. -/
def execSte (g : Gd) (t : Ty) (d a : SReg) (ix : Idx) (imm : BitVec 32) (s : State) : Host.Outcome State Fault Refusal :=
  s.guarded g fun s => s.storeS .put false t d (s.eaIdx s.cur a ix imm)

/-- `stf`. -/
def execStf (g : Gd) (rx : Bool) (t : Ty) (d a : SReg) (ix : Idx) (imm : BitVec 32) (s : State) :
    Host.Outcome State Fault Refusal := s.guarded g fun s => s.storeS .putFull rx t d (s.eaIdx s.cur a ix imm)

/-! ### Vector loads and stores (R186) -/

/-- The element requests of `n` elements with addresses `va` and data `x`. -/
def elemReqs (n : Nat) (va : Nat → Word) (x : Nat → Word) : List ElemReq :=
  (List.range n).map fun e => { idx := e, va := va e, val := x e }

/-- A vector load. -/
def State.loadV (s : State) (la : BitVec 4) (rx : Bool) (t : Ty) (scr : Bool) (cnt : BitVec 8) (d : VReg) (va : Nat → Word) :
    State :=
  s.access s.cur
    { kind := .load, t := t, size := t.bytes, lat := 16, vec := true, rx := rx, scrOnly := scr, dst := some (.v d), la := some la }
    (elemReqs cnt.toNat va fun _ => 0)

/-- A vector store. -/
def State.storeV (s : State) (rx : Bool) (t : Ty) (scr : Bool) (cnt : BitVec 8) (d : VReg) (va : Nat → Word) : State :=
  let x := s.rdV s.cur d
  s.access s.cur
    { kind := .store, t := t, size := t.bytes, lat := 12, vec := true, rx := rx, posted := rx, scrOnly := scr }
    (elemReqs cnt.toNat va fun e => (x[e % 64]'(Nat.mod_lt _ (by decide))).zeroExtend 64)

/-- Addresses of consecutive elements. -/
def State.vaSeq (s : State) (t : Ty) (a : SReg) (ix : Idx) (imm : BitVec 32) : Nat → Word :=
  let base := s.eaIdx s.cur a ix imm
  fun e => base + w64 (e * t.bytes)

/-- Addresses of strided elements. -/
def State.vaStride (s : State) (a b : SReg) (imm : BitVec 32) : Nat → Word :=
  let base := s.eaImm s.cur a imm
  let st := s.rd s.cur b
  fun e => base + w64 e * st

/-- Addresses of indexed elements. -/
def State.vaIndex (s : State) (sh : BitVec 3) (a : SReg) (b : VReg) (imm : BitVec 32) : Nat → Word :=
  let base := s.eaImm s.cur a imm
  let x := s.rdV s.cur b
  fun e => base + ((x[e % 64]'(Nat.mod_lt _ (by decide))).zeroExtend 64 <<< sh.toNat)

/-- `vld`. -/
def execVld (g : Gd) (la : BitVec 4) (rx : Bool) (t : Ty) (cnt : BitVec 8) (d : VReg) (a : SReg) (ix : Idx) (imm : BitVec 32)
    (s : State) : Host.Outcome State Fault Refusal :=
  s.guarded g fun s => s.loadV la rx t false cnt d (s.vaSeq t a ix imm)

/-- `vst`. -/
def execVst (g : Gd) (rx : Bool) (t : Ty) (cnt : BitVec 8) (d : VReg) (a : SReg) (ix : Idx) (imm : BitVec 32) (s : State) :
    Host.Outcome State Fault Refusal := s.guarded g fun s => s.storeV rx t false cnt d (s.vaSeq t a ix imm)

/-- `vlds`. -/
def execVlds (g : Gd) (la : BitVec 4) (rx : Bool) (t : Ty) (cnt : BitVec 8) (d : VReg) (a b : SReg) (imm : BitVec 32)
    (s : State) : Host.Outcome State Fault Refusal :=
  s.guarded g fun s => s.loadV la rx t false cnt d (s.vaStride a b imm)

/-- `vsts`. -/
def execVsts (g : Gd) (rx : Bool) (t : Ty) (cnt : BitVec 8) (d : VReg) (a b : SReg) (imm : BitVec 32) (s : State) :
    Host.Outcome State Fault Refusal := s.guarded g fun s => s.storeV rx t false cnt d (s.vaStride a b imm)

/-- `vldx`: every element in a scratch space. -/
def execVldx (g : Gd) (la : BitVec 4) (rx : Bool) (t : Ty) (sh : BitVec 3) (cnt : BitVec 8) (d : VReg) (a : SReg) (b : VReg)
    (imm : BitVec 32) (s : State) : Host.Outcome State Fault Refusal :=
  s.guarded g fun s => s.loadV la rx t true cnt d (s.vaIndex sh a b imm)

/-- `vstx`. -/
def execVstx (g : Gd) (rx : Bool) (t : Ty) (sh : BitVec 3) (cnt : BitVec 8) (d : VReg) (a : SReg) (b : VReg)
    (imm : BitVec 32) (s : State) : Host.Outcome State Fault Refusal :=
  s.guarded g fun s => s.storeV rx t true cnt d (s.vaIndex sh a b imm)

/-! ### `fe` and `guard` (R191, R203) -/

/-- An access to every unit of `size` bytes of a scratch range, in ascending order. A length of 0 only checks its start. -/
def State.rangeAccess (s : State) (k : AccKind) (size : Nat) (va len : Word) : State :=
  let w := s.cur
  match s.checkPlace w true false size va with
  | .error c => s.trap w c va 0
  | .ok (.scratch l off) =>
    if (s.job w.job).foot < off + len.toNat then s.trap w .addr va 0
    else if len.toNat % size != 0 then s.trap w .align va 0
    else if len = 0 then s.advance w
    else
      s.access w { kind := k, t := .n64, size := if size = 8 then 8 else 1, lat := 12, scrOnly := true }
        ((List.range (len.toNat / size)).map fun i => { idx := i, va := va + w64 (i * size) })
  | .ok _ => s.trap w .addr va 0

/-- `fe`. -/
def execFe (g : Gd) (full : Bool) (a b : SReg) (imm : BitVec 32) (s : State) : Host.Outcome State Fault Refusal :=
  s.guarded g fun s => s.rangeAccess (.fe full) 8 (s.eaImm s.cur a imm) (s.rd s.cur b)

/-- `guard`. -/
def execGuard (g : Gd) (set : Bool) (a b : SReg) (imm : BitVec 32) (s : State) : Host.Outcome State Fault Refusal :=
  s.guarded g fun s => s.rangeAccess (.guard set) 64 (s.eaImm s.cur a imm) (s.rd s.cur b)

/-! ### The tag table (R201) -/

/-- The set of a key for a granule code. -/
def tagSet (k : Word) (gs : BitVec 5) : Nat := (k >>> gs.toNat).toNat % 64
/-- The tag of a key. -/
def tagOf (k : Word) (gs : BitVec 5) : Word := k >>> (gs.toNat + 6)

/-- The way of a set that holds a key. -/
def LCore.tagWay (c : LCore) (k : Word) (gs : BitVec 5) : Option Nat :=
  (List.range 4).find? fun w =>
    match c.tags.get? (tagSet k gs * 4 + w) with
    | some e => e.tag == tagOf k gs && e.g == gs.toNat
    | none => false

/-- What `tlook` writes. -/
def LCore.tagLook (c : LCore) (k : Word) (gs : BitVec 5) : Word :=
  let set := tagSet k gs
  match c.tagWay k gs with
  | some w => w64 ((c.tags.getD (set * 4 + w) ⟨0, 0, 0⟩).off + k.toNat % 2 ^ gs.toNat)
  | none =>
    match (List.range 4).find? fun w => (c.tags.get? (set * 4 + w)).isNone with
    | some w => w64 (2 ^ 63 + set * 4 + w)
    | none => w64 (2 ^ 63 + 2 ^ 62 + set * 4 + c.victim.getD set 0)

/-- `tlook`. -/
def execTlook (g : Gd) (la : BitVec 4) (gs : BitVec 5) (d a : SReg) (s : State) : Host.Outcome State Fault Refusal :=
  s.guarded g fun s =>
    let w := s.cur
    (s.landLa w 12 la [.s d ((s.core w.job w.lcn).tagLook (s.rd w a) gs)] 0).advance w

/-- `tset`. -/
def execTset (g : Gd) (gs : BitVec 5) (a b : SReg) (s : State) : Host.Outcome State Fault Refusal :=
  s.guarded g fun s =>
    let w := s.cur
    let k := s.rd w a
    let v := s.rd w b
    let off := bitsOf v 0 21
    let way := bitsOf v 22 2
    let set := tagSet k gs
    if off % 2 ^ gs.toNat != 0 || decide ((s.job w.job).foot ≤ off) then s.trap w .addr v 0
    else
      (s.modCore w.job w.lcn fun c =>
        { c with tags := c.tags.set (set * 4 + way) ⟨tagOf k gs, gs.toNat, off⟩, victim := c.victim.set set ((way + 1) % 4) }).advance w

/-- `tinv`. -/
def execTinv (g : Gd) (gs : BitVec 5) (a : SReg) (s : State) : Host.Outcome State Fault Refusal :=
  s.guarded g fun s =>
    let w := s.cur
    let k := s.rd w a
    (match (s.core w.job w.lcn).tagWay k gs with
     | some i => s.modCore w.job w.lcn fun c => { c with tags := c.tags.del (tagSet k gs * 4 + i) }
     | none => s).advance w

/-- `tinv x0 all`. -/
def execTinvAll (g : Gd) (s : State) : Host.Outcome State Fault Refusal :=
  s.guarded g fun s => (s.modCore s.cur.job s.cur.lcn fun c => { c with tags := [] }).advance s.cur

/-! ### `drain`, `fence`, `xlat` (R200, R205, R206) -/

/-- A posted access, remote update or posted `send` of a thread is neither performed at every scope nor recorded. -/
def State.undrained (s : State) (w : Tid) : Bool :=
  (s.accs.any fun (_, a) => a.own == w && (a.posted || (a.kind.atomic && a.dst.isNone)) && !a.returned) ||
    ((s.thread w).outbox.any fun f => f.rx)

/-- `drain`: waits, then raises STORE_FAULT if a record is queued. -/
def execDrain (g : Gd) (s : State) : Host.Outcome State Fault Refusal :=
  s.guarded g fun s =>
    let w := s.cur
    if s.undrained w then s
    else if (s.thread w).sfq.isEmpty then s.advance w
    else s.trap w .storeFault 0 (w64 (s.thread w).sfq.length)

/-- A part of a relaxed access lies in a scope instance and is not performed there (R206, R256, R258). -/
def State.inScope (s : State) (w : Tid) (sc : Scope) (q : Part) : Bool :=
  let b := s.job w.job
  match q.home, sc with
  | .scratch l, .core => l == w.lcn && !q.performed
  | .scratch l, .cluster => b.cluOf l == b.cluOf w.lcn && !q.performed
  | .scratch _, .job => !q.performed
  | .pool, .device => !q.performed
  | .pool, .system => !q.returned
  | _, _ => false

/-- `fence`: waits for the thread's relaxed accesses to the scope instance. -/
def execFence (g : Gd) (sc : Scope) (s : State) : Host.Outcome State Fault Refusal :=
  s.guarded g fun s =>
    let w := s.cur
    if s.accs.any fun (_, a) => a.own == w && a.rx && a.parts.any fun (_, q) => s.inScope w sc q then s else s.advance w

/-- `xlat`: a probe that never faults. Of a privileged system-space address the manual gives no more than that bits [63:12]
are 0 (log 24). -/
def execXlat (g : Gd) (la : BitVec 4) (d a : SReg) (imm : BitVec 32) (s : State) : Host.Outcome State Fault Refusal :=
  s.guarded g fun s =>
    let w := s.cur
    let ea := s.eaImm w a imm
    match s.place w ea with
    | none => (s.landLa w 12 la [.s d 0] 0).advance w
    | some (.scratch l off) =>
      (s.landLa w 12 la [.s d (if s.reaches w (.scratch l off) then 0xF07 else 0)] 0).advance w
    | some (.pool va) =>
      match s.cached (s.phys w.job w.lcn) w.job va with
      | some t => (s.landLa w 12 la [.s d (t.report (s.dev.slice (t.frame + va % t.size)).isSome)] 0).advance w
      | none =>
        ((((s.drawn.hold w s.seq [.s d]).openWindow w s.seq la).startWalk
          { own := w, pc := s.pcOf w, va := ea, write := false, atomic := false, exec := false, post := none, eng := none,
            probe := some (d, s.seq) })).advance w
    | some _ => (s.landLa w 12 la [.s d (Config.xlatSystem ea &&& 0xFFF)] 0).advance w

end Sys2Proof.Machine
end

