-- ==== Sys2Proof/Machine/Control.lean ====
section
/-!
DEFINITION. The meanings of class 0x1, control and predicates (R102 to R106, R110), and of the two fetch steps of the
machine's own: the delivery of a code line (R108, R109) and the release of a `syncf`.
-/

set_option linter.unusedVariables false

namespace Sys2Proof.Machine

/-! ### Predicates -/

/-- A predicate result, 8 cycles on. -/
def State.resultQ (s : State) (d : QReg) (b : Bool) : State := (s.land s.cur 8 [.q d b] 0).advance s.cur

/-- The conditions of R102 at a width. -/
def ICond.holds {n : Nat} (c : ICond) (a b : BitVec n) : Bool :=
  match c with
  | .eq => a == b | .ne => a != b
  | .lt => a.slt b | .le => !b.slt a | .gt => b.slt a | .ge => !a.slt b
  | .ltu => a.ult b | .leu => !b.ult a | .gtu => b.ult a | .geu => !a.ult b

/-- `cmp` (R102). -/
def execCmp (g : Gd) (w : Bool) (cnd : ICond) (d : QReg) (a : SReg) (b : Src) (s : State) :
    Host.Outcome State Fault Refusal :=
  s.guarded g fun s =>
    let x := s.rd s.cur a
    let y := s.src s.cur b
    s.resultQ d (if w then ICond.holds cnd (x.truncate 32 : BitVec 32) (y.truncate 32) else ICond.holds cnd x y)

/-- `tst` (R103). -/
def execTst (g : Gd) (zero : Bool) (d : QReg) (a : SReg) (b : Src) (s : State) : Host.Outcome State Fault Refusal :=
  s.guarded g fun s => s.resultQ d ((s.rd s.cur a &&& s.src s.cur b != 0) != zero)

/-- Entry 2·p + q of a truth table (R104). -/
def table (tt : BitVec 4) (p q : Bool) : Bool := tt.getLsbD (2 * p.toNat + q.toNat)

/-- `plog` (R104). -/
def execPlog (g : Gd) (tt : BitVec 4) (d a b : QReg) (s : State) : Host.Outcome State Fault Refusal :=
  s.guarded g fun s => s.resultQ d (table tt (s.rdQ s.cur a) (s.rdQ s.cur b))

/-- `pset` (R105): the predicates named in FN[7:1]. -/
def execPset (g : Gd) (qm : BitVec 7) (a : SReg) (s : State) : Host.Outcome State Fault Refusal :=
  s.guarded g fun s =>
    let v := s.rd s.cur a
    let ws := ((List.range 7).filter fun i => qm.getLsbD i).map fun i =>
      RegWrite.q (BitVec.ofNat 3 (i + 1)) (v.getLsbD (i + 1))
    (s.land s.cur 8 ws 0).advance s.cur

/-- All eight predicates, bit 0 always 1 (R105). -/
def Thread.predicates (t : Thread) : Word := (t.q ||| 1).zeroExtend 64

/-- `pget` (R105). -/
def execPget (g : Gd) (d : SReg) (s : State) : Host.Outcome State Fault Refusal :=
  s.guarded g fun s => s.result 8 d (s.thread s.cur).predicates

/-! ### Transfers (R106) -/

/-- p + 12·sext(IMM). -/
def State.branchTarget (s : State) (imm : BitVec 32) : Word := s.pcOf s.cur + 12 * imm.signExtend 64

/-- `br`. -/
def execBr (g : Gd) (imm : BitVec 32) (s : State) : Host.Outcome State Fault Refusal :=
  s.guarded g fun s => s.jump s.cur (s.branchTarget imm)

/-- A transfer to an address in a register: PC_ALIGN, with no effect, unless the target is valid (R34). -/
def State.transfer (s : State) (target : Word) (body : State → State) : State :=
  if validPc (s.cbase s.cur) target then (body s).jump s.cur target else s.trap s.cur .pcAlign target 0

/-- `jmp`. -/
def execJmp (g : Gd) (a : SReg) (imm : BitVec 32) (s : State) : Host.Outcome State Fault Refusal :=
  s.guarded g fun s => s.transfer (s.eaImm s.cur a imm) id

/-- `call`. -/
def execCall (g : Gd) (d : SReg) (imm : BitVec 32) (s : State) : Host.Outcome State Fault Refusal :=
  s.guarded g fun s => (s.landS s.cur 8 d (s.pcOf s.cur + 12)).jump s.cur (s.branchTarget imm)

/-- `callr`: the target is taken from A before the link is written. -/
def execCallr (g : Gd) (d a : SReg) (imm : BitVec 32) (s : State) : Host.Outcome State Fault Refusal :=
  s.guarded g fun s => s.transfer (s.eaImm s.cur a imm) fun s => s.landS s.cur 8 d (s.pcOf s.cur + 12)

/-- `dbnz`. -/
def execDbnz (g : Gd) (d : SReg) (imm : BitVec 32) (s : State) : Host.Outcome State Fault Refusal :=
  s.guarded g fun s =>
    let n := s.rd s.cur d - 1
    let t := s.landS s.cur 8 d n
    if n = 0 then t.advance s.cur else t.jump s.cur (s.branchTarget imm)

/-! ### `syncf` (R110) -/

/-- The threads of a thread's logical cluster with its number that are running and neither held nor suspended. -/
def State.peers (s : State) (w : Tid) : List (Tid × Thread) :=
  (s.threadsOf w.job).filter fun (v, t) =>
    v.thr == w.thr && (s.job w.job).cluOf v.lcn == (s.job w.job).cluOf w.lcn && t.isLive s.cyc && t.st != .parked && !t.held && !t.susp

/-- A thread waits at the `syncf` at an address. -/
def Thread.atSyncf (t : Thread) (p : Word) : Bool :=
  match t.stall with
  | some (.syncf a _) => a == p
  | _ => false

/-- Releases every thread of a cluster with a thread number when all that run wait at one `syncf`. -/
def State.syncfCheck (s : State) (w : Tid) (p : Word) : State :=
  let ps := s.peers w
  if ps.all fun (_, t) => t.atSyncf p then
    ps.foldl (fun s (v, _) => s.modThread v fun t => { t with stall := none, readyAt := max t.readyAt (s.cyc + 1) }) s
  else s

/-- `syncf`: the PC passes on, and issue waits for the bound or for the other threads. -/
def execSyncf (g : Gd) (imm : BitVec 32) (s : State) : Host.Outcome State Fault Refusal :=
  s.guarded g fun s =>
    let p := s.pcOf s.cur
    let n := min imm.toNat 65535
    let s := s.advance s.cur
    if n = 0 then s
    else
      let s := s.stallFor s.cur (.syncf p (s.cyc + n))
      (s.later n (.syncfRelease s.cur (s.thread s.cur).stamp)).syncfCheck s.cur p

/-- SYNCF_RELEASE: the bound of a `syncf` that still waits. -/
def execSyncfRelease (w : Tid) (stamp : Nat) (s : State) : Host.Outcome State Fault Refusal :=
  let t := s.thread w
  match t.stall with
  | some (.syncf _ u) => .next (if t.stamp = stamp || decide (u ≤ s.cyc) then s.unstall w else s)
  | _ => .next s

/-! ### Landings -/

/-- RESULT_LANDS (R92 to R95, R138, R159): the result's writes, then its flags, in the cycle it lands. -/
def execResultLands (w : Tid) (id : Nat) (s : State) : Host.Outcome State Fault Refusal := .next (s.landNow w id)

end Sys2Proof.Machine
end

