-- ==== Sys2Proof/Machine/Thread.lean ====
section
/-!
DEFINITION. The meanings of class 0x2, threads (R117 to R127), apart from `exit`, which needs the spans and the cast
table, and the step that ends a `sleep`.
-/

set_option linter.unusedVariables false

namespace Sys2Proof.Machine

/-! ### The state of a thread (R28, R120, R121) -/

/-- The state code of R127. -/
def Thread.code (t : Thread) (cyc : Nat) : Nat :=
  if !t.isLive cyc then 0 else if t.st = .parked then 2 else if t.susp then 4 else if t.held then 3 else 1

/-- The word of `thrst` (R127). -/
def Thread.report (t : Thread) (cyc : Nat) : Word :=
  let c := t.code cyc
  w64 (c + (if t.held && decide (2 ≤ c) then 8 else 0) + (if t.susp && decide (2 ≤ c) then 16 else 0) +
    (match c, t.wait with | 2, some x => x.kind.code * 256 | _, _ => 0) + t.gen.toNat * 65536)

/-! ### Special registers (R118) -/

/-- `gets`. -/
def execGets (g : Gd) (d : SReg) (imm : BitVec 32) (s : State) : Host.Outcome State Fault Refusal :=
  s.guarded g fun s =>
    let n := imm.toNat % 4096
    if 0x800 ≤ n && !(s.thread s.cur).priv then s.trap s.cur .priv 0 0 else s.result 8 d (s.spRead s.cur n)

/-- `sets`. -/
def execSets (g : Gd) (a : SReg) (imm : BitVec 32) (s : State) : Host.Outcome State Fault Refusal :=
  s.guarded g fun s =>
    let n := imm.toNat % 4096
    if 0x800 ≤ n && !(s.thread s.cur).priv then s.trap s.cur .priv 0 0
    else (s.land s.cur 8 (if 0x00C ≤ n && n ≤ 0x00E then [] else [.sp n (s.rd s.cur a)]) 0).advance s.cur

/-! ### `start` (R119, R120) -/

/-- The binding registers UPS, DNS and STG of a thread as the cast table gives them (R339). -/
def Job.binding (b : Job) (l n : Nat) : Word × Word × Word :=
  let names (i : Nat) (e : CastEntry) : Bool := e.bits.getLsbD 31 && bitsOf e.bits 0 16 == l && bitsOf e.bits 16 4 == n
  match b.cast.find? fun (i, e) => names i e with
  | none => (0, 0, 0)
  | some (i, e) =>
    let side (k : Nat) (open_ : Bool) : Word :=
      let f := (b.cast.getD k {}).bits
      w64 (2 ^ 31 + (if open_ then 2 ^ 30 else 0) + k * 2 ^ 20 + bitsOf f 0 20)
    let dns := if e.bits.getLsbD 30 then side (bitsOf e.bits 20 6) true else 0
    let ups := match b.cast.find? fun (_, f) => f.bits.getLsbD 31 && f.bits.getLsbD 30 && bitsOf f.bits 20 6 == i with
      | some (k, _) => side k false
      | none => 0
    (ups, dns, w64 (0x80 + i))

/-- The state of a thread of a job that starts at `e` with x1 = `arg`, in a new life of generation `gen` (R115, R116,
R120, R368). Entries that the thread's earlier life passed on stay in its handle table (R243), frames in its inbox (R341). A
thread of a management core starts with PRIV = 1 (R367). -/
def State.freshThread (s : State) (w : Tid) (e arg : Word) (gen : BitVec 16) (old : Thread) : Thread :=
  let b := s.job w.job
  { st := .running, gen := gen, pc := e, x := Map.set ([] : Map Word) 1 arg, unbound := true, pstate := if w.job = 0 then 1 else 0,
    ep := (s.clu w.job (b.cluOf w.lcn)).bars.foldl (fun (m : BitVec 16) (n, c) => if c.ph then m ||| (1#16 <<< n) else m) 0,
    handles := old.handles, hseq := old.hseq, stamp := old.stamp + 1, held := old.held, susp := old.susp,
    outbox := old.outbox, refused := old.refused, outHeld := old.outHeld, frames := old.frames, inbox := old.inbox,
    landings := old.landings.filterMap Landing.shared }

/-- The generation of the next life (R119). -/
def nextGen (g : BitVec 16) : BitVec 16 := if g = 0xFFFF then 1 else g + 1

/-- Accesses and probes of the earlier life of a thread no longer name a register of its own (R121). -/
def State.dropResults (s : State) (w : Tid) : State :=
  { s with
    accs := s.accs.map fun (i, a) => (i, if a.own = w then { a with dst := a.dst.filter RegRef.shared } else a)
    walks := s.walks.map fun (i, k) =>
      (i, if k.own = w then { k with probe := k.probe.filter fun x => RegRef.shared (.s x.1) } else k) }

/-- The first instruction of a thread's life issues with the bindings that the cast table then gives (R339). -/
def State.takeBinding (s : State) (w : Tid) : State :=
  if (s.thread w).unbound then
    let (ups, dns, stg) := (s.job w.job).binding w.lcn w.thr
    s.modThread w fun t => { t with unbound := false, ups := ups, dns := dns, stg := stg }
  else s

/-- HELPER_INIT (R120): the helper runs 8 cycles on. -/
def State.startThread (s : State) (w v : Tid) (h : HRef) (e arg : Word) : State :=
  let t := s.thread w
  let o := s.thread v
  let n := s.freshThread v e arg (nextGen o.gen) o
  (s.dropResults v).modThread v fun _ =>
    { n with ten := t.ten, geom0 := t.geom0, geom1 := t.geom1, tvec := t.tvec, svec := t.svec, turnsAt := s.cyc + 8,
             starter := some h }

/-- The token that keeps a freed thread for the starter at the head of the list (R119). -/
def freedToken (n : Nat) : Nat := 300 + n

/-- A thread number is kept for a waiting starter of the core. -/
def State.keptFor (s : State) (w : Tid) (n : Nat) : Bool :=
  (s.core w.job w.lcn).threads.any fun (_, t) => t.grants.contains (freedToken n)

/-- The thread that a `start` takes: the one kept for it, else the lowest free helper or the one named. -/
def State.chosen (s : State) (w : Tid) (th : Nat) : Option Nat :=
  let c := s.core w.job w.lcn
  match (List.range 16).find? fun n => (s.thread w).grants.contains (freedToken n) with
  | some n => some n
  | none =>
    (List.range (s.job w.job).t).find? fun n =>
      n != 0 && (th == 0 || n == th) && (c.threads.getD n {}).isFree s.cyc && !s.keptFor w n

/-- Threads of a core that wait in `start` get the threads that are free, in the order of their waiting (R119). -/
def State.serveStarters (s : State) (j l : Nat) : State :=
  (s.core j l).starters.foldl (fun s (w, th) =>
    match s.chosen w th with
    | some n =>
      ((s.grant w (freedToken n)).modCore j l fun c => { c with starters := c.starters.erase (w, th) }).unpark w
    | none => s) s

/-- The handle behind which a thread waits for helper `n` of its core, or for the lowest that is not free when `n` is 0 (R227). -/
def State.helperObj (s : State) (w : Tid) (n : Nat) : Word :=
  let c := s.core w.job w.lcn
  match c.threads.find? fun (i, t) => i != 0 && (n == 0 || i == n) && !t.isFree s.cyc with
  | some (_, t) => match t.starter with | some h => h.word | none => 0
  | none => 0

/-- `start`. One that finds neither a free handle entry nor a free thread parks for the entry first (log 73). The helper's first
line is asked for as the `start` issues, which the trace of R122 needs. -/
def execStart (g : Gd) (th : BitVec 4) (d : HReg) (a : SReg) (b : Src) (s : State) : Host.Outcome State Fault Refusal :=
  s.guarded g fun s =>
    let w := s.cur
    let e := s.rd w a
    let arg := s.src w b
    if !validPc (s.cbase w) e then s.trap w .pcAlign e 0
    else if th != 0 && decide ((s.job w.job).t ≤ th.toNat) then s.result 8 (d.zeroExtend 7) (cword 4 0)
    else
      match (s.thread w).freeSlot with
      | none => s.park w .engq 0 false .reissue
      | some i =>
        match s.chosen w th.toNat with
        | none =>
          (s.modCore w.job w.lcn fun c => { c with starters := c.starters ++ [(w, th.toNat)] }).park w .handle (s.helperObj w th.toNat) false
            .reissue
        | some n =>
          let h := s.nextHandle w i
          let s := s.spend w (freedToken n)
          let s := (s.allocHandle w i d .start).startThread w { w with thr := n } h e arg
          let v := { w with thr := n }
          ((s.modThread w fun t => { t with accAt := max t.accAt (s.cyc + 9) }).advance w).prefetch v (s.lineOf v)

/-! ### `tilepos` and `mkadr` (R123, R124) -/

/-- row0, col0 and the edge masks of a core's tile. -/
def tileOf (geom0 : Word) (geom1 : BitVec 48) (lcn : Nat) : Word × Word × Word :=
  let m := bitsOf geom0 0 32
  let n := bitsOf geom0 32 32
  let c0 := (geom1.extractLsb' 32 16).toNat
  let c1 := if c0 = 0 then (n + 31) / 32 else c0
  let c := if c1 = 0 then 1 else c1
  let row0 := 32 * (lcn / c)
  let col0 := 32 * (lcn % c)
  let mv := if row0 < m then min 32 (m - row0) else 0
  let nv := if col0 < n then min 32 (n - col0) else 0
  (w64 row0, w64 col0, w64 (mv + nv * 256))

/-- `tilepos`. -/
def execTilepos (g : Gd) (d : SReg) (s : State) : Host.Outcome State Fault Refusal :=
  s.guarded g fun s =>
    let t := s.thread s.cur
    let (r, c, m) := tileOf t.geom0 t.geom1 s.cur.lcn
    (s.land s.cur 8 [.s d r, .s (d + 1) c, .s (d + 2) m] 0).advance s.cur

/-- The address of a form; bit 45 is set when a value does not fit its field. -/
def makeAddress (form : AdrForm) (a off : Word) : Word :=
  let o := off.truncate 21 |>.zeroExtend 64
  let offFits := off.ult 0x200000
  let lo := bitsOf a 0 16
  let hi := bitsOf a 16 16
  let signedFits (v : Nat) : Bool := let i := bitsInt 16 v; decide (-32 ≤ i ∧ i ≤ 31)
  let (body, fits) : Nat × Bool := match form with
    | .abs => (0x8 * 2 ^ 60 + lo % 64 * 2 ^ 52 + hi % 64 * 2 ^ 46, decide (lo < 64) && decide (hi < 64))
    | .rel => (0x9 * 2 ^ 60 + lo % 64 * 2 ^ 52 + hi % 64 * 2 ^ 46, signedFits lo && signedFits hi)
    | .win => (0xA * 2 ^ 60 + lo % 8 * 2 ^ 21, decide (lo < 8))
  w64 body ||| o ||| (if fits && offFits then 0 else w64 (2 ^ 45))

/-- `mkadr`. -/
def execMkadr (g : Gd) (form : AdrForm) (d a : SReg) (b : Src) (s : State) : Host.Outcome State Fault Refusal :=
  s.guarded g fun s => s.result 8 d (makeAddress form (s.rd s.cur a) (s.src s.cur b))

/-! ### `sleep`, `slotrd`, `thrst` (R125 to R127) -/

/-- `sleep`: the next instruction issues n cycles on. -/
def execSleep (g : Gd) (a : SReg) (imm : BitVec 32) (s : State) : Host.Outcome State Fault Refusal :=
  s.guarded g fun s =>
    let n := (s.rd s.cur a + imm.zeroExtend 64).toNat
    let s := s.advance s.cur
    if n = 0 then s
    else
      let s := s.stallFor s.cur (.sleep (s.cyc + n))
      s.later n (.sleepExpiry s.cur (s.thread s.cur).stamp)

/-- SLEEP_EXPIRY. -/
def execSleepExpiry (w : Tid) (stamp : Nat) (s : State) : Host.Outcome State Fault Refusal :=
  let t := s.thread w
  match t.stall with
  | some (.sleep u) => .next (if t.stamp = stamp || decide (u ≤ s.cyc) then s.unstall w else s)
  | _ => .next s

/-- An entry of the slot table of a physical core: VALID in bit 4 and the physical thread (R126). -/
def PCore.slot (q : PCore) (e : Nat) : BitVec 5 := q.slots.getD e (BitVec.ofNat 5 (16 + e % 16))

/-- An entry as a thread sees it (R126). -/
def State.slotView (s : State) (w : Tid) (e : Nat) : Word :=
  let pc := s.phys w.job w.lcn
  let x := (s.pcore pc).slot e
  let p := x.toNat % 16
  if !x.getLsbD 4 then 0
  else
    match s.carried pc p with
    | some v => if v.lcn = w.lcn then w64 (16 + v.thr) else 0x30
    | none => w64 (16 + (p - s.foldG w.job w.lcn * (s.job w.job).t))

/-- `slotrd`. -/
def execSlotrd (g : Gd) (d : SReg) (imm : BitVec 32) (s : State) : Host.Outcome State Fault Refusal :=
  s.guarded g fun s => s.result 8 d (s.slotView s.cur (imm.toNat % 32))

/-- `thrst`. -/
def execThrst (g : Gd) (d a : SReg) (s : State) : Host.Outcome State Fault Refusal :=
  s.guarded g fun s =>
    let n := (s.rd s.cur a).toNat % 16
    s.result 8 d (if (s.job s.cur.job).t ≤ n then 0 else (s.thread { s.cur with thr := n }).report s.cyc)

end Sys2Proof.Machine
end

