-- ==== Sys2Proof/Machine/Sync.lean ====
section
/-!
DEFINITION. Monitors and barriers of class 0x8 (R208 to R218), and the barrier unit's steps.
-/

set_option linter.unusedVariables false

namespace Sys2Proof.Machine

/-! ### Monitors (R208 to R212) -/

/-- `mon`: an ordinary access that arms the monitor at the bank of its line. -/
def execMon (g : Gd) (mi : BitVec 2) (a : SReg) (imm : BitVec 32) (s : State) : Host.Outcome State Fault Refusal :=
  s.guarded g fun s =>
    let w := s.cur
    let va := s.eaImm w a imm
    match s.checkPlace w true false 1 va with
    | .error c => s.trap w c va 0
    | .ok (.scratch l _) =>
      if (s.job w.job).cluOf l == (s.job w.job).cluOf w.lcn then
        s.access w { kind := .mon mi.toNat, t := .n8, size := 1, lat := 12, scrOnly := true } [{ idx := 0, va := va }]
      else s.trap w .addr va 0
    | .ok _ => s.trap w .addr va 0

/-- `monc`. -/
def execMonc (g : Gd) (s : State) : Host.Outcome State Fault Refusal :=
  s.guarded g fun s => (s.modThread s.cur fun t => { t with mons := [] }).advance s.cur

/-- `waitm`: the conditions of R211 at issue, else a park. -/
def execWaitm (g : Gd) (mq : Bool) (d a : SReg) (s : State) : Host.Outcome State Fault Refusal :=
  s.guarded g fun s =>
    let w := s.cur
    let n := (s.rd w a).toNat
    if (s.thread w).trigs != 0 then s.waitmEnd w d 1
    else if mq && !(s.thread w).mq.isEmpty then s.waitmEnd w d 3
    else
      let s := s.park w .monitor 0 (n != 0) (.waitm d mq)
      if n = 0 then s else s.later n (.waitmTimeout w (s.thread w).stamp)

/-- WAITM_TIMEOUT: the end of a cycle in which a monitor of a waiting thread was triggered, a message came, or its bound has
passed: the first condition of R211 that holds gives the cause. -/
def execWaitmTimeout (w : Tid) (stamp : Nat) (s : State) : Host.Outcome State Fault Refusal :=
  let t := s.thread w
  match t.wait with
  | some { cont := .waitm d mq, .. } =>
    .next (if t.stamp = stamp then s.waitmEnd w d (if t.trigs != 0 then 1 else if mq && !t.mq.isEmpty then 3 else 2) else s)
  | _ => .next s

/-! ### The barrier unit (R213 to R217) -/

/-- A bit of a 16-bit register set or cleared. -/
def setBit16 (m : BitVec 16) (n : BitVec 4) (b : Bool) : BitVec 16 :=
  if b then m ||| (1#16 <<< n.toNat) else m &&& ~~~(1#16 <<< n.toNat)

/-- EP of a thread for a counter. -/
def Thread.expect (t : Thread) (n : BitVec 4) : Bool := t.ep.getLsbD n.toNat
/-- PEND of a thread for a counter. -/
def Thread.awaits (t : Thread) (n : BitVec 4) : Bool := t.bpend.getLsbD n.toNat

/-- A counter of a logical cluster. -/
def State.counter (s : State) (j c : Nat) (n : BitVec 4) : Counter := (s.clu j c).bars.getD n.toNat {}

/-- Replaces a counter. -/
def State.setCounter (s : State) (j c : Nat) (n : BitVec 4) (k : Counter) : State :=
  s.modClu j c fun q => { q with bars := q.bars.set n.toNat k }

/-- `complete` of R214: the phase ends, and its completion reaches the cores 4 cycles on. -/
def State.completePhase (s : State) (j c : Nat) (n : BitVec 4) (k : Counter) : State :=
  (s.setCounter j c n { k with arr := 0, ph := !k.ph, who := [] }).later 4 (.barrierRelease j c n k.who)

/-- An arrival of `bar` or `bara`: GUARD for an unreported guard hit, else the arrival sets out and issue waits for the
verdict. -/
def State.arrive (s : State) (w : Tid) (n : BitVec 4) (wait : Bool) (d : Option SReg) : State :=
  let t := s.thread w
  if t.ghits != 0 then
    (s.modThread w fun t => { t with ghits := 0 }).trap w .guard t.gaddr (w64 (min t.ghits 0xFFFF))
  else (s.stallFor w .verdict).later 4 (.barrierArrival w n wait d)

/-- `bar`. -/
def execBar (g : Gd) (bc : BitVec 4) (s : State) : Host.Outcome State Fault Refusal :=
  s.guarded g fun s => s.arrive s.cur bc true none

/-- `bara`. -/
def execBara (g : Gd) (bc : BitVec 4) (d : SReg) (s : State) : Host.Outcome State Fault Refusal :=
  s.guarded g fun s => s.arrive s.cur bc false (some d)

/-- `barw`. -/
def execBarw (g : Gd) (bc : BitVec 4) (s : State) : Host.Outcome State Fault Refusal :=
  s.guarded g fun s =>
    if (s.thread s.cur).awaits bc then s.park s.cur .barrier (bc.zeroExtend 64) false (.barw bc) else s.advance s.cur

/-- `barset`. -/
def execBarset (g : Gd) (bc : BitVec 4) (a : SReg) (s : State) : Host.Outcome State Fault Refusal :=
  s.guarded g fun s => (s.later 4 (.barsetRequest s.cur bc ((s.rd s.cur a).toNat % 128 + 1))).advance s.cur

/-- BARRIER_ARRIVAL: the unit takes an arrival. -/
def execBarrierArrival (w : Tid) (n : BitVec 4) (wait : Bool) (d : Option SReg) (s : State) :
    Host.Outcome State Fault Refusal :=
  let j := w.job
  let c := (s.job j).cluOf w.lcn
  let k := s.counter j c n
  let t := s.thread w
  if t.expect n != k.ph then .next (s.later 4 (.barrierVerdict w n false k.ph wait))
  else
    let s := s.modThread w fun t => { t with ep := setBit16 t.ep n (!k.ph), bpend := setBit16 t.bpend n true }
    let k' := { k with arr := k.arr + 1, who := k.who ++ [w] }
    let full := k'.arr == k.count
    let s := if full then s.completePhase j c n k' else s.setCounter j c n k'
    let s := match d with
      | some d => s.landS w 8 d (w64 (k.arr + full.toNat * 128 + (!k.ph).toNat * 256))
      | none => s
    .next (s.later 4 (.barrierVerdict w n true k.ph wait))

/-- BARRIER_VERDICT: BAR_PHASE, or the thread goes on; a `bar` whose phase is not complete waits. -/
def execBarrierVerdict (w : Tid) (n : BitVec 4) (ok ph wait : Bool) (s : State) : Host.Outcome State Fault Refusal :=
  let t := s.thread w
  if t.stall != some .verdict then .next s
  else
    let s := s.unstall w
    if !ok then .next (s.trap w .barPhase 0 (w64 (n.toNat + ph.toNat * 16 + (t.expect n).toNat * 32)))
    else if wait && t.awaits n then .next (s.park w .barrier (n.zeroExtend 64) false (.bar n))
    else .next (s.advance w)

/-- A thread's arrival in a later phase of a counter stands, so the release of an earlier phase leaves its PEND. -/
def State.arrivedAgain (s : State) (j c : Nat) (n : BitVec 4) (w : Tid) : Bool :=
  (s.counter j c n).who.contains w ||
    s.agenda.any fun p =>
      match p.ev with
      | .barrierRelease j' c' n' ws => j' == j && c' == c && n' == n && ws.contains w
      | _ => false

/-- The completion reaches one arriver. -/
def State.releaseOne (s : State) (j c : Nat) (n : BitVec 4) (w : Tid) : State :=
  if s.arrivedAgain j c n w then s
  else s.modThread w fun t => { t with bpend := setBit16 t.bpend n false }

/-- A thread parked on a counter whose PEND is clear resumes after its instruction. -/
def State.resumeBar (s : State) (n : BitVec 4) (w : Tid) : State :=
  let t := s.thread w
  match t.wait with
  | some { cont := .bar m, .. } | some { cont := .barw m, .. } =>
    if m = n && !t.awaits n then (s.unpark w).advance w else s
  | _ => s

/-- BARSET_REQUEST. A thread whose `barw` overtook it resumes: its PEND is clear (R215). -/
def execBarsetRequest (w : Tid) (n : BitVec 4) (count : Nat) (s : State) : Host.Outcome State Fault Refusal :=
  let j := w.job
  let c := (s.job j).cluOf w.lcn
  let k := { s.counter j c n with count := count }
  let s := s.modThread w fun t => { t with ep := setBit16 t.ep n k.ph, bpend := setBit16 t.bpend n false }
  .next ((if count ≤ k.arr then s.completePhase j c n k else s.setCounter j c n k).resumeBar n w)

/-- BARRIER_RELEASE: every waiter of a completed phase resumes (R214, R215). -/
def execBarrierRelease (job clu : Nat) (n : BitVec 4) (ws : List Tid) (s : State) : Host.Outcome State Fault Refusal :=
  .next (ws.foldl (fun s w => (s.releaseOne job clu n w).resumeBar n w) s)

end Sys2Proof.Machine
end

