-- ==== Sys2Proof/Machine/Message.lean ====
section
/-!
DEFINITION. Message queues: `send`, `recv`, `trecv`, `mqst`, and a flit's arrival, resending and acknowledgement (R219 to
R226).
-/

set_option linter.unusedVariables false

namespace Sys2Proof

/-- A flit that came from a peer device. -/
def Flit.foreign (f : Flit) : Bool := f.src.getLsbD 50

end Sys2Proof

namespace Sys2Proof.Machine

/-! ### Destinations (R220) -/

/-- DV of a destination. -/
def dstDv (d : Word) : Bool := d.getLsbD 50
/-- DEV of a destination. -/
def dstDev (d : Word) : Nat := bitsOf d 36 14
/-- LCN of a destination. -/
def dstLcn (d : Word) : Nat := bitsOf d 20 16
/-- THR of a destination. -/
def dstThr (d : Word) : Nat := bitsOf d 16 4
/-- GEN of a destination. -/
def dstGen (d : Word) : Nat := bitsOf d 0 16
/-- Two words name one destination thread, whatever generation they give. -/
def sameDst (a b : Word) : Bool := bitsOf a 16 48 == bitsOf b 16 48

/-- The checks of `send` (R221). -/
def Job.badDst (b : Job) (d : Word) : Bool :=
  bitsOf d 51 13 != 0 || (!dstDv d && dstDev d != 0) ||
    (!dstDv d && (decide (b.w * b.h ≤ dstLcn d) || decide (b.t ≤ dstThr d))) ||
    (dstDv d && !(b.bound.any fun x => x.1 == dstDev d))

/-! ### Peer links (R394, R395) -/

/-- The peer link towards a device: a valid route over an enabled link. -/
def Device.linkTo (d : Device) (dev : Nat) : Option Nat :=
  let r := d.route.getD dev 0
  let l := bitsOf (r.zeroExtend 64) 0 4
  if r.getLsbD 7 && d.peeren.getLsbD l then some l else none

/-- Sends a message out over the link of its device; without a route it goes nowhere. -/
def State.peerSend (s : State) (dev : Nat) (m : PeerMsg) : State :=
  match s.dev.linkTo dev with
  | some l => { s with dev := { s.dev with peerOut := s.dev.peerOut ++ [⟨l, dev, m⟩] } }
  | none => s

/-- The thread that receives a flit: of a flit from a peer, in the job that is bound to its sender's, and none when no job is
or when the job has no such thread (R221, R395). -/
def State.destOf (s : State) (f : Flit) : Option Tid :=
  let l := dstLcn f.dst
  let t := dstThr f.dst
  if !f.foreign then some ⟨f.sender.job, l, t⟩
  else
    (s.jobs.find? fun (_, b) => b.bound.contains (dstDev f.src, f.peerJob)).bind fun (j, b) =>
      if l < b.w * b.h && t < b.t then some ⟨j, l, t⟩ else none

/-! ### Sending (R221 to R223) -/

/-- The time of a message inside one core, which R22 does not give (log 13). -/
def State.localHop (s : State) (j l l' : Nat) : Nat := if s.phys? j l = s.phys? j l' then 4 else 0

/-- Puts a flit on its way. -/
def State.launchFlit (s : State) (f : Flit) : State :=
  if dstDv f.dst then s.drawn.later (Config.fabricDelay s.seq) (.peerForward f)
  else
    let w := f.sender
    s.sendTo (s.localHop w.job w.lcn (dstLcn f.dst)) .msg w w.lcn (dstLcn f.dst) (.flitArrival f)

/-- An earlier flit of the sender to the same thread has been neither enqueued nor found dead. -/
def State.flitBehind (s : State) (f : Flit) : Bool :=
  ((s.thread f.sender).outbox.takeWhile fun x => x.id != f.id).any fun x => sameDst x.dst f.dst

/-- An earlier flit of the sender to the same thread has been refused or is held back. -/
def State.flitHeldBack (s : State) (f : Flit) : Bool :=
  let t := s.thread f.sender
  t.outbox.any fun x => sameDst x.dst f.dst && (t.refused.contains x.id || t.outHeld.contains x.id)

/-- Enters a flit into the outbox of its thread, and puts it on its way unless an earlier one holds it back. -/
def State.injectFlit (s : State) (w : Tid) (dst payload : Word) (rx : Bool) (ack : Option HRef) : State :=
  let f : Flit := { id := s.seq, sender := w, src := s.identity w, dst := dst, payload := payload, rx := rx, ack := ack }
  let back := s.flitHeldBack f
  let s := s.drawn.modThread w fun t =>
    { t with
      outbox := t.outbox ++ [f]
      outHeld := if back then t.outHeld ++ [f.id] else t.outHeld
      ordAcc := if rx then t.ordAcc else some f.id
      relaxed := if rx then t.relaxed ++ [f.id] else t.relaxed }
  if back then s else s.launchFlit f

/-- `send`. -/
def execSend (g : Gd) (rx : Bool) (d : HReg) (a : SReg) (b : Src) (s : State) : Host.Outcome State Fault Refusal :=
  s.guarded g fun s =>
    let w := s.cur
    let dst := s.rd w a
    let v := s.src w b
    if (s.job w.job).badDst dst then s.trap w .msg 0 0
    else if !dstDv dst && !s.reaches w (.scratch (dstLcn dst) 0) then s.trap w .addr 0 0
    else if rx && decide (16 ≤ (s.thread w).relaxed.length) then s.park w .relaxed 0 false .reissue
    else if 8 ≤ (s.thread w).outbox.length then s.park w .outbox dst false .reissue
    else if d = 0 then (s.injectFlit w dst v rx none).advance w
    else s.withHandle w d .send fun h s => (s.injectFlit w dst v rx (some h)).advance w

/-- A flit has been enqueued or found dead: the sender's next access may begin, its outbox has a place, and the flit that
this one held back sets out. -/
def State.flitDone (s : State) (f : Flit) : State :=
  if f.foreign then s
  else
    let w := f.sender
    let s := s.modThread w fun t =>
      { t with
        outbox := t.outbox.filter fun x => x.id != f.id
        refused := t.refused.filter (· != f.id)
        ordAcc := if t.ordAcc = some f.id then none else t.ordAcc
        accAt := if t.ordAcc = some f.id then s.cyc + 1 else t.accAt }
    let s := if f.rx then s.leaveRelaxed w f.id else s
    let s := match (s.thread w).wait with
      | some { kind := .outbox, .. } => s.unpark w
      | _ => s
    let t := s.thread w
    match t.outbox.find? fun x => sameDst x.dst f.dst with
    | some x =>
      if t.outHeld.contains x.id then
        (s.modThread w fun t => { t with outHeld := t.outHeld.filter (· != x.id) }).launchFlit x
      else s
    | none => s

/-- The acknowledgement of a flit sets out from its destination, over a peer link when it came from a peer. -/
def State.flitAck (s : State) (f : Flit) (dead : Bool) : State :=
  if f.ack.isNone then s
  else if f.foreign then s.peerSend (dstDev f.src) (.ack f dead)
  else
    let w := f.sender
    s.sendTo (s.localHop w.job w.lcn (dstLcn f.dst)) .rsp w (dstLcn f.dst) w.lcn (.sendAck f dead)

/-! ### Receiving (R222, R224, R225) -/

/-- A thread takes the head flit of its queue. -/
def Thread.popFlit (t : Thread) : Option (Flit × Thread) :=
  match t.mq with
  | [] => none
  | f :: fs => some (f, { t with mq := fs })

/-- Enqueues a flit; a thread parked in `recv` or `trecv` takes it, one in `waitm mq` resumes. -/
def State.enqueueFlit (s : State) (v : Tid) (f : Flit) : State :=
  let s := s.modThread v fun t => { t with mq := t.mq ++ [f] }
  let take (ws : Word → List RegWrite) : State :=
    match (s.thread v).popFlit with
    | some (f, t) => (((s.modThread v fun _ => t).land v 8 (ws f.payload) 0).unpark v).advance v
    | none => s
  match (s.thread v).wait with
  | some { cont := .recv d, .. } => take fun x => [.s d x]
  | some { cont := .trecv d p, .. } => take fun x => [.s d x, .q p true]
  | some { cont := .waitm _ true, .. } => s.waitmLook v
  | _ => s

/-- A flit is refused at a thread that is held (R382), at a full queue, or at a vacated core (R222). -/
def State.refusesFlit (s : State) (v : Tid) : Bool :=
  (s.thread v).held || !s.resident v.job v.lcn || decide (16 ≤ (s.thread v).mq.length)

/-- A flit finds its thread free, or of another generation (R222). -/
def State.flitDead (s : State) (f : Flit) (v : Tid) : Bool :=
  let t := s.thread v
  !t.isLive s.cyc || (dstGen f.dst != 0 && dstGen f.dst != t.gen.toNat)

/-- FLIT_ARRIVAL: dead, refused or enqueued. -/
def execFlitArrival (f : Flit) (s : State) : Host.Outcome State Fault Refusal :=
  match s.destOf f with
  | none => .next (s.flitAck f true)
  | some v =>
    if !f.foreign && s.flitBehind f || !s.flitDead f v && s.refusesFlit v then
      if f.foreign then .next (s.peerSend (dstDev f.src) (.refused f))
      else
        let w := f.sender
        let s := s.modThread w fun t => { t with refused := if t.refused.contains f.id then t.refused else t.refused ++ [f.id] }
        .next (s.sendTo (64 + s.localHop w.job w.lcn v.lcn) .rsp w v.lcn w.lcn (.flitResend f))
    else if s.flitDead f v then
      let s := s.modThread v fun t => { t with mdrop := if t.mdrop = BitVec.allOnes 32 then t.mdrop else t.mdrop + 1 }
      .next ((s.flitAck f true).flitDone f)
    else .next (((s.enqueueFlit v f).flitAck f false).flitDone f)

/-- FLIT_RESEND: the refused flit sets out again, unless an earlier one to its thread holds it back. -/
def execFlitResend (f : Flit) (s : State) : Host.Outcome State Fault Refusal :=
  if !((s.thread f.sender).outbox.any fun x => x.id == f.id) then .next s
  else if s.flitBehind f then .next (s.modThread f.sender fun t => { t with outHeld := t.outHeld ++ [f.id] })
  else .next (s.launchFlit f)

/-- SEND_ACK: the handle of the acknowledgement resolves OK or MSG_DEAD. For a flit to a peer, or one that a router dropped,
this is also the news that it was enqueued or dead. -/
def execSendAck (f : Flit) (dead : Bool) (s : State) : Host.Outcome State Fault Refusal :=
  let s := if dstDv f.dst || (s.thread f.sender).outbox.any fun x => x.id == f.id then s.flitDone f else s
  match f.ack with
  | some h => .next (s.resolve 0 h (cword (if dead then 13 else 0) 0) 0)
  | none => .next s

/-- `recv`. -/
def execRecv (g : Gd) (d : SReg) (s : State) : Host.Outcome State Fault Refusal :=
  s.guarded g fun s =>
    let w := s.cur
    match (s.thread w).popFlit with
    | some (f, t) => ((s.modThread w fun _ => t).landS w 8 d f.payload).advance w
    | none => s.park w .msgq 0 false (.recv d)

/-- `trecv`. -/
def execTrecv (g : Gd) (p : BitVec 3) (d a : SReg) (s : State) : Host.Outcome State Fault Refusal :=
  s.guarded g fun s =>
    let w := s.cur
    let n := (s.rd w a).toNat
    match (s.thread w).popFlit with
    | some (f, t) => ((s.modThread w fun _ => t).land w 8 [.s d f.payload, .q p true] 0).advance w
    | none =>
      if n = 0 then (s.land w 8 [.s d 0, .q p false] 0).advance w
      else
        let s := s.park w .msgq 0 true (.trecv d p)
        s.later n (.trecvTimeout w (s.thread w).stamp)

/-- TRECV_TIMEOUT: the bound of a `trecv` that still waits. -/
def execTrecvTimeout (w : Tid) (stamp : Nat) (s : State) : Host.Outcome State Fault Refusal :=
  let t := s.thread w
  match t.wait with
  | some { cont := .trecv d p, .. } =>
    .next (if t.stamp = stamp then ((s.land w 8 [.s d 0, .q p false] 0).unpark w).advance w else s)
  | _ => .next s

/-- `mqst`. -/
def execMqst (g : Gd) (src : Bool) (d : SReg) (s : State) : Host.Outcome State Fault Refusal :=
  s.guarded g fun s =>
    let q := (s.thread s.cur).mq
    s.result 8 d (if src then (q.head?.map fun f => f.src).getD 0 else mqStatus q.length)

end Sys2Proof.Machine
end

