-- ==== Sys2Proof/Machine/Handles.lean ====
section
/-!
DEFINITION. Handles of class 0x9: `hval`, `htest`, `hcancel`, `hpass`, `hadopt`, adoption at the owning table, and the
completion of an operation (R232 to R243).
-/

set_option linter.unusedVariables false

namespace Sys2Proof.Machine

/-! ### The entry behind a register (R233, R236) -/

/-- The entry that an identity names. -/
def hrefOf (j : Nat) (id : Word) : HRef := ⟨⟨j, bitsOf id 16 16, bitsOf id 12 4⟩, bitsOf id 0 5, bitsOf id 32 16⟩

/-- The entry behind a pending register, which holds the identity: of the thread's own table, or one it adopted. -/
def State.handleIn (s : State) (w : Tid) (a : HReg) : HRef := hrefOf w.job (s.rdH w a)

/-- The core of a thread lies in a save area: what comes for it is sent again after 64 cycles (R384). -/
def State.isSaved (s : State) (w : Tid) : Bool := (s.core w.job w.lcn).saved.isSome

/-! ### `hval`, `htest`, `hcancel` (R238 to R240) -/

/-- A field of a completion word. -/
def wordField (fld : BitVec 2) (c : Word) : Word :=
  match fld.toNat with
  | 0 => c
  | 1 => c &&& 0xFF
  | 2 => c >>> 8
  | _ => c >>> 32

/-- `hval`: it issues once A has resolved (R236). -/
def execHval (g : Gd) (fld : BitVec 2) (d : SReg) (a : HReg) (s : State) : Host.Outcome State Fault Refusal :=
  s.guarded g fun s => s.result 8 d (wordField fld (s.rdH s.cur a))

/-- `htest`. -/
def execHtest (g : Gd) (d : QReg) (a : HReg) (s : State) : Host.Outcome State Fault Refusal :=
  s.guarded g fun s => s.resultQ d (!s.pending s.cur a)

/-- `hcancel`. -/
def execHcancel (g : Gd) (a : HReg) (s : State) : Host.Outcome State Fault Refusal :=
  s.guarded g fun s =>
    let w := s.cur
    if !s.pending w a then s.advance w
    else
      let h := s.handleIn w a
      match s.entry? h with
      | some { kind := .copyGather, .. } => (s.later 4 (.cancelRequest h)).advance w
      | _ => s.advance w

/-! ### `hpass` (R241) -/

/-- `hpass`: a pending entry becomes a passed one; a resolved word gets a passed entry of its own. -/
def execHpass (g : Gd) (d : SReg) (a : HReg) (s : State) : Host.Outcome State Fault Refusal :=
  s.guarded g fun s =>
    let w := s.cur
    let give (s : State) (h : HRef) : State := (s.land w 8 [.s (a.zeroExtend 7) h.word, .s d h.word] 0).advance w
    if s.pending w a then
      let h := s.handleIn w a
      let s := s.modThread h.own fun t =>
        match t.handles.get? h.slot with
        | some e => { t with handles := t.handles.set h.slot { e with passed := true, reg := 0, target := none } }
        | none => t
      give (s.modThread w fun t => { t with pend := t.pend &&& ~~~(1#64 <<< a.toNat) }) h
    else
      let c := s.rdH w a
      s.withHandle w 0 .value fun h s =>
        give (s.modThread w fun t =>
          { t with handles := t.handles.set h.slot { (t.handles.getD h.slot { seq := h.seq, kind := .value, reg := 0, pc := t.pc })
              with passed := true, word := some c } }) h

/-! ### `hadopt` (R242) -/

/-- The form of an identity. -/
def Job.badId (b : Job) (id : Word) : Bool :=
  bitsOf id 60 4 != 0xC || bitsOf id 48 12 != 0 || bitsOf id 5 7 != 0 || decide (b.w * b.h ≤ bitsOf id 16 16) ||
    decide (b.t ≤ bitsOf id 12 4)

/-- `hadopt`: the request sets out, and the thread waits for the reply at the instruction. -/
def execHadopt (g : Gd) (d : HReg) (a : SReg) (s : State) : Host.Outcome State Fault Refusal :=
  s.guarded g fun s =>
    let w := s.cur
    let id := s.rd w a
    if (s.job w.job).badId id then s.trap w .handle 0 0
    else (s.stallFor w .home).sendTo 4 .req w w.lcn (bitsOf id 16 16) (.adoptRequest w d id)

/-- ADOPT_REQUEST: the owning table refuses, answers or binds. A table that lies in a save area is asked again; a thread that is
suspended or held meanwhile issues its `hadopt` anew when it runs (log 17). -/
def execAdoptRequest (w : Tid) (d : HReg) (id : Word) (s : State) : Host.Outcome State Fault Refusal :=
  let h := hrefOf w.job id
  if s.isSaved h.own then
    .next (if (s.thread w).susp || (s.thread w).held then s.unstall w else s.later 64 (.adoptRequest w d id))
  else
  let reply (s : State) (r : AdoptReply) : Host.Outcome State Fault Refusal :=
    .next (s.sendTo 0 .rsp w h.own.lcn w.lcn (.adoptReply w d id r))
  match s.entry? h with
  | none => reply s .refused
  | some e =>
    if !e.passed || e.target.isSome then reply s .refused
    else
      match e.word with
      | some c => reply (s.freeEntry h) (.word c)
      | none =>
        reply (s.modThread h.own fun t => { t with handles := t.handles.set h.slot { e with target := some (w, d) } }) (.bound h)

/-- ADOPT_REPLY. -/
def execAdoptReply (w : Tid) (d : HReg) (id : Word) (r : AdoptReply) (s : State) : Host.Outcome State Fault Refusal :=
  if s.isSaved w then .next (s.later 64 (.adoptReply w d id r))
  else if (s.thread w).stall != some .home then .next s
  else
    let s := (s.unstall w).modThread w fun t => { t with accAt := s.cyc + 1 }
    match r with
    | .refused => .next (s.trap w .handle 0 0)
    | .word c => .next ((s.landS w 8 (d.zeroExtend 7) c).advance w)
    | .bound h =>
      match s.entry? h with
      | some e =>
        if e.target = some (w, d) then
          .next ((s.modThread w fun t => { t with x := t.x.set d.toNat id, ddFull := t.ddFull.del d.toNat, pend := t.pend ||| (1#64 <<< d.toNat) }).advance w)
        else .next (s.advance w)
      | none => .next (s.advance w)

/-! ### Completion (R232, R242, R243) -/

/-- Every thread 0 of a job has ended (R121). -/
def Job.controlsDone (b : Job) : Bool :=
  (List.range (b.w * b.h)).all fun l => ((b.cores.getD l {}).threads.getD 0 {}).st == .free

/-- The job may now be done (R121): the completion step is due, which looks at everything still pending. -/
def State.checkDone (s : State) (j : Nat) : State :=
  if (s.job j).st == .running && (s.job j).controlsDone then s.later 0 (.jobCompletion j) else s

/-- A thread 0 that waits in `exit` for the helpers of its core looks again (R121). -/
def State.wakeExit (s : State) (j l : Nat) : State :=
  let w : Tid := ⟨j, l, 0⟩
  match (s.thread w).wait with
  | some x =>
    if x.kind = .handle && !isHandleObj x.obj && !((s.core j l).starters.any fun y => y.1 == w) then s.unpark w else s
  | none => s

/-- The handle of a contribution has resolved: a third one of its thread may be made (R360). -/
def State.redLanded (s : State) (h : HRef) (grp : Nat) : State :=
  let s := s.modJob h.own.job fun b =>
    match b.groups.get? grp with
    | some g => { b with groups := b.groups.set grp { g with out := g.out.map fun (i, l) => (i, l.erase h) } }
    | none => b
  match (s.thread h.own).wait with
  | some x => if x.kind = .engq && x.obj = w64 (0x200 + grp) then s.unpark h.own else s
  | none => s

/-- HANDLE_COMPLETION: a word for an adopter travels to it from the table; every other word lands at once. -/
def execHandleCompletion (h : HRef) (c : Word) (flags : FlagBits) (s : State) : Host.Outcome State Fault Refusal :=
  let adopter := (s.entry? h).bind HEntry.target
  if s.isSaved h.own || (adopter.any fun x => s.isSaved x.1) then .next (s.later 64 (.handleCompletion h c flags))
  else
  let s :=
    match s.entry? h with
    | some e =>
      let s := match e.kind with
        | .red grp => s.redLanded h grp
        | _ => s
      match e.target, e.word with
      | some (w, _), none =>
        if e.discarded then s.completeHandle h c flags
        else
          (s.modThread h.own fun t => { t with handles := t.handles.set h.slot { e with word := some c } }).sendTo 0 .rsp w
            h.own.lcn w.lcn (.handleCompletion h c flags)
      | _, _ => s.completeHandle h c flags
    | none => s
  .next (((s.serveStarters h.own.job h.own.lcn).wakeExit h.own.job h.own.lcn).checkDone h.own.job)

end Sys2Proof.Machine
end

