-- ==== Sys2Proof/Machine/Engines.lean ====
section
/-!
DEFINITION. The copy and gather units (R240, R244 to R253): the checks at issue, the queues and their selection, requests
under permits, chunks, batches, faults and resolution. `pfetch` (R302, R303) runs on the gather unit.
-/

set_option linter.unusedVariables false

namespace Sys2Proof.Machine

/-! ### Ranges (R245) -/

/-- The fault of a range at issue: cause and address. A range of no bytes is checked as one byte. -/
def State.rangeFault (s : State) (w : Tid) (a : Word) (n : Nat) : Option (Cause × Word) :=
  match s.checkPlace w false false 1 a with
  | .error c => some (c, a)
  | .ok (.scratch l off) => if (s.job w.job).foot < off + n then some (.addr, a + w64 (n - 1)) else none
  | .ok (.pool va) => if 2 ^ 48 < va + n then some (.addr, a + w64 (n - 1)) else none
  | .ok _ => some (.addr, a)

/-- The first fault of several ranges. -/
def State.rangesFault (s : State) (w : Tid) (rs : List (Word × Nat)) : Option (Cause × Word) :=
  rs.findSome? fun (a, n) => s.rangeFault w a n

/-- The place of a whole range, if it lies in one scratch or in the pool. -/
def State.rangePlace (s : State) (w : Tid) (a : Word) (n : Nat) : Option Place :=
  if (s.rangeFault w a n).isSome then none else s.place w a

/-! ### Reading and writing ranges -/

/-- A range cut at multiples of `m`. -/
def cutAt (m : Nat) (a n : Nat) : Nat → List (Nat × Nat)
  | 0 => []
  | k + 1 =>
    if n = 0 then []
    else
      let x := min n (m - a % m)
      (a, x) :: cutAt m (a + x) (n - x) k

/-- Reads a range of scratch, word by word: bytes, guard hits, substituted data (R182, R202). -/
def State.scrRead (s : State) (j l off n : Nat) : State × List Byte × Nat × Bool :=
  (cutAt 8 off n (n / 8 + 2)).foldl
    (fun (s, bs, g, u) (a, k) =>
      let (s, p) := s.scrLoad j l a k
      (s, bs ++ leBytes k p.val, g + p.guard.toNat, u || p.subst))
    (s, [], 0, false)

/-- Writes a range of scratch, word by word: guard hits, and substituted data under a part word. -/
def State.scrWrite (s : State) (j l off : Nat) (bs : List Byte) : State × Nat × Bool :=
  (cutAt 8 off bs.length (bs.length / 8 + 2)).foldl
    (fun (s, g, u) (a, k) =>
      let (s, p) := s.scrStore j l a k (leNat ((bs.drop (a - off)).take k))
      (s, g + p.guard.toNat, u || p.subst))
    (s, 0, false)

/-- Writes those bytes of a range of scratch that are not hidden, as `scrWrite` does. -/
def State.scrWriteBut (s : State) (j l off : Nat) (bs : List Byte) (hide : Nat → Bool) : State × Nat × Bool :=
  (cutAt 8 off bs.length (bs.length / 8 + 2)).foldl
    (fun (s, g, u) (a, k) =>
      let part := (bs.drop (a - off)).take k
      if !((List.range k).any fun i => hide (a + i)) then
        let (s, p) := s.scrStore j l a k (leNat part)
        (s, g + p.guard.toNat, u || p.subst)
      else
        ((List.range k).filter fun i => !hide (a + i)).foldl
          (fun (s, g, u) i =>
            let (s, p) := s.scrStore j l (a + i) 1 (part.getD i 0).toNat
            (s, g + p.guard.toNat, u || p.subst)) (s, g, u))
    (s, 0, false)

/-- The token of a thread whose block read has waited for its banks. -/
def blockToken : Nat := 120

/-- An instruction that reads a block of scratch at issue: the banks take the read after the requests that they hold (R13,
R183). DEDUCED (log 65): it waits at the instruction until then. -/
def State.atBlock (s : State) (w : Tid) (l off n : Nat) (body : State → State) : State :=
  if s.granted w blockToken then body (s.spend w blockToken)
  else
    let (t, c) := s.bankRun (s.phys w.job l) (s.seg w.job l + off) n 0 (n / 32 + 2)
    if c ≤ s.cyc then body t
    else
      let t := (t.grant w blockToken).stallFor w (.sleep c)
      t.atCycle c (.sleepExpiry w (t.thread w).stamp)

/-- A block that an instruction reads at issue as an ordinary load: guard hits mark the thread, substituted data sets
SB. -/
def State.readBlock (s : State) (w : Tid) (va : Word) (l off n : Nat) : State × List Byte :=
  let first := s.firstShut w.job l off n false
  let (s, bs, g, u) := s.scrRead w.job l off n
  ((s.markGuard w g (va + w64 (first - off))).setFlags w (flagIf u fSB), bs)

/-- A little-endian field of a block. -/
def fieldOf (bs : List Byte) (off n : Nat) : Nat := leNat ((bs.drop off).take n)

/-! ### Queues (R244) -/

/-- The operations of a unit. -/
def LCluster.ops (q : LCluster) (cp : Bool) : List EngOp := if cp then q.copyQ else q.gathQ

/-- Replaces the operations of a unit. -/
def State.modOps (s : State) (j c : Nat) (cp : Bool) (f : List EngOp → List EngOp) : State :=
  s.modClu j c fun q => if cp then { q with copyQ := f q.copyQ } else { q with gathQ := f q.gathQ }

/-- Replaces one operation. -/
def State.modOp (s : State) (j c : Nat) (cp : Bool) (id : Nat) (f : EngOp → EngOp) : State :=
  s.modOps j c cp fun l => l.map fun o => if o.id = id then f o else o

/-- An operation of a unit. -/
def State.op? (s : State) (j c : Nat) (cp : Bool) (id : Nat) : Option EngOp :=
  ((s.clu j c).ops cp).find? fun o => o.id == id

/-- The step that works on an operation, or on one of its requests. -/
def opEvent (j c : Nat) (cp : Bool) (id : Nat) (r : Option Nat := none) : Event :=
  if cp then .copyChunk j c id r else .gatherBatch j c id r

/-- The token of a place in a unit's queue. -/
def unitToken (cp : Bool) : Nat := if cp then 100 else 101
/-- The object of a wait for a unit's queue (log 12). -/
def unitObj (cp : Bool) : Word := if cp then 1 else 2
/-- The number of a unit in its physical cluster. -/
def unitNo (cp : Bool) : Nat := if cp then 0 else 1

end Sys2Proof.Machine

namespace Sys2Proof

/-- An operation is for the copy unit. -/
def EngKind.isCopy : EngKind → Bool
  | .copy | .copy2 => true
  | _ => false

/-- An operation waits in its queue. -/
def EngOp.queued (o : EngOp) : Bool := !o.active && o.stop.isNone

end Sys2Proof

namespace Sys2Proof.Machine

/-- Operations of a cluster that wait in a unit's queue, or are on their way to it. -/
def State.queuedOps (s : State) (j c : Nat) (cp : Bool) : Nat :=
  (((s.clu j c).ops cp).filter EngOp.queued).length +
    (s.agenda.filter fun p =>
      match p.ev with
      | .engineEnqueue o => o.kind.isCopy == cp && o.own.job == j && (s.job j).cluOf o.own.lcn == c
      | _ => false).length

/-- A place in a queue of a logical cluster is free for a thread: it has been given one, or there is one to spare. -/
def State.placeFor (s : State) (w : Tid) (tok used cap : Nat) : Bool :=
  let b := s.job w.job
  s.granted w tok || decide (used + s.tokens w.job tok (fun v => b.cluOf v.lcn == b.cluOf w.lcn) < cap)

/-- The place that has come free goes to the thread of the cluster that has waited longest for it. -/
def State.passPlace (s : State) (j c tok : Nat) (obj : Word) : State :=
  match s.waiters j fun v x => x.kind == .engq && x.obj == obj && x.cont == .reissue && (s.job j).cluOf v.lcn == c with
  | v :: _ => (s.grant v tok).unpark v
  | [] => s

/-- An operation reaches its unit's queue 4 cycles on. With RX = 0 the thread's next access waits for that (R252). -/
def State.enqueueEng (s : State) (w : Tid) (d : HReg) (o : EngOp) : State :=
  let cp := o.kind.isCopy
  if !s.placeFor w (unitToken cp) (s.queuedOps w.job ((s.job w.job).cluOf w.lcn) cp) 64 then
    s.park w .engq (unitObj cp) false .reissue
  else
    s.withHandle w d .copyGather fun h s =>
      let o := { o with id := s.seq, own := w, h := h, pc := s.pcOf w }
      let s := (s.drawn.spend w (unitToken cp)).later 4 (.engineEnqueue o)
      (if o.rx then s else s.modThread w fun t => { t with ordAcc := some o.id }).advance w

/-- The member and thread whose turn it is, and the places afterwards: round-robin by member, and within one by thread. -/
def roundRobin (rr : Map Nat) (cands : List (Nat × Nat)) : Option ((Nat × Nat) × Map Nat) :=
  (nextAfter (rr.get? 8) ((cands.map Prod.fst).eraseDups)).bind fun m =>
    (nextAfter (rr.get? m) ((cands.filter fun x => x.1 == m).map Prod.snd)).map fun t => ((m, t), (rr.set 8 m).set m t)

/-- Operations that a unit works on at once. -/
def unitCap (cp : Bool) : Nat := if cp then 4 else 2

/-- A unit takes the next operation of a logical cluster. -/
def State.takeOp (s : State) (j c : Nat) (cp : Bool) : State :=
  let b := s.job j
  let q := s.clu j c
  let key (o : EngOp) : Nat × Nat := (b.memOf o.own.lcn, o.own.thr)
  match roundRobin (if cp then q.rrCopy else q.rrGath) (((q.ops cp).filter EngOp.queued).map key) with
  | none => s
  | some (k, rr) =>
    match (q.ops cp).find? fun o => o.queued && key o == k with
    | none => s
    | some o =>
      let s := s.modClu j c fun q => if cp then { q with rrCopy := rr } else { q with rrGath := rr }
      let s := (s.modOp j c cp o.id fun o => { o with active := true }).later 0 (opEvent j c cp o.id)
      s.passPlace j c (unitToken cp) (unitObj cp)

/-- The unit of a physical cluster, while it has room, takes operations from the queues of the logical clusters that it
carries, at most `n` of them (R11, R244, R385). -/
def State.kick (p : Nat) (cp : Bool) : Nat → State → State
  | 0, s => s
  | n + 1, s =>
    let j := s.jobAt p
    let count (f : EngOp → Bool) (c : Nat) : Nat := (((s.clu j c).ops cp).filter f).length
    if unitCap cp ≤ ((s.carriedBy p).map (count fun o => o.active)).sum then s
    else
      match s.foldTurn p (unitNo cp) fun c => decide (0 < count EngOp.queued c) with
      | none => s
      | some c => State.kick p cp n ((s.takeOp j c cp).tookTurn p (unitNo cp) c)

/-- The unit that serves a logical cluster looks for work. -/
def State.kickUnit (s : State) (j c : Nat) (cp : Bool) : State :=
  match s.carrier j c with
  | some (p, _) => State.kick p cp 4 s
  | none => s

/-- ENGINE_ENQUEUE. -/
def execEngineEnqueue (op : EngOp) (s : State) : Host.Outcome State Fault Refusal :=
  let j := op.own.job
  let c := (s.job j).cluOf op.own.lcn
  let cp := op.kind.isCopy
  let s := s.modThread op.own fun t =>
    if t.ordAcc = some op.id then { t with ordAcc := none, accAt := s.cyc } else t
  .next ((s.modOps j c cp fun l => l ++ [op]).kickUnit j c cp)

/-! ### Requests of an operation (R18, R244, R250) -/

/-- The requests of one half of a move of `n` bytes: its reads or its writes, cut at 256-byte blocks. -/
def moveReqs (wr : Bool) (a : Word) (n : Nat) (pos : Option Nat) (mv : Nat) (data : List Byte) : List EngReq :=
  (cutAt 256 a.toNat n (n / 256 + 2)).map fun (x, k) =>
    { wr := wr, addr := w64 x, len := k, at_ := x - a.toNat, pos := pos, mv := mv, st := .want, slice := none, pa := 0,
      data := (data.drop (x - a.toNat)).take k }

/-- The bytes that the reads of a move have brought, in order. -/
def readData (l : List EngReq) : List Byte := (sortBy EngReq.at_ l).flatMap fun q => q.data

/-- Adds requests to those in hand. -/
def EngOp.addReqs (o : EngOp) (l : List EngReq) : EngOp :=
  let base := (o.reqs.map Prod.fst).foldl max 0 + 1
  { o with reqs := (l.mapIdx fun i q => (base + i, q)).foldl (fun m x => m.set x.1 x.2) o.reqs }

/-- Changes a request. -/
def State.modReq (s : State) (j c : Nat) (cp : Bool) (id r : Nat) (f : EngReq → EngReq) : State :=
  s.modOp j c cp id fun o => match o.reqs.get? r with | some q => { o with reqs := o.reqs.set r (f q) } | none => o

/-- Cycles for which a request or an answer with data takes each link: 32 bytes a cycle (R18). -/
def dataBeats (n : Nat) : Nat := max 1 ((n + 31) / 32)

/-- The copy unit of a physical cluster moves at most 128 bytes a cycle; the cycles after which it has passed on `n` more
(R244). -/
def State.moveSlot (s : State) (p : Nat) (cp : Bool) (n : Nat) : State × Nat :=
  if !cp then (s, 0)
  else
    let t := max s.cyc ((s.pclu p).unitAt.getD 0 0) + (n + 127) / 128
    (s.modPClu p fun q => { q with unitAt := q.unitAt.set 0 t }, t - s.cyc)

/-- What became of a request that was wanted. -/
inductive Try where
  /-- It is on its way, or what it waits for will have it tried again. -/
  | going (s : State)
  /-- Its address stops the operation: 0 PROT, 1 XLAT of a read, 2 of a write, 3 a read outside the windows, 4 a write. -/
  | bad (s : State) (va : Word) (k : Nat)

/-- Gives back the permit that a request holds. -/
def State.dropPermit (s : State) (o : EngOp) (j c : Nat) (cp : Bool) (r : Nat) (q : EngReq) : State :=
  match q.slice with
  | some sl => (s.modReq j c cp o.id r fun q => { q with slice := none }).returnPermit (s.phys j o.own.lcn) sl
  | none => s

/-- Sends a wanted request to its home. It enters the network at the router of the issuing core, whose permits it uses (R244,
log 20). -/
def State.sendReq (s : State) (o : EngOp) (j c : Nat) (cp : Bool) (r : Nat) (q : EngReq) : Try :=
  let ev := opEvent j c cp o.id (some r)
  let beats := if q.wr then dataBeats q.len else 1
  let pc := s.phys j o.own.lcn
  match s.rangePlace o.own q.addr q.len with
  | some (.scratch l _) =>
    let s := s.modReq j c cp o.id r fun q => { q with st := .sent }
    if !s.serves j o.own.lcn l then .going (s.later 64 ev)
    else
      let (s, d) := s.moveSlot (s.physClu j o.own.lcn) cp q.len
      .going (s.sendTo d .req o.own o.own.lcn l ev beats)
  | some (.pool va) =>
    match s.translate pc j va (if q.wr then .write else .read) with
    | .miss =>
      if s.walks.any fun x => x.2.eng == some o.h then .going s
      else
        .going (s.startWalk { own := o.own, pc := o.pc, va := q.addr, write := q.wr, atomic := false, exec := false,
                              post := none, eng := some o.h })
    | .denied _ => .bad (s.dropPermit o j c cp r q) q.addr 0
    | .outside => .bad (s.dropPermit o j c cp r q) q.addr (if q.wr then 4 else 3)
    | .hit pa sl =>
      let go (s : State) : Try :=
        let (s, d) := s.moveSlot (s.physClu j o.own.lcn) cp q.len
        let s := s.modReq j c cp o.id r fun q => { q with st := .sent, slice := some sl, pa := pa }
        let t := s.cyc + d + 12 + Config.fabricDelay s.seq
        .going (s.drawn.injectPacket d { s.poolPacket .req o.own sl t false ev with beats := beats })
      if q.slice = some sl then go s
      else if q.slice.isSome then .going ((s.dropPermit o j c cp r q).later 0 (opEvent j c cp o.id))
      else if (s.pcore pc).permitFree sl then go (s.takePermit pc sl)
      else
        .going ((s.modReq j c cp o.id r fun q => { q with st := .asked, slice := some sl }).modPCore pc fun x =>
          { x with permitQ := x.permitQ ++ [(sl, .eng o.h r)] })
  | _ => .bad (s.dropPermit o j c cp r q) q.addr 0

/-- A byte that a scatter does not write: a higher position of the batch has written it (R249). -/
def EngOp.hides (o : EngOp) (q : EngReq) (key a : Nat) : Bool :=
  match q.pos with
  | some p => o.wrote.any fun (p', k, x, n) => decide (p < p') && k == key && decide (x ≤ a) && decide (a < x + n)
  | none => false

/-- Performs a request at its home, at the cycle in which its bank or slice serves it. -/
def State.performReq (s : State) (o : EngOp) (j c : Nat) (cp : Bool) (r : Nat) (q : EngReq) : State :=
  let wrote (s : State) (key a : Nat) : State :=
    match o.kind, q.pos with
    | .scat, some p => s.modOp j c cp o.id fun o => { o with wrote := o.wrote ++ [(p, key, a, q.len)] }
    | _, _ => s
  let met (s : State) (g : Nat) (u : Bool) : State :=
    s.modOp j c cp o.id fun o => { o with guardHit := o.guardHit || g != 0, subst := o.subst || u }
  let s := s.modReq j c cp o.id r fun q => { q with st := .performed }
  match s.place o.own q.addr with
  | some (.scratch l off) =>
    if q.wr then
      let (s, g, u) := s.scrWriteBut j l off q.data (EngOp.hides o q l)
      wrote (met s g u) l off
    else
      let (s, bs, g, u) := s.scrRead j l off q.len
      (met s g u).modReq j c cp o.id r fun q => { q with data := bs }
  | _ =>
    if q.wr then
      wrote (((List.range q.len).filter fun i => !EngOp.hides o q 2000 (q.pa + i)).foldl
        (fun s i => s.poolStore (q.pa + i) 1 (q.data.getD i 0).toNat) s) 2000 q.pa
    else s.modReq j c cp o.id r fun q => { q with data := (List.range q.len).map fun i => s.poolByte (q.pa + i) }

/-- A request is at its home, or its answer at the unit. -/
def State.reqTurn (s : State) (o : EngOp) (j c : Nat) (cp : Bool) (r : Nat) (q : EngReq) : State :=
  let ev := opEvent j c cp o.id (some r)
  let beats := if q.wr then 1 else dataBeats q.len
  match q.st, s.place o.own q.addr with
  | .sent, some (.scratch l off) =>
    if !s.serves j o.own.lcn l then s.later 64 ev
    else
      let (s, t) := s.bankRun (s.phys j l) (s.seg j l + off) q.len 0 (q.len / 32 + 2)
      (s.modReq j c cp o.id r fun q => { q with st := .banked }).atCycle t ev
  | .sent, _ =>
    let s := s.performReq o j c cp r q
    let t := s.cyc + 12 + Config.fabricDelay s.seq
    s.drawn.injectPacket 0 { s.poolPacket .rsp o.own (q.slice.getD 0) t false ev with beats := beats }
  | .banked, some (.scratch l _) =>
    if !s.serves j o.own.lcn l then (s.modReq j c cp o.id r fun q => { q with st := .sent }).later 64 ev
    else (s.performReq o j c cp r q).sendTo 0 .rsp o.own l o.own.lcn ev beats
  | .performed, _ =>
    ((s.modReq j c cp o.id r fun q => { q with st := .done }).dropPermit o j c cp r q).later 0 (opEvent j c cp o.id)
  | _, _ => s

/-- A request is under way, or waits for a permit. -/
def EngReq.out (q : EngReq) : Bool := q.st != .want && q.st != .done

/-- Tries the wanted requests of an operation in order, up to one that stops it. -/
def State.tryReqs (s : State) (j c : Nat) (cp : Bool) (id : Nat) : List (Nat × EngReq) → Try
  | [] => .going s
  | (r, _) :: rest =>
    match s.op? j c cp id with
    | none => .going s
    | some o =>
      match o.reqs.get? r with
      | some q =>
        if q.st != .want then s.tryReqs j c cp id rest
        else
          match s.sendReq o j c cp r q with
          | .going s => s.tryReqs j c cp id rest
          | .bad s va k => .bad (s.modReq j c cp id r fun q => { q with slice := none }) va k
      | none => s.tryReqs j c cp id rest

/-- The code of a walk that failed: XLAT, or PROT for a table outside the windows. -/
def fltCode (wr : Bool) (c : Cause) : Nat := (if c = .prot then 3 else 1) + wr.toNat

/-- Gives back the permits of requests that will not be sent. -/
def State.dropWanted (s : State) (j c : Nat) (cp : Bool) (id : Nat) (f : EngReq → Bool) : State :=
  match s.op? j c cp id with
  | none => s
  | some o =>
    (o.reqs.filter fun x => x.2.st == .want && f x.2).foldl (fun s x => s.dropPermit o j c cp x.1 x.2) s

/-! ### Stopping and resolving (R247, R251) -/

/-- The step that resolves an operation. -/
def resolveEvent (j c : Nat) (cp : Bool) (id : Nat) : Event := if cp then .copyResolve j c id else .gatherResolve j c id

/-- An operation leaves its unit with a status and resolves. -/
def State.stopOp (s : State) (j c : Nat) (cp : Bool) (id : Nat) (st : BitVec 8) : State :=
  ((s.modOp j c cp id fun o => { o with active := false, stop := some st }).later 0 (resolveEvent j c cp id)).kickUnit j c cp

/-- An operation leaves its unit for a reason of `Try.bad`: PROT, or a record whose verdict resolves it (R376). -/
def State.stopBad (s : State) (o : EngOp) (j c : Nat) (cp : Bool) (va : Word) (k : Nat) : State :=
  if k = 0 then s.stopOp j c cp o.id 4
  else
    let s := s.modOp j c cp o.id fun o => { o with active := false, stop := some 3 }
    (s.placeTq (s.faultRec o.own o.pc va (if 3 ≤ k then .prot else .xlat) (k % 2 == 0) none (some o.h))).kickUnit j c cp

/-- Removes an operation and resolves its handle: status, guard and substitution, and [63:32]. -/
def State.finishOp (s : State) (o : EngOp) (j c : Nat) (cp : Bool) (st : Nat) (n : Nat) : State :=
  let st := if st = 0 && o.guardHit then 2 else st
  let fl := (if o.subst then 256 else 0) + (if o.guardHit then 512 else 0)
  (s.modOps j c cp fun l => l.filter fun x => x.id != o.id).resolve 8 o.h (cwordHi st fl (n % 2 ^ 32)) (flagIf o.subst fSB)

/-- CANCEL_REQUEST: a queued operation is removed, an active one stops at its next boundary (R240). -/
def execCancelRequest (h : HRef) (s : State) : Host.Outcome State Fault Refusal :=
  let j := h.own.job
  let c := (s.job j).cluOf h.own.lcn
  let q := s.clu j c
  match (q.copyQ ++ q.gathQ).find? fun o => o.h == h with
  | none => .next s
  | some o =>
    let cp := o.kind.isCopy
    if o.active then .next (s.modOp j c cp o.id fun o => { o with cancel := true })
    else if o.stop.isSome then .next s
    else .next ((s.finishOp o j c cp 5 (if cp then 0 else o.pos)).passPlace j c (unitToken cp) (unitObj cp))

/-! ### The copy unit (R245 to R247) -/

/-- `copy`. -/
def execCopy (g : Gd) (rx : Bool) (d : HReg) (a b : SReg) (imm : BitVec 32) (s : State) :
    Host.Outcome State Fault Refusal :=
  s.guarded g fun s =>
    let w := s.cur
    let n := imm.toNat
    let dst := s.rd w a
    let src := s.rd w b
    match s.rangesFault w [(dst, n), (src, n)] with
    | some (c, va) => s.trap w c va 0
    | none =>
      if n = 0 then s.withHandle w d .copyGather fun h s => (s.resolve 8 h 0 0).advance w
      else
        s.enqueueEng w d { (default : EngOp) with kind := .copy, rx := rx, dst := dst, src := src, rowb := n, rows := 1 }

/-- `copy2`: the shape block is read at issue, and the first and the last row are checked. -/
def execCopy2 (g : Gd) (rx : Bool) (d : HReg) (a b : SReg) (imm : BitVec 32) (s : State) :
    Host.Outcome State Fault Refusal :=
  s.guarded g fun s =>
    let w := s.cur
    let off := imm.toNat
    let va := w64 (0x9 * 2 ^ 60 + off)
    if (s.job w.job).foot < off + 16 then s.trap w .addr va 0
    else if off % 8 != 0 then s.trap w .align va 0
    else s.atBlock w w.lcn off 16 fun s =>
      let (s, blk) := s.readBlock w va w.lcn off 16
      let rowb := fieldOf blk 0 4
      let rows := fieldOf blk 4 4
      let dstr := (BitVec.ofNat 32 (fieldOf blk 8 4)).signExtend 64
      let sstr := (BitVec.ofNat 32 (fieldOf blk 12 4)).signExtend 64
      let dst := s.rd w a
      let src := s.rd w b
      let last := w64 (rows - 1)
      let checks := if rows = 0 then []
        else [(dst, rowb), (src, rowb), (dst + last * dstr, rowb), (src + last * sstr, rowb)]
      match s.rangesFault w checks with
      | some (c, va) => s.trap w c va 0
      | none =>
        if rows = 0 || rowb = 0 then s.withHandle w d .copyGather fun h s => (s.resolve 8 h (cwordHi 0 0 rows) 0).advance w
        else
          s.enqueueEng w d
            { (default : EngOp) with kind := .copy2, rx := rx, dst := dst, src := src, rowb := rowb, rows := rows,
                                     dstr := dstr, sstr := sstr }

/-- Bytes of the chunk that a copy has in hand. -/
def EngOp.chunkLen (o : EngOp) : Nat := min 256 (o.rowb - 256 * o.chunk)

/-- The reads of that chunk. -/
def EngOp.chunkReads (o : EngOp) : List EngReq :=
  moveReqs false (o.src + w64 o.pos * o.sstr + w64 (256 * o.chunk)) (EngOp.chunkLen o) none 0 []

/-- The writes of that chunk, once it has been read. -/
def EngOp.chunkWrites (o : EngOp) : List EngReq :=
  moveReqs true (o.dst + w64 o.pos * o.dstr + w64 (256 * o.chunk)) (EngOp.chunkLen o) none 0 (readData (o.reqs.map Prod.snd))

/-- The next chunk, or the first of the next row. -/
def EngOp.nextChunk (o : EngOp) : EngOp :=
  if o.rowb ≤ 256 * (o.chunk + 1) then { o with pos := o.pos + 1, chunk := 0, reqs := [] }
  else { o with chunk := o.chunk + 1, reqs := [] }

/-- The bytes at the start of the chunk in hand that have been written. -/
def EngOp.written (o : EngOp) : Nat :=
  let left := o.reqs.filter fun x => !(x.2.wr && x.2.st == .done)
  if o.reqs.any fun x => x.2.wr then left.foldl (fun n x => min n x.2.at_) (EngOp.chunkLen o) else 0

/-- N of R247: the first unfinished byte or row. -/
def EngOp.copyN (o : EngOp) : Nat :=
  if o.kind = .copy then (if o.rows ≤ o.pos then o.rowb else 256 * o.chunk + o.doneB) else o.pos

/-- Work of the copy unit on an operation: the boundary before a chunk, at which a vacated cluster's unit stands still (R253),
its reads, then its writes, or the stop once what is under way has been answered. -/
def State.copyWork (s : State) (o : EngOp) (j c : Nat) : State :=
  let go (s : State) : State :=
    match s.op? j c true o.id with
    | none => s
    | some o =>
      match s.tryReqs j c true o.id o.reqs with
      | .going s => s
      | .bad s va k => (s.modOp j c true o.id fun o => { o with fail := some (va, k) }).later 0 (.copyChunk j c o.id none)
  match o.fail, o.flt with
  | some (va, k), _ =>
    if o.reqs.any fun x => EngReq.out x.2 then s
    else
      let s := s.dropWanted j c true o.id fun _ => true
      (s.modOp j c true o.id fun o => { o with doneB := EngOp.written o, reqs := [], fail := none }).stopBad o j c true va k
  | none, some (va, wr, x) =>
    (s.modOp j c true o.id fun o => { o with flt := none, fail := some (va, fltCode wr x) }).later 0 (.copyChunk j c o.id none)
  | none, none =>
    if o.reqs.isEmpty then
      if (s.carrier j c).isNone then s
      else if o.cancel then s.stopOp j c true o.id 5
      else if o.rows ≤ o.pos then s.stopOp j c true o.id 0
      else go (s.modOp j c true o.id fun o => EngOp.addReqs o (EngOp.chunkReads o))
    else if o.reqs.all fun x => x.2.st == .done then
      if o.reqs.any fun x => x.2.wr then (s.modOp j c true o.id EngOp.nextChunk).later 0 (.copyChunk j c o.id none)
      else go (s.modOp j c true o.id fun o => EngOp.addReqs { o with reqs := [] } (EngOp.chunkWrites o))
    else go s

/-- COPY_CHUNK: work on an operation, or the next stage of one of its requests. -/
def execCopyChunk (job clu : Nat) (u : Turn) (s : State) : Host.Outcome State Fault Refusal :=
  match s.op? job clu true u.id with
  | none => .next s
  | some o =>
    if !o.active then .next s
    else
      match u.req with
      | none => .next (s.copyWork o job clu)
      | some r =>
        match o.reqs.get? r with
        | some q => .next (s.reqTurn o job clu true r q)
        | none => .next s

/-- COPY_RESOLVE. -/
def execCopyResolve (job clu id : Nat) (s : State) : Host.Outcome State Fault Refusal :=
  match s.op? job clu true id with
  | none => .next s
  | some o =>
    match o.stop with
    | some st => .next (s.finishOp o job clu true st.toNat (EngOp.copyN o))
    | none => .next s

/-! ### The gather unit (R248 to R251, R303) -/

/-- The first malformed field of a parameter block. -/
def badBlock (blk : List Byte) : Option Nat :=
  let f := fieldOf blk
  let space (o : Nat) : Nat := f o 8 / 2 ^ 60
  let isz := if f 36 4 % 2 = 1 then 8 else 4
  if !([0x0, 0x8, 0x9, 0xA].contains (space 0)) then some 0
  else if !([0x8, 0x9, 0xA].contains (space 8)) || f 8 8 % isz != 0 then some 8
  else if space 16 != 0xA then some 16
  else if f 24 4 < f 28 4 then some 28
  else if f 32 4 = 0 || 65536 < f 32 4 then some 32
  else if f 36 4 / 2 != 0 then some 36
  else if f 48 4 < f 32 4 then some 48
  else if (blk.drop 52).any (· != 0) then some 52
  else none

/-- A gather or scatter. The index list and the packed range from START on are checked, a range of no bytes as one byte. -/
def State.gather (s : State) (k : EngKind) (rx : Bool) (d : HReg) (a : SReg) : State :=
  let w := s.cur
  let va := s.rd w a
  let b := s.job w.job
  match s.checkPlace w true false 1 va with
  | .error c => s.trap w c va 0
  | .ok (.scratch l off) =>
    if b.cluOf l != b.cluOf w.lcn || decide (b.foot < off + 64) then s.trap w .addr va 0
    else if va.toNat % 64 != 0 then s.trap w .align va 0
    else
      s.atBlock w l off 64 fun s =>
        let (s, blk) := s.readBlock w va l off 64
        let f := fieldOf blk
        match badBlock blk with
        | some o => s.trap w .addr va (w64 o)
        | none =>
          let isz := if f 36 4 % 2 = 1 then 8 else 4
          let start := f 28 4
          let n := f 24 4 - start
          let packed := if n = 0 then 0 else (n - 1) * f 48 4 + f 32 4
          match s.rangesFault w [(w64 (f 8 8 + start * isz), n * isz), (w64 (f 16 8 + start * f 48 4), packed)] with
          | some (c, x) => s.trap w c x 0
          | none =>
            s.enqueueEng w d
              { (default : EngOp) with
                kind := k, rx := rx, blk := va, idx := w64 (f 8 8), idx64 := isz == 8, dst := w64 (f 16 8), src := w64 (f 0 8)
                elem := f 32 4, stride := w64 (f 40 8), pitch := f 48 4, count := f 24 4, pos := start }
  | .ok _ => s.trap w .addr va 0

/-- `gath`. -/
def execGath (g : Gd) (rx : Bool) (d : HReg) (a : SReg) (s : State) : Host.Outcome State Fault Refusal :=
  s.guarded g fun s => s.gather .gath rx d a

/-- `scat`. -/
def execScat (g : Gd) (rx : Bool) (d : HReg) (a : SReg) (s : State) : Host.Outcome State Fault Refusal :=
  s.guarded g fun s => s.gather .scat rx d a

/-- The member that receives a tile, and its slot (R302). -/
def tileHome (memb t : Nat) : Nat × Nat :=
  let ms := (List.range 8).filter fun m => memb.testBit m
  ((ms[t % ms.length]?).getD 0, t / ms.length)

/-- The moves of a list position: source, destination, bytes. -/
def EngOp.moves (o : EngOp) (p : Nat) : List (Word × Word × Nat) :=
  let i := o.got.getD p 0
  match o.kind with
  | .gath => [(o.src + i * o.stride, o.dst + w64 (p * o.pitch), o.elem)]
  | .scat => [(o.dst + w64 (p * o.pitch), o.src + i * o.stride, o.elem)]
  | _ =>
    let f := fieldOf o.cfg
    let gp := if o.replay then 32 * ((o.nf + 31) / 32) + p else p
    let (m, u) := tileHome (f 6 1) (gp / 32)
    let row := 32 * u + gp % 32
    let win (off : Nat) : Word := w64 (0xA * 2 ^ 60 + m * 2 ^ 21 + off)
    let one (b base bytes dst : Nat) : List (Word × Word × Nat) :=
      if o.wm.getLsbD b then [(w64 (base + i.toNat * bytes), win (dst + row * bytes), bytes)] else []
    one 0 (f 24 8) (f 40 4) (f 56 4) ++ one 1 (f 32 8) (f 44 4) (f 60 4)

/-- The reads of a list position. -/
def EngOp.posReads (o : EngOp) (p : Nat) : List EngReq :=
  ((EngOp.moves o p).mapIdx fun i m => moveReqs false m.1 m.2.2 (some p) i []).flatten

/-- The writes of a move of a list position, once it has been read. -/
def EngOp.posWrites (o : EngOp) (p i : Nat) : List EngReq :=
  match (EngOp.moves o p)[i]? with
  | some m =>
    moveReqs true m.2.1 m.2.2 (some p) i (readData ((o.reqs.map Prod.snd).filter fun q => q.pos == some p && q.mv == i))
  | none => []

/-- The indices that a batch has in hand, from the reads of its list. -/
def EngOp.indices (o : EngOp) : Map Word :=
  let bs := readData (o.reqs.map Prod.snd)
  let n := if o.idx64 then 8 else 4
  (List.range (bs.length / n)).map fun i => (o.pos + i, w64 (leNat ((bs.drop (i * n)).take n)))

/-- Some address of a position fails R180 or its range, so the operation stops there (R249). -/
def State.badPos (s : State) (o : EngOp) (p : Nat) : Option Word :=
  ((EngOp.moves o p).flatMap fun m => [(m.1, m.2.2), (m.2.1, m.2.2)]).findSome? fun (a, n) =>
    if (s.rangeFault o.own a n).isSome then some a else none

/-- The side of a position that the list names. -/
def EngOp.farAddr (o : EngOp) (p : Nat) : Word :=
  match EngOp.moves o p with
  | m :: _ => if o.kind = .scat then m.2.1 else m.1
  | [] => 0

/-- The use of a page on that side. -/
def EngOp.farUse (o : EngOp) : Use := if o.kind = .scat then .write else .read

/-- The bin of a position: slice and 4 KiB block of the pool, or bank of scratch (R250). -/
def State.binOf (s : State) (o : EngOp) (p : Nat) : Nat :=
  let a := EngOp.farAddr o p
  match s.place o.own a with
  | some (.pool va) =>
    match s.translate (s.phys o.own.job o.own.lcn) o.own.job va (EngOp.farUse o) with
    | .hit pa sl => sl * 2 ^ 40 + pa / 4096
    | _ => 0
  | some (.scratch l off) => 2 ^ 64 + l * 16 + off / 32 % 16
  | _ => 0

/-- The order of a batch: binned (R250). -/
def State.binned (s : State) (o : EngOp) (ps : List Nat) : List Nat := sortBy (s.binOf o) ps

/-- The first position of a list whose page is not translated. -/
def State.untranslated (s : State) (o : EngOp) (ps : List Nat) : Option (Nat × Word) :=
  ps.findSome? fun p =>
    let a := EngOp.farAddr o p
    match s.place o.own a with
    | some (.pool va) =>
      match s.translate (s.phys o.own.job o.own.lcn) o.own.job va (EngOp.farUse o) with
      | .miss => some (p, a)
      | _ => none
    | _ => none

/-- Marks a position as one that stops the operation. Its requests that are not under way are dropped. -/
def EngOp.stopAt (o : EngOp) (p : Nat) (va : Word) (k : Nat) : EngOp :=
  { o with bads := o.bads.set p (va, k), order := o.order.filter (· != p), flt := none
           reqs := o.reqs.filter fun x => x.2.pos != some p || x.2.st != .want }

/-- The end of a batch: the next batch, or the stop at the first position that was not delivered. -/
def State.batchEnd (s : State) (o : EngOp) (j c : Nat) : State :=
  match o.bads with
  | [] =>
    (s.modOp j c false o.id fun o => { o with pos := min (o.pos + 64) o.count, phase := 0, got := [], wrote := [] }).later 0
      (.gatherBatch j c o.id none)
  | (n, va, k) :: _ => (s.modOp j c false o.id fun o => { o with pos := n }).stopBad o j c false va k

/-- The positions of the batch in hand up to the first bad one. -/
def EngOp.batch (o : EngOp) : List Nat :=
  let e := min (o.pos + 64) o.count
  ((List.range (e - o.pos)).map (o.pos + ·)).filter fun p => o.bads.all fun (q, _, k) => q != p && (k != 0 || decide (p < q))

/-- A move whose requests have all been answered goes on: from its reads to its writes, or out of hand, counted as
delivered (R304). -/
def EngOp.settle (o : EngOp) (p i : Nat) : EngOp :=
  let mine (q : EngReq) : Bool := q.pos == some p && q.mv == i
  let qs := (o.reqs.map Prod.snd).filter mine
  let rest : Map EngReq := o.reqs.filter fun x => !mine x.2
  if qs.isEmpty || qs.any fun q => q.st != .done then o
  else if qs.any fun q => q.wr then
    let n := (qs.map EngReq.len).sum
    if ((EngOp.moves o p)[i]?).any fun m => m.2.2 == n then { o with reqs := rest, rows := o.rows + 1, rowb := o.rowb + n }
    else { o with reqs := rest }
  else if (o.bads.get? p).isSome then { o with reqs := rest }
  else EngOp.addReqs { o with reqs := rest } (EngOp.posWrites o p i)

/-- The moves in hand, as position and move. -/
def EngOp.inHand (o : EngOp) : List (Nat × Nat) :=
  (o.reqs.filterMap fun x => x.2.pos.map fun p => (p, x.2.mv)).eraseDups

/-- The list position that an address of a request in hand belongs to. -/
def EngOp.posOf (o : EngOp) (va : Word) : Nat :=
  ((o.reqs.find? fun x => x.2.addr == va && x.2.st == .want).bind fun x => x.2.pos).getD o.pos

/-- Tries what a gather wants. -/
def State.gatherGo (s : State) (j c id : Nat) : State :=
  match s.op? j c false id with
  | none => s
  | some o =>
    match s.tryReqs j c false id o.reqs with
    | .going s => s
    | .bad s va k =>
      let p := EngOp.posOf o va
      ((s.dropWanted j c false id fun q => q.pos == some p).modOp j c false id fun o => EngOp.stopAt o p va k).later 0
        (.gatherBatch j c id none)

/-- Work of the gather unit on the elements of a batch: one new position a cycle, at most 64 requests out, until all are
done. -/
def State.gatherMove (s : State) (o : EngOp) (j c : Nat) : State :=
  let s := s.modOp j c false o.id fun o => (EngOp.inHand o).foldl (fun o x => EngOp.settle o x.1 x.2) o
  match s.op? j c false o.id with
  | none => s
  | some o =>
    match o.order with
    | [] => if o.reqs.isEmpty then s.batchEnd o j c else s.gatherGo j c o.id
    | p :: rest =>
      if s.cyc < o.begun || decide (64 ≤ o.reqs.length) then s.gatherGo j c o.id
      else
        ((s.modOp j c false o.id fun o =>
          EngOp.addReqs { o with order := rest, begun := s.cyc + 1 } (EngOp.posReads o p)).gatherGo j c o.id).later 1
          (.gatherBatch j c o.id none)

/-- Work of the gather unit on an operation: the boundary before a batch, at which a vacated cluster's unit stands still
(R253), its list, the translation of its pages, and its elements. -/
def State.gatherWork (s : State) (o : EngOp) (j c : Nat) : State :=
  let again (s : State) : State := s.later 0 (.gatherBatch j c o.id none)
  let mod (s : State) (f : EngOp → EngOp) : State := s.modOp j c false o.id f
  match o.phase with
  | 0 =>
    if o.reqs.isEmpty then
      if (s.carrier j c).isNone then s
      else if o.cancel then s.stopOp j c false o.id 5
      else if o.count ≤ o.pos then s.stopOp j c false o.id 0
      else
        let (a, n) := EngOp.indexAt o o.pos
        (mod s fun o => EngOp.addReqs o (moveReqs false a (n * min 64 (o.count - o.pos)) none 0 [])).gatherGo j c o.id
    else if o.reqs.all fun x => x.2.st == .done then again (mod s fun o => { o with phase := 1, got := EngOp.indices o, reqs := [] })
    else s.gatherGo j c o.id
  | 1 =>
    match o.flt with
    | some (va, wr, x) =>
      match s.untranslated o (EngOp.batch o) with
      | some (p, _) => again (mod s fun o => EngOp.stopAt o p va (fltCode wr x))
      | none => again (mod s fun o => { o with flt := none })
    | none =>
      let bad := (EngOp.batch o).findSome? fun p => (s.badPos o p).map fun a => (p, a)
      match bad with
      | some (p, a) => again (mod s fun o => { o with bads := o.bads.set p (a, 0) })
      | none =>
        match s.untranslated o (EngOp.batch o) with
        | some (p, a) =>
          if s.walks.any fun x => x.2.eng == some o.h then s
          else
            s.startWalk { own := o.own, pc := o.pc, va := a, write := o.kind == .scat, atomic := false, exec := false,
                          post := none, eng := some o.h }
        | none => again (mod s fun o => { o with phase := 2, order := s.binned o (EngOp.batch o) })
  | _ =>
    match o.flt with
    | some (va, wr, x) =>
      let p := EngOp.posOf o va
      again ((s.dropWanted j c false o.id fun q => q.pos == some p).modOp j c false o.id fun o => EngOp.stopAt o p va (fltCode wr x))
    | none => s.gatherMove o j c

/-- GATHER_BATCH: work on an operation, or the next stage of one of its requests. -/
def execGatherBatch (job clu : Nat) (u : Turn) (s : State) : Host.Outcome State Fault Refusal :=
  match s.op? job clu false u.id with
  | none => .next s
  | some o =>
    if !o.active then .next s
    else
      match u.req with
      | none => .next (s.gatherWork o job clu)
      | some r =>
        match o.reqs.get? r with
        | some q => .next (s.reqTurn o job clu false r q)
        | none => .next s

/-- Adds to a counter of a prompter (R304). -/
def Prompter.count (p : Prompter) (i n : Nat) : Prompter := { p with counters := p.counters.set i (p.counters.getD i 0 + w64 n) }

/-- Writes the restart position back: START, FPOS or RPOS (R251, R303). -/
def State.writeStart (s : State) (o : EngOp) (n : Nat) : State × Nat × Bool :=
  let a := o.blk + (if o.kind = .pfetch then (if o.replay then 60 else 56) else 28)
  match s.place o.own a with
  | some (.scratch l off) => s.scrWrite o.own.job l off (leBytes 4 n)
  | _ => (s, 0, false)

/-- GATHER_RESOLVE: a stop first writes the restart position back. A `pfetch` counts the rows and bytes that it has delivered
(R303, R304). -/
def execGatherResolve (job clu id : Nat) (s : State) : Host.Outcome State Fault Refusal :=
  match s.op? job clu false id with
  | none => .next s
  | some o =>
    match o.stop with
    | none => .next s
    | some st =>
      let s := if o.kind = .pfetch then
          s.modClu job clu fun q => { q with prm := (q.prm.count 5 o.rows).count 6 o.rowb }
        else s
      if st = 0 then .next (s.finishOp o job clu false 0 o.count)
      else
        let (s, g, u) := s.writeStart o o.pos
        .next (s.finishOp { o with guardHit := o.guardHit || g != 0, subst := o.subst || u } job clu false st.toNat o.pos)

/-- The verdict on an operation's record (R376): PARTIAL when served, else XLAT or PROT. -/
def State.verdictEng (s : State) (h : HRef) (serve : Bool) (c : Cause) : State :=
  let j := h.own.job
  let k := (s.job j).cluOf h.own.lcn
  let q := s.clu j k
  match (q.copyQ ++ q.gathQ).find? fun o => o.h == h with
  | none => s
  | some o =>
    let cp := o.kind.isCopy
    (s.modOp j k cp o.id fun o => { o with stop := some (if serve then 11 else if c = .prot then 4 else 3) }).later 0
      (resolveEvent j k cp o.id)

end Sys2Proof.Machine
end

