-- ==== Sys2Proof/Machine/Prompter.lean ====
section
/-!
DEFINITION. The prompter, class 0xB (R293 to R306): the layer block, `pcfg`, `pplan` with its scores, bounds and selection,
`pfetch` and `pstat`.
-/

set_option linter.unusedVariables false

namespace Sys2Proof.Machine

/-! ### The cluster window -/

/-- Every byte of a window range lies below F of its member (R294). -/
def Job.windowOk (b : Job) (wo n : Nat) : Bool :=
  decide (wo + n ≤ 8 * 2 ^ 21) && (decide (wo % 2 ^ 21 + n ≤ b.foot) || b.foot == 2 ^ 21)

/-- The window offset of an address in space 0xA, if it has that form. -/
def windowOf (a : Word) : Option Nat := if bitsOf a 60 4 = 0xA && bitsOf a 24 36 = 0 then some (bitsOf a 0 24) else none

/-- Reads a window range: bytes, guard hits, substituted data. -/
def State.winRead (s : State) (j c wo n : Nat) : State × List Byte × Nat × Bool :=
  (cutAt 8 wo n (n / 8 + 2)).foldl
    (fun (s, bs, g, u) (a, k) =>
      let (s, p) := s.scrLoad j ((s.job j).lcnOf c (a / 2 ^ 21)) (a % 2 ^ 21) k
      (s, bs ++ leBytes k p.val, g + p.guard.toNat, u || p.subst))
    (s, [], 0, false)

/-- Writes a window range: guard hits, substituted data (R182, R202). -/
def State.winWrite (s : State) (j c wo : Nat) (bs : List Byte) : State × Nat × Bool :=
  (cutAt 8 wo bs.length (bs.length / 8 + 2)).foldl
    (fun (s, g, u) (a, k) =>
      let (s, p) := s.scrStore j ((s.job j).lcnOf c (a / 2 ^ 21)) (a % 2 ^ 21) k (leNat ((bs.drop (a - wo)).take k))
      (s, g + p.guard.toNat, u || p.subst)) (s, 0, false)

/-- What a write of a window range meets: a word that discards it, and a word beyond correction of which it writes a part. -/
def State.winMeets (s : State) (j c wo n : Nat) : Bool × Bool :=
  let l (a : Nat) : Nat := (s.job j).lcnOf c (a / 2 ^ 21)
  let ws := cutAt 8 wo n (n / 8 + 2)
  (ws.any fun (a, k) => s.closed j (l a) (a % 2 ^ 21) k,
    ws.any fun (a, k) =>
      k != 8 && !s.closed j (l a) (a % 2 ^ 21) k &&
        (s.pcore (s.phys j (l a))).ecc.get? ((s.seg j (l a) + a % 2 ^ 21) / 8) == some .double)

/-! ### The layer block (R294, R296) -/

/-- A window address field of a block: well formed, aligned, and its whole range below F. -/
def Job.windowField (b : Job) (a : Nat) (al n : Nat) : Bool :=
  match windowOf (w64 a) with
  | some wo => wo % al == 0 && b.windowOk wo n
  | none => false

/-- A row size field. -/
def rowSizeOk (n : Nat) : Bool := n % 64 == 0 && decide (64 ≤ n) && decide (n ≤ 65536)

/-- The offset of the first field of a layer block that breaks R294. -/
def Job.badLayer (b : Job) (blk : List Byte) : Option Nat :=
  let f := fieldOf blk
  let n := f 0 4
  let r := f 4 2
  if n = 0 || 16384 < n then some 0
  else if !([16, 32, 48, 64].contains r) then some 4
  else if f 6 1 = 0 then some 6
  else if f 7 1 != 0 then some 7
  else if !b.windowField (f 8 8) 8 (n * (r + 8)) then some 8
  else if f 24 8 / 2 ^ 48 != 0 then some 24
  else if f 32 8 / 2 ^ 48 != 0 then some 32
  else if !rowSizeOk (f 40 4) then some 40
  else if !rowSizeOk (f 44 4) then some 44
  else if !b.windowField (f 48 8) 64 (64 + 8 * n) then some 48
  else if f 56 4 % 64 != 0 || b.foot ≤ f 56 4 then some 56
  else if f 60 4 % 64 != 0 || b.foot ≤ f 60 4 then some 60
  else none

/-- `pcfg`. -/
def execPcfg (g : Gd) (a : SReg) (s : State) : Host.Outcome State Fault Refusal :=
  s.guarded g fun s =>
    let w := s.cur
    let b := s.job w.job
    let va := s.rd w a
    match s.checkPlace w true false 1 va with
    | .error c => s.trap w c va 0
    | .ok (.scratch l off) =>
      if bitsOf va 60 4 != 0xA then s.trap w .addr va 0
      else if va.toNat % 64 != 0 then s.trap w .align va 0
      else
        s.atBlock w l off 64 fun s =>
          let (s, blk) := s.readBlock w va l off 64
          match b.badLayer blk with
          | some o => s.trap w .addr va (w64 o)
          | none =>
            let d := 12 + s.flight w.job .req w.lcn l + s.flight w.job .rsp l w.lcn
            ((s.later (d + 4) (.pcfgApply w va blk)).modThread w fun t =>
              { t with accAt := max t.accAt (s.cyc + d + 4) }).advance w
    | .ok _ => s.trap w .addr va 0

/-- PCFG_APPLY: the copy becomes the cluster's CFG. The job may have waited for that alone (R112). -/
def execPcfgApply (w : Tid) (adr : Word) (blk : List Byte) (s : State) : Host.Outcome State Fault Refusal :=
  let s := s.modClu w.job ((s.job w.job).cluOf w.lcn) fun q => { q with prm := { q.prm with cfg := some blk, adr := adr } }
  .next (s.checkDone w.job)

end Sys2Proof.Machine

namespace Sys2Proof

/-! ### Scores and bounds (R297) -/

/-- A signed byte. -/
def byteInt (b : Byte) : Int := bitsInt 8 b.toNat

/-- The i32 score of a row. -/
def score (q z : List Byte) : Int := ((q.zip z).map fun (a, b) => byteInt a * byteInt b).sum

/-- p of a score: RNE_f32(α·s). -/
def scoreF32 (alpha : Nat) (s : Int) : Nat × FlagBits :=
  let (v, f) := (Ty.f32.value alpha).mul (FVal.ofInt s)
  let (p, g) := Ty.f32.roundV .rne v
  (p, f ||| g)

/-- The exact sum of values without NaNs; none when infinities of both signs meet. -/
def sumVals (l : List FVal) : Option FVal :=
  let pos := l.any fun v => v == .inf false
  let neg := l.any fun v => v == .inf true
  if pos && neg then none
  else if pos then some (.inf false)
  else if neg then some (.inf true)
  else
    let d : Dy := l.foldl (fun (d : Dy) (v : FVal) => d.add v.dy) ⟨0, 0⟩
    some (.fin (d.n < 0) d.n.natAbs d.q)

/-- b of a skipped row: +∞ with IV in a NaN case. -/
def rowBound (p rho cact nu : Nat) : Nat × FlagBits :=
  let vs := [p, rho, cact].map Ty.f32.value
  let n := match Ty.f32.value nu with
    | .fin _ m q => FVal.fin false m q
    | .inf _ => .inf false
    | v => v
  if vs.any FVal.isNan || n.isNan then (Ty.f32.infBits false, fIV)
  else
    match sumVals vs with
    | none => (Ty.f32.infBits false, fIV)
    | some t =>
      let (u, f) := (if t.neg then FVal.fin false 0 0 else t).mul n
      if u.isNan then (Ty.f32.infBits false, fIV) else Ty.f32.roundV .rne u

/-- The a80 sum of bounds in ascending order of rows. -/
def boundSum (l : List (Nat × Nat)) : Nat × FlagBits :=
  l.foldl (fun (acc, f) x => let (r, g) := Ty.a80.addV .rne (Ty.a80.value acc) (Ty.f32.value x.2); (r, f ||| g)) (0, 0)

/-- Rem ≤ Bud, exactly; false on a NaN. -/
def within (rem bud : Nat) : Bool :=
  let a := Ty.a80.value rem
  let b := Ty.f32.value bud
  !a.isNan && !b.isNan && (a.lt b || a.eqv b)

/-- The selection loop: `order` is what may still be moved, `skip` what is skipped. The result is the rows moved, in the order
of moving, the rows left, Rem and the flags. -/
def selectRows (bud : Nat) : List Nat → List (Nat × Nat) → Nat × FlagBits → List Nat → List Nat × List (Nat × Nat) × Nat × FlagBits
  | [], skip, (rem, f), acc => (acc.reverse, skip, rem, f)
  | j :: order, skip, (rem, f), acc =>
    if within rem bud then (acc.reverse, skip, rem, f)
    else
      let skip := skip.filter fun x => x.1 != j
      let (r, g) := boundSum skip
      selectRows bud order skip (r, f ||| g) (j :: acc)

/-- EREM rounded up to f32 with a 15-bit fraction, as bits [31:8] of the pattern (R299). -/
def eremBits (rem : Nat) : Nat :=
  match Ty.a80.value rem with
  | .fin _ m q =>
    let qu := max (q + (bitLen m : Int) - 16) (-141)
    let (r, _) := roundAt .rup false m q false qu
    (Ty.f32.round .rup false false r qu false).1 / 256
  | .inf _ => Ty.f32.infBits false / 256
  | .nan _ => Ty.f32.canonNan / 256

/-- What a plan selects. -/
structure Selection where
  fetch : List Nat
  replay : List Nat
  skipped : Nat
  miss : Bool
  eall : Nat
  erem : Nat
  flags : FlagBits
deriving DecidableEq, Repr

/-- The computation of R297 over a table and z. -/
def planSelect (n r alpha cact tau bud : Nat) (table z : List Byte) : Selection :=
  let row (j : Nat) : List Byte := (table.drop (j * (r + 8))).take (r + 8)
  let step (acc : List Nat × List (Nat × Nat) × FlagBits) (j : Nat) : List Nat × List (Nat × Nat) × FlagBits :=
    let e := row j
    let (p, f) := scoreF32 alpha (score (e.take r) z)
    let (ge, g) := fCmp .f32 .ge p tau
    if ge then (acc.1 ++ [j], acc.2.1, acc.2.2 ||| f ||| g)
    else
      let (b, h) := rowBound p (Machine.leNat ((e.drop r).take 4)) cact (Machine.leNat ((e.drop (r + 4)).take 4))
      (acc.1, acc.2.1 ++ [(j, b)], acc.2.2 ||| f ||| g ||| h)
  let (fetch, skip, f) := (List.range n).foldl step ([], [], 0)
  let (eall, g) := boundSum skip
  let order := (Machine.sortBy (fun x => (2 ^ 32 - x.2) * 2 ^ 14 + x.1) skip).map Prod.fst
  let (moved, left, rem, h) := selectRows bud order skip (eall, 0) []
  { fetch := fetch, replay := Machine.sortBy id moved, skipped := left.length, miss := !within rem bud, eall := eall, erem := rem
    flags := f ||| g ||| h }

end Sys2Proof

namespace Sys2Proof.Machine

/-! ### `pplan` (R297 to R301) -/

/-- Entries in a prompter's queue: plans that have reached it and wait. -/
def Prompter.waiting (p : Prompter) (cyc : Nat) : Nat := (p.queue.filter fun q => !q.active && decide (q.since ≤ cyc)).length

/-- `pplan`. -/
def execPplan (g : Gd) (d : HReg) (a b : SReg) (s : State) : Host.Outcome State Fault Refusal :=
  s.guarded g fun s =>
    let w := s.cur
    let j := s.job w.job
    let c := j.cluOf w.lcn
    let prm := (s.clu w.job c).prm
    let z := s.rd w a
    match prm.cfg with
    | none => s.trap w .addr 0 0x40
    | some cfg =>
      match s.checkPlace w true false 1 z with
      | .error cs => s.trap w cs z 0
      | .ok (.scratch l off) =>
        if j.cluOf l != c || j.foot < off + fieldOf cfg 4 2 then s.trap w .addr z 0
        else if z.toNat % 16 != 0 then s.trap w .align z 0
        else if !s.placeFor w 102 (prm.queue.filter fun q => !q.active).length 16 then s.park w .engq 3 false .reissue
        else
          s.withHandle w d .plan fun h s =>
            let p : Plan :=
              { own := w, since := s.cyc + 4, h := h, z := z, tau := (s.rd w b).truncate 32, bud := ((s.rd w b) >>> 32).truncate 32
                cfg := cfg, active := false, word := 0, miss := false, flags := 0 }
            let s := (s.spend w 102).modClu w.job c fun q => { q with prm := { q.prm with queue := q.prm.queue ++ [p] } }
            ((s.later 4 (.pplanRun w.job c)).modThread w fun t => { t with accAt := max t.accAt (s.cyc + 4) }).advance w
      | .ok _ => s.trap w .addr z 0

/-- The header of the list area (R298). -/
def listHeader (x : Selection) (n : Nat) (hflg : Nat) (tau bud : BitVec 32) : List Byte :=
  leBytes 4 x.fetch.length ++ leBytes 4 x.replay.length ++ leBytes 4 x.skipped ++ leBytes 4 hflg ++ leBytes 16 x.eall ++
    leBytes 16 x.erem ++ leBytes 4 tau.toNat ++ leBytes 4 bud.toNat ++ leBytes 8 0

/-- The reads and the selection of a plan: it leaves the word, the flags and what is to be written in the plan; the number is
the cycles until the list is written (R297 to R301). -/
def State.runPlan (s : State) (j c : Nat) (p : Plan) : State × Plan × Nat :=
  let f := fieldOf p.cfg
  let n := f 0 4
  let r := f 4 2
  let (s, z, g1, u1) :=
    match s.place p.own p.z with
    | some (.scratch l off) => s.scrRead j l off r
    | _ => (s, List.replicate r 0, 0, false)
  let (s, tab, g2, u2) := s.winRead j c (f 8 8 % 2 ^ 24) (n * (r + 8))
  let x := planSelect n r (f 16 4) (f 20 4) p.tau.toNat p.bud.toNat tab z
  let lo := f 48 8 % 2 ^ 24
  let nf := x.fetch.length
  let nr := x.replay.length
  let grd := g1 != 0 || g2 != 0
  let sub := u1 || u2
  let hdr := listHeader x n (x.miss.toNat + sub.toNat * 2 + grd.toNat * 4) p.tau p.bud
  let out := [(lo, hdr ++ x.fetch.flatMap fun i => leBytes 4 i), (lo + 64 + 4 * n, x.replay.flatMap fun i => leBytes 4 i)]
  let word := w64 ((if grd then 2 else 0) + nf * 2 ^ 8 + nr * 2 ^ 24 + eremBits x.erem * 2 ^ 40)
  (s, { p with active := true, out := out, begun := false, word := word, miss := x.miss, flags := x.flags ||| flagIf sub fSB },
    16 + n * ((r + 8 + 63) / 64) + x.skipped + nr + 8 * nr)

/-- The writes of a plan's list, made now: what they meet goes into HFLG, the completion word and the flags (R300). -/
def State.writeList (s : State) (j c : Nat) (p : Plan) : State × Plan :=
  let ms := p.out.map fun (a, bs) => s.winMeets j c a bs.length
  let grd := ms.any Prod.fst
  let sub := ms.any Prod.snd
  let mark (x : Byte) : Byte := x ||| BitVec.ofNat 8 (sub.toNat * 2 + grd.toNat * 4)
  let out := p.out.mapIdx fun i w => if i = 0 then (w.1, w.2.mapIdx fun k x => if k = 12 then mark x else x) else w
  (out.foldl (fun s (a, bs) => (s.winWrite j c a bs).1) s,
    { p with out := [], begun := true, word := p.word ||| (if grd then 2 else 0), flags := p.flags ||| flagIf sub fSB })

/-- Changes a plan. -/
def State.modPlan (s : State) (j c : Nat) (h : HRef) (f : Plan → Plan) : State :=
  s.modClu j c fun q => { q with prm := { q.prm with queue := q.prm.queue.map fun p => if p.h = h then f p else p } }

/-- The next step of the active plan is due `d` cycles from now. -/
def State.planLater (s : State) (j c : Nat) (h : HRef) (d : Nat) : State :=
  (s.modPlan j c h fun p => { p with due := s.cyc + d }).later d (.pplanResolve j c)

/-- The plan of a logical cluster that its prompter takes next: one that a vacate has interrupted, else round-robin by member
and thread (R301, R306). -/
def State.nextPlan (s : State) (j c : Nat) : Option (Plan × Map Nat) :=
  let b := s.job j
  let prm := (s.clu j c).prm
  let key (p : Plan) : Nat × Nat := (b.memOf p.own.lcn, p.own.thr)
  let ready := prm.queue.filter fun p => !p.active && decide (p.since ≤ s.cyc)
  match ready.find? fun p => p.due != 0 with
  | some p => some (p, prm.rr)
  | none => (roundRobin prm.rr (ready.map key)).bind fun (k, rr) => (ready.find? fun p => key p == k).map fun p => (p, rr)

/-- A plan is active in a logical cluster. -/
def State.planActive (s : State) (j c : Nat) : Bool := (s.clu j c).prm.queue.any fun p => p.active

/-- The prompter of a physical cluster, if it is idle, takes the next plan of the logical clusters that it carries (R11, R301,
R385). -/
def State.kickPlan (s : State) (j c : Nat) : State :=
  match s.carrier j c with
  | none => s
  | some (p, _) =>
    if (s.carriedBy p).any (s.planActive j) then s
    else
      match s.foldTurn p 2 fun c => (s.nextPlan j c).isSome with
      | none => s
      | some c =>
        match s.nextPlan j c with
        | none => s
        | some (x, rr) =>
          let (s, x', d) := s.runPlan j c x
          let s := (s.modPlan j c x.h fun _ => x').modClu j c fun q => { q with prm := { q.prm with rr := rr } }
          ((s.tookTurn p 2 c).passPlace j c 102 3).planLater j c x.h d

/-- PPLAN_RUN: an idle prompter takes its next plan. -/
def execPplanRun (job clu : Nat) (s : State) : Host.Outcome State Fault Refusal := .next (s.kickPlan job clu)

/-- PPLAN_RESOLVE: the active plan's list is written, or it has been: the handle resolves and the counters advance (R299, R304).
A plan whose cluster has been vacated before it writes its list waits to be restarted (R306). -/
def execPplanResolve (job clu : Nat) (s : State) : Host.Outcome State Fault Refusal :=
  match (s.clu job clu).prm.queue.find? fun p => p.active && p.due == s.cyc with
  | none => .next s
  | some p =>
    let nf := bitsOf p.word 8 16
    let nr := bitsOf p.word 24 16
    let n := fieldOf p.cfg 0 4
    if !p.begun then
      if (s.carrier job clu).isNone then .next s
      else
        let (s, p') := s.writeList job clu p
        .next ((s.modPlan job clu p.h fun _ => p').planLater job clu p.h ((64 + 4 * (nf + nr) + 63) / 64 + 8))
    else
      let s := s.modClu job clu fun q =>
        let m := ((((q.prm.count 0 1).count 1 n).count 2 nf).count 3 nr).count 4 p.miss.toNat
        { q with prm := { m with queue := m.queue.filter fun x => x.h != p.h } }
      .next ((s.resolve 0 p.h p.word p.flags).later 0 (.pplanRun job clu))

/-! ### `pfetch` (R302) and `pstat` (R304) -/

/-- The field of the first destination that reaches F, for the positions from `pos` to `cnt` − 1. -/
def Job.destFault (b : Job) (o : EngOp) : Option Nat :=
  let f := fieldOf o.cfg
  ((List.range (o.count - o.pos)).map (o.pos + ·)).findSome? fun p =>
    let gp := if o.replay then 32 * ((o.nf + 31) / 32) + p else p
    let row := 32 * (tileHome (f 6 1) (gp / 32)).2 + gp % 32
    if o.wm.getLsbD 0 && b.foot < f 56 4 + (row + 1) * f 40 4 then some 56
    else if o.wm.getLsbD 1 && b.foot < f 60 4 + (row + 1) * f 44 4 then some 60
    else none

/-- `pfetch`. -/
def execPfetch (g : Gd) (replay : Bool) (wm : BitVec 2) (d : HReg) (a : SReg) (s : State) :
    Host.Outcome State Fault Refusal :=
  s.guarded g fun s =>
    let w := s.cur
    let b := s.job w.job
    let va := s.rd w a
    match (s.clu w.job (b.cluOf w.lcn)).prm.cfg with
    | none => s.trap w .addr 0 0x40
    | some cfg =>
      match windowOf va, s.checkPlace w true false 1 va with
      | some wo, .ok (.scratch l off) =>
        if !b.windowOk wo 64 then s.trap w .addr va 0
        else
         s.atBlock w l off (min 64 (2 ^ 21 - off)) fun s =>
          let (s', hdr, gh, u) := s.winRead w.job (b.cluOf w.lcn) wo 64
          let n := fieldOf cfg 0 4
          let nf := fieldOf hdr 0 4
          let nr := fieldOf hdr 4 4
          let cnt := if replay then nr else nf
          let po := if replay then 60 else 56
          let pos := fieldOf hdr po 4
          let list := wo + 64 + (if replay then 4 * n else 0)
          let s := (s'.markGuard w gh va).setFlags w (flagIf u fSB)
          let o : EngOp :=
            { (default : EngOp) with
              kind := .pfetch, blk := va, idx := w64 (0xA * 2 ^ 60 + list), replay := replay, wm := wm, nf := nf
              cfg := cfg, count := cnt, pos := pos }
          if !b.windowOk list (4 * cnt) then s.trap w .addr va 0
          else if va.toNat % 64 != 0 then s.trap w .align va 0
          else if n < nf + nr then s.trap w .addr va (if n < nf then 0 else 4)
          else if cnt < pos then s.trap w .addr va (w64 po)
          else
            match b.destFault o with
            | some e => s.trap w .addr va (w64 e)
            | none => s.enqueueEng w d o
      | _, .error c => s.trap w c va 0
      | _, _ => s.trap w .addr va 0

/-- `pstat`. -/
def execPstat (g : Gd) (d : SReg) (imm : BitVec 32) (s : State) : Host.Outcome State Fault Refusal :=
  s.guarded g fun s =>
    let prm := (s.clu s.cur.job ((s.job s.cur.job).cluOf s.cur.lcn)).prm
    s.result 8 d
      (match imm.toNat with
       | 7 => w64 (prm.waiting s.cyc)
       | 8 => prm.adr
       | n => if n < 7 then prm.counters.getD n 0 else 0)

end Sys2Proof.Machine
end

