-- ==== Sys2Proof/Machine/Dd.lean ====
section
/-!
DEFINITION. The decision-diagram engine, class 0xC (R308 to R333): configuration, the node store and its catalogue, the
command queue, the operations and commands at their turn, and the counters. An operation is computed as a whole when the
engine takes it; its duration (R329) and the times of its events are kept apart from its effect (log 45).
-/

set_option linter.unusedVariables false

namespace Sys2Proof.Machine

/-! ### The configuration block (R310, R311) -/

/-- The configuration that a block holds. -/
def ddParse (blk : List Byte) (adr : Word) : DdCfg :=
  let f := fieldOf blk
  { nodes := f 0 4, noden := f 4 4, buck := f 8 4, blog := f 12 1, clog := f 13 1, varn := f 14 2, cache := f 16 4,
    wtab := f 20 4, stk := f 24 4, adr := adr }

/-- The five areas in the order in which they are checked: offset of the field, window offset, length. -/
def DdCfg.parts (c : DdCfg) : List (Nat × Nat × Nat) :=
  [(0, c.nodes, 16 * c.noden), (8, c.buck, 4 * 2 ^ c.blog), (16, c.cache, 32 * 2 ^ c.clog), (20, c.wtab, 65520),
    (24, c.stk, 262144)]

/-- The first area that runs beyond F or meets an area before it. -/
def Job.badArea (b : Job) (seen : List (Nat × Nat)) : List (Nat × Nat × Nat) → Option Nat
  | [] => none
  | (o, a, n) :: t =>
    if !b.windowOk a n || seen.any fun (x, m) => decide (a < x + m) && decide (x < a + n) then some o
    else b.badArea ((a, n) :: seen) t

/-- The offset of the first field of a block that breaks R310. -/
def Job.badDd (b : Job) (blk : List Byte) : Option Nat :=
  let f := fieldOf blk
  let off (o al : Nat) : Bool := f o 4 % al != 0 || decide (2 ^ 24 ≤ f o 4)
  if off 0 16 then some 0
  else if f 4 4 < 3 || 786432 < f 4 4 then some 4
  else if off 8 4 then some 8
  else if f 12 1 < 4 || 20 < f 12 1 then some 12
  else if f 13 1 < 4 || 16 < f 13 1 then some 13
  else if 4095 < f 14 2 then some 14
  else if off 16 32 then some 16
  else if off 20 16 then some 20
  else if off 24 64 then some 24
  else if (blk.drop 28).any (· != 0) then some 28
  else b.badArea [] (ddParse blk 0).parts

/-! ### The engine at work -/

/-- Why an operation stops (R317). -/
inductive DdStop where
  | full
  | abort (reason : Nat)
deriving DecidableEq, Repr

/-- An operation in the engine: the machine, its cluster, the cycles spent, the nodes it created (latest first), the nodes
whose counts it raised, the cache entries it wrote, its flags, and the first guarded window offset met. -/
structure DdRun where
  s : State
  j : Nat
  c : Nat
  cost : Nat := 8
  made : List Nat := []
  raised : List Nat := []
  wrote : List Nat := []
  flags : FlagBits := 0
  hit : Option Nat := none

/-- A computation of the engine. -/
abbrev DdM := EStateM DdStop DdRun

/-- The engine of an operation's cluster. -/
def DdRun.dde (r : DdRun) : Dde := (r.s.clu r.j r.c).dde

/-- Changes the engine of a logical cluster. -/
def State.modDde (s : State) (j c : Nat) (f : Dde → Dde) : State := s.modClu j c fun q => { q with dde := f q.dde }

/-- Spends cycles. -/
def ddSpend (n : Nat) : DdM Unit := modify fun r => { r with cost := r.cost + n }

/-- Changes the engine. -/
def ddMod (f : Dde → Dde) : DdM Unit := modify fun r => { r with s := r.s.modDde r.j r.c f }

/-- Reads `n` bytes of one word at a window offset. -/
def ddPort (p n : Nat) : DdM Port := do
  let r ← get
  let (s, q) := r.s.scrLoad r.j ((r.s.job r.j).lcnOf r.c (p / 2 ^ 21)) (p % 2 ^ 21) n
  set { r with s := s, hit := r.hit.or (if q.guard then some p else none) }
  return q

/-- Reads a word of a locked area; one beyond correction stops the operation (R333). -/
def ddRead (p n : Nat) : DdM Nat := do
  let q ← ddPort p n
  if q.subst then throw (.abort 7)
  return q.val

/-- Writes `n` bytes of one word at a window offset. -/
def ddWrite (p n v : Nat) : DdM Unit :=
  modify fun r =>
    let (s, g) := r.s.ddStore r.j ((r.s.job r.j).lcnOf r.c (p / 2 ^ 21)) (p % 2 ^ 21) n v
    { r with s := s, hit := r.hit.or (if g then some p else none) }

/-! ### Nodes (R313) -/

/-- The fields of a node. -/
structure DdNode where
  var : Nat
  ref : Nat
  high : Nat
  low : Nat
  chain : Nat
deriving DecidableEq, Repr

/-- VAR of a terminal and of a free node. -/
def ddNoVar : Nat := 0xFFF
/-- REF of a pinned node. -/
def ddPin : Nat := 0xFFFFF

/-- The two words of a node. -/
def DdNode.words (n : DdNode) : Nat × Nat := (n.chain + n.low * 2 ^ 32, n.high + n.ref * 2 ^ 32 + n.var * 2 ^ 52)

/-- The node of two words. -/
def DdNode.ofWords (a b : Nat) : DdNode :=
  { var := b / 2 ^ 52 % 2 ^ 12, ref := b / 2 ^ 32 % 2 ^ 20, high := b % 2 ^ 32, low := a / 2 ^ 32 % 2 ^ 32, chain := a % 2 ^ 32 }

/-- Reads a node. -/
def ddNode (k : DdCfg) (n : Nat) : DdM DdNode := do
  let a ← ddRead (k.nodes + 16 * n) 8
  let b ← ddRead (k.nodes + 16 * n + 8) 8
  return .ofWords a b

/-- Writes a node. -/
def ddPut (k : DdCfg) (n : Nat) (x : DdNode) : DdM Unit := do
  ddWrite (k.nodes + 16 * n) 8 x.words.1
  ddWrite (k.nodes + 16 * n + 8) 8 x.words.2

/-- LEV: the level of a variable (R314). -/
def Dde.levOf (d : Dde) (v : Nat) : Nat := d.lev.getD v v
/-- VAR: the variable at a level. -/
def Dde.varAt (d : Dde) (l : Nat) : Nat := d.var.getD l l

/-- The level of a node: 4,095 for a terminal. -/
def ddLevel (k : DdCfg) (n : Nat) : DdM Nat := do
  if n < 2 then return 4095
  let x ← ddNode k n
  return (← get).dde.levOf x.var

/-- An operand must be a terminal or a live node (R317). -/
def ddCheck (k : DdCfg) (n : Nat) : DdM Unit := do
  if n < 2 then return ()
  if k.noden ≤ n then throw (.abort 1)
  let x ← ddNode k n
  if x.var = ddNoVar then throw (.abort 1)

/-! ### Counters (R328) -/

/-- A counter of an engine. -/
def Dde.counter (d : Dde) (i : Nat) : Word := d.counters.getD i 0
/-- Sets a counter. -/
def Dde.setCounter (d : Dde) (i : Nat) (v : Word) : Dde := { d with counters := d.counters.set i v }
/-- Advances a counter. -/
def Dde.count (d : Dde) (i : Nat) : Dde := d.setCounter i (d.counter i + 1)
/-- A node becomes live: LIVE, FREE and PEAK. -/
def Dde.liveUp (d : Dde) : Dde :=
  let v := d.counter 0 + 1
  ((d.setCounter 0 v).setCounter 1 (d.counter 1 - 1)).setCounter 2 (if d.counter 2 < v then v else d.counter 2)
/-- A node becomes free. -/
def Dde.liveDown (d : Dde) : Dde := (d.setCounter 0 (d.counter 0 - 1)).setCounter 1 (d.counter 1 + 1)

/-! ### The catalogue (R315) -/

/-- inc. -/
def ddInc (k : DdCfg) (n : Nat) : DdM Unit := do
  if n < 2 then return ()
  let x ← ddNode k n
  if x.ref = ddPin then return ()
  ddPut k n { x with ref := x.ref + 1 }
  modify fun r => { r with raised := n :: r.raised }

/-- The bucket of a node. -/
def DdCfg.bucket (k : DdCfg) (v h l : Nat) : Nat :=
  (((v * 0x9E3779B1) ^^^ (h * 0x85EBCA6B) ^^^ (l * 0xC2B2AE35)) % 2 ^ 32) >>> (32 - k.blog)

/-- Follows a chain to a node with the same variable and children. -/
def ddFind (k : DdCfg) (v h l : Nat) : Nat → Nat → DdM (Option Nat)
  | 0, _ => return none
  | fuel + 1, n => do
    if n = 0 then return none
    ddSpend 2
    let x ← ddNode k n
    if x.var = v && x.high = h && x.low = l then return some n
    ddFind k v h l fuel x.chain

/-- mk(v, h, l). -/
def ddMk (k : DdCfg) (v h l : Nat) : DdM Nat := do
  if h = l then return h
  let p := k.buck + 4 * k.bucket v h l
  let head ← ddRead p 4
  match ← ddFind k v h l k.noden head with
  | some n => return n
  | none =>
    let n := (← get).dde.freeHead
    if n = 0 then throw .full
    let x ← ddNode k n
    ddMod fun d => { d with freeHead := x.chain }.liveUp
    ddPut k n { var := v, ref := 0, high := h, low := l, chain := head }
    ddWrite p 4 n
    ddSpend 4
    modify fun r => { r with made := n :: r.made }
    ddInc k h
    ddInc k l
    return n

/-- Unlinks a node from the chain that begins in a bucket; `prev` is the node before `cur` (R324). -/
def ddUnlink (k : DdCfg) (p n : Nat) (next : Nat) : Nat → Nat → Nat → DdM Unit
  | 0, _, _ => return ()
  | fuel + 1, prev, cur => do
    if cur = 0 then return ()
    if cur = n then
      if prev = 0 then ddWrite p 4 next
      else
        let y ← ddNode k prev
        ddPut k prev { y with chain := next }
    else
      let y ← ddNode k cur
      ddUnlink k p n next fuel cur y.chain

/-! ### The operation cache (R320) -/

/-- The window offset of the entry of a key. -/
def DdCfg.entryAt (k : DdCfg) (key f g h : Nat) : Nat :=
  k.cache + 32 * (((((key * 0x9E3779B1) ^^^ (f * 0x85EBCA6B) ^^^ (g * 0xC2B2AE35) ^^^ (h * 0x27D4EB2F)) % 2 ^ 32)) >>>
    (32 - k.clog))

/-- Looks a key up. An uncorrectable word counts as a miss. -/
def ddLook (k : DdCfg) (key f g h : Nat) : DdM (Option Nat) := do
  let p := k.entryAt key f g h
  let a ← ddPort p 8
  let b ← ddPort (p + 8) 8
  let x ← ddPort (p + 16) 8
  let y ← ddPort (p + 24) 8
  let ok := !(a.subst || b.subst || x.subst || y.subst) && a.val == key + f * 2 ^ 32 && b.val == g + h * 2 ^ 32
  ddMod fun d => d.count (if ok then 4 else 5)
  if ok then
    ddSpend 4
    return some (x.val + y.val * 2 ^ 64)
  else return none

/-- Enters a result. -/
def ddEnter (k : DdCfg) (key f g h v : Nat) : DdM Unit := do
  let p := k.entryAt key f g h
  ddWrite p 8 (key + f * 2 ^ 32)
  ddWrite (p + 8) 8 (g + h * 2 ^ 32)
  ddWrite (p + 16) 8 (v % 2 ^ 64)
  ddWrite (p + 24) 8 (v / 2 ^ 64)
  modify fun r => { r with wrote := p :: r.wrote }

/-- Makes the entry at a window offset invalid. -/
def ddInvalid (p : Nat) : DdM Unit := do
  ddWrite p 8 0
  ddWrite (p + 8) 8 0
  ddWrite (p + 16) 8 0
  ddWrite (p + 24) 8 0

/-! ### The recursions of R319 -/

/-- More steps than any descent takes: one for each level. -/
def ddDepth : Nat := 4097

/-- cof(f, m). -/
def ddCof (k : DdCfg) (f m : Nat) : DdM (Nat × Nat) := do
  if f < 2 then return (f, f)
  let x ← ddNode k f
  return if (← get).dde.levOf x.var = m then (x.low, x.high) else (f, f)

/-- ap. -/
def ddAp (k : DdCfg) (tt : Nat) : Nat → Nat → Nat → DdM Nat
  | 0, _, _ => return 0
  | fuel + 1, f, g => do
    if f < 2 && g < 2 then
      ddSpend 4
      return (tt.testBit (2 * f + g)).toNat
    match ← ddLook k (tt * 16 + 1) f g 0 with
    | some r => return r
    | none =>
      ddSpend 8
      let m := min (← ddLevel k f) (← ddLevel k g)
      let (f0, f1) ← ddCof k f m
      let (g0, g1) ← ddCof k g m
      let lo ← ddAp k tt fuel f0 g0
      let hi ← ddAp k tt fuel f1 g1
      let r ← ddMk k ((← get).dde.varAt m) hi lo
      ddEnter k (tt * 16 + 1) f g 0 r
      return r

/-- it. -/
def ddIt (k : DdCfg) : Nat → Nat → Nat → Nat → DdM Nat
  | 0, _, _, _ => return 0
  | fuel + 1, f, g, h => do
    if f < 2 || g = h then
      ddSpend 4
      return if f = 0 then h else g
    match ← ddLook k 2 f g h with
    | some r => return r
    | none =>
      ddSpend 8
      let m := min (min (← ddLevel k f) (← ddLevel k g)) (← ddLevel k h)
      let (f0, f1) ← ddCof k f m
      let (g0, g1) ← ddCof k g m
      let (h0, h1) ← ddCof k h m
      let lo ← ddIt k fuel f0 g0 h0
      let hi ← ddIt k fuel f1 g1 h1
      let r ← ddMk k ((← get).dde.varAt m) hi lo
      ddEnter k 2 f g h r
      return r

/-- rs. -/
def ddRs (k : DdCfg) (u : Nat) (b : Bool) : Nat → Nat → DdM Nat
  | 0, f => return f
  | fuel + 1, f => do
    let lf ← ddLevel k f
    let lu := (← get).dde.levOf u
    if lu < lf then
      ddSpend 4
      return f
    let x ← ddNode k f
    if lf = lu then
      ddSpend 4
      return if b then x.high else x.low
    match ← ddLook k 3 f (u + b.toNat * 2 ^ 12) 0 with
    | some r => return r
    | none =>
      ddSpend 8
      let lo ← ddRs k u b fuel x.low
      let hi ← ddRs k u b fuel x.high
      let r ← ddMk k x.var hi lo
      ddEnter k 3 f (u + b.toNat * 2 ^ 12) 0 r
      return r

/-- Passes down a cube to the first variable that is not above a level. -/
def ddSkip (k : DdCfg) (lf : Nat) : Nat → Nat → DdM Nat
  | 0, c => return c
  | fuel + 1, c => do
    if c < 2 then return c
    let x ← ddNode k c
    if (← get).dde.levOf x.var < lf then ddSkip k lf fuel x.high else return c

/-- ex. -/
def ddEx (k : DdCfg) : Nat → Nat → Nat → DdM Nat
  | 0, f, _ => return f
  | fuel + 1, f, c => do
    let lf ← ddLevel k f
    let c ← ddSkip k lf ddDepth c
    if f < 2 || c = 1 then
      ddSpend 4
      return f
    match ← ddLook k 4 f c 0 with
    | some r => return r
    | none =>
      ddSpend 8
      let x ← ddNode k f
      let same := (← ddLevel k c) == lf
      let c2 ← if same then (do return (← ddNode k c).high) else pure c
      let lo ← ddEx k fuel x.low c2
      let hi ← ddEx k fuel x.high c2
      let r ← if same then ddAp k 0xE ddDepth lo hi else ddMk k x.var hi lo
      ddEnter k 4 f c 0 r
      return r

/-- The cube of `ddexist`: live nodes with LOW = 0 along HIGH, down to TRUE. -/
def ddCube (k : DdCfg) : Nat → Nat → DdM Unit
  | 0, _ => throw (.abort 4)
  | fuel + 1, c => do
    if c = 1 then return ()
    if c = 0 || k.noden ≤ c then throw (.abort 4)
    let x ← ddNode k c
    if x.var = ddNoVar || x.low != 0 then throw (.abort 4)
    ddCube k fuel x.high

/-! ### Counting (R321, R322) -/

/-- What a count computes with: its format, whether it reads the weight table, and s[l] by level. -/
structure DdSum where
  t : Ty
  weighted : Bool
  s : List Nat
  seq : Nat
deriving DecidableEq, Repr

/-- 1 in the format of a count. -/
def DdSum.one (q : DdSum) : Nat := (q.t.roundV .rne (.fin false 1 0)).1

/-- One operation of a count: 4 cycles, and its flags. -/
def ddArith (r : Nat × FlagBits) : DdM Nat := do
  modify fun q => { q with cost := q.cost + 4, flags := q.flags ||| r.2 }
  return r.1

/-- w0 or w1 of a variable. An uncorrectable word reads as zero and sets SB (R330). -/
def ddWeight (k : DdCfg) (q : DdSum) (v : Nat) (one : Bool) : DdM Nat := do
  if !q.weighted then return q.one
  let p ← ddPort (k.wtab + 16 * v + (if one then 8 else 0)) 8
  if p.subst then modify fun r => { r with flags := r.flags ||| fSB }
  return p.val

/-- s[l] of every level below VARN, ascending. -/
def ddSums (k : DdCfg) (q : DdSum) : List Nat → DdM (List Nat)
  | [] => return []
  | l :: ls => do
    let v := (← get).dde.varAt l
    let x ← ddArith (fAdd q.t .rne (← ddWeight k q v false) (← ddWeight k q v true))
    return x :: (← ddSums k q ls)

/-- lift over a list of levels. -/
def ddLift (q : DdSum) (x : Nat) : List Nat → DdM Nat
  | [] => return x
  | l :: ls => do ddLift q (← ddArith (fMul q.t .rne x (q.s.getD l 0))) ls

/-- The levels from `a` to `b` − 1. -/
def levels (a b : Nat) : List Nat := (List.range (b - a)).map (a + ·)

/-- wc. -/
def ddWc (k : DdCfg) (q : DdSum) : Nat → Nat → DdM Nat
  | 0, _ => return 0
  | fuel + 1, u => do
    if u < 2 then
      ddSpend 4
      return if u = 0 then 0 else q.one
    let x ← ddNode k u
    let m := (← get).dde.levOf x.var
    if k.varn ≤ m then throw (.abort 5)
    let key := if q.weighted then 6 else 5
    match ← ddLook k key u q.seq 0 with
    | some r => return r
    | none =>
      ddSpend 8
      let lo ← ddWc k q fuel x.low
      let hi ← ddWc k q fuel x.high
      let v := (← get).dde.varAt m
      let a ← ddArith (fMul q.t .rne (← ddWeight k q v false)
        (← ddLift q lo (levels (m + 1) (min (← ddLevel k x.low) k.varn))))
      let c ← ddArith (fMul q.t .rne (← ddWeight k q v true)
        (← ddLift q hi (levels (m + 1) (min (← ddLevel k x.high) k.varn))))
      let r ← ddArith (fAdd q.t .rne a c)
      ddEnter k key u q.seq 0 r
      return r

/-- A count rounded toward zero and saturated at 32 bits. -/
def count32 (bits : Nat) : Nat :=
  match Ty.a80.value bits with
  | .fin _ m q => min (2 ^ 32 - 1) (if 0 ≤ q then m * 2 ^ q.toNat else m / 2 ^ (-q).toNat)
  | .inf _ => 2 ^ 32 - 1
  | .nan _ => 0

/-- `ddcount` and `ddwcount`: what [63:32] receives. -/
def ddCountOp (k : DdCfg) (root : Nat) (res : Nat) (weighted : Bool) : DdM Nat := do
  ddCheck k root
  let q : DdSum := { t := if weighted then .f64 else .a80, weighted := weighted, s := [], seq := (← get).dde.seq % 2 ^ 32 }
  let s ← ddSums k q (List.range k.varn)
  let q := { q with s := s }
  let v ← ddWc k q ddDepth root
  let v ← ddLift q v (levels 0 (min (← ddLevel k root) k.varn))
  modify fun r =>
    let l := (r.s.job r.j).lcnOf r.c (res / 2 ^ 21)
    let off := res % 2 ^ 21
    if r.s.closed r.j l off (if weighted then 8 else 16) then
      { r with s := r.s.noteGuard r.j l off, hit := r.hit.or (some res) }
    else
      let s := (r.s.scrStore r.j l off 8 (v % 2 ^ 64)).1
      { r with s := if weighted then s else (s.scrStore r.j l (off + 8) 8 (v / 2 ^ 64)).1 }
  return if weighted then 0 else count32 v

/-! ### Collection (R324) -/

/-- A freed node lowers the count of a child; one that reaches 0 is freed in turn. -/
def ddLower (k : DdCfg) (n : Nat) : DdM (List Nat) := do
  if n < 2 then return []
  let x ← ddNode k n
  if x.var = ddNoVar || x.ref = 0 || x.ref = ddPin then return []
  ddPut k n { x with ref := x.ref - 1 }
  return if x.ref = 1 then [n] else []

/-- Frees the nodes of a work list and those that they release; the number freed. -/
def ddFree (k : DdCfg) : Nat → List Nat → DdM Nat
  | 0, _ => return 0
  | _, [] => return 0
  | fuel + 1, n :: ns => do
    let x ← ddNode k n
    let p := k.buck + 4 * k.bucket x.var x.high x.low
    ddUnlink k p n x.chain k.noden 0 (← ddRead p 4)
    let a ← ddLower k x.high
    let b ← ddLower k x.low
    ddPut k n { var := ddNoVar, ref := 0, high := 0, low := 0, chain := 0 }
    ddMod Dde.liveDown
    ddSpend 4
    return (← ddFree k fuel (a ++ b ++ ns)) + 1

/-- The live nodes of a list with count 0. -/
def ddDead (k : DdCfg) : List Nat → DdM (List Nat)
  | [] => return []
  | n :: ns => do
    let x ← ddNode k n
    let t ← ddDead k ns
    return if x.var != ddNoVar && x.ref = 0 then n :: t else t

/-- Rebuilds the free list from the numbers of a descending list: what it begins with. -/
def ddRebuild (k : DdCfg) : List Nat → Nat → DdM Nat
  | [], head => return head
  | n :: ns, head => do
    let x ← ddNode k n
    if x.var = ddNoVar then
      ddPut k n { x with chain := head }
      ddRebuild k ns n
    else ddRebuild k ns head

/-- Makes the entries at a list of window offsets invalid. -/
def ddInvalidAll : List Nat → DdM Unit
  | [] => return ()
  | p :: ps => do
    ddInvalid p
    ddInvalidAll ps

/-- Every cache entry. -/
def DdCfg.entries (k : DdCfg) : List Nat := (List.range (2 ^ k.clog)).map fun i => k.cache + 32 * i

/-- The numbers 2 to NODEN − 1. -/
def DdCfg.numbers (k : DdCfg) : List Nat := (List.range (k.noden - 2)).map (· + 2)

/-- `ddgc`: the number freed. -/
def ddGcOp (k : DdCfg) : DdM Nat := do
  ddSpend ((k.noden + 15) / 16 + (2 ^ k.clog + 7) / 8)
  let dead ← ddDead k k.numbers
  let n ← ddFree k (2 * k.noden) dead
  let head ← ddRebuild k k.numbers.reverse 0
  ddMod fun d => { d with freeHead := head }
  ddInvalidAll k.entries
  return n

/-! ### Undoing (R325) -/

/-- Takes back the counts that were raised. -/
def ddUnraise (k : DdCfg) : List Nat → DdM Unit
  | [] => return ()
  | n :: ns => do
    let x ← ddNode k n
    ddPut k n { x with ref := x.ref - 1 }
    ddUnraise k ns

/-- Takes back the nodes created, the latest first. -/
def ddUnmake (k : DdCfg) : List Nat → DdM Unit
  | [] => return ()
  | n :: ns => do
    let x ← ddNode k n
    ddWrite (k.buck + 4 * k.bucket x.var x.high x.low) 4 x.chain
    let f := (← get).dde.freeHead
    ddPut k n { var := ddNoVar, ref := 0, high := 0, low := 0, chain := f }
    ddMod fun d => { d with freeHead := n }.liveDown
    ddSpend 4
    ddUnmake k ns

/-- The store, the catalogue and the counts as they were. -/
def ddUndo (k : DdCfg) : DdM Unit := do
  let r ← get
  ddUnraise k r.raised
  ddUnmake k r.made
  ddInvalidAll r.wrote

/-! ### An operation at its turn -/

/-- Counts the result's one external reference. -/
def ddResult (k : DdCfg) (m : DdM Nat) : DdM Nat := do
  let n ← m
  ddInc k n
  return n

/-- `ddmk` at its turn (R318). -/
def ddMkOp (k : DdCfg) (v h l : Nat) : DdM Nat := do
  ddCheck k h
  ddCheck k l
  let lv := (← get).dde.levOf v
  if (← ddLevel k h) ≤ lv || (← ddLevel k l) ≤ lv then throw (.abort 2)
  ddMk k v h l

/-- An operation: what [63:32] receives. -/
def ddPerform (k : DdCfg) : DdKind → DdM Nat
  | .mk v h l => ddResult k (ddMkOp k v h l)
  | .apply tt f g => ddResult k do
      ddCheck k f
      ddCheck k g
      ddAp k tt.toNat ddDepth f g
  | .ite f g h => ddResult k do
      ddCheck k f
      ddCheck k g
      ddCheck k h
      ddIt k ddDepth f g h
  | .restr f u b => ddResult k do
      ddCheck k f
      ddRs k u b ddDepth f
  | .exist f c => ddResult k do
      ddCheck k f
      ddCheck k c
      ddCube k ddDepth c
      ddEx k ddDepth f c
  | .count r res weighted => ddCountOp k r res.toNat weighted
  | .gc => ddGcOp k
  | _ => return 0

/-- The engine loses its configuration (R333). -/
def Dde.unconfigured (d : Dde) : Dde := { d with cfg := none }

/-- Runs an operation: the machine after it, the completion word, its flags and its duration. -/
def State.ddOperation (s : State) (j c : Nat) (e : DdEntry) : State × Word × FlagBits × Nat :=
  match (s.clu j c).dde.cfg with
  | none => (s, cword 9 6, 0, 8)
  | some k =>
    let undone (r : DdRun) : DdRun :=
      match ddUndo k r with
      | .ok _ r => r
      | .error _ r => r
    match ddPerform k e.kind { s := s, j := j, c := c } with
    | .ok v r => (r.s, cwordHi (if r.hit.isSome then 2 else 0) 0 v, r.flags, r.cost)
    | .error .full r =>
      let r := undone r
      (r.s, cword 10 0, r.flags, r.cost)
    | .error (.abort 7) r => (r.s.modDde j c Dde.unconfigured, cword 9 7, r.flags ||| fSB, r.cost)
    | .error (.abort n) r =>
      let r := undone r
      (r.s, cword 9 n, r.flags, r.cost)

/-! ### Commands at their turn -/

/-- What a command reports to DD_RESOLVE: nothing, or the cause in [7:0] and EINFO[7:0] in [15:8]. -/
def ddFault (c : Cause) (info : Nat) : Word := w64 (c.code.toNat + info * 256)

/-- Sets a configuration: the store, the free list, the catalogue, the cache and the order (R311). -/
def ddInit (k : DdCfg) : DdM Unit := do
  ddMod fun d => { d with cfg := some k, lev := [], var := [], freeHead := 2 }
  ddPut k 0 { var := ddNoVar, ref := ddPin, high := 0, low := 0, chain := 0 }
  ddPut k 1 { var := ddNoVar, ref := ddPin, high := 1, low := 1, chain := 0 }
  let rec nodes : List Nat → DdM Unit
    | [] => return ()
    | n :: ns => do
      ddPut k n { var := ddNoVar, ref := 0, high := 0, low := 0, chain := if n + 1 = k.noden then 0 else n + 1 }
      nodes ns
  nodes k.numbers
  let rec buckets : List Nat → DdM Unit
    | [] => return ()
    | b :: bs => do
      ddWrite (k.buck + 4 * b) 4 0
      buckets bs
  buckets (List.range (2 ^ k.blog))
  ddInvalidAll k.entries
  ddMod fun d => ((d.setCounter 0 0).setCounter 1 (w64 (k.noden - 2))).setCounter 2 0

/-- A configuration takes effect in a cluster. -/
def State.ddConfigure (s : State) (j c : Nat) (k : DdCfg) : State :=
  match ddInit k { s := s, j := j, c := c } with
  | .ok _ r => r.s
  | .error _ r => r.s

/-- A node of `ddref` and `dderef`, or the reason of DD_BAD. -/
def ddNamed (k : DdCfg) (n : Nat) : DdM DdNode := do
  if k.noden ≤ n then throw (.abort 2)
  let x ← ddNode k n
  if 2 ≤ n && x.var = ddNoVar then throw (.abort 2)
  return x

/-- `ddref`, `dderef` and `ddnode` in the engine: the node as it was read. -/
def ddCommand (k : DdCfg) : DdKind → DdM DdNode
  | .ref n => do
    let x ← ddNamed k n
    ddInc k n
    return x
  | .deref n => do
    let x ← ddNamed k n
    if n < 2 || x.ref = ddPin then return x
    if x.ref = 0 then throw (.abort 4)
    ddPut k n { x with ref := x.ref - 1 }
    return x
  | .node n _ => do
    if k.noden ≤ n then throw (.abort 2)
    ddNode k n
  | _ => return ⟨0, 0, 0, 0, 0⟩

/-- `ddref`, `dderef` or `ddnode` at its turn. The registers of `ddnode` land at the thread's next issue. -/
def State.ddNodeCommand (s : State) (j c : Nat) (e : DdEntry) (k : DdCfg) : State × Word × Nat :=
  match ddCommand k e.kind { s := s, j := j, c := c } with
  | .ok x r =>
    let s := match r.hit with
      | some p => r.s.markGuard e.w 1 (w64 (0xA * 2 ^ 60 + p))
      | none => r.s
    match e.kind with
    | .node _ d => (s.land e.w 12 [.s d (w64 x.words.1), .s (d + 1) (w64 x.words.2)] 0, 0, 8)
    | _ => (s, 0, 8)
  | .error (.abort 7) r => ((r.s.modDde j c Dde.unconfigured).setFlags e.w fSB, ddFault .ddBad 1, 8)
  | .error (.abort n) r => (r.s, ddFault .ddBad n, 8)
  | .error .full r => (r.s, 0, 8)

/-- `ddord` at its turn (R314). -/
def State.ddOrder (s : State) (j c u l : Nat) : State × Word × Nat :=
  let d := (s.clu j c).dde
  if 4094 < u || 4094 < l then (s, ddFault .ddBad 3, 8)
  else if d.counter 0 != 0 then (s, ddFault .ddBad 5, 8)
  else
    let k := d.levOf u
    let w := d.varAt l
    (s.modDde j c fun d =>
      { d with lev := Map.set (Map.set d.lev u l) w k, var := Map.set (Map.set d.var l u) k w }, 0, 8)

/-- A command at its turn: the machine after it, what DD_RESOLVE is told, and its duration. -/
def State.ddCommandTurn (s : State) (j c : Nat) (e : DdEntry) : State × Word × Nat :=
  let b := s.job j
  match e.kind with
  | .cfg a =>
    let wo := bitsOf a 0 24
    let (s, blk) := s.readBlock e.w a (b.lcnOf c (wo / 2 ^ 21)) (wo % 2 ^ 21) 64
    match b.badDd blk with
    | some o => (s, ddFault .addr o, 8)
    | none =>
      let k := ddParse blk a
      (s.ddConfigure j c k, 0, (16 * k.noden + 4 * 2 ^ k.blog + 32 * 2 ^ k.clog + 63) / 64 + 8)
  | kind =>
    match (s.clu j c).dde.cfg with
    | none => (s, ddFault .ddBad 1, 8)
    | some k =>
      match kind with
      | .ord u l => s.ddOrder j c u l
      | .wset u side v =>
        if 4094 < u then (s, ddFault .ddBad 3, 8)
        else
          let p := k.wtab + 16 * u + (if side then 8 else 0)
          let (s, q) := s.scrStore j (b.lcnOf c (p / 2 ^ 21)) (p % 2 ^ 21) 8 v.toNat
          (s.markGuard e.w q.guard.toNat (w64 (0xA * 2 ^ 60 + p)), 0, 8)
      | _ => s.ddNodeCommand j c e k

/-! ### The command queue (R316) -/

/-- Entries of a cluster that wait, or are on their way to the queue. -/
def State.ddWaiting (s : State) (j c : Nat) : Nat :=
  (s.clu j c).dde.queue.length +
    (s.agenda.filter fun p => match p.ev with | .ddEnqueue e => e.w.job == j && e.clu == c | _ => false).length

/-- DD_ENQUEUE: an entry reaches the queue. -/
def execDdEnqueue (e : DdEntry) (s : State) : Host.Outcome State Fault Refusal :=
  .next ((s.modDde e.w.job e.clu fun d => { d with queue := d.queue ++ [e] }).later 0 (.ddExecute e.w.job e.clu))

/-- The engine of a logical cluster performs its entry `e`: 8 cycles for taking it, then its work (R329). -/
def State.ddTake (s : State) (j c : Nat) (e : DdEntry) (rest : List DdEntry) : State :=
  let s := (s.modDde j c fun d =>
    { d with queue := rest, active := some e, seq := if e.h.isNone then d.seq else d.seq + 1 }).passPlace j c 103 4
  match e.h with
  | some _ =>
    let (s, w, f, n) := s.ddOperation j c e
    s.later n (.ddResolve j c e w f)
  | none =>
    let (s, w, n) := s.ddCommandTurn j c e
    s.later (8 + n) (.ddResolve j c e w 0)

/-- The engine of a physical cluster, if it is idle, takes the next entry of the logical clusters that it carries (R11, R316,
R385). -/
def State.kickDde (s : State) (j c : Nat) : State :=
  match s.carrier j c with
  | none => s
  | some (p, _) =>
    if (s.carriedBy p).any fun c => (s.clu j c).dde.active.isSome then s
    else
      match s.foldTurn p 3 fun c => !(s.clu j c).dde.queue.isEmpty with
      | none => s
      | some c =>
        match (s.clu j c).dde.queue with
        | e :: rest => (s.tookTurn p 3 c).ddTake j c e rest
        | [] => s

/-- DD_EXECUTE: an idle engine takes the next entry and performs it. -/
def execDdExecute (job clu : Nat) (s : State) : Host.Outcome State Fault Refusal := .next (s.kickDde job clu)

/-- The counters of a resolved operation (R328). -/
def Dde.resolved (d : Dde) (e : DdEntry) (c : Word) : Dde :=
  let d := { d with active := none }
  if e.h.isNone then d
  else
    let d := d.count 3
    let d := if c.toNat % 256 = 10 then d.count 6 else d
    if e.kind = .gc then d.count 7 else d

/-- A command has been performed, or has faulted, at the instruction of a thread that waits for it. -/
def State.ddCommandEnd (s : State) (e : DdEntry) (c : Word) : State :=
  let w := e.w
  match (s.thread w).wait with
  | some { cont := .command, .. } =>
    if c = 0 then ((s.unpark w).advance w).modThread w fun t => { t with readyAt := s.cyc + 4, accAt := max t.accAt (s.cyc + 4) }
    else
      let eaddr := match e.kind with | .cfg a => a | _ => 0
      let info := w64 (bitsOf c 8 8)
      match bitsOf c 0 8 with
      | 0x10 => s.trapAt w .addr e.pc eaddr info
      | _ => s.trapAt w .ddBad e.pc 0 info
  | _ => s

/-- DD_RESOLVE: the engine is done with its entry (R317, R329). -/
def execDdResolve (job clu : Nat) (e : DdEntry) (c : Word) (flags : FlagBits) (s : State) : Host.Outcome State Fault Refusal :=
  if (s.clu job clu).dde.active != some e then .next s
  else if (s.carrier job clu).isNone then .next (s.later 64 (.ddResolve job clu e c flags))
  else
    let s := (s.modDde job clu fun d => d.resolved e c).later 0 (.ddExecute job clu)
    match e.h with
    | some h => .next (s.resolve 8 h c flags)
    | none => .next (s.ddCommandEnd e c)

/-! ### Issue (R309, R330) -/

/-- Enters a command of the current thread, which waits parked at the instruction. -/
def State.ddCommandIssue (s : State) (kind : DdKind) : State :=
  let w := s.cur
  let c := (s.job w.job).cluOf w.lcn
  if !s.placeFor w 103 (s.ddWaiting w.job c) 32 then s.park w .engq 4 false .reissue
  else
    let e : DdEntry := { w := w, clu := c, h := none, pc := s.pcOf w, kind := kind }
    ((s.spend w 103).later 4 (.ddEnqueue e)).park w .engq 4 false .command

/-- Enters an operation of the current thread. -/
def State.ddOperationIssue (s : State) (d : HReg) (kind : DdKind) : State :=
  let w := s.cur
  let c := (s.job w.job).cluOf w.lcn
  if !s.placeFor w 103 (s.ddWaiting w.job c) 32 then s.park w .engq 4 false .reissue
  else
    s.withHandle w d .dd fun h s =>
      let e : DdEntry := { w := w, clu := c, h := some h, pc := s.pcOf w, kind := kind }
      (((s.spend w 103).later 4 (.ddEnqueue e)).modThread w fun t => { t with accAt := max t.accAt (s.cyc + 4) }).advance w

/-- The engine of the current thread's cluster is configured. -/
def State.ddReady (s : State) : Bool := (s.clu s.cur.job ((s.job s.cur.job).cluOf s.cur.lcn)).dde.cfg.isSome

/-- The body of an instruction other than `ddcfg`: DD_BAD, reason 1, before every other check. -/
def State.ddNeeds (s : State) (g : Gd) (body : State → State) : Host.Outcome State Fault Refusal :=
  s.guarded g fun s => if s.ddReady then body s else s.trap s.cur .ddBad 0 1

/-- A node operand. -/
def State.ddOpnd (s : State) (r : SReg) : Nat := bitsOf (s.rd s.cur r) 0 32

/-- `ddcfg`. -/
def execDdcfg (g : Gd) (a : SReg) (s : State) : Host.Outcome State Fault Refusal :=
  s.guarded g fun s =>
    let va := s.rd s.cur a
    if bitsOf va 60 4 != 0xA then s.trap s.cur .addr va 0
    else
      match s.checkPlace s.cur true false 64 va with
      | .error c => s.trap s.cur c va 0
      | .ok _ => s.ddCommandIssue (.cfg va)

/-- `ddord`. -/
def execDdord (g : Gd) (a b : SReg) (s : State) : Host.Outcome State Fault Refusal :=
  s.ddNeeds g fun s => s.ddCommandIssue (.ord (s.rd s.cur a).toNat (s.rd s.cur b).toNat)

/-- `ddwset`. A value outside [12:0] names no variable. -/
def execDdwset (g : Gd) (a b : SReg) (s : State) : Host.Outcome State Fault Refusal :=
  s.ddNeeds g fun s =>
    let x := s.rd s.cur a
    s.ddCommandIssue (.wset (bitsOf x 0 12 + bitsOf x 13 51 * 2 ^ 12) (x.getLsbD 12) (s.rd s.cur b))

/-- `ddref`. -/
def execDdref (g : Gd) (a : SReg) (s : State) : Host.Outcome State Fault Refusal :=
  s.ddNeeds g fun s => s.ddCommandIssue (.ref (s.ddOpnd a))

/-- `dderef`. -/
def execDderef (g : Gd) (a : SReg) (s : State) : Host.Outcome State Fault Refusal :=
  s.ddNeeds g fun s => s.ddCommandIssue (.deref (s.ddOpnd a))

/-- `ddnode`. -/
def execDdnode (g : Gd) (d a : SReg) (s : State) : Host.Outcome State Fault Refusal :=
  s.ddNeeds g fun s => s.ddCommandIssue (.node (s.ddOpnd a) d)

/-- `ddmk`. -/
def execDdmk (g : Gd) (d : HReg) (a b : SReg) (imm : BitVec 32) (s : State) : Host.Outcome State Fault Refusal :=
  s.ddNeeds g fun s =>
    if 4094 < imm.toNat then s.trap s.cur .ddBad 0 3
    else s.ddOperationIssue d (.mk imm.toNat (s.ddOpnd a) (s.ddOpnd b))

/-- `ddapply`. -/
def execDdapply (g : Gd) (tt : BitVec 4) (d : HReg) (a b : SReg) (s : State) : Host.Outcome State Fault Refusal :=
  s.ddNeeds g fun s => s.ddOperationIssue d (.apply tt (s.ddOpnd a) (s.ddOpnd b))

/-- `ddite`. -/
def execDdite (g : Gd) (d : HReg) (a b : SReg) (s : State) : Host.Outcome State Fault Refusal :=
  s.ddNeeds g fun s => s.ddOperationIssue d (.ite (s.ddOpnd a) (s.ddOpnd (a + 1)) (s.ddOpnd b))

/-- `ddrestr`. -/
def execDdrestr (g : Gd) (d : HReg) (a b : SReg) (s : State) : Host.Outcome State Fault Refusal :=
  s.ddNeeds g fun s =>
    let x := s.rd s.cur b
    if 4094 < bitsOf x 0 12 || bitsOf x 13 51 != 0 then s.trap s.cur .ddBad 0 3
    else s.ddOperationIssue d (.restr (s.ddOpnd a) (bitsOf x 0 12) (x.getLsbD 12))

/-- `ddexist`. -/
def execDdexist (g : Gd) (d : HReg) (a b : SReg) (s : State) : Host.Outcome State Fault Refusal :=
  s.ddNeeds g fun s => s.ddOperationIssue d (.exist (s.ddOpnd a) (s.ddOpnd b))

/-- The two counts: the checks of the result word, then the operation (R322). -/
def State.ddCount (s : State) (d : HReg) (a : SReg) (weighted : Bool) : State :=
  let x := s.rd s.cur a
  let off := bitsOf x 32 24
  let size := if weighted then 8 else 16
  let va := w64 (0xA * 2 ^ 60 + off)
  if (s.job s.cur.job).foot < off % 2 ^ 21 + size then s.trap s.cur .addr va 0
  else if off % size != 0 then s.trap s.cur .align va 0
  else s.ddOperationIssue d (.count (bitsOf x 0 32) (w64 off) weighted)

/-- `ddcount`. -/
def execDdcount (g : Gd) (d : HReg) (a : SReg) (s : State) : Host.Outcome State Fault Refusal :=
  s.ddNeeds g fun s => s.ddCount d a false

/-- `ddwcount`. -/
def execDdwcount (g : Gd) (d : HReg) (a : SReg) (s : State) : Host.Outcome State Fault Refusal :=
  s.ddNeeds g fun s => s.ddCount d a true

/-- `ddgc`. -/
def execDdgc (g : Gd) (d : HReg) (s : State) : Host.Outcome State Fault Refusal :=
  s.ddNeeds g fun s => s.ddOperationIssue d .gc

/-- `ddstat`: LIVE and FREE read 0 while the engine is unconfigured. -/
def execDdstat (g : Gd) (d : SReg) (imm : BitVec 32) (s : State) : Host.Outcome State Fault Refusal :=
  s.guarded g fun s =>
    let e := (s.clu s.cur.job ((s.job s.cur.job).cluOf s.cur.lcn)).dde
    s.result 8 d
      (match imm.toNat with
       | 8 => w64 e.queue.length
       | 9 => match e.cfg with | some k => k.adr | none => 0
       | n => if n < 2 && e.cfg.isNone then 0 else if n < 10 then e.counter n else 0)

end Sys2Proof.Machine
end

