-- ==== Sys2Proof/Machine/Cast.lean ====
section
/-!
DEFINITION. Cast and splice, class 0xD (R336 to R355): the cast table at its home, record frames and inboxes, standbys, cues
and their roles, tokens, and stage state.
-/

set_option linter.unusedVariables false

namespace Sys2Proof.Machine

/-! ### Cast-table entries (R337) -/

/-- Replaces the `n` bits from `lo`. -/
def setField (x : Word) (lo n v : Nat) : Word := (x &&& ~~~(w64 ((2 ^ n - 1) * 2 ^ lo))) ||| w64 (v % 2 ^ n * 2 ^ lo)

/-- V of an entry. -/
def CastEntry.v (e : CastEntry) : Bool := e.bits.getLsbD 31
/-- NV of an entry. -/
def CastEntry.nv (e : CastEntry) : Bool := e.bits.getLsbD 30
/-- BUSY of an entry. -/
def CastEntry.busy (e : CastEntry) : Bool := e.bits.getLsbD 29
/-- SBV of an entry. -/
def CastEntry.sbv (e : CastEntry) : Bool := e.bits.getLsbD 28
/-- NEXT of an entry. -/
def CastEntry.next (e : CastEntry) : Nat := bitsOf e.bits 20 6
/-- THR of an entry. -/
def CastEntry.thr (e : CastEntry) : Nat := bitsOf e.bits 16 4
/-- LCN of an entry. -/
def CastEntry.lcn (e : CastEntry) : Nat := bitsOf e.bits 0 16
/-- SBTHR of an entry. -/
def CastEntry.sbThr (e : CastEntry) : Nat := bitsOf e.bits 52 4
/-- SBLCN of an entry. -/
def CastEntry.sbLcn (e : CastEntry) : Nat := bitsOf e.bits 32 16
/-- Writes a field of an entry. -/
def CastEntry.put (e : CastEntry) (lo n v : Nat) : CastEntry := { e with bits := setField e.bits lo n v }
/-- The standby of an entry is a thread. -/
def CastEntry.heldBy (e : CastEntry) (w : Tid) : Bool := e.sbv && e.sbLcn == w.lcn && e.sbThr == w.thr
/-- Clears the registration of an entry (R344). -/
def CastEntry.withdrawn (e : CastEntry) : CastEntry := { e.put 28 1 0 with captured := false }

/-- An entry of a job's table. -/
def Job.castAt (b : Job) (i : Nat) : CastEntry := b.cast.getD i {}

/-- Changes an entry. -/
def State.modEntry (s : State) (j i : Nat) (f : CastEntry → CastEntry) : State :=
  s.modJob j fun b => { b with cast := b.cast.set i (f (b.castAt i)) }

/-! ### Binding registers (R339) -/

/-- A binding word. -/
def bindWord (stage lcn thr : Nat) (open_ : Bool) : Word :=
  w64 (2 ^ 31 + (if open_ then 2 ^ 30 else 0) + stage * 2 ^ 20 + thr * 2 ^ 16 + lcn)

/-- V of a binding word. -/
def bindV (x : Word) : Bool := x.getLsbD 31
/-- OPEN of a binding word. -/
def bindOpen (x : Word) : Bool := x.getLsbD 30
/-- STAGE of a binding word. -/
def bindStage (x : Word) : Nat := bitsOf x 20 6
/-- The thread that a binding word names. -/
def bindTid (j : Nat) (x : Word) : Tid := ⟨j, bitsOf x 0 16, bitsOf x 16 4⟩
/-- A binding word with OPEN = 0. -/
def shut (x : Word) : Word := setField x 30 1 0

/-- The thread plays a stage. -/
def Thread.plays (t : Thread) : Bool := t.stg.getLsbD 7
/-- The thread is a standby. -/
def Thread.standsBy (t : Thread) : Bool := t.stg.getLsbD 6
/-- The stage that a thread plays or stands by for. -/
def Thread.stage (t : Thread) : Nat := bitsOf t.stg 0 6

/-! ### Cue headers (R340) -/

/-- CUE of a header. -/
def isCue (h : Word) : Bool := h.getLsbD 63
/-- FAIL of a cue. -/
def cueFail (h : Word) : Bool := h.getLsbD 62
/-- ARMED of a cue. -/
def cueArmed (h : Word) : Bool := h.getLsbD 61
/-- DONE of a cue. -/
def cueDone (h : Word) : Bool := h.getLsbD 60
/-- OP of a cue: 1 INSERT, 2 REMOVE, 3 REBIND. -/
def cueOp (h : Word) : Nat := bitsOf h 52 4
/-- S of a cue. -/
def cueS (h : Word) : Nat := bitsOf h 46 6
/-- N of a cue. -/
def cueN (h : Word) : Nat := bitsOf h 40 6
/-- REASON of a cue. -/
def cueReason (h : Word) : Nat := bitsOf h 32 8
/-- INJ of a cue. -/
def cueInj (h : Word) : Nat := bitsOf h 26 6
/-- CID of a cue. -/
def cueCid (h : Word) : Nat := bitsOf h 0 20

/-! ### Waiting -/

/-- MSG of this class: sub-cause and stage operand (R355). -/
def State.castTrap (s : State) (w : Tid) (sub stage : Nat) : State := s.trap w .msg 0 (w64 (sub + stage * 256))

/-- Parks a thread on RECORD, with its own stage as the object. -/
def State.parkRecord (s : State) (w : Tid) : State := s.park w .record (w64 (s.thread w).stage) false .reissue

/-- A thread parked on RECORD looks again. -/
def State.wakeRecord (s : State) (w : Tid) : State :=
  match (s.thread w).wait with
  | some { kind := .record, .. } => s.unpark w
  | _ => s

/-- Sends a step of this class between two logical cores of a job (R22, log 13). -/
def State.castSend (s : State) (c : Chan) (w : Tid) (l l' : Nat) (e : Event) : State :=
  s.sendTo (s.localHop w.job l l') c w l l' e

/-- Sends an access to the home; the thread issues nothing until its answer has been taken (R337). -/
def State.askHome (s : State) (w : Tid) (e : Event) : State := (s.stallFor w .home).castSend .req w w.lcn 0 e

/-- The home's answer travels back. -/
def State.answerFrom (s : State) (w : Tid) (e : Event) : State := s.castSend .rsp w 0 w.lcn e

/-- A logical core is not resident: what is on its way to it waits. -/
def State.away (s : State) (j l : Nat) : Bool := !s.resident j l

/-- An access at the home is over: the thread issues again 8 cycles after the answer reached it (R337). -/
def State.homeDone (s : State) (w : Tid) : State :=
  ((s.unstall w).modThread w fun t => { t with readyAt := s.cyc + 8, accAt := max t.accAt (s.cyc + 1) }).advance w

/-! ### Frames (R340, R341) -/

/-- Puts a frame on its way. -/
def State.launchFrame (s : State) (f : Frame) : State :=
  s.castSend .msg f.src (if cueFail f.header && isCue f.header then 0 else f.src.lcn) f.dst.lcn (.recordFrameArrival f)

/-- An earlier frame of the sender to the same thread has not been enqueued. -/
def State.frameBehind (s : State) (f : Frame) : Bool :=
  ((s.thread f.src).frames.takeWhile fun x => x.id != f.id).any fun x => x.dst == f.dst

/-- Sends a frame of a thread, unless a refused one holds it back. -/
def State.sendFrame (s : State) (w dst : Tid) (header : Word) (body : List Word) (own : Bool) : State :=
  let f : Frame := { id := s.seq, src := w, dst := dst, header := header, body := body, own := own }
  let t := s.thread w
  let back := t.frames.any fun x => x.dst == dst && (t.refused.contains x.id || t.outHeld.contains x.id)
  let s := s.drawn.modThread w fun t =>
    { t with
      frames := t.frames ++ [f]
      outHeld := if back then t.outHeld ++ [f.id] else t.outHeld
      ordAcc := if own then some f.id else t.ordAcc }
  if back then s else s.launchFrame f

end Sys2Proof.Machine

namespace Sys2Proof

/-- A FAIL cue, which the home sends (R350). -/
def Frame.fails (f : Frame) : Bool := Machine.isCue f.header && Machine.cueFail f.header

/-- Flits of a frame. -/
def Frame.size (f : Frame) : Nat := 1 + f.body.length

end Sys2Proof

namespace Sys2Proof.Machine

/-- The inbox of a thread takes a frame (R341). A halted thread takes none (R382, log 31). -/
def State.takesFrame (s : State) (f : Frame) : Bool :=
  let t := s.thread f.dst
  t.isLive s.cyc && !t.held && !s.away f.dst.job f.dst.lcn && decide ((t.inbox.map fun x => x.size).sum + f.size ≤ 32) &&
    (f.fails || bindV t.ups && bindTid f.dst.job t.ups == f.src)

/-- A frame has been enqueued: the sender's next access may begin, and the frame that this one held back sets out. -/
def State.frameDone (s : State) (f : Frame) : State :=
  let w := f.src
  let s := s.modThread w fun t =>
    { t with
      frames := t.frames.filter fun x => x.id != f.id
      refused := t.refused.filter (· != f.id)
      ordAcc := if t.ordAcc = some f.id then none else t.ordAcc
      accAt := if t.ordAcc = some f.id then s.cyc + 1 else t.accAt }
  let s := if f.own then s.wakeRecord w else s
  let t := s.thread w
  match t.frames.find? fun x => x.dst == f.dst with
  | some x =>
    if t.outHeld.contains x.id then
      (s.modThread w fun t => { t with outHeld := t.outHeld.filter (· != x.id) }).launchFrame x
    else s
  | none => s

/-- RECORD_FRAME_ARRIVAL: enqueued whole, or refused. -/
def execRecordFrameArrival (f : Frame) (s : State) : Host.Outcome State Fault Refusal :=
  if s.takesFrame f && !(!f.fails && s.frameBehind f) then
    let s := (s.modThread f.dst fun t => { t with inbox := t.inbox ++ [f] }).wakeRecord f.dst
    .next (if f.fails then s else s.frameDone f)
  else
    let s := if f.fails then s else s.modThread f.src fun t =>
      { t with refused := if t.refused.contains f.id then t.refused else t.refused ++ [f.id] }
    let l := if f.fails then 0 else f.src.lcn
    .next (s.sendTo (64 + s.localHop f.src.job f.dst.lcn l) .rsp f.src f.dst.lcn l (.frameResend f))

/-- FRAME_RESEND: a refused frame sets out again, unless an earlier one to its thread holds it back. -/
def execFrameResend (f : Frame) (s : State) : Host.Outcome State Fault Refusal :=
  if f.fails then .next (s.launchFrame f)
  else if !((s.thread f.src).frames.any fun x => x.id == f.id) then .next s
  else if s.frameBehind f then .next (s.modThread f.src fun t => { t with outHeld := t.outHeld ++ [f.id] })
  else .next (s.launchFrame f)

/-! ### `rsend` and `rrecv` (R342, R343) -/

/-- A range of own scratch of `n` words: its offset, or the cause of a trap. -/
def State.ownWords (s : State) (w : Tid) (a : Word) (n : Nat) : Except Cause Nat :=
  match s.checkPlace w true false 1 a with
  | .error c => .error c
  | .ok (.scratch l off) =>
    if l != w.lcn || (s.job w.job).foot < off + 8 * n then .error .addr
    else if a.toNat % 8 != 0 then .error .align
    else .ok off
  | .ok _ => .error .addr

/-- The 64-bit words of a list of bytes. -/
def wordsOf (bs : List Byte) (n : Nat) : List Word := (List.range n).map fun i => w64 (fieldOf bs (8 * i) 8)

/-- `rsend`. -/
def execRsend (g : Gd) (a b : SReg) (s : State) : Host.Outcome State Fault Refusal :=
  s.guarded g fun s =>
    let w := s.cur
    let t := s.thread w
    let h := s.rd w a
    let va := s.rd w b
    let n := bitsOf h 56 4
    if !t.plays then s.castTrap w 1 0
    else if !bindV t.dns then s.castTrap w 2 0
    else if bitsOf h 60 4 != 0 then s.castTrap w 3 0
    else
      match if n = 0 then .ok 0 else s.ownWords w va n with
      | .error c => s.trap w c va 0
      | .ok off =>
        if !bindOpen t.dns then s.parkRecord w
        else
          s.atBlock w w.lcn off (8 * n) fun s =>
            let (s, bs) := s.readBlock w va w.lcn off (8 * n)
            (s.sendFrame w (bindTid w.job t.dns) h (wordsOf bs n) true).advance w

/-- `rrecv`. -/
def execRrecv (g : Gd) (d a : SReg) (s : State) : Host.Outcome State Fault Refusal :=
  s.guarded g fun s =>
    let w := s.cur
    let t := s.thread w
    let va := s.rd w a
    if !t.plays && !t.standsBy then s.castTrap w 1 0
    else
      match t.inbox with
      | [] => s.parkRecord w
      | f :: fs =>
        if isCue f.header then s.result 8 d f.header
        else
          match if f.body.isEmpty then .ok 0 else s.ownWords w va f.body.length with
          | .error c => s.trap w c va 0
          | .ok off =>
            s.atBlock w w.lcn off (8 * f.body.length) fun s =>
              let first := s.firstShut w.job w.lcn off (8 * f.body.length) true
              let (s, hits, sub) := s.scrWrite w.job w.lcn off (f.body.flatMap fun x => leBytes 8 x.toNat)
              ((s.markGuard w hits (va + w64 (first - off))).modThread w fun t =>
                { t with inbox := fs, accAt := max t.accAt (s.cyc + 5) }).result 8 d f.header

/-! ### `cbind`, `cget` and `cset` at the home (R344, R345) -/

/-- The group of a block. -/
def groupOf (blk : List Byte) (devs : List Nat) : RedGroup :=
  let f := fieldOf blk
  { thr := f 1 1, x0 := f 4 2, y0 := f 6 2, gw := f 8 2, gh := f 10 2, gen := BitVec.ofNat 32 (f 12 4), devs := devs }

/-- The home takes a `redcfg`: the group's configuration, with its count at 0, and the thread's next access may begin. -/
def State.setGroup (s : State) (w : Tid) (id : Nat) (blk : List Byte) (devs : List Nat) : State :=
  (s.modJob w.job fun b => { b with groups := b.groups.set (fieldOf blk 0 1) (groupOf blk devs) }).modThread w fun t =>
    if t.ordAcc = some id then { t with ordAcc := none, accAt := s.cyc + 1 } else t

/-- An access to the table or to a group, performed at the home; `leave` is the answer that nobody awaits. -/
def State.castPerform (s : State) (w : Tid) : CastReq → State × CastReq
  | .get i d => (s, .got d ((s.job w.job).castAt i).bits)
  | .set i u => (s.modEntry w.job i fun e => e.put 56 8 u.toNat, .did none)
  | .offer i cid =>
    let b := s.job w.job
    let e := b.castAt i
    let others := b.cast.filter fun (k, f) => k != i && f.heldBy w
    if e.sbv && !e.heldBy w || others.any fun (_, f) => f.captured then (s, .no i)
    else
      let s := others.foldl (fun s (k, _) => s.modEntry w.job k CastEntry.withdrawn) s
      let s := if e.heldBy w && e.cid == cid then s else s.modThread w fun t => { t with took := false }
      (s.modEntry w.job i fun e =>
        { (((e.put 32 16 w.lcn).put 52 4 w.thr).put 28 1 1) with cid := cid }, .did (some (w64 (0x40 + i))))
  | .withdraw i =>
    let e := (s.job w.job).castAt i
    if e.heldBy w && !e.captured then (s.modEntry w.job i CastEntry.withdrawn, .did (some 0)) else (s, .did none)
  | .leave =>
    (((s.job w.job).cast.filter fun (_, f) => f.heldBy w && !f.captured).foldl
      (fun s (k, _) => s.modEntry w.job k CastEntry.withdrawn) s, .leave)
  | .group id blk devs => (s.setGroup w id blk devs, .leave)
  | r => (s, r)

/-- A thread that waits for a home in a save area is suspended or held: it asks anew when it runs (log 17). -/
def State.turnsBack (s : State) (w : Tid) : CastReq → Bool
  | .leave | .group _ _ _ => false
  | _ => (s.thread w).stall == some .home && ((s.thread w).susp || (s.thread w).held)

/-- CAST_ACCESS: an access at the home, and its answer at the core that sent it. -/
def execCastAccess (w : Tid) (r : CastReq) (s : State) : Host.Outcome State Fault Refusal :=
  match r with
  | .got d v =>
    if s.away w.job w.lcn then .next (s.later 64 (.castAccess w r))
    else if (s.thread w).stall != some .home then .next s
    else .next ((s.landS w 8 d v).homeDone w)
  | .did stg =>
    if s.away w.job w.lcn then .next (s.later 64 (.castAccess w r))
    else if (s.thread w).stall != some .home then .next s
    else
      match stg with
      | some x => .next ((s.land w 8 [.sp 0x00E x] 0).homeDone w)
      | none => .next (s.homeDone w)
  | .no i =>
    if s.away w.job w.lcn then .next (s.later 64 (.castAccess w r))
    else if (s.thread w).stall != some .home then .next s
    else .next ((s.unstall w).castTrap w 8 i)
  | _ =>
    if s.away w.job 0 then .next (if s.turnsBack w r then s.unstall w else s.later 64 (.castAccess w r))
    else
      let (s, x) := s.castPerform w r
      .next (if x = .leave then s else s.answerFrom w (.castAccess w x))

/-- A stage operand. -/
def State.stageOpnd (s : State) (a : SReg) : Nat := bitsOf (s.rd s.cur a) 0 6

/-- `cbind` with `op=offer`. -/
def execCbindOffer (g : Gd) (a b : SReg) (s : State) : Host.Outcome State Fault Refusal :=
  s.guarded g fun s =>
    if (s.thread s.cur).plays then s.castTrap s.cur 1 (s.stageOpnd a)
    else s.askHome s.cur (.castAccess s.cur (.offer (s.stageOpnd a) ((s.rd s.cur b).truncate 20)))

/-- `cbind` with `op=withdraw`. -/
def execCbindWithdraw (g : Gd) (a b : SReg) (s : State) : Host.Outcome State Fault Refusal :=
  s.guarded g fun s => s.askHome s.cur (.castAccess s.cur (.withdraw (s.stageOpnd a)))

/-- `cget`. -/
def execCget (g : Gd) (d a : SReg) (s : State) : Host.Outcome State Fault Refusal :=
  s.guarded g fun s => s.askHome s.cur (.castAccess s.cur (.get (s.stageOpnd a) d))

/-- `cset`. -/
def execCset (g : Gd) (a b : SReg) (s : State) : Host.Outcome State Fault Refusal :=
  s.guarded g fun s => s.askHome s.cur (.castAccess s.cur (.set (s.stageOpnd a) ((s.rd s.cur b).truncate 8)))

/-- A thread that exits withdraws a registration that has not been captured (R344). -/
def State.castLeave (s : State) (w : Tid) : State :=
  if (s.thread w).standsBy then s.castSend .req w w.lcn 0 (.castAccess w .leave) else s

/-! ### Arm, commit and release at the home (R348, R350) -/

/-- The stage whose NEXT is a stage. -/
def Job.upOf (b : Job) (i : Nat) : Option Nat := (b.cast.find? fun (_, e) => e.v && e.nv && e.next == i).map Prod.fst

/-- The record of a cue if it can be armed, or the REASON of its failure. -/
def Job.armed (b : Job) (h : Word) : Except Nat CueCtx :=
  let i := cueS h
  let e := b.castAt i
  let ins := cueOp h == 1
  let down := if e.nv then [e.next] else []
  let up := if ins then none else b.upOf i
  let touched := i :: (if ins then [cueN h] else up.toList) ++ down
  let r := if ins then cueN h else i
  let x := b.castAt r
  let needs := cueOp h != 2
  if !e.v then .error 2
  else if touched.any fun k => (b.castAt k).busy then .error 3
  else if ins && (b.castAt (cueN h)).v then .error 6
  else if needs && (!x.sbv || (x.cid != 0 && x.cid.toNat != cueCid h)) then .error 4
  else
    .ok { touched := touched, standby := if needs then some ⟨x.sbLcn, x.sbThr, x.cid⟩ else none, regAt := r, up := up,
          down := if e.nv then bindWord e.next (b.castAt e.next).lcn (b.castAt e.next).thr false else 0 }

/-- The record of an armed cue. -/
def State.cueCtx (s : State) (j : Nat) (h : Word) : CueCtx := (s.job j).cues.getD (cueS h) {}

/-- Arms a cue: BUSY on every touched entry, and the standby captured. The answer is 0, or the REASON. -/
def State.armCue (s : State) (j : Nat) (h : Word) : State × Nat :=
  match (s.job j).armed h with
  | .error r => (s, r)
  | .ok c =>
    let s := c.touched.foldl (fun s k => s.modEntry j k fun e => e.put 29 1 1) s
    let s := if c.standby.isSome then s.modEntry j c.regAt fun e => { e with captured := true } else s
    (s.modJob j fun b => { b with cues := b.cues.set (cueS h) c }, 0)

/-- Clears the BUSY that an armed cue set, and its record. -/
def State.releaseCue (s : State) (j : Nat) (h : Word) : State :=
  let c := s.cueCtx j h
  let s := c.touched.foldl (fun s k => s.modEntry j k fun e => e.put 29 1 0) s
  let s := if c.standby.isSome then s.modEntry j c.regAt fun e => { e with captured := false } else s
  s.modJob j fun b => { b with cues := b.cues.del (cueS h) }

/-- Takes NEXT and NV of another entry. -/
def CastEntry.follow (e f : CastEntry) : CastEntry := (e.put 20 6 f.next).put 30 1 f.nv.toNat

/-- An entry is played by a captured standby, whose registration ends. -/
def CastEntry.takenBy (e : CastEntry) (o : Handover) : CastEntry :=
  (((e.put 0 16 o.lcn).put 16 4 o.thr).put 31 1 1).put 28 1 0

/-- The upstream to which q or d binds, as the new chain has it: 0 when there is none (R347). -/
def State.newUps (s : State) (j : Nat) (h : Word) : Word :=
  let c := s.cueCtx j h
  match cueOp h, c.standby with
  | 1, some o => bindWord (cueN h) o.lcn o.thr false
  | 3, some o => bindWord (cueS h) o.lcn o.thr false
  | _, _ =>
    match c.up with
    | some u => bindWord u ((s.job j).castAt u).lcn ((s.job j).castAt u).thr false
    | none => 0

/-- Commits a cue: the new chain, and the release. The answer is the upstream to which q or d binds. -/
def State.commitCue (s : State) (j : Nat) (h : Word) : State × Nat :=
  let c := s.cueCtx j h
  let i := cueS h
  let e := (s.job j).castAt i
  let ups := s.newUps j h
  let s :=
    match cueOp h, c.standby with
    | 1, some o =>
      (s.modEntry j (cueN h) fun x => (x.takenBy o).follow e).modEntry j i fun x => (x.put 20 6 (cueN h)).put 30 1 1
    | 3, some o => s.modEntry j i fun x => x.takenBy o
    | 2, _ =>
      let s := match c.up with
        | some u => s.modEntry j u fun x => x.follow e
        | none => s
      s.modEntry j i fun x => { bits := x.bits &&& 0xFF00000000000000, cid := 0, captured := false }
    | _, _ => s
  (s.releaseCue j h, ups.toNat)

/-! ### Tokens (R347, R349, R350) -/

/-- The new stage of a REBIND opens its upstream once it is bound and its state has arrived. -/
def State.tryOpen (s : State) (v : Tid) : State :=
  let t := s.thread v
  match t.opens with
  | some u =>
    if t.took then
      (s.modThread v fun t => { t with opens := none }).castSend .msg v v.lcn u.lcn (.openToken ⟨u, 0, 0, 0, none, 0⟩)
    else s
  | none => s

/-- A bind token for a thread stands on the agenda: a later token for it waits (R19, R353). -/
def State.bindAhead (s : State) (v : Tid) : Bool :=
  s.agenda.any fun p => match p.ev with | .bindToken t => t.dst == v | _ => false

/-- BIND_TOKEN: the new stage takes its bindings. -/
def execBindToken (t : Token) (s : State) : Host.Outcome State Fault Refusal :=
  if s.away t.dst.job t.dst.lcn then .next (s.later 64 (.bindToken t))
  else
    .next (((s.modThread t.dst fun v => { v with ups := t.ups, dns := t.dns, stg := t.stg, opens := t.opens }).tryOpen
      t.dst).wakeRecord t.dst)

/-- OPEN_TOKEN: output may be sent. -/
def execOpenToken (t : Token) (s : State) : Host.Outcome State Fault Refusal :=
  if s.away t.dst.job t.dst.lcn then .next (s.later 64 (.openToken t))
  else if s.bindAhead t.dst then .next (s.later 1 (.openToken t))
  else .next ((s.modThread t.dst fun v => { v with dns := setField v.dns 30 1 1 }).wakeRecord t.dst)

/-- UNBIND_TOKEN: at u, its DNS is restored, the standby is sent an unbind and the home the release; at the standby, its
binding registers are restored. -/
def execUnbindToken (u : Tid) (t : Token) (cue : Word) (s : State) : Host.Outcome State Fault Refusal :=
  if s.away u.job u.lcn then .next (s.later 64 (.unbindToken u t cue))
  else if s.bindAhead u then .next (s.later 1 (.unbindToken u t cue))
  else if u = t.dst then
    .next ((s.modThread u fun v => { v with ups := 0, dns := 0, stg := t.stg, opens := none }).wakeRecord u)
  else
    let s := (s.modThread u fun v => { v with dns := t.dns }).wakeRecord u
    let s := s.castSend .msg u u.lcn t.dst.lcn (.unbindToken t.dst t cue)
    .next (s.castSend .req u u.lcn 0
      (.cueFailReturn { w := u, cue := cue, d := none, role := .pass, answer := none, waits := false }))

/-! ### Cues (R346, R347) -/

/-- Sends a cue on to the stage that a binding word names. -/
def State.forwardCue (s : State) (w : Tid) (dns h : Word) : State :=
  if bindV dns then s.sendFrame w (bindTid w.job dns) h [] false else s

/-- The instruction that took a cue is over, with a result. -/
def State.cueEnd (s : State) (t : CueTake) (res : Nat) : State :=
  let s := match t.d with
    | some d => s.landS t.w 8 d (w64 res)
    | none => s
  if (s.thread t.w).stall = some .home then s.homeDone t.w
  else (s.modThread t.w fun v => { v with accAt := max v.accAt (s.cyc + 1) }).advance t.w

/-- Changes binding registers: 8 cycles after the home's answer, at once where the home was not asked. -/
def State.rebind (s : State) (w : Tid) (ws : List RegWrite) : State :=
  if (s.thread w).stall = some .home then s.land w 8 ws 0 else s.applyWrites w ws

/-- A cue fails at a stage (R350): REASON 5 goes first to u, every other failure to the home. -/
def State.failCue (s : State) (t : CueTake) (reason : Nat) : State :=
  let w := t.w
  let v := s.thread w
  let h := setField (setField t.cue 32 8 reason) 62 1 1
  match reason, bindV v.ups, (s.cueCtx w.job h).standby with
  | 5, true, some o =>
    let k : Token :=
      { dst := ⟨w.job, o.lcn, o.thr⟩, ups := 0, dns := bindWord (cueS h) w.lcn w.thr true, stg := w64 (0x40 + cueS h), opens := none }
    let u := bindTid w.job v.ups
    (s.castSend .msg w w.lcn u.lcn (.unbindToken u k h)).cueEnd t (5 + 5 * 256)
  | _, _, _ => s.askHome w (.cueFailReturn { t with cue := h, answer := none, waits := true })

/-- CUE_FAIL_RETURN: the home clears BUSY and sends the cue to its injector; then the thread that waits for it goes on. -/
def execCueFailReturn (t : CueTake) (s : State) : Host.Outcome State Fault Refusal :=
  let w := t.w
  match t.answer with
  | none =>
    if s.away w.job 0 then .next (s.later 64 (.cueFailReturn t))
    else
      let s := if cueArmed t.cue then s.releaseCue w.job t.cue else s
      let e := (s.job w.job).castAt (cueInj t.cue)
      let f : Frame := { id := s.seq, src := w, dst := ⟨w.job, e.lcn, e.thr⟩, header := t.cue, body := [], own := false }
      let s := s.drawn.launchFrame f
      .next (if t.waits then s.answerFrom w (.cueFailReturn { t with answer := some 0 }) else s)
  | some _ =>
    if s.away w.job w.lcn then .next (s.later 64 (.cueFailReturn t))
    else if (s.thread w).stall != some .home then .next s
    else .next (s.cueEnd t (5 + cueReason t.cue * 256))

/-- Role s: the stage leaves the chain, if it may (R347, R351). -/
def State.leaveStage (s : State) (t : CueTake) : State :=
  let w := t.w
  let v := s.thread w
  let s := s.modThread w fun v => { v with handover := none }
  if cueOp t.cue = 3 && v.handover != (s.cueCtx w.job t.cue).standby then s.failCue t 5
  else
    let s := s.forwardCue w v.dns t.cue
    if bindV v.dns then (s.rebind w [.sp 0x00C 0, .sp 0x00D 0, .sp 0x00E 0]).cueEnd t 3
    else s.askHome w (.cueCommit { t with answer := none })

/-- Sends the bind token of a captured standby. -/
def State.sendBind (s : State) (w : Tid) (o : Handover) (ups dns stg : Word) (opens : Option Tid) : State :=
  s.castSend .msg w w.lcn o.lcn (.bindToken { dst := ⟨w.job, o.lcn, o.thr⟩, ups := ups, dns := dns, stg := stg, opens := opens })

/-- The first stage has armed a cue: p of an INSERT, u of a REMOVE or REBIND. -/
def State.cueFirst (s : State) (t : CueTake) : State :=
  let w := t.w
  let v := s.thread w
  let h := t.cue
  let c := s.cueCtx w.job h
  let s := s.forwardCue w v.dns h
  match cueOp h, c.standby with
  | 1, some o =>
    let s := s.sendBind w o (bindWord (cueS h) w.lcn w.thr false) (if bindV v.dns then shut v.dns else 0)
      (w64 (0x80 + cueN h)) none
    let s := s.rebind w [.sp 0x00C (bindWord (cueN h) o.lcn o.thr true)]
    if bindV v.dns then s.cueEnd t 1 else s.askHome w (.cueCommit { t with answer := none })
  | 3, some o =>
    let s := s.sendBind w o (bindWord v.stage w.lcn w.thr false) c.down (w64 (0x80 + cueS h)) (some w)
    (s.rebind w [.sp 0x00C (bindWord (cueS h) o.lcn o.thr false)]).cueEnd t 1
  | _, _ => (s.rebind w [.sp 0x00C c.down]).cueEnd t 1

/-- CUE_ARM: at the home, and the answer at the stage that armed. -/
def execCueArm (t : CueTake) (s : State) : Host.Outcome State Fault Refusal :=
  let w := t.w
  match t.answer with
  | none =>
    if s.away w.job 0 then .next (s.later 64 (.cueArm t))
    else
      let (s, r) := s.armCue w.job t.cue
      .next (s.answerFrom w (.cueArm { t with answer := some r }))
  | some r =>
    if s.away w.job w.lcn then .next (s.later 64 (.cueArm t))
    else if (s.thread w).stall != some .home then .next s
    else if r != 0 then
      .next ((if t.role = .s then s.modThread w fun v => { v with handover := none } else s).failCue t r)
    else
      let t := { t with cue := setField t.cue 61 1 1 }
      .next (if t.role = .first then s.cueFirst t else s.leaveStage t)

/-- CUE_COMMIT: at the home, and the answer at the stage that committed. -/
def execCueCommit (t : CueTake) (s : State) : Host.Outcome State Fault Refusal :=
  let w := t.w
  match t.answer with
  | none =>
    if s.away w.job 0 then .next (s.later 64 (.cueCommit t))
    else
      let (s, u) := s.commitCue w.job t.cue
      .next (s.answerFrom w (.cueCommit { t with answer := some u }))
  | some u =>
    if s.away w.job w.lcn then .next (s.later 64 (.cueCommit t))
    else if (s.thread w).stall != some .home then .next s
    else
      let v := s.thread w
      let s :=
        match t.role with
        | .last => (s.rebind w [.sp 0x00D (w64 u)]).forwardCue w v.dns (setField t.cue 60 1 1)
        | .s => s.rebind w [.sp 0x00C 0, .sp 0x00D 0, .sp 0x00E 0]
        | _ => s
      .next (s.cueEnd t 2)

/-- The role of a thread for a cue. -/
def Thread.role (t : Thread) (h : Word) : CueRole :=
  let i := cueS h
  let below := bindV t.ups && bindStage t.ups == i
  if cueFail h then .injector
  else if cueDone h then .pass
  else if cueOp h = 1 then
    if t.plays && t.stage == i then .first else if below && cueArmed h then .last else .pass
  else if bindV t.dns && bindStage t.dns == i then .first
  else if t.plays && t.stage == i then (if cueArmed h || !bindV t.ups then .s else .pass)
  else if below && cueArmed h then .last
  else .pass

/-- A thread takes a cue: it waits for OPEN, removes the cue with `pop`, and acts by its role. -/
def State.takeCue (s : State) (w : Tid) (h : Word) (d : Option SReg) (pop : State → State) : State :=
  let v := s.thread w
  if bindV v.dns && !bindOpen v.dns && !cueFail h then s.parkRecord w
  else
    let s := pop s
    let t : CueTake := { w := w, cue := h, d := d, role := v.role h, answer := none, waits := true }
    match t.role with
    | .injector => s.cueEnd t (6 + cueReason h * 256)
    | .pass =>
      if bindV v.dns then (s.forwardCue w v.dns h).cueEnd t 0
      else if cueDone h then s.cueEnd t 4
      else s.failCue t 1
    | .first => s.askHome w (.cueArm t)
    | .s => if cueArmed h then s.leaveStage t else s.askHome w (.cueArm t)
    | .last =>
      let u := s.newUps w.job h
      let s := if bindV u then s.castSend .msg w w.lcn (bitsOf u 0 16) (.openToken ⟨bindTid w.job u, 0, 0, 0, none, 0⟩) else s
      s.askHome w (.cueCommit t)

/-- The header of `cue` is not one that may be injected (R346). -/
def badCue (h : Word) : Bool :=
  !isCue h || bitsOf h 56 7 != 0 || !([1, 2, 3].contains (cueOp h)) || cueReason h != 0 || cueInj h != 0 || bitsOf h 20 6 != 0 ||
    (cueOp h != 1 && cueN h != 0)

/-- `cue`. -/
def execCue (g : Gd) (a : SReg) (s : State) : Host.Outcome State Fault Refusal :=
  s.guarded g fun s =>
    let h := s.rd s.cur a
    let t := s.thread s.cur
    if !t.plays then s.castTrap s.cur 1 0
    else if badCue h then s.castTrap s.cur 3 0
    else s.takeCue s.cur (setField h 26 6 t.stage) none id

/-- The cue at the head of an inbox is the one that `cuetake` names: equal in [63:60] and [55:0]. -/
def headIs (t : Thread) (a : Word) : Bool :=
  match t.inbox with
  | f :: _ => isCue f.header && setField (f.header ^^^ a) 56 4 0 == 0
  | [] => false

/-- `cuetake`. -/
def execCuetake (g : Gd) (d a : SReg) (s : State) : Host.Outcome State Fault Refusal :=
  s.guarded g fun s =>
    let w := s.cur
    let t := s.thread w
    match t.inbox with
    | f :: fs =>
      if headIs t (s.rd w a) then s.takeCue w f.header (some d) fun s => s.modThread w fun t => { t with inbox := fs }
      else s.castTrap w 4 0
    | [] => s.castTrap w 4 0

/-! ### Stage state (R351, R352) -/

/-- `sthand`. -/
def execSthand (g : Gd) (d : HReg) (a b : SReg) (s : State) : Host.Outcome State Fault Refusal :=
  s.guarded g fun s =>
    let w := s.cur
    let t := s.thread w
    let va := s.rd w a
    let n := (s.rd w b).toNat
    if !t.plays then s.castTrap w 1 0
    else if n % 8 != 0 || n < 8 || 4096 < n then s.castTrap w 6 0
    else
      match s.ownWords w va (n / 8) with
      | .error c => s.trap w c va 0
      | .ok off =>
        s.atBlock w w.lcn off n fun s => s.withHandle w d .state fun h s =>
          let (s, bs, hits, sub) := s.scrRead w.job w.lcn off n
          let x : StateXfer :=
            { id := s.seq, src := w, stage := t.stage, addr := va, len := n, h := h, standby := none, cid := 0, phase := 0,
              bytes := bs, guardHit := hits != 0, subst := sub }
          (s.drawn.castSend .req w w.lcn 0 (.stateTransfer x)).advance w

/-- `sttake`. -/
def execSttake (g : Gd) (d : HReg) (a : SReg) (s : State) : Host.Outcome State Fault Refusal :=
  s.guarded g fun s =>
    let w := s.cur
    let t := s.thread w
    let va := s.rd w a
    if !t.standsBy then s.castTrap w 5 0
    else if t.sttake.isSome then s.castTrap w 7 0
    else
      match s.ownWords w va 512 with
      | .error c => s.trap w c va 0
      | .ok _ =>
        s.withHandle w d .state fun h s =>
          (s.modThread w fun t => { t with sttake := some (h, va), took := false }).advance w

/-- The status of a transfer. -/
def xferStatus (guardHit subst : Bool) : Nat := if guardHit then 2 else if subst then 1 else 0

/-- The flits of a transfer set out for the standby; a link takes 32 bytes in a cycle (R18). -/
def State.sendState (s : State) (x : StateXfer) : State :=
  match x.standby with
  | some v =>
    s.sendTo (s.localHop v.job x.src.lcn v.lcn) .msg x.src x.src.lcn v.lcn (.stateTransfer { x with phase := 2 })
      ((x.len + 31) / 32)
  | none => s

/-- The state reaches the standby: refused, or written at the landing address. -/
def State.landState (s : State) (x : StateXfer) (v : Tid) : State :=
  let t := s.thread v
  match t.sttake with
  | some (h, va) =>
    let (s, hits, sub) := s.scrWrite v.job v.lcn (bitsOf va 0 21) x.bytes
    let y := { x with phase := 3, guardHit := x.guardHit || hits != 0 }
    let st := xferStatus y.guardHit y.subst
    let s := (s.modThread v fun t => { t with sttake := none }).resolve 8 h (cwordHi st 0 x.len) (flagIf x.subst fSB)
    (s.later 8 (.stateTransfer { y with phase := 4 })).castSend .rsp v v.lcn x.src.lcn (.stateTransfer y)
  | none => s.sendTo (64 + s.localHop v.job v.lcn x.src.lcn) .rsp v v.lcn x.src.lcn (.stateResend x)

/-- The handle of a `sttake` has resolved: with OK or OK_SUBST the standby that the transfer was for has taken its state
(R349). -/
def State.stateTaken (s : State) (x : StateXfer) (v : Tid) : State :=
  let t := s.thread v
  let e := (s.job v.job).castAt x.stage
  if xferStatus x.guardHit x.subst != 2 && t.stage == x.stage && (t.opens.isSome || (e.heldBy v && e.cid == x.cid)) then
    (s.modThread v fun t => { t with took := true }).tryOpen v
  else s

/-- STATE_TRANSFER: the home names the standby, the state sets out, lands or is refused, the answer resolves `sthand`, and the
standby has taken its state. -/
def execStateTransfer (x : StateXfer) (s : State) : Host.Outcome State Fault Refusal :=
  let w := x.src
  match x.phase with
  | 0 =>
    if s.away w.job 0 then .next (s.later 64 (.stateTransfer x))
    else
      let e := (s.job w.job).castAt x.stage
      .next (s.answerFrom w (.stateTransfer
        { x with phase := 1, standby := if e.sbv then some ⟨w.job, e.sbLcn, e.sbThr⟩ else none, cid := e.cid }))
  | 1 =>
    if x.standby.isSome then .next (s.sendState x)
    else .next ((s.modThread w fun t => { t with handover := none }).resolve 0 x.h (cword 13 0) 0)
  | 2 =>
    match x.standby with
    | some v => .next (if s.away v.job v.lcn then s.later 64 (.stateTransfer x) else s.landState x v)
    | none => .next s
  | 4 =>
    match x.standby with
    | some v => .next (s.stateTaken x v)
    | none => .next s
  | _ =>
    let st := xferStatus x.guardHit x.subst
    let rec_ : Option Handover := match x.standby with
      | some v => if st = 2 then none else some ⟨v.lcn, v.thr, x.cid⟩
      | none => none
    .next ((s.modThread w fun t => { t with handover := rec_ }).resolve 0 x.h (cwordHi st 0 x.len) (flagIf x.subst fSB))

/-- STATE_RESEND: refused state sets out again. -/
def execStateResend (x : StateXfer) (s : State) : Host.Outcome State Fault Refusal := .next (s.sendState x)

end Sys2Proof.Machine
end

