-- ==== Sys2Proof/Machine/Reduce.lean ====
section
/-!
DEFINITION. Reductions, class 0xE (R357 to R366): groups, contributions, the tree of a device, the tree of devices, the
conversion at the root and the broadcast of the result.
-/

set_option linter.unusedVariables false

namespace Sys2Proof.Machine

/-! ### Groups (R358, R359) -/

/-- The offset of the first field of a group block that breaks R358, but for the device list. -/
def Job.badGroup (b : Job) (blk : List Byte) : Option Nat :=
  let f := fieldOf blk
  if b.redgrp ≤ f 0 1 then some 0
  else if b.t ≤ f 1 1 then some 1
  else if f 2 2 != 0 then some 2
  else if f 8 2 = 0 || b.w < f 4 2 + f 8 2 then some 8
  else if f 10 2 = 0 || b.h < f 6 2 + f 10 2 then some 10
  else if 16384 < f 16 2 then some 16
  else if (blk.drop 18).take 6 |>.any (· != 0) then some 18
  else if f 16 2 != 0 && (f 24 8 % 2 != 0 || 2 ^ 48 < f 24 8 + 2 * f 16 2) then some 24
  else if (blk.drop 32).any (· != 0) then some 32
  else none

/-- Reads `n` 16-bit values of the pool from a virtual address; none where a page cannot be read. -/
def State.poolShorts (s : State) (pc job va : Nat) : Nat → Option (List Nat)
  | 0 => some []
  | n + 1 =>
    match s.walkTable pc job va with
    | .leaf t =>
      let pa := t.frame + va % t.size
      if (t.denies .read).isSome || (s.dev.slice pa).isNone then none
      else (s.poolShorts pc job (va + 2) n).map (s.poolNat pa 2 :: ·)
    | .fault _ _ => none

/-- A device list is strictly ascending, holds this device, and only it and devices bound to the job. -/
def State.devsOk (s : State) (b : Job) (l : List Nat) : Bool :=
  (l.zip (l.drop 1)).all (fun (x, y) => decide (x < y)) && l.contains s.dev.devid.toNat &&
    l.all fun x => x == s.dev.devid.toNat || b.bound.any fun y => y.1 == x

/-- `redcfg`. -/
def execRedcfg (g : Gd) (a : SReg) (s : State) : Host.Outcome State Fault Refusal :=
  s.guarded g fun s =>
    let w := s.cur
    let b := s.job w.job
    let va := s.rd w a
    match s.checkPlace w true false 64 va with
    | .error c => s.trap w c va 0
    | .ok (.scratch l off) =>
     s.atBlock w l off 64 fun s =>
      let (s', blk) := s.readBlock w va l off 64
      let devn := fieldOf blk 16 2
      match b.badGroup blk, s.poolShorts (s.phys w.job w.lcn) w.job (fieldOf blk 24 8) devn with
      | some o, _ => s.trap w .addr va (w64 o)
      | none, none => s.trap w .addr va 24
      | none, some devs =>
        if devn != 0 && !s.devsOk b devs then s.trap w .addr va 24
        else if (b.groups.get? (fieldOf blk 0 1)).any fun g => g.ops.any fun o => !o.2.cons.isEmpty then
          s.trap w .addr va 0x41
        else
          let id := s'.seq
          (((s'.drawn.modThread w fun t => { t with ordAcc := some id }).castSend .req w w.lcn 0
            (.castAccess w (.group id blk devs)))).advance w
    | .ok _ => s.trap w .addr va 0

/-! ### Contributions (R360) -/

/-- The node of a thread that contributes: its rank among the members. -/
def RedGroup.node (g : RedGroup) (b : Job) (w : Tid) : Option Nat :=
  if w.thr != g.thr then none else (g.members b.w).findIdx? (· == w.lcn)

/-- Changes a group. -/
def State.modGroup (s : State) (j grp : Nat) (f : RedGroup → RedGroup) : State :=
  s.modJob j fun b =>
    match b.groups.get? grp with
    | some g => { b with groups := b.groups.set grp (f g) }
    | none => b

/-- Changes a reduction. -/
def State.modRed (s : State) (j grp k : Nat) (f : RedOp → RedOp) : State :=
  s.modGroup j grp fun g => { g with ops := g.ops.set k (f (g.ops.getD k {})) }

/-- Enters the contribution of a node. -/
def RedGroup.contribute (g : RedGroup) (k i : Nat) (c : RedCon) : RedGroup :=
  let o := g.ops.getD k {}
  { g with
    cnt := g.cnt.set i (k + 1)
    out := g.out.set i (g.out.getD i [] ++ [c.h])
    ops := g.ops.set k { o with cons := o.cons.set i c } }

/-- A contributing instruction: the checks, the third outstanding contribution, and the contribution. -/
def State.contribute (s : State) (grp : BitVec 3) (kind : RedKind) (op : FOp) (t : Ty) (rm : Rm) (sat : Bool) (d : HReg)
    (vals : List Word) (va : Word) : State :=
  let w := s.cur
  let b := s.job w.job
  match b.groups.get? grp.toNat with
  | none => s.trap w .addr 0 0x40
  | some g =>
    match g.node b w with
    | none => s.trap w .addr 0 0x42
    | some i =>
      match s.ownWords w va (if kind = .reds then 1 else 32) with
      | .error c => s.trap w c va 0
      | .ok _ =>
        if 2 ≤ (g.out.getD i []).length then s.park w .engq (w64 (0x200 + grp.toNat)) false .reissue
        else
          s.withHandle w d (.red grp.toNat) fun h s =>
            let k := g.cnt.getD i 0
            let c : RedCon := { w := w, kind := kind, op := op, t := t, rm := rm, sat := sat, vals := vals, res := va, h := h }
            (((s.modGroup w.job grp.toNat fun g => g.contribute k i c).later 2 (.redCombine w.job grp.toNat k i none none)).modThread
              w fun t => { t with accAt := max t.accAt (s.cyc + 3) }).advance w

/-- The lanes of a vector as words. -/
def laneWords (v : Vec) : List Word := v.toList.map fun x => x.zeroExtend 64

/-- `redv`. -/
def execRedv (g : Gd) (t : Ty) (rm : Rm) (sat : Bool) (grp : BitVec 3) (op : FOp) (d : HReg) (a : VReg) (b : SReg)
    (s : State) : Host.Outcome State Fault Refusal :=
  s.guarded g fun s => s.contribute grp .redv op t rm sat d (laneWords (s.rdV s.cur a)) (s.rd s.cur b)

/-- `reds`. -/
def execReds (g : Gd) (t : Ty) (rm : Rm) (sat : Bool) (grp : BitVec 3) (op : FOp) (d : HReg) (a b : SReg) (s : State) :
    Host.Outcome State Fault Refusal :=
  s.guarded g fun s => s.contribute grp .reds op t rm sat d [w64 (s.rdT s.cur t a)] (s.rd s.cur b)

/-- `bcastv`. -/
def execBcastv (g : Gd) (grp : BitVec 3) (d : HReg) (a : VReg) (b : SReg) (s : State) : Host.Outcome State Fault Refusal :=
  s.guarded g fun s => s.contribute grp .bcastv .add .i8 .rne false d (laneWords (s.rdV s.cur a)) (s.rd s.cur b)

/-! ### The combining view (R362) -/

/-- A contribution in the combining view, an a80 or i80 pattern. -/
def redView (t : Ty) (x : Word) : Nat × FlagBits :=
  if t.isFloat then conv .a80 t .rne false (x.toNat % 2 ^ t.width) else (intBits 80 (t.intValue x.toNat), 0)

/-- comb. -/
def redComb (t : Ty) (op : FOp) (a b : Nat) : Nat × FlagBits :=
  if t.isFloat then op.apply .a80 .rne a b
  else
    let x := bitsInt 80 a
    let y := bitsInt 80 b
    match op with
    | .add =>
      let (r, f) := clampInt (-2 ^ 79) (2 ^ 79 - 1) (x + y)
      (intBits 80 r, f)
    | .min => (intBits 80 (min x y), 0)
    | .max => (intBits 80 (max x y), 0)

/-- The conversion of G at the root. -/
def redConv (t : Ty) (rm : Rm) (sat : Bool) (x : Nat) : Nat × FlagBits :=
  if t.isFloat then conv t .a80 rm sat x else t.intResult sat (bitsInt 80 x)

/-- One lane of a subtotal: a node's own contribution combined with those of its children in order. -/
def redLane (t : Ty) (op : FOp) (own : Word) (children : List Nat) : Nat × FlagBits :=
  children.foldl (fun (a, f) x => let (r, g) := redComb t op a x; (r, f ||| g)) (redView t own)

/-! ### The tree (R362, R364) -/

/-- The children of a node among `m`. -/
def redChildren (m i : Nat) : List Nat := [2 * i + 1, 2 * i + 2].filter fun c => decide (c < m)

/-- The subtotal of a node that holds everything it takes: one pattern a lane, and the flags. -/
def RedOp.subtotal (o : RedOp) (c : RedCon) (kids : List Nat) : List (BitVec 80) × FlagBits :=
  if c.kind = .bcastv then ([], 0)
  else
    let rows := kids.map fun i => o.subs.getD i []
    let lanes := c.vals.mapIdx fun n x => redLane c.t c.op x (rows.map fun r => (r.getD n 0).toNat)
    (lanes.map fun x => BitVec.ofNat 80 x.1, lanes.foldl (fun (f : FlagBits) x => f ||| x.2) 0)

/-- Two contributions agree (R361). -/
def RedCon.agrees (a b : RedCon) : Bool := a.kind == b.kind && a.op == b.op && a.t == b.t && a.rm == b.rm && a.sat == b.sat

/-- The total of this device with those of the devices below it (R362). -/
def RedOp.total (o : RedOp) (c : RedCon) (kids : List Nat) : List (BitVec 80) × FlagBits :=
  if c.kind = .bcastv then ([], 0)
  else
    let rows := (kids.filterMap o.devs.get?).map RedMsg.sub
    let lane (n : Nat) (x : BitVec 80) : Nat × FlagBits :=
      rows.foldl (fun (a, f) r => let (y, g) := redComb c.t c.op a (r.getD n 0).toNat; (y, f ||| g)) (x.toNat, 0)
    let lanes := (o.subs.getD 0 []).mapIdx lane
    (lanes.map fun x => BitVec.ofNat 80 x.1,
      (lanes.foldl (fun (f : FlagBits) x => f ||| x.2) 0) ||| (kids.filterMap o.devs.get?).foldl (fun f m => f ||| m.flags) 0)

/-- Something that has reached the root of this device disagrees with its own contribution (R361). -/
def RedOp.differs (o : RedOp) (g : RedGroup) (c : RedCon) : Bool :=
  (o.cons.any fun (_, x) => !RedCon.agrees x c) ||
    o.devs.any fun (_, m) => m.mismatch || m.gen != g.gen || !RedCon.agrees m.con c

/-- The root of the group has everything: the result, or the mismatch. -/
def RedOp.finish (o : RedOp) (c : RedCon) (sub : List (BitVec 80)) (bad : Bool) : RedOp :=
  if bad then { o with mismatch := true }
  else if c.kind = .bcastv then { o with result := some c.vals }
  else
    let lanes := sub.map fun x => redConv c.t c.rm c.sat x.toNat
    { o with
      result := some (lanes.map fun x => if c.kind = .reds then c.t.extend x.1 else w64 x.1)
      flags := lanes.foldl (fun (f : FlagBits) x => f ||| x.2) o.flags }

/-- Beats of a message of a reduction on a link: a vector takes 8 (R364). -/
def redBeats (vec : Bool) : Nat := if vec then 8 else 1

/-- Sends a step along an edge of the tree between two nodes. -/
def State.redSend (s : State) (d j : Nat) (l l' : Nat) (e : Event) (vec : Bool) : State :=
  s.sendTo (d + s.localHop j l l') .red ⟨j, l, 0⟩ l l' e (redBeats vec)

/-- The rank of this device in a group; 0 in a group of one device. -/
def State.redRank (s : State) (g : RedGroup) : Nat := (g.devs.findIdx? (· == s.dev.devid.toNat)).getD 0

/-- The devices below this one in a group. -/
def State.redBelow (s : State) (g : RedGroup) : List Nat := redChildren g.devs.length (s.redRank g)

/-- Sends a message of a reduction to the device of a rank, for the job that is bound there. -/
def State.redPeer (s : State) (j grp k : Nat) (g : RedGroup) (rank : Nat) (down : Bool) (m : RedMsg) : State :=
  let dev := g.devs.getD rank 0
  match (s.job j).bound.find? fun x => x.1 == dev with
  | some x => s.peerSend dev (.red x.2 grp k down m)
  | none => s

/-- This device holds its own total and that of every device below it: it sends its total up the tree of devices, or, at its
root, forms the result (R362, R364). -/
def State.redDevice (s : State) (j grp k d : Nat) : State :=
  match (s.job j).groups.get? grp with
  | none => s
  | some g =>
    let o := g.ops.getD k {}
    let below := s.redBelow g
    match o.cons.get? 0 with
    | none => s
    | some c =>
      if (o.subs.get? 0).isNone || o.combined || !(below.all fun r => (o.devs.get? r).isSome) then s
      else
        let (sub, f) := o.total c below
        let bad := o.differs g c
        let o := { o with combined := true, flags := o.flags ||| f }
        let r := s.redRank g
        if r = 0 then
          (s.modRed j grp k fun _ => o.finish c sub bad).later (d + 4 * below.length + if c.kind = .bcastv then 0 else 8)
            (.redBroadcast j grp k 0 none)
        else
          (s.modRed j grp k fun _ => o).redPeer j grp k g ((r - 1) / 2) false
            { rank := r, gen := g.gen, con := c, sub := sub, result := none, flags := o.flags, mismatch := bad }

/-- A node that holds its own contribution and every child's subtotal combines them, and sends its subtotal on. -/
def State.redNode (s : State) (j grp k i : Nat) : State :=
  let b := s.job j
  match b.groups.get? grp with
  | none => s
  | some g =>
    let o := g.ops.getD k {}
    let mem := g.members b.w
    let kids := redChildren mem.length i
    match o.cons.get? i with
    | none => s
    | some c =>
      if (o.subs.get? i).isSome || !(kids.all fun x => o.got.contains x) then s
      else
        let (sub, f) := o.subtotal c kids
        let o := { o with subs := o.subs.set i sub, flags := o.flags ||| f }
        let d := 4 * kids.length
        if i = 0 then (s.modRed j grp k fun _ => o).redDevice j grp k d
        else
          let p := (i - 1) / 2
          (s.modRed j grp k fun _ => o).redSend d j (mem.getD i 0) (mem.getD p 0) (.redCombine j grp k p (some i) none)
            (c.kind == .redv)

/-- The reduction of a group exists and its node is resident. -/
def State.redAway (s : State) (j grp node : Nat) : Bool :=
  match (s.job j).groups.get? grp with
  | some g => s.away j ((g.members (s.job j).w).getD node 0)
  | none => false

/-- The total of a device below this one arrives. -/
def State.redFromBelow (s : State) (j grp k : Nat) (m : RedMsg) : State :=
  match (s.job j).groups.get? grp with
  | none => s
  | some g =>
    if (s.redBelow g).contains m.rank && (s.job j).bound.any fun x => x.1 == g.devs.getD m.rank 0 then
      (s.modRed j grp k fun o => { o with devs := o.devs.set m.rank m }).redDevice j grp k 0
    else s

/-- RED_COMBINE: a node's own contribution, a child's subtotal, or the total of a device below has arrived. -/
def execRedCombine (job grp k node : Nat) (i : RedIn) (s : State) :
    Host.Outcome State Fault Refusal :=
  if s.redAway job grp node then .next (s.later 64 (.redCombine job grp k node i.src i.msg))
  else
    match i.msg, i.src with
    | some m, _ => .next (s.redFromBelow job grp k m)
    | none, some c =>
      let sent := ((s.job job).groups.get? grp).any fun g => (g.ops.get? k).any fun o => (o.subs.get? c).isSome
      if !sent then .next s
      else
        .next ((s.modRed job grp k fun o => { o with got := if o.got.contains c then o.got else o.got ++ [c] }).redNode job
          grp k node)
    | none, none => .next (s.redNode job grp k node)

/-- The result, or the mismatch, that the device above sends. -/
def RedOp.told (o : RedOp) (m : RedMsg) : RedOp :=
  { o with result := if m.mismatch then none else m.result, mismatch := m.mismatch, flags := m.flags }

/-- The message by which a device passes a result on to those below it. -/
def RedOp.tell (o : RedOp) (r : Nat) (g : RedGroup) (c : RedCon) : RedMsg :=
  { rank := r, gen := g.gen, con := c, sub := [], result := o.result, flags := o.flags, mismatch := o.mismatch }

/-- RED_BROADCAST: the result reaches a node, which passes it to its children, and writes it; the root passes it to the devices
below. -/
def execRedBroadcast (job grp k : Nat) (i : RedOut) (s : State) : Host.Outcome State Fault Refusal :=
  if s.redAway job grp i.node then .next (s.later 64 (.redBroadcast job grp k i.node i.msg))
  else
    match (s.job job).groups.get? grp with
    | none => .next s
    | some g =>
      match (g.ops.get? k).bind fun o => (o.cons.get? i.node).map fun c => (o, c) with
      | none => .next s
      | some (o, c) =>
        let o := match i.msg with | some m => o.told m | none => o
        let s := if i.msg.isSome then s.modRed job grp k fun _ => o else s
        let s := if i.node = 0 then
            (s.redBelow g).foldl (fun s r => s.redPeer job grp k g r true (o.tell (s.redRank g) g c)) s
          else s
        let mem := g.members (s.job job).w
        let s := (redChildren mem.length i.node).foldl
          (fun s x => s.redSend 0 job (mem.getD i.node 0) (mem.getD x 0) (.redBroadcast job grp k x none) (c.kind != .reds)) s
        .next (s.later 4 (.redResolve job grp k i.node))

/-- The bytes of a result. -/
def RedCon.bytes (c : RedCon) (l : List Word) : List Byte :=
  l.flatMap fun x => leBytes (if c.kind = .reds then 8 else 4) x.toNat

/-- A node is done with a reduction; the last one ends it. -/
def State.redNodeDone (s : State) (j grp k node m : Nat) : State :=
  s.modGroup j grp fun g =>
    let o := g.ops.getD k {}
    let done := o.resolved ++ [node]
    if done.length = m then { g with ops := g.ops.del k } else { g with ops := g.ops.set k { o with resolved := done } }

/-- RED_RESOLVE: a contributor's result is written, and its handle resolves. -/
def execRedResolve (job grp k node : Nat) (s : State) : Host.Outcome State Fault Refusal :=
  if s.redAway job grp node then .next (s.later 64 (.redResolve job grp k node))
  else
    match (s.job job).groups.get? grp with
    | none => .next s
    | some g =>
      match (g.ops.get? k).bind fun o => (o.cons.get? node).map fun c => (o, c) with
      | none => .next s
      | some (o, c) =>
        let (s, st) :=
          match o.result with
          | some l =>
            let (s, hits, _) := s.scrWrite job c.w.lcn (bitsOf c.res 0 21) (RedCon.bytes c l)
            (s, if hits = 0 then 0 else 2)
          | none => (s, 8)
        .next ((s.resolve 8 c.h (cwordHi st 0 k) o.flags).redNodeDone job grp k node (g.gw * g.gh))

end Sys2Proof.Machine
end

