-- ==== Sys2Proof/Machine/SpanMath.lean ====
section
/-!
DEFINITION. The arithmetic of a span (R154 to R158): exact sums of products, the NaN and infinity bits, promotion into the
accumulator, and the conversion of a delivered element.
-/

set_option linter.unusedVariables false

namespace Sys2Proof

/-! ### A K-step (R154, R156) -/

/-- An operand element: its exact value n·2^q, or 1 NaN, 2 +∞, 4 −∞. -/
structure KVal where
  d : Dy
  special : Nat
deriving DecidableEq, Repr

/-- An element of a span operand. -/
def Ty.kval (t : Ty) (bits : Nat) : KVal :=
  if t.isInt then ⟨⟨t.intValue bits, 0⟩, 0⟩
  else
    match t.value bits with
    | .nan _ => ⟨⟨0, 0⟩, 1⟩
    | .inf neg => ⟨⟨0, 0⟩, if neg then 4 else 2⟩
    | x => ⟨x.dy, 0⟩

/-- Elements of a 64-byte row. -/
def Ty.perRow (t : Ty) : Nat := 512 / t.width

/-- The elements of a row. -/
def Ty.kRow (t : Ty) (row : BitVec 512) : List KVal :=
  (List.range t.perRow).map fun k => t.kval (row.toNat / 2 ^ (t.width * k) % 2 ^ t.width)

/-- The bits that the product of two elements sets, and its flags. -/
def KVal.mark (a b : KVal) : Nat × FlagBits :=
  if a.special = 0 && b.special = 0 then (0, 0)
  else if a.special = 1 || b.special = 1 then (1, 0)
  else if (a.special = 0 && a.d.n = 0) || (b.special = 0 && b.d.n = 0) then (1, fIV)
  else
    let neg (x : KVal) : Bool := x.special == 4 || (x.special == 0 && x.d.n < 0)
    (if neg a != neg b then 4 else 2, 0)

/-- The exact sum of the products of two rows, the bits set, and the flags. -/
def rowDot (a b : List KVal) : Dy × Nat × FlagBits :=
  (a.zip b).foldl
    (fun (d, m, f) (x, y) =>
      let (n, g) := x.mark y
      (if x.special = 0 && y.special = 0 then d.add (x.d.mul y.d) else d, m ||| n, f ||| g))
    (⟨0, 0⟩, 0, 0)

/-- Set bits among the first `n` of a natural. -/
def onesBelow (x : Nat) : Nat → Nat
  | 0 => 0
  | n + 1 => (x.testBit n).toNat + onesBelow x n

/-- One K-step: for each element 32·i + j the exact sum and the bits, and the flags. -/
def kStep (t : Ty) (bop : Bool) (as bs : List (BitVec 512)) : List (Int × Int) × List Nat × FlagBits :=
  if t = .b1 then
    (as.flatMap fun a => bs.map fun b => ((onesBelow ((if bop then a ^^^ b else a &&& b).toNat) 512 : Nat), 0),
      List.replicate 1024 0, 0)
  else
    let rs := as.map t.kRow
    let cs := bs.map t.kRow
    let es := rs.flatMap fun a => cs.map fun b => rowDot a b
    (es.map fun e => (e.1.n, e.1.q), es.map fun e => e.2.1, es.foldl (fun f e => f ||| e.2.2) 0)

/-! ### Promotion (R155, R156) -/

/-- The accumulator is viewed as i80. -/
def Ty.intAcc (t : Ty) : Bool := t == .i8 || t == .b1

/-- The value of an exact sum. -/
def dyVal (p : Int × Int) : FVal := .fin (p.1 < 0) p.1.natAbs p.2

/-- The value that promotion adds, before the scales. -/
def markedVal (p : Int × Int) (marks : Nat) : FVal :=
  if marks.testBit 1 then .inf false else if marks.testBit 2 then .inf true else dyVal p

/-- A scale that is NaN, or infinite where the partial is 0: canonical NaN and IV whatever the marks (R156). -/
def badScale (p : Int × Int) (ss : List FVal) : Bool :=
  ss.any fun v => v.isNan || (match v with | .inf _ => decide (p.1 = 0) | _ => false)

/-- acc + P, or acc + P·sa·sb, rounded once into a80. -/
def promoteFloat (acc : Nat) (p : Int × Int) (marks : Nat) (scales : List (BitVec 32)) : Nat × FlagBits :=
  let ss := scales.map fun s => Ty.f32.value s.toNat
  let both := marks.testBit 1 && marks.testBit 2
  if marks.testBit 0 || both then (Ty.a80.canonNan, flagIf (both || badScale p ss) fIV)
  else if ss.any FVal.isNan then (Ty.a80.canonNan, fIV)
  else
    let (v, f) := ss.foldl (fun (v, f) s => let (r, g) := FVal.mul v s; (r, f ||| g)) (markedVal p marks, (0 : FlagBits))
    if v.isNan then (Ty.a80.canonNan, fIV)
    else
      let (r, g) := Ty.a80.addV .rne (Ty.a80.value acc) v
      (r, f ||| g)

/-- One accumulator element after a promotion. -/
def promoteElem (t : Ty) (acc : BitVec 80) (p : Int × Int) (marks : Nat) (scales : List (BitVec 32)) : BitVec 80 × FlagBits :=
  if t.intAcc then
    let w := if t = .b1 then 31 else 79
    let (v, f) := clampInt (-(2 ^ w : Int)) (2 ^ w - 1) (bitsInt 80 acc.toNat + p.1)
    (BitVec.ofInt 80 v, f)
  else
    let (r, f) := promoteFloat acc.toNat p marks scales
    (BitVec.ofNat 80 r, f)

/-- The scales of an element of row `i` for a block: the lead's for the row, the partner's for the block. -/
def scalesOf (sa sb : List (BitVec 32)) (i : Nat) : List (BitVec 32) := sa.getD i 0 :: sb.take 1

/-- A whole promotion: 1,024 elements, and the flags. -/
def promoteTile (t : Ty) (scl : Bool) (acc : List (BitVec 80)) (ps : List (Int × Int)) (ms : List Nat)
    (sa sb : List (BitVec 32)) : List (BitVec 80) × FlagBits :=
  let rs := (List.range 1024).map fun e =>
    promoteElem t (acc.getD e 0) (ps.getD e (0, 0)) (ms.getD e 0) (if scl then scalesOf sa sb (e / 32) else [])
  (rs.map Prod.fst, rs.foldl (fun f r => f ||| r.2) 0)

/-! ### Delivery (R158, R278) -/

/-- Bytes of a delivered element. -/
def Ty.outBytes (t : Ty) : Nat := if t = .a80 then 16 else t.bytes

/-- A delivered element and its flags: from a80, or from i80 as an integer source. -/
def outElem (src t : Ty) (rm : Rm) (sat : Bool) (acc : BitVec 80) : Nat × FlagBits :=
  if src.intAcc then
    let v := bitsInt 80 acc.toNat
    if t.isInt then t.intResult sat v else convToFloat t (if t = .a80 then .rne else rm) sat (FVal.ofInt v)
  else conv t .a80 rm sat acc.toNat

end Sys2Proof
end

