-- ==== Sys2Proof/Machine/Span.lean ====
section
/-!
DEFINITION. Spans, class 0xA (R266 to R291): links and bindings, the rendezvous, slots, ports, K-steps, promotion, closing,
delivery, redelivery, abort and state. A table step does each indivisible part.
-/

set_option linter.unusedVariables false

namespace Sys2Proof.Machine

/-! ### Links (R267) -/

/-- The link of a direction from a core, if it stays in the region. -/
def Job.linkOf (b : Job) (l : Nat) (d : Dir) : Option Nat :=
  match d with
  | .e => if b.xOf l + 1 < b.w then some (2 * l) else none
  | .n => if b.yOf l + 1 < b.h then some (2 * l + 1) else none
  | .w => if 0 < b.xOf l then some (2 * (l - 1)) else none
  | .s => if 0 < b.yOf l then some (2 * (l - b.w) + 1) else none

/-- The link id that the formula of R267 gives, modulo 2^16, also where the link leaves the region. -/
def Job.linkId (b : Job) (l : Nat) (d : Dir) : Nat :=
  match d with
  | .e => 2 * l % 65536
  | .n => (2 * l + 1) % 65536
  | .w => (2 * l + 65534) % 65536
  | .s => (2 * l + 1 + 65536 - 2 * b.w) % 65536

/-- A link of a job. -/
def State.link (s : State) (j k : Nat) : SpanLink := (s.job j).links.getD k {}

/-- Replaces a link. -/
def State.modLink (s : State) (j k : Nat) (f : SpanLink → SpanLink) : State :=
  s.modJob j fun b => { b with links := b.links.set k (f (b.links.getD k {})) }

/-- A product of a link. -/
def State.prod? (s : State) (j k pid : Nat) : Option Product := (s.link j k).prods.find? fun p => p.pid == pid

/-- Replaces a product. -/
def State.modProd (s : State) (j k pid : Nat) (f : Product → Product) : State :=
  s.modLink j k fun l => { l with prods := l.prods.map fun p => if p.pid = pid then f p else p }

/-- The key of a direction in a thread's bindings. -/
def dirKey (d : Dir) : Nat := d.code.toNat

/-- A SPAN trap (R286). -/
def State.spanTrap (s : State) (w : Tid) (c : Cause) (link tag sub : Nat) : State :=
  s.trap w c 0 (w64 (link + tag * 2 ^ 16 + sub * 2 ^ 32))

/-- The two ends of a link are not on adjacent cores of one die (R17). -/
def State.apart (s : State) (j k : Nat) : Bool :=
  let (a, b) := (s.job j).linkEnds k
  let p := s.phys j a
  let q := s.phys j b
  (if k % 2 = 0 then q != p + 1 || pyOf p != pyOf q else q != p + 40) || seamBetween p q

/-- Both ends of a link are resident. -/
def State.linkUp (s : State) (j k : Nat) : Bool :=
  let (a, b) := (s.job j).linkEnds k
  s.resident j a && s.resident j b

/-- Neither end of a link has been saved by a vacate (R290). -/
def State.linkHere (s : State) (j k : Nat) : Bool :=
  let (a, b) := (s.job j).linkEnds k
  (s.phys? j a).isSome && (s.phys? j b).isSome

/-- The links of a job that lie on the physical span of a link: more than one under folding (R25, R290). -/
def State.sharers (s : State) (j k : Nat) : List Nat :=
  let ends (k : Nat) : Nat × Nat := let (a, b) := (s.job j).linkEnds k; (s.phys j a, s.phys j b)
  ((s.job j).links.map Prod.fst).filter fun i => i == k || (s.linkUp j i && ends i == ends k)

/-- A product runs under emulation: its ends are not on adjacent cores of one die, or its slot of the physical span is
occupied by a product of another link that formed earlier (R17, R290). -/
def State.emulated (s : State) (j k : Nat) (p : Product) : Bool :=
  s.apart j k || (s.sharers j k).any fun i =>
    i != k && ((((s.job j).links.getD i {}).occupant.get? p.slot).any fun pid => decide (pid < p.pid))

/-! ### Words (R279) -/

/-- A done word or completion word: status, slot, tag and [63:32]. -/
def spanWord (st slot : Nat) (tag : BitVec 16) (hi : Nat) : Word := w64 (st + slot * 2 ^ 8 + tag.toNat * 2 ^ 16 + hi * 2 ^ 32)

end Sys2Proof.Machine

namespace Sys2Proof.Machine

/-- The status of a product. -/
def Product.status (p : Product) : Nat :=
  match p.stop with
  | some .xlat => 3
  | some _ => 4
  | none =>
    if p.dstGuard then 7
    else if p.lead.guardHit || p.partner.guardHit then 2
    else if p.flags &&& fSB != 0 then 1
    else 0

/-- The status for one party: PARTNER_FAULT when only the other end's rows touched a guard granule. -/
def Product.partyStatus (p : Product) (e : SpanEnd) : Nat := if p.status = 2 && !e.guardHit then 6 else p.status

/-- An end of a product. -/
def Product.side (p : Product) (lead : Bool) : SpanEnd := if lead then p.lead else p.partner

/-- Replaces an end of a product. -/
def Product.modSide (p : Product) (lead : Bool) (f : SpanEnd → SpanEnd) : Product :=
  if lead then { p with lead := f p.lead } else { p with partner := f p.partner }

/-- KB of R276. -/
def Product.blocks (p : Product) : Nat := (p.kt + 1) / 2

/-! ### Bindings (R268) -/

/-- Releases a thread's binding on a product. -/
def State.unbind (s : State) (w : Tid) (link pid : Nat) : State :=
  s.modThread w fun t => { t with binds := t.binds.filter fun (_, b) => !(b.link == link && b.pid == pid) }

/-- The partner's binding is released when its feeds, and in a scaled product its scales, are all queued. -/
def State.partnerRelease (s : State) (j k pid : Nat) : State :=
  match s.prod? j k pid with
  | some p =>
    if p.partner.fp = p.kt && (!p.scl || p.partner.sp = p.blocks) then s.unbind p.partner.w k pid else s
  | none => s

/-! ### Slots, ports and K-steps (R273, R275) -/

/-- The span port of a physical core that serves an end of a link is at work (R275). -/
def State.portBusy (s : State) (j k lcn : Nat) : Bool :=
  (s.sharers j k).any fun i => ((s.job j).links.getD i {}).ports.any fun x => s.phys j x.1 == s.phys j lcn

/-- The port of a core's end reads the earliest queued feed, when it is idle and has an entry free: it begins 2 cycles after the
feed reached it. -/
def State.portKick (s : State) (j k lcn : Nat) : State :=
  let l := s.link j k
  if s.portBusy j k lcn || !s.resident j lcn then s
  else
    let ends := l.prods.flatMap fun p =>
      [(p, true), (p, false)].filter fun x => (x.1.side x.2).w.lcn == lcn
    let used := (ends.map fun x => (x.1.side x.2).buf.length).sum
    let heads := (ends.filter fun x => x.1.st == .awaiting || x.1.st == .accumulating).filterMap fun x =>
      (x.1.side x.2).feeds.head?.map fun f => (f, x.1.pid, x.2)
    if 2 ≤ used then s
    else
      match sortBy (fun x => x.1.seq) heads with
      | [] => s
      | (f, pid, lead) :: _ =>
        let c := max s.cyc (f.since + 2)
        (((s.modLink j k fun l => { l with ports := l.ports.set lcn (pid, lead) }).modProd j k pid fun p =>
          p.modSide lead fun e => { e with rows := [], begun := c, turnAt := none, sent := false }).atCycle c
          (.spanPortRead j k pid lead))

/-- Products whose next K-step has its rows at both ends, with the cycle and the slot that decide whose turn it is. -/
def SpanLink.ready (l : SpanLink) : List (Nat × Product) :=
  l.prods.filterMap fun p =>
    if p.st = .accumulating && !p.abort && decide (p.done < p.kt) then
      match p.lead.buf, p.partner.buf with
      | a :: _, b :: _ => some (max a.since b.since * 4 + p.slot, p)
      | _, _ => none
    else none

/-- A K-step of another link has the physical span of a link. -/
def State.spanTaken (s : State) (j k : Nat) : Bool :=
  (s.sharers j k).any fun i =>
    i != k && (((s.link j i).busy.bind fun pid => s.prod? j i pid).any fun p => !s.emulated j i p)

/-- A free span starts the K-step whose rows were ready first, and among equals that of the lower slot. -/
def State.spin (s : State) (j k : Nat) : State :=
  let l := s.link j k
  if l.busy.isSome || !s.linkUp j k then s
  else
    match sortBy Prod.fst l.ready with
    | [] => s
    | (_, p) :: _ =>
      if s.emulated j k p then
        (s.modLink j k fun l => { l with busy := some p.pid }).later 1024 (.spanEmulKstep j k p.pid)
      else if s.spanTaken j k then s
      else (s.modLink j k fun l => { l with busy := some p.pid }).later 32 (.spanKstep j k p.pid)

/-- Everything of a link that may now go on. -/
def State.linkGo (s : State) (j k : Nat) : State :=
  let (a, b) := (s.job j).linkEnds k
  ((s.portKick j k a).portKick j k b).spin j k

/-- Everything of the links of one physical span that may now go on. -/
def State.linkKick (s : State) (j k : Nat) : State := (s.sharers j k).foldl (fun s i => s.linkGo j i) (s.linkGo j k)

/-- The first product that waits for a slot. -/
def SpanLink.nextFor (l : SpanLink) (slot : Nat) : Option Product := l.prods.find? fun p => p.st == .awaiting && p.slot == slot

/-- SPAN_SLOT_TAKE: a product takes its slot: the log that an earlier one left there is clear, and the elements too unless
`keep` is set. Substitutions that its rows have met already stand in its log (R273, R285). -/
def execSpanSlotTake (job link pid : Nat) (s : State) : Host.Outcome State Fault Refusal :=
  let l := s.link job link
  match s.prod? job link pid with
  | some p =>
    if p.st = .awaiting && (l.occupant.get? p.slot).isNone && (l.nextFor p.slot).map (·.pid) = some pid then
      let s := s.modLink job link fun l =>
        { l with occupant := l.occupant.set p.slot pid, acc := if p.keep then l.acc else l.acc.del p.slot
                 logs := l.logs.del p.slot }
      .next ((s.modProd job link pid fun p => { p with st := .accumulating }).linkKick job link)
    else .next s
  | none => .next s

/-- A product leaves its slot, with its error log, and the next one that waits for it takes it. -/
def State.dropProd (s : State) (j k pid : Nat) : State :=
  match s.prod? j k pid with
  | none => s
  | some p =>
    let s := s.modLink j k fun l =>
      { l with
        prods := l.prods.filter fun q => q.pid != pid
        occupant := if l.occupant.get? p.slot = some pid then l.occupant.del p.slot else l.occupant
        logs := if l.occupant.get? p.slot = some pid then l.logs.set p.slot (p.log, p.logMore) else l.logs }
    match (s.link j k).nextFor p.slot with
    | some q => s.later 0 (.spanSlotTake j k q.pid)
    | none => s

/-! ### Opening and joining (R269 to R272) -/

/-- An arrival of `sopen` or `sjoin` after its own checks sets out for the rendezvous; its thread waits for the answer. -/
def State.present (s : State) (lead : Bool) (t : Ty) (dir : Dir) (slot : Nat) (scl keep bop : Bool) (d : HReg) (a b : SReg) :
    State :=
  let w := s.cur
  let j := s.job w.job
  let kt := bitsOf (s.rd w b) 0 16
  let tag := bitsOf (s.rd w a) 0 16
  let th := s.thread w
  match j.linkOf w.lcn dir with
  | none => s.spanTrap w .spanLink (j.linkId w.lcn dir) tag 0
  | some k =>
    if kt = 0 then s.spanTrap w .spanState k tag 1
    else if (th.binds.get? (dirKey dir)).isSome then s.spanTrap w .spanState k tag 2
    else if k + 1 ≤ th.ordLink.toNat then s.spanTrap w .spanOrder k tag 0
    else if th.freeSlot.isNone then s.park w .engq 0 false .reissue
    else
      (s.stallFor w .home).later 2
        (.spanArrival { w := w, dir := dir, link := k, lead := lead, tag := BitVec.ofNat 16 tag, round := th.ordRound, t := t,
                        scl := scl, kt := kt, slot := slot, keep := keep, bop := bop, d := d })

/-- `sopen`. -/
def execSopen (g : Gd) (t : Ty) (dir : Dir) (slot : BitVec 2) (scl keep bop : Bool) (d : HReg) (a b : SReg) (s : State) :
    Host.Outcome State Fault Refusal := s.guarded g fun s => s.present true t dir slot.toNat scl keep bop d a b

/-- `sjoin`. -/
def execSjoin (g : Gd) (t : Ty) (dir : Dir) (scl : Bool) (d : HReg) (a b : SReg) (s : State) :
    Host.Outcome State Fault Refusal := s.guarded g fun s => s.present false t dir 0 scl false false d a b

/-- The lowest reason for which two arrivals do not pair (R270, R286). -/
def pairFault (h a : SpanArr) : Option Nat :=
  if h.lead == a.lead then some 1
  else if h.tag != a.tag then some 2
  else if h.round != a.round then some 3
  else if h.t != a.t then some 4
  else if h.scl != a.scl then some 5
  else none

/-- The effects of acceptance on one party (R266, R269): ORD, the binding, the handle entry and, 8 cycles on, the pending handle
in D. The result names the arrival as its link's queue would hold it. -/
def State.acceptArr (s : State) (a : SpanArr) (pid : Nat) : State × SpanWait :=
  let w := a.w
  let th := s.thread w
  let i := th.freeSlot.getD 0
  let x : SpanWait :=
    { arr := a, h := s.nextHandle w i, pid := pid, ordWas := th.ordLink, dWas := th.x.getD a.d.toNat 0 }
  (((s.allocEntry w i a.d (.product a.link pid)).modThread w fun t =>
    { t with ordLink := BitVec.ofNat 16 (a.link + 1), binds := t.binds.set (dirKey a.dir) ⟨a.link, pid, a.lead⟩ }).land w 8
      [.h a.d x.h.word] 0, x)

/-- An unpaired arrival leaves its link's queue, and its thread's ORD, binding and handle table are as before it
(R229, R290). -/
def State.withdrawArr (s : State) (x : SpanWait) : State :=
  let a := x.arr
  (s.modLink a.w.job a.link fun l => { l with queue := l.queue.filter fun y => y.arr.w != a.w }).modThread a.w fun t =>
    let gone := (t.landings.filter fun l => l.writes.contains (.h a.d x.h.word)).map fun l => l.id
    { t with
      landings := t.landings.filter fun l => !gone.contains l.id
      busy := t.busy.filter fun p => !gone.contains p.1
      ordLink := x.ordWas
      binds := t.binds.del (dirKey a.dir)
      handles := t.handles.del x.h.slot
      hseq := x.h.seq
      x := if a.d = 0 then t.x else t.x.set a.d.toNat x.dWas
      pend := if a.d = 0 then t.pend else t.pend &&& ~~~(1#64 <<< a.d.toNat) }

/-- The instruction of a party is complete: its thread goes on. -/
def State.opened (s : State) (a : SpanArr) : State :=
  (((s.modThread a.w fun t => { t with accAt := max t.accAt (s.cyc + 1) }).unpark a.w).unstall a.w).advance a.w

/-- Two arrivals pair: a product is formed, or both handles resolve MISMATCH and both bindings are released. -/
def State.pairUp (s : State) (x : SpanWait) (a : SpanArr) : State :=
  let j := a.w.job
  let k := a.link
  let h := x.arr
  let (s, y) := s.acceptArr a x.pid
  let s := (s.opened h).opened a
  let (ld, lh, pt, ph) := if a.lead then (a, y.h, h, x.h) else (h, x.h, a, y.h)
  if h.kt != a.kt then
    let s := [h, a].foldl (fun s b => s.modThread b.w fun t => { t with binds := t.binds.del (dirKey b.dir) }) s
    (s.resolve 8 lh (spanWord 8 ld.slot ld.tag pt.kt) 0).resolve 8 ph (spanWord 8 ld.slot ld.tag ld.kt) 0
  else
    let p : Product :=
      { pid := x.pid, slot := ld.slot, tag := ld.tag, t := ld.t, scl := ld.scl, keep := ld.keep, bop := ld.bop, kt := ld.kt
        lead := { w := ld.w, dir := ld.dir, h := lh }, partner := { w := pt.w, dir := pt.dir, h := ph } }
    (s.modLink j k fun l => { l with prods := l.prods ++ [p] }).later 2 (.spanSlotTake j k x.pid)

/-- An arrival is accepted at the tail of its link's queue, and its thread parks. -/
def State.queueArr (s : State) (a : SpanArr) : State :=
  let (s, x) := s.drawn.acceptArr a s.seq
  ((s.modLink a.w.job a.link fun l => { l with queue := l.queue ++ [x] }).unstall a.w).park a.w .rendezvous
    (w64 (a.link + a.tag.toNat * 2 ^ 16)) false .rendezvous

/-- SPAN_ARRIVAL: an arrival queues, pairs with the head, or raises SPAN_TAG at its instruction (R270). -/
def execSpanArrival (a : SpanArr) (s : State) : Host.Outcome State Fault Refusal :=
  let w := a.w
  if (s.thread w).stall != some .home then .next s
  else
    match (s.link w.job a.link).queue with
    | [] => .next (s.queueArr a)
    | x :: rest =>
      if x.arr.w.lcn = w.lcn then .next (s.queueArr a)
      else
        match pairFault x.arr a with
        | some n => .next ((s.unstall w).spanTrap w .spanTag a.link a.tag.toNat n)
        | none => .next ((s.modLink w.job a.link fun l => { l with queue := rest }).pairUp x a)

/-- `sround` (R271). -/
def execSround (g : Gd) (s : State) : Host.Outcome State Fault Refusal :=
  s.guarded g fun s =>
    (s.modThread s.cur fun t => { t with ordRound := t.ordRound + 1, ordLink := 0 }).advance s.cur

/-! ### Streaming operands (R274 to R276) -/

/-- The product and the side that a thread is bound to in a direction. -/
def State.bound? (s : State) (w : Tid) (dir : Dir) : Option (Bind × Product) :=
  ((s.thread w).binds.get? (dirKey dir)).bind fun b => (s.prod? w.job b.link b.pid).map fun p => (b, p)

/-- The scratch offset of an address that names the thread's own core by position (R274). -/
def State.ownOffset (s : State) (w : Tid) (a : Word) (n : Nat) : Option Nat :=
  match s.place w a with
  | some (.scratch l off) => if l = w.lcn && decide (off + n ≤ (s.job w.job).foot) then some off else none
  | _ => none

/-- `sfeed`. -/
def execSfeed (g : Gd) (dir : Dir) (a b : SReg) (imm : BitVec 32) (s : State) : Host.Outcome State Fault Refusal :=
  s.guarded g fun s =>
    let w := s.cur
    let k := (s.job w.job).linkId w.lcn dir
    let base := s.rd w a
    let stride := bitsOf (s.rd w b) 0 32
    let n0 := bitsOf (s.rd w b) 32 6
    let n := if n0 = 0 then 32 else n0
    let count := imm.toNat % 65536
    let first := imm.toNat / 65536
    match s.bound? w dir with
    | none => s.spanTrap w .spanState k 0 3
    | some (bd, p) =>
      let e := p.side bd.lead
      if first != e.fp then s.spanTrap w .spanState k 0 5
      else if count = 0 || decide (p.kt < e.fp + count) then s.spanTrap w .spanState k 0 6
      else if 32 < n0 then s.spanTrap w .spanState k 0 7
      else if base.toNat % 64 != 0 || stride % 64 != 0 then s.trap w .align base 0
      else
        match s.ownOffset w base ((n - 1) * stride + 64 * count) with
        | none => s.trap w .addr base 0
        | some off =>
          if 4 ≤ e.feeds.length then s.park w .engq (w64 (0x100 + dirKey dir)) false .reissue
          else
            let f : Feed := { seq := s.seq, since := s.cyc, base := off, stride := stride, rows := n, first := first, count := count }
            let s := s.drawn.modProd w.job bd.link bd.pid fun p =>
              p.modSide bd.lead fun e => { e with fp := e.fp + count, feeds := e.feeds ++ [f] }
            let s := (s.partnerRelease w.job bd.link bd.pid).portKick w.job bd.link w.lcn
            (s.modThread w fun t => { t with accAt := max t.accAt (s.cyc + 2) }).advance w

/-- Reads one row: its 64 bytes, whether a guard granule was met, and the words that were substituted. -/
def State.readRow (s : State) (j l off : Nat) : State × Nat × Bool × List Nat :=
  (List.range 8).foldl
    (fun (s, v, g, bad) i =>
      let (s, p) := s.scrLoad j l (off + 8 * i) 8
      (s, v + p.val * 2 ^ (64 * i), g || p.guard, if p.subst then bad ++ [i] else bad))
    (s, 0, false, [])

/-- Adds substitutions to a product's error log of 16 entries (R282); SB is raised. -/
def Product.logBad (p : Product) (lead : Bool) (kstep : Nat) (bad : List (Nat × Nat)) : Product :=
  let es := bad.map fun (r, i) =>
    BitVec.ofNat 48 (r + (if lead then 0 else 32) + (kstep * p.t.perRow + i * (p.t.perRow / 8)) * 256 + p.tag.toNat * 2 ^ 32)
  let all := p.log ++ es
  { p with log := all.take 16, logMore := p.logMore || decide (16 < all.length),
           flags := p.flags ||| flagIf (!bad.isEmpty) fSB }

/-- A thread that waits because four of its feeds are queued looks again. -/
def State.wakeFeed (s : State) (w : Tid) (dir : Dir) : State :=
  match (s.thread w).wait with
  | some x => if x.kind = .engq && x.obj = w64 (0x100 + dirKey dir) then s.unpark w else s
  | none => s

/-- The port of an end is idle again. -/
def State.portFree (s : State) (j k pid : Nat) (lead : Bool) : State :=
  s.modLink j k fun l => { l with ports := l.ports.filter fun x => x.2 != (pid, lead) }

/-- The rows of a K-step are in the port's buffer; rows at and beyond the feed's count are zero. -/
def State.portDone (s : State) (j k pid : Nat) (lead : Bool) (e : SpanEnd) (f : Feed) (fs : List Feed) : State :=
  let rows := e.rows ++ List.replicate (32 - e.rows.length) 0
  let fs' := if f.count ≤ 1 then fs else { f with base := f.base + 64, first := f.first + 1, count := f.count - 1 } :: fs
  let s := (s.portFree j k pid lead).modProd j k pid fun p =>
    p.modSide lead fun e => { e with feeds := fs', buf := e.buf ++ [⟨rows, s.cyc⟩], rows := [], sent := false }
  (if f.count ≤ 1 then s.wakeFeed e.w e.dir else s).linkKick j k

/-- A row of a K-step, in the cycle in which the banks serve it. -/
def State.portRow (s : State) (j k pid : Nat) (lead : Bool) (e : SpanEnd) (f : Feed) : State :=
  let r := e.rows.length
  let (s, v, g, bad) := s.readRow j e.w.lcn (f.base + r * f.stride)
  let s := s.modProd j k pid fun p =>
    (p.modSide lead fun e => { e with rows := e.rows ++ [BitVec.ofNat 512 v], turnAt := none, guardHit := e.guardHit || g }).logBad
      lead f.first (bad.map fun i => (r, i))
  s.atCycle (if r + 1 < f.rows then s.cyc + 1 else max (s.cyc + 1) (e.begun + 32)) (.spanPortRead j k pid lead)

/-- SPAN_PORT_READ: the port of an end reads the rows of a K-step, one a cycle, in the turn of their banks (R13, R275); with the
last of them they are in its buffer. Under emulation the rows of the partner's end first travel to the lead core as REQ
traffic (R16, R291). -/
def execSpanPortRead (job link pid : Nat) (lead : Bool) (s : State) : Host.Outcome State Fault Refusal :=
  match s.prod? job link pid with
  | none => .next ((s.portFree job link pid lead).linkKick job link)
  | some p =>
    let e := p.side lead
    match e.feeds with
    | [] => .next ((s.portFree job link pid lead).linkKick job link)
    | f :: fs =>
      let l := e.w.lcn
      if e.sent then .next (s.portDone job link pid lead e f fs)
      else if (s.phys? job l).isNone then .next (s.portFree job link pid lead)
      else if e.rows.length < f.rows then
        if e.turnAt = some s.cyc then .next (s.portRow job link pid lead e f)
        else
          let (s, t) := s.bankRun (s.phys job l) (s.seg job l + f.base + e.rows.length * f.stride) 64 0 3
          if t ≤ s.cyc then .next (s.portRow job link pid lead e f)
          else
            .next ((s.modProd job link pid fun p => p.modSide lead fun e => { e with turnAt := some t }).atCycle t
              (.spanPortRead job link pid lead))
      else if s.emulated job link p && !lead then
        .next ((s.modProd job link pid fun p => p.modSide lead fun e => { e with sent := true }).sendTo 0 .req e.w l p.lead.w.lcn
          (.spanPortRead job link pid lead) 64)
      else .next (s.portDone job link pid lead e f fs)

/-! ### Promotion (R155, R276, R284) -/

/-- The next promotion of a product, if it is due: its block, or K-step, and the K-steps promoted after it. -/
def Product.due (p : Product) : Option (Nat × Nat) :=
  if p.scl then
    let b := p.promoted / 2
    let n := min (2 * b + 2) p.kt
    if p.promoted < p.kt && n ≤ p.done && (p.lead.scales.get? b).isSome && (p.partner.scales.get? b).isSome then some (b, n)
    else none
  else if p.promoted < p.done then some (p.promoted, p.promoted + 1)
  else none

/-- Starts a promotion that is due: 4 cycles. A product with a saved end is suspended (R290). -/
def State.promoteKick (s : State) (j k pid : Nat) : State :=
  match s.prod? j k pid with
  | some p =>
    if p.st = .accumulating && !p.promoting && p.due.isSome && s.linkHere j k then
      (s.modProd j k pid fun p => { p with promoting := true }).later 4 (.spanPromote j k pid)
    else s
  | none => s

/-- The scales of `n` blocks from the bytes of an array, `per` values to a block. -/
def scaleBlocks (per : Nat) (bs : List Byte) (first : Nat) : Nat → Map (List (BitVec 32)) → Map (List (BitVec 32))
  | 0, m => m
  | n + 1, m =>
    scaleBlocks per (bs.drop (4 * per)) (first + 1) n
      (m.set first ((List.range per).map fun i => BitVec.ofNat 32 (fieldOf bs (4 * i) 4)))

/-- `sscale`. -/
def execSscale (g : Gd) (dir : Dir) (a b : SReg) (s : State) : Host.Outcome State Fault Refusal :=
  s.guarded g fun s =>
    let w := s.cur
    let k := (s.job w.job).linkId w.lcn dir
    let base := s.rd w a
    let first := bitsOf (s.rd w b) 0 16
    let count := bitsOf (s.rd w b) 16 16
    match s.bound? w dir with
    | none => s.spanTrap w .spanState k 0 3
    | some (bd, p) =>
      let e := p.side bd.lead
      let per := if bd.lead then 32 else 1
      if !p.scl || count = 0 || first != e.sp || decide (p.blocks < first + count) then s.spanTrap w .spanState k 0 8
      else if base.toNat % 4 != 0 then s.trap w .align base 0
      else
        match s.ownOffset w base (4 * per * count) with
        | none => s.trap w .addr base 0
        | some off => s.atBlock w w.lcn off (4 * per * count) fun s =>
          let (s, bs, gh, u) := s.scrRead w.job w.lcn off (4 * per * count)
          let s := s.modProd w.job bd.link bd.pid fun p =>
            { (p.modSide bd.lead fun e =>
                { e with sp := e.sp + count, scales := scaleBlocks per bs first count e.scales, guardHit := e.guardHit || gh != 0 })
              with flags := p.flags ||| flagIf u fSB }
          let s := (s.partnerRelease w.job bd.link bd.pid).promoteKick w.job bd.link bd.pid
          (s.modThread w fun t => { t with accAt := max t.accAt (s.cyc + 2) }).advance w

/-- Adds the sums of a K-step to those of its block. -/
def addSums (old new : List (Int × Int)) : List (Int × Int) :=
  if old.isEmpty then new
  else (old.zip new).map fun (a, b) => let d := Dy.add ⟨a.1, a.2⟩ ⟨b.1, b.2⟩; (d.n, d.q)

/-- The bits of a K-step joined to those of its block. -/
def addMarks (old new : List Nat) : List Nat := if old.isEmpty then new else (old.zip new).map fun (a, b) => a ||| b

/-- A product with its next K-step computed. -/
def Product.stepped (p : Product) : Product :=
  match p.lead.buf, p.partner.buf with
  | a :: as, b :: bs =>
    let (sums, marks, f) := kStep p.t p.bop a.rows b.rows
    let blk := if p.scl then p.done / 2 else p.done
    { p with
      done := p.done + 1
      part := p.part.set blk (addSums (p.part.getD blk []) sums)
      marks := p.marks.set blk (addMarks (p.marks.getD blk []) marks)
      flags := p.flags ||| f
      lead := { p.lead with buf := as }
      partner := { p.partner with buf := bs } }
  | _, _ => p

/-! ### Resolving (R279, R281, R283) -/

/-- SLOG of a party whose product resolved OK_SUBST (R283). -/
def Thread.slogged (t : Thread) (link slot : Nat) : Thread :=
  { t with slog := w64 (link % 65536 + slot * 2 ^ 16 + min 65535 (bitsOf t.slog 32 16 + 1) * 2 ^ 32) }

/-- Resolves the handle of one party: its word, the product's flags and SLOG in the same cycle (R157). -/
def State.resolveParty (s : State) (p : Product) (link : Nat) (e : SpanEnd) (st hi : Nat) : State :=
  let s := s.resolve 0 e.h (spanWord st p.slot p.tag hi) 0
  if (s.entry? e.h).isNone then s
  else
    let s := s.setFlags e.w p.flags
    if st = 1 then s.modThread e.w fun t => t.slogged link p.slot else s

/-- Resolves both handles, unless they have resolved, and releases both bindings. -/
def State.resolveBoth (s : State) (j k : Nat) (p : Product) (ls ps hi : Nat) : State :=
  let s := (s.unbind p.lead.w k p.pid).unbind p.partner.w k p.pid
  if p.resolved then s
  else
    ((s.resolveParty p k p.lead ls hi).resolveParty p k p.partner ps hi).modProd j k p.pid fun p => { p with resolved := true }

/-- Permits that a delivery holds go back. -/
def State.dropProdHeld (s : State) (j k pid : Nat) : State :=
  match s.prod? j k pid with
  | some p =>
    let s := s.modProd j k pid fun p => { p with reqs := [] }
    p.reqs.foldl (fun s (_, q) => match q.st, q.slice with
      | .want, some sl | .sent, some sl | .performed, some sl => s.returnPermit (s.phys j p.lead.w.lcn) sl
      | _, _ => s) s
  | none => s

/-- Threads that wait with a feed for a product look again (R274). -/
def State.wakeFeeds (s : State) (p : Product) : State := (s.wakeFeed p.lead.w p.lead.dir).wakeFeed p.partner.w p.partner.dir

/-- The end of an abort: both handles resolve ABORTED with the K-steps promoted, and the slot is free (R281). -/
def State.abortNow (s : State) (j k pid : Nat) : State :=
  match s.prod? j k pid with
  | none => s
  | some p => ((((s.dropProdHeld j k pid).resolveBoth j k p 9 9 p.promoted).dropProd j k pid).wakeFeeds p).linkKick j k

/-- Aborts a product: at once, or at the end of the K-step under way. -/
def State.abortProd (s : State) (j k pid : Nat) : State :=
  if (s.link j k).busy = some pid then
    match s.prod? j k pid with
    | some p =>
      (((s.unbind p.lead.w k pid).unbind p.partner.w k pid).modProd j k pid fun p =>
        { p with abort := true, lead := { p.lead with feeds := [], scales := [] },
                 partner := { p.partner with feeds := [], scales := [] } }).wakeFeeds p
    | none => s
  else s.abortNow j k pid

/-- `sabort`. -/
def execSabort (g : Gd) (dir : Dir) (slot : BitVec 2) (s : State) : Host.Outcome State Fault Refusal :=
  s.guarded g fun s =>
    let w := s.cur
    match (s.job w.job).linkOf w.lcn dir with
    | none => s.advance w
    | some k =>
      match ((s.link w.job k).occupant.get? slot.toNat).bind fun pid => s.prod? w.job k pid with
      | some p => (if p.lead.w = w || p.partner.w = w then s.abortProd w.job k p.pid else s).advance w
      | none => s.advance w

/-! ### Delivery (R278, R280, R284, R285) -/

/-- The bytes of a row of the tile, and the flags of its conversion. -/
def rowBytes (p : Product) (acc : List (BitVec 80)) (c : CloseRec) (i : Nat) : List Byte × FlagBits :=
  (List.range c.nv).foldl
    (fun (bs, f) j =>
      let (v, g) := outElem p.t c.t c.rm c.sat (acc.getD (32 * i + j) 0)
      (bs ++ leBytes c.t.outBytes v, f ||| g))
    ([], 0)

/-- The flags of the whole conversion. -/
def tileFlags (p : Product) (acc : List (BitVec 80)) (c : CloseRec) : FlagBits :=
  (List.range c.mv).foldl (fun f i => f ||| (rowBytes p acc c i).2) 0

/-- The elements of a slot. -/
def SpanLink.elems (l : SpanLink) (slot : Nat) : List (BitVec 80) := l.acc.getD slot []

/-- The bytes of a row of a product that delivers. -/
def State.deliverRow (s : State) (j k : Nat) (p : Product) (c : CloseRec) (r : Nat) : List Byte :=
  (rowBytes p ((s.link j k).elems p.slot) c r).1

/-- The address of a row of the tile. -/
def CloseRec.rowAddr (c : CloseRec) (r : Nat) : Word := c.dst + w64 r * c.stride

/-- The bytes of a row. -/
def CloseRec.rowLen (c : CloseRec) : Nat := c.nv * c.t.outBytes

/-- Cycles of injection of the first `i` rows, at 32 bytes a cycle (R284). -/
def CloseRec.beatsOf (c : CloseRec) (i : Nat) : Nat := (i * c.rowLen + 31) / 32

/-- The requests of a delivery to the pool, cut at 256-byte blocks, row by row. -/
def CloseRec.requests (c : CloseRec) : Map EngReq :=
  ((List.range c.mv).flatMap fun i => moveReqs true (c.rowAddr i) c.rowLen (some i) 0 []).mapIdx fun i q => (i, q)

/-- Starts a delivery: conversion takes 8 cycles, and the rows are injected at 32 bytes per cycle at the lead's router. -/
def State.startDelivery (s : State) (j k : Nat) (p : Product) (c : CloseRec) : State :=
  let f := tileFlags p ((s.link j k).elems p.slot) c
  let w := p.lead.w
  let s := s.modProd j k p.pid fun p =>
    { p with st := .delivering, row := 0, turns := [], reqs := [], doneSent := false, doneTurn := none, dstGuard := false
             stop := none, flt := none, flags := if c.rdl then p.flags else p.flags ||| f, rdFlags := if c.rdl then f else 0 }
  match s.place w c.dst with
  | some (.scratch l _) =>
    (List.range c.mv).foldl
      (fun s i => s.sendTo (8 + c.beatsOf i + s.localHop j w.lcn l) .req w w.lcn l (.spanDeliver j k p.pid (some i))
        (max 1 (c.beatsOf (i + 1) - c.beatsOf i))) s
  | _ => (s.modProd j k p.pid fun p => { p with reqs := c.requests }).later 8 (.spanDeliver j k p.pid none)

/-- A closed product whose last promotion is done delivers, or with `nd` resolves at once; a held one that is closed again
delivers again. While an end is away it is suspended (R290). -/
def State.deliverKick (s : State) (j k pid : Nat) : State :=
  match s.prod? j k pid with
  | some p =>
    match p.close with
    | some c =>
      if !s.linkUp j k then s
      else if p.st = .held then s.startDelivery j k p c
      else if p.st = .accumulating && p.promoted = p.kt then
        if c.nd then (s.modProd j k pid fun p => { p with st := .delivering }).later 0 (.spanResolve j k pid)
        else s.startDelivery j k p c
      else s
    | none => s
  | none => s

/-- SPAN_PROMOTE: the partial of a block or K-step enters the accumulator. -/
def execSpanPromote (job link pid : Nat) (s : State) : Host.Outcome State Fault Refusal :=
  match s.prod? job link pid with
  | none => .next s
  | some p =>
    match p.due with
    | none => .next (s.modProd job link pid fun p => { p with promoting := false })
    | some (b, n) =>
      let (acc, f) := promoteTile p.t p.scl ((s.link job link).elems p.slot) (p.part.getD b []) (p.marks.getD b [])
        (p.lead.scales.getD b []) (p.partner.scales.getD b [])
      let s := s.modLink job link fun l => { l with acc := l.acc.set p.slot acc }
      let s := s.modProd job link pid fun p =>
        { p with promoted := n, promoting := false, part := p.part.del b, marks := p.marks.del b, flags := p.flags ||| f }
      .next ((s.promoteKick job link pid).deliverKick job link pid)

/-- A K-step ends: its sums are kept for promotion, and the span takes the next one. -/
def State.endKstep (s : State) (j k pid : Nat) : State :=
  let s := s.modLink j k fun l => { l with busy := none }
  match s.prod? j k pid with
  | none => s.linkKick j k
  | some p =>
    if p.abort then s.abortNow j k pid
    else ((s.modProd j k pid Product.stepped).promoteKick j k pid).linkKick j k

/-- SPAN_KSTEP: 32 cycles on the span. -/
def execSpanKstep (job link pid : Nat) (s : State) : Host.Outcome State Fault Refusal := .next (s.endKstep job link pid)

/-- SPAN_EMUL_KSTEP: 1,024 cycles in the lead core's vector unit (R17, R291). -/
def execSpanEmulKstep (job link pid : Nat) (s : State) : Host.Outcome State Fault Refusal := .next (s.endKstep job link pid)

/-- An address in absolute form of a scratch byte (R179). -/
def Job.absAddr (b : Job) (l off : Nat) : Word := w64 (0x8 * 2 ^ 60 + b.xOf l * 2 ^ 52 + b.yOf l * 2 ^ 46 + off)

/-- The whole tile has been written, or delivery has stopped: the acknowledgement goes back to the lead's router. -/
def State.tileAck (s : State) (j k : Nat) (p : Product) (l : Nat) : State :=
  s.sendTo (s.localHop j l p.lead.w.lcn) .rsp p.lead.w l p.lead.w.lcn (.spanDoneWord j k p.pid)

/-- Changes a request of a delivery. -/
def State.modDel (s : State) (j k pid r : Nat) (f : EngReq → EngReq) : State :=
  s.modProd j k pid fun p => match p.reqs.get? r with | some q => { p with reqs := p.reqs.set r (f q) } | none => p

/-- A delivery to the pool stops at the row of a request (R280). -/
def State.stopDelivery (s : State) (j k : Nat) (p : Product) (r : Nat) (q : EngReq) (va : Word) (c : Cause) : State :=
  let s := match q.slice with | some sl => s.returnPermit (s.phys j p.lead.w.lcn) sl | none => s
  (s.modProd j k p.pid fun p =>
    { p with stop := some c, flt := some (va, c), row := q.pos.getD 0, reqs := p.reqs.filter fun x => EngReq.out x.2 }).later 0
    (.spanDeliver j k p.pid none)

/-- Sends the next request of a delivery to the pool, under a permit of the lead's core. -/
def State.sendRow (s : State) (j k : Nat) (p : Product) (c : CloseRec) (r : Nat) (q : EngReq) : State :=
  let w := p.lead.w
  let pc := s.phys j w.lcn
  match s.translate pc j (bitsOf q.addr 0 48) .write with
  | .miss =>
    if s.walks.any fun x => x.2.eng == some p.lead.h then s
    else
      s.startWalk { own := w, pc := c.pc, va := q.addr, write := true, atomic := false, exec := false, post := none
                    eng := some p.lead.h }
  | .denied _ | .outside => s.stopDelivery j k p r q q.addr .prot
  | .hit pa sl =>
    let go (s : State) : State :=
      let t := s.cyc + 12 + Config.fabricDelay s.seq
      ((s.drawn.modDel j k p.pid r fun q => { q with st := .sent, slice := some sl, pa := pa }).injectPacket 0
        { s.poolPacket .req w sl t false (.spanDeliver j k p.pid (some r)) with beats := dataBeats q.len }).later
        (dataBeats q.len) (.spanDeliver j k p.pid none)
    if q.slice = some sl then go s
    else if q.slice.isSome then
      ((s.modDel j k p.pid r fun q => { q with slice := none }).returnPermit pc (q.slice.getD 0)).later 0 (.spanDeliver j k p.pid none)
    else if (s.pcore pc).permitFree sl then go (s.takePermit pc sl)
    else
      (s.modDel j k p.pid r fun q => { q with st := .asked, slice := some sl }).modPCore pc fun x =>
        { x with permitQ := x.permitQ ++ [(sl, .eng p.lead.h r)] }

/-- Work on a delivery to the pool: its next request, the stop once what is under way has been answered, or its end. -/
def State.deliverPool (s : State) (j k : Nat) (p : Product) (c : CloseRec) : State :=
  let out := p.reqs.any fun x => EngReq.out x.2
  if p.stop.isSome then
    if out || p.doneSent then s
    else (s.modProd j k p.pid fun p => { p with reqs := [], doneSent := true }).later 0 (.spanDeliveryStop j k p.pid)
  else
    match p.reqs.find? fun x => x.2.st == .want || x.2.st == .asked with
    | none => if out || p.reqs.isEmpty then s
      else (s.modProd j k p.pid fun p => { p with reqs := [], row := c.mv }).later 0 (.spanDoneWord j k p.pid)
    | some (r, q) =>
      if q.st == .asked then s
      else
        match p.flt with
        | some (va, x) => s.stopDelivery j k p r q va x
        | none => s.sendRow j k p c r q

/-- A request of a delivery is at its slice, or its acknowledgement back. -/
def State.rowTurn (s : State) (j k : Nat) (p : Product) (c : CloseRec) (r : Nat) (q : EngReq) : State :=
  match q.st with
  | .sent =>
    let data := ((s.deliverRow j k p c (q.pos.getD 0)).drop q.at_).take q.len
    let s := (s.poolWrite q.pa data).modDel j k p.pid r fun q => { q with st := .performed }
    let t := s.cyc + 12 + Config.fabricDelay s.seq
    s.drawn.injectPacket 0 (s.poolPacket .rsp p.lead.w (q.slice.getD 0) t false (.spanDeliver j k p.pid (some r)))
  | .performed =>
    ((s.modDel j k p.pid r fun q => { q with st := .done }).returnPermit (s.phys j p.lead.w.lcn) (q.slice.getD 0)).later 0
      (.spanDeliver j k p.pid none)
  | _ => s

/-- Writes a row of the tile at the receiver, in the cycle in which its banks serve it. -/
def State.writeRow (s : State) (j k : Nat) (p : Product) (c : CloseRec) (r l off : Nat) : State :=
  let data := s.deliverRow j k p c r
  let at_ := s.firstShut j l off data.length true
  let (s, g, _) := s.scrWrite j l off data
  let s := s.markGuard ⟨j, l, 0⟩ g ((s.job j).absAddr l at_)
  let s := s.modProd j k p.pid fun p =>
    { p with row := p.row + 1, turns := p.turns.del r, dstGuard := p.dstGuard || g != 0 }
  if c.mv ≤ p.row + 1 then s.tileAck j k p l else s

/-- SPAN_DELIVER: a row of the tile is at the receiver, whose banks take it in turn (R13); or a request of a delivery to the
pool goes on. A vacated receiver sends a row back for 64 cycles. -/
def execSpanDeliver (job link : Nat) (u : Turn) (s : State) : Host.Outcome State Fault Refusal :=
  match s.prod? job link u.id with
  | none => .next s
  | some p =>
    match p.close with
    | none => .next s
    | some c =>
      if p.st != .delivering then .next s
      else
        match s.place p.lead.w c.dst, u.req with
        | some (.scratch l _), some r =>
          match s.place p.lead.w (c.rowAddr r) with
          | some (.scratch _ off) =>
            if !s.serves job p.lead.w.lcn l then
              .next ((s.modProd job link u.id fun p => { p with turns := p.turns.del r }).later 64 (.spanDeliver job link u.id u.req))
            else if p.turns.get? r = some s.cyc then .next (s.writeRow job link p c r l off)
            else
              let (s, t) := s.bankRun (s.phys job l) (s.seg job l + off) c.rowLen 0 (c.rowLen / 32 + 2)
              if t ≤ s.cyc then .next (s.writeRow job link p c r l off)
              else .next ((s.modProd job link u.id fun p => { p with turns := p.turns.set r t }).atCycle t (.spanDeliver job link u.id u.req))
          | _ => .next s
        | _, some r =>
          match p.reqs.get? r with
          | some q => .next (s.rowTurn job link p c r q)
          | none => .next s
        | _, none => .next (s.deliverPool job link p c)

/-- SPAN_DELIVERY_STOP: a record for the stage manager; the done word carries the status, and the slot is held (R280). -/
def execSpanDeliveryStop (job link pid : Nat) (s : State) : Host.Outcome State Fault Refusal :=
  match s.prod? job link pid with
  | none => .next s
  | some p =>
    let c := (p.stop).getD .xlat
    let pc := (p.close.map fun c => c.pc).getD 0
    let s := s.placeTq (s.faultRec p.lead.w pc ((p.flt.map Prod.fst).getD 0) c true none (some p.lead.h))
    .next ((s.modProd job link pid fun p => { p with flt := none, doneSent := false }).later 0 (.spanDoneWord job link pid))

/-- Writes the done word as `stf` would, in the turn of its bank: a guard granule or a locked area discards it. -/
def State.writeDone (s : State) (j k : Nat) (p : Product) (c : CloseRec) : State :=
  let w := p.lead.w
  let l := c.doneLcn
  let shut := s.closed j l c.done 8
  let v := spanWord p.status p.slot p.tag (w.lcn + (if p.stop.isSome then p.row else c.mv) * 2 ^ 16)
  let (s, _) := s.scrElem .putFull .n64 8 j l { idx := 0, va := 0, at_ := c.done, val := v, cmp := 0 }
  let s := if shut then
      (s.markGuard ⟨j, l, 0⟩ 1 ((s.job j).absAddr l c.done)).modProd j k p.pid fun p => { p with dstGuard := true }
    else State.serveWaiters j l (c.done / 8) (s.core j l).feQ.length s
  let s := if c.rdl then s.setFlags w p.rdFlags else s
  s.sendTo (s.localHop j l w.lcn) .rsp w l w.lcn (.spanResolve j k p.pid)

/-- SPAN_DONE_WORD: the done word is injected at the lead, and at its core written as `stf` would. -/
def execSpanDoneWord (job link pid : Nat) (s : State) : Host.Outcome State Fault Refusal :=
  match s.prod? job link pid with
  | none => .next s
  | some p =>
    match p.close with
    | none => .next s
    | some c =>
      let w := p.lead.w
      let l := c.doneLcn
      if !p.doneSent then
        .next ((s.modProd job link pid fun p => { p with doneSent := true, doneTurn := none }).sendTo (1 + s.localHop job w.lcn l)
          .req w w.lcn l (.spanDoneWord job link pid))
      else if !s.serves job w.lcn l then
        .next ((s.modProd job link pid fun p => { p with doneTurn := none }).later 64 (.spanDoneWord job link pid))
      else if p.doneTurn = some s.cyc then .next (s.writeDone job link p c)
      else
        let (s, t) := s.bankSlot (s.phys job l) (s.seg job l + c.done) 0
        if t ≤ s.cyc then .next (s.writeDone job link p c)
        else .next ((s.modProd job link pid fun p => { p with doneTurn := some t }).atCycle t (.spanDoneWord job link pid))

/-- SPAN_RESOLVE: both handles resolve; the slot is free, or held after a stop (R278 to R280). -/
def execSpanResolve (job link pid : Nat) (s : State) : Host.Outcome State Fault Refusal :=
  match s.prod? job link pid with
  | none => .next s
  | some p =>
    match p.close with
    | none => .next s
    | some c =>
      let hi := if c.nd then 0 else if p.stop.isSome then p.row else c.mv
      let s := s.resolveBoth job link p (p.partyStatus p.lead) (p.partyStatus p.partner) (hi % 65536)
      if p.stop.isSome then .next (s.modProd job link pid fun p => { p with st := .held, close := none })
      else .next ((s.dropProd job link pid).linkKick job link)

/-! ### Closing (R278, R280) -/

/-- A range of `lo` to `hi` bytes about an address lies in one scratch below F, or in the pool. -/
def State.tilePlace (s : State) (w : Tid) (dst : Word) (lo hi : Int) : Option Place :=
  match s.checkPlace w false false 1 dst with
  | .ok (.scratch l off) => if 0 ≤ (off : Int) + lo ∧ (off : Int) + hi < (s.job w.job).foot then some (.scratch l off) else none
  | .ok (.pool va) => if 0 ≤ (va : Int) + lo ∧ (va : Int) + hi < 2 ^ 48 then some (.pool va) else none
  | _ => none

/-- The faulting address of a tile's range (R278, R369): the first of `dst`, the last byte of the last row and the last byte of
the first row that is no byte of it. -/
def State.tileFault (s : State) (w : Tid) (dst last row : Word) : Word :=
  match s.checkPlace w false false 1 dst with
  | .ok p =>
    match p, s.checkPlace w false false 1 last with
    | .scratch l _, .ok (.scratch m _) => if l = m then row else last
    | .pool _, .ok (.pool _) => row
    | .scratch _ _, _ | .pool _, _ => last
    | _, _ => dst
  | .error _ => dst

/-- What the operands of a close give: the record, or a trap. -/
def State.closeRec (s : State) (t : Ty) (rm : Rm) (sat rdl : Bool) (k : Nat) (a b : SReg) (imm : BitVec 32) :
    Except (State → State) CloseRec :=
  let w := s.cur
  let i := imm.toNat
  let nd := imm.getLsbD 16
  let mv := i % 64
  let nv := i / 256 % 64
  let bad := i / 2 ^ 17 != 0 || i / 64 % 4 != 0 || i / 2 ^ 14 % 4 != 0 ||
    (if nd then i % 2 ^ 14 != 0 else mv = 0 || 32 < mv || nv = 0 || 32 < nv)
  let wb := t.outBytes
  let dst := s.rd w a
  let stride := (BitVec.ofNat 32 (bitsOf (s.rd w b) 0 32)).signExtend 64
  let doff := bitsOf (s.rd w b) 32 21
  let rec0 (l : Nat) : CloseRec :=
    { pc := s.pcOf w, dst := dst, stride := stride, done := doff, doneLcn := l, mv := mv, nv := nv, nd := nd, t := t, rm := rm
      sat := sat, rdl := rdl }
  if bad then .error fun s => s.spanTrap w .spanState k 0 10
  else if nd then .ok (rec0 w.lcn)
  else
    let span := ((mv : Int) - 1) * stride.toInt
    match s.tilePlace w dst (min 0 span) (max 0 span + nv * wb - 1) with
    | none =>
      let end_ := dst + w64 (nv * wb) - 1
      .error fun s => s.trap w .addr (s.tileFault w dst (end_ + BitVec.ofInt 64 span) end_) 0
    | some p =>
      if dst.toNat % wb != 0 || stride.toNat % wb != 0 || doff % 8 != 0 then .error fun s => s.trap w .align dst 0
      else if (s.job w.job).foot ≤ doff then .error fun s => s.trap w .addr dst 0
      else .ok (rec0 (match p with | .scratch l _ => l | _ => w.lcn))

/-- `sclose` without `rdl`. -/
def execSclose (g : Gd) (t : Ty) (rm : Rm) (sat : Bool) (dir : Dir) (a b : SReg) (imm : BitVec 32) (s : State) :
    Host.Outcome State Fault Refusal :=
  s.guarded g fun s =>
    let w := s.cur
    let k := (s.job w.job).linkId w.lcn dir
    match s.bound? w dir with
    | none => s.spanTrap w .spanState k 0 3
    | some (bd, p) =>
      if !bd.lead then s.spanTrap w .spanState k 0 4
      else if p.lead.fp != p.kt || (p.scl && p.lead.sp != p.blocks) then s.spanTrap w .spanState k 0 9
      else
        match s.closeRec t rm sat false k a b imm with
        | .error f => f s
        | .ok c =>
          let s := (s.unbind w bd.link bd.pid).modProd w.job bd.link bd.pid fun p => { p with close := some c }
          let s := s.deliverKick w.job bd.link bd.pid
          (s.modThread w fun t => { t with accAt := max t.accAt (s.cyc + 2) }).advance w

/-- `sclose rdl`: redelivers a held slot, or with `nd` releases it. -/
def execScloseRdl (g : Gd) (t : Ty) (rm : Rm) (sat : Bool) (dir : Dir) (slot : BitVec 2) (a b : SReg) (imm : BitVec 32)
    (s : State) : Host.Outcome State Fault Refusal :=
  s.guarded g fun s =>
    let w := s.cur
    let k := (s.job w.job).linkId w.lcn dir
    let held := ((s.job w.job).linkOf w.lcn dir).bind fun k =>
      (((s.link w.job k).occupant.get? slot.toNat).bind fun pid => s.prod? w.job k pid).filter fun p =>
        p.st == .held && p.lead.w == w
    match held with
    | none => s.spanTrap w .spanState k 0 11
    | some p =>
      match s.closeRec t rm sat true k a b imm with
      | .error f => f s
      | .ok c =>
        let s := s.modThread w fun t => { t with accAt := max t.accAt (s.cyc + 2) }
        if c.nd then ((s.dropProd w.job k p.pid).linkKick w.job k).advance w
        else ((s.modProd w.job k p.pid fun p => { p with close := some c }).deliverKick w.job k p.pid).advance w

/-! ### Looking inside (R282) -/

/-- The state code of a product. -/
def ProdState.code : ProdState → Nat
  | .awaiting => 1 | .accumulating => 2 | .delivering => 3 | .held => 4

/-- The span partial of an element as an 80-bit value with 32 fraction bits: what has been summed since its last promotion
(R134). -/
def Product.partial (p : Product) (e : Nat) : Nat :=
  if p.t = .bf16 || p.t = .b1 then 0
  else
    intBits 80 ((p.part.map fun (_, l) => let x := l.getD e (0, 0); x.1 * 2 ^ (x.2 + 32).toNat).sum)

/-- An item of span state. -/
def State.spanItem (s : State) (w : Tid) (k slot item idx : Nat) : Word :=
  let l := s.link w.job k
  let log : List (BitVec 48) × Bool :=
    match (l.occupant.get? slot).bind fun pid => s.prod? w.job k pid with
    | some p => (p.log, p.logMore)
    | none => l.logs.getD slot ([], false)
  match (l.prods.find? fun p => p.slot == slot && l.occupant.get? slot == some p.pid).orElse fun _ => l.nextFor slot with
  | none =>
    match item with
    | 2 => w64 (log.1.length + log.2.toNat * 32)
    | 3 => (log.1.getD (idx % 16) 0).zeroExtend 64
    | 4 => w64 (((l.elems slot).getD idx 0).toNat % 2 ^ 64)
    | 5 => w64 (((l.elems slot).getD idx 0).toNat / 2 ^ 64)
    | _ => 0
  | some p =>
    match item with
    | 0 =>
      w64 (p.st.code + p.keep.toNat * 8 + p.t.code.toNat * 16 + p.scl.toNat * 256 + p.bop.toNat * 512 +
        (p.lead.w.lcn == w.lcn).toNat * 1024 + p.tag.toNat * 2 ^ 16 + p.kt * 2 ^ 32 + p.promoted * 2 ^ 48)
    | 1 => w64 (p.lead.fp + p.partner.fp * 2 ^ 16 + p.lead.sp * 2 ^ 32 + p.partner.sp * 2 ^ 48)
    | 2 => w64 (log.1.length + log.2.toNat * 32)
    | 3 => (log.1.getD (idx % 16) 0).zeroExtend 64
    | 4 => w64 (((l.elems slot).getD idx 0).toNat % 2 ^ 64)
    | 5 => w64 (((l.elems slot).getD idx 0).toNat / 2 ^ 64)
    | 6 => w64 (p.partial idx % 2 ^ 64)
    | 7 => w64 (p.partial idx / 2 ^ 64)
    | _ => 0

/-- `sstat`. -/
def execSstat (g : Gd) (d a : SReg) (s : State) : Host.Outcome State Fault Refusal :=
  s.guarded g fun s =>
    let w := s.cur
    let sel := s.rd w a
    let dir := Dir.ofCode (sel.truncate 2)
    match (s.job w.job).linkOf w.lcn dir with
    | none => s.spanTrap w .spanLink ((s.job w.job).linkId w.lcn dir) 0 0
    | some k => s.result 12 d (s.spanItem w k (bitsOf sel 2 2) (bitsOf sel 4 4) (bitsOf sel 8 10))

/-! ### Exit (R289) -/

/-- Every product still bound to an ending thread is aborted. -/
def State.abortBound (s : State) (w : Tid) : State :=
  (s.thread w).binds.foldl (fun s (_, b) => s.abortProd w.job b.link b.pid) s

end Sys2Proof.Machine
end

