-- ==== Sys2Proof/Machine/Exit.lean ====
section
/-!
DEFINITION. `exit` (R121): the drain, the wait of thread 0 for its helpers, the effects on what the thread holds, and the
completion of its handle.
-/

set_option linter.unusedVariables false

namespace Sys2Proof.Machine

/-- A helper of a core is not free. -/
def State.helpersLive (s : State) (j l : Nat) : Bool :=
  (s.core j l).threads.any fun (n, t) => n != 0 && !t.isFree s.cyc

/-- Entries elsewhere that a thread adopted: their words are discarded (R121, R242). -/
def State.dropAdopted (s : State) (w : Tid) : State :=
  let mine (e : HEntry) : Bool := match e.target with | some (v, _) => v == w | none => false
  s.modJob w.job fun b =>
    { b with
      cores := b.cores.map fun (l, c) =>
        (l, { c with
          threads := c.threads.map fun (n, t) =>
            (n, { t with handles := t.handles.map fun (i, e) => (i, if mine e then { e with discarded := true } else e) }) }) }

/-- What an ending thread gives up: monitors, message queue, pending handles that it has not passed on, and its
bindings (R121, R349, R351). It is free 8 cycles on. -/
def Thread.ended (t : Thread) (cyc : Nat) : Thread :=
  { t with
    st := .free, turnsAt := cyc + 8, wait := none, stall := none, mons := [], mq := [], pend := 0, ddFull := [],
    handles := t.handles.filter fun (_, e) => e.passed, stg := 0, dns := 0, ups := 0, handover := none, sttake := none,
    took := false, opens := none, grants := [], lines := [], starter := none, stamp := t.stamp + 1 }

/-- Contributions whose handles an ending thread has discarded no longer count for it (R121, R360). -/
def State.dropContributions (s : State) (w : Tid) : State :=
  s.modJob w.job fun b =>
    { b with groups := b.groups.map fun (i, g) =>
        (i, { g with out := g.out.map fun (n, l) => (n, l.filter fun h => h.own != w || (s.entry? h).isSome) }) }

/-- A thread ends with a value: thread 0 of core 0 gives the job its exit value; a helper resolves its starter's handle
with the low 56 bits (R121). -/
def State.endThread (s : State) (w : Tid) (v : Word) : State :=
  let h := (s.thread w).starter
  let s := ((((s.abortBound w).castLeave w).dropAdopted w).modThread w fun t => t.ended s.cyc).dropContributions w
  if w.thr = 0 then
    (if w.lcn = 0 then s.modJob w.job fun b => { b with exitv := v } else s).later 8 (.jobCompletion w.job)
  else
    match h with
    | some h => s.resolve 8 h (v <<< 8) 0
    | none => s

/-- `exit`. It issues again while accesses of the thread are under way: those to drain, and the others, which a thread that
reads the resolved handle must see (R121, R262). -/
def execExit (g : Gd) (a : SReg) (s : State) : Host.Outcome State Fault Refusal :=
  s.guarded g fun s =>
    let w := s.cur
    if s.undrained w || s.accs.any fun (_, a) => a.own == w then s
    else if !(s.thread w).sfq.isEmpty then s.trap w .storeFault 0 (w64 (s.thread w).sfq.length)
    else if w.thr = 0 && s.helpersLive w.job w.lcn then s.park w .handle (s.helperObj w 0) false .reissue
    else s.endThread w (s.rd w a)

end Sys2Proof.Machine
end

