-- ==== Sys2Proof/Machine/System.lean ====
section
/-!
DEFINITION. Class 0xF apart from `vacate` and `resume` (R373 to R383, R387), the step of R52 for an encoding that is no
instruction, and the steps that write the system space: a verdict on a trap-queue record, TENANT, and the other core
registers (R376, R379, R396).
-/

set_option linter.unusedVariables false

namespace Sys2Proof.Machine

/-! ### Capturing threads (R381) -/

/-- A request that found the remote entries full is to be tried again (R190). -/
def State.feRefused (s : State) (aid : Nat) : Bool := s.agenda.any fun q => match q.ev with | .feRetry i _ => i == aid | _ => false

/-- An access waits for its FE word, in the list of the word or outside it (R190). -/
def State.feWaiting (s : State) (j aid : Nat) : Bool :=
  ((s.job j).cores.any fun (_, c) => c.feQ.any fun x => x.aid == aid) || s.feRefused aid

/-- The access that a thread is parked on. -/
def Thread.parkedOn (t : Thread) : Option Nat :=
  match t.wait with
  | some { cont := .access i, .. } => some i
  | _ => none

/-- What a thread has sent has been taken or found dead, but for what its receiver refuses (R221, R263, R342, log 16). -/
def Thread.allSent (t : Thread) : Bool :=
  let held (i : Nat) : Bool := t.refused.contains i || t.outHeld.contains i
  (t.outbox.all fun f => held f.id) && t.frames.all fun f => held f.id

/-- The ordinary access that a thread's next access waits for has been performed, or is one of those looked at apart (R257). -/
def State.orderDone (s : State) (w : Tid) : Bool :=
  let t := s.thread w
  match t.ordAcc with
  | none => true
  | some i => (s.accs.get? i).isSome || (t.outbox.any fun f => f.id == i) || t.frames.any fun f => f.id == i

/-- A thread's results have landed, and its accesses have been performed or recorded, but for FE forms that wait and for those
excepted (R190, R263, R381). -/
def State.settled (s : State) (w : Tid) (but : Nat → Bool) : Bool :=
  let t := s.thread w
  t.landings.isEmpty && !(s.transReqs.any fun (_, r) => r.own == w) && t.allSent && s.orderDone w &&
    s.accs.all fun (i, a) => a.own != w || s.feWaiting w.job i || but i || a.parts.all fun (_, q) => q.returned

/-- A thread has been captured, as `tsusp` and a halt do it. -/
def State.captured (s : State) (w : Tid) : Bool :=
  s.settled w (fun _ => false) && (s.thread w).stall != some .home && (s.thread w).stall != some .verdict

/-- The threads that a physical core carries, by physical thread number. -/
def State.carriedThreads (s : State) (pc : Nat) : List Tid := (List.range 16).filterMap fun p => s.carried pc p

/-- A thread becomes held. -/
def State.holdThread (s : State) (v : Tid) : State :=
  s.modThread v fun t => if t.st != .free && !t.held then { t with held := true, capAt := s.cyc } else t

/-- Releases HELD on every thread of a core, and clears CSTAT bit 2. -/
def State.releaseCore (s : State) (pc : Nat) : State :=
  ((s.carriedThreads pc).foldl (fun s v => s.modThread v fun t => { t with held := false }) s).modPCore pc fun q =>
    { q with cstat := q.cstat &&& ~~~4 }

/-- Halts a core: the other threads are held at once; the issuing thread goes on once every thread has been captured, and
is held last if it is of that core. -/
def State.haltCore (s : State) (w : Tid) (pc : Nat) : State :=
  let vs := s.carriedThreads pc
  let others := vs.filter fun v => v != w
  let s := (others.foldl (fun s v => s.holdThread v) s).modPCore pc fun q => { q with cstat := q.cstat ||| 4 }
  if !(others.all fun v => s.captured v) then s
  else if !vs.contains w then s.advance w
  else if s.captured w then (s.advance w).holdThread w
  else s

/-- Bits [31:16] of an operand name no core (R380, R381). -/
def badCore (x : Word) : Bool := bitsOf x 16 16 != 0xFFFF && decide (Config.cores ≤ bitsOf x 16 16)

/-- The core that bits [31:16] name; 0xFFFF is the issuing core, which is in the device while it issues. -/
def State.namedCore (s : State) (w : Tid) (x : Word) : Option Nat :=
  if bitsOf x 16 16 = 0xFFFF then s.phys? w.job w.lcn else some (bitsOf x 16 16)

/-! ### `trap`, `brk`, `tfence`, `rfe` (R373 to R375) -/

/-- `trap`. -/
def execTrap (g : Gd) (imm : BitVec 32) (s : State) : Host.Outcome State Fault Refusal :=
  s.guarded g fun s => s.trapAt s.cur .sw (s.pcOf s.cur + 12) 0 (imm.zeroExtend 64)

/-- `brk`. -/
def execBrk (g : Gd) (imm : BitVec 32) (s : State) : Host.Outcome State Fault Refusal :=
  s.guarded g fun s =>
    let w := s.cur
    let pc := s.phys w.job w.lcn
    if (s.pcore pc).cstat.getLsbD 0 then s.haltCore w pc
    else s.trapAt w .sw (s.pcOf w + 12) 0 (imm.zeroExtend 64 ||| w64 (2 ^ 32))

/-- A result of a thread has not landed: a queued result, an access that gives one, be it to x0, or a transcendental. Results of
classes 0x0 and 0x1 are among them: R374 and R139 say every result, against R90 (log 76). -/
def State.outstanding (s : State) (w : Tid) : Bool :=
  !(s.thread w).landings.isEmpty || !(s.thread w).busy.isEmpty || s.accs.any fun (_, a) => a.own == w && a.dst.isSome

/-- The first trap that `tfence` raises, or none (R139, R374). -/
def State.fenceTrap (s : State) (w : Tid) : State :=
  let t := s.thread w
  let new := t.flags &&& t.ten &&& ~~~t.reported
  if !t.sfq.isEmpty then s.trap w .storeFault 0 (w64 t.sfq.length)
  else if t.ghits != 0 then (s.modThread w fun t => { t with ghits := 0 }).trap w .guard t.gaddr (w64 (min t.ghits 0xFFFF))
  else if new != 0 then
    (s.modThread w fun t => { t with reported := t.reported ||| new }).trap w .arith 0 (new.zeroExtend 64)
  else s.advance w

/-- `tfence`. It issues again while results are outstanding. -/
def execTfence (g : Gd) (s : State) : Host.Outcome State Fault Refusal :=
  s.guarded g fun s => if s.outstanding s.cur then s else s.fenceTrap s.cur

/-- `rfe`. -/
def execRfe (g : Gd) (s : State) : Host.Outcome State Fault Refusal := s.guarded g fun s => s.trapReturn s.cur

/-- ILLEGAL_INSTRUCTION (R52): the cause, at the instruction. -/
def execIllegalInstruction (c : Cause) (s : State) : Host.Outcome State Fault Refusal := .next (s.trap s.cur c 0 0)

/-! ### `tqpop`, `sfqpop` (R376, R378) -/

/-- The four words of a trap-queue record. -/
def TqRec.words (r : TqRec) : List Word :=
  [r.pc, r.addr,
    w64 (r.cause.code.toNat + r.fatal.toNat * 2 ^ 8 + r.wr.toNat * 2 ^ 9 + r.eng.toNat * 2 ^ 10 + r.thr * 2 ^ 12 +
      r.lcn * 2 ^ 16 + r.ent * 2 ^ 32),
    r.info]

/-- The four words of a store-fault record (R204). -/
def SfRec.words (r : SfRec) : List Word :=
  [r.faddr, r.fpc, w64 (r.fcause.code.toNat + r.felem * 2 ^ 8 + r.fseq * 2 ^ 16), r.fdata]

/-- A thread's record hold becomes `ws`, and D word 0 of it. -/
def State.intoHold (s : State) (w : Tid) (d : SReg) (ws : List Word) : State :=
  (s.modThread w fun t => { t with rhold := ws }).result 8 d (ws.headD 0)

/-- A word of the record hold. -/
def Thread.holdWord (t : Thread) (n : Nat) : Word := t.rhold.getD n 0

/-- The oldest record of a core's trap queue that has not been popped; on a management core, the head of the service
queue. -/
def State.popTq (s : State) (w : Tid) : State × List Word :=
  if w.job = 0 then
    match s.dev.service with
    | [] => (s, [])
    | r :: rs => ({ s with dev := { s.dev with service := rs } }, r.words)
  else
    let pc := s.phys w.job w.lcn
    match (s.pcore pc).tqNew with
    | [] => (s, [])
    | i :: is =>
      (s.modPCore pc fun q => { q with tqNew := is }, (((s.pcore pc).tq.get? i).map fun r => r.words).getD [])

/-- `tqpop`. -/
def execTqpop (g : Gd) (w : BitVec 2) (d : SReg) (s : State) : Host.Outcome State Fault Refusal :=
  s.privileged g fun s =>
    if w = 0 then
      let (t, ws) := s.popTq s.cur
      t.intoHold s.cur d ws
    else s.result 8 d ((s.thread s.cur).holdWord w.toNat)

/-- A word of the job record (R368). -/
def Thread.jobRecord (t : Thread) (n : BitVec 2) : Word :=
  match n.toNat with
  | 0 => t.jepc
  | 1 => t.jcause
  | 2 => t.jaddr
  | _ => t.jinfo

/-- `sfqpop`. -/
def execSfqpop (g : Gd) (w : BitVec 2) (tr : Bool) (d : SReg) (s : State) : Host.Outcome State Fault Refusal :=
  s.guarded g fun s =>
    let v := s.cur
    if tr then s.result 8 d ((s.thread v).jobRecord w)
    else if w = 0 then
      match (s.thread v).sfq with
      | [] => s.intoHold v d []
      | r :: rs => ((s.modThread v fun t => { t with sfq := rs }).intoHold v d r.words).recordHeld v
    else s.result 8 d ((s.thread v).holdWord w.toNat)

/-! ### `slotwr` (R380) and `mapwr` (R383) -/

/-- `slotwr`. -/
def execSlotwr (g : Gd) (a b : SReg) (s : State) : Host.Outcome State Fault Refusal :=
  s.privileged g fun s =>
    let w := s.cur
    let x := s.rd w a
    let y := s.rd w b
    if bitsOf x 5 11 != 0 || bitsOf x 32 32 != 0 || bitsOf y 5 59 != 0 || badCore x then s.trap w .addr x 0
    else
      match s.namedCore w x with
      | none => s.advance w
      | some pc =>
        (s.modPCore pc fun q => { q with slotsNext := q.slotsNext.set (bitsOf x 0 5) (y.truncate 5) }).advance w

/-- T of JSHAPE; the field holds 16 as 0. -/
def shapeT (j : Word) : Nat := if bitsOf j 0 4 = 0 then 16 else bitsOf j 0 4

/-- The conditions under which `mapwr` raises ADDR: `e` for a cluster with a JSHAPE. -/
def badMap (jshape : Word) (e : BitVec 32) : Bool :=
  decide (Config.clusters ≤ mapPcl e) || (mapV e && mapVac e) || decide (mapFF e < mapG e) ||
    decide (16 < (mapFF e + 1) * shapeT jshape) || decide (Config.scratchBytes < (mapFF e + 1) * bitsOf jshape 32 22) ||
    (decide (0 < mapFF e) && !jshape.getLsbD 4) || e.extractLsb' 24 6 != 0 || e.extractLsb' 8 8 != 0

/-- `mapwr`. -/
def execMapwr (g : Gd) (a b : SReg) (s : State) : Host.Outcome State Fault Refusal :=
  s.privileged g fun s =>
    let w := s.cur
    let x := s.rd w a
    let e : BitVec 32 := (s.rd w b).truncate 32
    let p := bitsOf x 8 8
    if decide (Config.clusters ≤ p) || badMap (s.pcore (Machine.pcOf p 0)).jshape e then s.trap w .addr x 0
    else (s.modPClu p fun q => { q with map := q.map.set (bitsOf x 0 8) e }).advance w

/-! ### `tsusp`, `tresm`, `halt` (R381) -/

/-- `tsusp`. -/
def execTsusp (g : Gd) (a : SReg) (s : State) : Host.Outcome State Fault Refusal :=
  s.privileged g fun s =>
    let w := s.cur
    let x := s.rd w a
    if bitsOf x 4 12 != 0 || bitsOf x 32 32 != 0 || badCore x then s.trap w .addr x 0
    else
      match (s.namedCore w x).bind fun pc => s.carried pc (bitsOf x 0 4) with
      | none => s.advance w
      | some v =>
        if v = w then (if s.captured w then (s.advance w).suspend w else s)
        else
          let s := s.suspend v
          if s.captured v then s.advance w else s

/-- `tresm`. -/
def execTresm (g : Gd) (a : SReg) (s : State) : Host.Outcome State Fault Refusal :=
  s.privileged g fun s =>
    let w := s.cur
    let x := s.rd w a
    if bitsOf x 4 12 != 0 || bitsOf x 32 32 != 0 || badCore x then s.trap w .addr x 0
    else
      match (s.namedCore w x).bind fun pc => s.carried pc (bitsOf x 0 4) with
      | none => s.advance w
      | some v => (s.modThread v fun t => { t with susp := false }).advance w

/-- `halt`. -/
def execHalt (g : Gd) (a : SReg) (s : State) : Host.Outcome State Fault Refusal :=
  s.privileged g fun s =>
    let w := s.cur
    let x := s.rd w a
    if bitsOf x 1 15 != 0 || bitsOf x 32 32 != 0 || badCore x then s.trap w .addr x 0
    else
      match s.namedCore w x with
      | none => s.advance w
      | some pc => if x.getLsbD 0 then s.haltCore w pc else (s.releaseCore pc).advance w

/-! ### `tlbinv` (R387) -/

/-- The page that an invalidation names: base and size; code 0xF names every address. -/
def invPage (va : Word) (code : Nat) : Nat × Nat :=
  if code = 15 then (0, 2 ^ 64) else (va.toNat, pageSize (5 - code / 3) (code % 3))

/-- A translation of a job touches a page. -/
def Tlb.touches (t : Tlb) (job : Nat) (pg : Nat × Nat) : Bool :=
  t.job == job && decide (t.base < pg.1 + pg.2) && decide (pg.1 < t.base + t.size)

/-- Removes the translations of a job that touch a page from every core and walker. -/
def State.invalidate (s : State) (job : Nat) (pg : Nat × Nat) : State :=
  { s with
    pcores := s.pcores.map fun (i, q) => (i, { q with tlb := q.tlb.filter fun t => !t.touches job pg })
    pclus := s.pclus.map fun (i, q) => (i, { q with walker := q.walker.filter fun t => !t.touches job pg }) }

/-- `n` bytes of the pool from a virtual address touch a page. -/
def pageMeets (pg : Nat × Nat) (va : Word) (n : Nat) : Bool :=
  bitsOf va 60 4 == 0 && decide (va.toNat < pg.1 + pg.2) && decide (pg.1 < va.toNat + n)

/-- A translated request of an engine or a delivery for a page has not been performed. -/
def EngReq.inFlight (q : EngReq) (pg : Nat × Nat) : Bool := q.st == .sent && q.slice.isSome && pageMeets pg q.addr q.len

/-- A translated request of a job for a page has not been performed: of a thread, an engine operation, a delivery, or a code
line (R199). -/
def State.inFlight (s : State) (job : Nat) (pg : Nat × Nat) : Bool :=
  let b := s.job job
  (s.accs.any fun (i, a) =>
    a.own.job == job && a.parts.any fun (p, q) =>
      q.home == .pool && !q.performed && q.fault.isNone &&
        (q.sent || (s.pcore (s.phys job a.own.lcn)).permitQ.any fun x => x.2 == .part i p) &&
        q.elems.any fun e => pageMeets pg e.va 1) ||
    (b.clus.any fun (_, c) => (c.copyQ ++ c.gathQ).any fun o => o.reqs.any fun x => EngReq.inFlight x.2 pg) ||
    (b.links.any fun (_, l) => l.prods.any fun p => p.reqs.any fun x => EngReq.inFlight x.2 pg) ||
    s.pclus.any fun (p, q) => s.jobAt p == job && q.reads.any fun x => pageMeets pg (w64 x.1) 48

/-- `tlbinv`. It issues again until the accesses in flight to the page have been performed (R199). -/
def execTlbinv (g : Gd) (a b : SReg) (s : State) : Host.Outcome State Fault Refusal :=
  s.privileged g fun s =>
    let w := s.cur
    let x := s.rd w a
    let y := s.rd w b
    let code := bitsOf y 0 4
    let pg := invPage x code
    if bitsOf y 4 28 != 0 || (decide (10 ≤ code) && decide (code ≤ 14)) then s.trap w .addr x 0
    else if code != 15 && x.toNat % pg.2 != 0 then s.trap w .align x 0
    else
      let s := s.invalidate (bitsOf y 32 32) pg
      if s.inFlight (bitsOf y 32 32) pg then s else s.advance w

/-! ### Verdicts (R376) -/

/-- The operation, access or thread behind a record gets the verdict. -/
def State.verdict (s : State) (r : TqRec) (serve : Bool) : State :=
  if r.fatal then s
  else
    match r.h, r.post with
    | some h, _ => s.verdictEng h serve r.cause
    | none, some (aid, p) => if serve then s.postPart aid p false else s.recordFault aid p r.cause
    | none, none =>
      match (s.thread r.own).wait with
      | some { kind := .service, .. } =>
        if serve then s.unpark r.own else s.trapAt r.own r.cause r.pc r.addr 0
      | _ => s

/-- A verdict for an entry of a core's trap queue; an entry that holds no record is unchanged. -/
def State.tqack (s : State) (pc ent : Nat) (serve : Bool) : State :=
  match (s.pcore pc).tq.get? ent with
  | none => s
  | some r => (s.verdict r serve).freeTq pc ent

/-- TQACK_SERVE. -/
def execTqackServe (pc ent : Nat) (s : State) : Host.Outcome State Fault Refusal := .next (s.tqack pc ent true)

/-- TQACK_REFUSE. -/
def execTqackRefuse (pc ent : Nat) (s : State) : Host.Outcome State Fault Refusal := .next (s.tqack pc ent false)

/-! ### Core registers (R379, R396) -/

/-- TENANT_WRITE: a change of TENANT zeroes scratch, FE bits and guard map, and raw scratch takes writes until the job's
first issue. -/
def execTenantWrite (pc : Nat) (v : Word) (s : State) : Host.Outcome State Fault Refusal :=
  .next (s.modPCore pc fun q =>
    if q.tenant = v then q else { q with tenant := v, mem := [], fe := [], guard := [], ecc := [], loading := v != 0 })

/-- CORE_REG_WRITE: the bits that R379 names are written; the others read 0. -/
def execCoreRegWrite (pc off : Nat) (v : Word) (s : State) : Host.Outcome State Fault Refusal :=
  .next (s.modPCore pc fun q =>
    match off with
    | 0x00 => { q with ptroot := v &&& 0x000FFFFFFFFFFE00 }
    | 0x10 => { q with jobreg := v &&& 0xFFFFFFFF }
    | 0x18 => { q with jshape := v &&& 0x003FFFFF0000001F }
    | 0x28 => { q with cstat := v &&& 7 }
    | 0x38 => { q with cbase := v &&& 0xFFFFFFFFFFFF0000 }
    | _ => q)

end Sys2Proof.Machine
end

