-- ==== Sys2Proof/Machine/Vacate.lean ====
section
/-!
DEFINITION. `vacate` and `resume` (R384 to R386, R396): a logical cluster leaves its physical cluster for a save area in the
pool and comes back from one.
-/

set_option linter.unusedVariables false

namespace Sys2Proof.Machine

/-! ### What a physical cluster carries -/

/-- The threads of some logical cores of a job. -/
def State.threadsIn (s : State) (j : Nat) (ls : List Nat) : List (Tid × Thread) :=
  (s.threadsOf j).filter fun (w, _) => ls.contains w.lcn

/-- The logical cores of some logical clusters. -/
def Job.coresOf (b : Job) (cs : List Nat) : List Nat := cs.flatMap fun c => (List.range 8).map fun m => b.lcnOf c m

/-- The logical clusters that a vacate has begun to take from a physical cluster, in order of fold position (R384). -/
def State.leaving (s : State) (p : Nat) : List (Nat × BitVec 32) :=
  let j := s.jobAt p
  sortBy (fun x => mapG x.2) ((s.pclu p).map.filter fun (c, e) =>
    mapVac e && mapPcl e == p && (s.core j ((s.job j).lcnOf c 0)).saved.isNone)

/-! ### Withdrawn accesses (R190, R263, log 17) -/

/-- A part stands at its home. -/
def State.atHome (s : State) (i p : Nat) : Bool :=
  s.agenda.any fun q => match q.ev with | .remoteAccess i' p' => i' == i && p' == p | _ => false

/-- A part waits for a vacated core or for an engine operation that stands still. -/
def State.standsStill (s : State) (a : Access) (p : Nat) (q : Part) : Bool :=
  s.atHome a.id p &&
    (s.sourceHeld a q || match q.home with | .scratch l => !s.serves a.own.job a.own.lcn l | _ => false)

/-- A part waits behind one of those given. -/
def State.waitsBehind (s : State) (l : List (Nat × Nat)) (a : Access) (p : Nat) (q : Part) : Bool :=
  s.atHome a.id p && l.any fun (i, r) =>
    match s.part? i r with
    | some (b, x) => decide (i < a.id) && b.own == a.own && q.elems.any fun e => x.elems.any fun f => s.meets a b q x e f
    | none => false

/-- The parts of accesses of some cores that cannot be performed while their cluster is away. -/
def State.stuckParts (s : State) (j : Nat) (ls : List Nat) : List (Nat × Nat) :=
  s.accs.foldl (fun l (i, a) =>
    if a.own.job != j || !ls.contains a.own.lcn then l
    else
      l ++ (a.parts.filter fun (p, q) =>
        !q.performed && q.fault.isNone && (s.standsStill a p q || s.waitsBehind l a p q)).map fun (p, _) => (i, p)) []

/-- A request that is to be tried again, as access and part. -/
def retried : Event → Option (Nat × Nat)
  | .feRetry i p => some (i, p)
  | _ => none

/-- FE waiters of a core's threads, as access and part. -/
def State.feWaitsOf (s : State) (j l : Nat) : List (Nat × Nat) :=
  let listed := (s.job j).cores.flatMap fun (_, c) => c.feQ.map fun x => (x.aid, x.part)
  (listed ++ s.agenda.filterMap fun q => retried q.ev).filter fun (i, _) =>
    match s.accs.get? i with
    | some a => a.own.job == j && a.own.lcn == l
    | none => false

/-- Withdraws parts: they have had no effect, and set out again on resume. -/
def State.withdrawParts (s : State) (j : Nat) (ws : List (Nat × Nat)) : State :=
  let gone : Event → Bool
    | .feRetry i p | .remoteAccess i p => ws.contains (i, p)
    | _ => false
  let s := { s with agenda := s.agenda.filter fun q => !gone q.ev }
  s.modJob j fun b =>
    { b with cores := b.cores.map fun (i, c) => (i, { c with feQ := c.feQ.filter fun y => !ws.contains (y.aid, y.part) }) }

/-! ### What a vacate waits for (R253, R263, R290, R306) -/

/-- A delivery, a K-step or a promotion is under way on a link with an end in some cores, and can go on (R290). -/
def State.spanMoves (s : State) (j : Nat) (ls : List Nat) : Bool :=
  (s.job j).links.any fun (k, l) =>
    let (a, b) := (s.job j).linkEnds k
    (ls.contains a || ls.contains b) &&
      (l.busy.isSome || l.prods.any fun p =>
        p.promoting || (p.st == .delivering &&
          match p.close.bind fun c => s.place p.lead.w c.dst with
          | some (.scratch r _) => s.serves j p.lead.w.lcn r
          | _ => true))

/-- A request of an operation waits for a vacated core. -/
def State.reqStuck (s : State) (o : EngOp) (q : EngReq) : Bool :=
  q.st == .sent && match s.place o.own q.addr with | some (.scratch l _) => !s.serves o.own.job o.own.lcn l | _ => false

/-- An operation of a unit stands at a boundary, or all that it has in hand waits for a vacated core (R253). -/
def State.opStill (s : State) (o : EngOp) : Bool :=
  let qs := o.reqs.map Prod.snd
  !o.active || (qs.isEmpty && o.phase == 0) ||
    (qs.any (s.reqStuck o) && qs.all fun q => s.reqStuck o q || (q.st == .want && q.slice.isNone) || q.st == .done)

/-- Everything that a vacate waits for: threads captured, no walk, fetch or request for a permit of theirs, no arrival on
its way to a link, no span at work, engines at a boundary, no list half written (R384). -/
def State.still (s : State) (j p : Nat) (cs ls : List Nat) : Bool :=
  let stuck := s.stuckParts j ls
  let but (i : Nat) : Bool := (s.accs.get? i).any fun a => a.parts.all fun (p, q) => q.returned || stuck.contains (i, p)
  let arrives : Event → Bool
    | .spanArrival a => a.w.job == j && ls.contains a.w.lcn
    | .barsetRequest w _ _ | .pcfgApply w _ _ => w.job == j && ls.contains w.lcn
    | .barrierRelease j' c _ _ => j' == j && cs.contains c
    | _ => false
  ((s.threadsIn j ls).all fun (w, t) => s.settled w but && t.stall != some .verdict) &&
    !(s.walks.any fun (_, k) => k.own.job == j && ls.contains k.own.lcn) &&
    !((s.pclu p).fetch.any fun x => x.2.2.job == j && ls.contains x.2.2.lcn) &&
    ((List.range 8).all fun m => (s.pcore (Machine.pcOf p m)).permitQ.isEmpty) &&
    !(s.agenda.any fun q => arrives q.ev) && !(s.packets.any fun x => arrives x.2.payload) && !s.spanMoves j ls &&
    cs.all fun c =>
      let q := s.clu j c
      (q.copyQ ++ q.gathQ).all s.opStill && !(q.prm.queue.any fun p : Plan => p.active && p.begun)

/-! ### Suspending units (R253, R290, R306) -/

/-- An arrival of a vacated thread leaves its link; the thread presents it again when it runs (R290). -/
def State.withdrawArrivals (s : State) (j : Nat) (ls : List Nat) : State :=
  let xs := (s.job j).links.flatMap fun (_, l) => l.queue.filter fun x => ls.contains x.arr.w.lcn
  xs.foldl (fun s x => (s.withdrawArr x).unpark x.arr.w) s

/-- The units of a logical cluster are suspended: requests that wait for a vacated core are wanted again on resume, and a plan
that has not begun its list is taken anew (R253, R306). -/
def State.freezeUnits (s : State) (j c : Nat) : State :=
  let calm (o : EngOp) : EngOp := { o with reqs := o.reqs.map fun (i, q) => (i, if s.reqStuck o q then { q with st := .want } else q) }
  let mine : Event → Bool
    | .copyChunk j' c' _ _ | .gatherBatch j' c' _ _ => j' == j && c' == c
    | _ => false
  { s with agenda := s.agenda.filter fun q => !mine q.ev }.modClu j c fun q =>
    { q with
      copyQ := q.copyQ.map calm, gathQ := q.gathQ.map calm
      prm := { q.prm with queue := q.prm.queue.map fun p : Plan => if p.begun then p else { p with active := false } } }

/-! ### The bytes of a save area (R386, log 44)

Plain in its first 256 KiB, with each core block encrypted (R396). `free` gives the bytes that R386 does not lay out. -/

/-- A byte of a little-endian word. -/
def byteOf (x : Word) (i : Nat) : Byte := (x >>> (8 * i)).truncate 8

/-- A byte of a list of words. -/
def wordByte (l : List Word) (o : Nat) : Byte := byteOf (l.getD (o / 8) 0) (o % 8)

/-- Eight bits as a byte. -/
def bitByte (f : Nat → Bool) : Byte := BitVec.ofNat 8 (((List.range 8).map fun i => if f i then 2 ^ i else 0).sum)

/-- A byte of a vector register: 64 lanes of 4 bytes. -/
def vecByte (v : Vec) (o : Nat) : Byte := ((v.toList.getD (o / 4) 0) >>> (8 * (o % 4))).truncate 8

/-- A byte of a thread block. -/
def Thread.saveByte (t : Thread) (cyc : Nat) (free : Byte) (o : Nat) : Byte :=
  if o < 0x200 then byteOf (t.x.getD (o / 8) 0) (o % 8)
  else if o < 0x208 then byteOf (t.pend.zeroExtend 64) (o % 8)
  else if o < 0x210 then byteOf t.pc (o % 8)
  else if o < 0x218 then byteOf (t.q.zeroExtend 64) (o % 8)
  else if o < 0x220 then byteOf (t.report cyc + w64 (t.held.toNat * 2 ^ 32 + t.susp.toNat * 2 ^ 33)) (o % 8)
  else if o < 0x260 then byteOf (t.k.getD ((o - 0x220) / 8) 0) (o % 8)
  else if o < 0x900 then free
  else if o < 0x1900 then vecByte (t.v.getD ((o - 0x900) / 256) (Vec.splat 0)) (o % 256)
  else 0

/-- A byte of a core block, before it is encrypted: of a logical core that a physical core holds at a segment. -/
def State.coreSaveByte (s : State) (j l pc seg : Nat) (free : Byte) (o : Nat) : Byte :=
  let c := s.core j l
  let q := s.pcore pc
  if o < 0x200 then byteOf (c.y.getD (o / 8) 0) (o % 8)
  else if o < 0x1200 then vecByte (c.w.getD ((o - 0x200) / 256) (Vec.splat 0)) (o % 256)
  else if o < 0x8000 then free
  else if o < 0x28000 then
    match c.threads.get? ((o - 0x8000) / 0x2000) with
    | some t => t.saveByte s.cyc free ((o - 0x8000) % 0x2000)
    | none => free
  else if o < 0x70000 then free
  else if o < 0x78000 then bitByte fun i => q.fe.getD (seg / 8 + (o - 0x70000) * 8 + i) false
  else if o < 0x79000 then bitByte fun i => q.guard.getD (seg / 64 + (o - 0x78000) * 8 + i) false
  else if o < 0x80000 then free
  else if o < 0x80000 + (s.job j).foot then q.mem.read (seg + o - 0x80000)
  else free

/-- A subtotal at its place: 16 bytes a lane, by member, group and the parity of the reduction's number. -/
def State.subtotalByte (s : State) (j c o : Nat) : Byte :=
  let b := s.job j
  let l := b.lcnOf c (o / 0x4000)
  let lanes : List (BitVec 80) :=
    match b.groups.get? (o / 0x800 % 8) with
    | none => []
    | some g =>
      match (g.members b.w).findIdx? (· == l), g.ops.find? fun (k, _) => k % 2 == o / 0x400 % 2 with
      | some i, some (_, r) => r.subs.getD i []
      | _, _ => []
  ((lanes.getD (o % 0x400 / 16) 0) >>> (8 * (o % 16))).truncate 8

/-- A byte of the plain part of a save area. -/
def State.clusterSaveByte (s : State) (j c : Nat) (e : BitVec 32) (free : Byte) (o : Nat) : Byte :=
  let b := s.job j
  let q := s.clu j c
  if o < 0x40 then wordByte [w64 j, w64 c, w64 b.t, w64 b.foot, w64 (mapFF e + 1), w64 (mapG e)] o
  else if o < 0xC0 then
    let k := q.bars.getD ((o - 0x40) / 8) {}
    byteOf (w64 (k.count + k.arr * 2 ^ 8 + k.ph.toNat * 2 ^ 16)) (o % 8)
  else if o < 0x100 then free
  else if o < 0x140 then (q.prm.cfg.getD []).getD (o - 0x100) 0
  else if o < 0x3000 then free
  else if o < 0x5000 then byteOf (w64 (q.dde.levOf ((o - 0x3000) / 2))) (o % 2)
  else if o < 0x7000 then byteOf (w64 (q.dde.varAt ((o - 0x5000) / 2))) (o % 2)
  else if o < 0x27000 then s.subtotalByte j c (o - 0x7000)
  else if o < 0x27200 && c == 0 then byteOf (b.castAt ((o - 0x27000) / 8)).bits (o % 8)
  else free

/-! ### Encryption (R396) -/

/-- Exchanges two values of a block. -/
def swapped (p : BitVec 128 × BitVec 128) (x : BitVec 128) : BitVec 128 := if x = p.1 then p.2 else if x = p.2 then p.1 else x

/-- A 16-byte block under the key of a job, at its address. -/
def encrypt (j a : Nat) (x : BitVec 128) : BitVec 128 := (Config.xtsSwaps j a).foldl (fun x p => swapped p x) x

/-- The block that was encrypted. -/
def decrypt (j a : Nat) (x : BitVec 128) : BitVec 128 := (Config.xtsSwaps j a).foldr swapped x

/-- A byte of what a map of 16-byte blocks makes of bytes: the block at offset `o` lies at address `base + o`. -/
def blockByte (g : Nat → BitVec 128 → BitVec 128) (base : Nat) (f : Nat → Byte) (o : Nat) : Byte :=
  let k := o / 16 * 16
  ((g (base + k) (BitVec.ofNat 128 (leNat ((List.range 16).map fun i => f (k + i))))) >>> (8 * (o % 16))).truncate 8

/-! ### Saving -/

/-- CS of R386 for a footprint. -/
def coreSaveSize (foot : Nat) : Nat := 0x80000 + (foot + 0xFFFF) / 0x10000 * 0x10000

/-- CSZ of R386. -/
def saveSize (foot : Nat) : Nat := 0x40000 + 8 * coreSaveSize foot

/-- The bytes of a save area before its core blocks are encrypted; `n` names this save. -/
def State.saveByte (s : State) (n j c pcl : Nat) (e : BitVec 32) (o : Nat) : Byte :=
  let b := s.job j
  let cs := coreSaveSize b.foot
  let free := Config.saveByte n o
  if o < 0x40000 then s.clusterSaveByte j c e free o
  else
    let m := (o - 0x40000) / cs
    s.coreSaveByte j (b.lcnOf c m) (Machine.pcOf pcl m) (mapG e * b.foot) free ((o - 0x40000) % cs)

/-- Writes bytes to the pool where the windows let them through (R396). -/
def State.writeArea (s : State) (base n : Nat) (f : Nat → Byte) : State :=
  let open_ (a : Nat) : Bool := (s.dev.slice a).isSome
  { s with
    pool := s.pool.overlay base n fun i => if open_ (base + i) then f i else s.pool.read (base + i)
    poolBuf := s.poolBuf.filter fun c => c.2.1 < base || decide (base + n ≤ c.2.1) || !open_ c.2.1 }

/-- Writes the save area of a logical cluster. -/
def State.writeSave (s : State) (j c pcl : Nat) (e : BitVec 32) (base : Nat) : State :=
  let f := s.saveByte s.seq j c pcl e
  s.drawn.writeArea base (saveSize (s.job j).foot) fun o => if o < 0x40000 then f o else blockByte (encrypt j) base f o

/-- The thread whose wait a step bounds (R110, R125, R211, R224). -/
def boundOf : Event → Option Tid
  | .sleepExpiry w _ | .syncfRelease w _ | .waitmTimeout w _ | .trecvTimeout w _ => some w
  | _ => none

/-- A core leaves its physical core, and the bounds of its threads' waits stand still. -/
def State.saveCore (s : State) (j l pc seg : Nat) (ws : List (Nat × Nat)) : State :=
  let f := (s.job j).foot
  let q := s.pcore pc
  let all := (q.tq.filter fun (i, r) => i != 15 && r.lcn == l).map fun (i, r) => (r, !q.tqNew.contains i)
  let late := (q.tqWait.filter fun r => r.lcn == l).map fun r => (r, false)
  let own (p : Pending) : Bool := (boundOf p.ev).any fun w => w.job == j && w.lcn == l
  let ts := (s.agenda.filter own).map fun p => (p.due - s.cyc, p.ev)
  let x : SavedCore := { ecc := cutFrom q.ecc (seg / 8) (f / 8), tq := all ++ late, waits := ws, timers := ts }
  let s := { s with agenda := s.agenda.filter fun p => !own p }.modCore j l fun c => { c with saved := some x }
  s.modPCore pc fun q =>
    { q with
      mem := spliceAt q.mem seg f [], fe := spliceAt q.fe (seg / 8) (f / 8) [], guard := spliceAt q.guard (seg / 64) (f / 64) []
      ecc := spliceAt q.ecc (seg / 8) (f / 8) []
      tq := q.tq.filter fun (i, r) => i == 15 || r.lcn != l
      tqNew := q.tqNew.filter fun i => match q.tq.get? i with | some r => i == 15 || r.lcn != l | none => false
      tqWait := q.tqWait.filter fun r => r.lcn != l }

/-- Saves one logical cluster from a physical cluster, at its place in the save area. -/
def State.saveCluster (s : State) (j p c : Nat) (e : BitVec 32) (base : Nat) : State :=
  let b := s.job j
  let ws (l : Nat) : List (Nat × Nat) := s.feWaitsOf j l ++ s.stuckParts j [l]
  let all := (List.range 8).map fun m => (m, ws (b.lcnOf c m))
  let s := (s.withdrawParts j (all.flatMap Prod.snd)).writeSave j c p e base
  all.foldl (fun s (m, w) => s.saveCore j (b.lcnOf c m) (Machine.pcOf p m) (mapG e * b.foot) w) s

/-- Marks logical clusters as vacated in every copy of the job's map table. -/
def State.markVacated (s : State) (j : Nat) (cs : List Nat) : State :=
  { s with
    pclus := s.pclus.map fun (i, q) =>
      (i, if s.jobAt i = j then
            { q with map := q.map.map fun (c, e) => (c, if cs.contains c then (e &&& ~~~0x80000000) ||| 0x40000000 else e) }
          else q) }

/-- Code lines are fetched anew after a resume. -/
def State.dropLines (s : State) (j : Nat) (ls : List Nat) : State :=
  (s.threadsIn j ls).foldl (fun s (w, _) => s.modThread w fun t => { t with lines := [] }) s

/-- A vacate begins: the map entries say so, and the threads are suspended. -/
def State.emptyOut (s : State) (p : Nat) : State :=
  let j := s.jobAt p
  let cs := s.carriedBy p
  (s.threadsIn j ((s.job j).coresOf cs)).foldl (fun s (v, _) => s.suspend v) (s.markVacated j cs)

/-- `vacate`: the map entries say so from now on, the threads are suspended, and the saving sets out. -/
def execVacate (g : Gd) (d : HReg) (a : SReg) (s : State) : Host.Outcome State Fault Refusal :=
  s.privileged g fun s =>
    let w := s.cur
    let x := s.rd w a
    let p := bitsOf x 0 8
    if bitsOf x 8 56 != 0 || decide (Config.clusters ≤ p) then s.trap w .addr x 0
    else
      s.withHandle w d .system fun h s =>
        ((s.emptyOut p).drawn.later (Config.managerDelay s.seq) (.vacateResolve h p (s.thread w).vbase)).advance w

/-- VACATE_RESOLVE: once all is still, each cluster is saved at VBASE + g·CSZ, and the handle resolves SUSPENDED with their
number. -/
def execVacateResolve (h : HRef) (pcl : Nat) (vbase : Word) (s : State) : Host.Outcome State Fault Refusal :=
  let j := s.jobAt pcl
  let out := s.leaving pcl
  let cs := out.map Prod.fst
  let b := s.job j
  let ls := b.coresOf cs
  if !s.still j pcl cs ls then .next (s.later 16 (.vacateResolve h pcl vbase))
  else
    let s := (cs.foldl (fun s c => s.freezeUnits j c) (s.withdrawArrivals j ls)).dropLines j ls
    let s := out.foldl (fun s (c, e) => s.saveCluster j pcl c e (vbase.toNat + mapG e * saveSize b.foot)) s
    .next (s.resolve 0 h (cwordHi 12 0 out.length) 0)

/-! ### `resume` -/

/-- The physical clusters whose copies of a job's map table are in use: those that carry one of its clusters, the one
named and the one of the placement. -/
def State.copies (s : State) (j q p : Nat) : List Nat :=
  (s.pclus.map Prod.fst).filter fun i => i == q || i == p || (s.jobAt i == j && !(s.carriedBy i).isEmpty)

/-- EINFO of the ADDR that `resume` raises for a logical cluster and the cluster that gives its placement, if any. -/
def State.badResume (s : State) (c q : Nat) : Option Nat :=
  let j := s.jobAt q
  let e := (s.pclu q).map.getD c 0
  if !mapVac e then some 1
  else if (s.copies j q q).any fun i => (s.pclu i).map.getD c 0 != e then some 2
  else if (s.pclu (mapPcl e)).map.any fun (i, f) => i != c && mapV f && mapPcl f == mapPcl e && mapG f == mapG e then some 3
  else none

/-- `resume`. -/
def execResume (g : Gd) (d : HReg) (a : SReg) (s : State) : Host.Outcome State Fault Refusal :=
  s.privileged g fun s =>
    let w := s.cur
    let x := s.rd w a
    let c := bitsOf x 0 8
    let q := bitsOf x 8 8
    if bitsOf x 16 48 != 0 || decide (Config.clusters ≤ q) then s.trap w .addr x 0
    else
      match s.badResume c q with
      | some n => s.trap w .addr x (w64 n)
      | none =>
        s.withHandle w d .system fun h s =>
          (s.drawn.later (Config.managerDelay s.seq) (.resumeResolve h c q (s.thread w).vbase)).advance w

/-- Places saved trap-queue records in a core's queue. -/
def State.placeSaved (s : State) (pc : Nat) (r : TqRec) (popped : Bool) : State :=
  match (List.range 15).find? fun i => ((s.pcore pc).tq.get? i).isNone with
  | none => s.modPCore pc fun q => { q with tqWait := q.tqWait ++ [{ r with pcore := pc }] }
  | some i =>
    let i := if ((s.pcore pc).tq.get? r.ent).isNone && r.ent < 15 then r.ent else i
    s.modPCore pc fun q =>
      { q with tq := q.tq.set i { r with ent := i, pcore := pc }, tqNew := if popped then q.tqNew else q.tqNew ++ [i] }

/-- The word at an offset of bytes. -/
def wordAt (r : Nat → Byte) (o : Nat) : Word := w64 (leNat ((List.range 8).map fun i => r (o + i)))

/-- The vector at an offset of bytes. -/
def vecAt (r : Nat → Byte) (o : Nat) : Vec := Vec.ofFn fun i => BitVec.ofNat 32 (leNat ((List.range 4).map fun k => r (o + 4 * i + k)))

/-- The entries of `n` bits at an offset of bytes that are 1, as a map from `base` on. -/
def bitsAt (r : Nat → Byte) (o n base : Nat) : Map Bool :=
  ((List.range n).filter fun k => (r (o + k / 8)).getLsbD (k % 8)).map fun k => (base + k, true)

/-- A thread takes back what its block holds. -/
def Thread.restored (t : Thread) (r : Nat → Byte) : Thread :=
  { t with
    x := (List.range 64).map fun i => (i, wordAt r (8 * i))
    pend := wordAt r 0x200, pc := wordAt r 0x208, q := r 0x210
    k := (List.range 8).map fun i => (i, wordAt r (0x220 + 8 * i))
    v := (List.range 16).map fun i => (i, vecAt r (0x900 + 256 * i)) }

/-- Writes a core back at a segment of a physical core, from the bytes of its block. -/
def State.restoreCore (s : State) (j l pc seg : Nat) (r : Nat → Byte) : State :=
  let f := (s.job j).foot
  let x := (s.core j l).saved.getD {}
  let s := s.modPCore pc fun q =>
    { q with
      mem := q.mem.overlay seg f fun i => r (0x80000 + i)
      fe := spliceAt q.fe (seg / 8) (f / 8) (bitsAt r 0x70000 (f / 8) (seg / 8))
      guard := spliceAt q.guard (seg / 64) (f / 64) (bitsAt r 0x78000 (f / 64) (seg / 64))
      ecc := spliceAt q.ecc (seg / 8) (f / 8) (shiftBy (seg / 8) x.ecc) }
  let s := x.tq.foldl (fun s (q, popped) => s.placeSaved pc q popped) s
  let s := x.timers.foldl (fun s (n, e) => s.later n e) s
  s.modCore j l fun c =>
    { c with
      saved := none
      y := (List.range 64).map fun i => (i, wordAt r (8 * i))
      w := (List.range 16).map fun i => (i, vecAt r (0x200 + 256 * i))
      threads := c.threads.map fun (n, t) => (n, t.restored fun o => r (0x8000 + 0x2000 * n + o)) }

/-- A logical cluster takes back what the plain part of its area lays out. -/
def LCluster.restored (q : LCluster) (r : Nat → Byte) : LCluster :=
  let bar (i : Nat) : Counter :=
    let x := wordAt r (0x40 + 8 * i)
    { q.bars.getD i {} with count := bitsOf x 0 8, arr := bitsOf x 8 8, ph := x.getLsbD 16 }
  let short (o : Nat) : Nat := leNat [r o, r (o + 1)]
  { q with
    bars := (List.range 16).map fun i => (i, bar i)
    dde := { q.dde with
      lev := (List.range 4095).map fun v => (v, short (0x3000 + 2 * v))
      var := (List.range 4095).map fun l => (l, short (0x5000 + 2 * l)) } }

/-- The bytes of a save area as `resume` reads them, its core blocks decrypted. -/
def State.areaByte (s : State) (j base : Nat) (o : Nat) : Byte :=
  let raw (o : Nat) : Byte := if (s.dev.slice (base + o)).isSome then s.poolByte (base + o) else Config.saveByte s.seq o
  if o < 0x40000 then raw o else blockByte (decrypt j) base raw o

/-- Restores a logical cluster to its placement from a save area. -/
def State.restoreCluster (s : State) (j c : Nat) (e : BitVec 32) (base : Nat) : State :=
  let b := s.job j
  let r := s.areaByte j base
  let s := s.drawn.modClu j c fun q => q.restored r
  (List.range 8).foldl (fun s m =>
    s.restoreCore j (b.lcnOf c m) (Machine.pcOf (mapPcl e) m) (mapG e * b.foot) fun o => r (0x40000 + coreSaveSize b.foot * m + o)) s

/-- What stood still for a logical cluster goes on: withdrawn accesses, engine operations, plans, decision diagrams and
spans. -/
def State.goOn (s : State) (j c : Nat) (ws : List (Nat × Nat)) : State :=
  let s := ws.foldl (fun s (a, p) => s.dispatchPart a p) s
  let go (s : State) (cp : Bool) : State :=
    (((s.clu j c).ops cp).filter fun o => o.active).foldl (fun s o => s.later 0 (opEvent j c cp o.id)) (s.kickUnit j c cp)
  let s := ((go (go s true) false).later 0 (.pplanRun j c)).later 0 (.ddExecute j c)
  (s.job j).links.foldl (fun s (k, l) =>
    l.prods.foldl (fun s p => (s.promoteKick j k p.pid).deliverKick j k p.pid) (s.linkKick j k)) s

/-- Sets V and clears VAC of a logical cluster in the copies in use. -/
def State.markResident (s : State) (j c q : Nat) (e : BitVec 32) : State :=
  (s.copies j q (mapPcl e)).foldl (fun s i =>
    s.modPClu i fun k => { k with map := k.map.set c ((e ||| 0x80000000) &&& ~~~0x40000000) }) s

/-- RESUME_RESOLVE: the cluster is restored and resident again, and the handle resolves OK. -/
def execResumeResolve (h : HRef) (clu pcl : Nat) (vbase : Word) (s : State) : Host.Outcome State Fault Refusal :=
  let j := s.jobAt pcl
  let e := (s.pclu pcl).map.getD clu 0
  let b := s.job j
  if !mapVac e then .next (s.resolve 0 h (cword 0 0) 0)
  else
    let ls := b.coresOf [clu]
    let ws := ls.flatMap fun l => ((s.core j l).saved.map fun x => x.waits).getD []
    let s := ((s.restoreCluster j clu e vbase.toNat).markResident j clu pcl e).openRoutes j
    let s := (s.threadsIn j ls).foldl (fun s (v, _) => s.modThread v fun t => { t with susp := false }) s
    .next ((s.goOn j clu ws).resolve 0 h (cword 0 0) 0)

end Sys2Proof.Machine
end

