-- ==== Sys2Proof/Machine/Hang.lean ====
section
/-!
DEFINITION. Hang detection (R228 to R230): which entries of the call boards count, what of a job is in motion, and HANG at
thread 0 of logical core 0.
-/

set_option linter.unusedVariables false

namespace Sys2Proof.Machine

/-! ### Entries that count (R228, R230) -/

/-- The thread has an entry that counts as waiting. -/
def State.countsWaiting (s : State) (w : Tid) (t : Thread) : Bool :=
  match t.st, t.wait with
  | .parked, some x => x.kind != .service && !x.timed && s.boardFlags w t == (false, false)
  | _, _ => false

/-- The live threads of a job. -/
def State.liveThreads (s : State) (j : Nat) : List (Tid × Thread) := (s.threadsOf j).filter fun (_, t) => t.isLive s.cyc

/-! ### What is in motion (R228) -/

/-- An access of a job that is no FE form. -/
def State.plainAccess (s : State) (j aid : Nat) : Bool :=
  match s.accs.get? aid with
  | some { own := w, kind := k, .. } => w.job == j && !(k == .take || k == .peek || k == .put)
  | none => false

/-- The state of a stage is on its way: at the standby it begins to be transferred once a `sttake` is registered. -/
def State.xferMoves (s : State) (x : StateXfer) : Bool :=
  x.phase != 2 || x.standby.any fun v => (s.thread v).sttake.isSome

/-- A flit of a job to a peer device has been neither enqueued there nor found dead, and awaits no resend. -/
def State.flitAtPeer (s : State) (j : Nat) : Bool :=
  (s.threadsOf j).any fun (_, t) => t.outbox.any fun f => dstDv f.dst && !t.refused.contains f.id && !t.outHeld.contains f.id

/-- A step that is due, or that a packet carries, keeps a job from being hung: a packet of the job in flight, or work of
a unit for it. FE requests, what awaits a resend after refusal, and state that no standby takes do not. -/
def State.moves (s : State) (j : Nat) : Event → Bool
  | .remoteAccess aid _ => s.plainAccess j aid
  | .accessResponse aid _ | .storeFaultRecord aid _ => match s.accs.get? aid with | some a => a.own.job == j | none => false
  | .translationWalk wid => match s.walks.get? wid with | some k => k.own.job == j | none => false
  | .transRequest rid | .transResult rid => match s.transReqs.get? rid with | some r => r.own.job == j | none => false
  | .barrierArrival w _ _ _ | .barsetRequest w _ _ | .barrierVerdict w _ _ _ _ => w.job == j
  | .barrierRelease job _ _ _ => job == j
  | .flitArrival f => !f.foreign && f.sender.job == j
  | .peerForward f => f.sender.job == j
  | .sendAck f _ => f.sender.job == j
  | .engineEnqueue op => op.own.job == j
  | .copyChunk job _ _ _ | .copyResolve job _ _ | .gatherBatch job _ _ _ | .gatherResolve job _ _ => job == j
  | .cancelRequest h | .handleCompletion h _ _ => h.own.job == j
  | .adoptRequest w _ _ | .adoptReply w _ _ _ => w.job == j
  | .spanArrival a => a.w.job == j
  | .spanSlotTake job _ _ | .spanPortRead job _ _ _ | .spanKstep job _ _ | .spanEmulKstep job _ _ | .spanPromote job _ _
  | .spanDeliver job _ _ _ | .spanDoneWord job _ _ | .spanResolve job _ _ | .spanDeliveryStop job _ _ => job == j
  | .pcfgApply w _ _ => w.job == j
  | .pplanRun job _ | .pplanResolve job _ | .ddExecute job _ | .ddResolve job _ _ _ _ => job == j
  | .ddEnqueue e => e.w.job == j
  | .castAccess w _ => w.job == j
  | .cueArm t | .cueCommit t | .cueFailReturn t => t.w.job == j
  | .recordFrameArrival f => f.src.job == j
  | .bindToken t | .openToken t => t.dst.job == j
  | .unbindToken u _ _ => u.job == j
  | .stateTransfer x => x.src.job == j && s.xferMoves x
  | .redCombine job _ _ _ _ _ | .redBroadcast job _ _ _ _ | .redResolve job _ _ _ => job == j
  | _ => false

/-- Every member of a group has contributed to a reduction that has not ended; over several devices, its result is known too
(R366). -/
def RedGroup.busy (g : RedGroup) : Bool :=
  g.ops.any fun (_, o) => decide (g.gw * g.gh ≤ o.cons.length) && (decide (g.devs.length ≤ 1) || o.result.isSome || o.mismatch)

/-- An operation of a job is pending in an engine, a delivery is under way, or a reduction is complete but for its way
through the tree. -/
def Job.working (b : Job) : Bool :=
  (b.clus.any fun (_, c) =>
      !c.copyQ.isEmpty || !c.gathQ.isEmpty || !c.prm.queue.isEmpty || !c.dde.queue.isEmpty || c.dde.active.isSome) ||
    (b.links.any fun (_, l) => l.prods.any fun p => p.st == .delivering) || b.groups.any fun (_, g) => g.busy

/-- A logical cluster of a job is vacated (R384). -/
def State.anyVacated (s : State) (j : Nat) : Bool := (List.range (s.job j).cluN).any fun c => (s.carrier j c).isNone

/-- A job is hung in this cycle (R228). -/
def State.hung (s : State) (j : Nat) : Bool :=
  !s.anyVacated j && ((s.liveThreads j).all fun (w, t) => s.countsWaiting w t) &&
    !(s.packets.any fun (_, p) => s.moves j p.payload) && !(s.agenda.any fun q => s.moves j q.ev) &&
    !s.flitAtPeer j && !(s.job j).working

/-- The entries of a hung job, to see whether one has changed: by thread, its wait and the cycles in which it and those whose
flags its entry carries were last held or suspended. -/
def State.entries (s : State) (j : Nat) : List (Nat × Nat) :=
  (s.liveThreads j).flatMap fun (w, t) =>
    let k := w.lcn * 16 + w.thr
    let others := match t.wait with
      | some x => s.otherParties w x
      | none => []
    (k, t.stamp) :: (t :: others).map fun u => (k, u.capAt)

/-! ### HANG (R229) -/

/-- Takes back what the waiting instruction of a thread has done: the result is the address of that instruction. -/
def State.withdraw (s : State) (w : Tid) : State × Word :=
  let t := s.thread w
  let j := w.job
  match t.wait with
  | some { cont := .bar n, .. } =>
    let c := (s.job j).cluOf w.lcn
    let k := s.counter j c n
    ((s.setCounter j c n { k with arr := k.arr - 1, who := k.who.erase w }).modThread w fun t =>
      { t with ep := setBit16 t.ep n (!t.expect n), bpend := setBit16 t.bpend n false }, t.pc)
  | some { kind := .fe, cont := .access i, .. } =>
    let p := match s.accs.get? i with | some a => a.pc | none => t.pc
    let s := s.modJob j fun b =>
      { b with cores := b.cores.map fun (l, c) => (l, { c with feQ := c.feQ.filter fun x => x.aid != i }) }
    let s := { s with accs := s.accs.del i }
    ((s.release w i).modThread w fun t => { t with ordAcc := if t.ordAcc = some i then none else t.ordAcc }, p)
  | some { cont := .rendezvous, .. } =>
    match (s.job j).links.findSome? fun (_, l) => l.queue.find? fun x => x.arr.w == w with
    | some x => (s.withdrawArr x, t.pc)
    | none => (s, t.pc)
  | _ =>
    ((s.modCore j w.lcn fun c => { c with starters := c.starters.filter fun x => x.1 != w }).modThread w fun t =>
      { t with grants := [] }, t.pc)

/-- HANG at thread 0 of logical core 0, or the end of the job. -/
def State.raiseHang (s : State) (j : Nat) : State :=
  let w : Tid := ⟨j, 0, 0⟩
  let n := (s.liveThreads j).length
  if !(s.thread w).isLive s.cyc || (s.thread w).tvec = 0 then s.endJob j 3 0
  else
    let (s, p) := s.withdraw w
    s.trapAt w .hang p 0 (w64 (n % 65536))

/-- HANG_SAMPLE: the sample of a running job, and the next one 1,024 cycles on. -/
def execHangSample (job : Nat) (s : State) : Host.Outcome State Fault Refusal :=
  let b := s.job job
  if b.st != .running then .next s
  else
    let s := s.later 1024 (.hangSample job)
    if !s.hung job then .next (s.modJob job fun b => { b with hangLast := none })
    else
      let now := s.entries job
      if b.hangLast = some now then .next ((s.modJob job fun b => { b with hangLast := none }).raiseHang job)
      else .next (s.modJob job fun b => { b with hangLast := some now })

end Sys2Proof.Machine
end

