-- ==== Sys2Proof/Machine/Image.lean ====
section
/-!
DEFINITION. A linked image as the stage manager reads it (R73 to R84, R88): the section table, the descriptor, the checks
of steps 1 to 3 and 5 of R88, and what each logical core's scratch receives. A file is read through a function from
offsets to bytes.
-/

set_option linter.unusedVariables false

namespace Sys2Proof.Machine

/-- `n` bytes of a file, little-endian (R73). -/
def fileNat (r : Nat → Byte) (a n : Nat) : Nat := leNat ((List.range n).map fun i => r (a + i))

/-- `n` bytes of a file. -/
def fileBytes (r : Nat → Byte) (a n : Nat) : List Byte := (List.range n).map fun i => r (a + i)

/-- A range of a file is all zeros. -/
def fileZero (r : Nat → Byte) (a n : Nat) : Bool := (List.range n).all fun i => r (a + i) == 0

/-! ### The section table (R75) -/

/-- A section table entry. -/
structure Sec where
  name : Nat
  type : Nat
  lcn : Nat
  addr : Nat
  off : Nat
  size : Nat
  align : Nat
  link : Nat
  ent : Nat
deriving DecidableEq, Repr

/-- Entry `i` of the table. -/
def readSec (r : Nat → Byte) (i : Nat) : Sec :=
  let a := 64 + 48 * i
  { name := fileNat r a 4, type := fileNat r (a + 4) 2, lcn := fileNat r (a + 6) 2, addr := fileNat r (a + 8) 8, off := fileNat r (a + 16) 8
    size := fileNat r (a + 24) 8, align := fileNat r (a + 32) 4, link := fileNat r (a + 36) 2, ent := fileNat r (a + 38) 2 }

/-- SECCNT of the header. -/
def secCount (r : Nat → Byte) : Nat := fileNat r 24 2

/-- The sections of a file, but for the null entry. -/
def readSecs (r : Nat → Byte) : List Sec := (List.range (secCount r - 1)).map fun i => readSec r (i + 1)

/-- The header of a linked image (R74). -/
def headerOk (r : Nat → Byte) : Bool :=
  fileNat r 0 4 == 0x534B4F46 && fileNat r 4 2 == 1 && fileNat r 6 2 == 64 && fileNat r 8 4 == 2 &&
    decide (fileNat r 12 4 < 4) && fileNat r 16 8 == 64 && decide (2 ≤ secCount r) && decide (secCount r ≤ 8192) &&
    fileNat r 26 2 == 48 && decide (fileNat r 28 4 < secCount r) && fileNat r 40 4 == 0x1600 && fileZero r 44 20

/-- The section holds data of one core, or of every core. -/
def Sec.perCore (x : Sec) : Bool := 4 ≤ x.type && x.type ≤ 6

/-- The place of a section in the table: ascending type, the replicated section before those of cores (R75). -/
def Sec.key (x : Sec) : Nat := x.type * 2 ^ 17 + (if x.lcn = 0xFFFF then 0 else x.lcn + 1)

/-- One entry of a linked image's table. The load address of code, rodata and data is one of the pool (R179). -/
def Sec.ok (x : Sec) (count fsize : Nat) : Bool :=
  decide (1 ≤ x.type) && decide (x.type ≤ 12) && x.type != 9 &&
    (x.lcn == 0xFFFF || (x.perCore && decide (x.lcn < 1600))) && (decide (x.type ≤ 4) || x.addr == 0) &&
    (decide (4 ≤ x.type) || (decide (x.addr < 2 ^ 48) && decide (x.addr + x.size ≤ 2 ^ 48))) &&
    x.off % 64 == 0 && decide (64 + 48 * count ≤ x.off) && decide (x.off + x.size ≤ fsize) &&
    (if x.type = 1 then x.align == 48 else if 5 ≤ x.type then x.align == 1 else decide (1 ≤ x.align)) && x.link == 0 &&
    x.ent == (if x.type = 8 then 24 else if x.type = 11 then 16 else 0)

/-- The keys of a table rise. -/
def risingKeys : List Sec → Bool
  | x :: y :: t => decide (x.key < y.key) && risingKeys (y :: t)
  | _ => true

/-- The LCN fields of the sections of a type. -/
def lcnsOf (l : List Sec) (t : Nat) : List Nat := (l.filter fun x => x.type == t).map Sec.lcn

/-- The str section holds the empty string first and ends its last string, and the names of sections are offsets into it (R75,
R76). -/
def namesOk (r : Nat → Byte) : Bool :=
  match (readSecs r).find? fun x => x.type == 10 with
  | none => false
  | some x =>
    decide (0 < x.size) && r x.off == 0 && r (x.off + x.size - 1) == 0 && (readSecs r).all fun y => decide (y.name < x.size)

/-- The section table (R75, log 75). -/
def tableOk (r : Nat → Byte) : Bool :=
  let l := readSecs r
  let fsize := fileNat r 32 8
  fileZero r 64 48 && namesOk r && (l.all fun x => x.ok (secCount r) fsize) &&
    ((List.range (secCount r - 1)).all fun i => fileZero r (64 + 48 * (i + 1) + 40) 8) && risingKeys l &&
    lcnsOf l 5 == lcnsOf l 4 && lcnsOf l 6 == lcnsOf l 4 && (lcnsOf l 7).length == 1 && (lcnsOf l 10).length == 1 &&
    (readSec r (fileNat r 28 4)).type == 10 && (fileNat r 12 1).testBit 0 == !(lcnsOf l 12).isEmpty &&
    (fileNat r 12 1).testBit 1 == (l.any fun x => x.type == 4 && x.lcn != 0xFFFF) &&
    l.all fun x => (x.type != 12 || x.off + x.size == fsize) && (x.type != 7 || x.size == 384)

/-! ### The signature (R84) -/

/-- The signature of an image verifies against a key of a tenant. -/
def sigOk (r : Nat → Byte) (tenant : Nat) : Bool :=
  match (readSecs r).find? fun x => x.type == 12 with
  | none => !Config.demandsSignature tenant
  | some x =>
    let keyid := fileBytes r x.off 16
    x.size == 4651 && fileNat r (x.off + 16) 4 == 4627 && fileZero r (x.off + 20) 4 &&
      (Config.tenantKeys tenant).any fun k =>
        k.take 16 == keyid && Config.mldsaVerify k (Config.sha3 (fileBytes r 0 x.off)) (fileBytes r (x.off + 24) 4627)

/-! ### The descriptor (R80) -/

/-- The descriptor of a job, with the code section of its image and the value of `jtrap`. -/
structure Desc where
  entry : Word
  w : Nat
  h : Nat
  t : Nat
  pri : Nat
  flags : Nat
  red : Nat
  foot : Nat
  args : Nat
  pred : List Nat
  geom0 : Word
  geom1 : Word
  ddeBase : Nat
  ddeSize : Nat
  prm : Nat
  castN : Nat
  cast : List Nat
deriving DecidableEq, Repr

/-- The descriptor at an offset. -/
def readDesc (r : Nat → Byte) (a : Nat) : Desc :=
  let f := fun o n => fileNat r (a + o) n
  { entry := w64 (f 0 8), w := f 8 2, h := f 10 2, t := f 12 1, pri := f 13 1, flags := f 14 1, red := f 15 1, foot := f 16 4
    args := f 20 4, pred := (List.range 4).map fun i => f (24 + 4 * i) 4, geom0 := w64 (f 40 8), geom1 := w64 (f 48 8)
    ddeBase := f 56 4, ddeSize := f 60 4, prm := f 64 4, castN := f 68 1, cast := (List.range 64).map fun i => f (128 + 4 * i) 4 }

/-- The descriptor keeps R80 and R24. The offsets of the prompter's block and of the DDE area are ones of the cluster window of
16 MiB (log 75). -/
def Desc.ok (d : Desc) : Bool :=
  d.w % 4 == 0 && decide (4 ≤ d.w) && decide (d.w ≤ 40) && d.h % 2 == 0 && decide (2 ≤ d.h) && decide (d.h ≤ 40) &&
    decide (1 ≤ d.t) && decide (d.t ≤ 16) && decide (d.pri ≤ 3) && decide (d.flags < 16) && decide (d.red ≤ 8) &&
    d.foot % 64 == 0 && decide (64 ≤ d.foot) && decide (d.foot ≤ Config.scratchBytes) && bitsOf d.geom1 48 16 == 0 &&
    (d.flags.testBit 1 || (d.geom0 == 0 && d.geom1 == 0)) && (d.flags.testBit 2 || (d.ddeBase == 0 && d.ddeSize == 0)) &&
    (d.flags.testBit 3 || d.prm == 0) && d.prm % 64 == 0 && decide (d.prm < 2 ^ 24) &&
    decide (d.ddeBase + d.ddeSize ≤ 2 ^ 24) && decide (d.castN ≤ 64) &&
    (d.cast.mapIdx fun i c =>
      if i < d.castN then decide (c < 2 ^ 20) && decide (c % 2 ^ 16 < d.w * d.h) && decide (c / 2 ^ 16 < d.t) else c == 0).all id

/-- The value of the global symbol `jtrap`, with its section's index (R81, R334). -/
def jtrapOf (r : Nat → Byte) : Option (Nat × Word) :=
  match (readSecs r).find? fun x => x.type == 8, (readSecs r).find? fun x => x.type == 10 with
  | some x, some str =>
    let name : List Byte := [0x6A, 0x74, 0x72, 0x61, 0x70, 0]
    ((List.range (x.size / 24)).find? fun i =>
      let a := x.off + 24 * i
      i != 0 && fileNat r (a + 7) 1 == 1 && fileNat r (a + 4) 2 != 0 && decide (fileNat r a 4 + 6 ≤ str.size) && fileBytes r (str.off + fileNat r a 4) 6 == name).map fun i =>
        (fileNat r (x.off + 24 * i + 4) 2, w64 (fileNat r (x.off + 24 * i + 8) 8))
  | _, _ => none

/-- An image of the guard map marks no granule beyond F (R79, R87). -/
def guardOk (r : Nat → Byte) (x : Sec) (foot : Nat) : Bool :=
  (List.range (8 * x.size)).all fun g => decide (g < foot / 64) || !(r (x.off + g / 8)).toNat.testBit (g % 8)

/-- Step 3 of R88: the descriptor, ENTRY, the code base, `jtrap`, and sections and maps within F and the region (R80, R85,
R87, R334). That a code base that is no multiple of 64 KiB and a `jtrap` outside the code section fail at this step is the
model's choice: R85 and R334 name no step (log 75). -/
def descOk (r : Nat → Byte) : Bool :=
  let l := readSecs r
  match l.find? fun x => x.type == 7, l.find? fun x => x.type == 1 with
  | some j, some c =>
    let d := readDesc r j.off
    d.ok && fileZero r (j.off + 69) 59 && c.addr % 65536 == 0 && validPc (w64 c.addr) d.entry &&
      (match jtrapOf r with
        | some (i, v) => decide (i < secCount r) && (readSec r i).type == 1 && validPc (w64 c.addr) v
        | none => true) &&
      l.all fun x =>
        (!x.perCore || x.lcn == 0xFFFF || decide (x.lcn < d.w * d.h)) && (x.type != 4 || decide (x.addr + x.size ≤ d.foot)) &&
          (x.type != 5 || x.size == d.foot / 32) && (x.type != 6 || (x.size == (d.foot + 511) / 512 && guardOk r x d.foot))
  | _, _ => false

/-! ### What a core's scratch receives (R78, R79, R85, R87, R88) -/

/-- The sections of a type for a logical core: the replicated one, then the core's own. -/
def secsFor (l : List Sec) (t lcn : Nat) : List Sec := l.filter fun x => x.type == t && (x.lcn == 0xFFFF || x.lcn == lcn)

/-- The scratch image of a logical core. -/
def scratchImage (r : Nat → Byte) (l : List Sec) (lcn : Nat) : Memory :=
  (secsFor l 4 lcn).foldl (fun m x => Memory.overlay m x.addr x.size fun i => r (x.off + i)) []

/-- The code of a word in an FE section. -/
def feCode (r : Nat → Byte) (x : Sec) (n : Nat) : Nat := (r (x.off + n / 4)).toNat / 4 ^ (n % 4) % 4

/-- The words that load as full on a logical core: the core's own code stands where it is not 00. -/
def fullWords (r : Nat → Byte) (l : List Sec) (lcn foot : Nat) : Map Bool :=
  ((List.range (foot / 8)).filter fun n =>
    (secsFor l 5 lcn).foldl (fun c x => if feCode r x n = 0 then c else feCode r x n) 0 == 3).map fun n => (n, true)

/-- The guard granules of a logical core. -/
def guardMarks (r : Nat → Byte) (l : List Sec) (lcn foot : Nat) : Map Bool :=
  ((List.range (foot / 64)).filter fun g =>
    (secsFor l 6 lcn).any fun x => (r (x.off + g / 8)).toNat.testBit (g % 8)).map fun g => (g, true)

/-- An FE section holds the code 10 (R78). -/
def feBad (r : Nat → Byte) (l : List Sec) : Bool :=
  l.any fun x => x.type == 5 && (List.range (4 * x.size)).any fun n => feCode r x n == 2

/-! ### The blocks of step 5 (R296, R311) -/

/-- A job of a descriptor's shape, to number cores and clusters. -/
def Desc.shape (d : Desc) : Job := { w := d.w, h := d.h, t := d.t, foot := d.foot }

/-- The 64 bytes at a window offset of a logical cluster, as loaded. -/
def blockAt (r : Nat → Byte) (l : List Sec) (d : Desc) (c wo : Nat) : List Byte :=
  Memory.readBytes (scratchImage r l (d.shape.lcnOf c (wo / 2 ^ 21 % 8))) (wo % 2 ^ 21) 64

/-- A block at a window offset lies below F of its member, as an address of the space 0xA does (R180, R296, R311). -/
def Desc.holds (d : Desc) (wo : Nat) : Bool := wo % 64 == 0 && decide (wo % 2 ^ 21 + 64 ≤ d.foot)

/-- A decision-diagram block fails R310, or an area leaves the declared one. -/
def ddBlockBad (d : Desc) (blk : List Byte) : Bool :=
  (d.shape.badDd blk).isSome ||
    (ddParse blk 0).parts.any fun (_, a, n) => decide (a < d.ddeBase) || decide (d.ddeBase + d.ddeSize < a + n)

/-- Step 5 of R88, as far as it can fail. -/
def blocksOk (r : Nat → Byte) : Bool :=
  let l := readSecs r
  match l.find? fun x => x.type == 7 with
  | none => false
  | some j =>
    let d := readDesc r j.off
    !feBad r l && (!d.flags.testBit 3 || d.holds d.prm) && (!d.flags.testBit 2 || d.holds d.ddeBase) && (List.range d.shape.cluN).all fun c =>
      (!d.flags.testBit 3 || (d.shape.badLayer (blockAt r l d c d.prm)).isNone) &&
        (!d.flags.testBit 2 || !ddBlockBad d (blockAt r l d c d.ddeBase))

/-- The first step of R88 at which an image fails, if any. -/
def imageFault (r : Nat → Byte) (tenant : Nat) : Option Nat :=
  if !(headerOk r && tableOk r) then some 1
  else if !sigOk r tenant then some 2
  else if !descOk r then some 3
  else if !blocksOk r then some 5
  else none

end Sys2Proof.Machine
end

