-- ==== Sys2Proof/Machine/Launch.lean ====
section
/-!
DEFINITION. From posting to the first issue and to the end of a job (R88, R111 to R115, R388 to R390): the doorbell, the
order of placing, the launch, spatial pre-emption, the completion of a job and its termination.
-/

set_option linter.unusedVariables false

namespace Sys2Proof.Machine

/-! ### The image in host or pool memory -/

/-- A byte of an image at an address: of the pool where a window covers it, else of host memory. -/
def State.outerByte (s : State) (a : Nat) : Byte := if (s.dev.slice a).isSome then s.poolByte a else s.host.read a

/-- The file at an address. -/
def State.fileAt (s : State) (a : Nat) (i : Nat) : Byte := s.outerByte (a + i)

/-! ### Completion records (R390) -/

/-- The tenant in a job identifier (R389). -/
def tenantOf (id : Nat) : Nat := id / 2 ^ 28 + 1

/-- The 32 bytes of a completion record. -/
def Completion.bytes (c : Completion) : List Byte :=
  leBytes 4 c.jobid ++ [c.cstatus, c.ccause, 0, 0] ++ leBytes 8 c.exitv.toNat ++ leBytes 8 c.cycles ++ leBytes 8 0

/-- The completion queue of a function has a place. -/
def Vf.room (v : Vf) : Bool :=
  decide (0 < v.cqsize.toNat) && (v.cqtail + 1) % v.cqsize.toNat != v.cqhead.toNat % v.cqsize.toNat

/-- Changes a virtual function. -/
def State.modVf (s : State) (v : Nat) (f : Vf → Vf) : State :=
  { s with dev := { s.dev with vfs := s.dev.vfs.set v (f (s.dev.vfs.getD v {})) } }

/-- Writes a record if its queue has a place; a job has ended once its record is written. -/
def State.writeRecord (s : State) (c : Completion) : State × Bool :=
  let v := tenantOf c.jobid
  let f := s.dev.vfs.getD v {}
  if f.room then
    let s := { s with host := s.host.writeBytes (f.cqbase.toNat + 32 * f.cqtail) c.bytes }
    let s := s.modVf v fun f => { f with cqtail := (f.cqtail + 1) % f.cqsize.toNat }
    ((if (s.jobs.get? c.jobid).isSome then s.modJob c.jobid fun b => { b with st := .ended } else s), true)
  else (s, false)

/-- Writes the records that wait, in order, as far as their queues have places. -/
def State.writeRecords (s : State) : State :=
  let (s, left) := s.dev.completions.foldl
    (fun (s, left) c =>
      let (s, ok) := s.writeRecord c
      (s, if ok then left else left ++ [c])) (s, [])
  { s with dev := { s.dev with completions := left } }

/-- Adds a record. -/
def State.report (s : State) (c : Completion) : State :=
  { s with dev := { s.dev with completions := s.dev.completions ++ [c] } }.writeRecords

/-! ### The order of placing (R111 to R113) -/

/-- Each non-zero predecessor has ended (R112). -/
def State.ready (s : State) (b : Job) : Bool := b.pred.all fun p => p == 0 || (s.job p).st == .ended

/-- Rank of a job: priority, then the tenants after the one launched last, then the order of posting. DEDUCED (log 51): the
tenant launched last is kept for each priority apart. -/
def State.rank (s : State) (id : Nat) (b : Job) : Nat :=
  ((3 - b.pri) * 16 + (b.tenant + 31 - s.dev.lastTenant.getD b.pri 0) % 16) * 2 ^ 32 + id

/-- The posted jobs that are ready, in order. -/
def State.queueOrder (s : State) : List (Nat × Job) :=
  sortBy (fun x => s.rank x.1 x.2) (s.jobs.filter fun (_, b) => b.st == .posted && s.ready b)

/-- A job has waited longer than the limit of its priority, as it now stands (R111). -/
def State.overdue (s : State) (b : Job) : Bool :=
  let lim := bitsOf (s.dev.waitlim.getD b.pri 0) 0 48
  lim != 0 && decide (b.postedAt + lim < s.cyc)

/-- A physical cluster carries nothing, and none is leaving it. -/
def State.vacant (s : State) (p : Nat) : Bool := (s.carriedBy p).isEmpty && (s.leaving p).isEmpty

/-- The physical cluster under a logical cluster of a job whose south-west cluster is `sw`. -/
def Job.pclFor (b : Job) (sw c : Nat) : Nat := sw + c / (b.w / 4) * 10 + c % (b.w / 4)

/-- The south-west physical cluster of the free placement with the lowest py, then px. -/
def State.placement (s : State) (b : Job) : Option Nat :=
  (List.range Config.clusters).find? fun sw =>
    decide (sw % 10 + b.w / 4 ≤ 10) && decide (sw / 10 + b.h / 2 ≤ 20) &&
      (List.range b.cluN).all fun c => s.vacant (b.pclFor sw c)

/-- The first job of the list that can be placed; a job past its waiting limit that cannot lets no later one pass. -/
def State.firstFit (s : State) : List (Nat × Job) → Option (Nat × Nat)
  | [] => none
  | (id, b) :: t =>
    match s.placement b with
    | some sw => some (id, sw)
    | none => if s.overdue b then none else s.firstFit t

/-- The ready job past its waiting limit that fits nowhere and lets no later one pass, if any. -/
def State.blocking (s : State) : Option (Nat × Job) :=
  s.queueOrder.find? fun (_, b) => s.overdue b && (s.placement b).isNone

/-- The stage manager looks for a job to launch, and begins to pre-empt for one that has waited too long. -/
def State.considerLaunch (s : State) : State :=
  let s :=
    match s.blocking with
    | none => s
    | some (id, _) =>
      if s.agenda.any fun p => match p.ev with | .waitlimExpiry i => i == id | _ => false then s else s.later 0 (.waitlimExpiry id)
  match s.firstFit s.queueOrder with
  | none => s
  | some (id, _) =>
    if s.agenda.any fun p => match p.ev with | .jobLaunch i _ => i == id | _ => false then s
    else s.drawn.later (Config.managerDelay s.seq) (.jobLaunch id (Config.launchPlan s.seq))

/-- The step that looks at a posted job when the limit of its priority, as it now stands, has passed. -/
def State.limitFor (s : State) (id : Nat) : State :=
  let b := s.job id
  let lim := bitsOf (s.dev.waitlim.getD b.pri 0) 0 48
  if lim = 0 then s else s.atCycle (max s.cyc (b.postedAt + lim + 1)) (.waitlimExpiry id)

/-- A limit has been written: it holds for every waiting job of its priority. -/
def State.limitWritten (s : State) (pri : Nat) : State :=
  let mine (id : Nat) : Bool := (s.job id).st == .posted && (s.job id).pri == pri
  let s' := { s with agenda := s.agenda.filter fun p => match p.ev with | .waitlimExpiry i => !mine i | _ => true }
  ((s.jobs.map Prod.fst).filter mine).foldl State.limitFor s'

/-! ### Posting (R388, R389) -/

/-- The record of a job as posted. -/
def postedJob (d : Desc) (tenant image args : Nat) (pred : List Nat) (cyc : Nat) : Job :=
  { tenant := tenant, w := d.w, h := d.h, t := d.t, foot := d.foot, pri := d.pri, fold := d.flags.testBit 0, redgrp := d.red
    entry := d.entry, image := w64 image, args := w64 args, argSize := d.args, pred := pred, geom0 := d.geom0
    geom1 := d.geom1.truncate 48, dde := if d.flags.testBit 2 then some (d.ddeBase, d.ddeSize) else none
    prm := if d.flags.testBit 3 then some d.prm else none
    cast0 := (d.cast.take d.castN).map fun c => (c % 2 ^ 16, c / 2 ^ 16), postedAt := cyc }

/-- The job descriptor of an image (R80). -/
def descIn (r : Nat → Byte) : Option Desc := ((readSecs r).find? fun x => x.type == 7).map fun j => readDesc r j.off

/-- Posts the job of an image that passes R88 under an identifier, if its predecessors may be named (R112, R389). -/
def State.accept (s : State) (v id : Nat) (image args : Nat) (own : List Nat) (refuse : Nat → State) : State :=
  (descIn (s.fileAt image)).elim (refuse 1) fun d =>
    let pred := if own.any (· != 0) then own else d.pred
    if pred.any fun p => p != 0 && (p / 2 ^ 28 != v - 1 || decide (id ≤ p)) then refuse 0
    else
      let s := { s with jobs := s.jobs.set id (postedJob d v image args pred s.cyc) }
      (s.modVf v fun f => { f with nextid := f.nextid + 1 }).limitFor id

/-- Takes one launch entry of a tenant: a refusal costs a record and no identifier. -/
def State.post (s : State) (v : Nat) (entry : Nat) : State :=
  let r (o n : Nat) : Nat := leNat ((List.range n).map fun i => s.host.read (entry + o + i))
  let id := (v - 1) * 2 ^ 28 + (s.dev.vfs.getD v {}).nextid
  let refuse (c : Nat) : State := s.report { jobid := id, cstatus := 1, ccause := BitVec.ofNat 8 c, exitv := 0, cycles := 0 }
  (imageFault (s.fileAt (r 0 8)) v).elim (s.accept v id (r 0 8) (r 8 8) ((List.range 4).map fun i => r (16 + 4 * i) 4) refuse) refuse

/-- Takes the entries of a launch queue from its head to an index; at most `n` of them. -/
def State.postAll (v tail : Nat) : Nat → State → State
  | 0, s => s
  | n + 1, s =>
    let f := s.dev.vfs.getD v {}
    if f.lqsize = 0 || f.lqhead = tail then s
    else
      let s := s.post v (f.lqbase.toNat + 64 * f.lqhead)
      State.postAll v tail n (s.modVf v fun f => { f with lqhead := (f.lqhead + 1) % f.lqsize.toNat })

/-- LQTAIL: the doorbell. No management core runs before a boot that succeeds (R397). -/
def execLqtail (vf : Nat) (tail : Word) (s : State) : Host.Outcome State Fault Refusal :=
  if !s.dev.booted || vf = 0 || 16 < vf then .next s
  else
    let f := s.dev.vfs.getD vf {}
    .next (State.postAll vf (tail.toNat % max 1 f.lqsize.toNat) 4096 s).considerLaunch

/-! ### Page tables at a launch (R88, R196, R197) -/

/-- A table of 64 empty entries. -/
def State.clearTable (s : State) (a : Nat) : State := s.poolWrite a (List.replicate 512 0)

/-- Enters a 4 KiB page below a table at a level; a missing table is made at `next`. The result is the next free place. -/
def State.mapBelow (va pte : Nat) : Nat → Nat → State → Nat → State × Nat
  | 0, _, s, next => (s, next)
  | fuel + 1, base, s, next =>
    let l := 5 - fuel
    let a := base + 8 * (va / 2 ^ (42 - 6 * l) % 64)
    if l = 5 then (s.poolStore a 8 pte, next)
    else
      let e := s.poolNat a 8
      if e.testBit 0 then State.mapBelow va pte fuel (e / 512 % 2 ^ 43 * 512) s next
      else State.mapBelow va pte fuel next ((s.clearTable next).poolStore a 8 (next / 512 * 512 + 1)) (next + 512)

/-- Enters pages in turn. -/
def State.mapPages (root : Nat) (ps : List (Nat × Nat × BitVec 4)) (x : State × Nat) : State × Nat :=
  ps.foldl (fun x y => State.mapBelow y.1 (y.2.1 / 4096 % 2 ^ 40 * 4096 + y.2.2.toNat * 4 + 3) 6 root x.1 x.2) x

/-- R, W, X, AT of a section's pages (R88). -/
def secPerm (t : Nat) : BitVec 4 := if t = 1 then 0b0101 else if t = 2 then 0b0001 else 0b1011

/-- The pages of a loaded section, backed from a frame on. -/
def Sec.pages (x : Sec) (frame : Nat) : List (Nat × Nat × BitVec 4) :=
  let a := x.addr / 4096
  (List.range ((x.addr + x.size + 4095) / 4096 - a)).map fun i => ((a + i) * 4096, frame + 4096 * i, secPerm x.type)

/-- Loads the pool sections of an image: contents into frames, and their pages. The result has the next free frame. -/
def State.loadPool (r : Nat → Byte) (x : Sec) (s : State) (frame : Nat) : State × List (Nat × Nat × BitVec 4) × Nat :=
  let ps := x.pages frame
  let s := ps.foldl (fun s (_, fr, _) => s.poolWrite fr (List.replicate 4096 0)) s
  (s.poolWrite (frame + x.addr % 4096) (fileBytes r x.off x.size), ps, frame + 4096 * ps.length)

/-! ### The launch (R88, R113 to R115) -/

/-- JSHAPE of a job. -/
def Job.shapeReg (b : Job) : Word := w64 (b.t % 16 + (if b.fold then 16 else 0) + b.foot * 2 ^ 32)

/-- The registers of a core for a job; a change of TENANT zeroes its scratch (R113, R379, R396). -/
def State.assignCore (s : State) (j pc : Nat) : State :=
  let b := s.job j
  s.modPCore pc fun q =>
    let q := if q.tenant = w64 b.tenant then q
      else { q with tenant := w64 b.tenant, mem := [], fe := [], guard := [], ecc := [], loading := true }
    { q with ptroot := b.root, jobreg := w64 j, jshape := b.shapeReg, cbase := b.cbase, slots := [], slotsNext := [] }

/-- Prepares the physical core of a logical core: registers, scratch and its maps. -/
def State.loadCore (r : Nat → Byte) (l : List Sec) (j lcn pc : Nat) (s : State) : State :=
  let b := s.job j
  (s.assignCore j pc).modPCore pc fun q =>
    { q with mem := scratchImage r l lcn, fe := fullWords r l lcn b.foot, guard := guardMarks r l lcn b.foot, ecc := []
             tlb := [], permits := [], permitQ := [], tq := [], tqNew := [], tqWait := [], loading := false }

/-- The initial cast table (R338). -/
def castTable (l : List (Nat × Nat)) : Map CastEntry :=
  l.mapIdx fun i (lcn, thr) =>
    (i, { bits := w64 (2 ^ 31 + (if i + 1 < l.length then 2 ^ 30 + (i + 1) * 2 ^ 20 else 0) + thr * 2 ^ 16 + lcn) })

/-- Every copy of the map table at a launch: each logical cluster on its physical cluster, unfolded. -/
def Job.launchMap (b : Job) (sw : Nat) : Map (BitVec 32) := (List.range b.cluN).map fun c => (c, mapEntry (b.pclFor sw c) 0 0)

/-- The handlers of a thread that no `start` has taken yet (R334, R368). -/
def State.setHandlers (s : State) (w : Tid) (tvec svec : Word) : State :=
  s.modThread w fun t => { t with tvec := tvec, svec := svec }

/-- Thread 0 of a core as it starts in cycle S (R115). -/
def State.launchThread (s : State) (w : Tid) (at_ : Nat) (tvec svec : Word) (ls : List CodeLine) : State :=
  let b := s.job w.job
  s.modThread w fun t =>
    { s.freshThread w b.entry b.args 1 {} with
      geom0 := b.geom0, geom1 := b.geom1, tvec := tvec, svec := svec, turnsAt := at_, lines := ls }

/-- Configures the units of a logical cluster that the descriptor gives a block for. -/
def State.launchUnits (r : Nat → Byte) (l : List Sec) (d : Desc) (j : Nat) (s : State) (c : Nat) : State :=
  let at_ (wo : Nat) : Word := w64 (0xA * 2 ^ 60 + wo)
  let s := if d.flags.testBit 3 then
      s.modClu j c fun q => { q with prm := { q.prm with cfg := some (blockAt r l d c d.prm), adr := at_ d.prm } }
    else s
  if d.flags.testBit 2 then s.ddConfigure j c (ddParse (blockAt r l d c d.ddeBase) (at_ d.ddeBase)) else s

/-! ### The stage manager's choices (R88, R392) -/

/-- Two ranges of bytes meet. -/
def rangesMeet (a b : Nat × Nat) : Bool := decide (a.1 < b.1 + b.2) && decide (b.1 < a.1 + a.2)

/-- No two ranges of a list meet. -/
def rangesApart : List (Nat × Nat) → Bool
  | [] => true
  | x :: l => (l.all fun y => !rangesMeet x y) && rangesApart l

/-- The pages of the argument block (R115). -/
def Job.argPages (b : Job) : List Nat :=
  let a := b.args.toNat / 4096
  if b.argSize = 0 then []
  else ((List.range ((b.args.toNat + b.argSize + 4095) / 4096 - a)).map fun i => (a + i) * 4096).filter fun v => decide (v < 2 ^ 48)

/-- The choices of the stage manager keep what R88 and R392 ask of them: every frame and table lies in a window; what backs the
image and the tables is the job's alone, and its other pages are shared with jobs of its tenant at most; the pages have
addresses of their own, with the argument block's among them. DEDUCED: log 66. -/
def State.planOk (s : State) (j : Nat) (p : LaunchPlan) (pages : List (Nat × Nat × BitVec 4)) (tables : Nat) : Bool :=
  let b := s.job j
  let frames := pages.map fun x => x.2.1
  let own := (p.tables, tables - p.tables) :: frames.map fun f => (f, 4096)
  let extra := p.extra.map fun x => x.2.1
  let vas := (pages ++ p.extra).map Prod.fst
  let apart (x : Nat × Nat) : Bool := !(own.any (rangesMeet x))
  ((frames ++ extra).all fun f => f % 4096 == 0 && (s.dev.slice f).isSome) && p.tables % 512 == 0 &&
    ((List.range ((tables - p.tables) / 512)).all fun i => (s.dev.slice (p.tables + 512 * i)).isSome) &&
    rangesApart own && (extra.all fun f => apart (f, 4096)) && decide vas.Nodup && (vas.all fun v => v % 4096 == 0 && decide (v < 2 ^ 48)) &&
    (b.argPages.all vas.contains) &&
    s.jobs.all fun (k, c) =>
      k == j || c.st == .posted || c.st == .ended ||
        ((c.backing.all fun x => apart x && extra.all fun f => !rangesMeet x (f, 4096)) &&
          c.extra.all fun f => apart (f, 4096) && (c.tenant == b.tenant || !extra.contains f))

/-- Loads the image of a job and makes its tables: the pages of the image, and the place after the last table. -/
def State.loadImage (s : State) (r : Nat → Byte) (l : List Sec) (p : LaunchPlan) : State × List (Nat × Nat × BitVec 4) × Nat :=
  let x := (l.filter fun k => k.type ≤ 3).foldl
    (fun x k =>
      let y := State.loadPool r k x.1 x.2.2
      (y.1, x.2.1 ++ y.2.1, y.2.2)) (s, [], p.frames)
  let y := State.mapPages p.tables (x.2.1 ++ p.extra) (x.1.clearTable p.tables, p.tables + 512)
  (y.1, x.2.1, y.2)

/-- The memory of a launch is set up in `t`, over pages, with its tables below `n`: the job is placed, its registers, images and
units are loaded, and thread 0 runs everywhere from cycle S. -/
def State.placeJob (s t : State) (j sw : Nat) (p : LaunchPlan) (d : Desc) (code : Sec) (ps : List (Nat × Nat × BitVec 4)) (n : Nat) : State :=
  let r := s.fileAt (s.job j).image.toNat
  let l := readSecs r
  let at_ := s.cyc + p.start
  let s := t.modJob j fun b =>
    { b with st := .running, root := w64 p.tables, cbase := w64 code.addr, start := at_, cast := castTable b.cast0
             backing := (p.tables, n - p.tables) :: ps.map (fun x => (x.2.1, 4096)), extra := p.extra.map fun x => x.2.1 }
  let b := s.job j
  let line := lineBase b.cbase b.entry
  let cores := List.range (b.w * b.h)
  let s := (List.range b.cluN).foldl (fun s c =>
    { s with pclus := s.pclus.set (b.pclFor sw c) { map := b.launchMap sw } }) s
  let s := (cores.foldl (fun s n =>
    s.loadCore r l j n (Machine.pcOf (b.pclFor sw (b.cluOf n)) (b.memOf n))) s).openRoutes j
  let pc0 := Machine.pcOf sw 0
  let two := [line, line + 48].map fun a => s.lineFrom pc0 j a
  let s := (List.range b.cluN).foldl (fun s c =>
    s.modPClu (b.pclFor sw c) fun q => { q with cache := two.foldl (fun m x => if x.full then m.set x.addr.toNat x.bytes else m) [] }) s
  let s := (List.range b.cluN).foldl (fun s c => s.launchUnits r l d j c) s
  let tvec := ((jtrapOf r).map Prod.snd).getD 0
  let s := cores.foldl (fun s n =>
    (List.range b.t).foldl (fun s m => if m = 0 then s else s.setHandlers ⟨j, n, m⟩ tvec p.svec) (s.launchThread ⟨j, n, 0⟩ at_ tvec p.svec two)) s
  ({ s with dev := { s.dev with lastTenant := s.dev.lastTenant.set b.pri b.tenant } } : State).atCycle ((at_ / 1024 + 1) * 1024) (.hangSample j)

/-- Launches a posted job at a placement, if the choices of the stage manager serve. -/
def State.launch (s : State) (j sw : Nat) (p : LaunchPlan) : Option State :=
  let r := s.fileAt (s.job j).image.toNat
  let l := readSecs r
  (descIn r).bind fun d => (l.find? fun x => x.type == 1).bind fun code =>
    let x := s.loadImage r l p
    if s.planOk j p x.2.1 x.2.2 then some (s.placeJob x.1 j sw p d code x.2.1 x.2.2) else none

/-- JOB_LAUNCH: the job that is first in the order of placing and fits is placed and loaded; its thread 0 everywhere runs
from cycle S on. Choices that do not serve are made anew. -/
def execJobLaunch (job : Nat) (p : LaunchPlan) (s : State) : Host.Outcome State Fault Refusal :=
  match s.firstFit s.queueOrder with
  | some (id, sw) =>
    if id = job then
      match s.launch job sw p with
      | some t => .next t.considerLaunch
      | none => .next (s.drawn.later (1 + Config.managerDelay s.seq) (.jobLaunch job (Config.launchPlan s.seq)))
    else .next s.considerLaunch
  | none => .next s

/-! ### Spatial pre-emption (R30, R111) -/

/-- The priority of the job that a physical cluster belongs to is below another. -/
def State.lowerAt (s : State) (p pri : Nat) : Bool := (s.jobs.get? (s.jobAt p)).isSome && decide ((s.job (s.jobAt p)).pri < pri)

end Sys2Proof.Machine

/-- The action empties a cluster. -/
def Sys2Proof.PreStep.vacates : Sys2Proof.PreStep → Bool
  | .vacate _ _ => true
  | _ => false

namespace Sys2Proof.Machine

/-- The handle of no thread: nobody waits for an action that the stage manager takes itself. -/
def noHandle : HRef := ⟨⟨0, 0, 0⟩, 0, 0⟩

/-- One action of a pre-emption for a job of a priority, under the checks of the instructions that it would take. -/
def State.preempt (s : State) (pri : Nat) : PreStep → State
  | .vacate p base =>
    if decide (p < Config.clusters) && s.lowerAt p pri then
      (s.emptyOut p).drawn.later (Config.managerDelay s.seq) (.vacateResolve noHandle p (base &&& 0x000FFFFFFFFF0000))
    else s
  | .map p i e =>
    if decide (Config.clusters ≤ p) || !s.lowerAt p pri || badMap (s.pcore (Machine.pcOf p 0)).jshape e then s
    else s.modPClu p fun q => { q with map := q.map.set (i % 256) e }
  | .assign p j =>
    if decide (p < Config.clusters) && s.vacant p && (s.job j).st == .running then
      ((List.range 8).foldl (fun s m => s.assignCore j (Machine.pcOf p m)) s).openRoutes j
    else s
  | .resume c q base =>
    if decide (q < Config.clusters) && decide (c < 256) && (s.badResume c q).isNone then
      s.drawn.later (Config.managerDelay s.seq) (.resumeResolve noHandle c q (base &&& 0x000FFFFFFFFF0000))
    else s

/-- WAITLIM_EXPIRY: a ready job past its limit that does not fit lets none of lower rank pass, and the stage manager pre-empts,
one action after another, until the job fits; what it has vacated is resumed once the job has been launched. -/
def execWaitlimExpiry (job : Nat) (s : State) : Host.Outcome State Fault Refusal :=
  let b := s.job job
  let act := Config.preStep s.seq
  let again (s : State) : State := s.drawn.considerLaunch.later (1 + Config.managerDelay s.seq) (.waitlimExpiry job)
  if s.blocking.any fun x => x.1 == job then .next (again (s.preempt b.pri act))
  else if b.st == .posted then .next s.considerLaunch
  else if s.jobs.any fun (i, c) => c.st == .running && s.anyVacated i then .next (again (if act.vacates then s else s.preempt b.pri act))
  else .next s

/-! ### The end of a job (R112, R121, R390) -/

/-- A step of a job, or for it. -/
def State.ofJob (s : State) (j : Nat) (e : Event) : Bool :=
  s.moves j e ||
    match e with
    | .resultLands w _ => w.job == j
    | .sleepExpiry w _ | .syncfRelease w _ | .waitmTimeout w _ | .trecvTimeout w _ => w.job == j
    | .remoteAccess a _ | .feRetry a _ => match s.accs.get? a with | some a => a.own.job == j | none => true
    | .flitArrival f | .flitResend f => f.sender.job == j
    | .recordFrameArrival f | .frameResend f => f.src.job == j
    | .stateTransfer x | .stateResend x => x.src.job == j
    | .hangSample i => i == j
    | _ => false

/-- Takes a job off its clusters: nothing of it is left in flight, its cores hold no job, and TENANT is 0 (R388, R396). -/
def State.clearJob (s : State) (j : Nat) : State :=
  let ps := (s.pclus.map Prod.fst).filter fun p => s.jobAt p == j
  let pcs := ps.flatMap fun p => (List.range 8).map fun m => Machine.pcOf p m
  let mine (i : Nat) : Bool := match s.packets.get? i with | some p => p.own.job == j | none => true
  let router (r : Nat) (q : Router) : Router :=
    { q with
      io := q.io.del j, queue := q.queue.map fun (k, l) => (k, l.filter fun i => !mine i)
      tenant := if pcs.contains r then 0 else q.tenant, member := if pcs.contains r then 0 else q.member }
  let stays (e : Event) : Bool :=
    match e with
    | .packetForward i _ => !mine i
    | e => !s.ofJob j e
  let cluster (p : Nat) (q : PCluster) : PCluster :=
    if ps.contains p then {} else { q with walker := q.walker.filter fun t => t.job != j }
  let s : State := { s with
    agenda := s.agenda.filter fun q => stays q.ev
    packets := s.packets.filter fun (_, p) => p.own.job != j
    accs := s.accs.filter fun (_, a) => a.own.job != j
    walks := s.walks.filter fun (_, k) => k.own.job != j
    transReqs := s.transReqs.filter fun (_, r) => r.own.job != j
    routers := s.routers.map fun (r, q) => (r, router r q)
    pclus := s.pclus.map fun (p, q) => (p, cluster p q) }
  let s := pcs.foldl (fun s pc => s.modPCore pc fun q => { ({} : PCore) with cecnt := q.cecnt, cstat := q.cstat }) s
  s.modJob j fun b =>
    { b with cores := [], clus := [], links := [], cast := [], cues := [], groups := [], bound := [], hangLast := none }

/-- The peers of a job's bindings to some devices are told that they are dropped (R395). -/
def State.tellDrop (s : State) (j : Nat) (p : Nat → Bool) : State :=
  ((s.job j).bound.filter fun x => p x.1).foldl (fun s x => s.peerSend x.1 (.drop x.2)) s

/-- A job ends: its cores are free, its record is written, and the stage manager looks for the next job. -/
def State.finishJob (s : State) (j : Nat) (status cause : BitVec 8) (exitv : Word) : State :=
  let n := s.cyc - (s.job j).start
  let s := ((s.tellDrop j fun _ => true).clearJob j).modJob j fun b => { b with st := .ending, status := status, cause := cause, exitv := exitv }
  (s.report { jobid := j, cstatus := status, ccause := cause, exitv := exitv, cycles := n }).considerLaunch

/-- An operation of an engine of a job, or a completion word, is on its way. -/
def State.opsLeft (s : State) (j : Nat) : Bool :=
  let left (e : Event) : Bool :=
    match e with
    | .engineEnqueue op => op.own.job == j
    | .ddEnqueue e => e.w.job == j
    | .ddResolve i _ _ _ _ => i == j
    | .pcfgApply w _ _ => w.job == j
    | .handleCompletion h _ _ => h.own.job == j
    | .redCombine i _ _ _ _ _ | .redBroadcast i _ _ _ _ | .redResolve i _ _ _ => i == j
    | _ => false
  (s.job j).working || (s.job j).links.any (fun (_, l) => !l.prods.isEmpty) || s.agenda.any (fun q => left q.ev) ||
    s.packets.any fun (_, p) => left p.payload

/-- An access of a job is still on its way to its home or back. -/
def State.accessesLeft (s : State) (j : Nat) : Bool := s.accs.any fun (i, a) => a.own.job == j && !s.feWaiting j i

/-- JOB_COMPLETION: the end of a job whose control threads have all exited and whose operations have all resolved, or of
one that was terminated. It looks again while accesses of its threads are on their way. -/
def execJobCompletion (job : Nat) (s : State) : Host.Outcome State Fault Refusal :=
  let b := s.job job
  match b.st with
  | .ending => .next (if b.cores.isEmpty then s else s.finishJob job b.status b.cause 0)
  | .running =>
    if !b.controlsDone || !(s.liveThreads job).isEmpty || s.opsLeft job then .next s
    else if s.accessesLeft job then .next (s.later 1 (.jobCompletion job))
    else .next (s.finishJob job 0 0 b.exitv)
  | _ => .next s

/-- Resolves every handle of a thread ABORTED (R289, R306, R332, R366). -/
def State.abortHandles (s : State) (w : Tid) : State :=
  (s.thread w).handles.foldl (fun s (i, e) =>
    match e.kind with
    | .start | .value | .send | .product _ _ => s
    | _ => if e.word.isSome then s else s.completeHandle ⟨w, i, e.seq⟩ (cword 9 0) 0) s

/-- Products of a job resolve with their slot, tag and K-steps, and arrivals that have not paired (R289). -/
def State.abortProducts (s : State) (j : Nat) : State :=
  (s.job j).links.foldl (fun s (k, l) =>
    l.queue.foldl (fun s x => s.completeHandle x.h (cword 9 0) 0) (l.prods.foldl (fun s p => s.resolveBoth j k p 9 9 p.promoted) s)) s

/-- JOB_TERMINATION: the threads stop, everything pending resolves ABORTED, and the record follows. -/
def execJobTermination (job : Nat) (status cause : BitVec 8) (s : State) : Host.Outcome State Fault Refusal :=
  if (s.job job).st != .running then .next s
  else
    let s := s.modJob job fun b => { b with st := .ending, status := status, cause := cause }
    let s := s.abortProducts job
    let s := (s.threadsOf job).foldl (fun s (w, _) => s.abortHandles w) s
    let s := s.modJob job fun b =>
      { b with
        links := [], groups := b.groups.map fun (i, g) => (i, { g with ops := [], out := [] })
        clus := b.clus.map fun (i, c) =>
          (i, { c with copyQ := [], gathQ := [], prm := { c.prm with queue := [] }, dde := { c.dde with queue := [], active := none } }) }
    .next (s.later 9 (.jobCompletion job))

end Sys2Proof.Machine
end

