-- ==== Sys2Proof/Machine/Outside.lean ====
section
/-!
DEFINITION. The device beyond its cores (R388, R391, R394, R395, R397, R398): management registers, bindings, peer flits,
boot, measurement and attestation, the governor and the thermal trip.
-/

set_option linter.unusedVariables false

namespace Sys2Proof.Machine

/-- Changes the device. -/
def State.modDev (s : State) (f : Device → Device) : State := { s with dev := f s.dev }

/-! ### Boot and measurement (R397) -/

/-- Mi := SHA3-512(Mi ‖ digest). -/
def extend (m data : List Byte) : List Byte := Config.sha3 (m ++ Config.sha3 data)

/-- The host-supplied configuration: window table, route table and DEVID. -/
def Device.configBytes (d : Device) : List Byte :=
  ((List.range 16).flatMap fun i => leBytes 8 (d.win0.getD i 0).toNat ++ leBytes 8 (d.win1.getD i 0).toNat) ++
    ((List.range 16384).map fun i => d.route.getD i 0) ++ leBytes 2 d.devid.toNat

/-- The installed signing keys of every tenant. -/
def keyBytes : List Byte := (List.range 16).flatMap fun i => (Config.tenantKeys (i + 1)).flatten

/-- The firmware image verifies, and its version is not below the rollback counter. -/
def Device.firmwareOk (d : Device) : Bool :=
  Config.mldsaVerify d.fuseKey (Config.sha3 d.fw) d.fwSig && decide (d.rollback ≤ d.fwVersion)

/-- The management cores run the firmware: a thread of each, privileged, at the firmware's code base (R34, R367). DESIGN CHOICE:
log 67. -/
def State.startManagement (s : State) : State :=
  let base := Config.firmwareBase s.dev.fw
  let n := Config.managementCores
  let s := (s.modDev fun d => { d with fwBase := base }).modJob 0 fun _ => { st := .firmware, w := n, h := 1, t := 16 }
  (List.range n).foldl (fun s l => s.modThread ⟨0, l, 0⟩ fun t => s.freshThread ⟨0, l, 0⟩ base 0 1 t) s

/-- BOOT: the ROM verifies the firmware. On failure the device presents PF0 alone, and no management core runs. -/
def execBoot (s : State) : Host.Outcome State Fault Refusal :=
  if s.dev.firmwareOk then
    let s := (s.modDev fun d => { d with booted := true, m0 := extend d.m0 d.fw, m2 := extend d.m2 keyBytes }).startManagement
    .next (s.drawn.later (1024 - s.cyc % 1024) (.governorSample (Config.power s.seq)))
  else .next (s.modDev fun d => { d with bootFail := true })

/-- The first 256 bytes of a report. -/
def Device.reportHead (d : Device) (nonce : List Byte) : List Byte :=
  leBytes 4 0x534B4154 ++ leBytes 4 1 ++ nonce ++ (Config.sha3 d.identity).take 16 ++ d.m0 ++ d.m1 ++ d.m2 ++
    Config.fuseState d.rollback

/-- ATTESTATION_REPORT: the report, signed by the identity key over the digest of its first 256 bytes. -/
def execAttestationReport (nonce : List Byte) (s : State) : Host.Outcome State Fault Refusal :=
  let h := s.dev.reportHead nonce
  .next (s.modDev fun d => { d with report := h ++ Config.mldsaSign (Config.sha3 h) })

/-! ### Power (R398) -/

/-- The ceiling: the fused one, or a lower cap. -/
def Device.ceiling (d : Device) : Nat := min Config.powerCeiling d.pcap.toNat

/-- Steps of 25 MHz from 1,300 MHz down to 325 MHz. -/
def clockSteps : Nat := 39

/-- The governor's answer to a measurement. -/
def Device.govern (d : Device) (watts : Nat) : Device :=
  if d.ceiling < watts then { d with steps := min clockSteps (d.steps + 1), low := 0 }
  else if watts * 100 < d.ceiling * 95 then
    if d.low + 1 = 16 then { d with steps := d.steps - 1, low := 0 } else { d with low := d.low + 1 }
  else { d with low := 0 }

/-- GOVERNOR_SAMPLE. -/
def execGovernorSample (watts : Nat) (s : State) : Host.Outcome State Fault Refusal :=
  let s := s.modDev fun d => d.govern watts
  .next (s.drawn.later 1024 (.governorSample (Config.power s.seq)))

/-- THERMAL_TRIP: every core halts, and every running job ends with status 5. -/
def execThermalTrip (s : State) : Host.Outcome State Fault Refusal :=
  let js := (s.jobs.filter fun (_, b) => b.st == .running).map Prod.fst
  let s := js.foldl (fun s j => ((s.threadsOf j).foldl (fun s (w, _) => s.holdThread w) s).endJob j 5 0) s
  .next ((List.range Config.cores).foldl (fun s pc => s.modPCore pc fun q => { q with cstat := q.cstat ||| 4 }) s)

/-! ### Management registers (R388, R391, R392) -/

/-- A write of PEEREN: once any bit is set, DEVID and the route table are read-only until reset. -/
def State.enablePeers (s : State) (v : Word) : State :=
  s.modDev fun d => { d with peeren := v.truncate 16, fixed := d.fixed || bitsOf v 0 16 != 0 }

/-- PEEREN. -/
def execPeeren (v : Word) (s : State) : Host.Outcome State Fault Refusal := .next (s.enablePeers v)

/-- A write of configuration is measured into M1. -/
def Device.measured (d : Device) : Device := { d with m1 := extend d.m1 d.configBytes }

/-- LOCK of a window. -/
def Device.windowLocked (d : Device) (w : Nat) : Bool := (d.win0.getD w 0).getLsbD 31

/-- A PF0 register that has no row of its own. -/
def Device.pf0Write (d : Device) (off : Nat) (v : Word) : Device :=
  if off = 0x08 then (if d.fixed then d else { d with devid := v.truncate 14 }.measured)
  else if off = 0x18 then { d with pcap := v.truncate 16 }
  else if 0x20 ≤ off && off < 0x40 && off % 8 = 0 then { d with waitlim := d.waitlim.set ((off - 0x20) / 8) (w64 (bitsOf v 0 48)) }
  else if 0x100 ≤ off && off < 0x200 && off % 8 = 0 then
    let w := (off - 0x100) / 16
    if d.windowLocked w then d
    else if off % 16 = 0 then { d with win0 := d.win0.set w (v &&& 0x000FFFFFDFC00000) }.measured
    else { d with win1 := d.win1.set w (v &&& 0x3FFFFF) }.measured
  else if off = 0x200 then { d with bljob := v }
  else if off = 0x208 then { d with bpdev := w64 (bitsOf v 0 14) }
  else if off = 0x210 then { d with bpjob := v }
  else if 0x4000 ≤ off && off < 0x8000 then
    if d.fixed then d else { d with route := d.route.set (off - 0x4000) (v.truncate 8 &&& 0x8F) }.measured
  else d

/-- A PF0 register as the host reads it (R391); BCMD is written only. -/
def Device.pf0Read (d : Device) (off : Nat) : Word :=
  if off = 0x00 then w64 (d.bootFail.toNat + (d.peeren != 0).toNat * 16)
  else if off = 0x08 then d.devid.zeroExtend 64
  else if off = 0x10 then d.peeren.zeroExtend 64
  else if off = 0x18 then d.pcap.zeroExtend 64
  else if 0x20 ≤ off && off < 0x40 && off % 8 = 0 then d.waitlim.getD ((off - 0x20) / 8) 0
  else if 0x100 ≤ off && off < 0x200 && off % 8 = 0 then
    (if off % 16 = 0 then d.win0 else d.win1).getD ((off - 0x100) / 16) 0
  else if off = 0x200 then d.bljob
  else if off = 0x208 then d.bpdev
  else if off = 0x210 then d.bpjob
  else if off = 0x218 then Config.writeOnlyRead off
  else if off = 0x220 then d.bstat
  else if 0x4000 ≤ off && off < 0x8000 then (d.route.getD (off - 0x4000) 0).zeroExtend 64
  else 0

/-- A VF register as the host reads it (R388); LQTAIL is written only. -/
def Vf.read (f : Vf) (off : Nat) : Word :=
  match off with
  | 0x00 => f.lqbase
  | 0x08 => f.lqsize
  | 0x10 => Config.writeOnlyRead off
  | 0x18 => f.cqbase
  | 0x20 => f.cqsize
  | 0x28 => f.cqhead
  | 0x30 => w64 f.nextid
  | _ => 0

/-- A VF register that has no row of its own. -/
def Vf.write (f : Vf) (off : Nat) (v : Word) : Vf :=
  match off with
  | 0x00 => { f with lqbase := v &&& ~~~63 }
  | 0x08 => { f with lqsize := v }
  | 0x18 => { f with cqbase := v &&& ~~~31 }
  | 0x20 => { f with cqsize := v }
  | 0x28 => { f with cqhead := v }
  | _ => f

/-! ### Bindings (R391, R395) -/

/-- A route to a device is valid. -/
def Device.routed (d : Device) (dev : Nat) : Bool := (d.route.getD dev 0).getLsbD 7

/-- The reason for which a bind command is refused at once, if any. -/
def State.bindFault (s : State) (lj dev : Nat) : Option Nat :=
  let st := (s.job lj).st
  if (s.jobs.get? lj).isNone || st == .ended || st == .ending then some 1
  else if !s.dev.routed dev then some 3
  else if (s.job lj).bound.any fun x => x.1 == dev then some 4
  else none

/-- A bind command as the three registers now give it: it waits, with its news on the way to the peer, or is refused. A command
that waited is replaced. -/
def State.bindCommand (s : State) : State :=
  let d := s.dev
  let lj := d.bljob.toNat
  let dev := d.bpdev.toNat
  match s.bindFault lj dev with
  | some r => s.modDev fun d => { d with bstat := w64 (3 + r * 256), bindCmd := none }
  | none =>
    (s.modDev fun x => { x with bstat := 1, bindCmd := some (lj, dev, d.bpjob.toNat) }).peerSend dev
      (.bind lj d.bpjob.toNat (s.job lj).tenant)

/-- BCMD_BIND. -/
def execBcmdBind (s : State) : Host.Outcome State Fault Refusal := .next s.bindCommand

/-- PEER_BIND_MATCH: the peer's command meets the one that waits. -/
def execPeerBindMatch (dev peerJob localJob tenant : Nat) (s : State) : Host.Outcome State Fault Refusal :=
  if s.dev.bindCmd != some (localJob, dev, peerJob) then .next s
  else
    let done (x : Word) : State := s.modDev fun d => { d with bstat := x, bindCmd := none }
    match s.bindFault localJob dev with
    | some r => .next (done (w64 (3 + r * 256)))
    | none =>
      if (s.job localJob).tenant != tenant then .next (done (w64 (3 + 2 * 256)))
      else .next ((done 2).modJob localJob fun b => { b with bound := b.bound ++ [(dev, peerJob)] })

/-- The contributions of a job's reductions that span a device. -/
def Job.spanning (b : Job) (dev : Nat) : List RedCon :=
  (b.groups.filter fun (_, g) => g.devs.contains dev).flatMap fun (_, g) => g.ops.flatMap fun (_, o) =>
    (o.cons.filter fun (i, _) => !o.resolved.contains i).map Prod.snd

/-- A binding is dropped: reductions that span it resolve ABORTED, and flits to the device are dead from now on (R395,
R366). -/
def State.dropBinding (s : State) (lj dev : Nat) : State :=
  if !((s.job lj).bound.any fun x => x.1 == dev) then s
  else
    let cs := (s.job lj).spanning dev
    let s := cs.foldl (fun s c => s.resolve 0 c.h (cword 9 0) 0) s
    s.modJob lj fun b =>
      { b with
        bound := b.bound.filter fun x => x.1 != dev
        groups := b.groups.map fun (i, g) => (i, if g.devs.contains dev then { g with ops := [] } else g) }

/-- An unbind command: the binding is dropped at once, with news of it to the peer; a command that waits is dropped too. -/
def State.unbindCommand (s : State) : State :=
  let d := s.dev
  let s := (s.tellDrop d.bljob.toNat fun x => x == d.bpdev.toNat).dropBinding d.bljob.toNat d.bpdev.toNat
  s.modDev fun d => { d with bstat := 0, bindCmd := none }

/-- BCMD_UNBIND. -/
def execBcmdUnbind (s : State) : Host.Outcome State Fault Refusal := .next s.unbindCommand

/-- PEER_BINDING_DROP. -/
def execPeerBindingDrop (dev localJob : Nat) (s : State) : Host.Outcome State Fault Refusal :=
  .next (s.dropBinding localJob dev)

/-- A flit of this device as it leaves: it names its device and its job (R220, R395). -/
def State.outward (s : State) (f : Flit) : PeerMsg :=
  .flit f.sender.job { f with src := f.src ||| w64 (2 ^ 50 + s.dev.devid.toNat * 2 ^ 36), peerJob := f.sender.job }

/-- PEER_FORWARD: a flit leaves by the route of its device. One of this device needs the binding of its job; one that passes
through needs none, and is delivered when this is its device. Without a valid route, or without the binding, it is dead
(R394, R395). -/
def execPeerForward (f : Flit) (s : State) : Host.Outcome State Fault Refusal :=
  let dev := dstDev f.dst
  if f.foreign then
    if dev = s.dev.devid.toNat then .next (s.later 0 (.flitArrival f))
    else if (s.dev.linkTo dev).isSome then .next (s.peerSend dev (.flit f.peerJob f))
    else .next (s.flitAck f true)
  else if (s.dev.linkTo dev).isSome && (s.job f.sender.job).bound.any (fun x => x.1 == dev) then
    .next (s.peerSend dev (s.outward f))
  else .next (s.later 0 (.sendAck f true))

/-! ### Writes of registers -/

/-- PF0_REG_WRITE: a register of a function. After a boot that failed the device presents PF0 alone (R397). -/
def execPf0RegWrite (fn off : Nat) (v : Word) (s : State) : Host.Outcome State Fault Refusal :=
  if fn = 0 then
    if off = 0x10 then .next (s.enablePeers v)
    else if off = 0x218 then .next (if v = 1 then s.bindCommand else if v = 2 then s.unbindCommand else s)
    else
      let s := s.modDev fun d => d.pf0Write off v
      .next (if 0x20 ≤ off && off < 0x40 && off % 8 = 0 then (s.limitWritten ((off - 0x20) / 8)).considerLaunch else s)
  else if 16 < fn || s.dev.bootFail then .next s
  else if off = 0x10 then .next (s.later 0 (.lqtail fn v))
  else .next (s.modVf fn fun f => f.write off v).writeRecords.considerLaunch

end Sys2Proof.Machine
end

