-- ==== Sys2Proof/Machine/Vector.lean ====
section
/-!
DEFINITION. The meanings of classes 0x4 and 0x5, vectors (R144 to R147, R159 to R178), and the steps of the
transcendental units (R14, R173, R174).
-/

set_option linter.unusedVariables false

namespace Sys2Proof.Machine

/-! ### Lane-wise results -/

/-- A vector result under a write mask: lane i is `f i`, and the written lanes' flags are ORed (R161, R162). -/
def State.lanes (s : State) (lat : Nat) (d : VReg) (m : Mask) (f : Fin 64 → Lane × FlagBits) : State :=
  let r := Vector.ofFn f
  let fl := (List.finRange 64).foldl (fun (x : FlagBits) (i : Fin 64) => if m.getLsbD i then x ||| r[i].2 else x) 0
  (s.land s.cur lat [.v d (Vec.ofFn fun i => r[i].1) m] fl).advance s.cur

/-- A vector result whose every written lane is flag-free. -/
def State.lanes0 (s : State) (lat : Nat) (d : VReg) (m : Mask) (f : Fin 64 → Lane) : State :=
  s.lanes lat d m fun i => (f i, 0)

/-- A pattern in a lane. -/
def lane (r : Nat × FlagBits) : Lane × FlagBits := (BitVec.ofNat 32 r.1, r.2)

/-- The operations of R165. -/
inductive LaneOp where
  | add | sub | mul | fma | fms | min | max
deriving DecidableEq, Repr

/-- One lane of R165: a, b and the old d. -/
def laneOp (op : LaneOp) (t : Ty) (rm : Rm) (sat : Bool) (a b d : Lane) : Lane × FlagBits :=
  if t = .f32 then
    lane <| match op with
      | .add => fAdd .f32 rm a.toNat b.toNat
      | .sub => fSub .f32 rm a.toNat b.toNat
      | .mul => fMul .f32 rm a.toNat b.toNat
      | .fma => fFma .f32 rm a.toNat b.toNat d.toNat
      | .fms => fFms .f32 rm a.toNat b.toNat d.toNat
      | .min => fMinMax .f32 false a.toNat b.toNat
      | .max => fMinMax .f32 true a.toNat b.toNat
  else
    let x := t.intValue a.toNat
    let y := t.intValue b.toNat
    let z := t.intValue d.toNat
    lane <| t.intResult sat <| match op with
      | .add => x + y
      | .sub => x - y
      | .mul => x * y
      | .fma => x * y + z
      | .fms => x * y - z
      | .min => if x ≤ y then x else y
      | .max => if x ≤ y then y else x

/-- A lane operation of two vector operands. -/
def State.vop (s : State) (lat : Nat) (op : LaneOp) (t : Ty) (rm : Rm) (sat : Bool) (km : KReg) (d a : VReg) (b : Vec) : State :=
  let x := s.rdV s.cur a
  let z := s.rdV s.cur d
  s.lanes lat d (s.rdK s.cur km) fun i => laneOp op t rm sat x[i] b[i] z[i]

/-- `vadd`. -/
def execVadd (g : Gd) (t : Ty) (rm : Rm) (sat : Bool) (km : BitVec 3) (d a : VReg) (b : VSrc) (s : State) :
    Host.Outcome State Fault Refusal := s.guarded g fun s => s.vop 8 .add t rm sat km d a (s.vsrc s.cur b)

/-- `vsub`. -/
def execVsub (g : Gd) (t : Ty) (rm : Rm) (sat : Bool) (km : BitVec 3) (d a : VReg) (b : VSrc) (s : State) :
    Host.Outcome State Fault Refusal := s.guarded g fun s => s.vop 8 .sub t rm sat km d a (s.vsrc s.cur b)

/-- `vmul`. -/
def execVmul (g : Gd) (t : Ty) (rm : Rm) (sat : Bool) (km : BitVec 3) (d a : VReg) (b : VSrc) (s : State) :
    Host.Outcome State Fault Refusal := s.guarded g fun s => s.vop 12 .mul t rm sat km d a (s.vsrc s.cur b)

/-- `vfma`. -/
def execVfma (g : Gd) (t : Ty) (rm : Rm) (sat : Bool) (km : BitVec 3) (d a : VReg) (b : VSrc) (s : State) :
    Host.Outcome State Fault Refusal := s.guarded g fun s => s.vop 12 .fma t rm sat km d a (s.vsrc s.cur b)

/-- `vfms`. -/
def execVfms (g : Gd) (t : Ty) (rm : Rm) (sat : Bool) (km : BitVec 3) (d a : VReg) (b : VSrc) (s : State) :
    Host.Outcome State Fault Refusal := s.guarded g fun s => s.vop 12 .fms t rm sat km d a (s.vsrc s.cur b)

/-- `vmin`. -/
def execVmin (g : Gd) (t : Ty) (km : BitVec 3) (d a : VReg) (b : VSrc) (s : State) : Host.Outcome State Fault Refusal :=
  s.guarded g fun s => s.vop 8 .min t .rne false km d a (s.vsrc s.cur b)

/-- `vmax`. -/
def execVmax (g : Gd) (t : Ty) (km : BitVec 3) (d a : VReg) (b : VSrc) (s : State) : Host.Outcome State Fault Refusal :=
  s.guarded g fun s => s.vop 8 .max t .rne false km d a (s.vsrc s.cur b)

/-- `vfmas` (R166): B is one scalar for every lane. -/
def execVfmas (g : Gd) (t : Ty) (rm : Rm) (sat : Bool) (km : BitVec 3) (d a : VReg) (b : Src) (s : State) :
    Host.Outcome State Fault Refusal :=
  s.guarded g fun s => s.vop 12 .fma t rm sat km d a (Vec.splat ((s.src s.cur b).truncate 32))

/-- `vscal` (R166). -/
def execVscal (g : Gd) (t : Ty) (rm : Rm) (sat : Bool) (km : BitVec 3) (d a : VReg) (b : Src) (s : State) :
    Host.Outcome State Fault Refusal :=
  s.guarded g fun s => s.vop 12 .mul t rm sat km d a (Vec.splat ((s.src s.cur b).truncate 32))

/-- A lane operation of one vector operand. -/
def State.vop1 (s : State) (lat : Nat) (km : KReg) (d a : VReg) (f : Lane → Lane × FlagBits) : State :=
  let x := s.rdV s.cur a
  s.lanes lat d (s.rdK s.cur km) fun i => f x[i]

/-- Sign operations of R167: a NaN gives the canonical NaN. -/
def signOp (t : Ty) (sat neg : Bool) (a : Lane) : Lane × FlagBits :=
  if t = .f32 then
    match Ty.f32.value a.toNat with
    | .nan g => (BitVec.ofNat 32 Ty.f32.canonNan, flagIf g fIV)
    | _ => (if neg then a ^^^ 0x80000000 else a &&& 0x7FFFFFFF, 0)
  else
    let x := t.intValue a.toNat
    lane (t.intResult sat (if neg then -x else if x < 0 then -x else x))

/-- `vabs` (R167). -/
def execVabs (g : Gd) (t : Ty) (sat : Bool) (km : BitVec 3) (d a : VReg) (s : State) :
    Host.Outcome State Fault Refusal := s.guarded g fun s => s.vop1 8 km d a (signOp t sat false)

/-- `vneg` (R167). -/
def execVneg (g : Gd) (t : Ty) (sat : Bool) (km : BitVec 3) (d a : VReg) (s : State) :
    Host.Outcome State Fault Refusal := s.guarded g fun s => s.vop1 8 km d a (signOp t sat true)

/-- A bit operation on lanes (R168). -/
def State.vbit (s : State) (km : KReg) (d a : VReg) (b : VSrc) (f : Lane → Lane → Lane) : State :=
  let x := s.rdV s.cur a
  let y := s.vsrc s.cur b
  s.lanes0 8 d (s.rdK s.cur km) fun i => f x[i] y[i]

/-- `vand`. -/
def execVand (g : Gd) (km : BitVec 3) (d a : VReg) (b : VSrc) (s : State) : Host.Outcome State Fault Refusal :=
  s.guarded g fun s => s.vbit km d a b (· &&& ·)

/-- `vor`. -/
def execVor (g : Gd) (km : BitVec 3) (d a : VReg) (b : VSrc) (s : State) : Host.Outcome State Fault Refusal :=
  s.guarded g fun s => s.vbit km d a b (· ||| ·)

/-- `vxor`. -/
def execVxor (g : Gd) (km : BitVec 3) (d a : VReg) (b : VSrc) (s : State) : Host.Outcome State Fault Refusal :=
  s.guarded g fun s => s.vbit km d a b (· ^^^ ·)

/-- `vshl`. -/
def execVshl (g : Gd) (km : BitVec 3) (d a : VReg) (b : VSrc) (s : State) : Host.Outcome State Fault Refusal :=
  s.guarded g fun s => s.vbit km d a b shlOp

/-- `vshr`. -/
def execVshr (g : Gd) (km : BitVec 3) (d a : VReg) (b : VSrc) (s : State) : Host.Outcome State Fault Refusal :=
  s.guarded g fun s => s.vbit km d a b shrOp

/-- `vsar`. -/
def execVsar (g : Gd) (km : BitVec 3) (d a : VReg) (b : VSrc) (s : State) : Host.Outcome State Fault Refusal :=
  s.guarded g fun s => s.vbit km d a b sarOp

/-- `vpopc`. -/
def execVpopc (g : Gd) (km : BitVec 3) (d a : VReg) (s : State) : Host.Outcome State Fault Refusal :=
  s.guarded g fun s => s.vop1 8 km d a fun x => (BitVec.ofNat 32 (popOp x), 0)

/-- One lane of `vdot4` (R169). -/
def dot4 (t : Ty) (sat : Bool) (a b d : Lane) : Lane × FlagBits :=
  let byte (x : Lane) (j : Nat) : Int := t.intValue (x.toNat / 256 ^ j)
  let acc : Ty := if t.signed then .i32 else .n32
  lane (acc.intResult sat (acc.intValue d.toNat + byte a 0 * byte b 0 + byte a 1 * byte b 1 + byte a 2 * byte b 2 +
    byte a 3 * byte b 3))

/-- `vdot4`. -/
def execVdot4 (g : Gd) (t : Ty) (sat : Bool) (km : BitVec 3) (d a : VReg) (b : VSrc) (s : State) :
    Host.Outcome State Fault Refusal :=
  s.guarded g fun s =>
    let x := s.rdV s.cur a
    let y := s.vsrc s.cur b
    let z := s.rdV s.cur d
    s.lanes 12 d (s.rdK s.cur km) fun i => dot4 t sat x[i] y[i] z[i]

/-! ### Lane conversions (R144 to R147) -/

/-- `vcvt` (R145). -/
def execVcvt (g : Gd) (t : Ty) (rm : Rm) (sat : Bool) (src : Ty) (d a : VReg) (s : State) :
    Host.Outcome State Fault Refusal :=
  s.guarded g fun s => s.vop1 8 0 d a fun x =>
    let (v, f) := conv t src rm sat (src.ofLane x)
    (t.extendLane v, f)

/-- Element e of the 128 source elements of `vpack`, converted (R146). -/
def packElem (t : Ty) (rm : Rm) (sat : Bool) (a b : Vec) (e : Nat) : Nat × FlagBits :=
  let x := if h : e < 64 then a[e] else b[e % 64]
  conv t (packSrc t) rm sat x.toNat

/-- `vpack` (R146). -/
def execVpack (g : Gd) (t : Ty) (rm : Rm) (sat : Bool) (d a b : VReg) (s : State) : Host.Outcome State Fault Refusal :=
  s.guarded g fun s =>
    let x := s.rdV s.cur a
    let y := s.rdV s.cur b
    let n := 4 / t.bytes
    s.lanes 8 d (BitVec.allOnes 64) fun i =>
      if n * i.val < 128 then
        (List.range n).foldl (fun (r : Lane × FlagBits) k =>
          let (v, f) := packElem t rm sat x y (n * i.val + k)
          (r.1 ||| (BitVec.ofNat 32 v <<< (8 * t.bytes * k)), r.2 ||| f)) (0, 0)
      else (0, 0)

/-- `vunpk` (R147). -/
def execVunpk (g : Gd) (t : Ty) (part : BitVec 2) (d a : VReg) (s : State) : Host.Outcome State Fault Refusal :=
  s.guarded g fun s =>
    let x := s.rdV s.cur a
    let n := 4 / t.bytes
    s.lanes 8 d (BitVec.allOnes 64) fun i =>
      let e := 64 * part.toNat + i.val
      let bits := (x[e / n % 64]'(Nat.mod_lt _ (by decide))).toNat / 2 ^ (8 * t.bytes * (e % n)) % 2 ^ (8 * t.bytes)
      let (v, f) := conv (packSrc t) t .rne false bits
      (BitVec.ofNat 32 v, f)

/-! ### Comparisons and reductions (R170, R171) -/

/-- An integer condition of `vcmp`. -/
def FCond.int (c : FCond) (x y : Int) : Bool :=
  match c with
  | .eq => x == y | .ne => x != y | .lt => decide (x < y) | .le => decide (x ≤ y) | .gt => decide (y < x)
  | .ge => decide (y ≤ x) | .un => false | .ord => true

/-- One lane of `vcmp`. -/
def laneCmp (t : Ty) (c : FCond) (a b : Lane) : Bool × FlagBits :=
  if t = .f32 then fCmp .f32 c a.toNat b.toNat else (FCond.int c (t.intValue a.toNat) (t.intValue b.toNat), 0)

/-- `vcmp`. -/
def execVcmp (g : Gd) (t : Ty) (km : BitVec 3) (cnd : FCond) (d : KReg) (a : VReg) (b : VSrc) (s : State) :
    Host.Outcome State Fault Refusal :=
  s.guarded g fun s =>
    let x := s.rdV s.cur a
    let y := s.vsrc s.cur b
    let m := s.rdK s.cur km
    let r := (List.finRange 64).foldl (fun (r : Mask × FlagBits) (i : Fin 64) =>
      if m.getLsbD i then
        let (c, f) := laneCmp t cnd x[i] y[i]
        (if c then r.1 ||| (1#64 <<< i.val) else r.1, r.2 ||| f)
      else r) (0, 0)
    (s.land s.cur 8 [.k d r.1] r.2).advance s.cur

/-- One level of the tree of R171. -/
def treeLevel {α : Type} (op : α → α → α) : List (Option α) → List (Option α)
  | some l :: some r :: t => some (op l r) :: treeLevel op t
  | some l :: none :: t => some l :: treeLevel op t
  | none :: r :: t => r :: treeLevel op t
  | l => l

/-- The root of the tree over 64 nodes. -/
def tree {α : Type} (op : α → α → α) (l : List (Option α)) : Option α :=
  (Nat.repeat (treeLevel op) 6 l).headD none

/-- The lanes that take part. -/
def active {α : Type} (x : Vec) (m : Mask) (f : Lane → α) : List (Option α) :=
  (List.finRange 64).map fun (i : Fin 64) => if m.getLsbD i then some (f x[i]) else none

/-- `vsum` over lanes (R171). -/
def sumLanes (t : Ty) (rm : Rm) (sat : Bool) (x : Vec) (m : Mask) : Nat × FlagBits :=
  if t = .f32 then
    (tree (fun (l r : Nat × FlagBits) => let (v, f) := fAdd .f32 rm l.1 r.1; (v, l.2 ||| r.2 ||| f))
      (active x m fun a => (a.toNat, 0))).getD (0, 0)
  else t.intResult sat ((tree (· + ·) (active x m fun a => t.intValue a.toNat)).getD 0)

/-- `vmaxr` over lanes (R171). -/
def maxLanes (t : Ty) (x : Vec) (m : Mask) : Nat × FlagBits :=
  if t = .f32 then
    (tree (fun (l r : Nat × FlagBits) => let (v, f) := fMinMax .f32 true l.1 r.1; (v, l.2 ||| r.2 ||| f))
      (active x m fun a => (a.toNat, 0))).getD (Ty.f32.canonNan, 0)
  else
    match tree (fun (l r : Int) => if l ≤ r then r else l) (active x m fun a => t.intValue a.toNat) with
    | some v => (intBits 32 v, 0)
    | none => (intBits 32 t.intMin, 0)

/-- `vsum`. -/
def execVsum (g : Gd) (t : Ty) (rm : Rm) (sat : Bool) (km : BitVec 3) (d : SReg) (a : VReg) (s : State) :
    Host.Outcome State Fault Refusal :=
  s.guarded g fun s =>
    let (v, f) := sumLanes t rm sat (s.rdV s.cur a) (s.rdK s.cur km)
    (s.land s.cur 16 [.s d (t.extend v)] f).advance s.cur

/-- `vmaxr`. -/
def execVmaxr (g : Gd) (t : Ty) (km : BitVec 3) (d : SReg) (a : VReg) (s : State) : Host.Outcome State Fault Refusal :=
  s.guarded g fun s =>
    let (v, f) := maxLanes t (s.rdV s.cur a) (s.rdK s.cur km)
    (s.land s.cur 16 [.s d (t.extend v)] f).advance s.cur

/-! ### Moving lanes (R175 to R177) -/

/-- `vsel`. -/
def execVsel (g : Gd) (km : BitVec 3) (d a b : VReg) (s : State) : Host.Outcome State Fault Refusal :=
  s.guarded g fun s =>
    let x := s.rdV s.cur a
    let y := s.rdV s.cur b
    let m := s.rdK s.cur km
    s.lanes0 8 d (BitVec.allOnes 64) fun i => if m.getLsbD i then x[i] else y[i]

/-- `vmov`. -/
def execVmov (g : Gd) (km : BitVec 3) (d a : VReg) (s : State) : Host.Outcome State Fault Refusal :=
  s.guarded g fun s =>
    let x := s.rdV s.cur a
    s.lanes0 8 d (s.rdK s.cur km) fun i => x[i]

/-- `vbcast`. -/
def execVbcast (g : Gd) (km : BitVec 3) (d : VReg) (a : SReg) (s : State) : Host.Outcome State Fault Refusal :=
  s.guarded g fun s =>
    let x : Lane := (s.rd s.cur a).truncate 32
    s.lanes0 8 d (s.rdK s.cur km) fun _ => x

/-- A lane of a vector, by a number modulo 64. -/
def Vec.at (x : Vec) (n : Nat) : Lane := x[n % 64]'(Nat.mod_lt _ (by decide))

/-- `vget` (R176). -/
def execVget (g : Gd) (xs : Bool) (d : SReg) (a : VReg) (b : Src) (s : State) : Host.Outcome State Fault Refusal :=
  s.guarded g fun s =>
    let x := Vec.at (s.rdV s.cur a) (s.src s.cur b).toNat
    s.result 8 d (if xs then x.signExtend 64 else x.zeroExtend 64)

/-- `vput` (R176): one lane, merged at landing. -/
def execVput (g : Gd) (d : VReg) (a : SReg) (b : Src) (s : State) : Host.Outcome State Fault Refusal :=
  s.guarded g fun s =>
    let x : Lane := (s.rd s.cur a).truncate 32
    s.lanes0 8 d (1#64 <<< ((s.src s.cur b).toNat % 64)) fun _ => x

/-- `vperm`. -/
def execVperm (g : Gd) (km : BitVec 3) (d a b : VReg) (s : State) : Host.Outcome State Fault Refusal :=
  s.guarded g fun s =>
    let x := s.rdV s.cur a
    let y := s.rdV s.cur b
    s.lanes0 8 d (s.rdK s.cur km) fun i => Vec.at x y[i].toNat

/-- `vrot`. -/
def execVrot (g : Gd) (km : BitVec 3) (d a : VReg) (b : Src) (s : State) : Host.Outcome State Fault Refusal :=
  s.guarded g fun s =>
    let x := s.rdV s.cur a
    let n := (s.src s.cur b).toNat % 64
    s.lanes0 8 d (s.rdK s.cur km) fun i => Vec.at x (i.val + n)

/-- popcount(m[i-1:0]) (R177). -/
def rank (m : Mask) (i : Nat) : Nat := ((List.range i).filter fun j => m.getLsbD j).length

/-- `vcomp` (R177). -/
def execVcomp (g : Gd) (km : BitVec 3) (d a : VReg) (s : State) : Host.Outcome State Fault Refusal :=
  s.guarded g fun s =>
    let x := s.rdV s.cur a
    let m := s.rdK s.cur km
    let sel := (List.range 64).filter fun j => m.getLsbD j
    s.lanes0 8 d (BitVec.allOnes 64) fun i =>
      match sel[i.val]? with
      | some j => Vec.at x j
      | none => 0

/-- `vexpd` (R177). -/
def execVexpd (g : Gd) (km : BitVec 3) (d a : VReg) (s : State) : Host.Outcome State Fault Refusal :=
  s.guarded g fun s =>
    let x := s.rdV s.cur a
    let m := s.rdK s.cur km
    s.lanes0 8 d (BitVec.allOnes 64) fun i => if m.getLsbD i then Vec.at x (rank m i.val) else 0

/-- `viota` (R177). -/
def execViota (g : Gd) (km : BitVec 3) (d : VReg) (s : State) : Host.Outcome State Fault Refusal :=
  s.guarded g fun s =>
    let m := s.rdK s.cur km
    s.lanes0 8 d (BitVec.allOnes 64) fun i => BitVec.ofNat 32 (rank m i.val)

/-! ### Masks (R178) -/

/-- A truth table on masks, bit by bit. -/
def maskTable (tt : BitVec 4) (a b : Mask) : Mask :=
  (if tt.getLsbD 0 then ~~~a &&& ~~~b else 0) ||| (if tt.getLsbD 1 then ~~~a &&& b else 0) |||
    (if tt.getLsbD 2 then a &&& ~~~b else 0) ||| (if tt.getLsbD 3 then a &&& b else 0)

/-- `kop`. -/
def execKop (g : Gd) (tt : BitVec 4) (d a b : KReg) (s : State) : Host.Outcome State Fault Refusal :=
  s.guarded g fun s => (s.land s.cur 8 [.k d (maskTable tt (s.rdK s.cur a) (s.rdK s.cur b))] 0).advance s.cur

/-- `kpopc`. -/
def execKpopc (g : Gd) (d : SReg) (a : KReg) (s : State) : Host.Outcome State Fault Refusal :=
  s.guarded g fun s => s.result 8 d (w64 (popOp (s.rdK s.cur a)))

/-- `kmov` to a mask. -/
def execKmovToMask (g : Gd) (d : KReg) (a : SReg) (s : State) : Host.Outcome State Fault Refusal :=
  s.guarded g fun s => (s.land s.cur 8 [.k d (s.rd s.cur a)] 0).advance s.cur

/-- `kmov` from a mask. -/
def execKmovFromMask (g : Gd) (d : SReg) (a : KReg) (s : State) : Host.Outcome State Fault Refusal :=
  s.guarded g fun s => s.result 8 d (s.rdK s.cur a)

/-- `kfirst`. -/
def execKfirst (g : Gd) (d : SReg) (a : KReg) (s : State) : Host.Outcome State Fault Refusal :=
  s.guarded g fun s => s.result 8 d (w64 (ctzOp (s.rdK s.cur a)))

/-! ### Transcendental units (R14, R172 to R174) -/

/-- The function of a request on one lane. -/
def transFn (fn : Nat) (a : Lane) : Lane × FlagBits :=
  lane <| match fn with
    | 0 => fExp2 a.toNat
    | 1 => fLog2 a.toNat
    | 2 => fRcp a.toNat
    | _ => fRsq a.toNat

/-- The unit of a physical core: one per die column of 20 cores. -/
def transUnit (pc : Nat) : Nat := pxOf pc + (if pyOf pc < 20 then 0 else 40)

/-- The call-board object of a full queue of a transcendental unit (log 12). -/
def transObj : Word := 5

/-- Requests of a physical core outstanding, with the places kept for threads that waited (R174). -/
def State.transLoad (s : State) (w : Tid) (pc : Nat) : Nat :=
  (s.transReqs.filter fun (_, r) => r.pcore == pc).length + s.tokens w.job 110 fun v => s.phys? w.job v.lcn == some pc

/-- The results of a request and the flags of its written lanes. -/
def TransReq.out (r : TransReq) : Vec × FlagBits :=
  let out := Vector.ofFn fun (i : Fin 64) => transFn r.fn r.src[i]
  (Vec.ofFn fun i => out[i].1,
    (List.finRange 64).foldl (fun (x : FlagBits) (i : Fin 64) => if r.mask.getLsbD i then x ||| out[i].2 else x) 0)

/-- A transcendental instruction: the request reaches its unit in the next cycle. One that sets a flag writes FLAGS too
(R42). -/
def State.transcend (s : State) (fn : Nat) (la : BitVec 4) (km : KReg) (d a : VReg) : State :=
  let w := s.cur
  let pc := s.phys w.job w.lcn
  if !s.granted w 110 && decide (8 ≤ s.transLoad w pc) then s.park w .engq transObj false .reissue
  else
    let s := s.spend w 110
    let id := s.seq
    let r : TransReq := { own := w, pcore := pc, fn := fn, d := d, src := s.rdV w a, mask := s.rdK w km, due := s.cyc + 1 }
    ((({ s.drawn with transReqs := s.transReqs.set id r }.hold w id
      (.v d :: if r.out.2 = 0 then [] else [.sp 0x006])).openWindow w id la).later 1
      (.transRequest id)).advance w

/-- `vexp2`. -/
def execVexp2 (g : Gd) (la : BitVec 4) (km : BitVec 3) (d a : VReg) (s : State) : Host.Outcome State Fault Refusal :=
  s.guarded g fun s => s.transcend 0 la km d a

/-- `vlog2`. -/
def execVlog2 (g : Gd) (la : BitVec 4) (km : BitVec 3) (d a : VReg) (s : State) : Host.Outcome State Fault Refusal :=
  s.guarded g fun s => s.transcend 1 la km d a

/-- `vrcp`. -/
def execVrcp (g : Gd) (la : BitVec 4) (km : BitVec 3) (d a : VReg) (s : State) : Host.Outcome State Fault Refusal :=
  s.guarded g fun s => s.transcend 2 la km d a

/-- `vrsq`. -/
def execVrsq (g : Gd) (la : BitVec 4) (km : BitVec 3) (d a : VReg) (s : State) : Host.Outcome State Fault Refusal :=
  s.guarded g fun s => s.transcend 3 la km d a

/-- TRANS_REQUEST: the unit accepts a request, one in 4 cycles, in order of arrival; requests of one cycle were issued in
ascending physical core number, hence in ascending py (R173). -/
def execTransRequest (rid : Nat) (s : State) : Host.Outcome State Fault Refusal :=
  match s.transReqs.get? rid with
  | none => .next s
  | some r =>
    let u := transUnit r.pcore
    let t := max s.cyc (s.trans.getD u 0)
    .next ({ s with trans := s.trans.set u (t + 4) }.atCycle (t + 47) (.transResult rid))

/-- TRANS_RESULT: the written lanes land with their flags; the first thread parked on the places of the physical core resumes.
Of a request of an earlier life of its thread only a shared register is written (R121). -/
def execTransResult (rid : Nat) (s : State) : Host.Outcome State Fault Refusal :=
  match s.transReqs.get? rid with
  | none => .next s
  | some r =>
    let w := r.own
    let s := { s with transReqs := s.transReqs.del rid }
    let live := (s.thread w).busy.any fun p => p.1 == rid
    let s := if live then (s.release w rid).land w 0 [.v r.d r.out.1 r.mask] r.out.2
      else if RegRef.shared (.v r.d) then s.land w 0 [.v r.d r.out.1 r.mask] 0
      else s
    .next (match s.waiters w.job fun v x => s.phys? w.job v.lcn == some r.pcore && x.kind == .engq && x.obj == transObj with
      | v :: _ => (s.grant v 110).unpark v
      | [] => s)

end Sys2Proof.Machine
end

