-- ==== Sys2Proof/Machine/Dispatch.lean ====
section
/-!
DEFINITION. The dispatch of every constructor of `Instr` to its meaning.
-/


namespace Sys2Proof.Machine

/-- The meaning of an instruction, or of a step of the machine, in a state. -/
def exec (i : Instr) (s : State) : Host.Outcome State Fault Refusal :=
  match i with
  | .nop g => Sys2Proof.Machine.execNop g s
  | .add g w d a b => Sys2Proof.Machine.execAdd g w d a b s
  | .sub g w d a b => Sys2Proof.Machine.execSub g w d a b s
  | .mul g w d a b => Sys2Proof.Machine.execMul g w d a b s
  | .mulh g w d a b => Sys2Proof.Machine.execMulh g w d a b s
  | .mulhu g w d a b => Sys2Proof.Machine.execMulhu g w d a b s
  | .div g w la d a b => Sys2Proof.Machine.execDiv g w la d a b s
  | .divu g w la d a b => Sys2Proof.Machine.execDivu g w la d a b s
  | .rem g w la d a b => Sys2Proof.Machine.execRem g w la d a b s
  | .remu g w la d a b => Sys2Proof.Machine.execRemu g w la d a b s
  | .and g d a b => Sys2Proof.Machine.execAnd g d a b s
  | .or g d a b => Sys2Proof.Machine.execOr g d a b s
  | .xor g d a b => Sys2Proof.Machine.execXor g d a b s
  | .andn g d a b => Sys2Proof.Machine.execAndn g d a b s
  | .shl g w d a b => Sys2Proof.Machine.execShl g w d a b s
  | .shr g w d a b => Sys2Proof.Machine.execShr g w d a b s
  | .sar g w d a b => Sys2Proof.Machine.execSar g w d a b s
  | .rol g w d a b => Sys2Proof.Machine.execRol g w d a b s
  | .clz g w d a => Sys2Proof.Machine.execClz g w d a s
  | .ctz g w d a => Sys2Proof.Machine.execCtz g w d a s
  | .popc g w d a => Sys2Proof.Machine.execPopc g w d a s
  | .min g w d a b => Sys2Proof.Machine.execMin g w d a b s
  | .max g w d a b => Sys2Proof.Machine.execMax g w d a b s
  | .minu g w d a b => Sys2Proof.Machine.execMinu g w d a b s
  | .maxu g w d a b => Sys2Proof.Machine.execMaxu g w d a b s
  | .sel g p d a b => Sys2Proof.Machine.execSel g p d a b s
  | .movi g d imm => Sys2Proof.Machine.execMovi g d imm s
  | .movhi g d a imm => Sys2Proof.Machine.execMovhi g d a imm s
  | .bext g pos len d a b => Sys2Proof.Machine.execBext g pos len d a b s
  | .bextu g pos len d a b => Sys2Proof.Machine.execBextu g pos len d a b s
  | .bins g pos len d a b => Sys2Proof.Machine.execBins g pos len d a b s
  | .sext g wd d a => Sys2Proof.Machine.execSext g wd d a s
  | .bswap g w d a => Sys2Proof.Machine.execBswap g w d a s
  | .mov g d a => Sys2Proof.Machine.execMov g d a s
  | .br g imm => Sys2Proof.Machine.execBr g imm s
  | .jmp g a imm => Sys2Proof.Machine.execJmp g a imm s
  | .call g d imm => Sys2Proof.Machine.execCall g d imm s
  | .callr g d a imm => Sys2Proof.Machine.execCallr g d a imm s
  | .cmp g w cnd d a b => Sys2Proof.Machine.execCmp g w cnd d a b s
  | .tst g zero d a b => Sys2Proof.Machine.execTst g zero d a b s
  | .plog g tt d a b => Sys2Proof.Machine.execPlog g tt d a b s
  | .pset g qm a => Sys2Proof.Machine.execPset g qm a s
  | .pget g d => Sys2Proof.Machine.execPget g d s
  | .dbnz g d imm => Sys2Proof.Machine.execDbnz g d imm s
  | .syncf g imm => Sys2Proof.Machine.execSyncf g imm s
  | .start g th d a b => Sys2Proof.Machine.execStart g th d a b s
  | .exit g a => Sys2Proof.Machine.execExit g a s
  | .gets g d imm => Sys2Proof.Machine.execGets g d imm s
  | .sets g a imm => Sys2Proof.Machine.execSets g a imm s
  | .tilepos g d => Sys2Proof.Machine.execTilepos g d s
  | .sleep g a imm => Sys2Proof.Machine.execSleep g a imm s
  | .mkadr g form d a b => Sys2Proof.Machine.execMkadr g form d a b s
  | .slotrd g d imm => Sys2Proof.Machine.execSlotrd g d imm s
  | .thrst g d a => Sys2Proof.Machine.execThrst g d a s
  | .cvt g t rm sat src d a => Sys2Proof.Machine.execCvt g t rm sat src d a s
  | .fadd g t rm d a b => Sys2Proof.Machine.execFadd g t rm d a b s
  | .fsub g t rm d a b => Sys2Proof.Machine.execFsub g t rm d a b s
  | .fmul g t rm d a b => Sys2Proof.Machine.execFmul g t rm d a b s
  | .ffma g t rm d a b => Sys2Proof.Machine.execFfma g t rm d a b s
  | .fdiv g la t rm d a b => Sys2Proof.Machine.execFdiv g la t rm d a b s
  | .fsqrt g la t rm d a => Sys2Proof.Machine.execFsqrt g la t rm d a s
  | .fmin g t d a b => Sys2Proof.Machine.execFmin g t d a b s
  | .fmax g t d a b => Sys2Proof.Machine.execFmax g t d a b s
  | .fcmp g t cnd d a b => Sys2Proof.Machine.execFcmp g t cnd d a b s
  | .fclass g t d a => Sys2Proof.Machine.execFclass g t d a s
  | .vcvt g t rm sat src d a => Sys2Proof.Machine.execVcvt g t rm sat src d a s
  | .vpack g t rm sat d a b => Sys2Proof.Machine.execVpack g t rm sat d a b s
  | .vunpk g t part d a => Sys2Proof.Machine.execVunpk g t part d a s
  | .vadd g t rm sat km d a b => Sys2Proof.Machine.execVadd g t rm sat km d a b s
  | .vsub g t rm sat km d a b => Sys2Proof.Machine.execVsub g t rm sat km d a b s
  | .vmul g t rm sat km d a b => Sys2Proof.Machine.execVmul g t rm sat km d a b s
  | .vfma g t rm sat km d a b => Sys2Proof.Machine.execVfma g t rm sat km d a b s
  | .vfms g t rm sat km d a b => Sys2Proof.Machine.execVfms g t rm sat km d a b s
  | .vmin g t km d a b => Sys2Proof.Machine.execVmin g t km d a b s
  | .vmax g t km d a b => Sys2Proof.Machine.execVmax g t km d a b s
  | .vabs g t sat km d a => Sys2Proof.Machine.execVabs g t sat km d a s
  | .vneg g t sat km d a => Sys2Proof.Machine.execVneg g t sat km d a s
  | .vexp2 g la km d a => Sys2Proof.Machine.execVexp2 g la km d a s
  | .vlog2 g la km d a => Sys2Proof.Machine.execVlog2 g la km d a s
  | .vrcp g la km d a => Sys2Proof.Machine.execVrcp g la km d a s
  | .vrsq g la km d a => Sys2Proof.Machine.execVrsq g la km d a s
  | .vcmp g t km cnd d a b => Sys2Proof.Machine.execVcmp g t km cnd d a b s
  | .vsel g km d a b => Sys2Proof.Machine.execVsel g km d a b s
  | .vand g km d a b => Sys2Proof.Machine.execVand g km d a b s
  | .vor g km d a b => Sys2Proof.Machine.execVor g km d a b s
  | .vxor g km d a b => Sys2Proof.Machine.execVxor g km d a b s
  | .vshl g km d a b => Sys2Proof.Machine.execVshl g km d a b s
  | .vshr g km d a b => Sys2Proof.Machine.execVshr g km d a b s
  | .vsar g km d a b => Sys2Proof.Machine.execVsar g km d a b s
  | .vpopc g km d a => Sys2Proof.Machine.execVpopc g km d a s
  | .vdot4 g t sat km d a b => Sys2Proof.Machine.execVdot4 g t sat km d a b s
  | .vsum g t rm sat km d a => Sys2Proof.Machine.execVsum g t rm sat km d a s
  | .vmaxr g t km d a => Sys2Proof.Machine.execVmaxr g t km d a s
  | .vfmas g t rm sat km d a b => Sys2Proof.Machine.execVfmas g t rm sat km d a b s
  | .vscal g t rm sat km d a b => Sys2Proof.Machine.execVscal g t rm sat km d a b s
  | .vmov g km d a => Sys2Proof.Machine.execVmov g km d a s
  | .vbcast g km d a => Sys2Proof.Machine.execVbcast g km d a s
  | .vget g xs d a b => Sys2Proof.Machine.execVget g xs d a b s
  | .vput g d a b => Sys2Proof.Machine.execVput g d a b s
  | .vperm g km d a b => Sys2Proof.Machine.execVperm g km d a b s
  | .vrot g km d a b => Sys2Proof.Machine.execVrot g km d a b s
  | .vcomp g km d a => Sys2Proof.Machine.execVcomp g km d a s
  | .vexpd g km d a => Sys2Proof.Machine.execVexpd g km d a s
  | .viota g km d => Sys2Proof.Machine.execViota g km d s
  | .kop g tt d a b => Sys2Proof.Machine.execKop g tt d a b s
  | .kpopc g d a => Sys2Proof.Machine.execKpopc g d a s
  | .kmovToMask g d a => Sys2Proof.Machine.execKmovToMask g d a s
  | .kmovFromMask g d a => Sys2Proof.Machine.execKmovFromMask g d a s
  | .kfirst g d a => Sys2Proof.Machine.execKfirst g d a s
  | .ld g la rx t d a ix imm => Sys2Proof.Machine.execLd g la rx t d a ix imm s
  | .st g rx t d a ix imm => Sys2Proof.Machine.execSt g rx t d a ix imm s
  | .vld g la rx t cnt d a ix imm => Sys2Proof.Machine.execVld g la rx t cnt d a ix imm s
  | .vst g rx t cnt d a ix imm => Sys2Proof.Machine.execVst g rx t cnt d a ix imm s
  | .vlds g la rx t cnt d a b imm => Sys2Proof.Machine.execVlds g la rx t cnt d a b imm s
  | .vsts g rx t cnt d a b imm => Sys2Proof.Machine.execVsts g rx t cnt d a b imm s
  | .vldx g la rx t sh cnt d a b imm => Sys2Proof.Machine.execVldx g la rx t sh cnt d a b imm s
  | .vstx g rx t sh cnt d a b imm => Sys2Proof.Machine.execVstx g rx t sh cnt d a b imm s
  | .ldf g la t d a ix imm => Sys2Proof.Machine.execLdf g la t d a ix imm s
  | .ldp g la t d a ix imm => Sys2Proof.Machine.execLdp g la t d a ix imm s
  | .ste g t d a ix imm => Sys2Proof.Machine.execSte g t d a ix imm s
  | .stf g rx t d a ix imm => Sys2Proof.Machine.execStf g rx t d a ix imm s
  | .fe g full a b imm => Sys2Proof.Machine.execFe g full a b imm s
  | .tlook g la gs d a => Sys2Proof.Machine.execTlook g la gs d a s
  | .tset g gs a b => Sys2Proof.Machine.execTset g gs a b s
  | .tinv g gs a => Sys2Proof.Machine.execTinv g gs a s
  | .tinvAll g => Sys2Proof.Machine.execTinvAll g s
  | .guard g set a b imm => Sys2Proof.Machine.execGuard g set a b imm s
  | .drain g => Sys2Proof.Machine.execDrain g s
  | .fence g sc => Sys2Proof.Machine.execFence g sc s
  | .xlat g la d a imm => Sys2Proof.Machine.execXlat g la d a imm s
  | .amo g la rx t op d a b imm => Sys2Proof.Machine.execAmo g la rx t op d a b imm s
  | .cas g la rx t d a b imm => Sys2Proof.Machine.execCas g la rx t d a b imm s
  | .famo g la rx t rm op d a b imm => Sys2Proof.Machine.execFamo g la rx t rm op d a b imm s
  | .rupd g rx t op a b imm => Sys2Proof.Machine.execRupd g rx t op a b imm s
  | .frupd g rx t rm op a b imm => Sys2Proof.Machine.execFrupd g rx t rm op a b imm s
  | .mon g mi a imm => Sys2Proof.Machine.execMon g mi a imm s
  | .monc g => Sys2Proof.Machine.execMonc g s
  | .waitm g mq d a => Sys2Proof.Machine.execWaitm g mq d a s
  | .bar g bc => Sys2Proof.Machine.execBar g bc s
  | .bara g bc d => Sys2Proof.Machine.execBara g bc d s
  | .barw g bc => Sys2Proof.Machine.execBarw g bc s
  | .barset g bc a => Sys2Proof.Machine.execBarset g bc a s
  | .send g rx d a b => Sys2Proof.Machine.execSend g rx d a b s
  | .recv g d => Sys2Proof.Machine.execRecv g d s
  | .trecv g p d a => Sys2Proof.Machine.execTrecv g p d a s
  | .mqst g src d => Sys2Proof.Machine.execMqst g src d s
  | .copy g rx d a b imm => Sys2Proof.Machine.execCopy g rx d a b imm s
  | .copy2 g rx d a b imm => Sys2Proof.Machine.execCopy2 g rx d a b imm s
  | .gath g rx d a => Sys2Proof.Machine.execGath g rx d a s
  | .scat g rx d a => Sys2Proof.Machine.execScat g rx d a s
  | .hval g fld d a => Sys2Proof.Machine.execHval g fld d a s
  | .htest g d a => Sys2Proof.Machine.execHtest g d a s
  | .hcancel g a => Sys2Proof.Machine.execHcancel g a s
  | .hpass g d a => Sys2Proof.Machine.execHpass g d a s
  | .hadopt g d a => Sys2Proof.Machine.execHadopt g d a s
  | .sopen g t dir slot scl keep bop d a b => Sys2Proof.Machine.execSopen g t dir slot scl keep bop d a b s
  | .sjoin g t dir scl d a b => Sys2Proof.Machine.execSjoin g t dir scl d a b s
  | .sfeed g dir a b imm => Sys2Proof.Machine.execSfeed g dir a b imm s
  | .sscale g dir a b => Sys2Proof.Machine.execSscale g dir a b s
  | .sclose g t rm sat dir a b imm => Sys2Proof.Machine.execSclose g t rm sat dir a b imm s
  | .scloseRdl g t rm sat dir slot a b imm => Sys2Proof.Machine.execScloseRdl g t rm sat dir slot a b imm s
  | .sabort g dir slot => Sys2Proof.Machine.execSabort g dir slot s
  | .sstat g d a => Sys2Proof.Machine.execSstat g d a s
  | .sround g => Sys2Proof.Machine.execSround g s
  | .pcfg g a => Sys2Proof.Machine.execPcfg g a s
  | .pplan g d a b => Sys2Proof.Machine.execPplan g d a b s
  | .pfetch g replay wm d a => Sys2Proof.Machine.execPfetch g replay wm d a s
  | .pstat g d imm => Sys2Proof.Machine.execPstat g d imm s
  | .ddcfg g a => Sys2Proof.Machine.execDdcfg g a s
  | .ddord g a b => Sys2Proof.Machine.execDdord g a b s
  | .ddwset g a b => Sys2Proof.Machine.execDdwset g a b s
  | .ddmk g d a b imm => Sys2Proof.Machine.execDdmk g d a b imm s
  | .ddapply g tt d a b => Sys2Proof.Machine.execDdapply g tt d a b s
  | .ddite g d a b => Sys2Proof.Machine.execDdite g d a b s
  | .ddrestr g d a b => Sys2Proof.Machine.execDdrestr g d a b s
  | .ddexist g d a b => Sys2Proof.Machine.execDdexist g d a b s
  | .ddcount g d a => Sys2Proof.Machine.execDdcount g d a s
  | .ddwcount g d a => Sys2Proof.Machine.execDdwcount g d a s
  | .ddref g a => Sys2Proof.Machine.execDdref g a s
  | .dderef g a => Sys2Proof.Machine.execDderef g a s
  | .ddgc g d => Sys2Proof.Machine.execDdgc g d s
  | .ddnode g d a => Sys2Proof.Machine.execDdnode g d a s
  | .ddstat g d imm => Sys2Proof.Machine.execDdstat g d imm s
  | .rsend g a b => Sys2Proof.Machine.execRsend g a b s
  | .rrecv g d a => Sys2Proof.Machine.execRrecv g d a s
  | .cbindOffer g a b => Sys2Proof.Machine.execCbindOffer g a b s
  | .cbindWithdraw g a b => Sys2Proof.Machine.execCbindWithdraw g a b s
  | .cget g d a => Sys2Proof.Machine.execCget g d a s
  | .cset g a b => Sys2Proof.Machine.execCset g a b s
  | .cue g a => Sys2Proof.Machine.execCue g a s
  | .cuetake g d a => Sys2Proof.Machine.execCuetake g d a s
  | .sthand g d a b => Sys2Proof.Machine.execSthand g d a b s
  | .sttake g d a => Sys2Proof.Machine.execSttake g d a s
  | .redcfg g a => Sys2Proof.Machine.execRedcfg g a s
  | .redv g t rm sat grp op d a b => Sys2Proof.Machine.execRedv g t rm sat grp op d a b s
  | .reds g t rm sat grp op d a b => Sys2Proof.Machine.execReds g t rm sat grp op d a b s
  | .bcastv g grp d a b => Sys2Proof.Machine.execBcastv g grp d a b s
  | .trap g imm => Sys2Proof.Machine.execTrap g imm s
  | .tfence g => Sys2Proof.Machine.execTfence g s
  | .rfe g => Sys2Proof.Machine.execRfe g s
  | .brk g imm => Sys2Proof.Machine.execBrk g imm s
  | .tqpop g w d => Sys2Proof.Machine.execTqpop g w d s
  | .sfqpop g w tr d => Sys2Proof.Machine.execSfqpop g w tr d s
  | .tlbinv g a b => Sys2Proof.Machine.execTlbinv g a b s
  | .slotwr g a b => Sys2Proof.Machine.execSlotwr g a b s
  | .mapwr g a b => Sys2Proof.Machine.execMapwr g a b s
  | .vacate g d a => Sys2Proof.Machine.execVacate g d a s
  | .resume g d a => Sys2Proof.Machine.execResume g d a s
  | .tsusp g a => Sys2Proof.Machine.execTsusp g a s
  | .tresm g a => Sys2Proof.Machine.execTresm g a s
  | .halt g a => Sys2Proof.Machine.execHalt g a s
  | .illegalInstruction c => Sys2Proof.Machine.execIllegalInstruction c s
  | .resultLands w id => Sys2Proof.Machine.execResultLands w id s
  | .lineDelivery pcl x => Sys2Proof.Machine.execLineDelivery pcl x s
  | .sleepExpiry w stamp => Sys2Proof.Machine.execSleepExpiry w stamp s
  | .syncfRelease w stamp => Sys2Proof.Machine.execSyncfRelease w stamp s
  | .packetForward x => Sys2Proof.Machine.execPacketForward x s
  | .starvationToken router port => Sys2Proof.Machine.execStarvationToken router port s
  | .remoteAccess aid part => Sys2Proof.Machine.execRemoteAccess aid part s
  | .accessResponse aid part => Sys2Proof.Machine.execAccessResponse aid part s
  | .translationWalk wid => Sys2Proof.Machine.execTranslationWalk wid s
  | .storeFaultRecord aid part => Sys2Proof.Machine.execStoreFaultRecord aid part s
  | .feRetry aid part => Sys2Proof.Machine.execFeRetry aid part s
  | .waitmTimeout w stamp => Sys2Proof.Machine.execWaitmTimeout w stamp s
  | .transRequest rid => Sys2Proof.Machine.execTransRequest rid s
  | .transResult rid => Sys2Proof.Machine.execTransResult rid s
  | .barrierArrival w n wait d => Sys2Proof.Machine.execBarrierArrival w n wait d s
  | .barsetRequest w n count => Sys2Proof.Machine.execBarsetRequest w n count s
  | .barrierVerdict w n ok ph wait => Sys2Proof.Machine.execBarrierVerdict w n ok ph wait s
  | .barrierRelease job clu n ws => Sys2Proof.Machine.execBarrierRelease job clu n ws s
  | .flitArrival f => Sys2Proof.Machine.execFlitArrival f s
  | .flitResend f => Sys2Proof.Machine.execFlitResend f s
  | .sendAck f dead => Sys2Proof.Machine.execSendAck f dead s
  | .trecvTimeout w stamp => Sys2Proof.Machine.execTrecvTimeout w stamp s
  | .hangSample job => Sys2Proof.Machine.execHangSample job s
  | .engineEnqueue op => Sys2Proof.Machine.execEngineEnqueue op s
  | .copyChunk job clu x => Sys2Proof.Machine.execCopyChunk job clu x s
  | .copyResolve job clu id => Sys2Proof.Machine.execCopyResolve job clu id s
  | .gatherBatch job clu x => Sys2Proof.Machine.execGatherBatch job clu x s
  | .gatherResolve job clu id => Sys2Proof.Machine.execGatherResolve job clu id s
  | .cancelRequest h => Sys2Proof.Machine.execCancelRequest h s
  | .adoptRequest w d id => Sys2Proof.Machine.execAdoptRequest w d id s
  | .adoptReply w d id r => Sys2Proof.Machine.execAdoptReply w d id r s
  | .handleCompletion h c flags => Sys2Proof.Machine.execHandleCompletion h c flags s
  | .spanArrival a => Sys2Proof.Machine.execSpanArrival a s
  | .spanSlotTake job link pid => Sys2Proof.Machine.execSpanSlotTake job link pid s
  | .spanPortRead job link pid lead => Sys2Proof.Machine.execSpanPortRead job link pid lead s
  | .spanKstep job link pid => Sys2Proof.Machine.execSpanKstep job link pid s
  | .spanEmulKstep job link pid => Sys2Proof.Machine.execSpanEmulKstep job link pid s
  | .spanPromote job link pid => Sys2Proof.Machine.execSpanPromote job link pid s
  | .spanDeliver job link x => Sys2Proof.Machine.execSpanDeliver job link x s
  | .spanDoneWord job link pid => Sys2Proof.Machine.execSpanDoneWord job link pid s
  | .spanResolve job link pid => Sys2Proof.Machine.execSpanResolve job link pid s
  | .spanDeliveryStop job link pid => Sys2Proof.Machine.execSpanDeliveryStop job link pid s
  | .pcfgApply w adr blk => Sys2Proof.Machine.execPcfgApply w adr blk s
  | .pplanRun job clu => Sys2Proof.Machine.execPplanRun job clu s
  | .pplanResolve job clu => Sys2Proof.Machine.execPplanResolve job clu s
  | .ddEnqueue e => Sys2Proof.Machine.execDdEnqueue e s
  | .ddExecute job clu => Sys2Proof.Machine.execDdExecute job clu s
  | .ddResolve job clu e c flags => Sys2Proof.Machine.execDdResolve job clu e c flags s
  | .castAccess w r => Sys2Proof.Machine.execCastAccess w r s
  | .cueArm t => Sys2Proof.Machine.execCueArm t s
  | .cueCommit t => Sys2Proof.Machine.execCueCommit t s
  | .recordFrameArrival f => Sys2Proof.Machine.execRecordFrameArrival f s
  | .frameResend f => Sys2Proof.Machine.execFrameResend f s
  | .bindToken t => Sys2Proof.Machine.execBindToken t s
  | .openToken t => Sys2Proof.Machine.execOpenToken t s
  | .unbindToken u t cue => Sys2Proof.Machine.execUnbindToken u t cue s
  | .cueFailReturn t => Sys2Proof.Machine.execCueFailReturn t s
  | .stateTransfer x => Sys2Proof.Machine.execStateTransfer x s
  | .stateResend x => Sys2Proof.Machine.execStateResend x s
  | .redCombine job grp k node x => Sys2Proof.Machine.execRedCombine job grp k node x s
  | .redBroadcast job grp k x => Sys2Proof.Machine.execRedBroadcast job grp k x s
  | .redResolve job grp k node => Sys2Proof.Machine.execRedResolve job grp k node s
  | .vacateResolve h pcl vbase => Sys2Proof.Machine.execVacateResolve h pcl vbase s
  | .resumeResolve h clu pcl vbase => Sys2Proof.Machine.execResumeResolve h clu pcl vbase s
  | .tqackServe pc ent => Sys2Proof.Machine.execTqackServe pc ent s
  | .tqackRefuse pc ent => Sys2Proof.Machine.execTqackRefuse pc ent s
  | .tenantWrite pc v => Sys2Proof.Machine.execTenantWrite pc v s
  | .coreRegWrite pc off v => Sys2Proof.Machine.execCoreRegWrite pc off v s
  | .jobLaunch job p => Sys2Proof.Machine.execJobLaunch job p s
  | .waitlimExpiry job => Sys2Proof.Machine.execWaitlimExpiry job s
  | .lqtail vf tail => Sys2Proof.Machine.execLqtail vf tail s
  | .jobCompletion job => Sys2Proof.Machine.execJobCompletion job s
  | .bcmdBind => Sys2Proof.Machine.execBcmdBind s
  | .bcmdUnbind => Sys2Proof.Machine.execBcmdUnbind s
  | .peerBindMatch dev peerJob localJob tenant => Sys2Proof.Machine.execPeerBindMatch dev peerJob localJob tenant s
  | .peeren v => Sys2Proof.Machine.execPeeren v s
  | .pf0RegWrite fn off v => Sys2Proof.Machine.execPf0RegWrite fn off v s
  | .peerForward f => Sys2Proof.Machine.execPeerForward f s
  | .attestationReport nonce => Sys2Proof.Machine.execAttestationReport nonce s
  | .boot => Sys2Proof.Machine.execBoot s
  | .governorSample watts => Sys2Proof.Machine.execGovernorSample watts s
  | .thermalTrip => Sys2Proof.Machine.execThermalTrip s
  | .jobTermination job status cause => Sys2Proof.Machine.execJobTermination job status cause s
  | .peerBindingDrop dev localJob => Sys2Proof.Machine.execPeerBindingDrop dev localJob s

end Sys2Proof.Machine
end

