-- ==== Sys2Proof/Machine/Events.lean ====
section
/-!
DEFINITION. The steps of the agenda: each is the meaning of the constructor of `Instr` of the same name (log 1).
-/


namespace Sys2Proof.Machine

/-- The step of an agenda entry. -/
def runEvent (e : Event) (s : State) : Host.Outcome State Fault Refusal :=
  match e with
  | .resultLands w id => execResultLands w id s
  | .lineDelivery pcl line slice => execLineDelivery pcl ⟨line, slice⟩ s
  | .sleepExpiry w stamp => execSleepExpiry w stamp s
  | .syncfRelease w stamp => execSyncfRelease w stamp s
  | .packetForward pid buffered => execPacketForward ⟨pid, buffered⟩ s
  | .starvationToken router port => execStarvationToken router port s
  | .remoteAccess aid part => execRemoteAccess aid part s
  | .accessResponse aid part => execAccessResponse aid part s
  | .translationWalk wid => execTranslationWalk wid s
  | .storeFaultRecord aid part => execStoreFaultRecord aid part s
  | .feRetry aid part => execFeRetry aid part s
  | .waitmTimeout w stamp => execWaitmTimeout w stamp s
  | .transRequest rid => execTransRequest rid s
  | .transResult rid => execTransResult rid s
  | .barrierArrival w n wait d => execBarrierArrival w n wait d s
  | .barsetRequest w n count => execBarsetRequest w n count s
  | .barrierVerdict w n ok ph wait => execBarrierVerdict w n ok ph wait s
  | .barrierRelease job clu n ws => execBarrierRelease job clu n ws s
  | .flitArrival f => execFlitArrival f s
  | .flitResend f => execFlitResend f s
  | .sendAck f dead => execSendAck f dead s
  | .trecvTimeout w stamp => execTrecvTimeout w stamp s
  | .hangSample job => execHangSample job s
  | .engineEnqueue op => execEngineEnqueue op s
  | .copyChunk job clu id req => execCopyChunk job clu ⟨id, req⟩ s
  | .copyResolve job clu id => execCopyResolve job clu id s
  | .gatherBatch job clu id req => execGatherBatch job clu ⟨id, req⟩ s
  | .gatherResolve job clu id => execGatherResolve job clu id s
  | .cancelRequest h => execCancelRequest h s
  | .adoptRequest w d id => execAdoptRequest w d id s
  | .adoptReply w d id r => execAdoptReply w d id r s
  | .handleCompletion h c flags => execHandleCompletion h c flags s
  | .spanArrival a => execSpanArrival a s
  | .spanSlotTake job link pid => execSpanSlotTake job link pid s
  | .spanPortRead job link pid lead => execSpanPortRead job link pid lead s
  | .spanKstep job link pid => execSpanKstep job link pid s
  | .spanEmulKstep job link pid => execSpanEmulKstep job link pid s
  | .spanPromote job link pid => execSpanPromote job link pid s
  | .spanDeliver job link pid req => execSpanDeliver job link ⟨pid, req⟩ s
  | .spanDoneWord job link pid => execSpanDoneWord job link pid s
  | .spanResolve job link pid => execSpanResolve job link pid s
  | .spanDeliveryStop job link pid => execSpanDeliveryStop job link pid s
  | .pcfgApply w adr blk => execPcfgApply w adr blk s
  | .pplanRun job clu => execPplanRun job clu s
  | .pplanResolve job clu => execPplanResolve job clu s
  | .ddEnqueue e => execDdEnqueue e s
  | .ddExecute job clu => execDdExecute job clu s
  | .ddResolve job clu e c flags => execDdResolve job clu e c flags s
  | .castAccess w r => execCastAccess w r s
  | .cueArm t => execCueArm t s
  | .cueCommit t => execCueCommit t s
  | .recordFrameArrival f => execRecordFrameArrival f s
  | .frameResend f => execFrameResend f s
  | .bindToken t => execBindToken t s
  | .openToken t => execOpenToken t s
  | .unbindToken u t cue => execUnbindToken u t cue s
  | .cueFailReturn t => execCueFailReturn t s
  | .stateTransfer x => execStateTransfer x s
  | .stateResend x => execStateResend x s
  | .redCombine job grp k node src msg => execRedCombine job grp k node ⟨src, msg⟩ s
  | .redBroadcast job grp k node msg => execRedBroadcast job grp k ⟨node, msg⟩ s
  | .redResolve job grp k node => execRedResolve job grp k node s
  | .vacateResolve h pcl vbase => execVacateResolve h pcl vbase s
  | .resumeResolve h clu pcl vbase => execResumeResolve h clu pcl vbase s
  | .tqackServe pc ent => execTqackServe pc ent s
  | .tqackRefuse pc ent => execTqackRefuse pc ent s
  | .tenantWrite pc v => execTenantWrite pc v s
  | .coreRegWrite pc off v => execCoreRegWrite pc off v s
  | .jobLaunch job p => execJobLaunch job p s
  | .waitlimExpiry job => execWaitlimExpiry job s
  | .lqtail vf tail => execLqtail vf tail s
  | .jobCompletion job => execJobCompletion job s
  | .bcmdBind => execBcmdBind s
  | .bcmdUnbind => execBcmdUnbind s
  | .peerBindMatch dev peerJob localJob tenant => execPeerBindMatch dev peerJob localJob tenant s
  | .peeren v => execPeeren v s
  | .pf0RegWrite fn off v => execPf0RegWrite fn off v s
  | .peerForward f => execPeerForward f s
  | .attestationReport nonce => execAttestationReport nonce s
  | .boot => execBoot s
  | .governorSample watts => execGovernorSample watts s
  | .thermalTrip => execThermalTrip s
  | .jobTermination job status cause => execJobTermination job status cause s
  | .peerBindingDrop dev localJob => execPeerBindingDrop dev localJob s

end Sys2Proof.Machine
end

