-- ==== Sys2Proof/Decode.lean ====
section
/-!
DEFINITION. Decoding, total on every 96-bit word (R33 to R51): the fields of the word, the opcode map of R49, the
thirteen cases of R51 that refuse a word by cause, and the encoder, the inverse on well-formed instructions.
-/

set_option linter.unusedVariables false

namespace Sys2Proof

/-! ### The word and its fields (R33, R35) -/

/-- The fields of an instruction word (R33, R35). -/
structure Fields where
  opc : BitVec 10 := 0
  la : BitVec 4 := 0
  gn : Bool := false
  gp : BitVec 3 := 0
  rx : Bool := false
  rsv : Bool := false
  md : BitVec 2 := 0
  d : BitVec 7 := 0
  a : BitVec 7 := 0
  b : BitVec 7 := 0
  i : Bool := false
  t : BitVec 4 := 0
  rm : BitVec 3 := 0
  sat : Bool := false
  fn : BitVec 12 := 0
  imm : BitVec 32 := 0
deriving DecidableEq, Repr

/-- The fields of a word (R33, R35). -/
def Fields.ofWord (w : BitVec 96) : Fields where
  opc := w.extractLsb' 86 10
  la := w.extractLsb' 82 4
  gn := w.getLsbD 81
  gp := w.extractLsb' 78 3
  rx := w.getLsbD 77
  rsv := w.getLsbD 76
  md := w.extractLsb' 74 2
  d := w.extractLsb' 67 7
  a := w.extractLsb' 60 7
  b := w.extractLsb' 53 7
  i := w.getLsbD 52
  t := w.extractLsb' 48 4
  rm := w.extractLsb' 45 3
  sat := w.getLsbD 44
  fn := w.extractLsb' 32 12
  imm := w.extractLsb' 0 32

/-- The word of the fields, high bit first (R33, R35). -/
def Fields.toWord (f : Fields) : BitVec 96 :=
  f.opc ++ f.la ++ BitVec.ofBool f.gn ++ f.gp ++ BitVec.ofBool f.rx ++ BitVec.ofBool f.rsv ++ f.md ++ f.d ++ f.a ++ f.b ++
    BitVec.ofBool f.i ++ f.t ++ f.rm ++ BitVec.ofBool f.sat ++ f.fn ++ f.imm

/-- FN[lo+n-1:lo] as a number. -/
def fnSub (f : Fields) (lo n : Nat) : Nat := (f.fn.extractLsb' lo n).toNat

/-- The vector register of a code 0-15 or 64-79 (R38). -/
def vOf (c : BitVec 7) : VReg := BitVec.ofBool (c.getLsbD 6) ++ c.extractLsb' 0 4

/-- The code of a vector register (R38). -/
def vCode (r : VReg) : BitVec 7 := BitVec.ofBool (r.getLsbD 4) ++ (0 : BitVec 2) ++ r.extractLsb' 0 4

/-! ### The opcode map (R49) -/

/-- Operand kinds (R38, R40); `qd` and `kd` are destinations, `h0` is the D of `send`. -/
inductive Kind where
  | no | s | sT | s2 | s3 | v | q | qd | k | kd | h | h0
deriving DecidableEq, Repr

/-- The IMM column of R49: empty, or always carrying data. -/
inductive ImmKind where
  | no | used
deriving DecidableEq, Repr

/-- A row of the opcode map: operand kinds, IMM and T columns, and the mode letters I M S W (or K) L X. -/
structure Row where
  d : Kind
  a : Kind
  b : Kind
  imm : ImmKind
  t : TSet
  mI : Bool := false
  mM : Bool := false
  mS : Bool := false
  mW : Bool := false
  mL : Bool := false
  mX : Bool := false
deriving DecidableEq, Repr

/-- The registers that a code of each kind accepts (R38, R40); `pair` says that an s* field holds a pair. -/
def Kind.ok (x : Kind) (pair : Bool) (c : BitVec 7) : Bool :=
  let n := c.toNat
  match x with
  | .no => true
  | .s => true
  | .sT => !pair || decide (n ≠ 63 ∧ n ≠ 127)
  | .s2 => decide (n ≠ 63 ∧ n ≠ 127)
  | .s3 => decide (n ≠ 62 ∧ n ≠ 63 ∧ n ≠ 126 ∧ n ≠ 127)
  | .v => decide (n < 16 ∨ (64 ≤ n ∧ n < 80))
  | .q | .k => decide (n < 8)
  | .qd | .kd => decide (0 < n ∧ n < 8)
  | .h => decide (0 < n ∧ n < 64)
  | .h0 => decide (n < 64)

/-- The granule codes 6 to 16 of the tag-table instructions (R201). -/
def gsOk (f : Fields) : Bool := decide (6 ≤ fnSub f 0 5) && decide (fnSub f 0 5 ≤ 16)

/-- Opcodes of class 0x0 (R49). -/
def rowsScalar (o : Nat) : Option Row :=
  match o with
  | 0x001 => some { d := .no, a := .no, b := .no, imm := .no, t := .none }  -- NOP
  | 0x002 => some { d := .s, a := .s, b := .s, imm := .no, t := .none, mI := true, mW := true }  -- ADD
  | 0x003 => some { d := .s, a := .s, b := .s, imm := .no, t := .none, mI := true, mW := true }  -- SUB
  | 0x004 => some { d := .s, a := .s, b := .s, imm := .no, t := .none, mI := true, mW := true }  -- MUL
  | 0x005 => some { d := .s, a := .s, b := .s, imm := .no, t := .none, mI := true, mW := true }  -- MULH
  | 0x006 => some { d := .s, a := .s, b := .s, imm := .no, t := .none, mI := true, mW := true }  -- MULHU
  | 0x007 => some { d := .s, a := .s, b := .s, imm := .no, t := .none, mI := true, mL := true, mW := true }  -- DIV
  | 0x008 => some { d := .s, a := .s, b := .s, imm := .no, t := .none, mI := true, mL := true, mW := true }  -- DIVU
  | 0x009 => some { d := .s, a := .s, b := .s, imm := .no, t := .none, mI := true, mL := true, mW := true }  -- REM
  | 0x00A => some { d := .s, a := .s, b := .s, imm := .no, t := .none, mI := true, mL := true, mW := true }  -- REMU
  | 0x00B => some { d := .s, a := .s, b := .s, imm := .no, t := .none, mI := true }  -- AND
  | 0x00C => some { d := .s, a := .s, b := .s, imm := .no, t := .none, mI := true }  -- OR
  | 0x00D => some { d := .s, a := .s, b := .s, imm := .no, t := .none, mI := true }  -- XOR
  | 0x00E => some { d := .s, a := .s, b := .s, imm := .no, t := .none, mI := true }  -- ANDN
  | 0x00F => some { d := .s, a := .s, b := .s, imm := .no, t := .none, mI := true, mW := true }  -- SHL
  | 0x010 => some { d := .s, a := .s, b := .s, imm := .no, t := .none, mI := true, mW := true }  -- SHR
  | 0x011 => some { d := .s, a := .s, b := .s, imm := .no, t := .none, mI := true, mW := true }  -- SAR
  | 0x012 => some { d := .s, a := .s, b := .s, imm := .no, t := .none, mI := true, mW := true }  -- ROL
  | 0x013 => some { d := .s, a := .s, b := .no, imm := .no, t := .none, mW := true }  -- CLZ
  | 0x014 => some { d := .s, a := .s, b := .no, imm := .no, t := .none, mW := true }  -- CTZ
  | 0x015 => some { d := .s, a := .s, b := .no, imm := .no, t := .none, mW := true }  -- POPC
  | 0x016 => some { d := .s, a := .s, b := .s, imm := .no, t := .none, mI := true, mW := true }  -- MIN
  | 0x017 => some { d := .s, a := .s, b := .s, imm := .no, t := .none, mI := true, mW := true }  -- MAX
  | 0x018 => some { d := .s, a := .s, b := .s, imm := .no, t := .none, mI := true, mW := true }  -- MINU
  | 0x019 => some { d := .s, a := .s, b := .s, imm := .no, t := .none, mI := true, mW := true }  -- MAXU
  | 0x01A => some { d := .s, a := .s, b := .s, imm := .no, t := .none, mI := true }  -- SEL
  | 0x01B => some { d := .s, a := .no, b := .no, imm := .used, t := .none }  -- MOVI
  | 0x01C => some { d := .s, a := .s, b := .no, imm := .used, t := .none }  -- MOVHI
  | 0x01D => some { d := .s, a := .s, b := .s, imm := .no, t := .none, mI := true }  -- BEXT
  | 0x01E => some { d := .s, a := .s, b := .s, imm := .no, t := .none, mI := true }  -- BEXTU
  | 0x01F => some { d := .s, a := .s, b := .s, imm := .no, t := .none, mI := true }  -- BINS
  | 0x020 => some { d := .s, a := .s, b := .no, imm := .no, t := .none }  -- SEXT
  | 0x021 => some { d := .s, a := .s, b := .no, imm := .no, t := .none, mW := true }  -- BSWAP
  | 0x022 => some { d := .s, a := .s, b := .no, imm := .no, t := .none }  -- MOV
  | _ => none

/-- Opcodes of class 0x1 (R49). -/
def rowsControl (o : Nat) : Option Row :=
  match o with
  | 0x040 => some { d := .no, a := .no, b := .no, imm := .used, t := .none }  -- BR
  | 0x041 => some { d := .no, a := .s, b := .no, imm := .used, t := .none }  -- JMP
  | 0x042 => some { d := .s, a := .no, b := .no, imm := .used, t := .none }  -- CALL
  | 0x043 => some { d := .s, a := .s, b := .no, imm := .used, t := .none }  -- CALLR
  | 0x044 => some { d := .qd, a := .s, b := .s, imm := .no, t := .none, mI := true, mW := true }  -- CMP
  | 0x045 => some { d := .qd, a := .s, b := .s, imm := .no, t := .none, mI := true }  -- TST
  | 0x046 => some { d := .qd, a := .q, b := .q, imm := .no, t := .none }  -- PLOG
  | 0x047 => some { d := .no, a := .s, b := .no, imm := .no, t := .none }  -- PSET
  | 0x048 => some { d := .s, a := .no, b := .no, imm := .no, t := .none }  -- PGET
  | 0x049 => some { d := .s, a := .no, b := .no, imm := .used, t := .none }  -- DBNZ
  | 0x04A => some { d := .no, a := .no, b := .no, imm := .used, t := .none }  -- SYNCF
  | _ => none

/-- Opcodes of class 0x2 (R49). -/
def rowsThread (o : Nat) : Option Row :=
  match o with
  | 0x080 => some { d := .h, a := .s, b := .s, imm := .no, t := .none, mI := true }  -- START
  | 0x081 => some { d := .no, a := .s, b := .no, imm := .no, t := .none }  -- EXIT
  | 0x082 => some { d := .s, a := .no, b := .no, imm := .used, t := .none }  -- GETS
  | 0x083 => some { d := .no, a := .s, b := .no, imm := .used, t := .none }  -- SETS
  | 0x084 => some { d := .s3, a := .no, b := .no, imm := .no, t := .none }  -- TILEPOS
  | 0x085 => some { d := .no, a := .s, b := .no, imm := .used, t := .none }  -- SLEEP
  | 0x086 => some { d := .s, a := .s, b := .s, imm := .no, t := .none, mI := true }  -- MKADR
  | 0x087 => some { d := .s, a := .no, b := .no, imm := .used, t := .none }  -- SLOTRD
  | 0x088 => some { d := .s, a := .s, b := .no, imm := .no, t := .none }  -- THRST
  | _ => none

/-- Opcodes of class 0x3 (R49). -/
def rowsNumber (o : Nat) : Option Row :=
  match o with
  | 0x0C0 => some { d := .sT, a := .sT, b := .no, imm := .no, t := .all, mM := true, mS := true }  -- CVT
  | 0x0C1 => some { d := .sT, a := .sT, b := .sT, imm := .no, t := .fa, mM := true }  -- FADD
  | 0x0C2 => some { d := .sT, a := .sT, b := .sT, imm := .no, t := .fa, mM := true }  -- FSUB
  | 0x0C3 => some { d := .sT, a := .sT, b := .sT, imm := .no, t := .fa, mM := true }  -- FMUL
  | 0x0C4 => some { d := .sT, a := .sT, b := .sT, imm := .no, t := .fa, mM := true }  -- FFMA
  | 0x0C5 => some { d := .s, a := .s, b := .s, imm := .no, t := .f, mM := true, mL := true }  -- FDIV
  | 0x0C6 => some { d := .s, a := .s, b := .no, imm := .no, t := .f, mM := true, mL := true }  -- FSQRT
  | 0x0C7 => some { d := .sT, a := .sT, b := .sT, imm := .no, t := .fa }  -- FMIN
  | 0x0C8 => some { d := .sT, a := .sT, b := .sT, imm := .no, t := .fa }  -- FMAX
  | 0x0C9 => some { d := .qd, a := .sT, b := .sT, imm := .no, t := .fa }  -- FCMP
  | 0x0CA => some { d := .s, a := .sT, b := .no, imm := .no, t := .fa }  -- FCLASS
  | 0x0CB => some { d := .v, a := .v, b := .no, imm := .no, t := .lane, mM := true, mS := true }  -- VCVT
  | 0x0CC => some { d := .v, a := .v, b := .v, imm := .no, t := .narrow, mM := true, mS := true }  -- VPACK
  | 0x0CD => some { d := .v, a := .v, b := .no, imm := .no, t := .narrow }  -- VUNPK
  | _ => none

/-- Opcodes of class 0x4 (R49). -/
def rowsLane (o : Nat) : Option Row :=
  match o with
  | 0x100 => some { d := .v, a := .v, b := .v, imm := .no, t := .v, mI := true, mM := true, mS := true }  -- VADD
  | 0x101 => some { d := .v, a := .v, b := .v, imm := .no, t := .v, mI := true, mM := true, mS := true }  -- VSUB
  | 0x102 => some { d := .v, a := .v, b := .v, imm := .no, t := .v, mI := true, mM := true, mS := true }  -- VMUL
  | 0x103 => some { d := .v, a := .v, b := .v, imm := .no, t := .v, mI := true, mM := true, mS := true }  -- VFMA
  | 0x104 => some { d := .v, a := .v, b := .v, imm := .no, t := .v, mI := true, mM := true, mS := true }  -- VFMS
  | 0x105 => some { d := .v, a := .v, b := .v, imm := .no, t := .v, mI := true }  -- VMIN
  | 0x106 => some { d := .v, a := .v, b := .v, imm := .no, t := .v, mI := true }  -- VMAX
  | 0x107 => some { d := .v, a := .v, b := .no, imm := .no, t := .vs, mS := true }  -- VABS
  | 0x108 => some { d := .v, a := .v, b := .no, imm := .no, t := .vs, mS := true }  -- VNEG
  | 0x109 => some { d := .v, a := .v, b := .no, imm := .no, t := .f32, mL := true }  -- VEXP2
  | 0x10A => some { d := .v, a := .v, b := .no, imm := .no, t := .f32, mL := true }  -- VLOG2
  | 0x10B => some { d := .v, a := .v, b := .no, imm := .no, t := .f32, mL := true }  -- VRCP
  | 0x10C => some { d := .v, a := .v, b := .no, imm := .no, t := .f32, mL := true }  -- VRSQ
  | 0x10D => some { d := .kd, a := .v, b := .v, imm := .no, t := .v, mI := true }  -- VCMP
  | 0x10E => some { d := .v, a := .v, b := .v, imm := .no, t := .none }  -- VSEL
  | 0x10F => some { d := .v, a := .v, b := .v, imm := .no, t := .none, mI := true }  -- VAND
  | 0x110 => some { d := .v, a := .v, b := .v, imm := .no, t := .none, mI := true }  -- VOR
  | 0x111 => some { d := .v, a := .v, b := .v, imm := .no, t := .none, mI := true }  -- VXOR
  | 0x112 => some { d := .v, a := .v, b := .v, imm := .no, t := .none, mI := true }  -- VSHL
  | 0x113 => some { d := .v, a := .v, b := .v, imm := .no, t := .none, mI := true }  -- VSHR
  | 0x114 => some { d := .v, a := .v, b := .v, imm := .no, t := .none, mI := true }  -- VSAR
  | 0x115 => some { d := .v, a := .v, b := .no, imm := .no, t := .none }  -- VPOPC
  | 0x116 => some { d := .v, a := .v, b := .v, imm := .no, t := .dot, mI := true, mS := true }  -- VDOT4
  | 0x117 => some { d := .s, a := .v, b := .no, imm := .no, t := .v, mM := true, mS := true }  -- VSUM
  | 0x118 => some { d := .s, a := .v, b := .no, imm := .no, t := .v }  -- VMAXR
  | 0x119 => some { d := .v, a := .v, b := .s, imm := .no, t := .v, mI := true, mM := true, mS := true }  -- VFMAS
  | 0x11A => some { d := .v, a := .v, b := .s, imm := .no, t := .v, mI := true, mM := true, mS := true }  -- VSCAL
  | _ => none

/-- Opcodes of class 0x5 (R49). -/
def rowsLaneData (o : Nat) : Option Row :=
  match o with
  | 0x140 => some { d := .v, a := .v, b := .no, imm := .no, t := .none }  -- VMOV
  | 0x141 => some { d := .v, a := .s, b := .no, imm := .no, t := .none }  -- VBCAST
  | 0x142 => some { d := .s, a := .v, b := .s, imm := .no, t := .none, mI := true }  -- VGET
  | 0x143 => some { d := .v, a := .s, b := .s, imm := .no, t := .none, mI := true }  -- VPUT
  | 0x144 => some { d := .v, a := .v, b := .v, imm := .no, t := .none }  -- VPERM
  | 0x145 => some { d := .v, a := .v, b := .s, imm := .no, t := .none, mI := true }  -- VROT
  | 0x146 => some { d := .v, a := .v, b := .no, imm := .no, t := .none }  -- VCOMP
  | 0x147 => some { d := .v, a := .v, b := .no, imm := .no, t := .none }  -- VEXPD
  | 0x148 => some { d := .v, a := .no, b := .no, imm := .no, t := .none }  -- VIOTA
  | 0x149 => some { d := .kd, a := .k, b := .k, imm := .no, t := .none }  -- KOP
  | 0x14A => some { d := .s, a := .k, b := .no, imm := .no, t := .none }  -- KPOPC
  | 0x14C => some { d := .s, a := .k, b := .no, imm := .no, t := .none }  -- KFIRST
  | _ => none

/-- Opcodes of class 0x6 (R49). -/
def rowsMemory (o : Nat) : Option Row :=
  match o with
  | 0x180 => some { d := .s, a := .s, b := .s, imm := .used, t := .int, mI := true, mL := true, mX := true }  -- LD
  | 0x181 => some { d := .s, a := .s, b := .s, imm := .used, t := .int, mI := true, mX := true }  -- ST
  | 0x182 => some { d := .v, a := .s, b := .s, imm := .used, t := .memv, mI := true, mL := true, mX := true }  -- VLD
  | 0x183 => some { d := .v, a := .s, b := .s, imm := .used, t := .memv, mI := true, mX := true }  -- VST
  | 0x184 => some { d := .v, a := .s, b := .s, imm := .used, t := .memv, mL := true, mX := true }  -- VLDS
  | 0x185 => some { d := .v, a := .s, b := .s, imm := .used, t := .memv, mX := true }  -- VSTS
  | 0x186 => some { d := .v, a := .s, b := .v, imm := .used, t := .memv, mL := true, mX := true }  -- VLDX
  | 0x187 => some { d := .v, a := .s, b := .v, imm := .used, t := .memv, mX := true }  -- VSTX
  | 0x188 => some { d := .s, a := .s, b := .s, imm := .used, t := .int, mI := true, mL := true }  -- LDF
  | 0x189 => some { d := .s, a := .s, b := .s, imm := .used, t := .int, mI := true, mL := true }  -- LDP
  | 0x18A => some { d := .s, a := .s, b := .s, imm := .used, t := .int, mI := true }  -- STE
  | 0x18B => some { d := .s, a := .s, b := .s, imm := .used, t := .int, mI := true, mX := true }  -- STF
  | 0x18C => some { d := .no, a := .s, b := .s, imm := .used, t := .none }  -- FE
  | 0x18D => some { d := .s, a := .s, b := .no, imm := .no, t := .none, mL := true }  -- TLOOK
  | 0x18E => some { d := .no, a := .s, b := .s, imm := .no, t := .none }  -- TSET
  | 0x18F => some { d := .no, a := .s, b := .no, imm := .no, t := .none }  -- TINV
  | 0x190 => some { d := .no, a := .s, b := .s, imm := .used, t := .none }  -- GUARD
  | 0x191 => some { d := .no, a := .no, b := .no, imm := .no, t := .none }  -- DRAIN
  | 0x192 => some { d := .no, a := .no, b := .no, imm := .no, t := .none }  -- FENCE
  | 0x193 => some { d := .s, a := .s, b := .no, imm := .used, t := .none, mL := true }  -- XLAT
  | _ => none

/-- Opcodes of class 0x7 (R49). -/
def rowsAtomic (o : Nat) : Option Row :=
  match o with
  | 0x1C0 => some { d := .s, a := .s, b := .s, imm := .used, t := .wide, mL := true, mX := true }  -- AMO
  | 0x1C1 => some { d := .s, a := .s, b := .s, imm := .used, t := .wide, mL := true, mX := true }  -- CAS
  | 0x1C2 => some { d := .s, a := .s, b := .s, imm := .used, t := .f, mM := true, mL := true, mX := true }  -- FAMO
  | 0x1C3 => some { d := .no, a := .s, b := .s, imm := .used, t := .wide, mX := true }  -- RUPD
  | 0x1C4 => some { d := .no, a := .s, b := .s, imm := .used, t := .f, mM := true, mX := true }  -- FRUPD
  | _ => none

/-- Opcodes of class 0x8 (R49). -/
def rowsSync (o : Nat) : Option Row :=
  match o with
  | 0x200 => some { d := .no, a := .s, b := .no, imm := .used, t := .none }  -- MON
  | 0x201 => some { d := .no, a := .no, b := .no, imm := .no, t := .none }  -- MONC
  | 0x202 => some { d := .s, a := .s, b := .no, imm := .no, t := .none }  -- WAITM
  | 0x203 => some { d := .no, a := .no, b := .no, imm := .no, t := .none }  -- BAR
  | 0x204 => some { d := .s, a := .no, b := .no, imm := .no, t := .none }  -- BARA
  | 0x205 => some { d := .no, a := .no, b := .no, imm := .no, t := .none }  -- BARW
  | 0x206 => some { d := .no, a := .s, b := .no, imm := .no, t := .none }  -- BARSET
  | 0x207 => some { d := .h0, a := .s, b := .s, imm := .no, t := .none, mI := true, mX := true }  -- SEND
  | 0x208 => some { d := .s, a := .no, b := .no, imm := .no, t := .none }  -- RECV
  | 0x209 => some { d := .s, a := .s, b := .no, imm := .no, t := .none }  -- TRECV
  | 0x20A => some { d := .s, a := .no, b := .no, imm := .no, t := .none }  -- MQST
  | _ => none

/-- Opcodes of class 0x9 (R49). -/
def rowsEngine (o : Nat) : Option Row :=
  match o with
  | 0x240 => some { d := .h, a := .s, b := .s, imm := .used, t := .none, mX := true }  -- COPY
  | 0x241 => some { d := .h, a := .s, b := .s, imm := .used, t := .none, mX := true }  -- COPY2
  | 0x242 => some { d := .h, a := .s, b := .no, imm := .no, t := .none, mX := true }  -- GATH
  | 0x243 => some { d := .h, a := .s, b := .no, imm := .no, t := .none, mX := true }  -- SCAT
  | 0x244 => some { d := .s, a := .h, b := .no, imm := .no, t := .none }  -- HVAL
  | 0x245 => some { d := .qd, a := .h, b := .no, imm := .no, t := .none }  -- HTEST
  | 0x246 => some { d := .no, a := .h, b := .no, imm := .no, t := .none }  -- HCANCEL
  | 0x247 => some { d := .s, a := .h, b := .no, imm := .no, t := .none }  -- HPASS
  | 0x248 => some { d := .h, a := .s, b := .no, imm := .no, t := .none }  -- HADOPT
  | _ => none

/-- Opcodes of class 0xA (R49). -/
def rowsSpan (o : Nat) : Option Row :=
  match o with
  | 0x280 => some { d := .h, a := .s, b := .s, imm := .no, t := .span }  -- SOPEN
  | 0x281 => some { d := .h, a := .s, b := .s, imm := .no, t := .span }  -- SJOIN
  | 0x282 => some { d := .no, a := .s, b := .s, imm := .used, t := .none }  -- SFEED
  | 0x283 => some { d := .no, a := .s, b := .s, imm := .no, t := .none }  -- SSCALE
  | 0x284 => some { d := .no, a := .s, b := .s, imm := .used, t := .out, mM := true, mS := true }  -- SCLOSE
  | 0x285 => some { d := .no, a := .no, b := .no, imm := .no, t := .none }  -- SABORT
  | 0x286 => some { d := .s, a := .s, b := .no, imm := .no, t := .none }  -- SSTAT
  | 0x287 => some { d := .no, a := .no, b := .no, imm := .no, t := .none }  -- SROUND
  | _ => none

/-- Opcodes of class 0xB (R49). -/
def rowsPrompter (o : Nat) : Option Row :=
  match o with
  | 0x2C0 => some { d := .no, a := .s, b := .no, imm := .no, t := .none }  -- PCFG
  | 0x2C1 => some { d := .h, a := .s, b := .s, imm := .no, t := .none }  -- PPLAN
  | 0x2C2 => some { d := .h, a := .s, b := .no, imm := .no, t := .none }  -- PFETCH
  | 0x2C3 => some { d := .s, a := .no, b := .no, imm := .used, t := .none }  -- PSTAT
  | _ => none

/-- Opcodes of class 0xC (R49). -/
def rowsDd (o : Nat) : Option Row :=
  match o with
  | 0x300 => some { d := .no, a := .s, b := .no, imm := .no, t := .none }  -- DDCFG
  | 0x301 => some { d := .no, a := .s, b := .s, imm := .no, t := .none }  -- DDORD
  | 0x302 => some { d := .no, a := .s, b := .s, imm := .no, t := .none }  -- DDWSET
  | 0x303 => some { d := .h, a := .s, b := .s, imm := .used, t := .none }  -- DDMK
  | 0x304 => some { d := .h, a := .s, b := .s, imm := .no, t := .none }  -- DDAPPLY
  | 0x305 => some { d := .h, a := .s2, b := .s, imm := .no, t := .none }  -- DDITE
  | 0x306 => some { d := .h, a := .s, b := .s, imm := .no, t := .none }  -- DDRESTR
  | 0x307 => some { d := .h, a := .s, b := .s, imm := .no, t := .none }  -- DDEXIST
  | 0x308 => some { d := .h, a := .s, b := .no, imm := .no, t := .none }  -- DDCOUNT
  | 0x309 => some { d := .h, a := .s, b := .no, imm := .no, t := .none }  -- DDWCOUNT
  | 0x30A => some { d := .no, a := .s, b := .no, imm := .no, t := .none }  -- DDREF
  | 0x30B => some { d := .no, a := .s, b := .no, imm := .no, t := .none }  -- DDEREF
  | 0x30C => some { d := .h, a := .no, b := .no, imm := .no, t := .none }  -- DDGC
  | 0x30D => some { d := .s2, a := .s, b := .no, imm := .no, t := .none }  -- DDNODE
  | 0x30E => some { d := .s, a := .no, b := .no, imm := .used, t := .none }  -- DDSTAT
  | _ => none

/-- Opcodes of class 0xD (R49). -/
def rowsCast (o : Nat) : Option Row :=
  match o with
  | 0x340 => some { d := .no, a := .s, b := .s, imm := .no, t := .none }  -- RSEND
  | 0x341 => some { d := .s, a := .s, b := .no, imm := .no, t := .none }  -- RRECV
  | 0x342 => some { d := .no, a := .s, b := .s, imm := .no, t := .none }  -- CBIND_OFFER
  | 0x343 => some { d := .s, a := .s, b := .no, imm := .no, t := .none }  -- CGET
  | 0x344 => some { d := .no, a := .s, b := .s, imm := .no, t := .none }  -- CSET
  | 0x345 => some { d := .no, a := .s, b := .no, imm := .no, t := .none }  -- CUE
  | 0x346 => some { d := .s, a := .s, b := .no, imm := .no, t := .none }  -- CUETAKE
  | 0x347 => some { d := .h, a := .s, b := .s, imm := .no, t := .none }  -- STHAND
  | 0x348 => some { d := .h, a := .s, b := .no, imm := .no, t := .none }  -- STTAKE
  | _ => none

/-- Opcodes of class 0xE (R49). -/
def rowsReduce (o : Nat) : Option Row :=
  match o with
  | 0x380 => some { d := .no, a := .s, b := .no, imm := .no, t := .none }  -- REDCFG
  | 0x381 => some { d := .h, a := .v, b := .s, imm := .no, t := .v, mM := true, mS := true }  -- REDV
  | 0x382 => some { d := .h, a := .s, b := .s, imm := .no, t := .rs, mM := true, mS := true }  -- REDS
  | 0x383 => some { d := .h, a := .v, b := .s, imm := .no, t := .none }  -- BCASTV
  | _ => none

/-- Opcodes of class 0xF (R49). -/
def rowsSystem (o : Nat) : Option Row :=
  match o with
  | 0x3C0 => some { d := .no, a := .no, b := .no, imm := .used, t := .none }  -- TRAP
  | 0x3C1 => some { d := .no, a := .no, b := .no, imm := .no, t := .none }  -- TFENCE
  | 0x3C2 => some { d := .no, a := .no, b := .no, imm := .no, t := .none }  -- RFE
  | 0x3C3 => some { d := .no, a := .no, b := .no, imm := .used, t := .none }  -- BRK
  | 0x3C4 => some { d := .s, a := .no, b := .no, imm := .no, t := .none }  -- TQPOP
  | 0x3C5 => some { d := .s, a := .no, b := .no, imm := .no, t := .none }  -- SFQPOP
  | 0x3C6 => some { d := .no, a := .s, b := .s, imm := .no, t := .none }  -- TLBINV
  | 0x3C7 => some { d := .no, a := .s, b := .s, imm := .no, t := .none }  -- SLOTWR
  | 0x3C8 => some { d := .no, a := .s, b := .s, imm := .no, t := .none }  -- MAPWR
  | 0x3C9 => some { d := .h, a := .s, b := .no, imm := .no, t := .none }  -- VACATE
  | 0x3CA => some { d := .h, a := .s, b := .no, imm := .no, t := .none }  -- RESUME
  | 0x3CB => some { d := .no, a := .s, b := .no, imm := .no, t := .none }  -- TSUSP
  | 0x3CC => some { d := .no, a := .s, b := .no, imm := .no, t := .none }  -- TRESM
  | 0x3CD => some { d := .no, a := .s, b := .no, imm := .no, t := .none }  -- HALT
  | _ => none

/-- The row of a word (R49); `kmov`'s operand kinds follow MD (R45). -/
def rowOf (f : Fields) : Option Row :=
  let o := f.opc.toNat
  match f.opc.toNat / 64 with
  | 0 => rowsScalar o
  | 1 => rowsControl o
  | 2 => rowsThread o
  | 3 => rowsNumber o
  | 4 => rowsLane o
  | 5 =>
    if o = 0x14B then
      if f.md = 0 then some { d := .kd, a := .s, b := .no, imm := .no, t := .none, mW := true }
      else some { d := .s, a := .k, b := .no, imm := .no, t := .none, mW := true }
    else rowsLaneData o
  | 6 => rowsMemory o
  | 7 => rowsAtomic o
  | 8 => rowsSync o
  | 9 => rowsEngine o
  | 10 => rowsSpan o
  | 11 => rowsPrompter o
  | 12 => rowsDd o
  | 13 => rowsCast o
  | 14 => rowsReduce o
  | _ => rowsSystem o

/-! ### What is not an instruction (R51) -/

/-- Case 9: FN holds only what the opcode's chapter assigns. DEDUCED (log 64): `vcmp` with
condition un or or is case 9 for every T but f32, R170 naming an integer T. -/
def fnOk (f : Fields) : Bool :=
  match f.opc.toNat with
  | 0x01A | 0x0C9 | 0x100 | 0x101 | 0x102 | 0x103 | 0x104 | 0x105 | 0x106 | 0x107 | 0x108 | 0x109 | 0x10A | 0x10B | 0x10C | 0x10E | 0x10F | 0x110 | 0x111 | 0x112 | 0x113 | 0x114 | 0x115 | 0x116 | 0x117 | 0x118 | 0x119 | 0x11A | 0x140 | 0x141 | 0x144 | 0x145 | 0x146 | 0x147 | 0x148 | 0x383 | 0x3C5 =>
    f.fn &&& 0xFF8 == 0
  | 0x01D | 0x01E | 0x01F =>
    true
  | 0x020 | 0x086 | 0x1C2 | 0x1C4 =>
    f.fn &&& 0xFFC == 0 && (fnSub f 0 2 != 3)
  | 0x044 =>
    f.fn &&& 0xFF0 == 0 && decide (fnSub f 0 4 < 10)
  | 0x045 | 0x142 | 0x18C | 0x190 | 0x202 | 0x20A | 0x342 =>
    f.fn &&& 0xFFE == 0
  | 0x046 | 0x0C0 | 0x0CB | 0x149 | 0x203 | 0x204 | 0x205 | 0x206 | 0x285 | 0x304 =>
    f.fn &&& 0xFF0 == 0
  | 0x047 =>
    f.fn &&& 0xF01 == 0
  | 0x080 =>
    f.fn &&& 0xFE0 == 0 && ((f.fn.getLsbD 4) == (fnSub f 0 4 != 0))
  | 0x0CD =>
    f.fn &&& 0xFFC == 0 && !(f.fn.getLsbD 1 && (f.t == 2 || f.t == 3 || f.t == 0xA || f.t == 0xB))
  | 0x10D =>
    f.fn &&& 0xFC0 == 0 && !(decide (6 ≤ fnSub f 3 3) && f.t != 0xC)
  | 0x180 | 0x181 | 0x188 | 0x189 | 0x18A | 0x18B =>
    f.fn &&& 0xFF8 == 0 && (!f.i || fnSub f 0 3 == 0)
  | 0x182 | 0x183 =>
    f.fn &&& 0x008 == 0 && decide (1 ≤ fnSub f 4 8) && decide (fnSub f 4 8 ≤ 64) && (!f.i || fnSub f 0 3 == 0)
  | 0x184 | 0x185 =>
    f.fn &&& 0x00F == 0 && decide (1 ≤ fnSub f 4 8) && decide (fnSub f 4 8 ≤ 64)
  | 0x186 | 0x187 =>
    f.fn &&& 0x008 == 0 && decide (1 ≤ fnSub f 4 8) && decide (fnSub f 4 8 ≤ 64)
  | 0x18D | 0x18E =>
    f.fn &&& 0xFE0 == 0 && gsOk f
  | 0x18F =>
    f.fn &&& 0xFC0 == 0 && (if f.fn.getLsbD 5 then fnSub f 0 5 == 0 && f.a == 0 else gsOk f)
  | 0x192 =>
    f.fn &&& 0xFF8 == 0 && decide (fnSub f 0 3 < 5)
  | 0x1C0 =>
    f.fn &&& 0xFF0 == 0 && decide (fnSub f 0 4 < 9)
  | 0x1C3 =>
    f.fn &&& 0xFF0 == 0 && decide (fnSub f 0 4 < 8)
  | 0x200 | 0x244 | 0x282 | 0x283 | 0x3C4 =>
    f.fn &&& 0xFFC == 0
  | 0x209 =>
    f.fn &&& 0xFF8 == 0 && (fnSub f 0 3 != 0)
  | 0x280 =>
    f.fn &&& 0xF80 == 0 && (!f.fn.getLsbD 4 || f.t == 8 || f.t == 9) && (!f.fn.getLsbD 6 || f.t == 0xF)
  | 0x281 =>
    f.fn &&& 0xFEC == 0 && (!f.fn.getLsbD 4 || f.t == 8 || f.t == 9)
  | 0x284 =>
    f.fn &&& 0xFE0 == 0 && (f.fn.getLsbD 4 || fnSub f 2 2 == 0)
  | 0x2C2 =>
    f.fn &&& 0xFF8 == 0 && (fnSub f 1 2 != 0)
  | 0x381 | 0x382 =>
    f.fn &&& 0xFE0 == 0 && (fnSub f 3 2 != 3)
  | _ => f.fn == 0

/-- Case 13: the limits of R50 on RM and SAT. -/
def rmSatOk (f : Fields) : Bool :=
  match f.opc.toNat with
  | 0x0C0 | 0x0CB =>
    (f.rm == 0 || convRm (Ty.ofCode f.t) (Ty.ofCode (f.fn.extractLsb' 0 4))) && (!f.sat || convSat (Ty.ofCode f.t) (Ty.ofCode (f.fn.extractLsb' 0 4)))
  | 0x0CC =>
    (f.rm == 0 || convRm (Ty.ofCode f.t) (packSrc (Ty.ofCode f.t))) && (!f.sat || convSat (Ty.ofCode f.t) (packSrc (Ty.ofCode f.t)))
  | 0x100 | 0x101 | 0x102 | 0x103 | 0x104 | 0x117 | 0x119 | 0x11A =>
    (f.rm == 0 || f.t == 0xC) && (!f.sat || f.t != 0xC)
  | 0x107 | 0x108 =>
    (!f.sat || f.t != 0xC)
  | 0x284 =>
    (f.rm == 0 || f.t != 4 && f.t != 0xE) && (!f.sat || f.t != 0xE)
  | 0x381 | 0x382 =>
    (f.rm == 0 || f.t == 0xC || f.t == 0xD)
  | _ => true

/-- Cases 2 to 9 of R51: the word is refused with IL_RSV. -/
def rsvOk (r : Row) (f : Fields) : Bool :=
  !f.rsv && !(f.gn && f.gp == 0) &&
  (r.d != .no || f.d == 0) && (r.a != .no || f.a == 0) && (r.b != .no || f.b == 0) && (!f.i || f.b == 0) &&
  (r.imm != .no || f.i || f.imm == 0) &&
  (r.mI || !f.i) && (r.mS || !f.sat) && (r.mL || f.la == 0) && (r.mX || !f.rx) && (r.mM || f.rm == 0) &&
  (r.mW || f.md == 0) && !f.md.getLsbD 1 && (r.t != .none || f.t == 0) && fnOk f

/-- The D of an s* row is a pair when T is a80. -/
def pairD (f : Fields) : Bool := f.t == 0xE

/-- The A and B of an s* row are pairs when T is a80, or in `cvt` when the source type is (R49). -/
def pairA (f : Fields) : Bool := if f.opc = 0x0C0 then fnSub f 0 4 == 0xE else f.t == 0xE

/-- Cases 10 to 13 of R51: the word is refused with IL_OPND. -/
def opndOk (r : Row) (f : Fields) : Bool :=
  r.d.ok (pairD f) f.d && r.a.ok (pairA f) f.a && (f.i || r.b.ok (pairA f) f.b) &&
  r.t.has (Ty.ofCode f.t) &&
  (if f.opc = 0x0C0 ∨ f.opc = 0x0CB then r.t.has (Ty.ofCode (f.fn.extractLsb' 0 4)) else true) &&
  (!r.mM || decide (f.rm.toNat < 5)) && rmSatOk f

/-- The instruction of a legal word of class 0x0. -/
def buildScalar (f : Fields) : Instr :=
  match f.opc.toNat with
  | 0x001 => .nop ⟨f.gn, f.gp⟩
  | 0x002 => .add ⟨f.gn, f.gp⟩ (f.md.getLsbD 0) f.d f.a (if f.i then .imm f.imm else .reg f.b)
  | 0x003 => .sub ⟨f.gn, f.gp⟩ (f.md.getLsbD 0) f.d f.a (if f.i then .imm f.imm else .reg f.b)
  | 0x004 => .mul ⟨f.gn, f.gp⟩ (f.md.getLsbD 0) f.d f.a (if f.i then .imm f.imm else .reg f.b)
  | 0x005 => .mulh ⟨f.gn, f.gp⟩ (f.md.getLsbD 0) f.d f.a (if f.i then .imm f.imm else .reg f.b)
  | 0x006 => .mulhu ⟨f.gn, f.gp⟩ (f.md.getLsbD 0) f.d f.a (if f.i then .imm f.imm else .reg f.b)
  | 0x007 => .div ⟨f.gn, f.gp⟩ (f.md.getLsbD 0) f.la f.d f.a (if f.i then .imm f.imm else .reg f.b)
  | 0x008 => .divu ⟨f.gn, f.gp⟩ (f.md.getLsbD 0) f.la f.d f.a (if f.i then .imm f.imm else .reg f.b)
  | 0x009 => .rem ⟨f.gn, f.gp⟩ (f.md.getLsbD 0) f.la f.d f.a (if f.i then .imm f.imm else .reg f.b)
  | 0x00A => .remu ⟨f.gn, f.gp⟩ (f.md.getLsbD 0) f.la f.d f.a (if f.i then .imm f.imm else .reg f.b)
  | 0x00B => .and ⟨f.gn, f.gp⟩ f.d f.a (if f.i then .imm f.imm else .reg f.b)
  | 0x00C => .or ⟨f.gn, f.gp⟩ f.d f.a (if f.i then .imm f.imm else .reg f.b)
  | 0x00D => .xor ⟨f.gn, f.gp⟩ f.d f.a (if f.i then .imm f.imm else .reg f.b)
  | 0x00E => .andn ⟨f.gn, f.gp⟩ f.d f.a (if f.i then .imm f.imm else .reg f.b)
  | 0x00F => .shl ⟨f.gn, f.gp⟩ (f.md.getLsbD 0) f.d f.a (if f.i then .imm f.imm else .reg f.b)
  | 0x010 => .shr ⟨f.gn, f.gp⟩ (f.md.getLsbD 0) f.d f.a (if f.i then .imm f.imm else .reg f.b)
  | 0x011 => .sar ⟨f.gn, f.gp⟩ (f.md.getLsbD 0) f.d f.a (if f.i then .imm f.imm else .reg f.b)
  | 0x012 => .rol ⟨f.gn, f.gp⟩ (f.md.getLsbD 0) f.d f.a (if f.i then .imm f.imm else .reg f.b)
  | 0x013 => .clz ⟨f.gn, f.gp⟩ (f.md.getLsbD 0) f.d f.a
  | 0x014 => .ctz ⟨f.gn, f.gp⟩ (f.md.getLsbD 0) f.d f.a
  | 0x015 => .popc ⟨f.gn, f.gp⟩ (f.md.getLsbD 0) f.d f.a
  | 0x016 => .min ⟨f.gn, f.gp⟩ (f.md.getLsbD 0) f.d f.a (if f.i then .imm f.imm else .reg f.b)
  | 0x017 => .max ⟨f.gn, f.gp⟩ (f.md.getLsbD 0) f.d f.a (if f.i then .imm f.imm else .reg f.b)
  | 0x018 => .minu ⟨f.gn, f.gp⟩ (f.md.getLsbD 0) f.d f.a (if f.i then .imm f.imm else .reg f.b)
  | 0x019 => .maxu ⟨f.gn, f.gp⟩ (f.md.getLsbD 0) f.d f.a (if f.i then .imm f.imm else .reg f.b)
  | 0x01A => .sel ⟨f.gn, f.gp⟩ (f.fn.extractLsb' 0 3) f.d f.a (if f.i then .imm f.imm else .reg f.b)
  | 0x01B => .movi ⟨f.gn, f.gp⟩ f.d f.imm
  | 0x01C => .movhi ⟨f.gn, f.gp⟩ f.d f.a f.imm
  | 0x01D => .bext ⟨f.gn, f.gp⟩ (f.fn.extractLsb' 0 6) (f.fn.extractLsb' 6 6) f.d f.a (if f.i then .imm f.imm else .reg f.b)
  | 0x01E => .bextu ⟨f.gn, f.gp⟩ (f.fn.extractLsb' 0 6) (f.fn.extractLsb' 6 6) f.d f.a (if f.i then .imm f.imm else .reg f.b)
  | 0x01F => .bins ⟨f.gn, f.gp⟩ (f.fn.extractLsb' 0 6) (f.fn.extractLsb' 6 6) f.d f.a (if f.i then .imm f.imm else .reg f.b)
  | 0x020 => .sext ⟨f.gn, f.gp⟩ (Wd.ofCode (f.fn.extractLsb' 0 2)) f.d f.a
  | 0x021 => .bswap ⟨f.gn, f.gp⟩ (f.md.getLsbD 0) f.d f.a
  | 0x022 => .mov ⟨f.gn, f.gp⟩ f.d f.a
  | _ => .illegalInstruction .ilOpc

/-- The instruction of a legal word of class 0x1. -/
def buildControl (f : Fields) : Instr :=
  match f.opc.toNat with
  | 0x040 => .br ⟨f.gn, f.gp⟩ f.imm
  | 0x041 => .jmp ⟨f.gn, f.gp⟩ f.a f.imm
  | 0x042 => .call ⟨f.gn, f.gp⟩ f.d f.imm
  | 0x043 => .callr ⟨f.gn, f.gp⟩ f.d f.a f.imm
  | 0x044 => .cmp ⟨f.gn, f.gp⟩ (f.md.getLsbD 0) (ICond.ofCode (f.fn.extractLsb' 0 4)) (f.d.extractLsb' 0 3) f.a (if f.i then .imm f.imm else .reg f.b)
  | 0x045 => .tst ⟨f.gn, f.gp⟩ (f.fn.getLsbD 0) (f.d.extractLsb' 0 3) f.a (if f.i then .imm f.imm else .reg f.b)
  | 0x046 => .plog ⟨f.gn, f.gp⟩ (f.fn.extractLsb' 0 4) (f.d.extractLsb' 0 3) (f.a.extractLsb' 0 3) (f.b.extractLsb' 0 3)
  | 0x047 => .pset ⟨f.gn, f.gp⟩ (f.fn.extractLsb' 1 7) f.a
  | 0x048 => .pget ⟨f.gn, f.gp⟩ f.d
  | 0x049 => .dbnz ⟨f.gn, f.gp⟩ f.d f.imm
  | 0x04A => .syncf ⟨f.gn, f.gp⟩ f.imm
  | _ => .illegalInstruction .ilOpc

/-- The instruction of a legal word of class 0x2. -/
def buildThread (f : Fields) : Instr :=
  match f.opc.toNat with
  | 0x080 => .start ⟨f.gn, f.gp⟩ (f.fn.extractLsb' 0 4) (f.d.extractLsb' 0 6) f.a (if f.i then .imm f.imm else .reg f.b)
  | 0x081 => .exit ⟨f.gn, f.gp⟩ f.a
  | 0x082 => .gets ⟨f.gn, f.gp⟩ f.d f.imm
  | 0x083 => .sets ⟨f.gn, f.gp⟩ f.a f.imm
  | 0x084 => .tilepos ⟨f.gn, f.gp⟩ f.d
  | 0x085 => .sleep ⟨f.gn, f.gp⟩ f.a f.imm
  | 0x086 => .mkadr ⟨f.gn, f.gp⟩ (AdrForm.ofCode (f.fn.extractLsb' 0 2)) f.d f.a (if f.i then .imm f.imm else .reg f.b)
  | 0x087 => .slotrd ⟨f.gn, f.gp⟩ f.d f.imm
  | 0x088 => .thrst ⟨f.gn, f.gp⟩ f.d f.a
  | _ => .illegalInstruction .ilOpc

/-- The instruction of a legal word of class 0x3. -/
def buildNumber (f : Fields) : Instr :=
  match f.opc.toNat with
  | 0x0C0 => .cvt ⟨f.gn, f.gp⟩ (Ty.ofCode f.t) (Rm.ofCode f.rm) f.sat (Ty.ofCode (f.fn.extractLsb' 0 4)) f.d f.a
  | 0x0C1 => .fadd ⟨f.gn, f.gp⟩ (Ty.ofCode f.t) (Rm.ofCode f.rm) f.d f.a f.b
  | 0x0C2 => .fsub ⟨f.gn, f.gp⟩ (Ty.ofCode f.t) (Rm.ofCode f.rm) f.d f.a f.b
  | 0x0C3 => .fmul ⟨f.gn, f.gp⟩ (Ty.ofCode f.t) (Rm.ofCode f.rm) f.d f.a f.b
  | 0x0C4 => .ffma ⟨f.gn, f.gp⟩ (Ty.ofCode f.t) (Rm.ofCode f.rm) f.d f.a f.b
  | 0x0C5 => .fdiv ⟨f.gn, f.gp⟩ f.la (Ty.ofCode f.t) (Rm.ofCode f.rm) f.d f.a f.b
  | 0x0C6 => .fsqrt ⟨f.gn, f.gp⟩ f.la (Ty.ofCode f.t) (Rm.ofCode f.rm) f.d f.a
  | 0x0C7 => .fmin ⟨f.gn, f.gp⟩ (Ty.ofCode f.t) f.d f.a f.b
  | 0x0C8 => .fmax ⟨f.gn, f.gp⟩ (Ty.ofCode f.t) f.d f.a f.b
  | 0x0C9 => .fcmp ⟨f.gn, f.gp⟩ (Ty.ofCode f.t) (FCond.ofCode (f.fn.extractLsb' 0 3)) (f.d.extractLsb' 0 3) f.a f.b
  | 0x0CA => .fclass ⟨f.gn, f.gp⟩ (Ty.ofCode f.t) f.d f.a
  | 0x0CB => .vcvt ⟨f.gn, f.gp⟩ (Ty.ofCode f.t) (Rm.ofCode f.rm) f.sat (Ty.ofCode (f.fn.extractLsb' 0 4)) (vOf f.d) (vOf f.a)
  | 0x0CC => .vpack ⟨f.gn, f.gp⟩ (Ty.ofCode f.t) (Rm.ofCode f.rm) f.sat (vOf f.d) (vOf f.a) (vOf f.b)
  | 0x0CD => .vunpk ⟨f.gn, f.gp⟩ (Ty.ofCode f.t) (f.fn.extractLsb' 0 2) (vOf f.d) (vOf f.a)
  | _ => .illegalInstruction .ilOpc

/-- The instruction of a legal word of class 0x4. -/
def buildLane (f : Fields) : Instr :=
  match f.opc.toNat with
  | 0x100 => .vadd ⟨f.gn, f.gp⟩ (Ty.ofCode f.t) (Rm.ofCode f.rm) f.sat (f.fn.extractLsb' 0 3) (vOf f.d) (vOf f.a) (if f.i then .imm f.imm else .reg (vOf f.b))
  | 0x101 => .vsub ⟨f.gn, f.gp⟩ (Ty.ofCode f.t) (Rm.ofCode f.rm) f.sat (f.fn.extractLsb' 0 3) (vOf f.d) (vOf f.a) (if f.i then .imm f.imm else .reg (vOf f.b))
  | 0x102 => .vmul ⟨f.gn, f.gp⟩ (Ty.ofCode f.t) (Rm.ofCode f.rm) f.sat (f.fn.extractLsb' 0 3) (vOf f.d) (vOf f.a) (if f.i then .imm f.imm else .reg (vOf f.b))
  | 0x103 => .vfma ⟨f.gn, f.gp⟩ (Ty.ofCode f.t) (Rm.ofCode f.rm) f.sat (f.fn.extractLsb' 0 3) (vOf f.d) (vOf f.a) (if f.i then .imm f.imm else .reg (vOf f.b))
  | 0x104 => .vfms ⟨f.gn, f.gp⟩ (Ty.ofCode f.t) (Rm.ofCode f.rm) f.sat (f.fn.extractLsb' 0 3) (vOf f.d) (vOf f.a) (if f.i then .imm f.imm else .reg (vOf f.b))
  | 0x105 => .vmin ⟨f.gn, f.gp⟩ (Ty.ofCode f.t) (f.fn.extractLsb' 0 3) (vOf f.d) (vOf f.a) (if f.i then .imm f.imm else .reg (vOf f.b))
  | 0x106 => .vmax ⟨f.gn, f.gp⟩ (Ty.ofCode f.t) (f.fn.extractLsb' 0 3) (vOf f.d) (vOf f.a) (if f.i then .imm f.imm else .reg (vOf f.b))
  | 0x107 => .vabs ⟨f.gn, f.gp⟩ (Ty.ofCode f.t) f.sat (f.fn.extractLsb' 0 3) (vOf f.d) (vOf f.a)
  | 0x108 => .vneg ⟨f.gn, f.gp⟩ (Ty.ofCode f.t) f.sat (f.fn.extractLsb' 0 3) (vOf f.d) (vOf f.a)
  | 0x109 => .vexp2 ⟨f.gn, f.gp⟩ f.la (f.fn.extractLsb' 0 3) (vOf f.d) (vOf f.a)
  | 0x10A => .vlog2 ⟨f.gn, f.gp⟩ f.la (f.fn.extractLsb' 0 3) (vOf f.d) (vOf f.a)
  | 0x10B => .vrcp ⟨f.gn, f.gp⟩ f.la (f.fn.extractLsb' 0 3) (vOf f.d) (vOf f.a)
  | 0x10C => .vrsq ⟨f.gn, f.gp⟩ f.la (f.fn.extractLsb' 0 3) (vOf f.d) (vOf f.a)
  | 0x10D => .vcmp ⟨f.gn, f.gp⟩ (Ty.ofCode f.t) (f.fn.extractLsb' 0 3) (FCond.ofCode (f.fn.extractLsb' 3 3)) (f.d.extractLsb' 0 3) (vOf f.a) (if f.i then .imm f.imm else .reg (vOf f.b))
  | 0x10E => .vsel ⟨f.gn, f.gp⟩ (f.fn.extractLsb' 0 3) (vOf f.d) (vOf f.a) (vOf f.b)
  | 0x10F => .vand ⟨f.gn, f.gp⟩ (f.fn.extractLsb' 0 3) (vOf f.d) (vOf f.a) (if f.i then .imm f.imm else .reg (vOf f.b))
  | 0x110 => .vor ⟨f.gn, f.gp⟩ (f.fn.extractLsb' 0 3) (vOf f.d) (vOf f.a) (if f.i then .imm f.imm else .reg (vOf f.b))
  | 0x111 => .vxor ⟨f.gn, f.gp⟩ (f.fn.extractLsb' 0 3) (vOf f.d) (vOf f.a) (if f.i then .imm f.imm else .reg (vOf f.b))
  | 0x112 => .vshl ⟨f.gn, f.gp⟩ (f.fn.extractLsb' 0 3) (vOf f.d) (vOf f.a) (if f.i then .imm f.imm else .reg (vOf f.b))
  | 0x113 => .vshr ⟨f.gn, f.gp⟩ (f.fn.extractLsb' 0 3) (vOf f.d) (vOf f.a) (if f.i then .imm f.imm else .reg (vOf f.b))
  | 0x114 => .vsar ⟨f.gn, f.gp⟩ (f.fn.extractLsb' 0 3) (vOf f.d) (vOf f.a) (if f.i then .imm f.imm else .reg (vOf f.b))
  | 0x115 => .vpopc ⟨f.gn, f.gp⟩ (f.fn.extractLsb' 0 3) (vOf f.d) (vOf f.a)
  | 0x116 => .vdot4 ⟨f.gn, f.gp⟩ (Ty.ofCode f.t) f.sat (f.fn.extractLsb' 0 3) (vOf f.d) (vOf f.a) (if f.i then .imm f.imm else .reg (vOf f.b))
  | 0x117 => .vsum ⟨f.gn, f.gp⟩ (Ty.ofCode f.t) (Rm.ofCode f.rm) f.sat (f.fn.extractLsb' 0 3) f.d (vOf f.a)
  | 0x118 => .vmaxr ⟨f.gn, f.gp⟩ (Ty.ofCode f.t) (f.fn.extractLsb' 0 3) f.d (vOf f.a)
  | 0x119 => .vfmas ⟨f.gn, f.gp⟩ (Ty.ofCode f.t) (Rm.ofCode f.rm) f.sat (f.fn.extractLsb' 0 3) (vOf f.d) (vOf f.a) (if f.i then .imm f.imm else .reg f.b)
  | 0x11A => .vscal ⟨f.gn, f.gp⟩ (Ty.ofCode f.t) (Rm.ofCode f.rm) f.sat (f.fn.extractLsb' 0 3) (vOf f.d) (vOf f.a) (if f.i then .imm f.imm else .reg f.b)
  | _ => .illegalInstruction .ilOpc

/-- The instruction of a legal word of class 0x5. -/
def buildLaneData (f : Fields) : Instr :=
  match f.opc.toNat with
  | 0x140 => .vmov ⟨f.gn, f.gp⟩ (f.fn.extractLsb' 0 3) (vOf f.d) (vOf f.a)
  | 0x141 => .vbcast ⟨f.gn, f.gp⟩ (f.fn.extractLsb' 0 3) (vOf f.d) f.a
  | 0x142 => .vget ⟨f.gn, f.gp⟩ (f.fn.getLsbD 0) f.d (vOf f.a) (if f.i then .imm f.imm else .reg f.b)
  | 0x143 => .vput ⟨f.gn, f.gp⟩ (vOf f.d) f.a (if f.i then .imm f.imm else .reg f.b)
  | 0x144 => .vperm ⟨f.gn, f.gp⟩ (f.fn.extractLsb' 0 3) (vOf f.d) (vOf f.a) (vOf f.b)
  | 0x145 => .vrot ⟨f.gn, f.gp⟩ (f.fn.extractLsb' 0 3) (vOf f.d) (vOf f.a) (if f.i then .imm f.imm else .reg f.b)
  | 0x146 => .vcomp ⟨f.gn, f.gp⟩ (f.fn.extractLsb' 0 3) (vOf f.d) (vOf f.a)
  | 0x147 => .vexpd ⟨f.gn, f.gp⟩ (f.fn.extractLsb' 0 3) (vOf f.d) (vOf f.a)
  | 0x148 => .viota ⟨f.gn, f.gp⟩ (f.fn.extractLsb' 0 3) (vOf f.d)
  | 0x149 => .kop ⟨f.gn, f.gp⟩ (f.fn.extractLsb' 0 4) (f.d.extractLsb' 0 3) (f.a.extractLsb' 0 3) (f.b.extractLsb' 0 3)
  | 0x14A => .kpopc ⟨f.gn, f.gp⟩ f.d (f.a.extractLsb' 0 3)
  | 0x14B => if f.md.getLsbD 0 then .kmovFromMask ⟨f.gn, f.gp⟩ f.d (f.a.extractLsb' 0 3) else .kmovToMask ⟨f.gn, f.gp⟩ (f.d.extractLsb' 0 3) f.a
  | 0x14C => .kfirst ⟨f.gn, f.gp⟩ f.d (f.a.extractLsb' 0 3)
  | _ => .illegalInstruction .ilOpc

/-- The instruction of a legal word of class 0x6. -/
def buildMemory (f : Fields) : Instr :=
  match f.opc.toNat with
  | 0x180 => .ld ⟨f.gn, f.gp⟩ f.la f.rx (Ty.ofCode f.t) f.d f.a (if f.i then .none else .reg f.b (f.fn.extractLsb' 0 3)) f.imm
  | 0x181 => .st ⟨f.gn, f.gp⟩ f.rx (Ty.ofCode f.t) f.d f.a (if f.i then .none else .reg f.b (f.fn.extractLsb' 0 3)) f.imm
  | 0x182 => .vld ⟨f.gn, f.gp⟩ f.la f.rx (Ty.ofCode f.t) (f.fn.extractLsb' 4 8) (vOf f.d) f.a (if f.i then .none else .reg f.b (f.fn.extractLsb' 0 3)) f.imm
  | 0x183 => .vst ⟨f.gn, f.gp⟩ f.rx (Ty.ofCode f.t) (f.fn.extractLsb' 4 8) (vOf f.d) f.a (if f.i then .none else .reg f.b (f.fn.extractLsb' 0 3)) f.imm
  | 0x184 => .vlds ⟨f.gn, f.gp⟩ f.la f.rx (Ty.ofCode f.t) (f.fn.extractLsb' 4 8) (vOf f.d) f.a f.b f.imm
  | 0x185 => .vsts ⟨f.gn, f.gp⟩ f.rx (Ty.ofCode f.t) (f.fn.extractLsb' 4 8) (vOf f.d) f.a f.b f.imm
  | 0x186 => .vldx ⟨f.gn, f.gp⟩ f.la f.rx (Ty.ofCode f.t) (f.fn.extractLsb' 0 3) (f.fn.extractLsb' 4 8) (vOf f.d) f.a (vOf f.b) f.imm
  | 0x187 => .vstx ⟨f.gn, f.gp⟩ f.rx (Ty.ofCode f.t) (f.fn.extractLsb' 0 3) (f.fn.extractLsb' 4 8) (vOf f.d) f.a (vOf f.b) f.imm
  | 0x188 => .ldf ⟨f.gn, f.gp⟩ f.la (Ty.ofCode f.t) f.d f.a (if f.i then .none else .reg f.b (f.fn.extractLsb' 0 3)) f.imm
  | 0x189 => .ldp ⟨f.gn, f.gp⟩ f.la (Ty.ofCode f.t) f.d f.a (if f.i then .none else .reg f.b (f.fn.extractLsb' 0 3)) f.imm
  | 0x18A => .ste ⟨f.gn, f.gp⟩ (Ty.ofCode f.t) f.d f.a (if f.i then .none else .reg f.b (f.fn.extractLsb' 0 3)) f.imm
  | 0x18B => .stf ⟨f.gn, f.gp⟩ f.rx (Ty.ofCode f.t) f.d f.a (if f.i then .none else .reg f.b (f.fn.extractLsb' 0 3)) f.imm
  | 0x18C => .fe ⟨f.gn, f.gp⟩ (f.fn.getLsbD 0) f.a f.b f.imm
  | 0x18D => .tlook ⟨f.gn, f.gp⟩ f.la (f.fn.extractLsb' 0 5) f.d f.a
  | 0x18E => .tset ⟨f.gn, f.gp⟩ (f.fn.extractLsb' 0 5) f.a f.b
  | 0x18F => if f.fn.getLsbD 5 then .tinvAll ⟨f.gn, f.gp⟩ else .tinv ⟨f.gn, f.gp⟩ (f.fn.extractLsb' 0 5) f.a
  | 0x190 => .guard ⟨f.gn, f.gp⟩ (f.fn.getLsbD 0) f.a f.b f.imm
  | 0x191 => .drain ⟨f.gn, f.gp⟩
  | 0x192 => .fence ⟨f.gn, f.gp⟩ (Scope.ofCode (f.fn.extractLsb' 0 3))
  | 0x193 => .xlat ⟨f.gn, f.gp⟩ f.la f.d f.a f.imm
  | _ => .illegalInstruction .ilOpc

/-- The instruction of a legal word of class 0x7. -/
def buildAtomic (f : Fields) : Instr :=
  match f.opc.toNat with
  | 0x1C0 => .amo ⟨f.gn, f.gp⟩ f.la f.rx (Ty.ofCode f.t) (AmoOp.ofCode (f.fn.extractLsb' 0 4)) f.d f.a f.b f.imm
  | 0x1C1 => .cas ⟨f.gn, f.gp⟩ f.la f.rx (Ty.ofCode f.t) f.d f.a f.b f.imm
  | 0x1C2 => .famo ⟨f.gn, f.gp⟩ f.la f.rx (Ty.ofCode f.t) (Rm.ofCode f.rm) (FOp.ofCode (f.fn.extractLsb' 0 2)) f.d f.a f.b f.imm
  | 0x1C3 => .rupd ⟨f.gn, f.gp⟩ f.rx (Ty.ofCode f.t) (AmoOp.ofCode (f.fn.extractLsb' 0 4)) f.a f.b f.imm
  | 0x1C4 => .frupd ⟨f.gn, f.gp⟩ f.rx (Ty.ofCode f.t) (Rm.ofCode f.rm) (FOp.ofCode (f.fn.extractLsb' 0 2)) f.a f.b f.imm
  | _ => .illegalInstruction .ilOpc

/-- The instruction of a legal word of class 0x8. -/
def buildSync (f : Fields) : Instr :=
  match f.opc.toNat with
  | 0x200 => .mon ⟨f.gn, f.gp⟩ (f.fn.extractLsb' 0 2) f.a f.imm
  | 0x201 => .monc ⟨f.gn, f.gp⟩
  | 0x202 => .waitm ⟨f.gn, f.gp⟩ (f.fn.getLsbD 0) f.d f.a
  | 0x203 => .bar ⟨f.gn, f.gp⟩ (f.fn.extractLsb' 0 4)
  | 0x204 => .bara ⟨f.gn, f.gp⟩ (f.fn.extractLsb' 0 4) f.d
  | 0x205 => .barw ⟨f.gn, f.gp⟩ (f.fn.extractLsb' 0 4)
  | 0x206 => .barset ⟨f.gn, f.gp⟩ (f.fn.extractLsb' 0 4) f.a
  | 0x207 => .send ⟨f.gn, f.gp⟩ f.rx (f.d.extractLsb' 0 6) f.a (if f.i then .imm f.imm else .reg f.b)
  | 0x208 => .recv ⟨f.gn, f.gp⟩ f.d
  | 0x209 => .trecv ⟨f.gn, f.gp⟩ (f.fn.extractLsb' 0 3) f.d f.a
  | 0x20A => .mqst ⟨f.gn, f.gp⟩ (f.fn.getLsbD 0) f.d
  | _ => .illegalInstruction .ilOpc

/-- The instruction of a legal word of class 0x9. -/
def buildEngine (f : Fields) : Instr :=
  match f.opc.toNat with
  | 0x240 => .copy ⟨f.gn, f.gp⟩ f.rx (f.d.extractLsb' 0 6) f.a f.b f.imm
  | 0x241 => .copy2 ⟨f.gn, f.gp⟩ f.rx (f.d.extractLsb' 0 6) f.a f.b f.imm
  | 0x242 => .gath ⟨f.gn, f.gp⟩ f.rx (f.d.extractLsb' 0 6) f.a
  | 0x243 => .scat ⟨f.gn, f.gp⟩ f.rx (f.d.extractLsb' 0 6) f.a
  | 0x244 => .hval ⟨f.gn, f.gp⟩ (f.fn.extractLsb' 0 2) f.d (f.a.extractLsb' 0 6)
  | 0x245 => .htest ⟨f.gn, f.gp⟩ (f.d.extractLsb' 0 3) (f.a.extractLsb' 0 6)
  | 0x246 => .hcancel ⟨f.gn, f.gp⟩ (f.a.extractLsb' 0 6)
  | 0x247 => .hpass ⟨f.gn, f.gp⟩ f.d (f.a.extractLsb' 0 6)
  | 0x248 => .hadopt ⟨f.gn, f.gp⟩ (f.d.extractLsb' 0 6) f.a
  | _ => .illegalInstruction .ilOpc

/-- The instruction of a legal word of class 0xA. -/
def buildSpan (f : Fields) : Instr :=
  match f.opc.toNat with
  | 0x280 => .sopen ⟨f.gn, f.gp⟩ (Ty.ofCode f.t) (Dir.ofCode (f.fn.extractLsb' 0 2)) (f.fn.extractLsb' 2 2) (f.fn.getLsbD 4) (f.fn.getLsbD 5) (f.fn.getLsbD 6) (f.d.extractLsb' 0 6) f.a f.b
  | 0x281 => .sjoin ⟨f.gn, f.gp⟩ (Ty.ofCode f.t) (Dir.ofCode (f.fn.extractLsb' 0 2)) (f.fn.getLsbD 4) (f.d.extractLsb' 0 6) f.a f.b
  | 0x282 => .sfeed ⟨f.gn, f.gp⟩ (Dir.ofCode (f.fn.extractLsb' 0 2)) f.a f.b f.imm
  | 0x283 => .sscale ⟨f.gn, f.gp⟩ (Dir.ofCode (f.fn.extractLsb' 0 2)) f.a f.b
  | 0x284 => if f.fn.getLsbD 4 then .scloseRdl ⟨f.gn, f.gp⟩ (Ty.ofCode f.t) (Rm.ofCode f.rm) f.sat (Dir.ofCode (f.fn.extractLsb' 0 2)) (f.fn.extractLsb' 2 2) f.a f.b f.imm else .sclose ⟨f.gn, f.gp⟩ (Ty.ofCode f.t) (Rm.ofCode f.rm) f.sat (Dir.ofCode (f.fn.extractLsb' 0 2)) f.a f.b f.imm
  | 0x285 => .sabort ⟨f.gn, f.gp⟩ (Dir.ofCode (f.fn.extractLsb' 0 2)) (f.fn.extractLsb' 2 2)
  | 0x286 => .sstat ⟨f.gn, f.gp⟩ f.d f.a
  | 0x287 => .sround ⟨f.gn, f.gp⟩
  | _ => .illegalInstruction .ilOpc

/-- The instruction of a legal word of class 0xB. -/
def buildPrompter (f : Fields) : Instr :=
  match f.opc.toNat with
  | 0x2C0 => .pcfg ⟨f.gn, f.gp⟩ f.a
  | 0x2C1 => .pplan ⟨f.gn, f.gp⟩ (f.d.extractLsb' 0 6) f.a f.b
  | 0x2C2 => .pfetch ⟨f.gn, f.gp⟩ (f.fn.getLsbD 0) (f.fn.extractLsb' 1 2) (f.d.extractLsb' 0 6) f.a
  | 0x2C3 => .pstat ⟨f.gn, f.gp⟩ f.d f.imm
  | _ => .illegalInstruction .ilOpc

/-- The instruction of a legal word of class 0xC. -/
def buildDd (f : Fields) : Instr :=
  match f.opc.toNat with
  | 0x300 => .ddcfg ⟨f.gn, f.gp⟩ f.a
  | 0x301 => .ddord ⟨f.gn, f.gp⟩ f.a f.b
  | 0x302 => .ddwset ⟨f.gn, f.gp⟩ f.a f.b
  | 0x303 => .ddmk ⟨f.gn, f.gp⟩ (f.d.extractLsb' 0 6) f.a f.b f.imm
  | 0x304 => .ddapply ⟨f.gn, f.gp⟩ (f.fn.extractLsb' 0 4) (f.d.extractLsb' 0 6) f.a f.b
  | 0x305 => .ddite ⟨f.gn, f.gp⟩ (f.d.extractLsb' 0 6) f.a f.b
  | 0x306 => .ddrestr ⟨f.gn, f.gp⟩ (f.d.extractLsb' 0 6) f.a f.b
  | 0x307 => .ddexist ⟨f.gn, f.gp⟩ (f.d.extractLsb' 0 6) f.a f.b
  | 0x308 => .ddcount ⟨f.gn, f.gp⟩ (f.d.extractLsb' 0 6) f.a
  | 0x309 => .ddwcount ⟨f.gn, f.gp⟩ (f.d.extractLsb' 0 6) f.a
  | 0x30A => .ddref ⟨f.gn, f.gp⟩ f.a
  | 0x30B => .dderef ⟨f.gn, f.gp⟩ f.a
  | 0x30C => .ddgc ⟨f.gn, f.gp⟩ (f.d.extractLsb' 0 6)
  | 0x30D => .ddnode ⟨f.gn, f.gp⟩ f.d f.a
  | 0x30E => .ddstat ⟨f.gn, f.gp⟩ f.d f.imm
  | _ => .illegalInstruction .ilOpc

/-- The instruction of a legal word of class 0xD. -/
def buildCast (f : Fields) : Instr :=
  match f.opc.toNat with
  | 0x340 => .rsend ⟨f.gn, f.gp⟩ f.a f.b
  | 0x341 => .rrecv ⟨f.gn, f.gp⟩ f.d f.a
  | 0x342 => if f.fn.getLsbD 0 then .cbindWithdraw ⟨f.gn, f.gp⟩ f.a f.b else .cbindOffer ⟨f.gn, f.gp⟩ f.a f.b
  | 0x343 => .cget ⟨f.gn, f.gp⟩ f.d f.a
  | 0x344 => .cset ⟨f.gn, f.gp⟩ f.a f.b
  | 0x345 => .cue ⟨f.gn, f.gp⟩ f.a
  | 0x346 => .cuetake ⟨f.gn, f.gp⟩ f.d f.a
  | 0x347 => .sthand ⟨f.gn, f.gp⟩ (f.d.extractLsb' 0 6) f.a f.b
  | 0x348 => .sttake ⟨f.gn, f.gp⟩ (f.d.extractLsb' 0 6) f.a
  | _ => .illegalInstruction .ilOpc

/-- The instruction of a legal word of class 0xE. -/
def buildReduce (f : Fields) : Instr :=
  match f.opc.toNat with
  | 0x380 => .redcfg ⟨f.gn, f.gp⟩ f.a
  | 0x381 => .redv ⟨f.gn, f.gp⟩ (Ty.ofCode f.t) (Rm.ofCode f.rm) f.sat (f.fn.extractLsb' 0 3) (FOp.ofCode (f.fn.extractLsb' 3 2)) (f.d.extractLsb' 0 6) (vOf f.a) f.b
  | 0x382 => .reds ⟨f.gn, f.gp⟩ (Ty.ofCode f.t) (Rm.ofCode f.rm) f.sat (f.fn.extractLsb' 0 3) (FOp.ofCode (f.fn.extractLsb' 3 2)) (f.d.extractLsb' 0 6) f.a f.b
  | 0x383 => .bcastv ⟨f.gn, f.gp⟩ (f.fn.extractLsb' 0 3) (f.d.extractLsb' 0 6) (vOf f.a) f.b
  | _ => .illegalInstruction .ilOpc

/-- The instruction of a legal word of class 0xF. -/
def buildSystem (f : Fields) : Instr :=
  match f.opc.toNat with
  | 0x3C0 => .trap ⟨f.gn, f.gp⟩ f.imm
  | 0x3C1 => .tfence ⟨f.gn, f.gp⟩
  | 0x3C2 => .rfe ⟨f.gn, f.gp⟩
  | 0x3C3 => .brk ⟨f.gn, f.gp⟩ f.imm
  | 0x3C4 => .tqpop ⟨f.gn, f.gp⟩ (f.fn.extractLsb' 0 2) f.d
  | 0x3C5 => .sfqpop ⟨f.gn, f.gp⟩ (f.fn.extractLsb' 0 2) (f.fn.getLsbD 2) f.d
  | 0x3C6 => .tlbinv ⟨f.gn, f.gp⟩ f.a f.b
  | 0x3C7 => .slotwr ⟨f.gn, f.gp⟩ f.a f.b
  | 0x3C8 => .mapwr ⟨f.gn, f.gp⟩ f.a f.b
  | 0x3C9 => .vacate ⟨f.gn, f.gp⟩ (f.d.extractLsb' 0 6) f.a
  | 0x3CA => .resume ⟨f.gn, f.gp⟩ (f.d.extractLsb' 0 6) f.a
  | 0x3CB => .tsusp ⟨f.gn, f.gp⟩ f.a
  | 0x3CC => .tresm ⟨f.gn, f.gp⟩ f.a
  | 0x3CD => .halt ⟨f.gn, f.gp⟩ f.a
  | _ => .illegalInstruction .ilOpc

/-- The instruction of a legal word (R49). -/
def build (f : Fields) : Instr :=
  match f.opc.toNat / 64 with
  | 0 => buildScalar f
  | 1 => buildControl f
  | 2 => buildThread f
  | 3 => buildNumber f
  | 4 => buildLane f
  | 5 => buildLaneData f
  | 6 => buildMemory f
  | 7 => buildAtomic f
  | 8 => buildSync f
  | 9 => buildEngine f
  | 10 => buildSpan f
  | 11 => buildPrompter f
  | 12 => buildDd f
  | 13 => buildCast f
  | 14 => buildReduce f
  | _ => buildSystem f

/-- Decoding of the fields: an instruction of the map, or the cause that R51 and R52 give. -/
def decodeFields (f : Fields) : Except Cause Instr :=
  match rowOf f with
  | none => .error .ilOpc
  | some r => if !rsvOk r f then .error .ilRsv else if !opndOk r f then .error .ilOpnd else .ok (build f)

/-- Decoding of a 96-bit word (R33, R51). -/
def decode (w : BitVec 96) : Except Cause Instr := decodeFields (Fields.ofWord w)

/-- The word stored in 12 bytes, byte 0 lowest (R34). -/
def wordOfBytes (bs : List Byte) : BitVec 96 :=
  BitVec.ofNat 96 ((bs.take 12).foldr (fun x acc => x.toNat + 256 * acc) 0)

/-- The 12 bytes of a word, byte 0 lowest (R34). -/
def bytesOfWord (w : BitVec 96) : List Byte := (List.range 12).map fun i => w.extractLsb' (8 * i) 8

/-- The instruction that the decoder reads from a word given as a number; the bits above `nbits` are 0. -/
def decodeTableWord (nbits w : Nat) : Option Instr :=
  match decode (wordOfBytes (bytesOfWord (BitVec.ofNat 96 (w % 2 ^ nbits)))) with
  | .ok i => some i
  | .error _ => none

/-! ### The encoder -/

/-- Whether a source is the immediate. -/
def Src.isImm : Src → Bool
  | .reg _ => false
  | .imm _ => true

/-- The B field of a source. -/
def Src.code : Src → BitVec 7
  | .reg r => r
  | .imm _ => 0

/-- The IMM field of a source. -/
def Src.immField : Src → BitVec 32
  | .reg _ => 0
  | .imm v => v

/-- Whether a vector source is the immediate. -/
def VSrc.isImm : VSrc → Bool
  | .reg _ => false
  | .imm _ => true

/-- The B field of a vector source. -/
def VSrc.code : VSrc → BitVec 7
  | .reg r => vCode r
  | .imm _ => 0

/-- The IMM field of a vector source. -/
def VSrc.immField : VSrc → BitVec 32
  | .reg _ => 0
  | .imm v => v

/-- Whether the address has no index register (I = 1, R46). -/
def Idx.isNone : Idx → Bool
  | .none => true
  | .reg _ _ => false

/-- The B field of an index. -/
def Idx.code : Idx → BitVec 7
  | .none => 0
  | .reg r _ => r

/-- FN[2:0] of an index (R184). -/
def Idx.shift : Idx → BitVec 12
  | .none => 0
  | .reg _ sh => (0 : BitVec 9) ++ sh

/-- The fields of an instruction of class 0x0. -/
def encodeScalar : Instr → Option Fields
  | .nop g =>
    some { opc := 0x001, gn := g.gn, gp := g.gp }
  | .add g w d a b =>
    some { opc := 0x002, gn := g.gn, gp := g.gp, md := (0 : BitVec 1) ++ BitVec.ofBool w, d := d, a := a, i := b.isImm, b := b.code, imm := b.immField }
  | .sub g w d a b =>
    some { opc := 0x003, gn := g.gn, gp := g.gp, md := (0 : BitVec 1) ++ BitVec.ofBool w, d := d, a := a, i := b.isImm, b := b.code, imm := b.immField }
  | .mul g w d a b =>
    some { opc := 0x004, gn := g.gn, gp := g.gp, md := (0 : BitVec 1) ++ BitVec.ofBool w, d := d, a := a, i := b.isImm, b := b.code, imm := b.immField }
  | .mulh g w d a b =>
    some { opc := 0x005, gn := g.gn, gp := g.gp, md := (0 : BitVec 1) ++ BitVec.ofBool w, d := d, a := a, i := b.isImm, b := b.code, imm := b.immField }
  | .mulhu g w d a b =>
    some { opc := 0x006, gn := g.gn, gp := g.gp, md := (0 : BitVec 1) ++ BitVec.ofBool w, d := d, a := a, i := b.isImm, b := b.code, imm := b.immField }
  | .div g w la d a b =>
    some { opc := 0x007, gn := g.gn, gp := g.gp, md := (0 : BitVec 1) ++ BitVec.ofBool w, la := la, d := d, a := a, i := b.isImm, b := b.code, imm := b.immField }
  | .divu g w la d a b =>
    some { opc := 0x008, gn := g.gn, gp := g.gp, md := (0 : BitVec 1) ++ BitVec.ofBool w, la := la, d := d, a := a, i := b.isImm, b := b.code, imm := b.immField }
  | .rem g w la d a b =>
    some { opc := 0x009, gn := g.gn, gp := g.gp, md := (0 : BitVec 1) ++ BitVec.ofBool w, la := la, d := d, a := a, i := b.isImm, b := b.code, imm := b.immField }
  | .remu g w la d a b =>
    some { opc := 0x00A, gn := g.gn, gp := g.gp, md := (0 : BitVec 1) ++ BitVec.ofBool w, la := la, d := d, a := a, i := b.isImm, b := b.code, imm := b.immField }
  | .and g d a b =>
    some { opc := 0x00B, gn := g.gn, gp := g.gp, d := d, a := a, i := b.isImm, b := b.code, imm := b.immField }
  | .or g d a b =>
    some { opc := 0x00C, gn := g.gn, gp := g.gp, d := d, a := a, i := b.isImm, b := b.code, imm := b.immField }
  | .xor g d a b =>
    some { opc := 0x00D, gn := g.gn, gp := g.gp, d := d, a := a, i := b.isImm, b := b.code, imm := b.immField }
  | .andn g d a b =>
    some { opc := 0x00E, gn := g.gn, gp := g.gp, d := d, a := a, i := b.isImm, b := b.code, imm := b.immField }
  | .shl g w d a b =>
    some { opc := 0x00F, gn := g.gn, gp := g.gp, md := (0 : BitVec 1) ++ BitVec.ofBool w, d := d, a := a, i := b.isImm, b := b.code, imm := b.immField }
  | .shr g w d a b =>
    some { opc := 0x010, gn := g.gn, gp := g.gp, md := (0 : BitVec 1) ++ BitVec.ofBool w, d := d, a := a, i := b.isImm, b := b.code, imm := b.immField }
  | .sar g w d a b =>
    some { opc := 0x011, gn := g.gn, gp := g.gp, md := (0 : BitVec 1) ++ BitVec.ofBool w, d := d, a := a, i := b.isImm, b := b.code, imm := b.immField }
  | .rol g w d a b =>
    some { opc := 0x012, gn := g.gn, gp := g.gp, md := (0 : BitVec 1) ++ BitVec.ofBool w, d := d, a := a, i := b.isImm, b := b.code, imm := b.immField }
  | .clz g w d a =>
    some { opc := 0x013, gn := g.gn, gp := g.gp, md := (0 : BitVec 1) ++ BitVec.ofBool w, d := d, a := a }
  | .ctz g w d a =>
    some { opc := 0x014, gn := g.gn, gp := g.gp, md := (0 : BitVec 1) ++ BitVec.ofBool w, d := d, a := a }
  | .popc g w d a =>
    some { opc := 0x015, gn := g.gn, gp := g.gp, md := (0 : BitVec 1) ++ BitVec.ofBool w, d := d, a := a }
  | .min g w d a b =>
    some { opc := 0x016, gn := g.gn, gp := g.gp, md := (0 : BitVec 1) ++ BitVec.ofBool w, d := d, a := a, i := b.isImm, b := b.code, imm := b.immField }
  | .max g w d a b =>
    some { opc := 0x017, gn := g.gn, gp := g.gp, md := (0 : BitVec 1) ++ BitVec.ofBool w, d := d, a := a, i := b.isImm, b := b.code, imm := b.immField }
  | .minu g w d a b =>
    some { opc := 0x018, gn := g.gn, gp := g.gp, md := (0 : BitVec 1) ++ BitVec.ofBool w, d := d, a := a, i := b.isImm, b := b.code, imm := b.immField }
  | .maxu g w d a b =>
    some { opc := 0x019, gn := g.gn, gp := g.gp, md := (0 : BitVec 1) ++ BitVec.ofBool w, d := d, a := a, i := b.isImm, b := b.code, imm := b.immField }
  | .sel g p d a b =>
    some { opc := 0x01A, gn := g.gn, gp := g.gp, d := d, a := a, i := b.isImm, b := b.code, imm := b.immField, fn := ((0 : BitVec 9) ++ p) }
  | .movi g d imm =>
    some { opc := 0x01B, gn := g.gn, gp := g.gp, d := d, imm := imm }
  | .movhi g d a imm =>
    some { opc := 0x01C, gn := g.gn, gp := g.gp, d := d, a := a, imm := imm }
  | .bext g pos len d a b =>
    some { opc := 0x01D, gn := g.gn, gp := g.gp, d := d, a := a, i := b.isImm, b := b.code, imm := b.immField, fn := ((0 : BitVec 6) ++ pos) ||| (len ++ (0 : BitVec 6)) }
  | .bextu g pos len d a b =>
    some { opc := 0x01E, gn := g.gn, gp := g.gp, d := d, a := a, i := b.isImm, b := b.code, imm := b.immField, fn := ((0 : BitVec 6) ++ pos) ||| (len ++ (0 : BitVec 6)) }
  | .bins g pos len d a b =>
    some { opc := 0x01F, gn := g.gn, gp := g.gp, d := d, a := a, i := b.isImm, b := b.code, imm := b.immField, fn := ((0 : BitVec 6) ++ pos) ||| (len ++ (0 : BitVec 6)) }
  | .sext g wd d a =>
    some { opc := 0x020, gn := g.gn, gp := g.gp, d := d, a := a, fn := ((0 : BitVec 10) ++ wd.code) }
  | .bswap g w d a =>
    some { opc := 0x021, gn := g.gn, gp := g.gp, md := (0 : BitVec 1) ++ BitVec.ofBool w, d := d, a := a }
  | .mov g d a =>
    some { opc := 0x022, gn := g.gn, gp := g.gp, d := d, a := a }
  | _ => none

/-- The fields of an instruction of class 0x1. -/
def encodeControl : Instr → Option Fields
  | .br g imm =>
    some { opc := 0x040, gn := g.gn, gp := g.gp, imm := imm }
  | .jmp g a imm =>
    some { opc := 0x041, gn := g.gn, gp := g.gp, a := a, imm := imm }
  | .call g d imm =>
    some { opc := 0x042, gn := g.gn, gp := g.gp, d := d, imm := imm }
  | .callr g d a imm =>
    some { opc := 0x043, gn := g.gn, gp := g.gp, d := d, a := a, imm := imm }
  | .cmp g w cnd d a b =>
    some { opc := 0x044, gn := g.gn, gp := g.gp, md := (0 : BitVec 1) ++ BitVec.ofBool w, d := (0 : BitVec 4) ++ d, a := a, i := b.isImm, b := b.code, imm := b.immField, fn := ((0 : BitVec 8) ++ cnd.code) }
  | .tst g zero d a b =>
    some { opc := 0x045, gn := g.gn, gp := g.gp, d := (0 : BitVec 4) ++ d, a := a, i := b.isImm, b := b.code, imm := b.immField, fn := ((0 : BitVec 11) ++ BitVec.ofBool zero) }
  | .plog g tt d a b =>
    some { opc := 0x046, gn := g.gn, gp := g.gp, d := (0 : BitVec 4) ++ d, a := (0 : BitVec 4) ++ a, b := (0 : BitVec 4) ++ b, fn := ((0 : BitVec 8) ++ tt) }
  | .pset g qm a =>
    some { opc := 0x047, gn := g.gn, gp := g.gp, a := a, fn := ((0 : BitVec 4) ++ qm ++ (0 : BitVec 1)) }
  | .pget g d =>
    some { opc := 0x048, gn := g.gn, gp := g.gp, d := d }
  | .dbnz g d imm =>
    some { opc := 0x049, gn := g.gn, gp := g.gp, d := d, imm := imm }
  | .syncf g imm =>
    some { opc := 0x04A, gn := g.gn, gp := g.gp, imm := imm }
  | _ => none

/-- The fields of an instruction of class 0x2. -/
def encodeThread : Instr → Option Fields
  | .start g th d a b =>
    some { opc := 0x080, gn := g.gn, gp := g.gp, d := (0 : BitVec 1) ++ d, a := a, i := b.isImm, b := b.code, imm := b.immField, fn := ((0 : BitVec 7) ++ BitVec.ofBool (th != 0) ++ th) }
  | .exit g a =>
    some { opc := 0x081, gn := g.gn, gp := g.gp, a := a }
  | .gets g d imm =>
    some { opc := 0x082, gn := g.gn, gp := g.gp, d := d, imm := imm }
  | .sets g a imm =>
    some { opc := 0x083, gn := g.gn, gp := g.gp, a := a, imm := imm }
  | .tilepos g d =>
    some { opc := 0x084, gn := g.gn, gp := g.gp, d := d }
  | .sleep g a imm =>
    some { opc := 0x085, gn := g.gn, gp := g.gp, a := a, imm := imm }
  | .mkadr g form d a b =>
    some { opc := 0x086, gn := g.gn, gp := g.gp, d := d, a := a, i := b.isImm, b := b.code, imm := b.immField, fn := ((0 : BitVec 10) ++ form.code) }
  | .slotrd g d imm =>
    some { opc := 0x087, gn := g.gn, gp := g.gp, d := d, imm := imm }
  | .thrst g d a =>
    some { opc := 0x088, gn := g.gn, gp := g.gp, d := d, a := a }
  | _ => none

/-- The fields of an instruction of class 0x3. -/
def encodeNumber : Instr → Option Fields
  | .cvt g t rm sat src d a =>
    some { opc := 0x0C0, gn := g.gn, gp := g.gp, t := t.code, rm := rm.code, sat := sat, d := d, a := a, fn := ((0 : BitVec 8) ++ src.code) }
  | .fadd g t rm d a b =>
    some { opc := 0x0C1, gn := g.gn, gp := g.gp, t := t.code, rm := rm.code, d := d, a := a, b := b }
  | .fsub g t rm d a b =>
    some { opc := 0x0C2, gn := g.gn, gp := g.gp, t := t.code, rm := rm.code, d := d, a := a, b := b }
  | .fmul g t rm d a b =>
    some { opc := 0x0C3, gn := g.gn, gp := g.gp, t := t.code, rm := rm.code, d := d, a := a, b := b }
  | .ffma g t rm d a b =>
    some { opc := 0x0C4, gn := g.gn, gp := g.gp, t := t.code, rm := rm.code, d := d, a := a, b := b }
  | .fdiv g la t rm d a b =>
    some { opc := 0x0C5, gn := g.gn, gp := g.gp, la := la, t := t.code, rm := rm.code, d := d, a := a, b := b }
  | .fsqrt g la t rm d a =>
    some { opc := 0x0C6, gn := g.gn, gp := g.gp, la := la, t := t.code, rm := rm.code, d := d, a := a }
  | .fmin g t d a b =>
    some { opc := 0x0C7, gn := g.gn, gp := g.gp, t := t.code, d := d, a := a, b := b }
  | .fmax g t d a b =>
    some { opc := 0x0C8, gn := g.gn, gp := g.gp, t := t.code, d := d, a := a, b := b }
  | .fcmp g t cnd d a b =>
    some { opc := 0x0C9, gn := g.gn, gp := g.gp, t := t.code, d := (0 : BitVec 4) ++ d, a := a, b := b, fn := ((0 : BitVec 9) ++ cnd.code) }
  | .fclass g t d a =>
    some { opc := 0x0CA, gn := g.gn, gp := g.gp, t := t.code, d := d, a := a }
  | .vcvt g t rm sat src d a =>
    some { opc := 0x0CB, gn := g.gn, gp := g.gp, t := t.code, rm := rm.code, sat := sat, d := vCode d, a := vCode a, fn := ((0 : BitVec 8) ++ src.code) }
  | .vpack g t rm sat d a b =>
    some { opc := 0x0CC, gn := g.gn, gp := g.gp, t := t.code, rm := rm.code, sat := sat, d := vCode d, a := vCode a, b := vCode b }
  | .vunpk g t part d a =>
    some { opc := 0x0CD, gn := g.gn, gp := g.gp, t := t.code, d := vCode d, a := vCode a, fn := ((0 : BitVec 10) ++ part) }
  | _ => none

/-- The fields of an instruction of class 0x4. -/
def encodeLane : Instr → Option Fields
  | .vadd g t rm sat km d a b =>
    some { opc := 0x100, gn := g.gn, gp := g.gp, t := t.code, rm := rm.code, sat := sat, d := vCode d, a := vCode a, i := b.isImm, b := b.code, imm := b.immField, fn := ((0 : BitVec 9) ++ km) }
  | .vsub g t rm sat km d a b =>
    some { opc := 0x101, gn := g.gn, gp := g.gp, t := t.code, rm := rm.code, sat := sat, d := vCode d, a := vCode a, i := b.isImm, b := b.code, imm := b.immField, fn := ((0 : BitVec 9) ++ km) }
  | .vmul g t rm sat km d a b =>
    some { opc := 0x102, gn := g.gn, gp := g.gp, t := t.code, rm := rm.code, sat := sat, d := vCode d, a := vCode a, i := b.isImm, b := b.code, imm := b.immField, fn := ((0 : BitVec 9) ++ km) }
  | .vfma g t rm sat km d a b =>
    some { opc := 0x103, gn := g.gn, gp := g.gp, t := t.code, rm := rm.code, sat := sat, d := vCode d, a := vCode a, i := b.isImm, b := b.code, imm := b.immField, fn := ((0 : BitVec 9) ++ km) }
  | .vfms g t rm sat km d a b =>
    some { opc := 0x104, gn := g.gn, gp := g.gp, t := t.code, rm := rm.code, sat := sat, d := vCode d, a := vCode a, i := b.isImm, b := b.code, imm := b.immField, fn := ((0 : BitVec 9) ++ km) }
  | .vmin g t km d a b =>
    some { opc := 0x105, gn := g.gn, gp := g.gp, t := t.code, d := vCode d, a := vCode a, i := b.isImm, b := b.code, imm := b.immField, fn := ((0 : BitVec 9) ++ km) }
  | .vmax g t km d a b =>
    some { opc := 0x106, gn := g.gn, gp := g.gp, t := t.code, d := vCode d, a := vCode a, i := b.isImm, b := b.code, imm := b.immField, fn := ((0 : BitVec 9) ++ km) }
  | .vabs g t sat km d a =>
    some { opc := 0x107, gn := g.gn, gp := g.gp, t := t.code, sat := sat, d := vCode d, a := vCode a, fn := ((0 : BitVec 9) ++ km) }
  | .vneg g t sat km d a =>
    some { opc := 0x108, gn := g.gn, gp := g.gp, t := t.code, sat := sat, d := vCode d, a := vCode a, fn := ((0 : BitVec 9) ++ km) }
  | .vexp2 g la km d a =>
    some { opc := 0x109, gn := g.gn, gp := g.gp, la := la, d := vCode d, a := vCode a, t := 0xC, fn := ((0 : BitVec 9) ++ km) }
  | .vlog2 g la km d a =>
    some { opc := 0x10A, gn := g.gn, gp := g.gp, la := la, d := vCode d, a := vCode a, t := 0xC, fn := ((0 : BitVec 9) ++ km) }
  | .vrcp g la km d a =>
    some { opc := 0x10B, gn := g.gn, gp := g.gp, la := la, d := vCode d, a := vCode a, t := 0xC, fn := ((0 : BitVec 9) ++ km) }
  | .vrsq g la km d a =>
    some { opc := 0x10C, gn := g.gn, gp := g.gp, la := la, d := vCode d, a := vCode a, t := 0xC, fn := ((0 : BitVec 9) ++ km) }
  | .vcmp g t km cnd d a b =>
    some { opc := 0x10D, gn := g.gn, gp := g.gp, t := t.code, d := (0 : BitVec 4) ++ d, a := vCode a, i := b.isImm, b := b.code, imm := b.immField, fn := ((0 : BitVec 9) ++ km) ||| ((0 : BitVec 6) ++ cnd.code ++ (0 : BitVec 3)) }
  | .vsel g km d a b =>
    some { opc := 0x10E, gn := g.gn, gp := g.gp, d := vCode d, a := vCode a, b := vCode b, fn := ((0 : BitVec 9) ++ km) }
  | .vand g km d a b =>
    some { opc := 0x10F, gn := g.gn, gp := g.gp, d := vCode d, a := vCode a, i := b.isImm, b := b.code, imm := b.immField, fn := ((0 : BitVec 9) ++ km) }
  | .vor g km d a b =>
    some { opc := 0x110, gn := g.gn, gp := g.gp, d := vCode d, a := vCode a, i := b.isImm, b := b.code, imm := b.immField, fn := ((0 : BitVec 9) ++ km) }
  | .vxor g km d a b =>
    some { opc := 0x111, gn := g.gn, gp := g.gp, d := vCode d, a := vCode a, i := b.isImm, b := b.code, imm := b.immField, fn := ((0 : BitVec 9) ++ km) }
  | .vshl g km d a b =>
    some { opc := 0x112, gn := g.gn, gp := g.gp, d := vCode d, a := vCode a, i := b.isImm, b := b.code, imm := b.immField, fn := ((0 : BitVec 9) ++ km) }
  | .vshr g km d a b =>
    some { opc := 0x113, gn := g.gn, gp := g.gp, d := vCode d, a := vCode a, i := b.isImm, b := b.code, imm := b.immField, fn := ((0 : BitVec 9) ++ km) }
  | .vsar g km d a b =>
    some { opc := 0x114, gn := g.gn, gp := g.gp, d := vCode d, a := vCode a, i := b.isImm, b := b.code, imm := b.immField, fn := ((0 : BitVec 9) ++ km) }
  | .vpopc g km d a =>
    some { opc := 0x115, gn := g.gn, gp := g.gp, d := vCode d, a := vCode a, fn := ((0 : BitVec 9) ++ km) }
  | .vdot4 g t sat km d a b =>
    some { opc := 0x116, gn := g.gn, gp := g.gp, t := t.code, sat := sat, d := vCode d, a := vCode a, i := b.isImm, b := b.code, imm := b.immField, fn := ((0 : BitVec 9) ++ km) }
  | .vsum g t rm sat km d a =>
    some { opc := 0x117, gn := g.gn, gp := g.gp, t := t.code, rm := rm.code, sat := sat, d := d, a := vCode a, fn := ((0 : BitVec 9) ++ km) }
  | .vmaxr g t km d a =>
    some { opc := 0x118, gn := g.gn, gp := g.gp, t := t.code, d := d, a := vCode a, fn := ((0 : BitVec 9) ++ km) }
  | .vfmas g t rm sat km d a b =>
    some { opc := 0x119, gn := g.gn, gp := g.gp, t := t.code, rm := rm.code, sat := sat, d := vCode d, a := vCode a, i := b.isImm, b := b.code, imm := b.immField, fn := ((0 : BitVec 9) ++ km) }
  | .vscal g t rm sat km d a b =>
    some { opc := 0x11A, gn := g.gn, gp := g.gp, t := t.code, rm := rm.code, sat := sat, d := vCode d, a := vCode a, i := b.isImm, b := b.code, imm := b.immField, fn := ((0 : BitVec 9) ++ km) }
  | _ => none

/-- The fields of an instruction of class 0x5. -/
def encodeLaneData : Instr → Option Fields
  | .vmov g km d a =>
    some { opc := 0x140, gn := g.gn, gp := g.gp, d := vCode d, a := vCode a, fn := ((0 : BitVec 9) ++ km) }
  | .vbcast g km d a =>
    some { opc := 0x141, gn := g.gn, gp := g.gp, d := vCode d, a := a, fn := ((0 : BitVec 9) ++ km) }
  | .vget g xs d a b =>
    some { opc := 0x142, gn := g.gn, gp := g.gp, d := d, a := vCode a, i := b.isImm, b := b.code, imm := b.immField, fn := ((0 : BitVec 11) ++ BitVec.ofBool xs) }
  | .vput g d a b =>
    some { opc := 0x143, gn := g.gn, gp := g.gp, d := vCode d, a := a, i := b.isImm, b := b.code, imm := b.immField }
  | .vperm g km d a b =>
    some { opc := 0x144, gn := g.gn, gp := g.gp, d := vCode d, a := vCode a, b := vCode b, fn := ((0 : BitVec 9) ++ km) }
  | .vrot g km d a b =>
    some { opc := 0x145, gn := g.gn, gp := g.gp, d := vCode d, a := vCode a, i := b.isImm, b := b.code, imm := b.immField, fn := ((0 : BitVec 9) ++ km) }
  | .vcomp g km d a =>
    some { opc := 0x146, gn := g.gn, gp := g.gp, d := vCode d, a := vCode a, fn := ((0 : BitVec 9) ++ km) }
  | .vexpd g km d a =>
    some { opc := 0x147, gn := g.gn, gp := g.gp, d := vCode d, a := vCode a, fn := ((0 : BitVec 9) ++ km) }
  | .viota g km d =>
    some { opc := 0x148, gn := g.gn, gp := g.gp, d := vCode d, fn := ((0 : BitVec 9) ++ km) }
  | .kop g tt d a b =>
    some { opc := 0x149, gn := g.gn, gp := g.gp, d := (0 : BitVec 4) ++ d, a := (0 : BitVec 4) ++ a, b := (0 : BitVec 4) ++ b, fn := ((0 : BitVec 8) ++ tt) }
  | .kpopc g d a =>
    some { opc := 0x14A, gn := g.gn, gp := g.gp, d := d, a := (0 : BitVec 4) ++ a }
  | .kmovToMask g d a =>
    some { opc := 0x14B, gn := g.gn, gp := g.gp, d := (0 : BitVec 4) ++ d, a := a }
  | .kmovFromMask g d a =>
    some { opc := 0x14B, gn := g.gn, gp := g.gp, d := d, a := (0 : BitVec 4) ++ a, md := 1 }
  | .kfirst g d a =>
    some { opc := 0x14C, gn := g.gn, gp := g.gp, d := d, a := (0 : BitVec 4) ++ a }
  | _ => none

/-- The fields of an instruction of class 0x6. -/
def encodeMemory : Instr → Option Fields
  | .ld g la rx t d a ix imm =>
    some { opc := 0x180, gn := g.gn, gp := g.gp, la := la, rx := rx, t := t.code, d := d, a := a, i := ix.isNone, b := ix.code, imm := imm, fn := (ix.shift) }
  | .st g rx t d a ix imm =>
    some { opc := 0x181, gn := g.gn, gp := g.gp, rx := rx, t := t.code, d := d, a := a, i := ix.isNone, b := ix.code, imm := imm, fn := (ix.shift) }
  | .vld g la rx t cnt d a ix imm =>
    some { opc := 0x182, gn := g.gn, gp := g.gp, la := la, rx := rx, t := t.code, d := vCode d, a := a, i := ix.isNone, b := ix.code, imm := imm, fn := (cnt ++ (0 : BitVec 4)) ||| (ix.shift) }
  | .vst g rx t cnt d a ix imm =>
    some { opc := 0x183, gn := g.gn, gp := g.gp, rx := rx, t := t.code, d := vCode d, a := a, i := ix.isNone, b := ix.code, imm := imm, fn := (cnt ++ (0 : BitVec 4)) ||| (ix.shift) }
  | .vlds g la rx t cnt d a b imm =>
    some { opc := 0x184, gn := g.gn, gp := g.gp, la := la, rx := rx, t := t.code, d := vCode d, a := a, b := b, imm := imm, fn := (cnt ++ (0 : BitVec 4)) }
  | .vsts g rx t cnt d a b imm =>
    some { opc := 0x185, gn := g.gn, gp := g.gp, rx := rx, t := t.code, d := vCode d, a := a, b := b, imm := imm, fn := (cnt ++ (0 : BitVec 4)) }
  | .vldx g la rx t sh cnt d a b imm =>
    some { opc := 0x186, gn := g.gn, gp := g.gp, la := la, rx := rx, t := t.code, d := vCode d, a := a, b := vCode b, imm := imm, fn := ((0 : BitVec 9) ++ sh) ||| (cnt ++ (0 : BitVec 4)) }
  | .vstx g rx t sh cnt d a b imm =>
    some { opc := 0x187, gn := g.gn, gp := g.gp, rx := rx, t := t.code, d := vCode d, a := a, b := vCode b, imm := imm, fn := ((0 : BitVec 9) ++ sh) ||| (cnt ++ (0 : BitVec 4)) }
  | .ldf g la t d a ix imm =>
    some { opc := 0x188, gn := g.gn, gp := g.gp, la := la, t := t.code, d := d, a := a, i := ix.isNone, b := ix.code, imm := imm, fn := (ix.shift) }
  | .ldp g la t d a ix imm =>
    some { opc := 0x189, gn := g.gn, gp := g.gp, la := la, t := t.code, d := d, a := a, i := ix.isNone, b := ix.code, imm := imm, fn := (ix.shift) }
  | .ste g t d a ix imm =>
    some { opc := 0x18A, gn := g.gn, gp := g.gp, t := t.code, d := d, a := a, i := ix.isNone, b := ix.code, imm := imm, fn := (ix.shift) }
  | .stf g rx t d a ix imm =>
    some { opc := 0x18B, gn := g.gn, gp := g.gp, rx := rx, t := t.code, d := d, a := a, i := ix.isNone, b := ix.code, imm := imm, fn := (ix.shift) }
  | .fe g full a b imm =>
    some { opc := 0x18C, gn := g.gn, gp := g.gp, a := a, b := b, imm := imm, fn := ((0 : BitVec 11) ++ BitVec.ofBool full) }
  | .tlook g la gs d a =>
    some { opc := 0x18D, gn := g.gn, gp := g.gp, la := la, d := d, a := a, fn := ((0 : BitVec 7) ++ gs) }
  | .tset g gs a b =>
    some { opc := 0x18E, gn := g.gn, gp := g.gp, a := a, b := b, fn := ((0 : BitVec 7) ++ gs) }
  | .tinv g gs a =>
    some { opc := 0x18F, gn := g.gn, gp := g.gp, a := a, fn := ((0 : BitVec 7) ++ gs) }
  | .tinvAll g =>
    some { opc := 0x18F, gn := g.gn, gp := g.gp, fn := (0x020) }
  | .guard g set a b imm =>
    some { opc := 0x190, gn := g.gn, gp := g.gp, a := a, b := b, imm := imm, fn := ((0 : BitVec 11) ++ BitVec.ofBool set) }
  | .drain g =>
    some { opc := 0x191, gn := g.gn, gp := g.gp }
  | .fence g sc =>
    some { opc := 0x192, gn := g.gn, gp := g.gp, fn := ((0 : BitVec 9) ++ sc.code) }
  | .xlat g la d a imm =>
    some { opc := 0x193, gn := g.gn, gp := g.gp, la := la, d := d, a := a, imm := imm }
  | _ => none

/-- The fields of an instruction of class 0x7. -/
def encodeAtomic : Instr → Option Fields
  | .amo g la rx t op d a b imm =>
    some { opc := 0x1C0, gn := g.gn, gp := g.gp, la := la, rx := rx, t := t.code, d := d, a := a, b := b, imm := imm, fn := ((0 : BitVec 8) ++ op.code) }
  | .cas g la rx t d a b imm =>
    some { opc := 0x1C1, gn := g.gn, gp := g.gp, la := la, rx := rx, t := t.code, d := d, a := a, b := b, imm := imm }
  | .famo g la rx t rm op d a b imm =>
    some { opc := 0x1C2, gn := g.gn, gp := g.gp, la := la, rx := rx, t := t.code, rm := rm.code, d := d, a := a, b := b, imm := imm, fn := ((0 : BitVec 10) ++ op.code) }
  | .rupd g rx t op a b imm =>
    some { opc := 0x1C3, gn := g.gn, gp := g.gp, rx := rx, t := t.code, a := a, b := b, imm := imm, fn := ((0 : BitVec 8) ++ op.code) }
  | .frupd g rx t rm op a b imm =>
    some { opc := 0x1C4, gn := g.gn, gp := g.gp, rx := rx, t := t.code, rm := rm.code, a := a, b := b, imm := imm, fn := ((0 : BitVec 10) ++ op.code) }
  | _ => none

/-- The fields of an instruction of class 0x8. -/
def encodeSync : Instr → Option Fields
  | .mon g mi a imm =>
    some { opc := 0x200, gn := g.gn, gp := g.gp, a := a, imm := imm, fn := ((0 : BitVec 10) ++ mi) }
  | .monc g =>
    some { opc := 0x201, gn := g.gn, gp := g.gp }
  | .waitm g mq d a =>
    some { opc := 0x202, gn := g.gn, gp := g.gp, d := d, a := a, fn := ((0 : BitVec 11) ++ BitVec.ofBool mq) }
  | .bar g bc =>
    some { opc := 0x203, gn := g.gn, gp := g.gp, fn := ((0 : BitVec 8) ++ bc) }
  | .bara g bc d =>
    some { opc := 0x204, gn := g.gn, gp := g.gp, d := d, fn := ((0 : BitVec 8) ++ bc) }
  | .barw g bc =>
    some { opc := 0x205, gn := g.gn, gp := g.gp, fn := ((0 : BitVec 8) ++ bc) }
  | .barset g bc a =>
    some { opc := 0x206, gn := g.gn, gp := g.gp, a := a, fn := ((0 : BitVec 8) ++ bc) }
  | .send g rx d a b =>
    some { opc := 0x207, gn := g.gn, gp := g.gp, rx := rx, d := (0 : BitVec 1) ++ d, a := a, i := b.isImm, b := b.code, imm := b.immField }
  | .recv g d =>
    some { opc := 0x208, gn := g.gn, gp := g.gp, d := d }
  | .trecv g p d a =>
    some { opc := 0x209, gn := g.gn, gp := g.gp, d := d, a := a, fn := ((0 : BitVec 9) ++ p) }
  | .mqst g src d =>
    some { opc := 0x20A, gn := g.gn, gp := g.gp, d := d, fn := ((0 : BitVec 11) ++ BitVec.ofBool src) }
  | _ => none

/-- The fields of an instruction of class 0x9. -/
def encodeEngine : Instr → Option Fields
  | .copy g rx d a b imm =>
    some { opc := 0x240, gn := g.gn, gp := g.gp, rx := rx, d := (0 : BitVec 1) ++ d, a := a, b := b, imm := imm }
  | .copy2 g rx d a b imm =>
    some { opc := 0x241, gn := g.gn, gp := g.gp, rx := rx, d := (0 : BitVec 1) ++ d, a := a, b := b, imm := imm }
  | .gath g rx d a =>
    some { opc := 0x242, gn := g.gn, gp := g.gp, rx := rx, d := (0 : BitVec 1) ++ d, a := a }
  | .scat g rx d a =>
    some { opc := 0x243, gn := g.gn, gp := g.gp, rx := rx, d := (0 : BitVec 1) ++ d, a := a }
  | .hval g fld d a =>
    some { opc := 0x244, gn := g.gn, gp := g.gp, d := d, a := (0 : BitVec 1) ++ a, fn := ((0 : BitVec 10) ++ fld) }
  | .htest g d a =>
    some { opc := 0x245, gn := g.gn, gp := g.gp, d := (0 : BitVec 4) ++ d, a := (0 : BitVec 1) ++ a }
  | .hcancel g a =>
    some { opc := 0x246, gn := g.gn, gp := g.gp, a := (0 : BitVec 1) ++ a }
  | .hpass g d a =>
    some { opc := 0x247, gn := g.gn, gp := g.gp, d := d, a := (0 : BitVec 1) ++ a }
  | .hadopt g d a =>
    some { opc := 0x248, gn := g.gn, gp := g.gp, d := (0 : BitVec 1) ++ d, a := a }
  | _ => none

/-- The fields of an instruction of class 0xA. -/
def encodeSpan : Instr → Option Fields
  | .sopen g t dir slot scl keep bop d a b =>
    some { opc := 0x280, gn := g.gn, gp := g.gp, t := t.code, d := (0 : BitVec 1) ++ d, a := a, b := b, fn := ((0 : BitVec 10) ++ dir.code) ||| ((0 : BitVec 8) ++ slot ++ (0 : BitVec 2)) ||| ((0 : BitVec 7) ++ BitVec.ofBool scl ++ (0 : BitVec 4)) ||| ((0 : BitVec 6) ++ BitVec.ofBool keep ++ (0 : BitVec 5)) ||| ((0 : BitVec 5) ++ BitVec.ofBool bop ++ (0 : BitVec 6)) }
  | .sjoin g t dir scl d a b =>
    some { opc := 0x281, gn := g.gn, gp := g.gp, t := t.code, d := (0 : BitVec 1) ++ d, a := a, b := b, fn := ((0 : BitVec 10) ++ dir.code) ||| ((0 : BitVec 7) ++ BitVec.ofBool scl ++ (0 : BitVec 4)) }
  | .sfeed g dir a b imm =>
    some { opc := 0x282, gn := g.gn, gp := g.gp, a := a, b := b, imm := imm, fn := ((0 : BitVec 10) ++ dir.code) }
  | .sscale g dir a b =>
    some { opc := 0x283, gn := g.gn, gp := g.gp, a := a, b := b, fn := ((0 : BitVec 10) ++ dir.code) }
  | .sclose g t rm sat dir a b imm =>
    some { opc := 0x284, gn := g.gn, gp := g.gp, t := t.code, rm := rm.code, sat := sat, a := a, b := b, imm := imm, fn := ((0 : BitVec 10) ++ dir.code) }
  | .scloseRdl g t rm sat dir slot a b imm =>
    some { opc := 0x284, gn := g.gn, gp := g.gp, t := t.code, rm := rm.code, sat := sat, a := a, b := b, imm := imm, fn := ((0 : BitVec 10) ++ dir.code) ||| ((0 : BitVec 8) ++ slot ++ (0 : BitVec 2)) ||| (0x010) }
  | .sabort g dir slot =>
    some { opc := 0x285, gn := g.gn, gp := g.gp, fn := ((0 : BitVec 10) ++ dir.code) ||| ((0 : BitVec 8) ++ slot ++ (0 : BitVec 2)) }
  | .sstat g d a =>
    some { opc := 0x286, gn := g.gn, gp := g.gp, d := d, a := a }
  | .sround g =>
    some { opc := 0x287, gn := g.gn, gp := g.gp }
  | _ => none

/-- The fields of an instruction of class 0xB. -/
def encodePrompter : Instr → Option Fields
  | .pcfg g a =>
    some { opc := 0x2C0, gn := g.gn, gp := g.gp, a := a }
  | .pplan g d a b =>
    some { opc := 0x2C1, gn := g.gn, gp := g.gp, d := (0 : BitVec 1) ++ d, a := a, b := b }
  | .pfetch g replay wm d a =>
    some { opc := 0x2C2, gn := g.gn, gp := g.gp, d := (0 : BitVec 1) ++ d, a := a, fn := ((0 : BitVec 11) ++ BitVec.ofBool replay) ||| ((0 : BitVec 9) ++ wm ++ (0 : BitVec 1)) }
  | .pstat g d imm =>
    some { opc := 0x2C3, gn := g.gn, gp := g.gp, d := d, imm := imm }
  | _ => none

/-- The fields of an instruction of class 0xC. -/
def encodeDd : Instr → Option Fields
  | .ddcfg g a =>
    some { opc := 0x300, gn := g.gn, gp := g.gp, a := a }
  | .ddord g a b =>
    some { opc := 0x301, gn := g.gn, gp := g.gp, a := a, b := b }
  | .ddwset g a b =>
    some { opc := 0x302, gn := g.gn, gp := g.gp, a := a, b := b }
  | .ddmk g d a b imm =>
    some { opc := 0x303, gn := g.gn, gp := g.gp, d := (0 : BitVec 1) ++ d, a := a, b := b, imm := imm }
  | .ddapply g tt d a b =>
    some { opc := 0x304, gn := g.gn, gp := g.gp, d := (0 : BitVec 1) ++ d, a := a, b := b, fn := ((0 : BitVec 8) ++ tt) }
  | .ddite g d a b =>
    some { opc := 0x305, gn := g.gn, gp := g.gp, d := (0 : BitVec 1) ++ d, a := a, b := b }
  | .ddrestr g d a b =>
    some { opc := 0x306, gn := g.gn, gp := g.gp, d := (0 : BitVec 1) ++ d, a := a, b := b }
  | .ddexist g d a b =>
    some { opc := 0x307, gn := g.gn, gp := g.gp, d := (0 : BitVec 1) ++ d, a := a, b := b }
  | .ddcount g d a =>
    some { opc := 0x308, gn := g.gn, gp := g.gp, d := (0 : BitVec 1) ++ d, a := a }
  | .ddwcount g d a =>
    some { opc := 0x309, gn := g.gn, gp := g.gp, d := (0 : BitVec 1) ++ d, a := a }
  | .ddref g a =>
    some { opc := 0x30A, gn := g.gn, gp := g.gp, a := a }
  | .dderef g a =>
    some { opc := 0x30B, gn := g.gn, gp := g.gp, a := a }
  | .ddgc g d =>
    some { opc := 0x30C, gn := g.gn, gp := g.gp, d := (0 : BitVec 1) ++ d }
  | .ddnode g d a =>
    some { opc := 0x30D, gn := g.gn, gp := g.gp, d := d, a := a }
  | .ddstat g d imm =>
    some { opc := 0x30E, gn := g.gn, gp := g.gp, d := d, imm := imm }
  | _ => none

/-- The fields of an instruction of class 0xD. -/
def encodeCast : Instr → Option Fields
  | .rsend g a b =>
    some { opc := 0x340, gn := g.gn, gp := g.gp, a := a, b := b }
  | .rrecv g d a =>
    some { opc := 0x341, gn := g.gn, gp := g.gp, d := d, a := a }
  | .cbindOffer g a b =>
    some { opc := 0x342, gn := g.gn, gp := g.gp, a := a, b := b }
  | .cbindWithdraw g a b =>
    some { opc := 0x342, gn := g.gn, gp := g.gp, a := a, b := b, fn := (0x001) }
  | .cget g d a =>
    some { opc := 0x343, gn := g.gn, gp := g.gp, d := d, a := a }
  | .cset g a b =>
    some { opc := 0x344, gn := g.gn, gp := g.gp, a := a, b := b }
  | .cue g a =>
    some { opc := 0x345, gn := g.gn, gp := g.gp, a := a }
  | .cuetake g d a =>
    some { opc := 0x346, gn := g.gn, gp := g.gp, d := d, a := a }
  | .sthand g d a b =>
    some { opc := 0x347, gn := g.gn, gp := g.gp, d := (0 : BitVec 1) ++ d, a := a, b := b }
  | .sttake g d a =>
    some { opc := 0x348, gn := g.gn, gp := g.gp, d := (0 : BitVec 1) ++ d, a := a }
  | _ => none

/-- The fields of an instruction of class 0xE. -/
def encodeReduce : Instr → Option Fields
  | .redcfg g a =>
    some { opc := 0x380, gn := g.gn, gp := g.gp, a := a }
  | .redv g t rm sat grp op d a b =>
    some { opc := 0x381, gn := g.gn, gp := g.gp, t := t.code, rm := rm.code, sat := sat, d := (0 : BitVec 1) ++ d, a := vCode a, b := b, fn := ((0 : BitVec 9) ++ grp) ||| ((0 : BitVec 7) ++ op.code ++ (0 : BitVec 3)) }
  | .reds g t rm sat grp op d a b =>
    some { opc := 0x382, gn := g.gn, gp := g.gp, t := t.code, rm := rm.code, sat := sat, d := (0 : BitVec 1) ++ d, a := a, b := b, fn := ((0 : BitVec 9) ++ grp) ||| ((0 : BitVec 7) ++ op.code ++ (0 : BitVec 3)) }
  | .bcastv g grp d a b =>
    some { opc := 0x383, gn := g.gn, gp := g.gp, d := (0 : BitVec 1) ++ d, a := vCode a, b := b, fn := ((0 : BitVec 9) ++ grp) }
  | _ => none

/-- The fields of an instruction of class 0xF. -/
def encodeSystem : Instr → Option Fields
  | .trap g imm =>
    some { opc := 0x3C0, gn := g.gn, gp := g.gp, imm := imm }
  | .tfence g =>
    some { opc := 0x3C1, gn := g.gn, gp := g.gp }
  | .rfe g =>
    some { opc := 0x3C2, gn := g.gn, gp := g.gp }
  | .brk g imm =>
    some { opc := 0x3C3, gn := g.gn, gp := g.gp, imm := imm }
  | .tqpop g w d =>
    some { opc := 0x3C4, gn := g.gn, gp := g.gp, d := d, fn := ((0 : BitVec 10) ++ w) }
  | .sfqpop g w tr d =>
    some { opc := 0x3C5, gn := g.gn, gp := g.gp, d := d, fn := ((0 : BitVec 10) ++ w) ||| ((0 : BitVec 9) ++ BitVec.ofBool tr ++ (0 : BitVec 2)) }
  | .tlbinv g a b =>
    some { opc := 0x3C6, gn := g.gn, gp := g.gp, a := a, b := b }
  | .slotwr g a b =>
    some { opc := 0x3C7, gn := g.gn, gp := g.gp, a := a, b := b }
  | .mapwr g a b =>
    some { opc := 0x3C8, gn := g.gn, gp := g.gp, a := a, b := b }
  | .vacate g d a =>
    some { opc := 0x3C9, gn := g.gn, gp := g.gp, d := (0 : BitVec 1) ++ d, a := a }
  | .resume g d a =>
    some { opc := 0x3CA, gn := g.gn, gp := g.gp, d := (0 : BitVec 1) ++ d, a := a }
  | .tsusp g a =>
    some { opc := 0x3CB, gn := g.gn, gp := g.gp, a := a }
  | .tresm g a =>
    some { opc := 0x3CC, gn := g.gn, gp := g.gp, a := a }
  | .halt g a =>
    some { opc := 0x3CD, gn := g.gn, gp := g.gp, a := a }
  | _ => none

/-- The fields of an instruction; the machine's own steps have no encoding. -/
def encodeFields (i : Instr) : Option Fields :=
  encodeScalar i <|> encodeControl i <|> encodeThread i <|> encodeNumber i <|> encodeLane i <|> encodeLaneData i <|> encodeMemory i <|> encodeAtomic i <|>
  encodeSync i <|> encodeEngine i <|> encodeSpan i <|> encodePrompter i <|> encodeDd i <|> encodeCast i <|> encodeReduce i <|> encodeSystem i

/-- The word of an instruction (R33). -/
def encode (i : Instr) : Option (BitVec 96) := (encodeFields i).map Fields.toWord

end Sys2Proof
end

