-- ==== Sys2Proof/Machine/Issue.lean ====
section
/-!
DEFINITION. Issue: which thread of a core has the slot of a cycle (R12, R28, R126), the registers that an instruction
names (R38, R93), what holds an instruction back (R41 to R43, R93, R108, R187, R236), the traps found at issue before it
executes (R95, R204, R326), and what the passage of an instruction changes beside its meaning.
-/

set_option linter.unusedVariables false

namespace Sys2Proof

/-! ### The registers that an instruction names (R38, R93) -/

/-- The registers of an operand field. -/
def Kind.regs (kind : Kind) (pair : Bool) (c : BitVec 7) : List Machine.RegRef :=
  match kind with
  | .no => []
  | .s | .h | .h0 => [.s c]
  | .sT => if pair then [.s c, .s (c + 1)] else [.s c]
  | .s2 => [.s c, .s (c + 1)]
  | .s3 => [.s c, .s (c + 1), .s (c + 2)]
  | .v => [.v (vOf c)]
  | .q | .qd => [.q (c.truncate 3)]
  | .k | .kd => [.k (c.truncate 3)]

/-- The predicates and masks that FN and the guard name (R41, R99, R105, R161, R224). -/
def Fields.fnRegs (f : Fields) : List Machine.RegRef :=
  let o := f.opc.toNat
  let low : BitVec 3 := f.fn.extractLsb' 0 3
  if o = 0x01A || o = 0x209 then [.q low]
  else if o = 0x047 then ((List.range 7).filter fun i => f.fn.getLsbD (i + 1)).map fun i => .q (BitVec.ofNat 3 (i + 1))
  else if o = 0x048 then (List.range 7).map fun i => .q (BitVec.ofNat 3 (i + 1))
  else if 0x100 ≤ o && o ≤ 0x11A || o = 0x140 || o = 0x141 || 0x144 ≤ o && o ≤ 0x148 then [.k low]
  else []

/-- An access of R257, or an instruction that its chapter calls an ordinary access. -/
def Fields.isAccess (f : Fields) : Bool :=
  let o := f.opc.toNat
  (0x180 ≤ o && o ≤ 0x18C) || o == 0x190 || (0x1C0 ≤ o && o ≤ 0x1C4) || o == 0x080 || o == 0x200 ||
    (0x203 ≤ o && o ≤ 0x204) || (0x206 ≤ o && o ≤ 0x207) || (0x240 ≤ o && o ≤ 0x243) || o == 0x248 ||
    (0x280 ≤ o && o ≤ 0x284) || (0x2C0 ≤ o && o ≤ 0x2C2) || (0x300 ≤ o && o ≤ 0x30D) || (0x340 ≤ o && o ≤ 0x348) ||
    (0x380 ≤ o && o ≤ 0x383) || (0x3C4 ≤ o && o ≤ 0x3CD)

/-- The special registers that an instruction uses: PSTATE decides every privileged one, and whether an access may name the
system space. -/
def Fields.spRegs (f : Fields) : List Machine.RegRef :=
  let o := f.opc.toNat
  let n := f.imm.toNat % 4096
  (if o = 0x082 || o = 0x083 then (if 0x800 ≤ n then [n, 0x806] else [n])
   else if o = 0x084 then [0x009, 0x00A]
   else if o = 0x080 then [0x007, 0x009, 0x00A, 0x804, 0x805]
   else if o = 0x3C2 then [0x800, 0x806, 0x808]
   else if o = 0x3C5 then [0x808, 0x809, 0x80A, 0x80B]
   else if o = 0x3C9 || o = 0x3CA then [0x806, 0x807]
   else if o = 0x3C4 || 0x3C6 ≤ o && o ≤ 0x3CD then [0x806]
   else if o / 64 = 13 then [0x00C, 0x00D, 0x00E]
   else if o = 0x193 || f.isAccess then [0x806]
   else []).map .sp

/-- The registers of the operand fields. -/
def Fields.opRegs (f : Fields) : List Machine.RegRef :=
  match rowOf f with
  | none => []
  | some r => r.d.regs (pairD f) f.d ++ r.a.regs (pairA f) f.a ++ (if f.i then [] else r.b.regs (pairA f) f.b)

/-- The guard of a word. -/
def Fields.guard (f : Fields) : Gd := ⟨f.gn, f.gp⟩

/-- Every register that an instruction names. -/
def Fields.names (f : Fields) : List Machine.RegRef := f.opRegs ++ f.fnRegs ++ f.spRegs ++ [.q f.gp]

/-- D is read: the rows marked src or r/w (R49). -/
def Fields.readsD (f : Fields) : Bool :=
  let o := f.opc.toNat
  o == 0x049 || o == 0x0C4 || o == 0x103 || o == 0x104 || o == 0x116 || o == 0x119 || o == 0x143 || o == 0x181 || o == 0x183 ||
    o == 0x185 || o == 0x187 || o == 0x18A || o == 0x18B || o == 0x1C1

/-- The registers that an instruction reads, A first. -/
def Fields.reads (f : Fields) : List Machine.RegRef :=
  match rowOf f with
  | none => []
  | some r =>
    r.a.regs (pairA f) f.a ++ (if f.i then [] else r.b.regs (pairA f) f.b) ++
      (if f.readsD then r.d.regs (pairD f) f.d else [])

/-- The registers that an instruction reads, the predicates and masks among them (R93). -/
def Fields.readsAll (f : Fields) : List Machine.RegRef := f.reads ++ (if f.opc == 0x209 then [] else f.fnRegs) ++ [.q f.gp]

/-- The number of a private scalar register. -/
def privateReg : Machine.RegRef → Option Nat
  | .s r => if 0 < r.toNat && r.toNat < 64 then some r.toNat else none
  | _ => none

/-- `htest`, `hcancel` and `hpass` do not wait for the handle in A (R236). -/
def Fields.sparesA (f : Fields) : Bool := f.opc == 0x245 || f.opc == 0x246 || f.opc == 0x247

end Sys2Proof

namespace Sys2Proof.Machine

/-! ### The thread of a slot (R12, R28, R126) -/

/-- The thread that the slot table of a core names in this cycle. -/
def State.slotThread (s : State) (pc : Nat) : Option Tid :=
  let x := (s.pcore pc).slot (s.cyc % 32)
  if x.getLsbD 4 then s.carried pc (x.toNat % 16) else none

/-- Every result of a thread has landed. -/
def Thread.settled (t : Thread) : Bool := t.landings.isEmpty && t.busy.isEmpty

/-- A thread issues in its slot, as far as its own state goes; a handler waits for the results before it (R43). -/
def Thread.ready (t : Thread) (cyc : Nat) : Bool :=
  t.isLive cyc && t.st == .running && !t.held && !t.susp && decide (t.readyAt ≤ cyc) &&
    (match t.stall with
     | none => true
     | some .quiet => t.settled
     | _ => false)

/-- The thread that may issue on a core in this cycle: its job runs, and the core is not in machine-check hold (R377). -/
def State.turn (s : State) (pc : Nat) : Option Tid :=
  match s.slotThread pc with
  | none => none
  | some w =>
    if (s.job w.job).st == .running && !(s.pcore pc).cstat.getLsbD 1 && (s.thread w).ready s.cyc then some w else none

/-! ### What holds an instruction back -/

/-- The access that a thread waits for stands in the wait list of its FE word: the thread parks (R190). -/
def State.parkFe (s : State) (w : Tid) : Option State :=
  match (s.thread w).ordAcc with
  | none => none
  | some i =>
    if s.feWaiting w.job i then
      let va : Nat :=
        match (s.accs.get? i).bind fun a => a.parts.head?.bind fun p => p.2.elems.head? with
        | some e => e.va.toNat / 8 * 8
        | none => 0
      some (s.park w .fe (w64 va) false (.access i))
    else none

/-- A named register has not landed, or a lookahead window is used up (R42, R93). FLAGS is such a register while a result
that sets a flag is outstanding: LA changes no result. -/
def State.holdsBack (s : State) (w : Tid) (f : Fields) : Bool :=
  let t := s.thread w
  (t.window.any fun x => x.2 == 0) || (f.names.any fun r => t.busy.any fun b => b.2 == r) ||
    ((f.names.any fun r => r == .sp 0x006) && t.landings.any fun l => l.flags != 0)

/-- A flit or frame of a thread has been refused, or is held back behind a refused one. -/
def State.isRefused (s : State) (w : Tid) (id : Nat) : Bool :=
  (s.thread w).refused.contains id || (s.thread w).outHeld.contains id

/-- The next access waits for the ordinary access before it. One that a refused flit or frame holds up parks, so that a
job in which nobody ever takes it is seen to hang (R5, R28). -/
def State.awaitOrdinary (s : State) (w : Tid) (i : Nat) : State :=
  if !s.isRefused w i then s
  else
    match (s.thread w).outbox.find? fun f => f.id == i with
    | some f => s.park w .outbox f.dst false .reissue
    | none => s.parkRecord w

/-- A register of a list whose PEND tag is set (R236). -/
def Thread.pendAmong (t : Thread) (rs : List RegRef) : Option Nat := (rs.filterMap privateReg).find? fun n => t.pend.getLsbD n

/-- The named register on whose handle an instruction parks. -/
def State.pendingOf (s : State) (w : Tid) (f : Fields) : Option Nat :=
  (s.thread w).pendAmong (if f.sparesA then f.opRegs.filter fun r => r != .s f.a else f.opRegs)

/-- A register that an instruction reads and that holds a DD_FULL completion not yet raised (R326). -/
def State.fullOf (s : State) (w : Tid) (f : Fields) : Option (Nat × Word) :=
  if f.opc == 0x245 then none
  else
    (f.reads.filterMap privateReg).findSome? fun n => ((s.thread w).ddFull.get? n).map fun p => (n, p)

/-- DD_FULL at the reading instruction: raised once. -/
def State.raiseFull (s : State) (w : Tid) (n : Nat) (p : Word) : State :=
  let live := ((s.clu w.job ((s.job w.job).cluOf w.lcn)).dde.counters.getD 0 0).toNat
  (s.modThread w fun t => { t with ddFull := t.ddFull.del n }).trapAt w .ddFull p (s.pcOf w)
    (w64 (n + live % 2 ^ 32 * 2 ^ 32))

/-- A register that an instruction reads and both of whose copies fail (R95): of the thread, or of those its core shares. -/
def State.failedOf (s : State) (w : Tid) (f : Fields) : Option RegRef :=
  f.readsAll.find? fun r => ((s.thread w).parity ++ (s.core w.job w.lcn).parity).contains r

/-- A register whose failure has been reported. -/
def State.clearParity (s : State) (w : Tid) (r : RegRef) : State :=
  (s.modCore w.job w.lcn fun c => { c with parity := c.parity.erase r }).modThread w fun t => { t with parity := t.parity.erase r }

/-- What happens at a thread's slot before the instruction executes: the new state when it does not execute in this
slot, none when it does. A STORE_FAULT that is due, MCHECK, the park on a pending handle and DD_FULL come in this order, and all
before the PRIV of the instruction's own meaning (log 74). -/
def State.preIssue (s : State) (w : Tid) (f : Fields) : Option State :=
  let t := s.thread w
  if s.holdsBack w f then some s
  else if !s.guardOn w f.guard then none
  else
    match if f.isAccess then t.ordAcc else none with
    | some i => some (s.awaitOrdinary w i)
    | none =>
      if f.isAccess && decide (s.cyc < t.accAt) then some s
      else if t.sfDue && !t.retry then
        some ((s.modThread w fun t => { t with sfDue := false }).trap w .storeFault 0 (w64 t.sfq.length))
      else
        match s.failedOf w f with
        | some n =>
          some ((s.drawn.clearParity w n).machineCheck w (Config.syndrome s.seq))
        | none =>
          match s.pendingOf w f with
          | some n => some (s.park w .handle (handleObj n) false .reissue)
          | none =>
            match s.fullOf w f with
            | some (n, p) => some (s.raiseFull w n p)
            | none => none

/-- What the issue of a word executes: the instruction, or the step of R52. -/
def instrOf (x : BitVec 96) : Instr :=
  match decode x with
  | .ok i => i
  | .error c => .illegalInstruction c

/-- What happens before the word `x` executes; a word that is no instruction waits for the lookahead windows alone, and leaves
a STORE_FAULT that is due to the next instruction (log 74). -/
def State.beforeIssue (s : State) (w : Tid) (x : BitVec 96) : Option State :=
  match decode x with
  | .ok _ => s.preIssue w (Fields.ofWord x)
  | .error _ => if (s.thread w).window.any fun y => y.2 == 0 then some s else none

/-! ### The passage of an instruction -/

/-- A thread stands at the same instruction, which will issue again. -/
def Thread.reissues (old new : Thread) : Bool :=
  new.pc == old.pc && new.readyAt == old.readyAt && new.jepc == old.jepc && new.pstate == old.pstate &&
    (match new.st, new.wait, new.stall with
     | .parked, some { cont := .reissue, .. }, _ => true
     | .running, _, none => true
     | .running, _, some .walk => true
     | _, _, _ => false)

/-- An instruction of a thread has issued: it counts against the lookahead windows open before it (R42). -/
def Thread.passed (old new : Thread) : Thread :=
  if Thread.reissues old new then new
  else
    { new with
      window := new.window.map fun x => if old.window.any fun y => y.1 == x.1 then (x.1, x.2 - 1) else x
      retry := new.retry && new.st != .running }

/-- Raw scratch of a job's cores no longer takes writes once the job issues (R396). -/
def State.endLoading (s : State) (pc : Nat) : State :=
  if (s.pcore pc).loading then
    { s with pcores := s.pcores.map fun (i, q) =>
        (i, if q.jobreg = (s.pcore pc).jobreg then { q with loading := false } else q) }
  else s

/-- What follows an instruction of a thread: its windows, the loading of its job, and the lines that its PC now needs. -/
def State.afterIssue (old new : State) (pc : Nat) (w : Tid) : State :=
  ((new.modThread w fun t => Thread.passed (old.thread w) t).endLoading pc).fetchAhead w

/-! ### One core's slot -/

/-- What a core does in its slot: nothing beyond a state, or a thread executes a word. -/
inductive Slot where
  | idle (s : State)
  | issue (w : Tid) (x : BitVec 96) (s : State)

/-- The thread of the slot is ready: it parks on an FE word, asks for its line, waits, or executes. -/
def State.slotOf (s : State) (w : Tid) : Slot :=
  let s := if (s.thread w).stall.isSome then s.unstall w else s
  match s.parkFe w with
  | some s => .idle s
  | none =>
    match s.fetched w with
    | none => .idle (s.fetchAhead w)
    | some x =>
      match s.beforeIssue w x with
      | some s => .idle s
      | none => .issue w x { (s.takeBinding w) with cur := w }

/-- The slot of a core in this cycle. -/
def State.slot (s : State) (pc : Nat) : Slot :=
  match s.turn pc with
  | none => .idle s
  | some w => s.slotOf w

/-! ### Cycles -/

/-- `syncf` releases, as the cycle leaves its threads (R110). -/
def State.syncfSweep (s : State) : State :=
  (s.jobs.flatMap fun (j, _) => (s.threadsOf j)).foldl (fun s (w, t) =>
    match t.stall with
    | some (.syncf p _) => if (s.thread w).stall == t.stall && t.st == .running && !t.held && !t.susp then s.syncfCheck w p else s
    | _ => s) s

/-- Slot-table writes take effect when entry 0 comes round (R380). -/
def State.takeSlots (s : State) : State :=
  if s.cyc % 32 = 0 then
    { s with pcores := s.pcores.map fun (i, q) =>
        (i, { q with slots := q.slotsNext.foldl (fun m (k, v) => m.set k v) q.slots, slotsNext := [] }) }
  else s

/-- The next cycle. -/
def State.nextCycle (s : State) : State :=
  let s := s.syncfSweep
  { s with cyc := s.cyc + 1, scan := 0 }.takeSlots

/-- The step at the head of the agenda, if it is due: before the issue of its cycle, or after it when `late`. -/
def State.due (s : State) (late : Bool) : Option (Event × State) :=
  match s.agenda with
  | [] => none
  | p :: ps =>
    if p.due < s.cyc || (p.due == s.cyc && (late || decide (p.ev.rank < lateRank))) then some (p.ev, { s with agenda := ps })
    else none

/-- The next core that has not had its slot in this cycle. -/
def State.nextCore (s : State) : Option Nat := (s.pcores.find? fun q => s.scan ≤ q.1).map Prod.fst

/-- What follows an outcome that is a next state. -/
def afterNext (o : Host.Outcome State Fault Refusal) (f : State → State) : Host.Outcome State Fault Refusal :=
  match o with
  | .next s => .next (f s)
  | .fault r => .fault r
  | .refused r => .refused r

/-! ### Placing an instruction for the next step -/

/-- A job of one cluster on physical cluster 0 whose thread 0 of core 0 holds, as its code line, an instruction word at its
code base and is ready to issue it; nothing else is due (log 3). -/
def State.atWord (s : State) (x : BitVec 96) : State :=
  let t : Thread :=
    { st := .running, gen := 1, pc := 0x10000, lines := [⟨0x10000, x.zeroExtend 384, 0, 48⟩] }
  let core (i : Nat) : LCore := if i = 0 then { threads := [(0, t)] } else {}
  let b : Job :=
    { st := .running, w := 4, h := 2, t := 1, foot := 0x200000, entry := 0x10000, cbase := 0x10000,
      cores := (List.range 8).map fun i => (i, core i) }
  let q : PCore := { jobreg := 1, cbase := 0x10000, slots := [(s.cyc % 32, 0x10)] }
  ({ s with
    scan := 0, agenda := []
    jobs := [(1, b)]
    pcores := ((List.range 4).map fun i => (i, q)) ++ (List.range 4).map fun i => (40 + i, q)
    pclus := [(0, { map := [(0, mapEntry 0 0 0)] })] } : State).openRoutes 1

end Sys2Proof.Machine
end

