-- ==== Sys2Proof/Machine/Step.lean ====
section
/-!
DEFINITION. One step of the package (log 1): the next due step of the agenda, or the slot of the next core, or the passage
to the next cycle.
-/

namespace Sys2Proof.Machine

/-- The slot of a core: what the issue logic does, or the execution of an instruction and what follows it. -/
def coreStep (pc : Nat) (s : State) : Host.Outcome State Fault Refusal :=
  match s.slot pc with
  | .idle t => .next t
  | .issue w x t => afterNext (exec (instrOf x) t) fun u => State.afterIssue t u pc w

/-- One step. -/
def step (s : State) : Host.Outcome State Fault Refusal :=
  match s.due false with
  | some (e, t) => runEvent e t
  | none =>
    match s.nextCore with
    | some pc => coreStep pc { s with scan := pc + 1 }
    | none =>
      match s.due true with
      | some (e, t) => runEvent e t
      | none => .next s.nextCycle

/-- `s` with the instruction whose bits are `w` placed where the next step fetches (log 3). -/
def State.withFetchWord (s : State) (nbits w : Nat) : State := s.atWord (BitVec.ofNat 96 (w % 2 ^ nbits))

end Sys2Proof.Machine
end

