-- ==== Sys2Proof/WellFormed.lean ====
section
/-!
DEFINITION. Which terms of `Instr` are instructions that a word can hold: the guard, register kinds, types, function
values, and rounding and saturation limits of R38 to R51, checked on the term itself and written independently of the
decoder. A step of the machine that is not an instruction has no word, so it is not well-formed.
-/

set_option linter.unusedVariables false

namespace Sys2Proof

/-- GN = 1 with GP = 0 is illegal (R41). -/
def Gd.ok (g : Gd) : Bool := !(g.gn && g.gp == 0)

/-- A pair lies within one bank (R38, kind s2). -/
def pairOk (r : SReg) : Bool := r != 63 && r != 127

/-- A triple lies within one bank (R38, kind s3). -/
def tripleOk (r : SReg) : Bool := pairOk r && r != 62 && r != 126

/-- An s* operand: a pair exactly when its type is a80 (R38). -/
def starOk (t : Ty) (r : SReg) : Bool := t != .a80 || pairOk r

/-- RM only as R50 permits. -/
def rmOk (rm : Rm) (permitted : Bool) : Bool := rm == .rne || permitted

/-- SAT only as R50 permits. -/
def satOk (sat permitted : Bool) : Bool := !sat || permitted

/-- A lane count of 1 to 64 (R184). -/
def cntOk (c : BitVec 8) : Bool := decide (1 ≤ c.toNat) && decide (c.toNat ≤ 64)

/-- A granule code of 6 to 16 (R201). -/
def granOk (g : BitVec 5) : Bool := decide (6 ≤ g.toNat) && decide (g.toNat ≤ 16)

/-- The checks of class 0x0. -/
def wfScalar : Instr → Bool
  | .nop g => g.ok
  | .add g _ _ _ _ => g.ok
  | .sub g _ _ _ _ => g.ok
  | .mul g _ _ _ _ => g.ok
  | .mulh g _ _ _ _ => g.ok
  | .mulhu g _ _ _ _ => g.ok
  | .div g _ _ _ _ _ => g.ok
  | .divu g _ _ _ _ _ => g.ok
  | .rem g _ _ _ _ _ => g.ok
  | .remu g _ _ _ _ _ => g.ok
  | .and g _ _ _ => g.ok
  | .or g _ _ _ => g.ok
  | .xor g _ _ _ => g.ok
  | .andn g _ _ _ => g.ok
  | .shl g _ _ _ _ => g.ok
  | .shr g _ _ _ _ => g.ok
  | .sar g _ _ _ _ => g.ok
  | .rol g _ _ _ _ => g.ok
  | .clz g _ _ _ => g.ok
  | .ctz g _ _ _ => g.ok
  | .popc g _ _ _ => g.ok
  | .min g _ _ _ _ => g.ok
  | .max g _ _ _ _ => g.ok
  | .minu g _ _ _ _ => g.ok
  | .maxu g _ _ _ _ => g.ok
  | .sel g _ _ _ _ => g.ok
  | .movi g _ _ => g.ok
  | .movhi g _ _ _ => g.ok
  | .bext g _ _ _ _ _ => g.ok
  | .bextu g _ _ _ _ _ => g.ok
  | .bins g _ _ _ _ _ => g.ok
  | .sext g _ _ _ => g.ok
  | .bswap g _ _ _ => g.ok
  | .mov g _ _ => g.ok
  | _ => false

/-- The checks of class 0x1. -/
def wfControl : Instr → Bool
  | .br g _ => g.ok
  | .jmp g _ _ => g.ok
  | .call g _ _ => g.ok
  | .callr g _ _ _ => g.ok
  | .cmp g _ _ d _ _ => g.ok && d != 0
  | .tst g _ d _ _ => g.ok && d != 0
  | .plog g _ d _ _ => g.ok && d != 0
  | .pset g _ _ => g.ok
  | .pget g _ => g.ok
  | .dbnz g _ _ => g.ok
  | .syncf g _ => g.ok
  | _ => false

/-- The checks of class 0x2. -/
def wfThread : Instr → Bool
  | .start g _ d _ _ => g.ok && d != 0
  | .exit g _ => g.ok
  | .gets g _ _ => g.ok
  | .sets g _ _ => g.ok
  | .tilepos g d => g.ok && tripleOk d
  | .sleep g _ _ => g.ok
  | .mkadr g _ _ _ _ => g.ok
  | .slotrd g _ _ => g.ok
  | .thrst g _ _ => g.ok
  | _ => false

/-- The checks of class 0x3. -/
def wfNumber : Instr → Bool
  | .cvt g t rm sat src d a => g.ok && TSet.has .all t && TSet.has .all src && starOk t d && starOk src a && rmOk rm (convRm t src) && satOk sat (convSat t src)
  | .fadd g t _ d a b => g.ok && TSet.has .fa t && starOk t d && starOk t a && starOk t b
  | .fsub g t _ d a b => g.ok && TSet.has .fa t && starOk t d && starOk t a && starOk t b
  | .fmul g t _ d a b => g.ok && TSet.has .fa t && starOk t d && starOk t a && starOk t b
  | .ffma g t _ d a b => g.ok && TSet.has .fa t && starOk t d && starOk t a && starOk t b
  | .fdiv g _ t _ _ _ _ => g.ok && TSet.has .f t
  | .fsqrt g _ t _ _ _ => g.ok && TSet.has .f t
  | .fmin g t d a b => g.ok && TSet.has .fa t && starOk t d && starOk t a && starOk t b
  | .fmax g t d a b => g.ok && TSet.has .fa t && starOk t d && starOk t a && starOk t b
  | .fcmp g t _ d a b => g.ok && TSet.has .fa t && d != 0 && starOk t a && starOk t b
  | .fclass g t _ a => g.ok && TSet.has .fa t && starOk t a
  | .vcvt g t rm sat src _ _ => g.ok && TSet.has .lane t && TSet.has .lane src && rmOk rm (convRm t src) && satOk sat (convSat t src)
  | .vpack g t rm sat _ _ _ => g.ok && TSet.has .narrow t && rmOk rm (convRm t (packSrc t)) && satOk sat (convSat t (packSrc t))
  | .vunpk g t part _ _ => g.ok && TSet.has .narrow t && (!part.getLsbD 1 || t.width == 8)
  | _ => false

/-- The checks of class 0x4. -/
def wfLane : Instr → Bool
  | .vadd g t rm sat _ _ _ _ => g.ok && TSet.has .v t && rmOk rm (t == .f32) && satOk sat (t != .f32)
  | .vsub g t rm sat _ _ _ _ => g.ok && TSet.has .v t && rmOk rm (t == .f32) && satOk sat (t != .f32)
  | .vmul g t rm sat _ _ _ _ => g.ok && TSet.has .v t && rmOk rm (t == .f32) && satOk sat (t != .f32)
  | .vfma g t rm sat _ _ _ _ => g.ok && TSet.has .v t && rmOk rm (t == .f32) && satOk sat (t != .f32)
  | .vfms g t rm sat _ _ _ _ => g.ok && TSet.has .v t && rmOk rm (t == .f32) && satOk sat (t != .f32)
  | .vmin g t _ _ _ _ => g.ok && TSet.has .v t
  | .vmax g t _ _ _ _ => g.ok && TSet.has .v t
  | .vabs g t sat _ _ _ => g.ok && TSet.has .vs t && satOk sat (t == .i32)
  | .vneg g t sat _ _ _ => g.ok && TSet.has .vs t && satOk sat (t == .i32)
  | .vexp2 g _ _ _ _ => g.ok
  | .vlog2 g _ _ _ _ => g.ok
  | .vrcp g _ _ _ _ => g.ok
  | .vrsq g _ _ _ _ => g.ok
  | .vcmp g t _ cnd d _ _ => g.ok && TSet.has .v t && d != 0 && ((cnd != .un && cnd != .ord) || t == .f32)
  | .vsel g _ _ _ _ => g.ok
  | .vand g _ _ _ _ => g.ok
  | .vor g _ _ _ _ => g.ok
  | .vxor g _ _ _ _ => g.ok
  | .vshl g _ _ _ _ => g.ok
  | .vshr g _ _ _ _ => g.ok
  | .vsar g _ _ _ _ => g.ok
  | .vpopc g _ _ _ => g.ok
  | .vdot4 g t _ _ _ _ _ => g.ok && TSet.has .dot t
  | .vsum g t rm sat _ _ _ => g.ok && TSet.has .v t && rmOk rm (t == .f32) && satOk sat (t != .f32)
  | .vmaxr g t _ _ _ => g.ok && TSet.has .v t
  | .vfmas g t rm sat _ _ _ _ => g.ok && TSet.has .v t && rmOk rm (t == .f32) && satOk sat (t != .f32)
  | .vscal g t rm sat _ _ _ _ => g.ok && TSet.has .v t && rmOk rm (t == .f32) && satOk sat (t != .f32)
  | _ => false

/-- The checks of class 0x5. -/
def wfLaneData : Instr → Bool
  | .vmov g _ _ _ => g.ok
  | .vbcast g _ _ _ => g.ok
  | .vget g _ _ _ _ => g.ok
  | .vput g _ _ _ => g.ok
  | .vperm g _ _ _ _ => g.ok
  | .vrot g _ _ _ _ => g.ok
  | .vcomp g _ _ _ => g.ok
  | .vexpd g _ _ _ => g.ok
  | .viota g _ _ => g.ok
  | .kop g _ d _ _ => g.ok && d != 0
  | .kpopc g _ _ => g.ok
  | .kmovToMask g d _ => g.ok && d != 0
  | .kmovFromMask g _ _ => g.ok
  | .kfirst g _ _ => g.ok
  | _ => false

/-- The checks of class 0x6. -/
def wfMemory : Instr → Bool
  | .ld g _ _ t _ _ _ _ => g.ok && TSet.has .int t
  | .st g _ t _ _ _ _ => g.ok && TSet.has .int t
  | .vld g _ _ t cnt _ _ _ _ => g.ok && TSet.has .memv t && cntOk cnt
  | .vst g _ t cnt _ _ _ _ => g.ok && TSet.has .memv t && cntOk cnt
  | .vlds g _ _ t cnt _ _ _ _ => g.ok && TSet.has .memv t && cntOk cnt
  | .vsts g _ t cnt _ _ _ _ => g.ok && TSet.has .memv t && cntOk cnt
  | .vldx g _ _ t _ cnt _ _ _ _ => g.ok && TSet.has .memv t && cntOk cnt
  | .vstx g _ t _ cnt _ _ _ _ => g.ok && TSet.has .memv t && cntOk cnt
  | .ldf g _ t _ _ _ _ => g.ok && TSet.has .int t
  | .ldp g _ t _ _ _ _ => g.ok && TSet.has .int t
  | .ste g t _ _ _ _ => g.ok && TSet.has .int t
  | .stf g _ t _ _ _ _ => g.ok && TSet.has .int t
  | .fe g _ _ _ _ => g.ok
  | .tlook g _ gs _ _ => g.ok && granOk gs
  | .tset g gs _ _ => g.ok && granOk gs
  | .tinv g gs _ => g.ok && granOk gs
  | .tinvAll g => g.ok
  | .guard g _ _ _ _ => g.ok
  | .drain g => g.ok
  | .fence g _ => g.ok
  | .xlat g _ _ _ _ => g.ok
  | _ => false

/-- The checks of class 0x7. -/
def wfAtomic : Instr → Bool
  | .amo g _ _ t _ _ _ _ _ => g.ok && TSet.has .wide t
  | .cas g _ _ t _ _ _ _ => g.ok && TSet.has .wide t
  | .famo g _ _ t _ _ _ _ _ _ => g.ok && TSet.has .f t
  | .rupd g _ t op _ _ _ => g.ok && TSet.has .wide t && op != .swap
  | .frupd g _ t _ _ _ _ _ => g.ok && TSet.has .f t
  | _ => false

/-- The checks of class 0x8. -/
def wfSync : Instr → Bool
  | .mon g _ _ _ => g.ok
  | .monc g => g.ok
  | .waitm g _ _ _ => g.ok
  | .bar g _ => g.ok
  | .bara g _ _ => g.ok
  | .barw g _ => g.ok
  | .barset g _ _ => g.ok
  | .send g _ _ _ _ => g.ok
  | .recv g _ => g.ok
  | .trecv g p _ _ => g.ok && p != 0
  | .mqst g _ _ => g.ok
  | _ => false

/-- The checks of class 0x9. -/
def wfEngine : Instr → Bool
  | .copy g _ d _ _ _ => g.ok && d != 0
  | .copy2 g _ d _ _ _ => g.ok && d != 0
  | .gath g _ d _ => g.ok && d != 0
  | .scat g _ d _ => g.ok && d != 0
  | .hval g _ _ a => g.ok && a != 0
  | .htest g d a => g.ok && d != 0 && a != 0
  | .hcancel g a => g.ok && a != 0
  | .hpass g _ a => g.ok && a != 0
  | .hadopt g d _ => g.ok && d != 0
  | _ => false

/-- The checks of class 0xA. -/
def wfSpan : Instr → Bool
  | .sopen g t _ _ scl _ bop d _ _ => g.ok && TSet.has .span t && d != 0 && (!scl || t == .e4m3 || t == .e5m2) && (!bop || t == .b1)
  | .sjoin g t _ scl d _ _ => g.ok && TSet.has .span t && d != 0 && (!scl || t == .e4m3 || t == .e5m2)
  | .sfeed g _ _ _ _ => g.ok
  | .sscale g _ _ _ => g.ok
  | .sclose g t rm sat _ _ _ _ => g.ok && TSet.has .out t && rmOk rm (t != .i32 && t != .a80) && satOk sat (t != .a80)
  | .scloseRdl g t rm sat _ _ _ _ _ => g.ok && TSet.has .out t && rmOk rm (t != .i32 && t != .a80) && satOk sat (t != .a80)
  | .sabort g _ _ => g.ok
  | .sstat g _ _ => g.ok
  | .sround g => g.ok
  | _ => false

/-- The checks of class 0xB. -/
def wfPrompter : Instr → Bool
  | .pcfg g _ => g.ok
  | .pplan g d _ _ => g.ok && d != 0
  | .pfetch g _ wm d _ => g.ok && d != 0 && wm != 0
  | .pstat g _ _ => g.ok
  | _ => false

/-- The checks of class 0xC. -/
def wfDd : Instr → Bool
  | .ddcfg g _ => g.ok
  | .ddord g _ _ => g.ok
  | .ddwset g _ _ => g.ok
  | .ddmk g d _ _ _ => g.ok && d != 0
  | .ddapply g _ d _ _ => g.ok && d != 0
  | .ddite g d a _ => g.ok && d != 0 && pairOk a
  | .ddrestr g d _ _ => g.ok && d != 0
  | .ddexist g d _ _ => g.ok && d != 0
  | .ddcount g d _ => g.ok && d != 0
  | .ddwcount g d _ => g.ok && d != 0
  | .ddref g _ => g.ok
  | .dderef g _ => g.ok
  | .ddgc g d => g.ok && d != 0
  | .ddnode g d _ => g.ok && pairOk d
  | .ddstat g _ _ => g.ok
  | _ => false

/-- The checks of class 0xD. -/
def wfCast : Instr → Bool
  | .rsend g _ _ => g.ok
  | .rrecv g _ _ => g.ok
  | .cbindOffer g _ _ => g.ok
  | .cbindWithdraw g _ _ => g.ok
  | .cget g _ _ => g.ok
  | .cset g _ _ => g.ok
  | .cue g _ => g.ok
  | .cuetake g _ _ => g.ok
  | .sthand g d _ _ => g.ok && d != 0
  | .sttake g d _ => g.ok && d != 0
  | _ => false

/-- The checks of class 0xE. -/
def wfReduce : Instr → Bool
  | .redcfg g _ => g.ok
  | .redv g t rm _ _ _ d _ _ => g.ok && TSet.has .v t && d != 0 && rmOk rm (t == .f32 || t == .f64)
  | .reds g t rm _ _ _ d _ _ => g.ok && TSet.has .rs t && d != 0 && rmOk rm (t == .f32 || t == .f64)
  | .bcastv g _ d _ _ => g.ok && d != 0
  | _ => false

/-- The checks of class 0xF. -/
def wfSystem : Instr → Bool
  | .trap g _ => g.ok
  | .tfence g => g.ok
  | .rfe g => g.ok
  | .brk g _ => g.ok
  | .tqpop g _ _ => g.ok
  | .sfqpop g _ _ _ => g.ok
  | .tlbinv g _ _ => g.ok
  | .slotwr g _ _ => g.ok
  | .mapwr g _ _ => g.ok
  | .vacate g d _ => g.ok && d != 0
  | .resume g d _ => g.ok && d != 0
  | .tsusp g _ => g.ok
  | .tresm g _ => g.ok
  | .halt g _ => g.ok
  | _ => false

/-- The terms of `Instr` that a legal word holds. -/
def Instr.wellFormed (i : Instr) : Bool :=
  wfScalar i || wfControl i || wfThread i || wfNumber i || wfLane i || wfLaneData i || wfMemory i || wfAtomic i ||
  wfSync i || wfEngine i || wfSpan i || wfPrompter i || wfDd i || wfCast i || wfReduce i || wfSystem i

end Sys2Proof
end

