-- ==== Sys2Proof/Safety.lean ====
section
/-!
DEFINITION. What a safe run is, what holds of the memory in every state, and the terms in which statements say what an
instruction leaves as it is.
-/

set_option linter.unusedVariables false

namespace Sys2Proof

/-- The guard of an instruction (R41); the steps of the machine's own have none. -/
def Instr.guard? : Instr → Option Gd
  | .nop g => some g
  | .add g _ _ _ _ => some g
  | .sub g _ _ _ _ => some g
  | .mul g _ _ _ _ => some g
  | .mulh g _ _ _ _ => some g
  | .mulhu g _ _ _ _ => some g
  | .div g _ _ _ _ _ => some g
  | .divu g _ _ _ _ _ => some g
  | .rem g _ _ _ _ _ => some g
  | .remu g _ _ _ _ _ => some g
  | .and g _ _ _ => some g
  | .or g _ _ _ => some g
  | .xor g _ _ _ => some g
  | .andn g _ _ _ => some g
  | .shl g _ _ _ _ => some g
  | .shr g _ _ _ _ => some g
  | .sar g _ _ _ _ => some g
  | .rol g _ _ _ _ => some g
  | .clz g _ _ _ => some g
  | .ctz g _ _ _ => some g
  | .popc g _ _ _ => some g
  | .min g _ _ _ _ => some g
  | .max g _ _ _ _ => some g
  | .minu g _ _ _ _ => some g
  | .maxu g _ _ _ _ => some g
  | .sel g _ _ _ _ => some g
  | .movi g _ _ => some g
  | .movhi g _ _ _ => some g
  | .bext g _ _ _ _ _ => some g
  | .bextu g _ _ _ _ _ => some g
  | .bins g _ _ _ _ _ => some g
  | .sext g _ _ _ => some g
  | .bswap g _ _ _ => some g
  | .mov g _ _ => some g
  | .br g _ => some g
  | .jmp g _ _ => some g
  | .call g _ _ => some g
  | .callr g _ _ _ => some g
  | .cmp g _ _ _ _ _ => some g
  | .tst g _ _ _ _ => some g
  | .plog g _ _ _ _ => some g
  | .pset g _ _ => some g
  | .pget g _ => some g
  | .dbnz g _ _ => some g
  | .syncf g _ => some g
  | .start g _ _ _ _ => some g
  | .exit g _ => some g
  | .gets g _ _ => some g
  | .sets g _ _ => some g
  | .tilepos g _ => some g
  | .sleep g _ _ => some g
  | .mkadr g _ _ _ _ => some g
  | .slotrd g _ _ => some g
  | .thrst g _ _ => some g
  | .cvt g _ _ _ _ _ _ => some g
  | .fadd g _ _ _ _ _ => some g
  | .fsub g _ _ _ _ _ => some g
  | .fmul g _ _ _ _ _ => some g
  | .ffma g _ _ _ _ _ => some g
  | .fdiv g _ _ _ _ _ _ => some g
  | .fsqrt g _ _ _ _ _ => some g
  | .fmin g _ _ _ _ => some g
  | .fmax g _ _ _ _ => some g
  | .fcmp g _ _ _ _ _ => some g
  | .fclass g _ _ _ => some g
  | .vcvt g _ _ _ _ _ _ => some g
  | .vpack g _ _ _ _ _ _ => some g
  | .vunpk g _ _ _ _ => some g
  | .vadd g _ _ _ _ _ _ _ => some g
  | .vsub g _ _ _ _ _ _ _ => some g
  | .vmul g _ _ _ _ _ _ _ => some g
  | .vfma g _ _ _ _ _ _ _ => some g
  | .vfms g _ _ _ _ _ _ _ => some g
  | .vmin g _ _ _ _ _ => some g
  | .vmax g _ _ _ _ _ => some g
  | .vabs g _ _ _ _ _ => some g
  | .vneg g _ _ _ _ _ => some g
  | .vexp2 g _ _ _ _ => some g
  | .vlog2 g _ _ _ _ => some g
  | .vrcp g _ _ _ _ => some g
  | .vrsq g _ _ _ _ => some g
  | .vcmp g _ _ _ _ _ _ => some g
  | .vsel g _ _ _ _ => some g
  | .vand g _ _ _ _ => some g
  | .vor g _ _ _ _ => some g
  | .vxor g _ _ _ _ => some g
  | .vshl g _ _ _ _ => some g
  | .vshr g _ _ _ _ => some g
  | .vsar g _ _ _ _ => some g
  | .vpopc g _ _ _ => some g
  | .vdot4 g _ _ _ _ _ _ => some g
  | .vsum g _ _ _ _ _ _ => some g
  | .vmaxr g _ _ _ _ => some g
  | .vfmas g _ _ _ _ _ _ _ => some g
  | .vscal g _ _ _ _ _ _ _ => some g
  | .vmov g _ _ _ => some g
  | .vbcast g _ _ _ => some g
  | .vget g _ _ _ _ => some g
  | .vput g _ _ _ => some g
  | .vperm g _ _ _ _ => some g
  | .vrot g _ _ _ _ => some g
  | .vcomp g _ _ _ => some g
  | .vexpd g _ _ _ => some g
  | .viota g _ _ => some g
  | .kop g _ _ _ _ => some g
  | .kpopc g _ _ => some g
  | .kmovToMask g _ _ => some g
  | .kmovFromMask g _ _ => some g
  | .kfirst g _ _ => some g
  | .ld g _ _ _ _ _ _ _ => some g
  | .st g _ _ _ _ _ _ => some g
  | .vld g _ _ _ _ _ _ _ _ => some g
  | .vst g _ _ _ _ _ _ _ => some g
  | .vlds g _ _ _ _ _ _ _ _ => some g
  | .vsts g _ _ _ _ _ _ _ => some g
  | .vldx g _ _ _ _ _ _ _ _ _ => some g
  | .vstx g _ _ _ _ _ _ _ _ => some g
  | .ldf g _ _ _ _ _ _ => some g
  | .ldp g _ _ _ _ _ _ => some g
  | .ste g _ _ _ _ _ => some g
  | .stf g _ _ _ _ _ _ => some g
  | .fe g _ _ _ _ => some g
  | .tlook g _ _ _ _ => some g
  | .tset g _ _ _ => some g
  | .tinv g _ _ => some g
  | .tinvAll g => some g
  | .guard g _ _ _ _ => some g
  | .drain g => some g
  | .fence g _ => some g
  | .xlat g _ _ _ _ => some g
  | .amo g _ _ _ _ _ _ _ _ => some g
  | .cas g _ _ _ _ _ _ _ => some g
  | .famo g _ _ _ _ _ _ _ _ _ => some g
  | .rupd g _ _ _ _ _ _ => some g
  | .frupd g _ _ _ _ _ _ _ => some g
  | .mon g _ _ _ => some g
  | .monc g => some g
  | .waitm g _ _ _ => some g
  | .bar g _ => some g
  | .bara g _ _ => some g
  | .barw g _ => some g
  | .barset g _ _ => some g
  | .send g _ _ _ _ => some g
  | .recv g _ => some g
  | .trecv g _ _ _ => some g
  | .mqst g _ _ => some g
  | .copy g _ _ _ _ _ => some g
  | .copy2 g _ _ _ _ _ => some g
  | .gath g _ _ _ => some g
  | .scat g _ _ _ => some g
  | .hval g _ _ _ => some g
  | .htest g _ _ => some g
  | .hcancel g _ => some g
  | .hpass g _ _ => some g
  | .hadopt g _ _ => some g
  | .sopen g _ _ _ _ _ _ _ _ _ => some g
  | .sjoin g _ _ _ _ _ _ => some g
  | .sfeed g _ _ _ _ => some g
  | .sscale g _ _ _ => some g
  | .sclose g _ _ _ _ _ _ _ => some g
  | .scloseRdl g _ _ _ _ _ _ _ _ => some g
  | .sabort g _ _ => some g
  | .sstat g _ _ => some g
  | .sround g => some g
  | .pcfg g _ => some g
  | .pplan g _ _ _ => some g
  | .pfetch g _ _ _ _ => some g
  | .pstat g _ _ => some g
  | .ddcfg g _ => some g
  | .ddord g _ _ => some g
  | .ddwset g _ _ => some g
  | .ddmk g _ _ _ _ => some g
  | .ddapply g _ _ _ _ => some g
  | .ddite g _ _ _ => some g
  | .ddrestr g _ _ _ => some g
  | .ddexist g _ _ _ => some g
  | .ddcount g _ _ => some g
  | .ddwcount g _ _ => some g
  | .ddref g _ => some g
  | .dderef g _ => some g
  | .ddgc g _ => some g
  | .ddnode g _ _ => some g
  | .ddstat g _ _ => some g
  | .rsend g _ _ => some g
  | .rrecv g _ _ => some g
  | .cbindOffer g _ _ => some g
  | .cbindWithdraw g _ _ => some g
  | .cget g _ _ => some g
  | .cset g _ _ => some g
  | .cue g _ => some g
  | .cuetake g _ _ => some g
  | .sthand g _ _ _ => some g
  | .sttake g _ _ => some g
  | .redcfg g _ => some g
  | .redv g _ _ _ _ _ _ _ _ => some g
  | .reds g _ _ _ _ _ _ _ _ => some g
  | .bcastv g _ _ _ _ => some g
  | .trap g _ => some g
  | .tfence g => some g
  | .rfe g => some g
  | .brk g _ => some g
  | .tqpop g _ _ => some g
  | .sfqpop g _ _ _ => some g
  | .tlbinv g _ _ => some g
  | .slotwr g _ _ => some g
  | .mapwr g _ _ => some g
  | .vacate g _ _ => some g
  | .resume g _ _ => some g
  | .tsusp g _ => some g
  | .tresm g _ => some g
  | .halt g _ => some g
  | .illegalInstruction _ => none
  | .resultLands _ _ => none
  | .lineDelivery _ _ => none
  | .sleepExpiry _ _ => none
  | .syncfRelease _ _ => none
  | .packetForward _ => none
  | .starvationToken _ _ => none
  | .remoteAccess _ _ => none
  | .accessResponse _ _ => none
  | .translationWalk _ => none
  | .storeFaultRecord _ _ => none
  | .feRetry _ _ => none
  | .waitmTimeout _ _ => none
  | .transRequest _ => none
  | .transResult _ => none
  | .barrierArrival _ _ _ _ => none
  | .barsetRequest _ _ _ => none
  | .barrierVerdict _ _ _ _ _ => none
  | .barrierRelease _ _ _ _ => none
  | .flitArrival _ => none
  | .flitResend _ => none
  | .sendAck _ _ => none
  | .trecvTimeout _ _ => none
  | .hangSample _ => none
  | .engineEnqueue _ => none
  | .copyChunk _ _ _ => none
  | .copyResolve _ _ _ => none
  | .gatherBatch _ _ _ => none
  | .gatherResolve _ _ _ => none
  | .cancelRequest _ => none
  | .adoptRequest _ _ _ => none
  | .adoptReply _ _ _ _ => none
  | .handleCompletion _ _ _ => none
  | .spanArrival _ => none
  | .spanSlotTake _ _ _ => none
  | .spanPortRead _ _ _ _ => none
  | .spanKstep _ _ _ => none
  | .spanEmulKstep _ _ _ => none
  | .spanPromote _ _ _ => none
  | .spanDeliver _ _ _ => none
  | .spanDoneWord _ _ _ => none
  | .spanResolve _ _ _ => none
  | .spanDeliveryStop _ _ _ => none
  | .pcfgApply _ _ _ => none
  | .pplanRun _ _ => none
  | .pplanResolve _ _ => none
  | .ddEnqueue _ => none
  | .ddExecute _ _ => none
  | .ddResolve _ _ _ _ _ => none
  | .castAccess _ _ => none
  | .cueArm _ => none
  | .cueCommit _ => none
  | .recordFrameArrival _ => none
  | .frameResend _ => none
  | .bindToken _ => none
  | .openToken _ => none
  | .unbindToken _ _ _ => none
  | .cueFailReturn _ => none
  | .stateTransfer _ => none
  | .stateResend _ => none
  | .redCombine _ _ _ _ _ => none
  | .redBroadcast _ _ _ _ => none
  | .redResolve _ _ _ _ => none
  | .vacateResolve _ _ _ => none
  | .resumeResolve _ _ _ _ => none
  | .tqackServe _ _ => none
  | .tqackRefuse _ _ => none
  | .tenantWrite _ _ => none
  | .coreRegWrite _ _ _ => none
  | .jobLaunch _ _ => none
  | .waitlimExpiry _ => none
  | .lqtail _ _ => none
  | .jobCompletion _ => none
  | .bcmdBind => none
  | .bcmdUnbind => none
  | .peerBindMatch _ _ _ _ => none
  | .peeren _ => none
  | .pf0RegWrite _ _ _ => none
  | .peerForward _ => none
  | .attestationReport _ => none
  | .boot => none
  | .governorSample _ => none
  | .thermalTrip => none
  | .jobTermination _ _ _ => none
  | .peerBindingDrop _ _ => none

/-- The instructions that only a privileged thread may execute (R48). -/
def Instr.privileged : Instr → Bool
  | .tqpop _ _ _ | .tlbinv _ _ _ | .slotwr _ _ _ | .mapwr _ _ _ | .vacate _ _ _ | .resume _ _ _ | .tsusp _ _ | .tresm _ _ | .halt _ _ => true
  | _ => false

namespace Machine

/-! ### Safe runs -/

/-- No step of a run from a state stops with a fault or a refusal. -/
def State.safe (s : State) : Prop := ∀ n, ∃ t, Host.Core.run Sys2Proof.core n s = .next t

/-! ### The memories -/

/-- Every memory of the machine is in canonical form. -/
def State.canonical (s : State) : Prop := s.pool.wf ∧ s.host.wf ∧ ∀ q ∈ s.pcores, q.2.mem.wf

/-- Every byte of the pool, of host memory and of every scratch reads as before. -/
def State.sameBytes (s t : State) : Prop :=
  (∀ a, t.pool.read a = s.pool.read a) ∧ (∀ a, t.host.read a = s.host.read a) ∧
    ∀ pc a, (t.pcore pc).mem.read a = (s.pcore pc).mem.read a

/-! ### Registers -/

/-- Every scalar and vector register, predicate and mask of every thread reads as before. -/
def State.sameRegs (s t : State) : Prop :=
  ∀ v, (∀ r, t.rd v r = s.rd v r) ∧ (∀ r, t.rdV v r = s.rdV v r) ∧ (∀ q, t.rdQ v q = s.rdQ v q) ∧ ∀ k, t.rdK v k = s.rdK v k

/-- A thread without its place in the program and its results on their way. -/
def Thread.bare (t : Thread) : Thread := { t with pc := 0, readyAt := 0, landings := [], busy := [], window := [] }
/-- A logical core without its threads. -/
def LCore.bare (c : LCore) : LCore := { c with threads := [] }
/-- A job without its cores. -/
def Job.bare (b : Job) : Job := { b with cores := [] }

/-- From `s` to `t` nothing changes but the place of thread `w` in its program, its results on their way, the agenda and
the draw. -/
structure State.onlyMoves (s t : State) (w : Tid) : Prop where
  others : ∀ v, v ≠ w → t.thread v = s.thread v
  self : (t.thread w).bare = (s.thread w).bare
  cores : ∀ j l, (t.core j l).bare = (s.core j l).bare
  jobs : ∀ j, (t.job j).bare = (s.job j).bare
  pcores : t.pcores = s.pcores
  pclus : t.pclus = s.pclus
  accs : t.accs = s.accs
  walks : t.walks = s.walks
  packets : t.packets = s.packets
  routers : t.routers = s.routers
  linkLast : t.linkLast = s.linkLast
  trans : t.trans = s.trans
  transReqs : t.transReqs = s.transReqs
  pool : t.pool = s.pool
  poolBuf : t.poolBuf = s.poolBuf
  host : t.host = s.host
  dev : t.dev = s.dev
  cyc : t.cyc = s.cyc
  scan : t.scan = s.scan
  cur : t.cur = s.cur

/-! ### Results -/

/-- The instruction answers a next state: the writes `ws` and the flags `fl` land together `lat` cycles on (R92), and the
thread passes to the next instruction. Nothing else happens. -/
def State.yields (s : State) (i : Instr) (lat : Nat) (ws : List RegWrite) (fl : FlagBits) : Prop :=
  exec i s = .next ((s.land s.cur lat ws fl).advance s.cur)

/-- The same with a lookahead window of `la` instructions open until the result lands (R42). -/
def State.yieldsLa (s : State) (i : Instr) (lat : Nat) (la : BitVec 4) (ws : List RegWrite) (fl : FlagBits) : Prop :=
  exec i s = .next ((s.landLa s.cur lat la ws fl).advance s.cur)

end Machine

/-- The instructions that only compute and transfer: each queues a result, moves the PC, or both, and can neither trap nor
wait. -/
def Instr.computes : Instr → Bool
  | .nop _ | .add _ _ _ _ _ | .sub _ _ _ _ _ | .mul _ _ _ _ _ | .mulh _ _ _ _ _ | .mulhu _ _ _ _ _ | .div _ _ _ _ _ _
  | .divu _ _ _ _ _ _ | .rem _ _ _ _ _ _ | .remu _ _ _ _ _ _ | .and _ _ _ _ | .or _ _ _ _ | .xor _ _ _ _
  | .andn _ _ _ _ | .shl _ _ _ _ _ | .shr _ _ _ _ _ | .sar _ _ _ _ _ | .rol _ _ _ _ _ | .clz _ _ _ _ | .ctz _ _ _ _
  | .popc _ _ _ _ | .min _ _ _ _ _ | .max _ _ _ _ _ | .minu _ _ _ _ _ | .maxu _ _ _ _ _ | .sel _ _ _ _ _ | .movi _ _ _
  | .movhi _ _ _ _ | .bext _ _ _ _ _ _ | .bextu _ _ _ _ _ _ | .bins _ _ _ _ _ _ | .sext _ _ _ _ | .bswap _ _ _ _
  | .mov _ _ _ | .br _ _ | .call _ _ _ | .cmp _ _ _ _ _ _ | .tst _ _ _ _ _ | .plog _ _ _ _ _ | .pset _ _ _ | .pget _ _
  | .dbnz _ _ _ | .tilepos _ _ | .mkadr _ _ _ _ _ | .slotrd _ _ _ | .thrst _ _ _ | .cvt _ _ _ _ _ _ _
  | .fadd _ _ _ _ _ _ | .fsub _ _ _ _ _ _ | .fmul _ _ _ _ _ _ | .ffma _ _ _ _ _ _ | .fdiv _ _ _ _ _ _ _
  | .fsqrt _ _ _ _ _ _ | .fmin _ _ _ _ _ | .fmax _ _ _ _ _ | .fcmp _ _ _ _ _ _ | .fclass _ _ _ _ | .vcvt _ _ _ _ _ _ _
  | .vpack _ _ _ _ _ _ _ | .vunpk _ _ _ _ _ | .vadd _ _ _ _ _ _ _ _ | .vsub _ _ _ _ _ _ _ _ | .vmul _ _ _ _ _ _ _ _
  | .vfma _ _ _ _ _ _ _ _ | .vfms _ _ _ _ _ _ _ _ | .vmin _ _ _ _ _ _ | .vmax _ _ _ _ _ _ | .vabs _ _ _ _ _ _
  | .vneg _ _ _ _ _ _ | .vcmp _ _ _ _ _ _ _ | .vsel _ _ _ _ _ | .vand _ _ _ _ _ | .vor _ _ _ _ _ | .vxor _ _ _ _ _
  | .vshl _ _ _ _ _ | .vshr _ _ _ _ _ | .vsar _ _ _ _ _ | .vpopc _ _ _ _ | .vdot4 _ _ _ _ _ _ _ | .vsum _ _ _ _ _ _ _
  | .vmaxr _ _ _ _ _ | .vfmas _ _ _ _ _ _ _ _ | .vscal _ _ _ _ _ _ _ _ | .vmov _ _ _ _ | .vbcast _ _ _ _
  | .vget _ _ _ _ _ | .vput _ _ _ _ | .vperm _ _ _ _ _ | .vrot _ _ _ _ _ | .vcomp _ _ _ _ | .vexpd _ _ _ _
  | .viota _ _ _ | .kop _ _ _ _ _ | .kpopc _ _ _ | .kmovToMask _ _ _ | .kmovFromMask _ _ _ | .kfirst _ _ _
  | .tlook _ _ _ _ _ => true
  | _ => false

end Sys2Proof
end

