-- ==== Sys2Proof/Certificates/Slice0/Obligations.lean ====
section
/-!
DEFINITION. The statements for the provers.
-/

set_option linter.unusedVariables false

open Sys2Proof Sys2Proof.Machine

/-- After reset every core register of every physical core that can be read is 0, slot-table entry e of every core is
VALID and names thread e mod 16, every VF register is 0 but NEXTID, which is 1, DEVID, PEEREN, WAITLIM, the windows,
the binding registers, BSTAT and the route table are 0 and PCAP is 3,400. No job exists, nothing is in flight, and
the boot step is the one step due. That memory lists nothing and CYC is 0 is the model's choice (log entries 4 and
5). (R379, R126, R388, R391, R397) -/
def Obligations.ResetState : Prop :=
  let s := State.reset
  (∀ pc off, off ∈ [0x00, 0x08, 0x10, 0x18, 0x20, 0x28, 0x38] → s.readReg pc off = 0) ∧
  (∀ pc e, (s.pcore pc).slot e = BitVec.ofNat 5 (16 + e % 16)) ∧
  (∀ n, let f := s.dev.vfs.getD n {}
    f.lqbase = 0 ∧ f.lqsize = 0 ∧ f.cqbase = 0 ∧ f.cqsize = 0 ∧ f.cqhead = 0 ∧ f.nextid = 1) ∧
  s.dev.devid = 0 ∧ s.dev.peeren = 0 ∧ s.dev.pcap = 3400 ∧ (∀ p, s.dev.waitlim.getD p 0 = 0) ∧
  (∀ n, s.dev.win0.getD n 0 = 0 ∧ s.dev.win1.getD n 0 = 0) ∧ s.dev.bljob = 0 ∧ s.dev.bpdev = 0 ∧ s.dev.bpjob = 0 ∧
  s.dev.bstat = 0 ∧ (∀ d, s.dev.route.getD d 0 = 0) ∧
  s.jobs = [] ∧ s.accs = [] ∧ s.walks = [] ∧ s.packets = [] ∧ s.transReqs = [] ∧ s.pool = [] ∧ s.host = [] ∧ s.cyc = 0 ∧
  s.agenda = [⟨0, .boot⟩]

/-- At reset the pool, host memory and every scratch are in canonical form. The form is the model's own (log entry 5):
the bytes are those of the scratch and pool memories of R13 and R9. (R13, R9) -/
def Obligations.ResetCanonical : Prop :=
  State.reset.canonical

/-- For every state whose memories (pool, host memory, every scratch) are in canonical form, if a step answers a next
state, its memories are in canonical form too. The form is the model's own (log entry 5); the steps are all of the
table's. (R13, R9) -/
def Obligations.StepKeepsCanonical : Prop :=
  ∀ s t : State, s.canonical → step s = .next t → t.canonical

/-- Every well-formed instruction has an encoding, and decoding that word gives exactly the instruction, with every
operand and mode at every value that the encoding admits (R33 to R51). (R33, R35, R38, R49, R51) -/
def Obligations.EncodeDecodes : Prop :=
  ∀ i : Instr, i.wellFormed = true → ∃ w, encode i = some w ∧ decode w = .ok i

/-- Whenever a word decodes to an instruction, the instruction is well formed and its encoding is exactly that word. So
no bit of a legal word is ignored, and no two words mean the same instruction. (R33, R35, R49, R51) -/
def Obligations.DecodeIsInjective : Prop :=
  ∀ (w : BitVec 96) (i : Instr), decode w = .ok i → i.wellFormed = true ∧ encode i = some w

/-- Each word is printed in the manual beside the instruction or cause it stands for: an add, a load with LA and RX, a
guarded vadd, a compare, a division, a float multiply-add on a80, a fence, an acknowledged send, an rsend, a
reduction, a resume, and the all-zero word, which is IL_OPC. (R33, R51, Instruction word and opcode map) -/
def Obligations.DecodeWords : Prop :=
  decode 0x008000286840000000000000 = .ok (.add ⟨false, 0⟩ false 5 6 (.reg 66)) ∧
  decode 0x6008204BE015000000000010 = .ok (.ld ⟨false, 0⟩ 2 true .n32 9 62 .none 16) ∧
  decode 0x40028018482C200000000000 =
    .ok (.vadd ⟨true, 2⟩ .f32 .rtz false 0 3 4 (.reg 17)) ∧
  decode 0x110000104010000200000064 = .ok (.cmp ⟨false, 0⟩ false .lt 2 4 (.imm 100)) ∧
  decode 0x01C804A152C0000000000000 = .ok (.div ⟨false, 0⟩ true 2 20 21 (.reg 22)) ∧
  decode 0x31000050C1CE600000000000 = .ok (.ffma ⟨false, 0⟩ .a80 .rdn 10 12 14) ∧
  decode 0x648000000000000200000000 = .ok (.fence ⟨false, 0⟩ .job) ∧
  decode 0x81C02048501000000000002A = .ok (.send ⟨false, 0⟩ true 9 5 (.imm 42)) ∧
  decode 0xD000000040A0000000000000 = .ok (.rsend ⟨false, 0⟩ 4 5) ∧
  decode 0xE080004840AD001200000000 = .ok (.reds ⟨false, 0⟩ .f64 .rne false 2 .max 9 4 5) ∧
  decode 0xF28000484000000000000000 = .ok (.resume ⟨false, 0⟩ 9 4) ∧
  decode 0 = .error .ilOpc

/-- When no step of the agenda is due before issue, the next core's slot names a thread that is ready, the thread holds
the line of its PC, its 12 bytes decode to an instruction i, and nothing holds i back (R41 to R43, R93), the step is
exec of i with that thread current, and with the bindings of the cast table if this is the first instruction of its
life, followed by what an issue leaves: lookahead windows counted, the end of a job's loading, and the lines that
the new PC needs. (R33, R34, R41, R42, R93, R108, R126, R339) -/
def Obligations.StepRunsDecoded : Prop :=
  ∀ (s : State) (pc : Nat) (w : Tid) (l : CodeLine) (i : Instr),
    let u : State := { s with scan := pc + 1 }
    let x : BitVec 96 := l.bytes.extractLsb' (8 * (u.pcOf w - l.addr).toNat) 96
    s.due false = none → s.nextCore = some pc → u.turn pc = some w → (u.thread w).stall = none → u.parkFe w = none →
    (u.thread w).line? (u.lineOf w) = some l → l.lo ≤ (u.pcOf w - l.addr).toNat → (u.pcOf w - l.addr).toNat + 12 ≤ l.hi →
    decode x = .ok i → u.preIssue w (Fields.ofWord x) = none →
      let v : State := { (u.takeBinding w) with cur := w }
      step s = afterNext (exec i v) fun t => State.afterIssue v t pc w

/-- The step at the head of the agenda that is due runs before any core has its slot; with none due and every core done,
a late step of the cycle runs; with none of these the cycle counter advances by one and the cores have their slots
again. The agenda and the order are the model's (log entry 1). (R28, R32, R126, R225) -/
def Obligations.StepRunsDueStep : Prop :=
  ∀ s : State,
    (∀ e t, s.due false = some (e, t) → step s = runEvent e t) ∧
    (∀ e t, s.due false = none → s.nextCore = none → s.due true = some (e, t) → step s = runEvent e t) ∧
    (s.due true = none → s.nextCore = none →
      ∃ t, step s = .next t ∧ t.cyc = s.cyc + 1 ∧ t.scan = 0 ∧ t.agenda = s.agenda)

/-- Every instruction and every step of the table answers a next state in every state: the manual gives every encoding
and every combination of modes a defined result or a defined fault, and no step ends in a fault or a refusal of the
model. (R6, R49, R51) -/
def Obligations.NeverStops : Prop :=
  ∀ (i : Instr) (s : State), ∃ t, exec i s = .next t

/-- From every state, and so from reset, any number of steps answers a next state: the machine never stops with a fault
or a refusal. (R6, R49, R51) -/
def Obligations.RunsAreSafe : Prop :=
  ∀ s : State, s.safe

/-- For every instruction and every state in which its guard does not hold, execution only advances the PC by 12: no
register, flag, memory, agenda or other state changes, nothing parks, and no fault, PRIV included, is raised. (R41) -/
def Obligations.GuardedOff : Prop :=
  ∀ (i : Instr) (g : Gd) (s : State), i.guard? = some g → s.guardOn s.cur g = false →
    exec i s = .next (s.setPc s.cur (s.pcOf s.cur + 12))

/-- A guard holds exactly when the predicate GP, read with q0 as 1, differs from GN; so with GN = 0 and GP = 0 it holds
in every state. (R41, R38) -/
def Obligations.GuardReads : Prop :=
  ∀ (s : State) (w : Tid) (gn : Bool) (gp : QReg),
    (s.guardOn w ⟨gn, gp⟩ = true ↔ ((gp = 0 ∨ (s.thread w).q.getLsbD gp.toNat = true) ↔ gn = false)) ∧
    s.guardOn w ⟨false, 0⟩ = true

/-- In a thread whose PSTATE has bit 0 clear, every privileged instruction whose guard holds takes the trap PRIV at its
own address and does nothing else; gets and sets of a special register from 0x800 up do the same. (R48, R52, R370,
R371, R118) -/
def Obligations.PrivilegedTraps : Prop :=
  ∀ (s : State) (g : Gd), s.guardOn s.cur g = true → (s.thread s.cur).priv = false →
    (∀ i : Instr, i.privileged = true → i.guard? = some g → exec i s = .next (s.trapAt s.cur .priv (s.pcOf s.cur) 0 0)) ∧
    (∀ (d : SReg) (imm : BitVec 32), 0x800 ≤ imm.toNat % 4096 →
      exec (.gets g d imm) s = .next (s.trapAt s.cur .priv (s.pcOf s.cur) 0 0) ∧
      exec (.sets g d imm) s = .next (s.trapAt s.cur .priv (s.pcOf s.cur) 0 0))

/-- Every instruction that only computes or transfers (scalar, control, float, vector, mask and tlook forms) answers a
next state in which, for its own thread, nothing changes but the PC, the cycle from which it may issue and the
results on their way; every other thread, every shared register, every byte of memory, every special register and
flag and all other state are as before. Its results are written when they land. (R39, R41, R92, R94, R137) -/
def Obligations.ComputeFrame : Prop :=
  ∀ (i : Instr) (s : State), i.computes = true →
    ∃ t, exec i s = .next t ∧ s.onlyMoves t s.cur ∧ s.sameRegs t ∧ s.sameBytes t ∧
      (t.thread s.cur).flags = (s.thread s.cur).flags ∧ (∀ v n, t.spRead v n = s.spRead v n)

/-- For every state, guard that holds and operands, each of add, sub, mul, mulh, mulhu, and, or, xor, andn, shl, shr,
sar, rol, min, max, minu and maxu answers a next state in which D receives, 8 cycles on (12 for the
multiplications), exactly the value that the pseudocode of R96 gives, on 64 bits with MD = 0 and on bits [31:0] with
a sign-extended result with MD = 1, with no flag. A write of x0 is discarded when it lands. (R96, R92, R91, R45,
R39) -/
def Obligations.ScalarArithmetic : Prop :=
  ∀ (s : State) (g : Gd) (d a : SReg) (b : Src), s.guardOn s.cur g = true →
    let x := s.rd s.cur a
    let y := s.src s.cur b
    let n := (y.extractLsb' 0 6).toNat
    let p := x.extractLsb' 0 32
    let q := y.extractLsb' 0 32
    let m := (y.extractLsb' 0 5).toNat
    let gives (i : Bool → Instr) (lat : Nat) (r : Word) (r' : BitVec 32) : Prop :=
      s.yields (i false) lat [.s d r] 0 ∧ s.yields (i true) lat [.s d (r'.signExtend 64)] 0
    gives (.add g · d a b) 8 (x + y) (p + q) ∧
    gives (.sub g · d a b) 8 (x - y) (p - q) ∧
    gives (.mul g · d a b) 12 (x * y) (p * q) ∧
    gives (.mulh g · d a b) 12 ((x.signExtend 128 * y.signExtend 128).extractLsb' 64 64)
      ((p.signExtend 64 * q.signExtend 64).extractLsb' 32 32) ∧
    gives (.mulhu g · d a b) 12 ((x.zeroExtend 128 * y.zeroExtend 128).extractLsb' 64 64)
      ((p.zeroExtend 64 * q.zeroExtend 64).extractLsb' 32 32) ∧
    gives (.shl g · d a b) 8 (x <<< n) (p <<< m) ∧
    gives (.shr g · d a b) 8 (x >>> n) (p >>> m) ∧
    gives (.sar g · d a b) 8 (x.sshiftRight n) (p.sshiftRight m) ∧
    gives (.rol g · d a b) 8 ((x <<< n) ||| (x >>> (64 - n))) ((p <<< m) ||| (p >>> (32 - m))) ∧
    gives (.min g · d a b) 8 (if x.toInt ≤ y.toInt then x else y) (if p.toInt ≤ q.toInt then p else q) ∧
    gives (.max g · d a b) 8 (if x.toInt ≤ y.toInt then y else x) (if p.toInt ≤ q.toInt then q else p) ∧
    gives (.minu g · d a b) 8 (if x.toNat ≤ y.toNat then x else y) (if p.toNat ≤ q.toNat then p else q) ∧
    gives (.maxu g · d a b) 8 (if x.toNat ≤ y.toNat then y else x) (if p.toNat ≤ q.toNat then q else p) ∧
    s.yields (.and g d a b) 8 [.s d (x &&& y)] 0 ∧ s.yields (.or g d a b) 8 [.s d (x ||| y)] 0 ∧
    s.yields (.xor g d a b) 8 [.s d (x ^^^ y)] 0 ∧ s.yields (.andn g d a b) 8 [.s d (x &&& ~~~y)] 0

/-- For every state, guard that holds and operands, each division answers a next state: with b = 0 the quotient is all
ones and the remainder a, with DZ; for the most negative value by −1 div gives it back with OF and rem gives 0 with
no flag; otherwise the quotient is truncated toward zero and the remainder is a − b times it. The result lands after
44 cycles, or after 28 with MD = 1, sign-extended, under the lookahead window LA. No division traps. (R97, R92, R42) -/
def Obligations.Division : Prop :=
  ∀ (s : State) (g : Gd) (la : BitVec 4) (d a : SReg) (b : Src), s.guardOn s.cur g = true →
    let x := s.rd s.cur a
    let y := s.src s.cur b
    let p := x.extractLsb' 0 32
    let q := y.extractLsb' 0 32
    let gives (i : Bool → Instr) (r : Word) (r' : BitVec 32) (f f' : FlagBits) : Prop :=
      s.yieldsLa (i false) 44 la [.s d r] f ∧ s.yieldsLa (i true) 28 la [.s d (r'.signExtend 64)] f'
    let ovf := x.toInt = -2 ^ 63 ∧ y.toInt = -1
    let ovf' := p.toInt = -2 ^ 31 ∧ q.toInt = -1
    gives (.div g · la d a b)
      (if y = 0 then -1 else if ovf then x else BitVec.ofInt 64 (x.toInt.tdiv y.toInt))
      (if q = 0 then -1 else if ovf' then p else BitVec.ofInt 32 (p.toInt.tdiv q.toInt))
      (if y = 0 then fDZ else if ovf then fOF else 0) (if q = 0 then fDZ else if ovf' then fOF else 0) ∧
    gives (.divu g · la d a b)
      (if y = 0 then -1 else x / y) (if q = 0 then -1 else p / q) (if y = 0 then fDZ else 0) (if q = 0 then fDZ else 0) ∧
    gives (.rem g · la d a b)
      (if y = 0 then x else x - y * BitVec.ofInt 64 (x.toInt.tdiv y.toInt))
      (if q = 0 then p else p - q * BitVec.ofInt 32 (p.toInt.tdiv q.toInt))
      (if y = 0 then fDZ else 0) (if q = 0 then fDZ else 0) ∧
    gives (.remu g · la d a b)
      (if y = 0 then x else x % y) (if q = 0 then p else p % q) (if y = 0 then fDZ else 0) (if q = 0 then fDZ else 0)

/-- For every state, guard that holds and operands: clz, ctz and popc write the leading zeros, trailing zeros and ones
of A, or of A[31:0] with MD = 1; bswap writes the bytes of A in reverse order, or the 4 bytes of A[31:0] reversed
and sign-extended; mov copies A between any banks; sext writes A[w−1:0] sign-extended. Each lands after 8 cycles,
with no flag. (R98, R92) -/
def Obligations.CountsAndMoves : Prop :=
  ∀ (s : State) (g : Gd) (d a : SReg), s.guardOn s.cur g = true →
    let x := s.rd s.cur a
    let p := x.extractLsb' 0 32
    let count (i : Bool → Instr) (ok : {n : Nat} → BitVec n → Nat → Prop) : Prop :=
      (∃ k, s.yields (i false) 8 [.s d (BitVec.ofNat 64 k)] 0 ∧ k ≤ 64 ∧ ok x k) ∧
      ∃ k, s.yields (i true) 8 [.s d (BitVec.ofNat 64 k)] 0 ∧ k ≤ 32 ∧ ok p k
    count (.clz g · d a) (fun {n} v k => (∀ i, i < k → v.getMsbD i = false) ∧ (k < n → v.getMsbD k = true)) ∧
    count (.ctz g · d a) (fun {n} v k => (∀ i, i < k → v.getLsbD i = false) ∧ (k < n → v.getLsbD k = true)) ∧
    count (.popc g · d a) (fun {n} v k => k = (List.finRange n).countP fun (i : Fin n) => v.getLsbD i.val) ∧
    (∃ r, s.yields (.bswap g false d a) 8 [.s d r] 0 ∧ ∀ i, i < 8 → r.extractLsb' (8 * i) 8 = x.extractLsb' (8 * (7 - i)) 8) ∧
    (∃ r : BitVec 32, s.yields (.bswap g true d a) 8 [.s d (r.signExtend 64)] 0 ∧
      ∀ i, i < 4 → r.extractLsb' (8 * i) 8 = p.extractLsb' (8 * (3 - i)) 8) ∧
    s.yields (.mov g d a) 8 [.s d x] 0 ∧
    s.yields (.sext g .w8 d a) 8 [.s d ((x.extractLsb' 0 8).signExtend 64)] 0 ∧
    s.yields (.sext g .w16 d a) 8 [.s d ((x.extractLsb' 0 16).signExtend 64)] 0 ∧
    s.yields (.sext g .w32 d a) 8 [.s d (p.signExtend 64)] 0

/-- For every state, guard that holds and operands: sel writes Rd(A) when the predicate is 1 and B_op otherwise; movi
writes sext(IMM); movhi writes IMM above Rd(A)[31:0]. With L = FN[11:6] + 1, bext and bextu take L bits of A from
position (FN[5:0] + b[5:0]) mod 64, zeros entering past bit 63, and extend them by their top bit or by zeros; bins
puts the low L bits of b at position FN[5:0] of A and drops what passes bit 63. Each lands after 8 cycles, with no
flag. (R99, R100, R101, R92) -/
def Obligations.SelectionAndFields : Prop :=
  ∀ (s : State) (g : Gd) (d a : SReg) (b : Src) (imm : BitVec 32) (p : QReg) (pos len : BitVec 6), s.guardOn s.cur g = true →
    let x := s.rd s.cur a
    let y := s.src s.cur b
    let n := len.toNat + 1
    let k := (pos.toNat + y.toNat % 64) % 64
    s.yields (.sel g p d a b) 8 [.s d (if s.rdQ s.cur p then x else y)] 0 ∧
    s.yields (.movi g d imm) 8 [.s d (imm.signExtend 64)] 0 ∧
    s.yields (.movhi g d a imm) 8 [.s d (imm ++ x.extractLsb' 0 32)] 0 ∧
    (∃ r, s.yields (.bextu g pos len d a b) 8 [.s d r] 0 ∧
      ∀ i, i < 64 → r.getLsbD i = (decide (i < n) && x.getLsbD (k + i))) ∧
    (∃ r, s.yields (.bext g pos len d a b) 8 [.s d r] 0 ∧
      ∀ i, i < 64 → r.getLsbD i = if i < n then x.getLsbD (k + i) else x.getLsbD (k + (n - 1))) ∧
    ∃ r, s.yields (.bins g pos len d a b) 8 [.s d r] 0 ∧
      ∀ i, i < 64 → r.getLsbD i =
        if pos.toNat ≤ i ∧ i < pos.toNat + n then y.getLsbD (i - pos.toNat) else x.getLsbD i

/-- For every state, guard that holds and operands: cmp sets q[D] to the condition that R102 names on the values
compared as signed numbers or naturals, on 64 or on 32 bits; plog sets it to entry 2·q[A] + q[B] of FN[3:0]; pset
sets q1 to q7 where FN names them to the bits of A and writes no other predicate; pget writes the eight predicates
with bit 0 one and bits [63:8] zero. Each lands after 8 cycles, with no flag. (R102, R104, R105, R92) -/
def Obligations.Predicates : Prop :=
  ∀ (s : State) (g : Gd) (c : ICond) (d : QReg) (e a : SReg) (b : Src) (tt : BitVec 4) (p q : QReg) (qm : BitVec 7),
    s.guardOn s.cur g = true →
    let x := s.rd s.cur a
    let y := s.src s.cur b
    let holds {n : Nat} (u v : BitVec n) : Bool := match c with
      | .eq => u = v | .ne => u ≠ v
      | .lt => u.toInt < v.toInt | .le => u.toInt ≤ v.toInt | .gt => v.toInt < u.toInt | .ge => v.toInt ≤ u.toInt
      | .ltu => u.toNat < v.toNat | .leu => u.toNat ≤ v.toNat | .gtu => v.toNat < u.toNat | .geu => v.toNat ≤ u.toNat
    s.yields (.cmp g false c d a b) 8 [.q d (holds x y)] 0 ∧
    s.yields (.cmp g true c d a b) 8 [.q d (holds (x.extractLsb' 0 32) (y.extractLsb' 0 32))] 0 ∧
    s.yields (.plog g tt d p q) 8 [.q d (tt.getLsbD ((if s.rdQ s.cur p then 2 else 0) + if s.rdQ s.cur q then 1 else 0))] 0 ∧
    (∃ ws, s.yields (.pset g qm a) 8 ws 0 ∧
      ∀ wr, wr ∈ ws ↔ ∃ i : Nat, 1 ≤ i ∧ i ≤ 7 ∧ qm.getLsbD (i - 1) = true ∧ wr = .q (BitVec.ofNat 3 i) (x.getLsbD i)) ∧
    ∃ r, s.yields (.pget g e) 8 [.s e r] 0 ∧
      ∀ i, i < 64 → r.getLsbD i = (decide (i < 8) && s.rdQ s.cur (BitVec.ofNat 3 i))

/-- A word decodes to tst exactly when its opcode is that of tst, D is 1 to 7, B is 0 with I = 1, FN[11:1] is 0 and
every field that tst does not have is 0; FN[0] = 0 is any and 1 is none. With any, q[D] := ((Rd(A) & B_op) ≠ 0);
with none, q[D] := ((Rd(A) & B_op) = 0). (R103) -/
def Obligations.TestBits : Prop :=
  (∀ (w : BitVec 96) (g : Gd) (z : Bool) (d : QReg) (a : SReg) (b : Src),
    decode w = .ok (.tst g z d a b) ↔
      d ≠ 0 ∧ ¬(g.gn = true ∧ g.gp = 0) ∧
      Fields.ofWord w =
        { opc := 0x045, gn := g.gn, gp := g.gp, d := (0 : BitVec 4) ++ d, a := a,
          b := (match b with | .reg r => r | .imm _ => 0), i := (match b with | .reg _ => false | .imm _ => true),
          imm := (match b with | .reg _ => 0 | .imm v => v), fn := if z then 1 else 0 }) ∧
  ∀ (s : State) (g : Gd) (d : QReg) (a : SReg) (b : Src), s.guardOn s.cur g = true →
    s.yields (.tst g false d a b) 8 [.q d (decide (s.rd s.cur a &&& s.src s.cur b ≠ 0))] 0 ∧
    s.yields (.tst g true d a b) 8 [.q d (decide (s.rd s.cur a &&& s.src s.cur b = 0))] 0

/-- The words that decode to nop are those with every field 0 but OPC = 0x001 and a legal guard; nop answers a next
state in which only the PC has passed on. (R107) -/
def Obligations.NopHasNoEffect : Prop :=
  (∀ (w : BitVec 96) (g : Gd), decode w = .ok (.nop g) ↔
    ¬(g.gn = true ∧ g.gp = 0) ∧ Fields.ofWord w = { opc := 0x001, gn := g.gn, gp := g.gp }) ∧
  ∀ (s : State) (g : Gd), exec (.nop g) s = .next (s.setPc s.cur (s.pcOf s.cur + 12))

/-- With p the address of the instruction: br and call go to p + 12·sext(IMM); jmp and callr go to Rd(A) + sext(IMM),
which callr takes before its link is written; call and callr write p + 12 to D; dbnz writes Rd(D) − 1 and goes to p
+ 12·sext(IMM) unless that is 0, and then passes on. Links and counters land after 8 cycles and the target issues no
earlier than 8 cycles on. A target of jmp or callr that is not a multiple of 12 from CBASE takes PC_ALIGN at p,
writes no link and does not transfer. (R106, R34, R92) -/
def Obligations.Transfers : Prop :=
  ∀ (s : State) (g : Gd) (d a : SReg) (imm : BitVec 32), s.guardOn s.cur g = true →
    let w := s.cur
    let p := s.pcOf w
    let dest := p + 12 * imm.signExtend 64
    let t := s.rd w a + imm.signExtend 64
    let n := s.rd w d - 1
    let go (u : State) (c : Word) : State := u.modThread w fun x => { x with pc := c, readyAt := u.cyc + 8 }
    exec (.br g imm) s = .next (go s dest) ∧
    exec (.call g d imm) s = .next (go (s.land w 8 [.s d (p + 12)] 0) dest) ∧
    (n ≠ 0 → exec (.dbnz g d imm) s = .next (go (s.land w 8 [.s d n] 0) dest)) ∧
    (n = 0 → s.yields (.dbnz g d imm) 8 [.s d 0] 0) ∧
    ((t - s.cbase w).toInt % 12 = 0 →
      exec (.jmp g a imm) s = .next (go s t) ∧ exec (.callr g d a imm) s = .next (go (s.land w 8 [.s d (p + 12)] 0) t)) ∧
    ((t - s.cbase w).toInt % 12 ≠ 0 →
      exec (.jmp g a imm) s = .next (s.trapAt w .pcAlign p t 0) ∧
      exec (.callr g d a imm) s = .next (s.trapAt w .pcAlign p t 0))

/-- With the guard on, and PRIV set for numbers from 0x800 up, gets writes the value of the named register after 8
cycles: TID, LXY, LCN, JDIM, CLU, CYC (the cycle of issue), FLAGS, TEN, ORD, GEOM0, GEOM1, SEG, DNS, UPS, STG,
JOBID, MQS, SLOG, MDROP, the trap records, TVEC, SVEC, PSTATE, VBASE and the job record, and 0 for an unassigned
number; IMM[31:12] is ignored. sets queues Rd(A) for the number, to land after 8 cycles; for DNS, UPS and STG, which
are read-only, it queues nothing. (R116, R118, R226, R337, R367, R368, R25) -/
def Obligations.SpecialRegisters : Prop :=
  ∀ (s : State) (g : Gd) (d a : SReg) (imm : BitVec 32), s.guardOn s.cur g = true →
    let w := s.cur
    let t := s.thread w
    let b := s.job w.job
    let n := imm.toNat % 4096
    let x := w.lcn % b.w
    let y := w.lcn / b.w
    let mq := t.mq.length
    (n < 0x800 ∨ t.pstate.getLsbD 0 = true) →
      (let v : Word := match n with
        | 0x000 => w64 w.thr
        | 0x001 => w64 (y * 65536 + x)
        | 0x002 => w64 w.lcn
        | 0x003 => w64 (b.h * 65536 + b.w)
        | 0x004 => w64 ((y % 2 * 4 + x % 4) * 65536 + (y / 2 * (b.w / 4) + x / 4))
        | 0x005 => w64 s.cyc
        | 0x006 => t.flags.zeroExtend 64
        | 0x007 => t.ten.zeroExtend 64
        | 0x008 => (t.ordRound ++ t.ordLink).zeroExtend 64
        | 0x009 => t.geom0
        | 0x00A => t.geom1.zeroExtend 64
        | 0x00B => w64 (s.seg w.job w.lcn)
        | 0x00C => t.dns
        | 0x00D => t.ups
        | 0x00E => t.stg
        | 0x00F => w64 w.job
        | 0x010 => w64 (mq + (if mq = 16 then 32 else 0) + (if mq = 0 then 64 else 0))
        | 0x011 => t.slog
        | 0x012 => t.mdrop.zeroExtend 64
        | 0x800 => t.epc
        | 0x801 => t.ecause
        | 0x802 => t.eaddr
        | 0x803 => t.einfo
        | 0x804 => t.tvec
        | 0x805 => t.svec
        | 0x806 => t.pstate.zeroExtend 64
        | 0x807 => t.vbase
        | 0x808 => t.jepc
        | 0x809 => t.jcause
        | 0x80A => t.jaddr
        | 0x80B => t.jinfo
        | _ => 0
      s.yields (.gets g d imm) 8 [.s d v] 0) ∧
      s.yields (.sets g a imm) 8 (if 0x00C ≤ n ∧ n ≤ 0x00E then [] else [.sp n (s.rd w a)]) 0

/-- With the guard on: tilepos writes row0, col0 and the edge masks of the core's tile to D, D+1 and D+2; mkadr writes
the address of its form, exact when the values fit their fields and otherwise built from the truncated values with
bit 45 set; slotrd writes the entry as the thread sees it, 0 when it is empty; thrst writes the state, HELD, SUSP,
wait kind and generation of a thread of the core, and 0 at or above T. Each lands after 8 cycles. (R123, R124, R126,
R127) -/
def Obligations.ThreadReports : Prop :=
  ∀ (s : State) (g : Gd) (d a : SReg) (b : Src) (imm : BitVec 32), s.guardOn s.cur g = true →
    let w := s.cur
    let t := s.thread w
    let x := s.rd w a
    let o := s.src w b
    let m := t.geom0.toNat % 2 ^ 32
    let n := t.geom0.toNat / 2 ^ 32
    let c0 := (t.geom1.extractLsb' 32 16).toNat
    let c := if c0 ≠ 0 then c0 else if n = 0 then 1 else (n + 31) / 32
    let row := 32 * (w.lcn / c)
    let col := 32 * (w.lcn % c)
    let mv := if row < m then min 32 (m - row) else 0
    let nv := if col < n then min 32 (n - col) else 0
    let fits6 (v : BitVec 16) : Prop := -32 ≤ v.toInt ∧ v.toInt ≤ 31
    let off := o.extractLsb' 0 21
    s.yields (.tilepos g d) 8 [.s d (w64 row), .s (d + 1) (w64 col), .s (d + 2) (w64 (mv + 256 * nv))] 0 ∧
    s.yields (.mkadr g .abs d a b) 8
      [.s d (0x8#4 ++ 0#2 ++ x.extractLsb' 0 6 ++ x.extractLsb' 16 6 ++
        BitVec.ofBool (!decide (x.extractLsb' 0 16 < 64 ∧ x.extractLsb' 16 16 < 64 ∧ o < 0x200000)) ++ 0#24 ++ off)] 0 ∧
    s.yields (.mkadr g .rel d a b) 8
      [.s d (0x9#4 ++ 0#2 ++ x.extractLsb' 0 6 ++ x.extractLsb' 16 6 ++
        BitVec.ofBool (!decide (fits6 (x.extractLsb' 0 16) ∧ fits6 (x.extractLsb' 16 16) ∧ o < 0x200000)) ++ 0#24 ++ off)] 0 ∧
    s.yields (.mkadr g .win d a b) 8
      [.s d (0xA#4 ++ 0#14 ++ BitVec.ofBool (!decide (x.extractLsb' 0 16 < 8 ∧ o < 0x200000)) ++ 0#21 ++ x.extractLsb' 0 3 ++ off)]
      0 ∧
    (let e := (s.pcore (s.phys w.job w.lcn)).slot (imm.toNat % 32)
     ∃ v, s.yields (.slotrd g d imm) 8 [.s d v] 0 ∧ (e.getLsbD 4 = false → v = 0) ∧
       (∀ u : Tid, e.getLsbD 4 = true → s.carried (s.phys w.job w.lcn) (e.toNat % 16) = some u →
         v = if u.lcn = w.lcn then w64 (16 + u.thr) else 0x30)) ∧
    let k := x.toNat % 16
    let u := s.thread { w with thr := k }
    ∃ v, s.yields (.thrst g d a) 8 [.s d v] 0 ∧
      ((s.job w.job).t ≤ k → v = 0) ∧
      (k < (s.job w.job).t → u.isLive s.cyc = false → v = w64 (u.gen.toNat * 2 ^ 16)) ∧
      (k < (s.job w.job).t → u.isLive s.cyc = true → ∀ q, u.st = .parked → u.wait = some q →
        v = w64 (2 + (if u.held then 8 else 0) + (if u.susp then 16 else 0) + q.kind.code * 256 + u.gen.toNat * 2 ^ 16)) ∧
      (k < (s.job w.job).t → u.isLive s.cyc = true → u.st ≠ .parked → u.held = false → u.susp = false →
        v = w64 (1 + u.gen.toNat * 2 ^ 16)) ∧
      (k < (s.job w.job).t → u.isLive s.cyc = true → u.st ≠ .parked → u.held = true → u.susp = false →
        v = w64 (3 + 8 + u.gen.toNat * 2 ^ 16)) ∧
      (k < (s.job w.job).t → u.isLive s.cyc = true → u.st ≠ .parked → u.susp = true →
        v = w64 (4 + (if u.held then 8 else 0) + 16 + u.gen.toNat * 2 ^ 16))

/-- With the guard on, sleep in cycle c with n = Rd(A) + zext(IMM) modulo 2^64 answers a next state that has passed to
the next instruction and issues nothing before cycle c + n, when SLEEP_EXPIRY ends the wait; with n = 0 it is a nop.
syncf with n = min(IMM, 65,535) does the same with SYNCF_RELEASE, waiting at the address of the syncf; with n = 0 it
is a nop. As a syncf begins to wait, it is looked whether the cluster's threads with its number that run (live, not
parked, neither held nor suspended) all wait at its address: if so each of them, its own thread among them, ends its
wait and may issue in the next cycle, which is the model's reading (log entry 57); if one does not, nothing changes.
SLEEP_EXPIRY and SYNCF_RELEASE answer a next state always: they end the wait whose bound they carry, and leave every
other thread, and a thread that no longer waits so, as it is. (R125, R110) -/
def Obligations.Waits : Prop :=
  ∀ (s : State) (g : Gd) (a : SReg) (imm : BitVec 32), s.guardOn s.cur g = true →
    let w := s.cur
    let n := (s.rd w a + imm.zeroExtend 64).toNat
    let k := min imm.toNat 65535
    let p := s.pcOf w
    let u := s.advance w
    (n = 0 → exec (.sleep g a imm) s = .next u) ∧
    (n ≠ 0 → ∃ t, exec (.sleep g a imm) s = .next t ∧ t.pcOf w = p + 12 ∧ (t.thread w).stall = some (.sleep (s.cyc + n)) ∧
      (t.thread w).ready s.cyc = false ∧ ⟨s.cyc + n, .sleepExpiry w (t.thread w).stamp⟩ ∈ t.agenda ∧ s.sameRegs t ∧ s.sameBytes t) ∧
    (∀ (v : Tid) (stamp : Nat), exec (.sleepExpiry v stamp) s =
      match (s.thread v).stall with
      | some (.sleep c) => .next (if (s.thread v).stamp = stamp ∨ c ≤ s.cyc then s.modThread v fun t => { t with stall := none } else s)
      | _ => .next s) ∧
    (k = 0 → exec (.syncf g imm) s = .next u) ∧
    (k ≠ 0 → exec (.syncf g imm) s =
      .next (((u.modThread w fun t => { t with stall := some (.syncf p (s.cyc + k)), stamp := t.stamp + 1 }).later k
        (.syncfRelease w ((s.thread w).stamp + 1))).syncfCheck w p)) ∧
    (∀ (v : Tid) (q : Word),
      let member (x : Tid × Thread) : Prop :=
        x ∈ s.threadsOf v.job ∧ x.1.thr = v.thr ∧ (s.job v.job).cluOf x.1.lcn = (s.job v.job).cluOf v.lcn ∧
          x.2.isLive s.cyc = true ∧ x.2.st ≠ .parked ∧ x.2.held = false ∧ x.2.susp = false
      let waits (t : Thread) : Prop := ∃ c, t.stall = some (.syncf q c)
      let r := s.syncfCheck v q
      ((∀ x, member x → waits x.2) →
        (∀ x, member x → (r.thread x.1).stall = none ∧ s.cyc + 1 ≤ (r.thread x.1).readyAt) ∧
        ∀ y : Tid, (∀ x, member x → x.1 ≠ y) → r.thread y = s.thread y) ∧
      ((∃ x, member x ∧ ¬waits x.2) → r = s)) ∧
    (∀ (v : Tid) (stamp : Nat), exec (.syncfRelease v stamp) s =
      match (s.thread v).stall with
      | some (.syncf _ c) => .next (if (s.thread v).stamp = stamp ∨ c ≤ s.cyc then s.modThread v fun t => { t with stall := none } else s)
      | _ => .next s)

/-- With the guard on, a valid entry address, a thread number below T, a free handle entry and a free helper n other
than the starter: start answers a next state in which helper n is running from cycle c + 8 at PC = Rd(A) with x1 =
B_op, every other private register 0, generation advanced (1 after 0xFFFF), FLAGS, ORD, traps and queues clear,
PSTATE 0 (PRIV alone in a thread of a management core), TEN, GEOM0, GEOM1, TVEC and SVEC copied from the starter; D
holds the identity of the lowest free entry with its PEND tag set; the starter passes to its next instruction and
its next access waits for the helper. (R119, R120, R122, R232, R233, R235, R367) -/
def Obligations.StartsAHelper : Prop :=
  ∀ (s : State) (g : Gd) (th : BitVec 4) (d : HReg) (a : SReg) (b : Src) (i n : Nat), s.guardOn s.cur g = true →
    let w := s.cur
    let v : Tid := ⟨w.job, w.lcn, n⟩
    let o := s.thread w
    let old := s.thread v
    (s.rd w a - s.cbase w).toInt % 12 = 0 → (th = 0 ∨ th.toNat < (s.job w.job).t) → o.freeSlot = some i →
    s.chosen w th.toNat = some n → n ≠ w.thr → d ≠ 0 →
    ∃ t, exec (.start g th d a b) s = .next t ∧
      (let h := t.thread v
       h.st = .running ∧ h.turnsAt = s.cyc + 8 ∧ h.pc = s.rd w a ∧ t.rd v 1 = s.src w b ∧
       (∀ r : SReg, r ≠ 1 → r.toNat < 64 → t.rd v r = 0) ∧ (∀ r : VReg, r.toNat < 16 → t.rdV v r = Vec.splat 0) ∧
       (∀ q : QReg, q ≠ 0 → t.rdQ v q = false) ∧ (∀ k : KReg, k ≠ 0 → t.rdK v k = 0) ∧
       h.gen = (if old.gen = 0xFFFF then 1 else old.gen + 1) ∧ h.flags = 0 ∧ h.reported = 0 ∧ h.ordLink = 0 ∧ h.ordRound = 0 ∧
       h.slog = 0 ∧ h.mdrop = 0 ∧ h.pstate = (if w.job = 0 then 1 else 0) ∧ h.epc = 0 ∧ h.jepc = 0 ∧ h.mons = [] ∧ h.mq = [] ∧
       h.ten = o.ten ∧ h.geom0 = o.geom0 ∧ h.geom1 = o.geom1 ∧ h.tvec = o.tvec ∧ h.svec = o.svec) ∧
      t.rdH w d = HRef.word ⟨w, i, o.hseq⟩ ∧ t.pending w d = true ∧ t.pcOf w = s.pcOf w + 12 ∧
      s.cyc + 9 ≤ (t.thread w).accAt ∧ s.sameBytes t

/-- With the guard on, no access of the thread under way, no store-fault record queued and, in thread 0, every helper of
the core free, exit answers a next state in which the thread is free from 8 cycles on with monitors, message queue,
pending handles and cast bindings given up. A helper's handle resolves to Rd(A)[55:0] << 8 | OK 8 cycles on; thread
0 has the job looked at 8 cycles on, and the thread 0 of logical core 0 gives the job its exit value. (R121, R232,
R243, R349, R351) -/
def Obligations.EndsAThread : Prop :=
  ∀ (s : State) (g : Gd) (a : SReg), s.guardOn s.cur g = true →
    let w := s.cur
    s.undrained w = false → (∀ x ∈ s.accs, x.2.own ≠ w) → (s.thread w).sfq = [] → (w.thr = 0 → s.helpersLive w.job w.lcn = false) →
    ∃ t, exec (.exit g a) s = .next t ∧
      (let o := t.thread w
       o.st = .free ∧ o.turnsAt = t.cyc + 8 ∧ o.mons = [] ∧ o.mq = [] ∧ o.pend = 0 ∧ o.wait = none ∧ o.stg = 0 ∧ o.dns = 0 ∧
       o.ups = 0 ∧ (∀ e ∈ o.handles, e.2.passed = true)) ∧
      (w.thr = 0 → ⟨t.cyc + 8, .jobCompletion w.job⟩ ∈ t.agenda) ∧
      (w.thr = 0 → w.lcn = 0 → (t.job w.job).exitv = s.rd w a) ∧
      (∀ h, w.thr ≠ 0 → (s.thread w).starter = some h → ⟨t.cyc + 8, .handleCompletion h (s.rd w a <<< 8) 0⟩ ∈ t.agenda)

/-- A floating value that is the real number v, with a sign bit that is set for negative numbers. -/
def Sys2Proof.FVal.Is (x : FVal) (v : ℝ) : Prop :=
  match x with
  | .fin neg m q => v = (if neg then -1 else 1) * (m : ℝ) * (2 : ℝ) ^ q
  | _ => False

/-- A number or an infinity as an extended real number. -/
def Sys2Proof.FVal.At (x : FVal) (v : EReal) : Prop :=
  match x with
  | .fin neg m q => v = (((if neg then -1 else 1) * (m : ℝ) * (2 : ℝ) ^ q : ℝ) : EReal)
  | .inf neg => v = if neg then ⊥ else ⊤
  | .nan _ => False

/-- r is v rounded into the set S of numbers under a mode (R37). In a tie rne takes the number that is an even multiple of
the distance of the two, and rna the one farther from zero. -/
def Sys2Proof.RoundsIn (S : ℝ → Prop) (rm : Rm) (v r : ℝ) : Prop :=
  S r ∧
  match rm with
  | .rtz => 0 ≤ r * v ∧ |r| ≤ |v| ∧ ∀ z, S z → |z| ≤ |v| → |z| ≤ |r|
  | .rup => v ≤ r ∧ ∀ z, S z → v ≤ z → r ≤ z
  | .rdn => r ≤ v ∧ ∀ z, S z → z ≤ v → z ≤ r
  | .rne => (∀ z, S z → |r - v| ≤ |z - v|) ∧ ∀ z, S z → z ≠ r → |z - v| = |r - v| → ∃ n : ℤ, r = n * (2 * |r - z|)
  | .rna => (∀ z, S z → |r - v| ≤ |z - v|) ∧ ∀ z, S z → |z - v| = |r - v| → |z| ≤ |r|

/-- The pattern r with the flags f is the non-zero real number v rounded to a format under R135 and R136, or with `sat` under
R143. -/
def Sys2Proof.Ty.Rounds (t : Ty) (rm : Rm) (sat : Bool) (v : ℝ) (r : Nat) (f : FlagBits) : Prop :=
  r < 2 ^ t.width ∧
  ∃ u, RoundsIn (fun z => ∃ n k : ℤ, |n| < 2 ^ t.prec ∧ z = n * (2 : ℝ) ^ k) rm v u ∧
    let most : ℝ := (t.maxFinite.1 : ℝ) * (2 : ℝ) ^ t.maxFinite.2
    let normal : ℝ := (2 : ℝ) ^ (1 - (t.bias : ℤ))
    let toInf : Prop := match rm with | .rne | .rna => True | .rtz => False | .rup => 0 < v | .rdn => v < 0
    (most < |u| → f = (if sat then fSAT ||| fNX else fOF ||| fNX) ∧
      (sat = false → toInf → if t = .e4m3 then r = 0x7F else ∃ neg, t.value r = .inf neg ∧ (neg = true ↔ v < 0)) ∧
      (sat = true ∨ ¬toInf → (t.value r).Is (if v < 0 then -most else most))) ∧
    (|u| ≤ most → (∃ neg m q, t.value r = .fin neg m q ∧ (neg = true ↔ v < 0)) ∧
      (t = .a80 → (r.testBit 63 = true ↔ r / 2 ^ 64 % 2 ^ 15 ≠ 0)) ∧
      (normal ≤ |u| → (t.value r).Is u ∧ (u = v → f = 0) ∧ (u ≠ v → f = fNX)) ∧
      (|u| < normal → ∃ y, RoundsIn (fun z => ∃ n : ℤ, z = n * (2 : ℝ) ^ t.minQ) rm v y ∧ (t.value r).Is y ∧
        (y = v → f = 0) ∧ (y ≠ v → f = (fUF ||| fNX))))

/-- For each floating format, mode and sign, and each real magnitude v > 0 given exactly as m·2^q, or bracketed strictly
between m·2^q and (m + 1)·2^q with at least two bits more than the format keeps: the pattern and the flags of the
rounding operation are those of R135 and R136. With u the value v rounded to the format's significand as if the
exponent were unbounded: beyond the largest finite value the mode's replacement with OF and NX, or with SAT the
largest finite value with SAT and NX; from the smallest normal up the value u, with NX when inexact; below it v
rounded to the subnormal grid, with UF and NX when inexact. The result is canonical. (R135, R136, R143, R130, R131,
R132, R37) -/
def Obligations.RoundingIsCorrect : Prop :=
  ∀ (t : Ty) (rm : Rm) (sat neg sticky : Bool) (m : Nat) (q : ℤ) (v : ℝ), t.isFloat = true → 0 < v →
    (sticky = false → v = m * (2 : ℝ) ^ q) →
    (sticky = true → (m : ℝ) * (2 : ℝ) ^ q < v ∧ v < (m + 1 : ℝ) * (2 : ℝ) ^ q ∧ 2 ^ (t.prec + 1) ≤ m) →
    t.Rounds rm sat (if neg then -v else v) (t.round rm sat neg m q sticky).1 (t.round rm sat neg m q sticky).2

/-- The pattern of type t that a register or, for a80, a pair holds (R129). -/
def Sys2Proof.Machine.State.operand (s : State) (w : Tid) (t : Ty) (r : SReg) : Nat :=
  if t = .a80 then (s.rd w r).toNat + (s.rd w (r + 1)).toNat % 2 ^ 16 * 2 ^ 64 else (s.rd w r).toNat % 2 ^ t.width

/-- The writes of a floating pattern to a register or, for a80, a pair (R129). -/
def Sys2Proof.Machine.floatWrites (t : Ty) (d : SReg) (r : Nat) : List RegWrite :=
  if t = .a80 then [.s d (BitVec.ofNat 64 r), .s (d + 1) (BitVec.ofNat 64 (r / 2 ^ 64))] else [.s d (BitVec.ofNat 64 r)]

/-- On f32, f64 and a80 (fdiv and fsqrt on f32 and f64), for every state, guard that holds, mode and finite operands a
and b (and addend d) whose exact result is not zero: the instruction answers a next state in which D, or the pair D
and D + 1, receives the real number a + b, a − b, a × b, a × b + d, a / b or √a rounded once as R135 and R136 say,
with the flags of that rounding. Results land after 8 cycles on f32 and f64 and 12 on a80, ffma after 12, fdiv and
fsqrt after 24 on f32 and 40 on f64 under the lookahead window LA. (R149, R153, R129, R130, R132, R135, R136, R92,
R42) -/
def Obligations.FloatArithmetic : Prop :=
  ∀ (s : State) (g : Gd) (t : Ty) (rm : Rm) (la : BitVec 4) (d a b : SReg), s.guardOn s.cur g = true →
    t = .f32 ∨ t = .f64 ∨ t = .a80 →
    let lat := if t = .a80 then 12 else 8
    let long := if t = .f64 then 40 else 24
    ∀ p q : ℝ, (t.value (s.operand s.cur t a)).Is p →
      ((t.value (s.operand s.cur t b)).Is q →
        (p + q ≠ 0 → ∃ r f, s.yields (.fadd g t rm d a b) lat (floatWrites t d r) f ∧ t.Rounds rm false (p + q) r f) ∧
        (p - q ≠ 0 → ∃ r f, s.yields (.fsub g t rm d a b) lat (floatWrites t d r) f ∧ t.Rounds rm false (p - q) r f) ∧
        (p * q ≠ 0 → ∃ r f, s.yields (.fmul g t rm d a b) lat (floatWrites t d r) f ∧ t.Rounds rm false (p * q) r f) ∧
        (∀ c, (t.value (s.operand s.cur t d)).Is c → p * q + c ≠ 0 →
          ∃ r f, s.yields (.ffma g t rm d a b) 12 (floatWrites t d r) f ∧ t.Rounds rm false (p * q + c) r f) ∧
        (t ≠ .a80 → p ≠ 0 → q ≠ 0 →
          ∃ r f, s.yieldsLa (.fdiv g la t rm d a b) long la (floatWrites t d r) f ∧ t.Rounds rm false (p / q) r f)) ∧
      (t ≠ .a80 → 0 < p →
        ∃ r f, s.yieldsLa (.fsqrt g la t rm d a) long la (floatWrites t d r) f ∧ t.Rounds rm false (Real.sqrt p) r f)

/-- On f32, f64 and a80, for every state, guard that holds and mode: a NaN operand gives the canonical NaN, with IV when
one is signalling; 0 × ∞, ∞ − ∞, 0/0, ∞/∞ and the root of a negative number give it with IV; a finite non-zero value
divided by 0 gives a signed infinity and DZ; an exact zero sum is +0, or −0 under rdn, and keeps the sign of two
zeros of one sign; √−0 = −0; infinities otherwise give infinities with no flag. Every case answers a next state.
(R149, R131, R133, R137, R153) -/
def Obligations.FloatSpecialCases : Prop :=
  ∀ (s : State) (g : Gd) (t : Ty) (rm : Rm) (la : BitVec 4) (d a b : SReg), s.guardOn s.cur g = true →
    t = .f32 ∨ t = .f64 ∨ t = .a80 →
    let lat := if t = .a80 then 12 else 8
    let long := if t = .f64 then 40 else 24
    let x := t.value (s.operand s.cur t a)
    let y := t.value (s.operand s.cur t b)
    let z := t.value (s.operand s.cur t d)
    let top := 2 ^ (t.width - 1)
    let nan : Nat := match t with | .f64 => 0x7FF8000000000000 | .f32 => 0x7FC00000 | _ => 0x7FFFC000000000000000
    let zero (n : Bool) := if n then top else 0
    let inf (n : Bool) : Nat := zero n + match t with | .f64 => 0x7FF0000000000000 | .f32 => 0x7F800000 | _ => 0x7FFF8000000000000000
    let short (i : Instr) (r : Nat) (f : FlagBits) : Prop := s.yields i lat (floatWrites t d r) f
    let fma (r : Nat) (f : FlagBits) : Prop := s.yields (.ffma g t rm d a b) 12 (floatWrites t d r) f
    let div (r : Nat) (f : FlagBits) : Prop := t ≠ .a80 → s.yieldsLa (.fdiv g la t rm d a b) long la (floatWrites t d r) f
    let sqrt (r : Nat) (f : FlagBits) : Prop := t ≠ .a80 → s.yieldsLa (.fsqrt g la t rm d a) long la (floatWrites t d r) f
    let add (r : Nat) (f : FlagBits) : Prop := short (.fadd g t rm d a b) r f
    let sub (r : Nat) (f : FlagBits) : Prop := short (.fsub g t rm d a b) r f
    let mul (r : Nat) (f : FlagBits) : Prop := short (.fmul g t rm d a b) r f
    let signals := x = .nan true ∨ y = .nan true
    let sgn := x.neg != y.neg
    (x.isNan = true ∨ y.isNan = true →
      (signals → add nan fIV ∧ sub nan fIV ∧ mul nan fIV ∧ div nan fIV ∧ fma nan fIV) ∧
      (¬signals → add nan 0 ∧ sub nan 0 ∧ mul nan 0 ∧ div nan 0)) ∧
    (x.isNan = true ∨ y.isNan = true ∨ z.isNan = true →
      fma nan (if x = .nan true ∨ y = .nan true ∨ z = .nan true then fIV else 0)) ∧
    (∀ h, x = .nan h → sqrt nan (if h then fIV else 0)) ∧
    (∀ m n, x = .inf m → y = .inf n →
      add (if m = n then inf m else nan) (if m = n then 0 else fIV) ∧
      sub (if m ≠ n then inf m else nan) (if m ≠ n then 0 else fIV) ∧ mul (inf (m != n)) 0 ∧ div nan fIV) ∧
    (∀ m q, x = .inf m → y.Is q →
      add (inf m) 0 ∧ sub (inf m) 0 ∧ (q = 0 → mul nan fIV) ∧ (q ≠ 0 → mul (inf sgn) 0) ∧ div (inf sgn) 0) ∧
    (∀ n p, y = .inf n → x.Is p →
      add (inf n) 0 ∧ sub (inf (!n)) 0 ∧ (p = 0 → mul nan fIV) ∧ (p ≠ 0 → mul (inf sgn) 0) ∧ div (zero sgn) 0) ∧
    (∀ p q, x.Is p → y.Is q →
      (p + q = 0 → add (zero (if x.neg = y.neg then x.neg else decide (rm = .rdn))) 0) ∧
      (p - q = 0 → sub (zero (if x.neg ≠ y.neg then x.neg else decide (rm = .rdn))) 0) ∧
      (p * q = 0 → mul (zero sgn) 0) ∧
      (q = 0 → div (if p = 0 then nan else inf sgn) (if p = 0 then fIV else fDZ)) ∧
      (q ≠ 0 → p = 0 → div (zero sgn) 0) ∧
      (∀ c, z.Is c → p * q + c = 0 → fma (zero (if sgn = z.neg then sgn else decide (rm = .rdn))) 0) ∧
      (∀ k, z = .inf k → fma (inf k) 0)) ∧
    ((x.isNan = false ∧ y.isNan = false ∧ z.isNan = false ∧ ((∃ m, x = .inf m) ∨ ∃ n, y = .inf n)) →
      ((x.Is 0 ∨ y.Is 0) → fma nan fIV) ∧
      (¬(x.Is 0 ∨ y.Is 0) → fma (if z = .inf (!sgn) then nan else inf sgn) (if z = .inf (!sgn) then fIV else 0))) ∧
    (∀ m, x = .inf m → sqrt (if m then nan else inf false) (if m then fIV else 0)) ∧
    (∀ p, x.Is p → (p = 0 → sqrt (zero x.neg) 0) ∧ (p < 0 → sqrt nan fIV))

/-- On f32, f64 and a80, for every state and guard that holds: fcmp writes its condition on the extended real values
compared, an unordered pair satisfying ne and un only, with IV for a signalling NaN, or any NaN in lt to ge; fmin
and fmax write the smaller or the larger operand with −0 below +0, the other operand when one is a NaN and the
canonical NaN when both are, with IV for a signalling one; an operand is written bit for bit on f32 and f64, and on
a80 as the canonical encoding of its value, whether finite, infinite or a zero with its sign; fclass writes the one
bit of the value's class. Results land after 8 cycles, after 12 on a80. (R150, R151, R152, R153, R130, R132) -/
def Obligations.FloatComparisons : Prop :=
  ∀ (s : State) (g : Gd) (t : Ty) (c : FCond) (k : QReg) (d a b : SReg), s.guardOn s.cur g = true →
    t = .f32 ∨ t = .f64 ∨ t = .a80 →
    let lat := if t = .a80 then 12 else 8
    let p := s.operand s.cur t a
    let q := s.operand s.cur t b
    let x := t.value p
    let y := t.value q
    let sig : FlagBits := if x = .nan true ∨ y = .nan true then fIV else 0
    let ordered : Prop := match c with | .lt | .le | .gt | .ge => True | _ => False
    let writes (mx : Bool) (r : Nat) (f : FlagBits) : Prop :=
      s.yields (if mx then .fmax g t d a b else .fmin g t d a b) lat (floatWrites t d r) f
    let picks (mx : Bool) (o : Nat) (f : FlagBits) : Prop :=
      ∃ r, writes mx r f ∧ (t ≠ .a80 → r = o) ∧
        (t = .a80 → r < 2 ^ 80 ∧ (∀ h, t.value o = .inf h → t.value r = .inf h) ∧
          ∀ v, (t.value o).Is v → (t.value r).Is v ∧ (t.value r).neg = (t.value o).neg ∧
            (r.testBit 63 = true ↔ r / 2 ^ 64 % 2 ^ 15 ≠ 0))
    (x.isNan = true ∨ y.isNan = true →
      (ordered → s.yields (.fcmp g t c k a b) lat [.q k false] fIV) ∧
      (¬ordered → s.yields (.fcmp g t c k a b) lat [.q k (decide (c = .ne ∨ c = .un))] sig)) ∧
    (∀ u v : EReal, x.At u → y.At v → ∃ r, s.yields (.fcmp g t c k a b) lat [.q k r] 0 ∧
      (r = true ↔ match c with
        | .eq => u = v | .ne => u ≠ v | .lt => u < v | .le => u ≤ v | .gt => v < u | .ge => v ≤ u | .un => False | .ord => True)) ∧
    (∀ mx, x.isNan = true → y.isNan = true →
      writes mx (match t with | .f64 => 0x7FF8000000000000 | .f32 => 0x7FC00000 | _ => 0x7FFFC000000000000000) sig) ∧
    (∀ mx, (x.isNan = true → y.isNan = false → picks mx q sig) ∧ (y.isNan = true → x.isNan = false → picks mx p sig)) ∧
    (∀ u v : EReal, x.At u → y.At v →
      let below : Prop := u < v ∨ (u = v ∧ x.neg = true ∧ y.neg = false)
      (below → picks false p 0 ∧ picks true q 0) ∧ (¬below → picks false q 0 ∧ picks true p 0)) ∧
    ∃ n, s.yields (.fclass g t d a) lat [.s d (BitVec.ofNat 64 (2 ^ n))] 0 ∧
      (∀ h, x = .nan h → n = if h then 8 else 9) ∧ (∀ h, x = .inf h → n = if h then 0 else 7) ∧
      ∀ v, x.Is v →
        let normal := (2 : ℝ) ^ (1 - (t.bias : ℤ)) ≤ |v|
        (v = 0 → n = if x.neg then 3 else 4) ∧ (normal → n = if x.neg then 1 else 6) ∧
        (v ≠ 0 → ¬normal → n = if x.neg then 2 else 5)

/-- The integer that an integer type reads a pattern as (R134). -/
def Sys2Proof.Ty.reads (t : Ty) (x : Nat) : ℤ :=
  if t.signed = true ∧ 2 ^ (t.width - 1) ≤ x % 2 ^ t.width then (x % 2 ^ t.width : ℤ) - 2 ^ t.width else (x % 2 ^ t.width : ℤ)

/-- The bounds of an integer type (R134). -/
def Sys2Proof.Ty.inRange (t : Ty) (v : ℤ) : Prop :=
  if t.signed = true then -2 ^ (t.width - 1) ≤ v ∧ v < 2 ^ (t.width - 1) else 0 ≤ v ∧ v < 2 ^ t.width

/-- For every state, guard that holds and pair of types of ALL: cvt answers a next state in which D (a pair for a80)
receives the converted pattern, extended by its sign for the i types and by zeros for the others, after 8 cycles, or
12 when a type is a80. An integer in range of an integer type keeps its value; out of range its low bits are kept
with no flag, or with SAT it is the nearest bound with SAT set. An integer or a finite float becomes the rounded
float, clamped with SAT and NX under SAT; a zero becomes the zero of its sign, the integer 0 becoming +0, with no
flag; an infinity of a type converted to the same type stays as it is; so does an infinity under SAT, and without it
an infinity stays one, or is the NaN of e4m3 with IV. A float becomes the integer it rounds to, with NX when
inexact; out of range or infinite the top bit with IV, or with SAT the nearest bound with SAT and NX; a NaN gives 0
and IV as an integer and the canonical NaN as a float. (R140, R141, R142, R143, R129, R134, R135, R136) -/
def Obligations.Conversions : Prop :=
  ∀ (s : State) (g : Gd) (t src : Ty) (rm : Rm) (sat : Bool) (d a : SReg), s.guardOn s.cur g = true →
    t ≠ .b1 → src ≠ .b1 →
    let p := s.operand s.cur src a
    let x := src.value p
    ∃ r f, r < 2 ^ t.width ∧
      s.yields (.cvt g t rm sat src d a) (if t = .a80 ∨ src = .a80 then 12 else 8)
        (if t.isInt = true then [.s d (BitVec.ofInt 64 (t.reads r))] else floatWrites t d r) f ∧
      (t = src → t.isInt = true → r = p ∧ f = 0) ∧
      (t = src → t.isFloat = true → x.isNan = false → t ≠ .a80 → r = p ∧ f = 0) ∧
      (t = src → t = .a80 → ∀ v, x.Is v → (t.value r).Is v ∧ (t.value r).neg = x.neg ∧ f = 0 ∧
        (r.testBit 63 = true ↔ r / 2 ^ 64 % 2 ^ 15 ≠ 0)) ∧
      (t = src → t = .a80 → ∀ n, x = .inf n → t.value r = .inf n ∧ f = 0) ∧
      (t.isFloat = true → (src.isInt = true ∧ src.reads p = 0 ∨ src.isFloat = true ∧ x.Is 0) →
        (t.value r).Is 0 ∧ (t.value r).neg = (src.isFloat && x.neg) ∧ f = 0) ∧
      (src.isFloat = true → ∀ h, x = .nan h →
        (t.isInt = true → r = 0 ∧ f = fIV) ∧ (t.isFloat = true → r = t.canonNan ∧ f = if h then fIV else 0)) ∧
      (t ≠ src → src.isInt = true → t.isInt = true →
        let v := src.reads p
        (t.inRange v → t.reads r = v ∧ f = 0) ∧
        (¬t.inRange v → sat = false → (r : ℤ) = v % 2 ^ t.width ∧ f = 0) ∧
        (¬t.inRange v → sat = true → f = fSAT ∧ t.reads r = if v < 0 then t.intMin else t.intMax)) ∧
      (src.isInt = true → t.isFloat = true → src.reads p ≠ 0 → t.Rounds rm sat (src.reads p : ℝ) r f) ∧
      (t ≠ src → src.isFloat = true → t.isFloat = true → ∀ v, x.Is v → v ≠ 0 → t.Rounds rm sat v r f) ∧
      (src.isFloat = true → t.isInt = true → ∀ n, x = .inf n →
        (sat = false → r = 2 ^ (t.width - 1) ∧ f = fIV) ∧
        (sat = true → f = (fSAT ||| fNX) ∧ t.reads r = if n then t.intMin else t.intMax)) ∧
      (t ≠ src → src.isFloat = true → t.isFloat = true → ∀ n, x = .inf n →
        (sat = false → if t = .e4m3 then r = 0x7F ∧ f = fIV else t.value r = .inf n ∧ f = 0) ∧
        (sat = true → f = (fSAT ||| fNX) ∧
          (t.value r).Is ((if n then -1 else 1) * (t.maxFinite.1 : ℝ) * (2 : ℝ) ^ t.maxFinite.2))) ∧
      (src.isFloat = true → t.isInt = true → ∀ v, x.Is v → ∃ y : ℤ, RoundsIn (fun z => ∃ n : ℤ, z = n) rm v y ∧
        (t.inRange y → t.reads r = y ∧ ((y : ℝ) = v → f = 0) ∧ ((y : ℝ) ≠ v → f = fNX)) ∧
        (¬t.inRange y → sat = false → r = 2 ^ (t.width - 1) ∧ f = fIV) ∧
        (¬t.inRange y → sat = true → f = (fSAT ||| fNX) ∧ t.reads r = if v < 0 then t.intMin else t.intMax))

/-- The instruction answers a next state: a vector lands in D under a mask, whose written lanes and their flags are as P
says; the flags that land are their OR (R161, R162). -/
def Sys2Proof.Machine.State.yieldsLanes (s : State) (i : Instr) (lat : Nat) (d : VReg) (m : Mask)
    (P : Fin 64 → Lane → FlagBits → Prop) : Prop :=
  ∃ (out : Vec) (fs : Fin 64 → FlagBits) (fl : FlagBits), s.yields i lat [.v d out m] fl ∧
    (∀ i : Fin 64, m.getLsbD i = true → P i out[i] (fs i)) ∧
    ∀ b : Nat, fl.getLsbD b = true ↔ ∃ i : Fin 64, m.getLsbD i = true ∧ (fs i).getLsbD b = true

/-- An exact integer as a lane of i32 or n32: modulo 2^32, or clamped under SAT (R165, R169, R171). -/
def Sys2Proof.laneOfInt (signed sat : Bool) (e : ℤ) (r : Lane) (f : FlagBits) : Prop :=
  let lo : ℤ := if signed then -2 ^ 31 else 0
  let hi : ℤ := if signed then 2 ^ 31 - 1 else 2 ^ 32 - 1
  (sat = false → r = BitVec.ofInt 32 e ∧ f = 0) ∧
  (sat = true → (e < lo → r = BitVec.ofInt 32 lo ∧ f = fSAT) ∧ (hi < e → r = BitVec.ofInt 32 hi ∧ f = fSAT) ∧
    (lo ≤ e → e ≤ hi → r = BitVec.ofInt 32 e ∧ f = 0))

/-- For every state, guard that holds, write mask and type of V: lane i of D, where the mask is set, receives a + b, a −
b, a × b, a × b + d, a × b − d, the smaller, the larger, |a| or −a of its lanes (b is one scalar in vfmas and
vscal). On f32 the lane and its flags are those of the scalar operation of R149 and R150; a sign operation clears or
inverts bit 31 and makes a NaN canonical. On i32 and n32 the exact value is reduced modulo 2^32 with no flag, or
with SAT clamped to the type's range, which sets SAT when it acts. FLAGS receives the OR over the written lanes. The
results land after 8 cycles, 12 where there is a product. (R165, R166, R167, R161, R162, R163) -/
def Obligations.LaneArithmetic : Prop :=
  ∀ (s : State) (g : Gd) (t : Ty) (rm : Rm) (sat : Bool) (km : BitVec 3) (d a : VReg) (b : VSrc) (c : Src),
    s.guardOn s.cur g = true → t = .i32 ∨ t = .n32 ∨ t = .f32 →
    let x := s.rdV s.cur a
    let y := s.vsrc s.cur b
    let z := s.rdV s.cur d
    let k : Lane := (s.src s.cur c).extractLsb' 0 32
    let m := s.rdK s.cur km
    let int (l : Lane) : ℤ := if t = .i32 then l.toInt else l.toNat
    let gives (i : Instr) (lat : Nat) (sat : Bool) (e : Fin 64 → ℤ) (f : Fin 64 → Nat × FlagBits) : Prop :=
      s.yieldsLanes i lat d m fun i r fl =>
        (t = .f32 → r = BitVec.ofNat 32 (f i).1 ∧ fl = (f i).2) ∧ (t ≠ .f32 → laneOfInt (decide (t = .i32)) sat (e i) r fl)
    let signs (i : Instr) (e : ℤ → ℤ) (bit : Lane → Lane) : Prop :=
      s.yieldsLanes i 8 d m fun i r fl =>
        (t = .f32 → (∀ h, Ty.f32.value x[i].toNat = .nan h → r = 0x7FC00000 ∧ fl = if h then fIV else 0) ∧
          ((Ty.f32.value x[i].toNat).isNan = false → r = bit x[i] ∧ fl = 0)) ∧
        (t ≠ .f32 → laneOfInt (decide (t = .i32)) sat (e (int x[i])) r fl)
    gives (.vadd g t rm sat km d a b) 8 sat (fun i => int x[i] + int y[i]) (fun i => fAdd .f32 rm x[i].toNat y[i].toNat) ∧
    gives (.vsub g t rm sat km d a b) 8 sat (fun i => int x[i] - int y[i]) (fun i => fSub .f32 rm x[i].toNat y[i].toNat) ∧
    gives (.vmul g t rm sat km d a b) 12 sat (fun i => int x[i] * int y[i]) (fun i => fMul .f32 rm x[i].toNat y[i].toNat) ∧
    gives (.vfma g t rm sat km d a b) 12 sat (fun i => int x[i] * int y[i] + int z[i])
      (fun i => fFma .f32 rm x[i].toNat y[i].toNat z[i].toNat) ∧
    gives (.vfms g t rm sat km d a b) 12 sat (fun i => int x[i] * int y[i] - int z[i])
      (fun i => fFms .f32 rm x[i].toNat y[i].toNat z[i].toNat) ∧
    gives (.vmin g t km d a b) 8 false (fun i => min (int x[i]) (int y[i])) (fun i => fMinMax .f32 false x[i].toNat y[i].toNat) ∧
    gives (.vmax g t km d a b) 8 false (fun i => max (int x[i]) (int y[i])) (fun i => fMinMax .f32 true x[i].toNat y[i].toNat) ∧
    gives (.vfmas g t rm sat km d a c) 12 sat (fun i => int x[i] * int k + int z[i])
      (fun i => fFma .f32 rm x[i].toNat k.toNat z[i].toNat) ∧
    gives (.vscal g t rm sat km d a c) 12 sat (fun i => int x[i] * int k) (fun i => fMul .f32 rm x[i].toNat k.toNat) ∧
    (t ≠ .n32 → signs (.vabs g t sat km d a) (fun v => |v|) (· &&& 0x7FFFFFFF) ∧
      signs (.vneg g t sat km d a) (fun v => -v) (· ^^^ 0x80000000))

/-- The same with no flag: each written lane is as f says. -/
def Sys2Proof.Machine.State.yieldsPlain (s : State) (i : Instr) (lat : Nat) (d : VReg) (m : Mask) (f : Fin 64 → Lane) : Prop :=
  ∃ out : Vec, s.yields i lat [.v d out m] 0 ∧ ∀ i : Fin 64, m.getLsbD i = true → out[i] = f i

/-- For every state, guard that holds and write mask, the bit operations answer a next state whose written lanes are the
bitwise and, or and exclusive or of the lanes, lane a shifted by b[4:0] with zeros or copies of bit 31 entering, and
the count of ones in a, from 0 to 32. None sets a flag. (R168) -/
def Obligations.LaneBits : Prop :=
  ∀ (s : State) (g : Gd) (km : BitVec 3) (d a : VReg) (b : VSrc), s.guardOn s.cur g = true →
    let x := s.rdV s.cur a
    let y := s.vsrc s.cur b
    let m := s.rdK s.cur km
    let n (i : Fin 64) : Nat := (y[i].extractLsb' 0 5).toNat
    s.yieldsPlain (.vand g km d a b) 8 d m (fun i => x[i] &&& y[i]) ∧
    s.yieldsPlain (.vor g km d a b) 8 d m (fun i => x[i] ||| y[i]) ∧
    s.yieldsPlain (.vxor g km d a b) 8 d m (fun i => x[i] ^^^ y[i]) ∧
    s.yieldsPlain (.vshl g km d a b) 8 d m (fun i => x[i] <<< n i) ∧
    s.yieldsPlain (.vshr g km d a b) 8 d m (fun i => x[i] >>> n i) ∧
    s.yieldsPlain (.vsar g km d a b) 8 d m (fun i => x[i].sshiftRight (n i)) ∧
    ∃ k : Fin 64 → Nat, s.yieldsPlain (.vpopc g km d a) 8 d m (fun i => BitVec.ofNat 32 (k i)) ∧
      ∀ i, k i ≤ 32 ∧ k i = (List.finRange 32).countP fun (j : Fin 32) => x[i].getLsbD j.val

/-- For every state, guard that holds and write mask, vdot4 on i8 or n8 answers a next state whose written lanes are d +
Σ A.byte[j] · B.byte[j] over the four bytes, bytes and lanes read as signed with i8 and as naturals with n8: modulo
2^32, or with SAT clamped to i32 or n32 with SAT set when the clamp acts. With I = 1 the four bytes of IMM pair with
every lane. (R169) -/
def Obligations.ByteDot : Prop :=
  ∀ (s : State) (g : Gd) (t : Ty) (sat : Bool) (km : BitVec 3) (d a : VReg) (b : VSrc), s.guardOn s.cur g = true →
    t = .i8 ∨ t = .n8 →
    let x := s.rdV s.cur a
    let z := s.rdV s.cur d
    let y (i : Fin 64) : Lane := match b with | .reg r => (s.rdV s.cur r)[i] | .imm v => v
    let byte (l : Lane) (j : Nat) : ℤ := if t = .i8 then (l.extractLsb' (8 * j) 8).toInt else (l.extractLsb' (8 * j) 8).toNat
    s.yieldsLanes (.vdot4 g t sat km d a b) 12 d (s.rdK s.cur km) fun i r f =>
      laneOfInt (decide (t = .i8)) sat
        ((if t = .i8 then z[i].toInt else z[i].toNat) + byte x[i] 0 * byte (y i) 0 + byte x[i] 1 * byte (y i) 1 +
          byte x[i] 2 * byte (y i) 2 + byte x[i] 3 * byte (y i) 3) r f

/-- For every state and guard that holds, each answers a next state in which all 64 lanes land after 8 cycles with the
OR of their flags. vcvt writes conv of each lane. vpack converts the 128 lanes of A and then B from f32, i32 or n32
and stores element e in bytes e·s to e·s + s − 1; with s = 1 lanes 32 to 63 are 0. vunpk reads element 64·part + i
of A as packed and widens it exactly to f32, i32 or n32 in lane i; a signalling NaN becomes the canonical NaN with
IV. (R144, R145, R146, R147, R129, R141) -/
def Obligations.LaneConversions : Prop :=
  ∀ (s : State) (g : Gd) (t src : Ty) (rm : Rm) (sat : Bool) (part : BitVec 2) (d a b : VReg), s.guardOn s.cur g = true →
    let x := s.rdV s.cur a
    let y := s.rdV s.cur b
    let all := BitVec.allOnes 64
    let wide : Ty := if t.isFloat = true then .f32 else if t.signed = true then .i32 else .n32
    (TSet.lane.has t = true → TSet.lane.has src = true →
      s.yieldsLanes (.vcvt g t rm sat src d a) 8 d all fun i r f =>
        let c := conv t src rm sat (x[i].toNat % 2 ^ src.width)
        r = (if t.isInt = true then BitVec.ofInt 32 (t.reads c.1) else BitVec.ofNat 32 c.1) ∧ f = c.2) ∧
    (TSet.narrow.has t = true →
      let elem (e : Nat) : Nat × FlagBits :=
        conv t wide rm sat (if h : e < 64 then x[e].toNat else if h : e - 64 < 64 then y[e - 64].toNat else 0)
      (∃ (out : Vec) (fl : FlagBits), s.yields (.vpack g t rm sat d a b) 8 [.v d out all] fl ∧
        (t.width = 16 → ∀ i : Fin 64, out[i] = BitVec.ofNat 32 ((elem (2 * i)).1 + 2 ^ 16 * (elem (2 * i + 1)).1)) ∧
        (t.width = 8 → ∀ i : Fin 64, out[i] = if i.val < 32 then
          BitVec.ofNat 32 ((elem (4 * i)).1 + 2 ^ 8 * (elem (4 * i + 1)).1 + 2 ^ 16 * (elem (4 * i + 2)).1 +
            2 ^ 24 * (elem (4 * i + 3)).1) else 0) ∧
        ∀ j : Nat, fl.getLsbD j = true ↔ ∃ e, e < 128 ∧ (elem e).2.getLsbD j = true) ∧
      (part.toNat < 4 / (t.width / 8) →
        s.yieldsLanes (.vunpk g t part d a) 8 d all fun i r f =>
          let e := 64 * part.toNat + i.val
          let p := x[e * t.width / 32 % 64].toNat / 2 ^ (e * t.width % 32) % 2 ^ t.width
          (t.isInt = true → (if t.signed = true then r.toInt else (r.toNat : ℤ)) = t.reads p ∧ f = 0) ∧
          (t.isFloat = true → (∀ h, t.value p = .nan h → r = 0x7FC00000 ∧ f = if h then fIV else 0) ∧
            (∀ n, t.value p = .inf n → Ty.f32.value r.toNat = .inf n ∧ f = 0) ∧
            (∀ v, (t.value p).Is v → (Ty.f32.value r.toNat).Is v ∧ f = 0))))

/-- For every state and guard that holds: vcmp sets bit i of k[D] where the mask bit is 1 and the condition holds, with
the flags of the compared lanes; vsel, vmov, vbcast, vget, vput, vperm and vrot move the lanes that R175 and R176
name; vcomp packs the selected lanes and clears the rest, vexpd undoes it, viota counts the selected lanes below
each; kop, kpopc, kmov and kfirst write what R178 says. Each lands after 8 cycles. (R170, R175, R176, R177, R178,
R163) -/
def Obligations.LanesAndMasks : Prop :=
  ∀ (s : State) (g : Gd) (t : Ty) (c : FCond) (xs : Bool) (tt : BitVec 4) (km : BitVec 3) (d a b : VReg) (v : VSrc) (e f : SReg)
    (o : Src) (k l n : KReg), s.guardOn s.cur g = true →
    let x := s.rdV s.cur a
    let y := s.rdV s.cur b
    let z := s.vsrc s.cur v
    let m := s.rdK s.cur km
    let all := BitVec.allOnes 64
    let low : Lane := (s.rd s.cur f).extractLsb' 0 32
    let j := (s.src s.cur o).toNat % 64
    let rank (i : Nat) : Nat := (List.finRange 64).countP fun (j : Fin 64) => decide (j.val < i) && m.getLsbD j.val
    (t = .i32 ∨ t = .n32 ∨ t = .f32 →
      let cmp (i : Fin 64) : Bool × FlagBits := if t = .f32 then fCmp .f32 c x[i].toNat z[i].toNat else
        let p : ℤ := if t = .i32 then x[i].toInt else x[i].toNat
        let q : ℤ := if t = .i32 then z[i].toInt else z[i].toNat
        (match c with
          | .eq => decide (p = q) | .ne => decide (p ≠ q) | .lt => decide (p < q) | .le => decide (p ≤ q)
          | .gt => decide (q < p) | .ge => decide (q ≤ p) | .un => false | .ord => true, 0)
      ∃ (r : Mask) (fl : FlagBits), s.yields (.vcmp g t km c k a v) 8 [.k k r] fl ∧
        (∀ i : Fin 64, r.getLsbD i = (m.getLsbD i && (cmp i).1)) ∧
        ∀ b : Nat, fl.getLsbD b = true ↔ ∃ i : Fin 64, m.getLsbD i = true ∧ (cmp i).2.getLsbD b = true) ∧
    s.yieldsPlain (.vsel g km d a b) 8 d all (fun i => if m.getLsbD i then x[i] else y[i]) ∧
    s.yieldsPlain (.vmov g km d a) 8 d m (fun i => x[i]) ∧
    s.yieldsPlain (.vbcast g km d f) 8 d m (fun _ => low) ∧
    (∃ w : Lane, (∀ h : j < 64, w = x[j]) ∧ s.yields (.vget g xs e a o) 8 [.s e (if xs then w.signExtend 64 else w.zeroExtend 64)] 0) ∧
    s.yieldsPlain (.vput g d f o) 8 d (1#64 <<< j) (fun _ => low) ∧
    s.yieldsPlain (.vperm g km d a b) 8 d m (fun i => x[y[i].toNat % 64]) ∧
    s.yieldsPlain (.vrot g km d a o) 8 d m (fun i => x[(i.val + j) % 64]) ∧
    (∃ out : Vec, s.yields (.vcomp g km d a) 8 [.v d out all] 0 ∧
      (∀ (i : Fin 64) (h : rank i < 64), m.getLsbD i = true → out[rank i] = x[i]) ∧
      ∀ i : Fin 64, rank 64 ≤ i.val → out[i] = 0) ∧
    (∃ out : Vec, s.yields (.vexpd g km d a) 8 [.v d out all] 0 ∧
      ∀ i : Fin 64, out[i] = if m.getLsbD i then x[rank i % 64] else 0) ∧
    s.yieldsPlain (.viota g km d) 8 d all (fun i => BitVec.ofNat 32 (rank i)) ∧
    (∃ r : Mask, s.yields (.kop g tt k l n) 8 [.k k r] 0 ∧ ∀ i, i < 64 →
      r.getLsbD i = tt.getLsbD ((if (s.rdK s.cur l).getLsbD i then 2 else 0) + if (s.rdK s.cur n).getLsbD i then 1 else 0)) ∧
    s.yields (.kpopc g e l) 8 [.s e (BitVec.ofNat 64 ((List.finRange 64).countP fun (i : Fin 64) => (s.rdK s.cur l).getLsbD i.val))] 0 ∧
    s.yields (.kmovToMask g k f) 8 [.k k (s.rd s.cur f)] 0 ∧ s.yields (.kmovFromMask g e l) 8 [.s e (s.rdK s.cur l)] 0 ∧
    ∃ i, s.yields (.kfirst g e l) 8 [.s e (BitVec.ofNat 64 i)] 0 ∧ i ≤ 64 ∧ (∀ j, j < i → (s.rdK s.cur l).getLsbD j = false) ∧
      (i < 64 → (s.rdK s.cur l).getLsbD i = true)

/-- A node of the tree of R171, with the flags of the nodes below it. -/
def Sys2Proof.sumNode (op : Nat → Nat → Nat × FlagBits) (leaf : Nat → Option Nat) : Nat → Nat → Option (Nat × FlagBits)
  | 0, i => (leaf i).map fun v => (v, 0)
  | n + 1, i =>
    match sumNode op leaf n (2 * i), sumNode op leaf n (2 * i + 1) with
    | none, r => r
    | l, none => l
    | some l, some r => some ((op l.1 r.1).1, l.2 ||| r.2 ||| (op l.1 r.1).2)

/-- For every state and guard that holds, both write D after 16 cycles. On i32 and n32 vsum gives the exact sum of the
lanes whose mask bit is 1, modulo 2^32 or clamped with SAT, and vmaxr their largest, or the type's smallest value
when none takes part. On f32 each gives the root of the tree of R171, whose nodes add (rounding each sum) or take
the maximum, an empty lane giving way to its sibling, with the flags of every node; an empty result is +0 or the
canonical NaN. D is sign-extended for i32 and zero-extended otherwise. (R171, R163, R129, R150) -/
def Obligations.LaneReductions : Prop :=
  ∀ (s : State) (g : Gd) (rm : Rm) (sat : Bool) (km : BitVec 3) (d : SReg) (a : VReg), s.guardOn s.cur g = true →
    let x := s.rdV s.cur a
    let m := s.rdK s.cur km
    let leaf (i : Nat) : Option Nat := if h : i < 64 then (if m.getLsbD i then some x[i].toNat else none) else none
    let sum := (sumNode (fAdd .f32 rm) leaf 6 0).getD (0, 0)
    let top := (sumNode (fMinMax .f32 true) leaf 6 0).getD (0x7FC00000, 0)
    s.yields (.vsum g .f32 rm sat km d a) 16 [.s d (BitVec.ofNat 64 sum.1)] sum.2 ∧
    s.yields (.vmaxr g .f32 km d a) 16 [.s d (BitVec.ofNat 64 top.1)] top.2 ∧
    ∀ t : Ty, t = .i32 ∨ t = .n32 →
      let int (l : Lane) : ℤ := if t = .i32 then l.toInt else l.toNat
      let ext (r : Lane) : Word := if t = .i32 then r.signExtend 64 else r.zeroExtend 64
      (∃ (r : Lane) (f : FlagBits), s.yields (.vsum g t rm sat km d a) 16 [.s d (ext r)] f ∧
        laneOfInt (decide (t = .i32)) sat (∑ i : Fin 64, if m.getLsbD i then int x[i] else 0) r f) ∧
      ∃ r : Lane, s.yields (.vmaxr g t km d a) 16 [.s d (ext r)] 0 ∧
        (m = 0 → r = if t = .i32 then 0x80000000 else 0) ∧
        (m ≠ 0 → (∃ i : Fin 64, m.getLsbD i = true ∧ r = x[i]) ∧ ∀ i : Fin 64, m.getLsbD i = true → int x[i] ≤ int r)

/-- With the guard on and fewer than 8 requests of the core outstanding, each queues a request carrying its source and
mask, which reaches its unit in the next cycle, passes on and changes nothing else; with 8 it parks on the queue.
The unit takes a request 4 cycles after the one before, and its result lands 47 cycles later under the mask with the
flags of the written lanes: 1/a and 1/√a correctly rounded, 2^a exact on the integers −149 to 127 and +∞ with OF NX
from 128 up, log2 exact on powers of 2, and the special values of R172. (R172, R173, R174, R14, R161, R163) -/
def Obligations.Transcendentals : Prop :=
  (∀ (s : State) (g : Gd) (la : BitVec 4) (km : BitVec 3) (d a : VReg), s.guardOn s.cur g = true → s.granted s.cur 110 = false →
    let w := s.cur
    let pc := s.phys w.job w.lcn
    let does (i : Instr) (fn : Nat) : Prop :=
      (s.transLoad w pc < 8 → ∃ t, exec i s = .next t ∧ t.transReqs.get? s.seq = some
          { own := w, pcore := pc, fn := fn, d := d, src := s.rdV w a, mask := s.rdK w km, due := s.cyc + 1 } ∧
        (s.seq, .v d) ∈ (t.thread w).busy ∧ ⟨s.cyc + 1, .transRequest s.seq⟩ ∈ t.agenda ∧ t.pcOf w = s.pcOf w + 12 ∧
        s.onlyMoves { t with transReqs := s.transReqs } w) ∧
      (8 ≤ s.transLoad w pc → exec i s = .next (s.park w .engq 5 false .reissue))
    does (.vexp2 g la km d a) 0 ∧ does (.vlog2 g la km d a) 1 ∧ does (.vrcp g la km d a) 2 ∧ does (.vrsq g la km d a) 3) ∧
  (∀ (s : State) (rid : Nat) (r : TransReq), s.transReqs.get? rid = some r →
    let u := r.pcore % 40 + if r.pcore / 40 < 20 then 0 else 40
    let c := max s.cyc (s.trans.getD u 0)
    exec (.transRequest rid) s = .next ({ s with trans := s.trans.set u (c + 4) }.atCycle (c + 47) (.transResult rid))) ∧
  ∀ (s : State) (rid : Nat) (r : TransReq), s.transReqs.get? rid = some r → (∃ x, (rid, x) ∈ (s.thread r.own).busy) →
    (s.waiters r.own.job fun v x => s.phys? r.own.job v.lcn == some r.pcore && x.kind == .engq && x.obj == 5) = [] →
    ∃ (out : Vec) (fs : Fin 64 → FlagBits) (fl : FlagBits),
      exec (.transResult rid) s =
        .next (({ s with transReqs := s.transReqs.del rid }.release r.own rid).land r.own 0 [.v r.d out r.mask] fl) ∧
      (∀ b : Nat, fl.getLsbD b = true ↔ ∃ i : Fin 64, r.mask.getLsbD i = true ∧ (fs i).getLsbD b = true) ∧
      ∀ i : Fin 64,
        let x := Ty.f32.value r.src[i].toNat
        let y := out[i]
        let f := fs i
        let sign : Lane := if x.neg then 0x80000000 else 0
        (∀ h, x = .nan h → y = 0x7FC00000 ∧ f = if h then fIV else 0) ∧
        (r.fn = 0 → (x = .inf false → y = 0x7F800000 ∧ f = 0) ∧ (x = .inf true → y = 0 ∧ f = 0) ∧
          (∀ n : ℤ, x.Is n → -149 ≤ n → n ≤ 127 → (Ty.f32.value y.toNat).Is ((2 : ℝ) ^ n) ∧ f = 0) ∧
          (∀ v, x.Is v → 128 ≤ v → y = 0x7F800000 ∧ f = (fOF ||| fNX))) ∧
        (r.fn = 1 → (x = .inf false → y = 0x7F800000 ∧ f = 0) ∧ (x = .inf true → y = 0x7FC00000 ∧ f = fIV) ∧
          (x.Is 0 → y = 0xFF800000 ∧ f = fDZ) ∧ (∀ v, x.Is v → v < 0 → y = 0x7FC00000 ∧ f = fIV) ∧
          (∀ n : ℤ, x.Is ((2 : ℝ) ^ n) → (Ty.f32.value y.toNat).Is n ∧ f = 0)) ∧
        (r.fn = 2 → (∀ n, x = .inf n → y = sign ∧ f = 0) ∧ (x.Is 0 → y = sign ||| 0x7F800000 ∧ f = fDZ) ∧
          (∀ v, x.Is v → v ≠ 0 → Ty.f32.Rounds .rne false (1 / v) y.toNat f)) ∧
        (r.fn = 3 → (x = .inf false → y = 0 ∧ f = 0) ∧ (x = .inf true → y = 0x7FC00000 ∧ f = fIV) ∧
          (x.Is 0 → y = sign ||| 0x7F800000 ∧ f = fDZ) ∧ (∀ v, x.Is v → v < 0 → y = 0x7FC00000 ∧ f = fIV) ∧
          (∀ v, x.Is v → 0 < v → Ty.f32.Rounds .rne false (1 / Real.sqrt v) y.toNat f))

/-- When a queued result lands, a next state follows in which each register it writes holds its value: x0, q0 and k0
stay, a vector takes the lanes its mask names and keeps the others as they are in this cycle, a y or w register is
written for the whole core, FLAGS gains the result's flags, and sets of FLAGS writes bits [6:0] ORed with the flags
that landed in this cycle and takes the cleared ones out of the reported set. A landed sets gives TEN, GEOM0, GEOM1,
MDROP, PSTATE, VBASE and the trap registers of both handlers their defined bits; a read-only or unassigned number
reads as before. The identity of a live handle makes its register pending. Registers it does not name, of this
thread and of every other, and every byte of memory read as before; the result, its registers' hold and its
lookahead window are gone. A result that has landed before changes nothing. (R92, R39, R94, R116, R118, R138, R139,
R159, R161, R91, R232, R368) -/
def Obligations.ResultLands : Prop :=
  ∀ (s : State) (w : Tid) (id : Nat),
    ((∀ l ∈ (s.thread w).landings, l.id ≠ id) → exec (.resultLands w id) s = .next s) ∧
    ∀ l, (s.thread w).landings.find? (fun l => l.id == id) = some l → (l.writes.map RegWrite.ref).Nodup →
      ∃ t, exec (.resultLands w id) s = .next t ∧
        (∀ r v, .s r v ∈ l.writes → t.rd w r = if r = 0 then 0 else v) ∧
        (∀ r v m, .v r v m ∈ l.writes → ∀ i : Fin 64, (t.rdV w r)[i] = if m.getLsbD i then v[i] else (s.rdV w r)[i]) ∧
        (∀ r b, .q r b ∈ l.writes → t.rdQ w r = if r = 0 then true else b) ∧
        (∀ r m, .k r m ∈ l.writes → t.rdK w r = if r = 0 then BitVec.allOnes 64 else m) ∧
        (∀ v, .sp 0x006 v ∈ l.writes →
          let now := if (s.thread w).flagsAt.1 = s.cyc then (s.thread w).flagsAt.2 else 0
          (t.thread w).flags = (v.extractLsb' 0 7 ||| now ||| l.flags) ∧
            (t.thread w).reported = ((s.thread w).reported &&& v.extractLsb' 0 7)) ∧
        ((∀ v, .sp 0x006 v ∉ l.writes) → (t.thread w).flags = ((s.thread w).flags ||| l.flags) ∧
          (t.thread w).reported = (s.thread w).reported) ∧
        (∀ v, .sp 0x007 v ∈ l.writes → (t.thread w).ten = v.extractLsb' 0 7) ∧
        (∀ v, .sp 0x009 v ∈ l.writes → (t.thread w).geom0 = v) ∧
        (∀ v, .sp 0x00A v ∈ l.writes → (t.thread w).geom1 = v.extractLsb' 0 48) ∧
        (∀ v, .sp 0x012 v ∈ l.writes → (t.thread w).mdrop = v.extractLsb' 0 32) ∧
        (∀ v, .sp 0x800 v ∈ l.writes → (t.thread w).epc = v) ∧
        (∀ v, .sp 0x801 v ∈ l.writes → (t.thread w).ecause = (v.extractLsb' 0 9).zeroExtend 64) ∧
        (∀ v, .sp 0x802 v ∈ l.writes → (t.thread w).eaddr = v) ∧
        (∀ v, .sp 0x803 v ∈ l.writes → (t.thread w).einfo = v) ∧
        (∀ v, .sp 0x804 v ∈ l.writes → (t.thread w).tvec = v) ∧
        (∀ v, .sp 0x805 v ∈ l.writes → (t.thread w).svec = v) ∧
        (∀ v, .sp 0x807 v ∈ l.writes → (t.thread w).vbase = v &&& 0x000FFFFFFFFF0000) ∧
        (∀ v, .sp 0x808 v ∈ l.writes → (t.thread w).jepc = v) ∧
        (∀ v, .sp 0x809 v ∈ l.writes → (t.thread w).jcause = (v.extractLsb' 0 8).zeroExtend 64) ∧
        (∀ v, .sp 0x80A v ∈ l.writes → (t.thread w).jaddr = v) ∧
        (∀ v, .sp 0x80B v ∈ l.writes → (t.thread w).jinfo = v) ∧
        (∀ n, (n ∈ [0x000, 0x001, 0x002, 0x003, 0x004, 0x005, 0x008, 0x00B, 0x00F, 0x010, 0x011] ∨ (0x012 < n ∧ n < 0x800) ∨ 0x80B < n) →
          t.spRead w n = s.spRead w n) ∧
        (∀ v, .sp 0x806 v ∈ l.writes → (t.thread w).pstate = v.extractLsb' 0 4) ∧
        (∀ u : Tid, u.job = w.job → u.lcn = w.lcn →
          (∀ r v, .s r v ∈ l.writes → 64 ≤ r.toNat → t.rd u r = v) ∧
          ∀ r v m, .v r v m ∈ l.writes → 16 ≤ r.toNat →
            ∀ i : Fin 64, (t.rdV u r)[i] = if m.getLsbD i then v[i] else (s.rdV u r)[i]) ∧
        (∀ v : Tid, ∀ r, (.s r ∉ l.writes.map RegWrite.ref ∨ (v ≠ w ∧ r.toNat < 64) ∨ ¬(v.job = w.job ∧ v.lcn = w.lcn)) → t.rd v r = s.rd v r) ∧
        (∀ v : Tid, ∀ r, (.v r ∉ l.writes.map RegWrite.ref ∨ (v ≠ w ∧ r.toNat < 16) ∨ ¬(v.job = w.job ∧ v.lcn = w.lcn)) → t.rdV v r = s.rdV v r) ∧
        (∀ v : Tid, ∀ q, (.q q ∉ l.writes.map RegWrite.ref ∨ v ≠ w) → t.rdQ v q = s.rdQ v q) ∧
        (∀ v : Tid, ∀ k, (.k k ∉ l.writes.map RegWrite.ref ∨ v ≠ w) → t.rdK v k = s.rdK v k) ∧
        (∀ n, .sp n ∉ l.writes.map RegWrite.ref → n ≠ 0x006 → t.spRead w n = s.spRead w n) ∧
        (∀ v : Tid, v ≠ w → t.thread v = s.thread v) ∧
        (t.thread w).pc = (s.thread w).pc ∧ ((∀ r v, .h r v ∉ l.writes) → (t.thread w).pend = (s.thread w).pend) ∧
        (∀ r v e, .h r v ∈ l.writes → r ≠ 0 → (s.thread w).handles.get? (v.toNat % 32) = some e → e.reg = r →
          e.seq = v.toNat / 2 ^ 32 % 65536 → t.rd w (r.zeroExtend 7) = v ∧ t.pending w r = true) ∧
        (∀ x ∈ (t.thread w).landings, x.id ≠ id) ∧ (∀ x ∈ (t.thread w).busy, x.1 ≠ id) ∧
        (∀ x ∈ (t.thread w).window, x.1 ≠ id) ∧
        t.pool = s.pool ∧ t.host = s.host ∧ t.pcores = s.pcores ∧ t.agenda = s.agenda ∧ t.cyc = s.cyc

/-- A router sends a packet along the row until the column is right and then along the column, an I/O die lying beyond
each end of a row, and the link is taken for the packet's beats. A hop takes 2 cycles, 8 more over a seam; on REQ
and RSP an express entry point begins a run past min(4, s) routers, where s counts the routers passed straight
before the turn, the destination or a seam, and a bypassed router takes 1 cycle; the last hop takes 2 more to eject
and its other beats. A packet whose link is taken, or before which others wait, waits its turn; an express packet
that meets the token or a taken link is buffered, and the eighth cycle in a row of bypassing others raises the
token. At its destination its step is due, or a request whose answer is awaited turns back as its response; at a
closed link it is dropped: an ordinary access traps as ADDR, a posted one faults as ADDR, a flit is dead. A code
line that comes from the cache, or whose last block comes from the pool, goes to every thread that waits for it, and
the block's permit returns. (R9, R18, R19, R20, R21, R22, R23, R108, R195, R222) -/
def Obligations.PacketsMove : Prop :=
  (∀ (s : State) (pid : Nat) (b : Bool) (p : Packet), s.packets.get? pid = some p →
    let rest : State := { s with packets := s.packets.del pid }
    let X (r : Nat) : Nat := if r < 1600 then r % 40 + 1 else if r < 1640 then 0 else 41
    let Y (r : Nat) : Nat := if r < 1600 then r / 40 else (r - 1600) % 40
    let row := decide (X p.at_ ≠ X p.dst)
    let u := if row then X p.at_ else Y p.at_
    let v := if row then X p.dst else Y p.dst
    let port := if row then (if u < v then 2 else 4) else if u < v then 1 else 3
    let queue := ((s.routers.getD p.at_ {}).queue.getD port [])
    let free := ∀ l, s.linkLast.get? (p.at_ * 8 + port) = some l → l < s.cyc
    let clear := ∀ i ∈ queue, ∀ q, s.packets.get? i = some q → ¬(q.chan = p.chan ∧ q.src = p.src ∧ q.dst = p.dst)
    let up := (s.routers.getD p.at_ {}).token.get? port = some s.cyc
    (p.at_ = p.dst → ∃ t, exec (.packetForward ⟨pid, b⟩) s = .next t ∧ (pid ≠ s.seq → t.packets.get? pid = none) ∧
      s.sameRegs t ∧ s.sameBytes t ∧
      (p.trip = true → t.packets.get? s.seq =
          some { p with chan := .rsp, src := p.dst, at_ := p.dst, dst := p.src, entry := true, run := 0, trip := false } ∧
        ⟨s.cyc + 2, .packetForward s.seq true⟩ ∈ t.agenda) ∧
      (p.trip = false →
        (∀ l id, p.payload = .accessResponse l id → t = rest.atCycle (max s.cyc p.floor) p.payload) ∧
        (∀ l id, p.payload = .remoteAccess l id → 1600 ≤ p.dst → t = rest.atCycle (max s.cyc p.floor) p.payload) ∧
        let side := if Y p.src < Y p.dst then 3 else if Y p.dst < Y p.src then 1
          else if X p.src < X p.dst then 4 else if X p.dst < X p.src then 2 else 0
        (∀ f, p.payload = .flitArrival f → t = rest.atCycle s.cyc (.flitArrival { f with port := side })) ∧
        ∀ f, p.payload = .recordFrameArrival f → t = rest.atCycle s.cyc (.recordFrameArrival { f with port := side }))) ∧
    (p.at_ < 1680 → p.dst < 1680 → (p.at_ < 1600 ∧ p.dst < 1600 ∨ Y p.at_ = Y p.dst) → p.at_ ≠ p.dst →
      (s.linkOpen p p.at_ port = false → ∃ t, exec (.packetForward ⟨pid, b⟩) s = .next t ∧ t.packets.get? pid = none ∧ s.sameBytes t ∧
        (∀ l i a, p.payload = .remoteAccess l i ∨ p.payload = .accessResponse l i → s.accs.get? l = some a →
          (a.posted = true → ∀ q, a.parts.get? i = some q → q.fault = none → q.performed = false →
            (∃ x', t.part? l i = some (x', { q with fault := some .addr })) ∧ ⟨s.cyc, .storeFaultRecord l i⟩ ∈ t.agenda) ∧
          (a.posted = false → t.accs.get? l = none ∧
            ((s.thread a.own).landings = [] → (s.thread a.own).pstate.getLsbD 1 = false → (s.thread a.own).pstate.getLsbD 2 = false → (s.thread a.own).tvec ≠ 0 →
              (t.thread a.own).jepc = a.pc ∧ (t.thread a.own).jcause = 0x10 ∧ t.pcOf a.own = (s.thread a.own).tvec))) ∧
        ∀ f, p.payload = .flitArrival f → ⟨s.cyc, .sendAck f true⟩ ∈ t.agenda) ∧
      (s.linkOpen p p.at_ port = true →
        let half := if row then 21 else 20
        let seam := if u < half ∧ half ≤ v then half - 1 - u else if half ≤ u ∧ v < half then u - half else 42
        let straight := min ((max u v - min u v) - 1) seam
        let run := if p.run > 0 then p.run - 1 else if (p.chan = .req ∨ p.chan = .rsp) ∧ p.entry = true then min 4 straight else 0
        let u' := if u < v then u + 1 else u - 1
        let at' := if row then (if u' = 0 then 1600 + Y p.at_ else if u' = 41 then 1640 + Y p.at_ else Y p.at_ * 40 + (u' - 1))
          else u' * 40 + p.at_ % 40
        let due := s.cyc + (if run > 0 then 1 else 2 + if (u < half) = (u' < half) then 0 else 8) +
          if at' = p.dst then 2 + (p.beats - 1) else 0
        (free → (b = true ∧ (queue = [] ∨ queue.head? = some pid) ∨ b = false ∧ ¬up ∧ clear) →
          ∃ t, exec (.packetForward ⟨pid, b⟩) s = .next t ∧
            t.packets.get? pid = some { p with at_ := at', run := run, entry := decide (run = 0 ∧ p.run > 0 ∧ u' ≠ v) } ∧
            ⟨due, .packetForward pid (decide (run = 0))⟩ ∈ t.agenda ∧
            t.linkLast.get? (p.at_ * 8 + port) = some (s.cyc + p.beats - 1) ∧
            ((t.routers.getD p.at_ {}).queue.getD port []) = (if b then queue.tail else queue) ∧ s.sameRegs t ∧ s.sameBytes t) ∧
        (b = false → ¬free ∨ up → ∃ t, exec (.packetForward ⟨pid, b⟩) s = .next t ∧
          t.packets.get? pid = some { p with run := 0, entry := true } ∧ ((t.routers.getD p.at_ {}).queue.getD port []) = queue ++ [pid] ∧
          ⟨s.cyc + 1, .packetForward pid true⟩ ∈ t.agenda ∧ s.sameRegs t ∧ s.sameBytes t) ∧
        (b = true → pid ∈ queue → ¬free ∨ queue.head? ≠ some pid → ∃ t, exec (.packetForward ⟨pid, b⟩) s = .next t ∧
          t.packets.get? pid = some p ∧ ((t.routers.getD p.at_ {}).queue.getD port []) = queue ∧
          ⟨s.cyc + 1, .packetForward pid true⟩ ∈ t.agenda ∧ s.sameRegs t ∧ s.sameBytes t) ∧
        (b = false → free → ¬up → queue ≠ [] → clear → ∀ n,
          (s.routers.getD p.at_ {}).bypass.get? port = some (n, s.cyc - 1) → 0 < s.cyc → 8 ≤ n + p.beats →
          ∃ t, exec (.packetForward ⟨pid, b⟩) s = .next t ∧ ⟨s.cyc + p.beats, .starvationToken p.at_ port⟩ ∈ t.agenda)))) ∧
  (∀ (s : State) (r o : Nat), ∃ t, exec (.starvationToken r o) s = .next t ∧ (t.routers.getD r {}).token.get? o = some s.cyc ∧
    (t.routers.getD r {}).bypass.get? o = none ∧ (t.routers.getD r {}).tenant = (s.routers.getD r {}).tenant ∧
    (t.routers.getD r {}).member = (s.routers.getD r {}).member ∧ (t.routers.getD r {}).queue = (s.routers.getD r {}).queue ∧
    (∀ q, q ≠ r → t.routers.getD q {} = s.routers.getD q {}) ∧ { t with routers := s.routers } = s) ∧
  ∀ (s : State) (pcl : Nat) (line : Word) (sl : Option Nat) (t0 : Nat) (w0 : Tid),
    (s.pclu pcl).fetch.find? (fun x => x.2.1 == line) = some (t0, line, w0) →
    let pc := s.phys w0.job w0.lcn
    let gives (t : State) (l : CodeLine) : Prop :=
      (∀ x ∈ (t.pclu pcl).fetch, x.2.1 ≠ line) ∧ ∀ c w, (c, line, w) ∈ (s.pclu pcl).fetch → (t.thread w).line? line = some l
    (∀ b, sl = none → (s.pclu pcl).cache.get? line.toNat = some b → ∃ t, exec (.lineDelivery pcl ⟨line, sl⟩) s = .next t ∧
      gives t ⟨line, b, 0, 48⟩ ∧ s.sameRegs t ∧ s.sameBytes t) ∧
    ∀ x r, sl = some x → (s.pclu pcl).reads.get? line.toNat = some r → (∀ y ∈ (s.pcore r.pc).permitQ, y.1 ≠ x) →
      ∃ t, exec (.lineDelivery pcl ⟨line, sl⟩) s = .next t ∧ s.sameRegs t ∧ s.sameBytes t ∧
        (t.pcore r.pc).permits.getD x 0 = (s.pcore r.pc).permits.getD x 0 - 1 ∧
        (1 < r.left → (t.pclu pcl).fetch = (s.pclu pcl).fetch ∧
          (t.pclu pcl).reads.get? line.toNat = some { r with left := r.left - 1 }) ∧
        (r.left ≤ 1 → (s.pclu pcl).cache.get? line.toNat = none → ∃ l, gives t l ∧ l.addr = line ∧
          (∀ i a, i < 48 → s.codePa pc w0.job (line.toNat + i) = some a → l.bytes.extractLsb' (8 * i) 8 = s.poolByte a) ∧
          (l.full = true → (t.pclu pcl).cache.get? line.toNat = some l.bytes))

/-- For every state, thread and address: space 0x0 with its zero fields is the pool; 0x8 is the scratch of core (x, y)
of the region, 0x9 that of (own x + dx, own y + dy), 0xA that of a member of the own cluster, each below the
footprint F; anything else, and space 0xF without privilege, is no place. An access to no place, or of a scratch-
only form to the pool, gives ADDR; one not aligned to its size gives ALIGN; a scratch access that the routers let
through passes with its byte; a pool access passes to the frame and slice of a page that allows it, and gives PROT
where R, W or both are missing and ATOM where AT is. With privilege space 0xF names a physical pool address, a
listed core register, raw scratch, or a listed place of a cluster unit, and nothing else; a physical address in no
window gives PROT. Of the elements of a vector access the first in order whose check does not pass is the one
reported; where all pass, each is in a part with its home, its slice and its unit. (R179, R180, R181, R186, R194,
R197, R192, R25, R379) -/
def Obligations.AddressChecks : Prop :=
  ∀ (s : State) (w : Tid) (a : Word),
    let b := s.job w.job
    let field (lo n : Nat) : Nat := a.toNat / 2 ^ lo % 2 ^ n
    let signed (v : Nat) : ℤ := if v < 32 then v else (v : ℤ) - 64
    let off := field 0 21
    let inF (l : Nat) : Option Place := if off < b.foot then some (.scratch l off) else none
    let grid (x y : ℤ) : Option Place :=
      if 0 ≤ x ∧ x < b.w ∧ 0 ≤ y ∧ y < b.h then inF (y.toNat * b.w + x.toNat) else none
    let x := w.lcn % b.w
    let y := w.lcn / b.w
    (field 60 4 = 0x0 → s.place w a = if field 48 12 = 0 then some (.pool (field 0 48)) else none) ∧
    (field 60 4 = 0x8 → s.place w a =
      if field 58 2 = 0 ∧ field 21 25 = 0 then grid (field 52 6) (field 46 6) else none) ∧
    (field 60 4 = 0x9 → s.place w a =
      if field 58 2 = 0 ∧ field 21 25 = 0 then grid (x + signed (field 52 6)) (y + signed (field 46 6)) else none) ∧
    (field 60 4 = 0xA → 0 < b.w → b.w % 4 = 0 → s.place w a =
      if field 24 36 = 0 then inF ((y / 2 * 2 + field 21 3 / 4) * b.w + (x / 4 * 4 + field 21 3 % 4)) else none) ∧
    (field 60 4 = 0xF → (s.thread w).pstate.getLsbD 0 = false → s.place w a = none) ∧
    (field 60 4 = 0xF → (s.thread w).pstate.getLsbD 0 = true →
      (field 56 4 = 0 → s.place w a = if field 52 4 = 0 then some (.phys (field 0 52)) else none) ∧
      (field 56 4 = 1 → s.place w a =
        if field 12 28 = 0 ∧ field 40 16 < 1600 ∧ field 0 12 / 8 ∈ [0, 1, 2, 3, 4, 5, 6, 7] then some (.reg (field 40 16) (field 0 12)) else none) ∧
      (field 56 4 = 2 → s.place w a = if field 21 19 = 0 ∧ field 40 16 < 1600 then some (.raw (field 40 16) (field 0 21)) else none) ∧
      (field 56 4 = 3 → s.place w a =
        if field 48 8 = 0 ∧ field 16 24 = 0 ∧ field 40 8 < 200 ∧ (field 0 16 < 0x400 ∨ (0x1000 ≤ field 0 16 ∧ field 0 16 < 0x1800)) then
          some (.unit (field 40 8) (field 0 16)) else none) ∧
      (4 ≤ field 56 4 → s.place w a = none)) ∧
    (field 60 4 ∉ [0x0, 0x8, 0x9, 0xA, 0xF] → s.place w a = none) ∧
    ∀ (k : AccKind) (scr posted : Bool) (size i : Nat) (v c : Word), size ∈ [1, 2, 4, 8] →
      let gives (r : Checked) : Prop := s.checkAll w k scr posted size [] [{ idx := i, va := a, val := v, cmp := c }] = r
      let pass (h : Home) (key sl pos : Nat) : Prop :=
        gives (.parts [(key, { home := h, slice := sl, elems := [{ idx := i, va := a, at_ := pos, val := v, cmp := c }] })])
      (s.place w a = none → gives (.stop (.trap .addr) a)) ∧
      (∀ va, s.place w a = some (.pool va) → (scr = true → gives (.stop (.trap .addr) a)) ∧
        (scr = false → a.toNat % size ≠ 0 → gives (.stop (.trap .align) a)) ∧
        (scr = false → a.toNat % size = 0 → posted = true → pass .pool (va / 256) 0 va) ∧
        (scr = false → a.toNat % size = 0 → posted = false → ∀ t sl, s.cached (s.phys w.job w.lcn) w.job va = some t →
          s.dev.slice (t.frame + va % t.size) = some sl →
          let r := t.perm.getLsbD 0
          let wr := t.perm.getLsbD 1
          let at' := t.perm.getLsbD 3
          let allowed := if k.atomic = true then r && wr && at' else if k.writes = true then wr else r
          let e : Elem := { idx := i, va := a, at_ := t.frame + va % t.size, val := v, cmp := c }
          (allowed = true → gives (if s.reachesSlice w sl = true then .parts [(va / 256, { home := .pool, slice := sl, elems := [e] })]
            else .stop (.trap .addr) a)) ∧
          (allowed = false → gives (.stop (.trap (if k.atomic = true ∧ r = true ∧ wr = true then .atom else .prot)) a)))) ∧
      (∀ pa, s.place w a = some (.phys pa) → scr = false → a.toNat % size = 0 →
        (∀ sl, s.dev.slice pa = some sl → pass .pool (pa / 256) sl pa) ∧ (s.dev.slice pa = none → gives (.stop (.trap .prot) a))) ∧
      (∀ x, s.place w a = some x → scr = true → (∀ l o, x ≠ .scratch l o) → gives (.stop (.trap .addr) a)) ∧
      (scr = false → a.toNat % size = 0 → (∀ pc o, s.place w a = some (.raw pc o) → pass (.raw pc) (o / 32) 0 o) ∧
        (∀ pc o, s.place w a = some (.reg pc o) → pass (.coreReg pc) o 0 o) ∧
        ∀ pcl o, s.place w a = some (.unit pcl o) → pass (.unit pcl) o 0 o) ∧
      (∀ l o, s.place w a = some (.scratch l o) →
        (posted = false → s.reaches w (.scratch l o) = false → gives (.stop (.trap .addr) a)) ∧
        (posted = true ∨ s.reaches w (.scratch l o) = true →
          (a.toNat % size ≠ 0 → gives (.stop (.trap .align) a)) ∧
          (a.toNat % size = 0 →
            pass (.scratch l) (o / match k with | .fe _ => 8 | .guard _ => 64 | _ => 32) 0 o))) ∧
      let all (es : List ElemReq) : Checked := s.checkAll w k scr posted size [] es
      (∀ pre e post x va, (∀ y ∈ pre, ∃ ps, all [y] = .parts ps) → all [e] = .stop x va →
        va = e.va ∧ all (pre ++ e :: post) = .stop x e.va) ∧
      ∀ es : List ElemReq, (∀ e ∈ es, ∃ ps, all [e] = .parts ps) → ∃ ps, all es = .parts ps ∧
        ∀ e ∈ es, ∀ n q, all [e] = .parts [(n, q)] → ∃ y ∈ ps, y.1 = n ∧ y.2.home = q.home ∧ y.2.slice = q.slice ∧ ∀ z ∈ q.elems, z ∈ y.2.elems

/-- For every state, guard that holds and operands, each access instruction of classes 0x6 and 0x7 names the elements of
R184 with the data of its operands. Where their checks pass, it answers a next state in which the access is under
way and the thread has passed on; where all of it lies in the own scratch, the parts are on their way to their banks
(a single one to an idle bank in 4 cycles), an ordinary access holds back the thread's next one, its destination is
outstanding, and every register and byte of memory reads as before. Where a check fails it takes the trap at its own
address with EADDR the element's; a 17th relaxed access parks. (R184, R185, R186, R187, R188, R189, R192, R193,
R186, R42) -/
def Obligations.AccessesBegin : Prop :=
  ∀ (s : State) (g : Gd) (la : BitVec 4) (rx : Bool) (t : Ty) (cnt : BitVec 8) (sh : BitVec 3) (op : AmoOp) (fop : FOp) (rm : Rm)
    (d a b : SReg) (v u : VReg) (ix : Idx) (imm : BitVec 32), s.guardOn s.cur g = true → cnt.toNat ≤ 64 →
    let w := s.cur
    let base := s.rd w a + imm.signExtend 64
    let ea := match ix with | .none => base | .reg r n => s.rd w a + (s.rd w r <<< n.toNat) + imm.signExtend 64
    let lanes (f : Nat → Word) (x : Nat → Word) : List ElemReq := (List.range cnt.toNat).map fun e => { idx := e, va := f e, val := x e }
    let of (e : Nat) : Word := if h : e < 64 then (s.rdV w v)[e].zeroExtend 64 else 0
    let seq (e : Nat) : Word := ea + BitVec.ofNat 64 (e * t.bytes)
    let strided (e : Nat) : Word := base + BitVec.ofNat 64 e * s.rd w b
    let indexed (e : Nat) : Word := base + ((if h : e < 64 then (s.rdV w u)[e].zeroExtend 64 else 0) <<< sh.toNat)
    let ld : AccSpec := { kind := .load, t := t, size := t.bytes, lat := 12, dst := some (.s d), la := some la }
    let st : AccSpec := { kind := .store, t := t, size := t.bytes, lat := 12 }
    let vl : AccSpec := { kind := .load, t := t, size := t.bytes, lat := 16, vec := true, rx := rx, dst := some (.v v), la := some la }
    let vs : AccSpec := { kind := .store, t := t, size := t.bytes, lat := 12, vec := true, rx := rx, posted := rx }
    let at' (k : AccKind) : AccSpec := { kind := k, t := t, size := t.bytes, lat := 16, rx := rx, dst := some (.s d), la := some la }
    let up (k : AccKind) : AccSpec := { kind := k, t := t, size := t.bytes, lat := 16, rx := rx, posted := rx }
    let does (i : Instr) (x : AccSpec) (es : List ElemReq) : Prop :=
      (x.rx = true → 16 ≤ (s.thread w).relaxed.length → exec i s = .next (s.park w .relaxed 0 false .reissue)) ∧
      ((x.rx = true → (s.thread w).relaxed.length < 16) →
        (∀ c va, s.checkAll w x.kind x.scrOnly x.posted x.size [] es = .stop (.trap c) va →
          exec i s = .next (s.trapAt w c (s.pcOf w) va 0)) ∧
        ∀ ps, s.checkAll w x.kind x.scrOnly x.posted x.size [] es = .parts ps → ∃ n,
          exec i s = .next n ∧ n = (s.beginAccess w x ps).advance w ∧
          ((∀ p ∈ ps, p.2.home = .scratch w.lcn) → ∀ pc, s.phys? w.job w.lcn = some pc →
            n.accs.get? s.seq = some
              { id := s.seq, own := w, pc := s.pcOf w, kind := x.kind, t := x.t, size := x.size, vec := x.vec, rx := x.rx,
                lat := x.lat, posted := x.posted, dst := x.dst, fseq := (s.thread w).fseq, parts := ps.mapIdx fun i p => (i, p.2) } ∧
            n.pcOf w = s.pcOf w + 12 ∧ (x.rx = false → (n.thread w).ordAcc = some s.seq) ∧
            (∀ r, x.dst = some r → r ≠ .s 0 → (s.seq, r) ∈ (n.thread w).busy) ∧
            (∀ i, i < ps.length → (∀ p ∈ ps, p.2.elems ≠ []) → ∃ c, s.cyc + 4 ≤ c ∧ ⟨c, .remoteAccess s.seq i⟩ ∈ n.agenda) ∧
            (∀ (k : Nat) (q : Part) (e : Elem), ps = [(k, q)] → q.elems = [e] →
              (s.pcore pc).bank.get? ((s.seg w.job w.lcn + e.at_) / 32 % 16) = none →
              ⟨s.cyc + 4, .remoteAccess s.seq 0⟩ ∈ n.agenda) ∧
            s.sameRegs n ∧ s.sameBytes n))
    does (.ld g la rx t d a ix imm) { ld with rx := rx } [{ idx := 0, va := ea }] ∧
    does (.st g rx t d a ix imm) { st with rx := rx, posted := rx } [{ idx := 0, va := ea, val := s.rd w d }] ∧
    does (.ldf g la t d a ix imm) { ld with kind := .take, scrOnly := true } [{ idx := 0, va := ea }] ∧
    does (.ldp g la t d a ix imm) { ld with kind := .peek, scrOnly := true } [{ idx := 0, va := ea }] ∧
    does (.ste g t d a ix imm) { st with kind := .put, scrOnly := true } [{ idx := 0, va := ea, val := s.rd w d }] ∧
    does (.stf g rx t d a ix imm) { st with kind := .putFull, scrOnly := true, rx := rx, posted := rx }
      [{ idx := 0, va := ea, val := s.rd w d }] ∧
    does (.vld g la rx t cnt v a ix imm) vl (lanes seq fun _ => 0) ∧
    does (.vst g rx t cnt v a ix imm) vs (lanes seq of) ∧
    does (.vlds g la rx t cnt v a b imm) vl (lanes strided fun _ => 0) ∧
    does (.vsts g rx t cnt v a b imm) vs (lanes strided of) ∧
    does (.vldx g la rx t sh cnt v a u imm) { vl with scrOnly := true } (lanes indexed fun _ => 0) ∧
    does (.vstx g rx t sh cnt v a u imm) { vs with scrOnly := true } (lanes indexed of) ∧
    does (.amo g la rx t op d a b imm) (at' (.amo op)) [{ idx := 0, va := base, val := s.rd w b }] ∧
    does (.cas g la rx t d a b imm) (at' .cas) [{ idx := 0, va := base, val := s.rd w b, cmp := s.rd w d }] ∧
    does (.famo g la rx t rm fop d a b imm) (at' (.famo fop rm)) [{ idx := 0, va := base, val := s.rd w b }] ∧
    does (.rupd g rx t op a b imm) (up (.amo op)) [{ idx := 0, va := base, val := s.rd w b }] ∧
    does (.frupd g rx t rm fop a b imm) (up (.famo fop rm)) [{ idx := 0, va := base, val := s.rd w b }]

/-- When an access of one element is performed at its home, unblocked, its result is the old value; a store or put
writes its data, an atomic the value of R192 (a failing cas nothing), a take empties and a put fills the word, fe
and guard set their bit, mon arms the line. The bytes written are exactly the element's, at SEG + offset in the
owning core's scratch or at its address in the pool; every other byte of every memory and every other FE bit reads
as before. In a guard granule it reads 0, writes nothing and counts a hit; an uncorrectable word reads 0 and marks
SB. A take or peek of an empty word, or a put to a full one, joins the word's list, or is tried again 64 cycles
later with 32 remote entries taken, and its thread parks. A load or store of several elements does so with each, in
order. A part that an earlier access or an engine's source holds back is tried in the next cycle, one whose core is
vacated 64 cycles later. A word or granule of a range passes on to the next, and the last answers. (R183, R185,
R188, R189, R190, R191, R192, R202, R203, R209, R256, R182) -/
def Obligations.AccessesPerform : Prop :=
  (∀ (s : State) (i : Instr) (aid p : Nat) (a : Access) (q : Part), (i = .remoteAccess aid p ∨ i = .feRetry aid p) →
    s.part? aid p = some (a, q) → q.performed = false → q.fault = none →
    (s.blocked a q = true → exec i s = .next (s.later 1 (.remoteAccess aid p))) ∧
    ∀ l, s.blocked a q = false → q.home = .scratch l → s.serves a.own.job a.own.lcn l = false →
      exec i s = .next (s.later 64 (.remoteAccess aid p))) ∧
  (∀ (s : State) (i : Instr) (aid p : Nat) (a : Access) (q : Part), (i = .remoteAccess aid p ∨ i = .feRetry aid p) → s.canonical →
    s.part? aid p = some (a, q) → a.id = aid → q.performed = false → q.fault = none → s.blocked a q = false →
    a.size ∈ [1, 2, 4, 8] → (∀ e ∈ q.elems, e.at_ % a.size = 0) → (q.elems.map fun e => e.idx).Nodup →
    let put (base b : Nat) (was : Byte) : Byte := q.elems.foldl (fun x e =>
      if base + e.at_ ≤ b ∧ b < base + e.at_ + a.size then BitVec.ofNat 8 (e.val.toNat / 256 ^ (b - (base + e.at_))) else x) was
    (∀ l pc, q.home = .scratch l → s.phys? a.own.job l = some pc → s.serves a.own.job a.own.lcn l = true →
      let base := s.seg a.own.job l
      base % 64 = 0 → (∀ e ∈ q.elems, (s.pcore pc).ecc.get? ((base + e.at_) / 8) = none ∧ s.closed a.own.job l e.at_ a.size = false) →
      (a.kind = .load → ∃ t a' q', exec i s = .next t ∧ t.part? aid p = some (a', q') ∧ q'.performed = true ∧ s.sameBytes t ∧
        q'.elems = q.elems.map fun e => { e with res := BitVec.ofNat 64 ((s.pcore pc).mem.readNat (base + e.at_) a.size) }) ∧
      (a.kind = .store → ∃ t a' q', exec i s = .next t ∧ t.part? aid p = some (a', q') ∧ q'.performed = true ∧
        t.pool = s.pool ∧ t.host = s.host ∧ ∀ pc' b, (t.pcore pc').mem.read b =
          if pc' = pc then put base b ((s.pcore pc).mem.read b) else (s.pcore pc').mem.read b)) ∧
    (q.home = .pool →
      (a.kind = .load → ∃ t a' q', exec i s = .next t ∧ t.part? aid p = some (a', q') ∧ q'.performed = true ∧ s.sameBytes t ∧
        q'.elems = q.elems.map fun e => { e with res := BitVec.ofNat 64 (s.poolNat e.at_ a.size) }) ∧
      (a.kind = .store → ∃ t a' q', exec i s = .next t ∧ t.part? aid p = some (a', q') ∧ q'.performed = true ∧ t.host = s.host ∧
        (∀ pc' b, (t.pcore pc').mem.read b = (s.pcore pc').mem.read b) ∧ ∀ b, t.poolByte b = put 0 b (s.poolByte b)))) ∧
  ∀ (s : State) (i : Instr) (aid p : Nat) (a : Access) (q : Part) (e : Elem),
    (i = .remoteAccess aid p ∨ i = .feRetry aid p) → s.canonical → s.part? aid p = some (a, q) → a.id = aid → q.elems = [e] →
    (∀ l, q.home = .scratch l → s.serves a.own.job a.own.lcn l = true ∧ s.seg a.own.job l % 64 = 0) →
    q.performed = false → q.fault = none → s.blocked a q = false → a.size ∈ [1, 2, 4, 8] → (∀ o, a.kind = .amo o → a.t.width = 8 * a.size) →
    e.at_ % a.size = 0 →
    let v := e.val.toNat % 2 ^ (8 * a.size)
    let val (x : Nat) : ℤ := (BitVec.ofNat (8 * a.size) x).toInt
    let new (old : Nat) : Option Nat :=
      match a.kind with
      | .store | .put | .putFull => some v
      | .amo .add => some (old + v) | .amo .and => some (old &&& v) | .amo .or => some (old ||| v) | .amo .xor => some (old ^^^ v)
      | .amo .min => some (if val old ≤ val v then old else v) | .amo .max => some (if val old ≤ val v then v else old)
      | .amo .minu => some (min old v) | .amo .maxu => some (max old v) | .amo .swap => some v
      | .cas => if old = e.cmp.toNat % 2 ^ (8 * a.size) then some v else none
      | .famo .add rm => some (fAdd a.t rm old v).1
      | .famo .min _ => some (fMinMax a.t false old v).1 | .famo .max _ => some (fMinMax a.t true old v).1
      | _ => none
    let flags (old : Nat) : FlagBits :=
      match a.kind with
      | .famo .add rm => (fAdd a.t rm old v).2
      | .famo .min _ => (fMinMax a.t false old v).2 | .famo .max _ => (fMinMax a.t true old v).2 | _ => 0
    let after (old : Nat) (from_ b : Nat) (was : Byte) : Byte :=
      match new old with
      | some n => if from_ ≤ b ∧ b < from_ + a.size then BitVec.ofNat 8 (n / 256 ^ (b - from_)) else was
      | none => was
    let reads : Prop := match a.kind with | .load | .take | .peek | .amo _ | .cas | .famo _ _ => True | _ => False
    (∀ l pc, q.home = .scratch l → s.phys? a.own.job l = some pc → (s.pcore pc).ecc.get? ((s.seg a.own.job l + e.at_) / 8) = none →
      let j := a.own.job
      let addr := s.seg j l + e.at_
      let c := s.pcore pc
      let old := c.mem.readNat addr a.size
      let waits := match a.kind with | .take | .peek => !c.full addr | .put => c.full addr | _ => false
      let open_ := match a.kind with
        | .guard _ => s.locked j l (e.at_ / 64 * 64) 64 = false
        | _ => s.closed j l (e.at_ / 8 * 8) 8 = false
      let more := (match a.kind with | .fe _ | .guard _ => true | _ => false) && decide (p + 1 < a.parts.length)
      (open_ → waits = false →
        (∀ x ∈ (s.core j l).feQ, x.word ∉ a.kind.words e) →
        ∃ t a' q', exec i s = .next t ∧ t.part? aid p = some (a', q') ∧ q'.performed = true ∧
          (reads → q'.elems = [{ e with res := BitVec.ofNat 64 old }]) ∧ q'.flags = (q.flags ||| flags old) ∧ q'.hits = q.hits ∧
          (∀ pc' b, (t.pcore pc').mem.read b = if pc' = pc then after old addr b (c.mem.read b) else (s.pcore pc').mem.read b) ∧
          (∀ pc' k, (t.pcore pc').fe.getD k false =
            if pc' = pc ∧ k = addr / 8 then
              (match a.kind with | .take => false | .put | .putFull => true | .fe f => f | _ => c.full addr)
            else (s.pcore pc').fe.getD k false) ∧
          (∀ pc' k, (t.pcore pc').guard.getD k false =
            if pc' = pc ∧ k = addr / 64 then (match a.kind with | .guard m => m | _ => false) else (s.pcore pc').guard.getD k false) ∧
          (∀ n, a.kind = .mon n →
            (t.thread a.own).mons.get? n = some { armed := true, lcn := l, line := e.at_ / 64, trig := false }) ∧
          t.pool = s.pool ∧ t.host = s.host ∧ t.poolBuf = s.poolBuf ∧
          (more = false → s.phys? j a.own.lcn = some pc → ⟨s.cyc + (a.lat - 4), .accessResponse aid p⟩ ∈ t.agenda) ∧
          (more = true → ∀ r, (s.accs.getD aid a).parts.get? (p + 1) = some r → r.home = .scratch l → r.elems ≠ [] → q'.returned = true ∧
            ∃ r' c, t.part? aid (p + 1) = some (a', { r with hits := q'.hits, hitVa := r' }) ∧ s.cyc < c ∧
              ⟨c, .remoteAccess aid (p + 1)⟩ ∈ t.agenda)) ∧
      (open_ → waits = true →
        let remote := decide (a.own.lcn ≠ l)
        let many := decide (32 ≤ ((s.core j l).feQ.filter fun x => x.remote).length)
        let u := if remote && many then s.later 64 (.feRetry aid p)
          else s.modCore j l fun c => { c with feQ := c.feQ ++ [⟨e.at_ / 8, aid, p, remote⟩] }
        exec i s = .next (if (s.thread a.own).st = .running then u.park a.own .fe (BitVec.ofNat 64 (e.va.toNat / 8 * 8)) false (.access aid)
          else u)) ∧
      (c.guarded addr = true → (∀ m, a.kind ≠ .guard m) → (∀ n, a.kind ≠ .mon n) → (∀ x ∈ (s.core j l).feQ, x.word ∉ a.kind.words e) →
        ∃ t a' q', exec i s = .next t ∧ t.part? aid p = some (a', q') ∧ q'.performed = true ∧ q'.hits = q.hits + 1 ∧
          (q.hits = 0 → q'.hitVa = e.va) ∧ (reads → q'.elems = [{ e with res := 0 }]) ∧ s.sameBytes t ∧
          ∀ pc' k, (t.pcore pc').fe.getD k false = (s.pcore pc').fe.getD k false)) ∧
    (∀ l pc, q.home = .scratch l → s.phys? a.own.job l = some pc → a.kind = .load →
      (s.pcore pc).ecc.get? ((s.seg a.own.job l + e.at_) / 8) = some .double →
      (s.pcore pc).guarded (s.seg a.own.job l + e.at_) = false →
      ∃ t a' q', exec i s = .next t ∧ t.part? aid p = some (a', q') ∧ q'.performed = true ∧ q'.subst = true ∧
        q'.elems = [{ e with res := 0 }] ∧ s.sameBytes t) ∧
    (∀ l pc, q.home = .scratch l → s.phys? a.own.job l = some pc → a.kind = .load →
      (s.pcore pc).ecc.get? ((s.seg a.own.job l + e.at_) / 8) = some .single →
      (s.pcore pc).guarded (s.seg a.own.job l + e.at_) = false →
      ∃ t a' q', exec i s = .next t ∧ t.part? aid p = some (a', q') ∧ q'.performed = true ∧ q'.subst = q.subst ∧
        q'.elems = [{ e with res := BitVec.ofNat 64 ((s.pcore pc).mem.readNat (s.seg a.own.job l + e.at_) a.size) }] ∧
        (t.pcore pc).cecnt = (s.pcore pc).cecnt + 1 ∧ s.sameBytes t) ∧
    (q.home = .pool → (a.kind = .load ∨ a.kind = .store ∨ a.kind.atomic = true) →
      let old := s.poolNat e.at_ a.size
      ∃ t a' q', exec i s = .next t ∧ t.part? aid p = some (a', q') ∧ q'.performed = true ∧
        (reads → q'.elems = [{ e with res := BitVec.ofNat 64 old }]) ∧ q'.flags = (q.flags ||| flags old) ∧
        (∀ b, t.poolByte b = after old e.at_ b (s.poolByte b)) ∧
        (a.posted = false → ∀ n b, new old = some n → e.at_ ≤ b → b < e.at_ + a.size → t.pool.read b = BitVec.ofNat 8 (n / 256 ^ (b - e.at_))) ∧
        (∀ pc b, (t.pcore pc).mem.read b = (s.pcore pc).mem.read b) ∧ t.host = s.host ∧
        ∃ id k d, t.packets.get? id = some k ∧ ⟨s.cyc + 2, .packetForward id true⟩ ∈ t.agenda ∧ k.payload = .accessResponse aid p ∧
          k.chan = .rsp ∧ k.dst = s.phys a.own.job a.own.lcn ∧
          k.at_ = (if q.slice < 12 then 1600 else 1640) + s.phys a.own.job a.own.lcn / 40 ∧
          k.floor = s.cyc + a.lat + Config.fabricDelay d)

/-- The response of an access's only part removes the access: a load or atomic lands its value, extended, or its lanes,
in this cycle with its flags and SB for substituted data, an update's flags are set; the next access may begin in
the cycle after; a guard hit marks the thread, a thread parked on the FE word runs, a pool request's permit returns;
no byte changes. The fault of a posted part enters the 4-entry store-fault queue, and stays outstanding while that
is full. The end of a thread's own walk caches the leaf, a page of R198, and lets the thread issue again; a failed
walk places a record, of XLAT or of PROT for a table outside the windows, and the thread waits parked for the
service. The walk of an xlat lands its result 12 cycles on: the leaf's report, or the level that failed. (R187,
R188, R195, R197, R198, R199, R202, R204, R182, R190, R376) -/
def Obligations.AccessesReturn : Prop :=
  (∀ (s : State) (aid p : Nat) (a : Access) (q : Part), s.canonical → s.accs.get? aid = some a → a.parts = [(p, q)] →
    q.returned = false → a.id = aid →
    let w := a.own
    let fl : FlagBits := q.flags ||| if q.subst then fSB else 0
    ∃ t, exec (.accessResponse aid p) s = .next t ∧ t.accs.get? aid = none ∧
      (∀ x ∈ (t.thread w).busy, (x ∈ (s.thread w).busy ∧ x.1 ≠ aid) ∨ s.seq ≤ x.1) ∧
      s.sameRegs t ∧ (∀ pc b, (t.pcore pc).mem.read b = (s.pcore pc).mem.read b) ∧ t.host = s.host ∧
      (∀ b, t.poolByte b = s.poolByte b) ∧ (q.home ≠ .pool → t.pool = s.pool) ∧
      ((s.thread w).ordAcc = some aid → (t.thread w).ordAcc = none ∧ (t.thread w).accAt = s.cyc + 1) ∧
      (t.thread w).ghits = (s.thread w).ghits + q.hits ∧
      (0 < q.hits → (t.thread w).gaddr = if (s.thread w).ghits = 0 then q.hitVa else (s.thread w).gaddr) ∧
      (∀ r e, a.dst = some (.s r) → q.elems = [e] → q.home ≠ .pool → ⟨s.seq, s.cyc,
          [.s r (if a.t.isInt = true then BitVec.ofInt 64 (a.t.reads e.res.toNat) else BitVec.ofNat 64 (e.res.toNat % 2 ^ a.t.width))], fl⟩
          ∈ (t.thread w).landings ∧ ⟨s.cyc, .resultLands w s.seq⟩ ∈ t.agenda) ∧
      (∀ r, a.dst = some (.v r) → a.t.isInt = true → (q.elems.map fun e => e.idx).Nodup → (∀ e ∈ q.elems, e.idx < 64) →
        ∃ id out m, ⟨id, s.cyc, [.v r out m], fl⟩ ∈ (t.thread w).landings ∧
          (∀ e ∈ q.elems, ∀ h : e.idx < 64, m.getLsbD e.idx = true ∧ out[e.idx] = BitVec.ofInt 32 (a.t.reads e.res.toNat)) ∧
          ∀ i, m.getLsbD i = true → ∃ e ∈ q.elems, e.idx = i) ∧
      (a.dst = none → (t.thread w).flags = ((s.thread w).flags ||| fl)) ∧
      (∀ x, (s.thread w).st = .parked → (s.thread w).wait = some x → x.kind = .fe → x.cont = .access aid → (t.thread w).st = .running) ∧
      (q.home = .pool → (∀ x ∈ (s.pcore (s.phys w.job w.lcn)).permitQ, x.1 ≠ q.slice) →
        (t.pcore (s.phys w.job w.lcn)).permits.getD q.slice 0 = (s.pcore (s.phys w.job w.lcn)).permits.getD q.slice 0 - 1)) ∧
  (∀ (s : State) (aid p : Nat) (a : Access) (q : Part) (e : Elem) (c : Cause), s.accs.get? aid = some a → a.parts = [(p, q)] →
    a.id = aid → q.returned = false → q.performed = false → q.fault = some c → q.elems = [e] → a.vec = false →
    let f := (s.thread a.own).sfq
    (f.length < 4 → ∃ t, exec (.storeFaultRecord aid p) s = .next t ∧ t.accs.get? aid = none ∧ (t.thread a.own).sfq = f ++
        [{ faddr := e.va, fpc := a.pc, fcause := c, felem := 0, fseq := a.fseq, fdata := BitVec.ofNat 64 (e.val.toNat % 2 ^ (8 * a.size)) }] ∧
      (t.thread a.own).sfDue = ((s.thread a.own).sfDue || decide (f.length = 3)) ∧ s.sameRegs t ∧ s.sameBytes t) ∧
    (4 ≤ f.length → ∃ t, exec (.storeFaultRecord aid p) s = .next t ∧ (t.thread a.own).sfq = f ∧
      t.part? aid p = some (a, q) ∧ s.sameRegs t ∧ s.sameBytes t)) ∧
  (∀ (s : State) (wid : Nat) (k : Walk) (d : SReg) (id : Nat), s.walks.get? wid = some k → k.post = none → k.eng = none → k.ahead = none →
    k.probe = some (d, id) →
    let pc := s.phys k.own.job k.own.lcn
    let lands (v : Word) : Prop := ∃ t n, exec (.translationWalk wid) s = .next t ∧ ⟨n, s.cyc + 12, [.s d v], 0⟩ ∈ (t.thread k.own).landings ∧
      ⟨s.cyc + 12, .resultLands k.own n⟩ ∈ t.agenda ∧ (∀ x ∈ (t.thread k.own).busy, x.1 ≠ id ∨ x.1 = n) ∧ s.sameRegs t ∧ s.sameBytes t
    (∀ l, s.walkTable pc k.own.job (k.va.toNat % 2 ^ 48) = .leaf l → ∃ v : Bool,
      lands (BitVec.ofNat 64 ((if v then 1 else 0) + l.perm.toNat * 2 + l.level * 32 + l.code * 256)) ∧
      (v = true ↔ (∃ sl, s.dev.slice (l.frame + k.va.toNat % 2 ^ 48 % l.size) = some sl) ∧ l.perm.extractLsb' 0 3 ≠ 0)) ∧
    ∀ n c, s.walkTable pc k.own.job (k.va.toNat % 2 ^ 48) = .fault n c → lands (BitVec.ofNat 64 (n * 32))) ∧
  ∀ (s : State) (wid : Nat) (k : Walk), s.walks.get? wid = some k → k.post = none → k.eng = none → k.ahead = none → k.probe = none → (s.thread k.own).stall = some .walk →
    let pc := s.phys k.own.job k.own.lcn
    let va := k.va.toNat % 2 ^ 48
    (∀ l, s.walkTable pc k.own.job va = .leaf l →
      l.job = k.own.job ∧ l.base ≤ va ∧ va < l.base + l.size ∧ l.frame % l.size = 0 ∧ l.base % l.size = 0 ∧ 2 ≤ l.level ∧ l.level ≤ 5 ∧
      (∃ n, n < 3 ∧ (l.level = 2 → n = 0) ∧ l.size = 4096 * 64 ^ (5 - l.level) * 4 ^ n ∧ l.code = 3 * (5 - l.level) + n) ∧
      ∃ t, exec (.translationWalk wid) s = .next t ∧ l ∈ (t.pcore pc).tlb ∧ l ∈ (t.pclu (pc / 40 / 2 * 10 + pc % 40 / 4)).walker ∧
        (t.thread k.own).stall = none ∧ t.pcOf k.own = s.pcOf k.own ∧ s.sameRegs t ∧ s.sameBytes t) ∧
    (∀ n c i, s.walkTable pc k.own.job va = .fault n c → i < 15 → (s.pcore pc).tq.get? i = none →
      (∀ h, h < i → (s.pcore pc).tq.get? h ≠ none) →
      ∃ t r, exec (.translationWalk wid) s = .next t ∧ (t.pcore pc).tq.get? i = some r ∧ r.cause = c ∧ r.pc = k.pc ∧
        r.addr = (if k.exec then k.pc else k.va) ∧ r.thr = k.own.thr ∧ r.lcn = k.own.lcn ∧ r.ent = i ∧
        (t.thread k.own).st = .parked ∧ (t.thread k.own).wait = some ⟨.service, BitVec.ofNat 64 i, s.cyc, false, .reissue⟩ ∧
        s.sameRegs t ∧ s.sameBytes t)

/-- With the guard on: fe and guard access every word or granule of the range from Rd(A) + sext(IMM) for Rd(B) bytes in
ascending order; a length 0 does nothing more; a start that is no multiple gives ALIGN, a range beyond F gives ADDR,
and then a length that is no multiple gives ALIGN. tlook writes offset + k mod 2^g on a hit and the miss word with
the lowest invalid way or the victim pointer otherwise; tset fills its way, moves the pointer and gives ADDR for a
bad offset; tinv clears the matching entry, or all. drain passes on once nothing posted is outstanding, raising
STORE_FAULT if a record is queued; fence passes on once no relaxed access to its scope is outstanding; both wait
otherwise. xlat reports the leaf of a pool page, 0xF07 for a scratch address that passes, and 0 for a failing one,
has bits [63:12] 0 for a system-space address, and never faults. (R191, R203, R201, R204, R205, R206, R200, R198,
R181) -/
def Obligations.RangesTagsAndOrder : Prop :=
  ∀ (s : State) (g : Gd) (la : BitVec 4) (gs : BitVec 5) (sc : Scope) (d a b : SReg) (m : Bool) (imm : BitVec 32),
    s.guardOn s.cur g = true → 6 ≤ gs.toNat → gs.toNat ≤ 16 →
    let w := s.cur
    let p := s.pcOf w
    let ea := s.rd w a + imm.signExtend 64
    let len := (s.rd w b).toNat
    let foot := (s.job w.job).foot
    let next := s.advance w
    let range (i : Instr) (k : AccKind) (size unit : Nat) : Prop :=
      (s.place w ea = none → exec i s = .next (s.trapAt w .addr p ea 0)) ∧
      (∀ l off, s.place w ea = some (.scratch l off) → s.reaches w (.scratch l off) = true →
        (ea.toNat % size ≠ 0 → exec i s = .next (s.trapAt w .align p ea 0)) ∧
        (ea.toNat % size = 0 → foot < off + len → exec i s = .next (s.trapAt w .addr p ea 0)) ∧
        (ea.toNat % size = 0 → off + len ≤ foot → len % size ≠ 0 → exec i s = .next (s.trapAt w .align p ea 0)) ∧
        (ea.toNat % size = 0 → off ≤ foot → len = 0 → exec i s = .next next) ∧
        (ea.toNat % size = 0 → len % size = 0 → 0 < len → off + len ≤ foot →
          ∀ ps, s.checkAll w k true false unit []
              ((List.range (len / size)).map fun i => { idx := i, va := ea + BitVec.ofNat 64 (i * size) }) = .parts ps →
            exec i s = .next ((s.beginAccess w { kind := k, t := .n64, size := unit, lat := 12, scrOnly := true } ps).advance w)))
    range (.fe g m a b imm) (.fe m) 8 8 ∧ range (.guard g m a b imm) (.guard m) 64 1 ∧
    (let k := s.rd w a
     let n := gs.toNat
     let set := (k >>> n).toNat % 64
     let tag := k >>> (n + 6)
     let c := s.core w.job w.lcn
     let hit (i : Nat) : Prop := ∃ e, c.tags.get? (set * 4 + i) = some e ∧ e.tag = tag ∧ e.g = n
     let look (v : Nat) : Prop := s.yieldsLa (.tlook g la gs d a) 12 la [.s d (BitVec.ofNat 64 v)] 0
     (∀ i e, i < 4 → c.tags.get? (set * 4 + i) = some e → e.tag = tag → e.g = n → (∀ h, h < i → ¬hit h) →
       look (e.off + k.toNat % 2 ^ n) ∧
       exec (.tinv g gs a) s = .next ((s.modCore w.job w.lcn fun c => { c with tags := c.tags.del (set * 4 + i) }).advance w)) ∧
     ((∀ i, i < 4 → ¬hit i) →
       (∀ i, i < 4 → c.tags.get? (set * 4 + i) = none → (∀ h, h < i → c.tags.get? (set * 4 + h) ≠ none) → look (2 ^ 63 + set * 4 + i)) ∧
       ((∀ i, i < 4 → c.tags.get? (set * 4 + i) ≠ none) → look (2 ^ 63 + 2 ^ 62 + set * 4 + c.victim.getD set 0)) ∧
       exec (.tinv g gs a) s = .next next) ∧
     exec (.tinvAll g) s = .next ((s.modCore w.job w.lcn fun c => { c with tags := [] }).advance w) ∧
     let off := (s.rd w b).toNat % 2 ^ 21
     let way := (s.rd w b).toNat / 2 ^ 22 % 4
     (off % 2 ^ n ≠ 0 ∨ foot ≤ off → exec (.tset g gs a b) s = .next (s.trapAt w .addr p (s.rd w b) 0)) ∧
     (off % 2 ^ n = 0 → off < foot → exec (.tset g gs a b) s = .next ((s.modCore w.job w.lcn fun c =>
       { c with tags := c.tags.set (set * 4 + way) ⟨tag, n, off⟩, victim := c.victim.set set ((way + 1) % 4) }).advance w))) ∧
    (let posted := (∃ i x, (i, x) ∈ s.accs ∧ x.own = w ∧ x.returned = false ∧ (x.posted = true ∨ (x.kind.atomic = true ∧ x.dst = none))) ∨
       ∃ f ∈ (s.thread w).outbox, f.rx = true
     (posted → exec (.drain g) s = .next s) ∧
     (¬posted → exec (.drain g) s = .next (if (s.thread w).sfq = [] then next
       else s.trapAt w .storeFault p 0 (BitVec.ofNat 64 (s.thread w).sfq.length)))) ∧
    (let open_ (q : Part) : Prop := match q.home, sc with
       | .scratch l, .core => l = w.lcn ∧ q.performed = false
       | .scratch l, .cluster => (s.job w.job).cluOf l = (s.job w.job).cluOf w.lcn ∧ q.performed = false
       | .scratch _, .job => q.performed = false
       | .pool, .device => q.performed = false
       | .pool, .system => q.returned = false
       | _, _ => False
     let waits := ∃ i x n q, (i, x) ∈ s.accs ∧ x.own = w ∧ x.rx = true ∧ (n, q) ∈ x.parts ∧ open_ q
     (waits → exec (.fence g sc) s = .next s) ∧ (¬waits → exec (.fence g sc) s = .next next)) ∧
    (s.place w ea = none → s.yieldsLa (.xlat g la d a imm) 12 la [.s d 0] 0) ∧
    (∀ x, s.place w ea = some x → (∀ l o, x ≠ .scratch l o) → (∀ v, x ≠ .pool v) →
      ∃ v : Word, v.toNat < 4096 ∧ s.yieldsLa (.xlat g la d a imm) 12 la [.s d v] 0) ∧
    (∀ l off, s.place w ea = some (.scratch l off) →
      s.yieldsLa (.xlat g la d a imm) 12 la [.s d (if s.reaches w (.scratch l off) = true then 0xF07 else 0)] 0) ∧
    (∀ va, s.place w ea = some (.pool va) → s.cached (s.phys w.job w.lcn) w.job va = none →
      ∃ n id k c, exec (.xlat g la d a imm) s = .next n ∧ n.pcOf w = p + 12 ∧ (d ≠ 0 → (s.seq, .s d) ∈ (n.thread w).busy) ∧
        n.walks.get? id = some k ∧ k.own = w ∧ k.va = ea ∧ k.probe = some (d, s.seq) ∧ s.cyc ≤ c ∧ ⟨c, .translationWalk id⟩ ∈ n.agenda ∧
        s.sameRegs n ∧ s.sameBytes n) ∧
    ∀ va t, s.place w ea = some (.pool va) → s.cached (s.phys w.job w.lcn) w.job va = some t → t.level < 8 → t.code < 16 →
      ∃ v : Bool, s.yieldsLa (.xlat g la d a imm) 12 la
          [.s d (BitVec.ofNat 64 ((if v then 1 else 0) + t.perm.toNat * 2 + t.level * 32 + t.code * 256))] 0 ∧
        (v = true ↔ (∃ sl, s.dev.slice (t.frame + va % t.size) = some sl) ∧ t.perm.extractLsb' 0 3 ≠ 0)

/-- With the guard on: mon of a line in the own cluster begins an access that arms it, and gives ADDR elsewhere; monc
disarms all; a write to an armed line triggers it. waitm ends at once on a trigger (CAUSE 1) or, with mq, a message
(3), else parks with its bound (2), and a trigger or a message has it look again at the end of its cycle; D gets
CAUSE and TRIG, the triggers clear and the monitors stay armed. bar and bara raise GUARD for an unreported hit, else
the arrival reaches the unit in 4 cycles and issue waits for the verdict; the unit gives BAR_PHASE for EP ≠ PH, else
counts it, flips EP, sets PEND and, at COUNT, ends the phase; the release 4 cycles on clears PEND and resumes the
waiters. barw waits while PEND is 1. barset sets COUNT and rejoins its thread, and a barw that overtook it resumes.
(R208, R209, R210, R211, R213, R214, R215, R216, R202, R207) -/
def Obligations.MonitorsAndBarriers : Prop :=
  (∀ (s : State) (g : Gd) (mi : BitVec 2) (mq : Bool) (n : BitVec 4) (d a : SReg) (imm : BitVec 32), s.guardOn s.cur g = true →
    let w := s.cur
    let t0 := s.thread w
    let p := s.pcOf w
    let ea := s.rd w a + imm.signExtend 64
    let clu (l : Nat) : Nat := (s.job w.job).cluOf l
    let next := s.advance w
    (s.place w ea = none → exec (.mon g mi a imm) s = .next (s.trapAt w .addr p ea 0)) ∧
    (∀ l off, s.place w ea = some (.scratch l off) → s.reaches w (.scratch l off) = true →
      (clu l ≠ clu w.lcn → exec (.mon g mi a imm) s = .next (s.trapAt w .addr p ea 0)) ∧
      (clu l = clu w.lcn → exec (.mon g mi a imm) s = .next ((s.beginAccess w
        { kind := .mon mi.toNat, t := .n8, size := 1, lat := 12, scrOnly := true }
        [(off / 32, { home := .scratch l, elems := [{ idx := 0, va := ea, at_ := off, val := 0, cmp := 0 }] })]).advance w))) ∧
    (exec (.monc g) s = .next ((s.modThread w fun t => { t with mons := [] }).advance w)) ∧
    (let armed (i : Nat) : Bool := match t0.mons.get? i with | some m => m.armed && m.trig | none => false
     let trig := ∑ i : Fin 4, if armed i then 2 ^ i.val else 0
     let ends (c : Nat) (i : Instr) (s : State) : Prop := ∃ t, exec i s = .next t ∧ t.pcOf w = s.pcOf w + 12 ∧
       ⟨s.seq, s.cyc + 8, [.s d (BitVec.ofNat 64 (c + 16 * trig))], 0⟩ ∈ (t.thread w).landings ∧ (t.thread w).st = .running ∧
       (∀ i m, (t.thread w).mons.get? i = some m → m.trig = false ∧ ∃ m', t0.mons.get? i = some m' ∧ m = { m' with trig := false }) ∧
       s.sameRegs t ∧ s.sameBytes t
     let k := (s.rd w a).toNat
     (t0.mons.map Prod.fst).Nodup → (∀ x ∈ t0.mons, x.1 < 4) →
     (t0.st = .running → trig ≠ 0 → ends 1 (.waitm g mq d a) s) ∧
     (t0.st = .running → trig = 0 → mq = true → t0.mq ≠ [] → ends 3 (.waitm g mq d a) s) ∧
     (trig = 0 → mq = false ∨ t0.mq = [] → exec (.waitm g mq d a) s = .next
       (let u := s.park w .monitor 0 (decide (k ≠ 0)) (.waitm d mq)
        if k = 0 then u else u.later k (.waitmTimeout w (t0.stamp + 1)))) ∧
     ∀ x b, t0.st = .parked → t0.wait = some x → x.cont = .waitm d b →
       (trig ≠ 0 → ends 1 (.waitmTimeout w t0.stamp) s) ∧ (trig = 0 → b = true → t0.mq ≠ [] → ends 3 (.waitmTimeout w t0.stamp) s) ∧
       (trig = 0 → b = false ∨ t0.mq = [] → ends 2 (.waitmTimeout w t0.stamp) s)) ∧
    (let hits := t0.ghits
     let arrives (i : Instr) (wait : Bool) (d : Option SReg) : Prop :=
       (hits ≠ 0 → exec i s = .next ((s.modThread w fun t => { t with ghits := 0 }).trapAt w .guard p t0.gaddr
         (BitVec.ofNat 64 (min hits 0xFFFF)))) ∧
       (hits = 0 → exec i s = .next ((s.stallFor w .verdict).later 4 (.barrierArrival w n wait d)))
     arrives (.bar g n) true none ∧ arrives (.bara g n d) false (some d)) ∧
    (exec (.barw g n) s = .next (if t0.bpend.getLsbD n.toNat then s.park w .barrier (BitVec.ofNat 64 n.toNat) false (.barw n) else next)) ∧
    exec (.barset g n a) s = .next ((s.later 4 (.barsetRequest w n ((s.rd w a).toNat % 128 + 1))).advance w)) ∧
  (∀ (s : State) (j l off : Nat) (u : Tid) (n : Nat) (m : Monitor), u.job = j → (s.job j).cluOf u.lcn = (s.job j).cluOf l →
    (s.thread u).mons.get? n = some m → m.armed = true → m.lcn = l → m.line = off / 64 →
    ((s.watch j l off).thread u).mons.get? n = some { m with trig := true } ∧
      ∀ x d b, (s.thread u).wait = some x → x.cont = .waitm d b → ⟨s.cyc, .waitmTimeout u (s.thread u).stamp⟩ ∈ (s.watch j l off).agenda) ∧
  ∀ (s : State) (w : Tid) (n : BitVec 4) (wait : Bool) (d : Option SReg),
    let c := (s.job w.job).cluOf w.lcn
    let k := s.counter w.job c n
    let t0 := s.thread w
    let ep := t0.ep.getLsbD n.toNat
    (ep ≠ k.ph → exec (.barrierArrival w n wait d) s = .next (s.later 4 (.barrierVerdict w n false k.ph wait))) ∧
    (ep = k.ph → ∃ t, exec (.barrierArrival w n wait d) s = .next t ∧
      t.counter w.job c n = (if k.arr + 1 = k.count then { k with arr := 0, ph := !k.ph, who := [] }
        else { k with arr := k.arr + 1, who := k.who ++ [w] }) ∧
      (k.arr + 1 = k.count → ⟨s.cyc + 4, .barrierRelease w.job c n (k.who ++ [w])⟩ ∈ t.agenda) ∧
      (t.thread w).ep.getLsbD n.toNat = (!ep) ∧ (t.thread w).bpend.getLsbD n.toNat = true ∧
      (∀ i, i ≠ n.toNat → (t.thread w).ep.getLsbD i = t0.ep.getLsbD i ∧ (t.thread w).bpend.getLsbD i = t0.bpend.getLsbD i) ∧
      (∀ r, d = some r → ⟨s.seq, s.cyc + 8, [.s r (BitVec.ofNat 64
        (k.arr + (if k.arr + 1 = k.count then 128 else 0) + if ep then 0 else 256))], 0⟩ ∈ (t.thread w).landings) ∧
      ⟨s.cyc + 4, .barrierVerdict w n true k.ph wait⟩ ∈ t.agenda ∧ s.sameRegs t ∧ s.sameBytes t) ∧
    (∀ count, ∃ t, exec (.barsetRequest w n count) s = .next t ∧
      t.counter w.job c n = (if count ≤ k.arr then { k with count := count, arr := 0, ph := !k.ph, who := [] } else { k with count := count }) ∧
      (count ≤ k.arr → ⟨s.cyc + 4, .barrierRelease w.job c n k.who⟩ ∈ t.agenda) ∧
      (t.thread w).ep.getLsbD n.toNat = k.ph ∧ (t.thread w).bpend.getLsbD n.toNat = false ∧ s.sameRegs t ∧ s.sameBytes t ∧
      ∀ x, t0.st = .parked → t0.wait = some x → x.cont = .barw n → (t.thread w).st = .running ∧ t.pcOf w = s.pcOf w + 12) ∧
    (∀ ok ph, t0.stall = some .verdict →
      let u := s.modThread w fun t => { t with stall := none }
      exec (.barrierVerdict w n ok ph wait) s = .next (
        if ok = false then u.trapAt w .barPhase (s.pcOf w) 0 (BitVec.ofNat 64 (n.toNat + (if ph then 16 else 0) + if ep then 32 else 0))
        else if wait = true ∧ t0.bpend.getLsbD n.toNat = true then u.park w .barrier (BitVec.ofNat 64 n.toNat) false (.bar n)
        else u.advance w)) ∧
    ∀ ws : List Tid, w ∈ ws → s.arrivedAgain w.job c n w = false → ∃ t, exec (.barrierRelease w.job c n ws) s = .next t ∧
      (t.thread w).bpend.getLsbD n.toNat = false ∧
      (∀ x, t0.st = .parked → t0.wait = some x → x.cont = .bar n ∨ x.cont = .barw n →
        (t.thread w).st = .running ∧ t.pcOf w = s.pcOf w + 12) ∧ s.sameRegs t ∧ s.sameBytes t

/-- With the guard on: send to a destination that R221 excludes gives MSG; to a router outside the job's routes ADDR;
with 8 undelivered flits it parks; else its flit, with the sender's identity, enters the outbox and sets out, and D,
if any, is pending. recv and trecv take the head flit; on an empty queue recv parks, and trecv parks with its bound
or, at bound 0, writes 0 and a false predicate, as when the bound expires. mqst writes the queue's status, or the
head's sender. An arriving flit is enqueued, given to a receiver parked in recv, counted as dead at a free thread or
another generation, or refused by a full queue and sent again after 64 cycles; its acknowledgement resolves OK or
MSG_DEAD. Two hung samples with the same entries raise HANG at thread 0 of core 0. (R219, R220, R221, R222, R223,
R224, R226, R228, R229, R122, R187) -/
def Obligations.Messages : Prop :=
  (∀ (s : State) (g : Gd) (rx : Bool) (d : HReg) (a : SReg) (b : Src) (e f : SReg) (p : BitVec 3), s.guardOn s.cur g = true →
    let w := s.cur
    let t0 := s.thread w
    let job := s.job w.job
    let dst := s.rd w a
    let field (lo n : Nat) : Nat := dst.toNat / 2 ^ lo % 2 ^ n
    let dv := dst.getLsbD 50
    let bad : Prop := field 51 13 ≠ 0 ∨ (dv = false ∧ field 36 14 ≠ 0) ∨
      (dv = false ∧ (job.w * job.h ≤ field 20 16 ∨ job.t ≤ field 16 4)) ∨ (dv = true ∧ ∀ x ∈ job.bound, x.1 ≠ field 36 14)
    let flit (ack : Option HRef) (gen : BitVec 16) : Flit :=
      { id := s.seq, sender := w, src := BitVec.ofNat 64 (w.lcn * 2 ^ 20 + w.thr * 2 ^ 16 + gen.toNat), dst := dst,
        payload := s.src w b, rx := rx, ack := ack }
    (bad → exec (.send g rx d a b) s = .next (s.trapAt w .msg (s.pcOf w) 0 0)) ∧
    let here : Prop := dv = true ∨ s.reaches w (.scratch (field 20 16) 0) = true
    (¬bad → ¬here → exec (.send g rx d a b) s = .next (s.trapAt w .addr (s.pcOf w) 0 0)) ∧
    (¬bad → here → rx = true → 16 ≤ t0.relaxed.length → exec (.send g rx d a b) s = .next (s.park w .relaxed 0 false .reissue)) ∧
    (¬bad → here → (rx = true → t0.relaxed.length < 16) →
      (8 ≤ t0.outbox.length → exec (.send g rx d a b) s = .next (s.park w .outbox dst false .reissue)) ∧
      (t0.outbox.length < 8 → (∀ x ∈ t0.outbox, x.id ∉ t0.refused ∧ x.id ∉ t0.outHeld) → ∀ i, (d ≠ 0 → t0.freeSlot = some i) →
        ∃ t, exec (.send g rx d a b) s = .next t ∧ t.pcOf w = s.pcOf w + 12 ∧
          (t.thread w).outbox = t0.outbox ++ [flit (if d = 0 then none else some ⟨w, i, t0.hseq⟩) t0.gen] ∧
          (rx = false → (t.thread w).ordAcc = some s.seq) ∧ (rx = true → (t.thread w).relaxed = t0.relaxed ++ [s.seq]) ∧
          (d ≠ 0 → t.pending w d = true ∧ t.rdH w d = HRef.word ⟨w, i, t0.hseq⟩) ∧ s.sameBytes t ∧
          (let x := flit (if d = 0 then none else some ⟨w, i, t0.hseq⟩) t0.gen
           dv = false → s.packetTo .msg w w.lcn (field 20 16) (.flitArrival x) = none →
             ⟨s.cyc + s.localHop w.job w.lcn (field 20 16), .flitArrival x⟩ ∈ t.agenda))) ∧
    (∀ x xs, t0.mq = x :: xs →
      let u := s.modThread w fun t => { t with mq := xs }
      exec (.recv g e) s = .next ((u.land w 8 [.s e x.payload] 0).advance w) ∧
      exec (.trecv g p e f) s = .next ((u.land w 8 [.s e x.payload, .q p true] 0).advance w) ∧
      s.yields (.mqst g true e) 8 [.s e x.src] 0) ∧
    (t0.mq = [] →
      let k := (s.rd w f).toNat
      exec (.recv g e) s = .next (s.park w .msgq 0 false (.recv e)) ∧
      (k = 0 → s.yields (.trecv g p e f) 8 [.s e 0, .q p false] 0) ∧
      (k ≠ 0 → exec (.trecv g p e f) s =
        .next ((s.park w .msgq 0 true (.trecv e p)).later k (.trecvTimeout w (t0.stamp + 1)))) ∧
      s.yields (.mqst g true e) 8 [.s e 0] 0) ∧
    s.yields (.mqst g false e) 8
      [.s e (BitVec.ofNat 64 ((if t0.mq.length = 0 then 64 else 0) + (if t0.mq.length = 16 then 32 else 0) + t0.mq.length))] 0) ∧
  (∀ (s : State) (w : Tid) (x : Wait) (d : SReg) (p : QReg), (s.thread w).wait = some x → x.cont = .trecv d p →
    exec (.trecvTimeout w (s.thread w).stamp) s = .next (((s.land w 8 [.s d 0, .q p false] 0).unpark w).advance w)) ∧
  (∀ (s : State) (f : Flit), f.src.getLsbD 50 = false → f.dst.getLsbD 50 = false →
    let v : Tid := ⟨f.sender.job, f.dst.toNat / 2 ^ 20 % 2 ^ 16, f.dst.toNat / 2 ^ 16 % 2 ^ 4⟩
    let u := s.thread v
    let gen := f.dst.toNat % 2 ^ 16
    let mine := gen = 0 ∨ gen = u.gen.toNat
    let gone (t : State) : Prop := (∀ x ∈ (t.thread f.sender).outbox, x.id ≠ f.id) ∧
      ((s.thread f.sender).ordAcc = some f.id → (t.thread f.sender).ordAcc = none ∧ (t.thread f.sender).accAt = s.cyc + 1)
    let hop := s.localHop v.job f.sender.lcn v.lcn
    let back (e : Event) : Prop := s.packetTo .rsp f.sender v.lcn f.sender.lcn e = none
    let acks (t : State) (dead : Bool) : Prop := f.ack ≠ none → back (.sendAck f dead) → ⟨s.cyc + hop, .sendAck f dead⟩ ∈ t.agenda
    (s.flitBehind f = false → u.isLive s.cyc = false ∨ ¬mine →
      ∃ t, exec (.flitArrival f) s = .next t ∧ (t.thread v).mdrop = (if u.mdrop = 0xFFFFFFFF then 0xFFFFFFFF else u.mdrop + 1) ∧
        (t.thread v).mq = u.mq ∧ gone t ∧ acks t true ∧ s.sameRegs t ∧ s.sameBytes t) ∧
    (u.isLive s.cyc = true → mine → u.mq.length = 16 → ∃ t, exec (.flitArrival f) s = .next t ∧ (t.thread v).mq = u.mq ∧
      f.id ∈ (t.thread f.sender).refused ∧ (t.thread f.sender).outbox = (s.thread f.sender).outbox ∧ s.sameRegs t ∧ s.sameBytes t ∧
      (back (.flitResend f) → ⟨s.cyc + 64 + hop, .flitResend f⟩ ∈ t.agenda)) ∧
    (s.flitBehind f = false → u.isLive s.cyc = true → mine → s.refusesFlit v = false →
      (u.wait = none → ∃ t, exec (.flitArrival f) s = .next t ∧ (t.thread v).mq = u.mq ++ [f] ∧ gone t ∧ acks t false ∧
        s.sameRegs t ∧ s.sameBytes t) ∧
      (∀ x d, u.wait = some x → x.cont = .waitm d true → ∃ t, exec (.flitArrival f) s = .next t ∧ (t.thread v).mq = u.mq ++ [f] ∧
        ⟨s.cyc, .waitmTimeout v u.stamp⟩ ∈ t.agenda ∧ gone t ∧ acks t false ∧ s.sameRegs t ∧ s.sameBytes t) ∧
      (∀ x d, u.st = .parked → u.wait = some x → x.cont = .recv d → u.mq = [] → ∃ t, exec (.flitArrival f) s = .next t ∧
        (t.thread v).mq = [] ∧ (t.thread v).st = .running ∧ t.pcOf v = s.pcOf v + 12 ∧
        ⟨s.seq, s.cyc + 8, [.s d f.payload], 0⟩ ∈ (t.thread v).landings ∧ gone t ∧ acks t false ∧ s.sameRegs t ∧ s.sameBytes t)) ∧
    ((∃ x ∈ (s.thread f.sender).outbox, x.id = f.id) → s.flitBehind f = false →
      exec (.flitResend f) s = .next (s.sendTo hop .msg f.sender f.sender.lcn v.lcn (.flitArrival f))) ∧
    (∀ h dead, f.ack = some h → (∃ x ∈ (s.thread f.sender).outbox, x.id = f.id) → ∃ t, exec (.sendAck f dead) s = .next t ∧ gone t ∧
      ⟨s.cyc, .handleCompletion h (BitVec.ofNat 64 (if dead then 13 else 0)) 0⟩ ∈ t.agenda ∧ s.sameRegs t ∧ s.sameBytes t) ∧
    ∀ h dead, f.ack = some h → (∀ x ∈ (s.thread f.sender).outbox, x.id ≠ f.id) →
      exec (.sendAck f dead) s = .next (s.later 0 (.handleCompletion h (BitVec.ofNat 64 (if dead then 13 else 0)) 0))) ∧
  ∀ (s : State) (j : Nat), (s.job j).st = .running →
    let u := s.later 1024 (.hangSample j)
    let w : Tid := ⟨j, 0, 0⟩
    let t0 := s.thread w
    let live := (s.threadsOf j).filter fun x => x.2.isLive s.cyc
    let others (x : Tid × Thread) : List Thread := match x.2.wait with | some y => s.otherParties x.1 y | none => []
    let now := live.flatMap fun x => let k := x.1.lcn * 16 + x.1.thr
      (k, x.2.stamp) :: (x.2 :: others x).map fun y => (k, y.capAt)
    (u.hung j = false → exec (.hangSample j) s = .next (u.modJob j fun b => { b with hangLast := none })) ∧
    (u.hung j = true → (s.job j).hangLast ≠ some now → exec (.hangSample j) s = .next (u.modJob j fun b => { b with hangLast := some now })) ∧
    (u.hung j = true → (s.job j).hangLast = some now → t0.isLive s.cyc = true → t0.tvec ≠ 0 → t0.jh = false → t0.sh = false →
      ∀ x d, t0.st = .parked → t0.wait = some x → x.kind = .msgq → x.cont = .recv d → (∀ l ∈ t0.landings, ∀ y ∈ l.writes, ∀ n v, y ≠ .sp n v) →
      ∃ t, exec (.hangSample j) s = .next t ∧
        (let o := t.thread w
         o.st = .running ∧ o.pc = t0.tvec ∧ o.jepc = t0.pc ∧ o.jcause = 0x60 ∧ o.jaddr = 0 ∧
         o.jinfo = BitVec.ofNat 64 (live.length % 65536) ∧ o.pstate = (t0.pstate ||| 2)) ∧ s.sameRegs t ∧ s.sameBytes t)

/-- With the guard on: hval writes the field of the completion word; htest tests PEND; hcancel sends its request for a
pending copy or gather and else does nothing; hpass turns a pending entry into a passed one, or makes one that holds
the word, and writes its identity to D and A; hadopt of a malformed identity gives HANDLE, else its request goes to
the table, which refuses (HANDLE), answers with the word and frees the entry, or binds D, which becomes pending. A
completion word lands in the register of its entry, whose PEND clears and whose waiting thread runs, with its flags;
into a passed entry; or on its way to the adopter; with a table or an adopter in a save area it waits. A cancel
removes a queued operation as CANCELLED and stops an active one at its next boundary. (R232, R233, R235, R236, R238,
R239, R240, R241, R242, R243) -/
def Obligations.Handles : Prop :=
  (∀ (s : State) (g : Gd) (fld : BitVec 2) (d : SReg) (q : QReg) (a e : HReg) (x : SReg), s.guardOn s.cur g = true →
    let w := s.cur
    let c := s.rdH w a
    let next := s.advance w
    let ref (id : Word) : HRef := ⟨⟨w.job, id.toNat / 2 ^ 16 % 2 ^ 16, id.toNat / 2 ^ 12 % 2 ^ 4⟩, id.toNat % 2 ^ 5, id.toNat / 2 ^ 32 % 2 ^ 16⟩
    s.yields (.hval g fld d a) 8 [.s d (match fld.toNat with
      | 0 => c | 1 => (c.extractLsb' 0 8).zeroExtend 64 | 2 => (c.extractLsb' 8 56).zeroExtend 64
      | _ => (c.extractLsb' 32 32).zeroExtend 64)] 0 ∧
    s.yields (.htest g q a) 8 [.q q (!s.pending w a)] 0 ∧
    (s.pending w a = false → exec (.hcancel g a) s = .next next) ∧
    (s.pending w a = true → ∀ y, s.entry? (ref c) = some y →
      exec (.hcancel g a) s = .next (if y.kind = .copyGather then (s.later 4 (.cancelRequest (ref c))).advance w else next)) ∧
    (s.pending w a = true → (ref c).own = w → ∀ y, s.entry? (ref c) = some y → ∃ t, exec (.hpass g d a) s = .next t ∧
      t.entry? (ref c) = some { y with passed := true, reg := 0, target := none } ∧ t.pending w a = false ∧
      ⟨s.seq, s.cyc + 8, [.s ((0 : BitVec 1) ++ a) (HRef.word (ref c)), .s d (HRef.word (ref c))], 0⟩ ∈ (t.thread w).landings ∧
      t.pcOf w = s.pcOf w + 12 ∧ s.sameRegs t ∧ s.sameBytes t) ∧
    (s.pending w a = false → ∀ i, (s.thread w).freeSlot = some i →
      let h : HRef := ⟨w, i, (s.thread w).hseq⟩
      ∃ t y, exec (.hpass g d a) s = .next t ∧ (t.thread w).handles.get? i = some y ∧ y.seq = h.seq ∧ y.passed = true ∧
        y.word = some c ∧ y.target = none ∧
        ⟨s.seq, s.cyc + 8, [.s ((0 : BitVec 1) ++ a) (HRef.word h), .s d (HRef.word h)], 0⟩ ∈ (t.thread w).landings ∧
        t.pcOf w = s.pcOf w + 12 ∧ s.sameRegs t ∧ s.sameBytes t) ∧
    let id := s.rd w x
    let bad : Prop := id.toNat / 2 ^ 60 ≠ 0xC ∨ id.toNat / 2 ^ 48 % 2 ^ 12 ≠ 0 ∨ id.toNat / 2 ^ 5 % 2 ^ 7 ≠ 0 ∨
      (s.job w.job).w * (s.job w.job).h ≤ (ref id).own.lcn ∨ (s.job w.job).t ≤ (ref id).own.thr
    (bad → exec (.hadopt g e x) s = .next (s.trapAt w .handle (s.pcOf w) 0 0)) ∧
    (¬bad → exec (.hadopt g e x) s = .next ((s.stallFor w .home).sendTo 4 .req w w.lcn (ref id).own.lcn (.adoptRequest w e id)))) ∧
  (∀ (s : State) (w : Tid) (d : HReg) (id : Word), d ≠ 0 →
    let h : HRef := ⟨⟨w.job, id.toNat / 2 ^ 16 % 2 ^ 16, id.toNat / 2 ^ 12 % 2 ^ 4⟩, id.toNat % 2 ^ 5, id.toNat / 2 ^ 32 % 2 ^ 16⟩
    let reply (t : State) (r : AdoptReply) : State := t.sendTo 0 .rsp w h.own.lcn w.lcn (.adoptReply w d id r)
    ((s.core w.job h.own.lcn).saved ≠ none → (s.thread w).susp = false → (s.thread w).held = false →
      exec (.adoptRequest w d id) s = .next (s.later 64 (.adoptRequest w d id))) ∧
    ((s.core w.job w.lcn).saved ≠ none → ∀ r, exec (.adoptReply w d id r) s = .next (s.later 64 (.adoptReply w d id r))) ∧
    ((s.core w.job h.own.lcn).saved = none →
    (s.entry? h = none → exec (.adoptRequest w d id) s = .next (reply s .refused)) ∧
    (∀ y, s.entry? h = some y →
      (y.passed = false ∨ y.target ≠ none → exec (.adoptRequest w d id) s = .next (reply s .refused)) ∧
      (y.passed = true → y.target = none →
        (∀ c, y.word = some c → ∃ t, exec (.adoptRequest w d id) s = .next (reply t (.word c)) ∧ t.entry? h = none) ∧
        (y.word = none → ∃ t, exec (.adoptRequest w d id) s = .next (reply t (.bound h)) ∧
          t.entry? h = some { y with target := some (w, d) })))) ∧
    ((s.core w.job w.lcn).saved = none → (s.thread w).stall = some .home →
      let u := s.modThread w fun t => { t with stall := none, accAt := s.cyc + 1 }
      (∃ t, exec (.adoptReply w d id .refused) s = .next t ∧ t = u.trapAt w .handle (s.pcOf w) 0 0) ∧
      (∀ c, exec (.adoptReply w d id (.word c)) s = .next ((u.land w 8 [.s ((0 : BitVec 1) ++ d) c] 0).advance w)) ∧
      ∀ y, s.entry? h = some y → y.target = some (w, d) → ∃ t, exec (.adoptReply w d id (.bound h)) s = .next t ∧
        t.rdH w d = id ∧ t.pending w d = true ∧ t.pcOf w = s.pcOf w + 12 ∧ s.sameBytes t ∧
        (∀ r : SReg, r ≠ (0 : BitVec 1) ++ d → t.rd w r = s.rd w r))) ∧
  (∀ (s : State) (h : HRef) (c : Word) (fl : FlagBits) (y : HEntry), s.entry? h = some y → y.discarded = false →
    let v := h.own
    let away (u : Tid) : Bool := (s.core u.job u.lcn).saved.isSome
    (s.core v.job v.lcn).starters = [] →
    (away v = true ∨ (∃ u r, y.target = some (u, r) ∧ away u = true) →
      exec (.handleCompletion h c fl) s = .next (s.later 64 (.handleCompletion h c fl))) ∧ (away v = false →
    (y.passed = false → y.target = none → y.reg ≠ 0 → ∃ t, exec (.handleCompletion h c fl) s = .next t ∧ t.rdH v y.reg = c ∧
      t.pending v y.reg = false ∧ t.entry? h = none ∧ (t.thread v).flags = ((s.thread v).flags ||| fl) ∧
      (∀ r : HReg, r ≠ y.reg → t.rdH v r = s.rdH v r ∧ t.pending v r = s.pending v r) ∧ s.sameBytes t ∧
      ((s.thread v).st = .parked → ∀ x, (s.thread v).wait = some x → x.kind = .handle → x.obj = BitVec.ofNat 64 (2 ^ 32 + y.reg.toNat) →
        (t.thread v).st = .running)) ∧
    (y.passed = true → y.target = none → ∃ t, exec (.handleCompletion h c fl) s = .next t ∧
      t.entry? h = some { y with word := some c } ∧ s.sameRegs t ∧ s.sameBytes t) ∧
    (∀ u r, y.passed = true → y.target = some (u, r) → away u = false → y.word = none →
      exec (.handleCompletion h c fl) s ≠ .next s ∧ ∃ t, exec (.handleCompletion h c fl) s = .next t ∧
        t.entry? h = some { y with word := some c } ∧ s.sameRegs t ∧ s.sameBytes t ∧
        (s.phys? v.job v.lcn = s.phys? v.job u.lcn → u.job = v.job → ⟨s.cyc, .handleCompletion h c fl⟩ ∈ t.agenda)) ∧
    (∀ u r, y.passed = true → y.target = some (u, r) → away u = false → r ≠ 0 → y.word ≠ none → ∃ t, exec (.handleCompletion h c fl) s = .next t ∧
      t.rdH u r = c ∧ t.pending u r = false ∧ t.entry? h = none ∧ (t.thread u).flags = ((s.thread u).flags ||| fl) ∧ s.sameBytes t))) ∧
  ∀ (s : State) (h : HRef) (o : EngOp),
    let j := h.own.job
    let k := (s.job j).cluOf h.own.lcn
    ((s.clu j k).copyQ ++ (s.clu j k).gathQ).find? (fun o => o.h == h) = some o →
    let cp := o.kind.isCopy
    (o.active = true → exec (.cancelRequest h) s = .next (s.modOp j k cp o.id fun o => { o with cancel := true })) ∧
    (o.active = false → o.stop ≠ none → exec (.cancelRequest h) s = .next s) ∧
    (o.active = false → o.stop = none → o.subst = false → o.guardHit = false → ∃ t, exec (.cancelRequest h) s = .next t ∧
      (∀ x ∈ (t.clu j k).ops cp, x.id ≠ o.id) ∧ s.sameRegs t ∧ s.sameBytes t ∧
      ⟨s.cyc + 8, .handleCompletion h (BitVec.ofNat 64 ((if cp then 0 else o.pos % 2 ^ 32) * 2 ^ 32 + 5)) 0⟩ ∈ t.agenda)

/-- A range of a core's scratch without guard granules, locked bytes and errors. -/
def Sys2Proof.Machine.State.cleanAt (s : State) (j l off n : Nat) : Prop :=
  ∀ i, i < n → (∀ k, k ≤ 8 → i + k ≤ n → s.closed j l (off + i) k = false) ∧
    (s.pcore (s.phys j l)).ecc.get? ((s.seg j l + (off + i)) / 8) = none

/-- The bytes of a core's scratch. -/
def Sys2Proof.Machine.State.scratchNat (s : State) (j l off n : Nat) : Nat := (s.pcore (s.phys j l)).mem.readNat (s.seg j l + off) n

/-- The state in which an instruction has read a block of scratch: it has spent its turn at the banks, or they have taken the read. -/
def Sys2Proof.Machine.State.blockRead (s : State) (w : Tid) (l off n : Nat) : State :=
  if s.granted w 120 = true then s.spend w 120 else (s.bankRun (s.phys w.job l) (s.seg w.job l + off) n 0 (n / 32 + 2)).1

/-- An instruction can read its block in this cycle: it has waited for its turn, or no request is before it at the banks. -/
def Sys2Proof.Machine.State.blockFree (s : State) (w : Tid) (l : Nat) : Prop :=
  s.granted w 120 = true ∨ ∀ b c, (s.pcore (s.phys w.job l)).bank.get? b = some c → c < s.cyc

/-- An instruction waits for its turn at the banks: its thread stands still until then and issues it again. -/
def Sys2Proof.Machine.State.waitsForBlock (s : State) (w : Tid) (i : Instr) : Prop :=
  ∃ t c, exec i s = .next t ∧ s.cyc < c ∧ (t.thread w).stall = some (.sleep c) ∧ t.granted w 120 = true ∧ t.pcOf w = s.pcOf w ∧
    ⟨c, .sleepExpiry w (t.thread w).stamp⟩ ∈ t.agenda ∧ s.sameRegs t ∧ s.sameBytes t

/-- With the guard on, each checks its ranges (and its parameter block) at issue and takes ADDR or ALIGN where R245,
R246 or R248 says; a transfer of nothing resolves OK at once; else, with a place in the queue and a handle entry,
its operation enters the unit 4 cycles on and D is pending. The ranges of a block are read once the banks have
served what is before. A chunk of up to 256 bytes reads all its bytes before it writes them, in requests that lie in
one 256-byte block each; position p of a gather moves ELEM bytes from BASE + i·STRIDE to PACK + p·PITCH, and a
scatter the other way. A request reaches its bank or slice, acts there on exactly its bytes and is answered: a write
changes them, a read takes them as they are. A vacated cluster's unit stands still before a chunk or batch. The
operation resolves with its status, bits [8] and [9] and N in [63:32]; a stopped gather first writes N to START.
(R244, R245, R246, R247, R248, R249, R250, R251, R253, R235, R13, R18) -/
def Obligations.Engines : Prop :=
  (∀ (s : State) (g : Gd) (rx : Bool) (d : HReg) (a b : SReg) (imm : BitVec 32), s.guardOn s.cur g = true → d ≠ 0 →
    let w := s.cur
    let p := s.pcOf w
    let foot := (s.job w.job).foot
    let dst := s.rd w a
    let src := s.rd w b
    let k := (s.job w.job).cluOf w.lcn
    let enters (i : Instr) (u : State) (o : EngOp) (cp : Bool) : Prop := ∀ n, (s.thread w).freeSlot = some n →
      (s.placeFor w (if cp then 100 else 101) (s.queuedOps w.job k cp) 64 = false →
        exec i s = .next (u.park w .engq (if cp then 1 else 2) false .reissue)) ∧
      (s.placeFor w (if cp then 100 else 101) (s.queuedOps w.job k cp) 64 = true → ∃ t, exec i s = .next t ∧
        ⟨s.cyc + 4, .engineEnqueue { o with id := s.seq, own := w, h := ⟨w, n, (s.thread w).hseq⟩, pc := p }⟩ ∈ t.agenda ∧
        t.pending w d = true ∧ t.rdH w d = HRef.word ⟨w, n, (s.thread w).hseq⟩ ∧ t.pcOf w = p + 12 ∧
        (rx = false → (t.thread w).ordAcc = some s.seq) ∧ (∀ r : HReg, r ≠ d → t.rdH w r = s.rdH w r) ∧ s.sameBytes t)
    (∀ x n, s.rangeFault w x n = match s.place w x with
      | none => some (.addr, x)
      | some (.scratch l off) => if s.reaches w (.scratch l off) = false then some (.addr, x)
          else if foot < off + n then some (.addr, x + BitVec.ofNat 64 (n - 1)) else none
      | some (.pool va) => if 2 ^ 48 < va + n then some (.addr, x + BitVec.ofNat 64 (n - 1)) else none
      | some _ => some (.addr, x)) ∧
    (∀ c va, s.rangeFault w dst imm.toNat = some (c, va) → exec (.copy g rx d a b imm) s = .next (s.trapAt w c p va 0)) ∧
    (∀ c va, s.rangeFault w dst imm.toNat = none → s.rangeFault w src imm.toNat = some (c, va) →
      exec (.copy g rx d a b imm) s = .next (s.trapAt w c p va 0)) ∧
    (s.rangeFault w dst imm.toNat = none → s.rangeFault w src imm.toNat = none →
      (imm ≠ 0 → enters (.copy g rx d a b imm) s
        { (default : EngOp) with kind := .copy, rx := rx, dst := dst, src := src, rowb := imm.toNat, rows := 1 } true) ∧
      (imm = 0 → ∀ n, (s.thread w).freeSlot = some n → ∃ t, exec (.copy g rx d a b imm) s = .next t ∧ t.pcOf w = p + 12 ∧
        t.pending w d = true ∧ ⟨s.cyc + 8, .handleCompletion ⟨w, n, (s.thread w).hseq⟩ 0 0⟩ ∈ t.agenda ∧ s.sameBytes t)) ∧
    (let off := imm.toNat
     let va : Word := BitVec.ofNat 64 (0x9 * 2 ^ 60 + off)
     (foot < off + 16 → exec (.copy2 g rx d a b imm) s = .next (s.trapAt w .addr p va 0)) ∧
     (off + 16 ≤ foot → off % 8 ≠ 0 → exec (.copy2 g rx d a b imm) s = .next (s.trapAt w .align p va 0)) ∧
     (off + 16 ≤ foot → off % 8 = 0 → s.seg w.job w.lcn % 64 = 0 →
      (s.granted w 120 = false → (∀ b, b < 16 → ∃ c, (s.pcore (s.phys w.job w.lcn)).bank.get? b = some c ∧ s.cyc ≤ c) →
        s.waitsForBlock w (.copy2 g rx d a b imm)) ∧
      (s.blockFree w w.lcn → s.cleanAt w.job w.lcn off 16 →
       let u := s.blockRead w w.lcn off 16
       let f (i : Nat) : Nat := s.scratchNat w.job w.lcn (off + i) 4
       let str (i : Nat) : Word := (BitVec.ofNat 32 (f i)).signExtend 64
       let far (x : Word) (i : Nat) : Word := x + BitVec.ofNat 64 (f 4 - 1) * str i
       let ranges : List (Word × Nat) := [(dst, f 0), (src, f 0), (far dst 8, f 0), (far src 12, f 0)]
       (∀ pre x post c va, ranges = pre ++ x :: post → (∀ y ∈ pre, s.rangeFault w y.1 y.2 = none) → s.rangeFault w x.1 x.2 = some (c, va) →
         f 4 ≠ 0 → exec (.copy2 g rx d a b imm) s = .next (u.trapAt w c p va 0)) ∧
       ((∀ y ∈ ranges, s.rangeFault w y.1 y.2 = none) → f 0 ≠ 0 → f 4 ≠ 0 → enters (.copy2 g rx d a b imm) u { (default : EngOp) with
         kind := .copy2, rx := rx, dst := dst, src := src, rowb := (f 0), rows := (f 4), dstr := (str 8), sstr := (str 12) } true) ∧
       ((∀ y ∈ ranges, s.rangeFault w y.1 y.2 = none) ∨ f 4 = 0 → f 0 = 0 ∨ f 4 = 0 → ∀ n, (s.thread w).freeSlot = some n →
         ∃ t, exec (.copy2 g rx d a b imm) s = .next t ∧ t.pcOf w = p + 12 ∧ t.pending w d = true ∧
           ⟨s.cyc + 8, .handleCompletion ⟨w, n, (s.thread w).hseq⟩ (BitVec.ofNat 64 (f 4 * 2 ^ 32)) 0⟩ ∈ t.agenda ∧ s.sameBytes t)))) ∧
    ∀ i k, (i = .gath g rx d a ∧ k = .gath) ∨ (i = .scat g rx d a ∧ k = .scat) →
      (∀ l off, s.place w dst = some (.scratch l off) → s.reaches w (.scratch l off) = true →
        ((s.job w.job).cluOf l ≠ (s.job w.job).cluOf w.lcn ∨ foot < off + 64 → exec i s = .next (s.trapAt w .addr p dst 0)) ∧
        ((s.job w.job).cluOf l = (s.job w.job).cluOf w.lcn → off + 64 ≤ foot → dst.toNat % 64 ≠ 0 →
          exec i s = .next (s.trapAt w .align p dst 0)) ∧
        ((s.job w.job).cluOf l = (s.job w.job).cluOf w.lcn → off + 64 ≤ foot → dst.toNat % 64 = 0 → s.seg w.job l % 64 = 0 →
          s.blockFree w l → s.cleanAt w.job l off 64 →
          let u := s.blockRead w l off 64
          let f (o n : Nat) : Nat := s.scratchNat w.job l (off + o) n
          let size := if f 36 4 % 2 = 1 then 8 else 4
          (f 0 8 / 2 ^ 60 ∈ [0x0, 0x8, 0x9, 0xA] → f 8 8 / 2 ^ 60 ∈ [0x8, 0x9, 0xA] → f 8 8 % size = 0 → f 16 8 / 2 ^ 60 = 0xA →
            let idx := BitVec.ofNat 64 (f 8 8 + f 28 4 * size)
            let n := f 24 4 - f 28 4
            let pack := BitVec.ofNat 64 (f 16 8 + f 28 4 * f 48 4)
            let m := if n = 0 then 0 else (n - 1) * f 48 4 + f 32 4
            (f 24 4 < f 28 4 → exec i s = .next (u.trapAt w .addr p dst 28)) ∧
            (f 28 4 ≤ f 24 4 → 0 < f 32 4 → f 32 4 ≤ 65536 → f 36 4 < 2 → f 32 4 ≤ f 48 4 → f 52 4 = 0 → f 56 8 = 0 →
              (∀ c va, s.rangeFault w idx (n * size) = some (c, va) → exec i s = .next (u.trapAt w c p va 0)) ∧
              (∀ c va, s.rangeFault w idx (n * size) = none → s.rangeFault w pack m = some (c, va) →
                exec i s = .next (u.trapAt w c p va 0)) ∧
              (s.rangeFault w idx (n * size) = none → s.rangeFault w pack m = none → enters i u { (default : EngOp) with
                kind := k, rx := rx, blk := dst, idx := BitVec.ofNat 64 (f 8 8),
                idx64 := decide (size = 8), dst := BitVec.ofNat 64 (f 16 8), src := BitVec.ofNat 64 (f 0 8), elem := (f 32 4),
                stride := BitVec.ofNat 64 (f 40 8), pitch := (f 48 4), count := (f 24 4), pos := (f 28 4) } false)))))) ∧
  (∀ (wr : Bool) (a : Word) (n : Nat) (pos : Option Nat) (mv : Nat) (data : List Byte),
    (∀ q ∈ moveReqs wr a n pos mv data, q.wr = wr ∧ q.st = .want ∧ q.pos = pos ∧ q.mv = mv ∧ q.at_ + q.len ≤ n ∧
      q.addr = a + BitVec.ofNat 64 q.at_ ∧ q.addr.toNat % 256 + q.len ≤ 256 ∧ q.data = (data.drop q.at_).take q.len) ∧
    ∀ x, x < n → ∃ q ∈ moveReqs wr a n pos mv data, q.at_ ≤ x ∧ x < q.at_ + q.len) ∧
  (∀ (s : State) (o : EngOp),
    let n := min 256 (o.rowb - 256 * o.chunk)
    let here (base str : Word) : Word := base + BitVec.ofNat 64 o.pos * str + BitVec.ofNat 64 (256 * o.chunk)
    EngOp.chunkReads o = moveReqs false (here o.src o.sstr) n none 0 [] ∧
    EngOp.chunkWrites o = moveReqs true (here o.dst o.dstr) n none 0 (readData (o.reqs.map Prod.snd)) ∧
    (∀ p, let e := o.src + o.got.getD p 0 * o.stride
      let q := o.dst + BitVec.ofNat 64 (p * o.pitch)
      let (from_, to_) := if o.kind = .gath then (e, q) else (q, e)
      o.kind = .gath ∨ o.kind = .scat → EngOp.posReads o p = moveReqs false from_ o.elem (some p) 0 [] ∧
        EngOp.posWrites o p 0 = moveReqs true to_ o.elem (some p) 0
          (readData ((o.reqs.map Prod.snd).filter fun x => x.pos == some p && x.mv == 0))) ∧
    (∀ i k, 0 < k → k = (if o.idx64 then 8 else 4) → i < (readData (o.reqs.map Prod.snd)).length / k →
      (EngOp.indices o).get? (o.pos + i) =
        some (BitVec.ofNat 64 (leNat (((readData (o.reqs.map Prod.snd)).drop (i * k)).take k)))) ∧
    (∀ ps, (s.binned o ps).Perm ps ∧ (s.binned o ps).Pairwise fun x y => s.binOf o x ≤ s.binOf o y) ∧
    ∀ (q : EngReq) (k a : Nat), EngOp.hides o q k a = true ↔
      ∃ p p' x n, q.pos = some p ∧ (p', k, x, n) ∈ o.wrote ∧ p < p' ∧ x ≤ a ∧ a < x + n) ∧
  ∀ (s : State) (j c id : Nat) (o : EngOp) (cp : Bool), s.op? j c cp id = some o → o.own.job = j → o.id = id →
    let event (r : Option Nat) : Event := if cp then .copyChunk j c id r else .gatherBatch j c id r
    let step (r : Option Nat) : Instr := if cp then .copyChunk j c ⟨id, r⟩ else .gatherBatch j c ⟨id, r⟩
    let beats (n : Nat) : Nat := max 1 ((n + 31) / 32)
    let at_ (t : State) (r : Nat) (q : EngReq) : Prop := ∃ o', t.op? j c cp id = some o' ∧ o'.reqs.get? r = some q
    (∀ r q l off pc, o.active = true → o.reqs.get? r = some q → s.canonical →
      s.place o.own q.addr = some (.scratch l off) → s.phys? j l = some pc →
      (s.serves j o.own.lcn l = false → q.st = .sent ∨ q.st = .banked → ∃ t, exec (step (some r)) s = .next t ∧
        ⟨s.cyc + 64, event (some r)⟩ ∈ t.agenda ∧ s.sameRegs t ∧ s.sameBytes t) ∧
      (s.serves j o.own.lcn l = true → q.st = .sent → ∃ t a, exec (step (some r)) s = .next t ∧ at_ t r { q with st := .banked } ∧
        s.cyc ≤ a ∧ ⟨a, event (some r)⟩ ∈ t.agenda ∧ s.sameRegs t ∧ s.sameBytes t ∧
        (q.len ≤ 256 → (∀ b x, (s.pcore pc).bank.get? b = some x → x < s.cyc) → a = s.cyc)) ∧
      (s.serves j o.own.lcn l = true → q.st = .banked → s.cleanAt j l off q.len → s.seg j l % 64 = 0 → ∃ t, exec (step (some r)) s = .next t ∧
        s.sameRegs t ∧ t.pool = s.pool ∧ t.host = s.host ∧
        (s.phys? j o.own.lcn = some pc → ⟨s.cyc + ((if q.wr then 1 else beats q.len) - 1), event (some r)⟩ ∈ t.agenda) ∧
        (q.wr = true → q.data.length = q.len → at_ t r { q with st := .performed } ∧
          ∀ pc' b, (t.pcore pc').mem.read b = if pc' = pc ∧ s.seg j l + off ≤ b ∧ b < s.seg j l + off + q.len ∧
              EngOp.hides o q l (b - s.seg j l) = false
            then q.data.getD (b - (s.seg j l + off)) 0 else (s.pcore pc').mem.read b) ∧
        (q.wr = false → s.sameBytes t ∧
          let got := (List.range q.len).map fun i => (s.pcore pc).mem.read (s.seg j l + off + i)
          at_ t r { q with st := .performed, data := got }))) ∧
    (∀ r q, o.active = true → o.reqs.get? r = some q → (∀ l off, s.place o.own q.addr ≠ some (.scratch l off)) → q.st = .sent →
      ∃ t i k, exec (step (some r)) s = .next t ∧ s.sameRegs t ∧ (∀ pc b, (t.pcore pc).mem.read b = (s.pcore pc).mem.read b) ∧
        t.host = s.host ∧ t.packets.get? i = some k ∧ k.payload = event (some r) ∧ k.chan = .rsp ∧ s.cyc + 12 ≤ k.floor ∧
        k.beats = (if q.wr then 1 else beats q.len) ∧
        (q.wr = true → q.data.length = q.len → at_ t r { q with st := .performed } ∧ ∀ b, t.poolByte b =
          if q.pa ≤ b ∧ b < q.pa + q.len ∧ EngOp.hides o q 2000 b = false then q.data.getD (b - q.pa) 0 else s.poolByte b) ∧
        (q.wr = false → s.sameBytes t ∧
          at_ t r { q with st := .performed, data := (List.range q.len).map fun i => s.poolByte (q.pa + i) })) ∧
    (∀ r q, o.active = true → o.reqs.get? r = some q → q.st = .performed → ∃ t, exec (step (some r)) s = .next t ∧
      at_ t r { q with st := .done, slice := none } ∧ ⟨s.cyc, event none⟩ ∈ t.agenda ∧ s.sameRegs t ∧ s.sameBytes t) ∧
    (o.active = true → o.fail = none → o.flt = none → o.phase = 0 →
      (o.reqs = [] → s.carrier j c = none → exec (step none) s = .next s) ∧
      (o.reqs = [] → s.carrier j c ≠ none → o.cancel = true ∨ (if cp then o.rows else o.count) ≤ o.pos →
        ∃ t o', exec (step none) s = .next t ∧ t.op? j c cp id = some o' ∧ o'.stop = some (if o.cancel then 5 else 0) ∧
          ⟨s.cyc, if cp then .copyResolve j c id else .gatherResolve j c id⟩ ∈ t.agenda ∧ s.sameRegs t ∧ s.sameBytes t) ∧
      (cp = true → o.reqs ≠ [] → (∀ x ∈ o.reqs, x.2.st = .done) → (∃ x ∈ o.reqs, x.2.wr = true) →
        exec (step none) s = .next ((s.modOp j c true id fun o =>
          if o.rowb ≤ 256 * (o.chunk + 1) then { o with pos := o.pos + 1, chunk := 0, reqs := [] }
          else { o with chunk := o.chunk + 1, reqs := [] }).later 0 (event none))) ∧
      (cp = false → o.reqs ≠ [] → (∀ x ∈ o.reqs, x.2.st = .done) →
        exec (step none) s = .next ((s.modOp j c false id fun o => { o with phase := 1, got := EngOp.indices o, reqs := [] }).later 0
          (event none)))) ∧
    (∀ va, cp = true → o.active = true → o.fail = some (va, 0) → (∀ x ∈ o.reqs, x.2.st = .want ∨ x.2.st = .done) →
      ∃ t o', exec (step none) s = .next t ∧ t.op? j c true id = some o' ∧ o'.stop = some 4 ∧ o'.active = false ∧
        ((∀ x ∈ o.reqs, x.2.wr = false) → o'.doneB = 0) ∧
        (∀ x ∈ o.reqs, x.2.wr = true → x.2.st ≠ .done → o'.doneB ≤ x.2.at_) ∧ s.sameRegs t ∧ s.sameBytes t) ∧
    (let word (st n : Nat) (o : EngOp) : Word := BitVec.ofNat 64 (n % 2 ^ 32 * 2 ^ 32 + (if o.subst then 256 else 0) +
       (if o.guardHit then 512 else 0) + if st = 0 ∧ o.guardHit = true then 2 else st)
     let resolves (i : Instr) (st n : Nat) : Prop := ∃ t, exec i s = .next t ∧ (∀ x ∈ (t.clu j c).ops cp, x.id ≠ id) ∧ s.sameRegs t ∧
       s.sameBytes t ∧ ⟨s.cyc + 8, .handleCompletion o.h (word st n o) (if o.subst then fSB else 0)⟩ ∈ t.agenda
     (∀ st, cp = true → o.stop = some st → resolves (.copyResolve j c id) st.toNat
       (if o.kind = .copy then (if o.rows ≤ o.pos then o.rowb else 256 * o.chunk + o.doneB) else o.pos)) ∧
     (cp = false → o.kind ≠ .pfetch → o.stop = some 0 → resolves (.gatherResolve j c id) 0 o.count) ∧
     (∀ st l off, cp = false → o.kind ≠ .pfetch → o.stop = some st → st ≠ 0 → s.canonical →
       s.place o.own (o.blk + 28) = some (.scratch l off) → s.cleanAt j l off 4 → off % 4 = 0 →
       ∃ t, exec (.gatherResolve j c id) s = .next t ∧ t.scratchNat j l off 4 = o.pos % 2 ^ 32 ∧
         ⟨s.cyc + 8, .handleCompletion o.h (word st.toNat o.pos o) (if o.subst then fSB else 0)⟩ ∈ t.agenda)) ∧
    (∀ (q : EngOp) (p : Nat) (e : BitVec 32), q.own.job = j → (s.job j).cluOf q.own.lcn = c → q.kind.isCopy = cp → q.active = false →
      q.stop = none → s.carrier j c = some (p, e) → s.jobAt p = j → s.carriedBy p = [c] →
      (∀ x ∈ (s.clu j c).ops cp, x.active = true ∧ x.id ≠ q.id) → ((s.clu j c).ops cp).length < (if cp then 4 else 2) →
      ∃ t, exec (.engineEnqueue q) s = .next t ∧ t.op? j c cp q.id = some { q with active := true } ∧
        ⟨s.cyc, if cp then .copyChunk j c q.id none else .gatherBatch j c q.id none⟩ ∈ t.agenda ∧ s.sameRegs t ∧ s.sameBytes t)

/-- The thread w has gone on to its next instruction, and every register that no instruction names for a result and every
byte of memory is as it was. -/
def Sys2Proof.Machine.State.goesOn (s t : State) (w : Tid) : Prop := t.pcOf w = s.pcOf w + 12 ∧ s.sameRegs t ∧ s.sameBytes t

/-- The thread w is bound to no end of a product any more. -/
def Sys2Proof.Machine.State.unboundFrom (t : State) (w : Tid) (k pid : Nat) : Prop :=
  ∀ x ∈ (t.thread w).binds, ¬(x.2.link = k ∧ x.2.pid = pid)

/-- With the guard on: sopen and sjoin trap as R269 orders, park for a handle entry, or present their arrival 2 cycles
on; sround starts a new round; sfeed, sscale and sclose act on the thread's binding, trap as R274, R276 and R278
order, and else queue the feed (or park behind four), take the scales, or close the product, and the binding is
released; sclose with rdl acts on a slot that is held by a product this thread led, and starts its delivery again,
once both ends of the link are there, or frees it; sabort aborts the product of the slot if this thread is a party,
at once or at the end of its K-step; sstat reads an item, the log of a slot also after its product has left. (R267,
R268, R269, R271, R274, R276, R278, R280, R281, R282, R286) -/
def Obligations.SpanInstructions : Prop :=
  ∀ (s : State) (g : Gd), s.guardOn s.cur g = true →
    let w := s.cur
    let j := w.job
    let b := s.job j
    let p := s.pcOf w
    let th := s.thread w
    let spanTrap (c : Cause) (k tag sub : Nat) : State := s.trapAt w c p 0 (BitVec.ofNat 64 (k + tag * 2 ^ 16 + sub * 2 ^ 32))
    (∀ l dir, b.linkOf l dir = match dir with
        | .e => if b.xOf l + 1 < b.w then some (2 * l) else none
        | .n => if b.yOf l + 1 < b.h then some (2 * l + 1) else none
        | .w => if 0 < b.xOf l then some (2 * (l - 1)) else none
        | .s => if 0 < b.yOf l then some (2 * (l - b.w) + 1) else none) ∧
    (∀ l dir, b.linkId l dir < 65536 ∧ ∀ k, b.linkOf l dir = some k → 2 * l + 1 < 65536 → b.linkId l dir = k) ∧
    (∃ t, exec (.sround g) s = .next t ∧ (t.thread w).ordRound = th.ordRound + 1 ∧ (t.thread w).ordLink = 0 ∧ s.goesOn t w) ∧
    (∀ (dir : Dir) (ty : Ty) (slot : BitVec 2) (scl keep bop lead : Bool) (d : HReg) (a e : SReg),
      let i : Instr := if lead then .sopen g ty dir slot scl keep bop d a e else .sjoin g ty dir scl d a e
      let tag := (s.rd w a).toNat % 2 ^ 16
      let kt := (s.rd w e).toNat % 2 ^ 16
      (b.linkOf w.lcn dir = none → exec i s = .next (spanTrap .spanLink (b.linkId w.lcn dir) tag 0)) ∧
      ∀ k, b.linkOf w.lcn dir = some k →
        (kt = 0 → exec i s = .next (spanTrap .spanState k tag 1)) ∧
        (kt ≠ 0 → th.binds.get? dir.code.toNat ≠ none → exec i s = .next (spanTrap .spanState k tag 2)) ∧
        (kt ≠ 0 → th.binds.get? dir.code.toNat = none →
          (k + 1 ≤ th.ordLink.toNat → exec i s = .next (spanTrap .spanOrder k tag 0)) ∧
          (th.ordLink.toNat < k + 1 →
            (th.freeSlot = none → exec i s = .next (s.park w .engq 0 false .reissue)) ∧
            (th.freeSlot ≠ none → exec i s = .next ((s.stallFor w .home).later 2 (.spanArrival
              ⟨w, dir, k, lead, BitVec.ofNat 16 tag, th.ordRound, ty, scl, kt, if lead then slot.toNat else 0, lead && keep, lead && bop, d⟩)))))) ∧
    (∀ (dir : Dir) (a e : SReg) (imm : BitVec 32) (ty : Ty) (rm : Rm) (sat : Bool), th.binds.get? dir.code.toNat = none →
      ∀ i, i = .sfeed g dir a e imm ∨ i = .sscale g dir a e ∨ i = .sclose g ty rm sat dir a e imm →
        exec i s = .next (spanTrap .spanState (b.linkId w.lcn dir) 0 3)) ∧
    (∀ (dir : Dir) (a e : SReg) (imm : BitVec 32) (ty : Ty) (rm : Rm) (sat : Bool) (bd : Bind) (q : Product),
      th.binds.get? dir.code.toNat = some bd → s.prod? j bd.link bd.pid = some q →
      let k := b.linkId w.lcn dir
      let me := q.side bd.lead
      let base := s.rd w a
      let y := s.rd w e
      let kb := (q.kt + 1) / 2
      let state (i : Instr) (n : Nat) : Prop := exec i s = .next (spanTrap .spanState k 0 n)
      let fault (i : Instr) (c : Cause) : Prop := exec i s = .next (s.trapAt w c p base 0)
      (let i : Instr := .sfeed g dir a e imm
       let count := imm.toNat % 65536
       let first := imm.toNat / 65536
       let stride := y.toNat % 2 ^ 32
       let n0 := y.toNat / 2 ^ 32 % 64
       let n := if n0 = 0 then 32 else n0
       (first ≠ me.fp → state i 5) ∧ (first = me.fp → count = 0 ∨ q.kt < me.fp + count → state i 6) ∧
       (first = me.fp → count ≠ 0 → me.fp + count ≤ q.kt →
         (32 < n0 → state i 7) ∧ (n0 ≤ 32 → base.toNat % 64 ≠ 0 ∨ stride % 64 ≠ 0 → fault i .align) ∧
         (n0 ≤ 32 → base.toNat % 64 = 0 → stride % 64 = 0 →
           ((∀ off, s.place w base = some (.scratch w.lcn off) → b.foot < off + ((n - 1) * stride + 64 * count)) → fault i .addr) ∧
           ∀ off, s.place w base = some (.scratch w.lcn off) → off + ((n - 1) * stride + 64 * count) ≤ b.foot →
             (4 ≤ me.feeds.length → exec i s = .next (s.park w .engq (BitVec.ofNat 64 (0x100 + dir.code.toNat)) false .reissue)) ∧
             (me.feeds.length < 4 → ∃ t q', exec i s = .next t ∧ s.goesOn t w ∧ t.prod? j bd.link bd.pid = some q' ∧
               (q'.side bd.lead).fp = me.fp + count ∧
               (q'.side bd.lead).feeds = me.feeds ++ [⟨s.seq, s.cyc, off, stride, n, first, count⟩] ∧
               (q'.side (!bd.lead)).fp = (q.side (!bd.lead)).fp ∧ (q'.side (!bd.lead)).feeds = (q.side (!bd.lead)).feeds ∧
               (∀ x, (q'.side x).buf = (q.side x).buf ∧ (q'.side x).sp = (q.side x).sp ∧ (q'.side x).scales = (q.side x).scales) ∧
               (bd.lead = false → q.partner.w = w → first + count = q.kt → q.scl = false ∨ q.partner.sp = kb →
                 t.unboundFrom w bd.link bd.pid))))) ∧
      (let i : Instr := .sscale g dir a e
       let first := y.toNat % 2 ^ 16
       let count := y.toNat / 2 ^ 16 % 2 ^ 16
       let per := if bd.lead then 32 else 1
       (q.scl = false ∨ count = 0 ∨ first ≠ me.sp ∨ kb < first + count → state i 8) ∧
       (q.scl = true → count ≠ 0 → first = me.sp → first + count ≤ kb →
         (base.toNat % 4 ≠ 0 → fault i .align) ∧
         (base.toNat % 4 = 0 →
           ((∀ off, s.place w base = some (.scratch w.lcn off) → b.foot < off + 4 * per * count) → fault i .addr) ∧
           (∀ off, s.place w base = some (.scratch w.lcn off) → off + 4 * per * count ≤ b.foot → s.granted w 120 = false →
             512 < 4 * per * count → s.waitsForBlock w i) ∧
           ∀ off, s.place w base = some (.scratch w.lcn off) → off + 4 * per * count ≤ b.foot → s.cleanAt j w.lcn off (4 * per * count) →
             s.granted w 120 = true ∨ (s.blockFree w w.lcn ∧ 4 * per * count ≤ 256) →
             ∃ t q', exec i s = .next t ∧ s.goesOn t w ∧ t.prod? j bd.link bd.pid = some q' ∧ (q'.side bd.lead).sp = first + count ∧
               (∀ n, n < count → (q'.side bd.lead).scales.get? (first + n) = some ((List.range per).map fun r =>
                 BitVec.ofNat 32 (s.scratchNat j w.lcn (off + 4 * (per * n + r)) 4))) ∧
               (bd.lead = false → q.partner.w = w → first + count = kb → q.partner.fp = q.kt → t.unboundFrom w bd.link bd.pid)))) ∧
      let i : Instr := .sclose g ty rm sat dir a e imm
      let mask (mv nv : Nat) : Prop := 1 ≤ mv ∧ mv ≤ 32 ∧ 1 ≤ nv ∧ nv ≤ 32 ∧ imm.toNat = mv + 256 * nv
      (bd.lead = false → state i 4) ∧ (bd.lead = true → me.fp ≠ q.kt ∨ (q.scl = true ∧ me.sp ≠ kb) → state i 9) ∧
      (bd.lead = true → me.fp = q.kt → q.scl = false ∨ me.sp = kb →
        ((imm ≠ 0x10000 ∧ ∀ mv nv, ¬mask mv nv) → state i 10) ∧
        let done (pl mv nv : Nat) : Prop := ∃ t q', exec i s = .next t ∧ s.goesOn t w ∧ t.unboundFrom w bd.link bd.pid ∧
          t.prod? j bd.link bd.pid = some q' ∧
          q'.close = some ⟨p, base, (y.extractLsb' 0 32).signExtend 64, y.toNat / 2 ^ 32 % 2 ^ 21, pl, mv, nv, decide (imm = 0x10000), ty, rm, sat, false⟩ ∧
          (q.st ≠ .held → q.st ≠ .accumulating ∨ q.promoted ≠ q.kt ∨ s.linkUp j bd.link = false → q' = { q with close := q'.close }) ∧
          (q.st = .accumulating → q.promoted = q.kt → s.linkUp j bd.link = true → q'.st = .delivering ∧
            if imm = 0x10000 then ⟨s.cyc, .spanResolve j bd.link bd.pid⟩ ∈ t.agenda else q'.row = 0)
        (imm = 0x10000 → done w.lcn 0 0) ∧
        ∀ mv nv, mask mv nv →
          let wb := ty.outBytes
          let stride := ((y.extractLsb' 0 32).signExtend 64 : Word)
          let doff := y.toNat / 2 ^ 32 % 2 ^ 21
          let far := ((mv : Int) - 1) * stride.toInt
          let range := s.tilePlace w base (min 0 far) (max 0 far + nv * wb - 1)
          (range = none → ∃ va, exec i s = .next (s.trapAt w .addr p va 0)) ∧
          (range ≠ none → base.toNat % wb ≠ 0 ∨ stride.toNat % wb ≠ 0 ∨ doff % 8 ≠ 0 → fault i .align) ∧
          ∀ pl, range = some pl → base.toNat % wb = 0 → stride.toNat % wb = 0 → doff % 8 = 0 →
            (b.foot ≤ doff → fault i .addr) ∧ (doff < b.foot → done (match pl with | .scratch l _ => l | _ => w.lcn) mv nv))) ∧
    (∀ (dir : Dir) (slot : BitVec 2) (a e : SReg) (imm : BitVec 32) (ty : Ty) (rm : Rm) (sat : Bool),
      let i : Instr := .scloseRdl g ty rm sat dir slot a e imm
      ((∀ k pid q, b.linkOf w.lcn dir = some k → (s.link j k).occupant.get? slot.toNat = some pid → s.prod? j k pid = some q →
          ¬(q.st = .held ∧ q.lead.w = w)) → exec i s = .next (spanTrap .spanState (b.linkId w.lcn dir) 0 11)) ∧
      ∀ k pid q, b.linkOf w.lcn dir = some k → (s.link j k).occupant.get? slot.toNat = some pid → s.prod? j k pid = some q →
        q.st = .held → q.lead.w = w →
        (imm = 0x10000 → ∃ t, exec i s = .next t ∧ s.goesOn t w ∧ t.prod? j k pid = none ∧ (t.link j k).acc = (s.link j k).acc) ∧
        ∀ c, s.closeRec ty rm sat true (b.linkId w.lcn dir) a e imm = .ok c → c.nd = false → ∃ t q', exec i s = .next t ∧ s.goesOn t w ∧
          t.prod? j k pid = some q' ∧ q'.close = some c ∧ q'.flags = q.flags ∧
          (s.linkUp j k = true → q'.st = .delivering ∧ q'.row = 0) ∧ (s.linkUp j k = false → q'.st = .held) ∧
          (t.link j k).acc = (s.link j k).acc) ∧
    (∀ (dir : Dir) (slot : BitVec 2),
      let i : Instr := .sabort g dir slot
      ((∀ k pid q, b.linkOf w.lcn dir = some k → (s.link j k).occupant.get? slot.toNat = some pid → s.prod? j k pid = some q →
          q.lead.w ≠ w ∧ q.partner.w ≠ w) → exec i s = .next (s.advance w)) ∧
      ∀ k pid q, b.linkOf w.lcn dir = some k → (s.link j k).occupant.get? slot.toNat = some pid → s.prod? j k pid = some q →
        q.lead.w = w ∨ q.partner.w = w → ∃ t, exec i s = .next t ∧ s.goesOn t w ∧ (t.link j k).acc = (s.link j k).acc ∧
          (∀ v, v = q.lead.w ∨ v = q.partner.w → t.unboundFrom v k pid) ∧
          ((s.link j k).busy = some pid → ∃ q', t.prod? j k pid = some q' ∧ q'.abort = true ∧ q'.lead.feeds = [] ∧ q'.partner.feeds = []) ∧
          ((s.link j k).busy ≠ some pid → t.prod? j k pid = none ∧ (q.resolved = false → ∀ h, h = q.lead.h ∨ h = q.partner.h →
            ⟨s.cyc, .handleCompletion h (BitVec.ofNat 64 (9 + q.slot * 2 ^ 8 + q.tag.toNat * 2 ^ 16 + q.promoted * 2 ^ 32)) 0⟩ ∈ t.agenda))) ∧
    ∀ (d a : SReg),
      let sel := s.rd w a
      let dir := Dir.ofCode (sel.setWidth 2)
      let item (n : Nat) : Prop := sel.toNat / 16 % 16 = n
      let gives (v : Word) : Prop := s.yields (.sstat g d a) 12 [.s d v] 0
      (b.linkOf w.lcn dir = none → exec (.sstat g d a) s = .next (spanTrap .spanLink (b.linkId w.lcn dir) 0 0)) ∧
      ∀ k, b.linkOf w.lcn dir = some k →
        let l := s.link j k
        let slot := sel.toNat / 4 % 4
        let acc := ((l.elems slot).getD (sel.toNat / 256 % 1024) 0).toNat
        (∃ v, gives v) ∧ (item 4 → gives (BitVec.ofNat 64 (acc % 2 ^ 64))) ∧ (item 5 → gives (BitVec.ofNat 64 (acc / 2 ^ 64))) ∧
        (item 0 → (∀ q ∈ l.prods, q.slot ≠ slot) → gives 0) ∧
        (l.occupant.get? slot = none → ∀ es more, l.logs.get? slot = some (es, more) →
          (item 2 → gives (BitVec.ofNat 64 (es.length + if more then 32 else 0))) ∧
          (item 3 → gives ((es.getD (sel.toNat / 256 % 16) 0).zeroExtend 64))) ∧
        ∀ q, (l.prods.find? fun x => x.slot == slot && l.occupant.get? slot == some x.pid) = some q → s.prod? j k q.pid = some q →
          (item 0 → gives (BitVec.ofNat 64 ((match q.st with | .awaiting => 1 | .accumulating => 2 | .delivering => 3 | .held => 4) +
            (if q.keep then 8 else 0) + q.t.code.toNat * 16 + (if q.scl then 256 else 0) + (if q.bop then 512 else 0) +
            (if q.lead.w.lcn = w.lcn then 1024 else 0) + q.tag.toNat * 2 ^ 16 + q.kt * 2 ^ 32 + q.promoted * 2 ^ 48))) ∧
          (item 1 → gives (BitVec.ofNat 64 (q.lead.fp + q.partner.fp * 2 ^ 16 + q.lead.sp * 2 ^ 32 + q.partner.sp * 2 ^ 48))) ∧
          (item 2 → gives (BitVec.ofNat 64 (q.log.length + if q.logMore then 32 else 0))) ∧
          (item 3 → gives ((q.log.getD (sel.toNat / 256 % 16) 0).zeroExtend 64))

/-- An arrival at an empty queue, or one of its own end, queues; one from the other end takes SPAN_TAG with the lowest
sub-cause, or pairs: a product forms, or both handles resolve MISMATCH. A product takes its slot with elements zero
unless keep; a port reads the rows of the next K-step, one in each turn of its banks, the partner's travelling to
the lead core under emulation; a K-step's exact sums are Σ a·b of finite elements (for b1 the set bits of AND or
XOR); a promotion adds them to the accumulator, for i8 and b1 clamped, with scl scaled by both scales of the block
and rounded once; delivery writes exactly the row's bytes, to scratch or in requests to the pool; the done word is
written full, its FE bit set; both handles resolve with the status of R279, and the slot is free or, after a stop,
held. (R270, R273, R275, R154, R155, R156, R157, R278, R279, R280, R286, R291) -/
def Obligations.SpanSteps : Prop :=
  (∀ (s : State) (a : SpanArr), (s.thread a.w).stall = some .home →
    let w := a.w
    let j := w.job
    let k := a.link
    let queue := (s.link j k).queue
    ((∀ x ∈ queue.head?, x.arr.w.lcn = w.lcn) → ∃ t x, exec (.spanArrival a) s = .next t ∧ (t.link j k).queue = queue ++ [x] ∧ x.arr = a ∧
      (t.thread w).ordLink = BitVec.ofNat 16 (k + 1) ∧ (t.thread w).binds.get? a.dir.code.toNat = some ⟨k, x.pid, a.lead⟩ ∧
      x.h = ⟨w, (s.thread w).freeSlot.getD 0, (s.thread w).hseq⟩ ∧ (t.thread w).handles.get? x.h.slot ≠ none ∧
      (∃ n, ⟨n, s.cyc + 8, [.h a.d (HRef.word x.h)], 0⟩ ∈ (t.thread w).landings ∧ ⟨s.cyc + 8, .resultLands w n⟩ ∈ t.agenda) ∧ (t.thread w).st = .parked ∧ t.pcOf w = s.pcOf w ∧
      (∀ y ∈ (t.thread w).wait, y.kind = .rendezvous ∧ y.obj = BitVec.ofNat 64 (k + a.tag.toNat * 2 ^ 16)) ∧ s.sameBytes t) ∧
    ∀ x rest, queue = x :: rest → x.arr.w.lcn ≠ w.lcn → x.arr.w.job = j → x.arr.link = k →
      let h := x.arr
      let why : Option Nat := if h.lead = a.lead then some 1 else if h.tag ≠ a.tag then some 2 else if h.round ≠ a.round then some 3
        else if h.t ≠ a.t then some 4 else if h.scl ≠ a.scl then some 5 else none
      (∀ n, why = some n → exec (.spanArrival a) s = .next ((s.unstall w).trapAt w .spanTag (s.pcOf w) 0
        (BitVec.ofNat 64 (k + a.tag.toNat * 2 ^ 16 + n * 2 ^ 32)))) ∧
      (why = none →
        let ld := if a.lead then a else h
        let pt := if a.lead then h else a
        let mine : HRef := ⟨w, (s.thread w).freeSlot.getD 0, (s.thread w).hseq⟩
        (h.kt = a.kt → ∃ t q, exec (.spanArrival a) s = .next t ∧ (t.link j k).queue = rest ∧ (t.link j k).prods = (s.link j k).prods ++ [q] ∧
          q.slot = ld.slot ∧ q.tag = a.tag ∧ q.t = a.t ∧ q.scl = a.scl ∧ q.keep = ld.keep ∧ q.bop = ld.bop ∧ q.kt = a.kt ∧ q.lead.w = ld.w ∧
          q.partner.w = pt.w ∧ (q.side a.lead).h = mine ∧ (q.side h.lead).h = x.h ∧ q.lead.fp = 0 ∧ q.partner.fp = 0 ∧ q.done = 0 ∧ q.promoted = 0 ∧ q.st = .awaiting ∧
          ⟨s.cyc + 2, .spanSlotTake j k q.pid⟩ ∈ t.agenda ∧ t.pcOf w = s.pcOf w + 12 ∧ t.pcOf h.w = s.pcOf h.w + 12 ∧ s.sameBytes t) ∧
        (h.kt ≠ a.kt → ∃ t, exec (.spanArrival a) s = .next t ∧ (t.link j k).queue = rest ∧ (t.link j k).prods = (s.link j k).prods ∧
          (t.thread w).binds.get? a.dir.code.toNat = none ∧ (t.thread h.w).binds.get? h.dir.code.toNat = none ∧
          ⟨s.cyc + 8, .handleCompletion x.h (BitVec.ofNat 64 (8 + ld.slot * 2 ^ 8 + ld.tag.toNat * 2 ^ 16 + a.kt * 2 ^ 32)) 0⟩ ∈ t.agenda ∧
          ⟨s.cyc + 8, .handleCompletion mine (BitVec.ofNat 64 (8 + ld.slot * 2 ^ 8 + ld.tag.toNat * 2 ^ 16 + h.kt * 2 ^ 32)) 0⟩ ∈ t.agenda ∧
          t.pcOf w = s.pcOf w + 12 ∧ t.pcOf h.w = s.pcOf h.w + 12 ∧ s.sameBytes t))) ∧
  (∀ (s : State) (j k pid : Nat) (p : Product), s.prod? j k pid = some p →
    let l := s.link j k
    let keeps (t : State) : Prop := s.sameRegs t ∧ s.sameBytes t
    (p.st = .awaiting → l.occupant.get? p.slot = none → l.nextFor p.slot = some p → ∃ t, exec (.spanSlotTake j k pid) s = .next t ∧
      keeps t ∧ (t.link j k).occupant.get? p.slot = some pid ∧ (t.link j k).logs.get? p.slot = none ∧
      (∃ q, t.prod? j k pid = some q ∧ q.st = .accumulating ∧ q.log = p.log ∧ q.done = p.done ∧ q.promoted = p.promoted ∧ q.part = p.part ∧
        ∀ x, (q.side x).feeds = (p.side x).feeds ∧ (q.side x).buf = (p.side x).buf) ∧
      (p.keep = true → (t.link j k).acc = l.acc) ∧ (p.keep = false → ∀ e, ((t.link j k).elems p.slot).getD e 0 = 0) ∧
      ∀ n, n ≠ p.slot → (t.link j k).elems n = l.elems n) ∧
    (∀ (lead : Bool) (f : Feed) (fs : List Feed) (pc : Nat), let e := p.side lead
      let r := e.rows.length
      e.feeds = f :: fs → s.phys? j e.w.lcn = some pc → f.rows ≤ 32 →
      (r < f.rows → e.sent = false → s.cleanAt j e.w.lcn (f.base + r * f.stride) 64 →
        e.turnAt = some s.cyc ∨ (∀ b c, (s.pcore pc).bank.get? b = some c → c < s.cyc) →
        ∃ t q, exec (.spanPortRead j k pid lead) s = .next t ∧ keeps t ∧ t.prod? j k pid = some q ∧
          (q.side lead).rows = e.rows ++ [BitVec.ofNat 512 (s.scratchNat j e.w.lcn (f.base + r * f.stride) 64)] ∧
          (q.side lead).guardHit = e.guardHit ∧ (q.side lead).feeds = e.feeds ∧ (q.side lead).buf = e.buf ∧
          q.log = p.log.take 16 ∧ q.flags = p.flags ∧ q.side (!lead) = p.side (!lead) ∧
          ⟨if r + 1 < f.rows then s.cyc + 1 else max (s.cyc + 1) (e.begun + 32), .spanPortRead j k pid lead⟩ ∈ t.agenda) ∧
      (f.rows ≤ r → e.sent = false → lead = false → s.emulated j k p = true → ∃ t q, exec (.spanPortRead j k pid lead) s = .next t ∧
        keeps t ∧ t.prod? j k pid = some q ∧ (q.side lead).sent = true ∧ (q.side lead).buf = e.buf) ∧
      (e.sent = true ∨ (f.rows ≤ r ∧ (lead = true ∨ s.emulated j k p = false)) → ∃ t q, exec (.spanPortRead j k pid lead) s = .next t ∧
        keeps t ∧ t.prod? j k pid = some q ∧
        (q.side lead).buf = e.buf ++ [⟨e.rows ++ List.replicate (32 - r) 0, s.cyc⟩] ∧
        (q.side lead).feeds = (if f.count ≤ 1 then fs else ⟨f.seq, f.since, f.base + 64, f.stride, f.rows, f.first + 1, f.count - 1⟩ :: fs) ∧
        (q.side (!lead)).feeds = (p.side (!lead)).feeds ∧ (q.side (!lead)).buf = (p.side (!lead)).buf)) ∧
    (∀ i, i = .spanKstep j k pid ∨ i = .spanEmulKstep j k pid →
      (p.abort = true → ∃ t, exec i s = .next t ∧ t.prod? j k pid = none ∧ keeps t) ∧
      ∀ a as b bs, p.abort = false → p.lead.buf = a :: as → p.partner.buf = b :: bs → a.rows.length = 32 → b.rows.length = 32 →
        let blk := if p.scl then p.done / 2 else p.done
        ∃ t q, exec i s = .next t ∧ keeps t ∧ t.prod? j k pid = some q ∧ q.done = p.done + 1 ∧ q.lead.buf = as ∧ q.partner.buf = bs ∧
          ∀ r c, r < 32 → c < 32 → p.part.getD blk [] = [] → ∃ x : Int × Int, (q.part.getD blk [])[32 * r + c]? = some x ∧
            let u := a.rows.getD r 0
            let v := b.rows.getD c 0
            (p.t = .b1 → x = ((((List.finRange 512).countP fun i => (if p.bop then u ^^^ v else u &&& v).getLsbD i.val : Nat) : Int), 0)) ∧
            (p.t ≠ .b1 → (∀ y ∈ p.t.kRow u ++ p.t.kRow v, y.special = 0) →
              (x.1 : ℚ) * 2 ^ x.2 = (((p.t.kRow u).zip (p.t.kRow v)).map fun y => ((y.1.d.n : ℚ) * 2 ^ y.1.d.q) * (y.2.d.n * 2 ^ y.2.d.q)).sum)) ∧
    (p.st = .accumulating → p.scl = false → p.promoted < p.done → ∃ t q, exec (.spanPromote j k pid) s = .next t ∧ keeps t ∧
      t.prod? j k pid = some q ∧ q.promoted = p.promoted + 1 ∧ ∀ e, e < 1024 →
        let acc := (l.elems p.slot).getD e 0
        let x := (p.part.getD p.promoted []).getD e (0, 0)
        let next := ((t.link j k).elems p.slot).getD e 0
        (∀ top : Int, p.t = .i8 ∧ top = 2 ^ 79 ∨ p.t = .b1 ∧ top = 2 ^ 31 → next.toInt = max (-top) (min (top - 1) (acc.toInt + x.1))) ∧
        ∀ v : ℝ, p.t ≠ .i8 → p.t ≠ .b1 → (p.marks.getD p.promoted []).getD e 0 = 0 → (Ty.a80.value acc.toNat).Is v →
          v + x.1 * (2 : ℝ) ^ x.2 ≠ 0 → ∃ f, Ty.a80.Rounds .rne false (v + x.1 * (2 : ℝ) ^ x.2) next.toNat f) ∧
    (∀ sa sb, p.st = .accumulating → p.scl = true → p.promoted < p.kt → let b := p.promoted / 2
      let n := min (2 * b + 2) p.kt
      n ≤ p.done → p.lead.scales.get? b = some sa → p.partner.scales.get? b = some sb → p.t ≠ .i8 → p.t ≠ .b1 →
      ∃ t q, exec (.spanPromote j k pid) s = .next t ∧ keeps t ∧ t.prod? j k pid = some q ∧ q.promoted = n ∧ ∀ e, e < 1024 →
        let acc := (l.elems p.slot).getD e 0
        let x := (p.part.getD b []).getD e (0, 0)
        let fa := Ty.f32.value (sa.getD (e / 32) 0).toNat
        let fb := Ty.f32.value (sb.getD 0 0).toNat
        let next := ((t.link j k).elems p.slot).getD e 0
        (sb ≠ [] → fa.isNan = true ∨ fb.isNan = true → next.toNat = Ty.a80.canonNan ∧ q.flags &&& fIV = fIV) ∧
        ∀ v y z : ℝ, sb ≠ [] → (p.marks.getD b []).getD e 0 = 0 → (Ty.a80.value acc.toNat).Is v → fa.Is y → fb.Is z →
          v + x.1 * (2 : ℝ) ^ x.2 * y * z ≠ 0 → ∃ f, Ty.a80.Rounds .rne false (v + x.1 * (2 : ℝ) ^ x.2 * y * z) next.toNat f) ∧
    (∀ c, p.close = some c → let n := c.nv * c.t.outBytes
      let byte (r x : Nat) : Byte := BitVec.ofNat 8 ((outElem p.t c.t c.rm c.sat ((l.elems p.slot).getD (32 * r + x / c.t.outBytes) 0)).1 /
        2 ^ (8 * (x % c.t.outBytes)))
      (∀ r m m' off off' pc, p.st = .delivering → s.place p.lead.w c.dst = some (.scratch m off') →
        s.place p.lead.w (c.dst + BitVec.ofNat 64 r * c.stride) = some (.scratch m' off) →
        s.phys? j m = some pc → s.serves j p.lead.w.lcn m = true → s.canonical →
        p.turns.get? r = some s.cyc ∨ (n ≤ 256 ∧ ∀ b x, (s.pcore pc).bank.get? b = some x → x < s.cyc) →
        s.cleanAt j m off n → ∃ t, exec (.spanDeliver j k ⟨pid, some r⟩) s = .next t ∧ s.sameRegs t ∧ t.pool = s.pool ∧ t.host = s.host ∧
          t.prod? j k pid = some { p with row := p.row + 1, turns := p.turns.del r } ∧
          ∀ pc' x, (t.pcore pc').mem.read x = if pc' = pc ∧ s.seg j m + off ≤ x ∧ x < s.seg j m + off + n
            then byte r (x - (s.seg j m + off)) else (s.pcore pc').mem.read x) ∧
      (c.requests.map Prod.snd = (List.range c.mv).flatMap fun i =>
        moveReqs true (c.dst + BitVec.ofNat 64 i * c.stride) n (some i) 0 []) ∧
      (∀ r i q, p.st = .delivering → (∀ m o, s.place p.lead.w c.dst ≠ some (.scratch m o)) → p.reqs.get? r = some q → q.pos = some i →
        q.at_ + q.len ≤ n →
        (q.st = .sent → ∃ t d y, exec (.spanDeliver j k ⟨pid, some r⟩) s = .next t ∧ s.sameRegs t ∧ t.host = s.host ∧
          (∀ pc x, (t.pcore pc).mem.read x = (s.pcore pc).mem.read x) ∧
          (∀ x, t.poolByte x = if q.pa ≤ x ∧ x < q.pa + q.len then byte i (q.at_ + (x - q.pa)) else s.poolByte x) ∧
          t.prod? j k pid = some { p with reqs := p.reqs.set r { q with st := .performed } } ∧
          t.packets.get? d = some y ∧ y.payload = .spanDeliver j k pid (some r) ∧ y.chan = .rsp) ∧
        (q.st = .performed → ∃ t, exec (.spanDeliver j k ⟨pid, some r⟩) s = .next t ∧ keeps t ∧
          ⟨s.cyc, .spanDeliver j k pid none⟩ ∈ t.agenda)) ∧
      (p.st = .delivering → (∀ m o, s.place p.lead.w c.dst ≠ some (.scratch m o)) → (∀ x ∈ p.reqs, x.2.st = .done) →
        (p.stop = none → p.reqs ≠ [] → ∃ t, exec (.spanDeliver j k ⟨pid, none⟩) s = .next t ∧ keeps t ∧
          t.prod? j k pid = some { p with reqs := [], row := c.mv } ∧ ⟨s.cyc, .spanDoneWord j k pid⟩ ∈ t.agenda) ∧
        (p.stop ≠ none → p.doneSent = false → ∃ t, exec (.spanDeliver j k ⟨pid, none⟩) s = .next t ∧ keeps t ∧
          ⟨s.cyc, .spanDeliveryStop j k pid⟩ ∈ t.agenda)) ∧
      (p.doneSent = false → ∃ t, exec (.spanDoneWord j k pid) s = .next t ∧
        t.prod? j k pid = some { p with doneSent := true, doneTurn := none } ∧ keeps t ∧
        (s.phys? j c.doneLcn = s.phys? j p.lead.w.lcn → p.lead.w.job = j → ⟨s.cyc + 5, .spanDoneWord j k pid⟩ ∈ t.agenda)) ∧
      (let status : Nat := match p.stop with
         | some .xlat => 3
         | some _ => 4
         | none => if p.dstGuard then 7 else if p.lead.guardHit = true ∨ p.partner.guardHit = true then 2
           else if p.flags &&& fSB ≠ 0 then 1 else 0
       (∀ pc, p.doneSent = true → s.phys? j c.doneLcn = some pc → s.serves j p.lead.w.lcn c.doneLcn = true → s.canonical →
         p.doneTurn = some s.cyc ∨ (∀ b x, (s.pcore pc).bank.get? b = some x → x < s.cyc) →
         s.cleanAt j c.doneLcn c.done 8 → c.done % 8 = 0 →
         (s.core j c.doneLcn).feQ = [] → ∃ t, exec (.spanDoneWord j k pid) s = .next t ∧ s.sameRegs t ∧
           t.scratchNat j c.doneLcn c.done 8 = (status + p.slot * 2 ^ 8 + p.tag.toNat * 2 ^ 16 + p.lead.w.lcn * 2 ^ 32 +
             (if p.stop = none then c.mv else p.row) * 2 ^ 48) % 2 ^ 64 ∧
           (t.pcore pc).full (s.seg j c.doneLcn + c.done) = true ∧
           (∀ pc' x, pc' ≠ pc ∨ x < s.seg j c.doneLcn + c.done ∨ s.seg j c.doneLcn + c.done + 8 ≤ x →
             (t.pcore pc').mem.read x = (s.pcore pc').mem.read x)) ∧
       (p.resolved = false → ∃ t, exec (.spanResolve j k pid) s = .next t ∧ keeps t ∧
         (∀ e, e = p.lead ∨ e = p.partner → t.unboundFrom e.w k p.pid ∧
           ⟨s.cyc, .handleCompletion e.h (BitVec.ofNat 64 ((if status = 2 ∧ e.guardHit = false then 6 else status) + p.slot * 2 ^ 8 +
             p.tag.toNat * 2 ^ 16 + (if c.nd then 0 else if p.stop = none then c.mv else p.row) % 65536 * 2 ^ 32)) 0⟩ ∈ t.agenda) ∧
         (p.stop = none → t.prod? j k pid = none ∧
           (l.occupant.get? p.slot = some pid → (t.link j k).logs.get? p.slot = some (p.log, p.logMore))) ∧
         (p.stop ≠ none → ∃ q, t.prod? j k pid = some q ∧ q.st = .held ∧ (t.link j k).acc = l.acc)))) ∧
    ∃ t, exec (.spanDeliveryStop j k pid) s = .next t ∧ t.prod? j k pid = some { p with flt := none, doneSent := false } ∧
      ⟨s.cyc, .spanDoneWord j k pid⟩ ∈ t.agenda ∧ keeps t)

/-- The physical core and scratch address of a byte of a cluster's window (R179). -/
def Sys2Proof.Machine.State.windowAt (s : State) (j c wo : Nat) : Nat × Nat :=
  let l := (s.job j).lcnOf c (wo / 2 ^ 21)
  (s.phys j l, s.seg j l + wo % 2 ^ 21)

/-- A range of a cluster's window without guard granules, locked bytes and errors. -/
def Sys2Proof.Machine.State.windowClean (s : State) (j c wo n : Nat) : Prop :=
  ∀ i, i < n → s.cleanAt j ((s.job j).lcnOf c ((wo + i) / 2 ^ 21)) ((wo + i) % 2 ^ 21)
    (min (min 8 (n - i)) (2 ^ 21 - (wo + i) % 2 ^ 21))

/-- The bytes of a cluster's window. -/
def Sys2Proof.Machine.State.windowBytes (s : State) (j c wo n : Nat) : List Byte :=
  (List.range n).map fun i => (s.pcore (s.windowAt j c (wo + i)).1).mem.read (s.windowAt j c (wo + i)).2

/-- With the guard on, pcfg checks its block as R294 and R296 say and sets CFG; pplan enters the queue with the CFG of
that moment; once the selection is made, the plan writes FETCH (p ≥ τ), REPLAY and the header, and nothing else in
memory, unless its cluster has been vacated before. REPLAY is a set of the highest bounds, lower rows first among
equals; EREM is the a80 sum of the bounds left, in ascending order; MISS is set exactly when that exceeds the
budget, and then nothing is left skipped. The bound of finite operands is RNE of max(0, p + ρ + c)·|ν|. The word
gives NF, NR and EREM, never below the exact value; the counters advance. pfetch enters the gather unit and counts
the rows and bytes delivered. pstat reads a counter. (R294, R295, R296, R297, R298, R299, R301, R302, R303, R304,
R306) -/
def Obligations.Prompter : Prop :=
  (∀ (s : State) (g : Gd) (d : HReg) (a e : SReg), s.guardOn s.cur g = true →
    let w := s.cur
    let b := s.job w.job
    let c := b.cluOf w.lcn
    let prm := (s.clu w.job c).prm
    let va := s.rd w a
    let fault (i : Instr) (k : Cause) (info : Nat) : Prop := exec i s = .next (s.trapAt w k (s.pcOf w) va (BitVec.ofNat 64 info))
    (va.toNat / 2 ^ 60 ≠ 0xA → fault (.pcfg g a) .addr 0) ∧
    (∀ l off, va.toNat / 2 ^ 60 = 0xA → s.place w va = some (.scratch l off) → s.reaches w (.scratch l off) = true →
      (va.toNat % 64 ≠ 0 → fault (.pcfg g a) .align 0) ∧
      (va.toNat % 64 = 0 → s.granted w 120 = false → (∀ n, n < 16 → ∃ c, (s.pcore (s.phys w.job l)).bank.get? n = some c ∧ s.cyc ≤ c) →
        s.waitsForBlock w (.pcfg g a)) ∧
      (va.toNat % 64 = 0 → s.seg w.job l % 64 = 0 → s.blockFree w l → s.cleanAt w.job l off 64 →
        let u := s.blockRead w l off 64
        let blk := (List.range 64).map fun i => (s.pcore (s.phys w.job l)).mem.read (s.seg w.job l + off + i)
        let f := fieldOf blk
        (∀ o, b.badLayer blk = some o → exec (.pcfg g a) s = .next (u.trapAt w .addr (s.pcOf w) va (BitVec.ofNat 64 o))) ∧
        (b.badLayer blk = none ↔ (1 ≤ f 0 4 ∧ f 0 4 ≤ 16384 ∧ f 4 2 ∈ [16, 32, 48, 64] ∧ f 6 1 ≠ 0 ∧ f 7 1 = 0 ∧
          b.windowField (f 8 8) 8 (f 0 4 * (f 4 2 + 8)) = true ∧ f 24 8 < 2 ^ 48 ∧ f 32 8 < 2 ^ 48 ∧
          (f 40 4 % 64 = 0 ∧ 64 ≤ f 40 4 ∧ f 40 4 ≤ 65536) ∧ (f 44 4 % 64 = 0 ∧ 64 ≤ f 44 4 ∧ f 44 4 ≤ 65536) ∧
          b.windowField (f 48 8) 64 (64 + 8 * f 0 4) = true ∧ f 56 4 % 64 = 0 ∧ f 56 4 < b.foot ∧ f 60 4 % 64 = 0 ∧ f 60 4 < b.foot)) ∧
        (b.badLayer blk = none → ∃ t n, exec (.pcfg g a) s = .next t ∧ s.goesOn t w ∧ ⟨s.cyc + n, .pcfgApply w va blk⟩ ∈ t.agenda))) ∧
    (∀ x n al, b.windowField x al n = true ↔ ∃ wo, (BitVec.ofNat 64 x : Word).toNat = 0xA * 2 ^ 60 + wo ∧ wo < 2 ^ 24 ∧ wo % al = 0 ∧
      wo + n ≤ 2 ^ 24 ∧ (wo % 2 ^ 21 + n ≤ b.foot ∨ b.foot = 2 ^ 21)) ∧
    (∀ i, i = .pplan g d a e ∨ (∃ r m, i = .pfetch g r m d a) → prm.cfg = none →
      exec i s = .next (s.trapAt w .addr (s.pcOf w) 0 0x40)) ∧
    (∀ cfg l off, prm.cfg = some cfg → s.place w va = some (.scratch l off) → s.reaches w (.scratch l off) = true →
      let n := fieldOf cfg 0 4
      (b.cluOf l ≠ c ∨ b.foot < off + fieldOf cfg 4 2 → fault (.pplan g d a e) .addr 0) ∧
      (b.cluOf l = c → off + fieldOf cfg 4 2 ≤ b.foot → va.toNat % 16 ≠ 0 → fault (.pplan g d a e) .align 0) ∧
      (b.cluOf l = c → off + fieldOf cfg 4 2 ≤ b.foot → va.toNat % 16 = 0 →
        let room := s.placeFor w 102 (prm.queue.filter fun q => !q.active).length 16
        (room = false → exec (.pplan g d a e) s = .next (s.park w .engq 3 false .reissue)) ∧
        (room = true → d ≠ 0 → ∀ k, (s.thread w).freeSlot = some k → ∃ t, exec (.pplan g d a e) s = .next t ∧
          (t.clu w.job c).prm.queue = prm.queue ++ [{
            own := w, since := s.cyc + 4, h := ⟨w, k, (s.thread w).hseq⟩, z := va, tau := (s.rd w e).setWidth 32,
            bud := ((s.rd w e) >>> 32).setWidth 32, cfg := cfg, active := false, word := 0, miss := false, flags := 0 }] ∧
          ⟨s.cyc + 4, .pplanRun w.job c⟩ ∈ t.agenda ∧ t.pending w d = true ∧ t.pcOf w = s.pcOf w + 12 ∧ s.sameBytes t ∧
          ∀ r : HReg, r ≠ d → t.rdH w r = s.rdH w r)) ∧
      ∀ (replay : Bool) (wm : BitVec 2) (wo : Nat), va.toNat = 0xA * 2 ^ 60 + wo → b.windowOk wo 64 = true → s.windowClean w.job c wo 64 →
        s.seg w.job l % 64 = 0 → s.blockFree w l →
        let u := s.blockRead w l off (min 64 (2 ^ 21 - off))
        let fault (i : Instr) (k : Cause) (info : Nat) : Prop := exec i s = .next (u.trapAt w k (s.pcOf w) va (BitVec.ofNat 64 info))
        let i : Instr := .pfetch g replay wm d a
        let hdr := fieldOf (s.windowBytes w.job c wo 64)
        let cnt := if replay then hdr 4 4 else hdr 0 4
        let pos := hdr (if replay then 60 else 56) 4
        let list := wo + 64 + if replay then 4 * n else 0
        b.windowOk list (4 * cnt) = true →
          (va.toNat % 64 ≠ 0 → fault i .align 0) ∧
          (va.toNat % 64 = 0 →
            (n < hdr 0 4 → fault i .addr 0) ∧ (hdr 0 4 ≤ n → n < hdr 0 4 + hdr 4 4 → fault i .addr 4) ∧
            (hdr 0 4 + hdr 4 4 ≤ n → cnt < pos → fault i .addr (if replay then 60 else 56)) ∧
            (hdr 0 4 + hdr 4 4 ≤ n → pos ≤ cnt →
              let o : EngOp := { (default : EngOp) with
                kind := .pfetch, id := s.seq, own := w, pc := s.pcOf w, blk := va, idx := BitVec.ofNat 64 (0xA * 2 ^ 60 + list),
                replay := replay, wm := wm, nf := (hdr 0 4), cfg := cfg, count := cnt, pos := pos }
              (∀ x, b.destFault o = some x → fault i .addr x) ∧
              (b.destFault o = none → s.placeFor w 101 (s.queuedOps w.job c false) 64 = true → d ≠ 0 → ∀ k, (s.thread w).freeSlot = some k →
                ∃ t, exec i s = .next t ∧ ⟨s.cyc + 4, .engineEnqueue { o with h := ⟨w, k, (s.thread w).hseq⟩ }⟩ ∈ t.agenda ∧
                  t.pending w d = true ∧ t.pcOf w = s.pcOf w + 12 ∧ s.sameBytes t)))) ∧
    ∀ (x : SReg) (imm : BitVec 32), s.yields (.pstat g x imm) 8 [.s x (
      if imm.toNat < 7 then prm.counters.getD imm.toNat 0
      else if imm = 7 then BitVec.ofNat 64 (prm.queue.filter fun q => !q.active && decide (q.since ≤ s.cyc)).length
      else if imm = 8 then prm.adr else 0)] 0) ∧
  (∀ (n r alpha cact tau bud : Nat) (tab z : List Byte), n ≤ 16384 → alpha < 2 ^ 32 → cact < 2 ^ 32 → tau < 2 ^ 32 →
    let x := planSelect n r alpha cact tau bud tab z
    let row (j : Nat) : List Byte := (tab.drop (j * (r + 8))).take (r + 8)
    let p (j : Nat) : Nat := (scoreF32 alpha ((((row j).take r).zip z).map fun y => y.1.toInt * y.2.toInt).sum).1
    let bound (j : Nat) : Nat := (rowBound (p j) (leNat (((row j).drop r).take 4)) cact (leNat (((row j).drop (r + 4)).take 4))).1
    let left := (List.range n).filter fun j => !x.fetch.contains j && !x.replay.contains j
    (∀ j, j ∈ x.fetch ↔ j < n ∧ (fCmp .f32 .ge (p j) tau).1 = true) ∧ x.fetch.Pairwise (· < ·) ∧ x.replay.Pairwise (· < ·) ∧
    (∀ j ∈ x.replay, j < n ∧ j ∉ x.fetch) ∧ x.skipped = left.length ∧ x.fetch.length + x.replay.length + x.skipped = n ∧
    (∀ i ∈ x.replay, ∀ j ∈ left, bound j ≤ bound i ∧ (bound j = bound i → i < j)) ∧
    x.erem = (boundSum (left.map fun j => (j, bound j))).1 ∧ (x.miss = true ↔ within x.erem bud = false) ∧ (x.miss = true → x.skipped = 0) ∧
    (∀ i ∈ x.replay, ∃ more : List Nat, (∀ j ∈ left, j ∈ more) ∧ i ∈ more ∧
      within (boundSum (((List.range n).filter fun j => more.contains j).map fun j => (j, bound j))).1 bud = false)) ∧
  (∀ (p rho cact nu : Nat) (u v y z : ℝ), (Ty.f32.value p).Is u → (Ty.f32.value rho).Is v → (Ty.f32.value cact).Is y →
    (Ty.f32.value nu).Is z → let m := max 0 (u + v + y) * |z|
    (m = 0 → (Ty.f32.value (rowBound p rho cact nu).1).Is 0) ∧ (m ≠ 0 → ∃ f, Ty.f32.Rounds .rne false m (rowBound p rho cact nu).1 f)) ∧
  (∀ (e : Nat) (v : ℝ), (Ty.a80.value e).Is v → 0 ≤ v → ∃ u : EReal, (Ty.f32.value (eremBits e * 256)).At u ∧ (v : EReal) ≤ u) ∧
  ∀ (s : State) (j c : Nat),
    let prm := (s.clu j c).prm
    (∀ w va blk, (s.job j).cluOf w.lcn = c → w.job = j → ∃ t, exec (.pcfgApply w va blk) s = .next t ∧
      (t.clu j c).prm = { prm with cfg := some blk, adr := va } ∧ s.sameRegs t ∧ s.sameBytes t) ∧
    (∀ (p : Plan) (l off pcl : Nat) (en : BitVec 32), s.carrier j c = some (pcl, en) → s.carriedBy pcl = [c] → prm.queue = [p] →
      p.active = false → p.since ≤ s.cyc → s.canonical →
      let f := fieldOf p.cfg
      let n := f 0 4
      let lo := f 48 8 % 2 ^ 24
      s.place p.own p.z = some (.scratch l off) → s.cleanAt j l off (f 4 2) → p.own.job = j → n ≤ 16384 →
      s.windowClean j c (f 8 8 % 2 ^ 24) (n * (f 4 2 + 8)) →
      let z := (List.range (f 4 2)).map fun i => (s.pcore (s.phys j l)).mem.read (s.seg j l + off + i)
      let x := planSelect n (f 4 2) (f 16 4) (f 20 4) p.tau.toNat p.bud.toNat (s.windowBytes j c (f 8 8 % 2 ^ 24) (n * (f 4 2 + 8))) z
      let nf := x.fetch.length
      let nr := x.replay.length
      let due := s.cyc + (16 + n * ((f 4 2 + 8 + 63) / 64) + x.skipped + nr + 8 * nr)
      ∃ t p' b0 b1, exec (.pplanRun j c) s = .next t ∧ s.sameRegs t ∧ s.sameBytes t ∧ (t.clu j c).prm.queue = [p'] ∧ p'.active = true ∧
        p'.h = p.h ∧ p'.begun = false ∧ p'.due = due ∧ ⟨due, .pplanResolve j c⟩ ∈ t.agenda ∧ p'.miss = x.miss ∧
        p'.word = BitVec.ofNat 64 (nf * 2 ^ 8 + nr * 2 ^ 24 + eremBits x.erem * 2 ^ 40) ∧ p'.flags = x.flags ∧
        p'.out = [(lo, b0), (lo + 64 + 4 * n, b1)] ∧ b0.length = 64 + 4 * nf ∧ b1.length = 4 * nr ∧
        let at_ := fieldOf b0
        at_ 0 4 = nf % 2 ^ 32 ∧ at_ 4 4 = nr % 2 ^ 32 ∧ at_ 8 4 = x.skipped % 2 ^ 32 ∧ at_ 12 4 = (if x.miss then 1 else 0) ∧
        at_ 16 16 = x.eall % 2 ^ 128 ∧ at_ 32 16 = x.erem % 2 ^ 128 ∧ at_ 48 4 = p.tau.toNat ∧ at_ 52 4 = p.bud.toNat ∧ at_ 56 8 = 0 ∧
        (∀ i k, x.fetch[i]? = some k → at_ (64 + 4 * i) 4 = k) ∧ ∀ i k, x.replay[i]? = some k → fieldOf b1 (4 * i) 4 = k) ∧
    (∀ p, (prm.queue.find? fun q => q.active && q.due == s.cyc) = some p → p.begun = false →
      (s.carrier j c = none → exec (.pplanResolve j c) s = .next s) ∧
      ∀ lo d b0 b1, s.carrier j c ≠ none → s.canonical → p.out = [(lo, b0), (lo + d, b1)] → b0.length ≤ d →
        lo % 2 ^ 21 + d + b1.length ≤ 2 ^ 21 → s.windowClean j c lo (d + b1.length) →
        let m := s.windowAt j c lo
        let due := s.cyc + ((64 + 4 * (p.word.toNat / 2 ^ 8 % 2 ^ 16 + p.word.toNat / 2 ^ 24 % 2 ^ 16) + 63) / 64 + 8)
        ∃ t, exec (.pplanResolve j c) s = .next t ∧ s.sameRegs t ∧ t.pool = s.pool ∧ t.host = s.host ∧
          { p with out := [], begun := true, due := due } ∈ (t.clu j c).prm.queue ∧ ⟨due, .pplanResolve j c⟩ ∈ t.agenda ∧
          ∀ pc y, (t.pcore pc).mem.read y =
            if pc = m.1 ∧ m.2 ≤ y ∧ y < m.2 + b0.length then b0.getD (y - m.2) 0
            else if pc = m.1 ∧ m.2 + d ≤ y ∧ y < m.2 + d + b1.length then b1.getD (y - (m.2 + d)) 0
            else (s.pcore pc).mem.read y) ∧
    (∀ p, (prm.queue.find? fun q => q.active && q.due == s.cyc) = some p → p.begun = true →
      ∃ t, exec (.pplanResolve j c) s = .next t ∧
      ⟨s.cyc, .handleCompletion p.h p.word p.flags⟩ ∈ t.agenda ∧ (∀ q ∈ (t.clu j c).prm.queue, q.h ≠ p.h) ∧ s.sameRegs t ∧ s.sameBytes t ∧
      let adds (i n : Nat) : Prop := (t.clu j c).prm.counters.getD i 0 = prm.counters.getD i 0 + BitVec.ofNat 64 n
      adds 0 1 ∧ adds 1 (fieldOf p.cfg 0 4) ∧ adds 2 (p.word.toNat / 2 ^ 8 % 2 ^ 16) ∧ adds 3 (p.word.toNat / 2 ^ 24 % 2 ^ 16) ∧
      adds 4 (if p.miss then 1 else 0)) ∧
    ∀ (id : Nat) (o : EngOp), s.op? j c false id = some o → o.id = id → o.own.job = j → o.kind = .pfetch → o.stop = some 0 →
      ∃ t, exec (.gatherResolve j c id) s = .next t ∧ s.sameRegs t ∧ s.sameBytes t ∧
        (t.clu j c).prm.counters.getD 5 0 = prm.counters.getD 5 0 + BitVec.ofNat 64 o.rows ∧
        (t.clu j c).prm.counters.getD 6 0 = prm.counters.getD 6 0 + BitVec.ofNat 64 o.rowb ∧
        ⟨s.cyc + 8, .handleCompletion o.h (BitVec.ofNat 64 (o.count % 2 ^ 32 * 2 ^ 32 + (if o.subst then 256 else 0) +
          if o.guardHit then 512 + 2 else 0)) (if o.subst then fSB else 0)⟩ ∈ t.agenda

/-- A range of a cluster's window that is mapped byte for byte, without guard granules and errors. -/
def Sys2Proof.Machine.State.intact (s : State) (j c wo n : Nat) : Prop :=
  ∀ i, i < n → let m := s.windowAt j c (wo + i)
    (s.pcore m.1).guarded m.2 = false ∧ (s.pcore m.1).ecc.get? (m.2 / 8) = none

/-- The little-endian value of bytes of a cluster's window. -/
def Sys2Proof.Machine.State.win (s : State) (j c p n : Nat) : Nat := leNat (s.windowBytes j c p n)

/-- A node of the store (R313). -/
def Sys2Proof.Machine.State.ddNodeAt (s : State) (j c : Nat) (k : DdCfg) (n : Nat) : DdNode :=
  .ofWords (s.win j c (k.nodes + 16 * n) 8) (s.win j c (k.nodes + 16 * n + 8) 8)

/-- A configuration that R310 accepts, over a window whose bytes are distinct and whose areas are intact. -/
def Sys2Proof.Machine.State.ddSound (s : State) (j c : Nat) (k : DdCfg) : Prop :=
  s.canonical ∧ k.nodes % 16 = 0 ∧ k.buck % 4 = 0 ∧ k.cache % 32 = 0 ∧ k.wtab % 16 = 0 ∧ 3 ≤ k.noden ∧ k.noden ≤ 786432 ∧
    4 ≤ k.blog ∧ k.blog ≤ 20 ∧ 4 ≤ k.clog ∧ k.clog ≤ 16 ∧ k.varn ≤ 4095 ∧ (s.job j).badArea [] k.parts = none ∧
    (∀ m, m < 8 → (s.job j).cluOf ((s.job j).lcnOf c m) = c ∧ (s.job j).memOf ((s.job j).lcnOf c m) = m) ∧
    (∀ a b, a < 2 ^ 24 → b < 2 ^ 24 → s.windowAt j c a = s.windowAt j c b → a = b) ∧ ∀ x ∈ k.parts, s.intact j c x.2.1 x.2.2

/-- No byte changes but those of a range of a cluster's window. -/
def Sys2Proof.Machine.State.onlyWindow (s t : State) (j c a n : Nat) : Prop :=
  t.pool = s.pool ∧ t.host = s.host ∧ ∀ pc y, (∀ i, i < n → (pc, y) ≠ s.windowAt j c (a + i)) →
    (t.pcore pc).mem.read y = (s.pcore pc).mem.read y

/-- The chain from one node leads through the nodes of a list to another (R315). -/
def Sys2Proof.Machine.State.ddPath (s : State) (j c : Nat) (k : DdCfg) : Nat → List Nat → Nat → Prop
  | a, [], b => a = b
  | a, n :: ns, b => a = n ∧ n ≠ 0 ∧ s.ddPath j c k (s.ddNodeAt j c k n).chain ns b

/-- With the guard on, DD_BAD 1 comes before every other check of an instruction but ddcfg and ddstat; the operands of
ddmk, ddrestr and the counts are checked at issue; an instruction with a place in the queue enters it 4 cycles on.
At its turn ddcfg checks its block and sets up the store; ddord exchanges levels; ddwset writes a weight; ddref,
dderef and ddnode act on a node; ddmk aborts, finds its node in the chain, creates it at the chain's head, or finds
the store full; the recursions return their terminal cases; ddcount gives 2^VARN for TRUE; ddgc that frees nothing
empties the cache. A handle resolves 8 cycles on; a command lets its thread go on or traps. (R309, R310, R311, R314,
R315, R316, R317, R318, R321, R322, R323, R329) -/
def Obligations.DecisionDiagrams : Prop :=
  (∀ (s : State) (g : Gd) (d : HReg) (q a b : SReg) (tt : BitVec 4) (imm : BitVec 32), s.guardOn s.cur g = true →
    let w := s.cur
    let p := s.pcOf w
    let c := (s.job w.job).cluOf w.lcn
    let dde := (s.clu w.job c).dde
    let x := s.rd w a
    let y := s.rd w b
    let nx := x.toNat % 2 ^ 32
    let ny := y.toNat % 2 ^ 32
    let room := s.placeFor w 103 (s.ddWaiting w.job c) 32
    let enters (i : Instr) (k : DdKind) : Prop :=
      (room = false → exec i s = .next (s.park w .engq 4 false .reissue)) ∧
      (room = true → d ≠ 0 → ∀ n, (s.thread w).freeSlot = some n → ∃ t, exec i s = .next t ∧
        ⟨s.cyc + 4, .ddEnqueue ⟨w, c, some ⟨w, n, (s.thread w).hseq⟩, p, k⟩⟩ ∈ t.agenda ∧ t.pending w d = true ∧
        t.rdH w d = HRef.word ⟨w, n, (s.thread w).hseq⟩ ∧ t.pcOf w = p + 12 ∧ s.sameBytes t ∧ ∀ r : HReg, r ≠ d → t.rdH w r = s.rdH w r)
    let waits (i : Instr) (k : DdKind) : Prop :=
      (room = false → exec i s = .next (s.park w .engq 4 false .reissue)) ∧
      (room = true → ∃ t, exec i s = .next t ∧ ⟨s.cyc + 4, .ddEnqueue ⟨w, c, none, p, k⟩⟩ ∈ t.agenda ∧ (t.thread w).st = .parked ∧
        (∀ z ∈ (t.thread w).wait, z.kind = .engq ∧ z.cont = .command) ∧ t.pcOf w = p ∧ s.sameRegs t ∧ s.sameBytes t)
    let trap (i : Instr) (k : Cause) (va : Word) (n : Nat) : Prop := exec i s = .next (s.trapAt w k p va (BitVec.ofNat 64 n))
    (dde.cfg = none → ∀ i ∈ ([.ddord g a b, .ddwset g a b, .ddmk g d a b imm, .ddapply g tt d a b, .ddite g d a b, .ddrestr g d a b,
      .ddexist g d a b, .ddcount g d a, .ddwcount g d a, .ddref g a, .dderef g a, .ddgc g d, .ddnode g q a] : List Instr),
      trap i .ddBad 0 1) ∧
    (x.toNat / 2 ^ 60 ≠ 0xA → trap (.ddcfg g a) .addr x 0) ∧
    (∀ l off, x.toNat / 2 ^ 60 = 0xA → s.place w x = some (.scratch l off) → s.reaches w (.scratch l off) = true →
      (x.toNat % 64 ≠ 0 → trap (.ddcfg g a) .align x 0) ∧ (x.toNat % 64 = 0 → waits (.ddcfg g a) (.cfg x))) ∧
    (dde.cfg ≠ none →
      waits (.ddord g a b) (.ord x.toNat y.toNat) ∧
      waits (.ddwset g a b) (.wset (x.toNat % 2 ^ 12 + x.toNat / 2 ^ 13 * 2 ^ 12) (x.getLsbD 12) y) ∧
      waits (.ddref g a) (.ref nx) ∧ waits (.dderef g a) (.deref nx) ∧ waits (.ddnode g q a) (.node nx q) ∧
      (4094 < imm.toNat → trap (.ddmk g d a b imm) .ddBad 0 3) ∧ (imm.toNat ≤ 4094 → enters (.ddmk g d a b imm) (.mk imm.toNat nx ny)) ∧
      enters (.ddapply g tt d a b) (.apply tt nx ny) ∧ enters (.ddite g d a b) (.ite nx ((s.rd w (a + 1)).toNat % 2 ^ 32) ny) ∧
      (4094 < y.toNat % 2 ^ 12 ∨ 2 ^ 13 ≤ y.toNat → trap (.ddrestr g d a b) .ddBad 0 3) ∧
      (y.toNat % 2 ^ 12 ≤ 4094 → y.toNat < 2 ^ 13 → enters (.ddrestr g d a b) (.restr nx (y.toNat % 2 ^ 12) (y.getLsbD 12))) ∧
      enters (.ddexist g d a b) (.exist nx ny) ∧ enters (.ddgc g d) .gc ∧
      ∀ wt : Bool,
        let i : Instr := if wt then .ddwcount g d a else .ddcount g d a
        let size := if wt then 8 else 16
        let off := x.toNat / 2 ^ 32 % 2 ^ 24
        let foot := (s.job w.job).foot
        (foot < off % 2 ^ 21 + size → trap i .addr (BitVec.ofNat 64 (0xA * 2 ^ 60 + off)) 0) ∧
        (off % 2 ^ 21 + size ≤ foot → off % size ≠ 0 → trap i .align (BitVec.ofNat 64 (0xA * 2 ^ 60 + off)) 0) ∧
        (off % 2 ^ 21 + size ≤ foot → off % size = 0 → enters i (.count nx (BitVec.ofNat 64 off) wt))) ∧
    s.yields (.ddstat g q imm) 8 [.s q (
      if imm = 8 then BitVec.ofNat 64 dde.queue.length
      else if imm = 9 then (match dde.cfg with | some k => k.adr | none => 0)
      else if 10 ≤ imm.toNat ∨ (imm.toNat < 2 ∧ dde.cfg = none) then 0 else dde.counters.getD imm.toNat 0)] 0) ∧
  (∀ (s : State) (e : DdEntry), ∃ t, exec (.ddEnqueue e) s = .next t ∧ s.sameRegs t ∧ s.sameBytes t ∧
    (t.clu e.w.job e.clu).dde.queue = (s.clu e.w.job e.clu).dde.queue ++ [e] ∧ ⟨s.cyc, .ddExecute e.w.job e.clu⟩ ∈ t.agenda) ∧
  (∀ (s : State) (j c pcl : Nat) (en : BitVec 32) (e : DdEntry) (rest : List DdEntry), s.carrier j c = some (pcl, en) →
    s.carriedBy pcl = [c] → (s.clu j c).dde.active = none →
    (s.clu j c).dde.queue = e :: rest → e.w.job = j → e.clu = c →
    let dde := (s.clu j c).dde
    let ends (P : State → Prop) (n word : Nat) (f : FlagBits) : Prop := ∃ t, exec (.ddExecute j c) s = .next t ∧ P t ∧ s.sameRegs t ∧
      (t.clu j c).dde.active = some e ∧ (t.clu j c).dde.queue = rest ∧ ⟨s.cyc + n, .ddResolve j c e (BitVec.ofNat 64 word) f⟩ ∈ t.agenda
    let same (t : State) : Prop := s.sameBytes t ∧ (t.clu j c).dde.cfg = dde.cfg ∧ (t.clu j c).dde.lev = dde.lev ∧
      (t.clu j c).dde.var = dde.var ∧ (t.clu j c).dde.freeHead = dde.freeHead
    (∀ va, e.h = none → e.kind = .cfg va → let wo := va.toNat % 2 ^ 24
      s.intact j c wo 64 → wo % 64 = 0 →
      let blk := s.windowBytes j c wo 64
      (∀ o, (s.job j).badDd blk = some o → ends same 16 (0x10 + o * 256) 0) ∧
      (∀ k, (s.job j).badDd blk = none → k = ddParse blk va → s.ddSound j c k →
        ends (fun t => (t.clu j c).dde.cfg = some k ∧ (∀ v, (t.clu j c).dde.levOf v = v ∧ (t.clu j c).dde.varAt v = v) ∧
          (t.clu j c).dde.freeHead = 2 ∧ t.ddNodeAt j c k 0 = ⟨0xFFF, 0xFFFFF, 0, 0, 0⟩ ∧ t.ddNodeAt j c k 1 = ⟨0xFFF, 0xFFFFF, 1, 1, 0⟩ ∧
          (∀ n, 2 ≤ n → n < k.noden → t.ddNodeAt j c k n = ⟨0xFFF, 0, 0, 0, if n + 1 = k.noden then 0 else n + 1⟩) ∧
          (∀ n, n < 2 ^ k.blog → t.win j c (k.buck + 4 * n) 4 = 0) ∧ (∀ n, n < 32 * 2 ^ k.clog → t.win j c (k.cache + n) 1 = 0))
          ((16 * k.noden + 4 * 2 ^ k.blog + 32 * 2 ^ k.clog + 63) / 64 + 16) 0 0)) ∧
    (dde.cfg = none → (∀ h, e.h = some h → ends same 8 (6 * 256 + 9) 0) ∧
      (e.h = none → (∀ va, e.kind ≠ .cfg va) → ends same 16 (0x42 + 1 * 256) 0)) ∧
    ∀ k, dde.cfg = some k → s.ddSound j c k →
      let node := s.ddNodeAt j c k
      let live (n : Nat) : Prop := n < 2 ∨ (n < k.noden ∧ (node n).var ≠ 0xFFF)
      let level (n : Nat) : Nat := if n < 2 then 4095 else dde.levOf (node n).var
      let bad (n : Nat) : Prop := ends same 16 (0x42 + n * 256) 0
      (e.h = none →
        (∀ u l, e.kind = .ord u l →
          (4094 < u ∨ 4094 < l → bad 3) ∧ (u ≤ 4094 → l ≤ 4094 → dde.counters.getD 0 0 ≠ 0 → bad 5) ∧
          (u ≤ 4094 → l ≤ 4094 → dde.counters.getD 0 0 = 0 →
            let from_ := dde.levOf u
            let other := dde.varAt l
            (other = u ↔ from_ = l) → ends (fun t => s.sameBytes t ∧ let e := (t.clu j c).dde
              e.levOf u = l ∧ e.varAt l = u ∧ e.levOf other = from_ ∧ e.varAt from_ = other ∧
              ∀ z, (z ≠ u → z ≠ other → e.levOf z = dde.levOf z) ∧ (z ≠ l → z ≠ from_ → e.varAt z = dde.varAt z)) 16 0 0)) ∧
        (∀ u side v, e.kind = .wset u side v →
          (4094 < u → bad 3) ∧
          (u ≤ 4094 → let at_ := k.wtab + 16 * u + if side then 8 else 0
            ends (fun t => t.win j c at_ 8 = v.toNat ∧ s.onlyWindow t j c at_ 8) 16 0 0)) ∧
        (∀ n, (e.kind = .ref n ∨ e.kind = .deref n) → ¬live n → bad 2) ∧
        (∀ n, (e.kind = .ref n ∨ e.kind = .deref n) → n < 2 ∨ (live n ∧ (node n).ref = 0xFFFFF) → ends same 16 0 0) ∧
        (∀ n, live n → 2 ≤ n → (node n).ref ≠ 0xFFFFF →
          (e.kind = .ref n → ends (fun t => t.ddNodeAt j c k n = { node n with ref := (node n).ref + 1 } ∧
            s.onlyWindow t j c (k.nodes + 16 * n) 16) 16 0 0) ∧
          (e.kind = .deref n → (node n).ref = 0 → bad 4) ∧
          (e.kind = .deref n → (node n).ref ≠ 0 → ends (fun t => t.ddNodeAt j c k n = { node n with ref := (node n).ref - 1 } ∧
            s.onlyWindow t j c (k.nodes + 16 * n) 16) 16 0 0)) ∧
        (∀ n d, e.kind = .node n d →
          (k.noden ≤ n → bad 2) ∧
          (n < k.noden → ends (fun t => s.sameBytes t ∧ ∃ id, ⟨id, s.cyc + 12, [.s d (BitVec.ofNat 64 (s.win j c (k.nodes + 16 * n) 8)),
            .s (d + 1) (BitVec.ofNat 64 (s.win j c (k.nodes + 16 * n + 8) 8))], 0⟩ ∈ (t.thread e.w).landings) 16 0 0))) ∧
      (∀ hr, e.h = some hr →
        (∀ v h l, e.kind = .mk v h l → v ≤ 4094 →
          (¬live h ∨ ¬live l → ends same 8 (1 * 256 + 9) 0) ∧
          (live h → live l →
            (level h ≤ dde.levOf v ∨ level l ≤ dde.levOf v → ends same 8 (2 * 256 + 9) 0) ∧
            (dde.levOf v < level h → dde.levOf v < level l →
              let up (x : DdNode) : DdNode := if x.ref = 0xFFFFF then x else { x with ref := x.ref + 1 }
              (h = l → ends (fun t => if h < 2 then s.sameBytes t
                else t.ddNodeAt j c k h = up (node h) ∧ s.onlyWindow t j c (k.nodes + 16 * h) 16) 8 (h * 2 ^ 32) 0) ∧
              (h ≠ l →
                let b := k.buck + 4 * k.bucket v h l
                let head := s.win j c b 4
                let is (n : Nat) : Prop := (node n).var = v ∧ (node n).high = h ∧ (node n).low = l
                ∀ ns, (∀ n ∈ ns, n < k.noden ∧ ¬is n) → ns.length < k.noden →
                  (∀ n, 2 ≤ n → n < k.noden → s.ddPath j c k head ns n → is n →
                    ends (fun t => t.ddNodeAt j c k n = up (node n) ∧ s.onlyWindow t j c (k.nodes + 16 * n) 16)
                      (8 + 2 * (ns.length + 1)) (n * 2 ^ 32) 0) ∧
                  (s.ddPath j c k head ns 0 → dde.freeHead = 0 → ends same (8 + 2 * ns.length) 10 0) ∧
                  (s.ddPath j c k head ns 0 → let n := dde.freeHead
                    2 ≤ n → n < k.noden → (node n).var = 0xFFF →
                    ends (fun t => t.ddNodeAt j c k n = ⟨v, 1, h, l, head⟩ ∧ t.win j c b 4 = n ∧
                      (t.clu j c).dde.freeHead = (node n).chain ∧ (∀ m, m = h ∨ m = l → 2 ≤ m → t.ddNodeAt j c k m = up (node m)) ∧
                      (∀ m, m < k.noden → m ≠ n → m ≠ h → m ≠ l → t.ddNodeAt j c k m = node m) ∧
                      (∀ m, m < 2 ^ k.blog → m ≠ k.bucket v h l → t.win j c (k.buck + 4 * m) 4 = s.win j c (k.buck + 4 * m) 4))
                      (8 + 2 * ns.length + 4) (n * 2 ^ 32) 0))))) ∧
        (∀ tt f g, e.kind = .apply tt f g → f < 2 → g < 2 →
          ends same 12 ((if tt.getLsbD (2 * f + g) then 1 else 0) * 2 ^ 32) 0) ∧
        (∀ f g h, e.kind = .ite f g h → f < 2 → g < 2 → h < 2 → ends same 12 ((if f = 1 then g else h) * 2 ^ 32) 0) ∧
        (∀ f u b, e.kind = .restr f u b → f < 2 → dde.levOf u < 4095 → ends same 12 (f * 2 ^ 32) 0) ∧
        (∀ f, f < 2 → (e.kind = .exist f 1 → ends same 12 (f * 2 ^ 32) 0) ∧ (e.kind = .exist f 0 → ends same 8 (4 * 256 + 9) 0)) ∧
        (∀ f, ¬live f → (∃ tt g, e.kind = .apply tt f g) ∨ (∃ g h, e.kind = .ite f g h) ∨ (∃ u b, e.kind = .restr f u b) ∨
          (∃ x, e.kind = .exist f x) ∨ (∃ x wt, e.kind = .count f x wt) → ends same 8 (1 * 256 + 9) 0) ∧
        (∀ res : Word, let at_ := res.toNat
          (e.kind = .count 1 res false → at_ % 16 = 0 → at_ + 16 ≤ 2 ^ 24 → s.windowClean j c at_ 16 → ∃ n r,
            ends (fun t => t.win j c at_ 16 = r ∧ s.onlyWindow t j c at_ 16) n (min (2 ^ 32 - 1) (2 ^ k.varn) * 2 ^ 32) 0 ∧
            (Ty.a80.value r).Is ((2 : ℝ) ^ k.varn)) ∧
          (∀ root, root < 2 → e.kind = .count root res true → k.varn = 0 → at_ % 8 = 0 → at_ + 8 ≤ 2 ^ 24 → s.windowClean j c at_ 8 →
            ends (fun t => t.win j c at_ 8 = (if root = 1 then 0x3FF0000000000000 else 0) ∧ s.onlyWindow t j c at_ 8) 12 0 0)) ∧
        (e.kind = .gc → (∀ n, 2 ≤ n → n < k.noden → (node n).var ≠ 0xFFF → (node n).ref ≠ 0) →
          let free := (List.range k.noden).filter fun n => decide (2 ≤ n ∧ (node n).var = 0xFFF)
          ends (fun t => (∀ n, n < k.noden → live n → t.ddNodeAt j c k n = node n) ∧ (∀ n, n < 32 * 2 ^ k.clog → t.win j c (k.cache + n) 1 = 0) ∧
            (t.clu j c).dde.freeHead = free.headD 0 ∧ ∀ i n, free[i]? = some n → (t.ddNodeAt j c k n).chain = free.getD (i + 1) 0)
            (8 + ((k.noden + 15) / 16 + (2 ^ k.clog + 7) / 8)) 0 0))) ∧
  ∀ (s : State) (j c : Nat) (e : DdEntry) (word : Word) (f : FlagBits), (s.clu j c).dde.active = some e → e.w.job = j →
    (s.carrier j c = none → exec (.ddResolve j c e word f) s = .next (s.later 64 (.ddResolve j c e word f))) ∧ ((s.carrier j c).isSome = true →
    let dde := (s.clu j c).dde
    (∀ h, e.h = some h → ∃ t, exec (.ddResolve j c e word f) s = .next t ∧ ⟨s.cyc + 8, .handleCompletion h word f⟩ ∈ t.agenda ∧
      (t.clu j c).dde.active = none ∧ (t.clu j c).dde.counters.getD 3 0 = dde.counters.getD 3 0 + 1 ∧
      (t.clu j c).dde.counters.getD 6 0 = dde.counters.getD 6 0 + (if word.toNat % 256 = 10 then 1 else 0) ∧
      (t.clu j c).dde.counters.getD 7 0 = dde.counters.getD 7 0 + (if e.kind = .gc then 1 else 0) ∧
      ⟨s.cyc, .ddExecute j c⟩ ∈ t.agenda ∧ s.sameRegs t ∧ s.sameBytes t) ∧
    ∀ z, e.h = none → (s.thread e.w).st = .parked → (s.thread e.w).wait = some z → z.cont = .command →
      (word = 0 → ∃ t, exec (.ddResolve j c e word f) s = .next t ∧ t.pcOf e.w = s.pcOf e.w + 12 ∧ (t.thread e.w).st = .running ∧
        (t.thread e.w).readyAt = s.cyc + 4 ∧ (t.clu j c).dde.active = none ∧ s.sameRegs t ∧ s.sameBytes t) ∧
      (∀ n, n < 256 → word = BitVec.ofNat 64 (0x42 + n * 256) → ∃ t u, exec (.ddResolve j c e word f) s = .next t ∧
        t = u.trapAt e.w .ddBad e.pc 0 (BitVec.ofNat 64 n) ∧ (u.clu j c).dde.active = none ∧ s.sameRegs u ∧ s.sameBytes u))

/-- With the guard on: rsend and rrecv trap, park on RECORD, send a frame of header and payload, return the cue at the
head, or write the payload and remove the frame. cbind, cget and cset ask the home, which performs each on one
entry, and whose answer lands 8 cycles on. cue and cuetake wait for OPEN and act by the role. Arming fails with the
first REASON that applies, or sets BUSY on every touched entry; committing writes the new chain and clears BUSY.
Tokens change the binding registers. A frame is enqueued whole from the bound upstream, or resent after 64 cycles.
State goes to the registered standby and is written where its sttake says. (R337, R339, R341, R342, R343, R344,
R345, R346, R347, R348, R349, R351) -/
def Obligations.CastAndSplice : Prop :=
  (∀ (s : State) (g : Gd) (d a b : SReg) (hd : HReg), s.guardOn s.cur g = true → (s.thread s.cur).stall = none →
    let w := s.cur
    let j := w.job
    let t := s.thread w
    let foot := (s.job j).foot
    let x := s.rd w a
    let y := s.rd w b
    let stage := t.stg.toNat % 64
    let plays : Prop := t.stg.getLsbD 7 = true
    let stands : Prop := t.stg.getLsbD 6 = true
    let bound : Prop := t.dns.getLsbD 31 = true
    let next_ : Tid := ⟨j, t.dns.toNat % 2 ^ 16, t.dns.toNat / 2 ^ 16 % 16⟩
    let msg (i : Instr) (sub n : Nat) : Prop := exec i s = .next (s.trapAt w .msg (s.pcOf w) 0 (BitVec.ofNat 64 (sub + n * 256)))
    let fault (i : Instr) (c : Cause) (va : Word) : Prop := exec i s = .next (s.trapAt w c (s.pcOf w) va 0)
    let parks (i : Instr) : Prop := exec i s = .next (s.park w .record (BitVec.ofNat 64 stage) false .reissue)
    let own (va : Word) (n off : Nat) : Prop := s.place w va = some (.scratch w.lcn off) ∧ s.reaches w (.scratch w.lcn off) = true ∧
      off + 8 * n ≤ foot ∧ va.toNat % 8 = 0
    let busy (n : Nat) : Prop := s.granted w 120 = false ∧ n ≠ 0 ∧ ∀ k, k < 16 → ∃ c, (s.pcore (s.phys j w.lcn)).bank.get? k = some c ∧ s.cyc ≤ c
    let asks (z : State) (e : Event) : State := (z.stallFor w .home).castSend .req w w.lcn 0 e
    (let i : Instr := .rsend g a b
     let n := x.toNat / 2 ^ 56 % 16
     (¬plays → msg i 1 0) ∧ (plays → ¬bound → msg i 2 0) ∧ (plays → bound → x.toNat / 2 ^ 60 ≠ 0 → msg i 3 0) ∧
     (plays → bound → x.toNat / 2 ^ 60 = 0 →
       (∀ l off, n ≠ 0 → s.place w y = some (.scratch l off) → s.reaches w (.scratch l off) = true →
         (l ≠ w.lcn ∨ foot < off + 8 * n → fault i .addr y) ∧ (l = w.lcn → off + 8 * n ≤ foot → y.toNat % 8 ≠ 0 → fault i .align y)) ∧
       (∀ off, n = 0 ∧ off = 0 ∨ own y n off →
         (t.dns.getLsbD 30 = false → parks i) ∧
         (t.dns.getLsbD 30 = true → s.cleanAt j w.lcn off (8 * n) →
           let f : Frame := ⟨s.seq, w, next_, x, (List.range n).map fun i => BitVec.ofNat 64 (s.scratchNat j w.lcn (off + 8 * i) 8), true, 0⟩
           let behind : Prop := ∃ z ∈ t.frames, z.dst = next_ ∧ (z.id ∈ t.refused ∨ z.id ∈ t.outHeld)
           let v := s.blockRead w w.lcn off (8 * n)
           (busy n → s.waitsForBlock w i) ∧ (n = 0 ∨ s.blockFree w w.lcn → ¬behind → exec i s = .next (((v.drawn.modThread w fun t => { t with frames := t.frames ++ [f], ordAcc := some s.seq }).castSend .msg w
             w.lcn next_.lcn (.recordFrameArrival f)).advance w)) ∧
           (n = 0 ∨ s.blockFree w w.lcn → behind → ∃ u, exec i s = .next u ∧ (u.thread w).frames = t.frames ++ [f] ∧ (u.thread w).outHeld = t.outHeld ++ [f.id] ∧ s.goesOn u w))))) ∧
    (let i : Instr := .rrecv g d a
     (¬plays → ¬stands → msg i 1 0) ∧ (plays ∨ stands → t.inbox = [] → parks i) ∧
     (∀ f fs, plays ∨ stands → t.inbox = f :: fs →
       (f.header.getLsbD 63 = true → s.yields i 8 [.s d f.header] 0) ∧
       (f.header.getLsbD 63 = false → ∀ off, f.body = [] ∧ off = 0 ∨ own x f.body.length off → f.body.length ≤ 15 →
         (busy f.body.length → s.waitsForBlock w i) ∧ (f.body = [] ∨ s.blockFree w w.lcn → s.canonical → s.cleanAt j w.lcn off (8 * f.body.length) → ∃ u id, exec i s = .next u ∧ (u.thread w).inbox = fs ∧ s.sameRegs u ∧ u.pcOf w = s.pcOf w + 12 ∧
           ⟨id, s.cyc + 8, [.s d f.header], 0⟩ ∈ (u.thread w).landings ∧
           (∀ n c, f.body[n]? = some c → u.scratchNat j w.lcn (off + 8 * n) 8 = c.toNat) ∧ u.pool = s.pool ∧ u.host = s.host ∧
           ∀ pc k, ¬(pc = s.phys j w.lcn ∧ s.seg j w.lcn + off ≤ k ∧ k < s.seg j w.lcn + off + 8 * f.body.length) →
             (u.pcore pc).mem.read k = (s.pcore pc).mem.read k)))) ∧
    (let st := x.toNat % 64
     (plays → msg (.cbindOffer g a b) 1 st) ∧
     (¬plays → exec (.cbindOffer g a b) s = .next (asks s (.castAccess w (.offer st (y.setWidth 20))))) ∧
     exec (.cbindWithdraw g a b) s = .next (asks s (.castAccess w (.withdraw st))) ∧
     exec (.cget g d a) s = .next (asks s (.castAccess w (.get st d))) ∧
     exec (.cset g a b) s = .next (asks s (.castAccess w (.set st (y.setWidth 8))))) ∧
    (let takes (i : Instr) (z : State) (h : Word) (o : Option SReg) : Prop :=
       let ends (n : Nat) (fs : List Frame) : Prop := ∃ u, exec i s = .next u ∧ s.goesOn u w ∧
         (u.thread w).frames = t.frames ++ fs ∧ (u.thread w).inbox = (z.thread w).inbox ∧
         ∀ d, o = some d → ∃ id, ⟨id, s.cyc + 8, [.s d (BitVec.ofNat 64 n)], 0⟩ ∈ (u.thread w).landings
       let as_ (r : CueRole) : CueTake := ⟨w, h, o, r, none, true⟩
       (bound → t.dns.getLsbD 30 = false → cueFail h = false → parks i) ∧
       (¬bound ∨ t.dns.getLsbD 30 = true ∨ cueFail h = true →
         (t.role h = .injector → ends (6 + cueReason h * 256) []) ∧
         (t.role h = .pass → bound → ends 0 [⟨s.seq, w, next_, h, [], false, 0⟩]) ∧
         (t.role h = .pass → ¬bound → cueDone h = true → ends 4 []) ∧
         (t.role h = .pass → ¬bound → cueDone h = false → exec i s = .next (asks z (.cueFailReturn
           { as_ .pass with cue := setField (setField h 32 8 1) 62 1 1 }))) ∧
         (t.role h = .first → exec i s = .next (asks z (.cueArm (as_ .first)))) ∧
         (t.role h = .s → cueArmed h = false → exec i s = .next (asks z (.cueArm (as_ .s)))) ∧
         (t.role h = .s → cueArmed h = true → cueOp h ≠ 3 → bound → ∃ u, exec i s = .next u ∧ (u.thread w).stg = 0 ∧ (u.thread w).dns = 0 ∧
           (u.thread w).ups = 0 ∧ (u.thread w).handover = none ∧ (u.thread w).frames = t.frames ++ [⟨s.seq, w, next_, h, [], false, 0⟩] ∧ s.goesOn u w ∧
           ∀ d, o = some d → ∃ id, ⟨id, s.cyc + 8, [.s d 3], 0⟩ ∈ (u.thread w).landings) ∧
         (∀ x, t.role h = .s → cueArmed h = true → cueOp h = 3 → (s.cueCtx j h).standby = some x → t.handover ≠ some x → t.ups.getLsbD 31 = true →
           ends (5 + 5 * 256) []) ∧
         (t.role h = .last → ∃ u, exec i s = .next (asks u (.cueCommit (as_ .last))) ∧
           let up := s.newUps j h
           u = if up.getLsbD 31 then z.castSend .msg w w.lcn (up.toNat % 2 ^ 16) (.openToken ⟨⟨j, up.toNat % 2 ^ 16, up.toNat / 2 ^ 16 % 16⟩, 0, 0, 0, none, 0⟩)
             else z))
     (¬plays → msg (.cue g a) 1 0) ∧ (plays → badCue x = true → msg (.cue g a) 3 0) ∧
     (plays → badCue x = false → takes (.cue g a) s (x ||| BitVec.ofNat 64 (stage * 2 ^ 26)) none) ∧
     ((∀ f ∈ t.inbox.head?, f.header.getLsbD 63 = false ∨ ∃ n, n < 64 ∧ ¬(56 ≤ n ∧ n < 60) ∧ f.header.getLsbD n ≠ x.getLsbD n) →
       msg (.cuetake g d a) 4 0) ∧
     (∀ f fs, t.inbox = f :: fs → f.header.getLsbD 63 = true → (∀ n, n < 64 → ¬(56 ≤ n ∧ n < 60) → f.header.getLsbD n = x.getLsbD n) →
       takes (.cuetake g d a) (s.modThread w fun t => { t with inbox := fs }) f.header (some d))) ∧
    (let i : Instr := .sthand g hd a b
     let n := y.toNat
     (¬plays → msg i 1 0) ∧ (plays → n % 8 ≠ 0 ∨ n < 8 ∨ 4096 < n → msg i 6 0) ∧
     (∀ off k, plays → n % 8 = 0 → 8 ≤ n → n ≤ 4096 → own x (n / 8) off → hd ≠ 0 → t.freeSlot = some k →
       (s.granted w 120 = false → busy n ∨ 512 < n → s.waitsForBlock w i) ∧
       (s.granted w 120 = true ∨ n ≤ 480 → s.blockFree w w.lcn → s.cleanAt j w.lcn off n →
       let h : HRef := ⟨w, k, t.hseq⟩
       let u := s.blockRead w w.lcn off n
       exec i s = .next (((u.allocHandle w k hd .state).drawn.castSend .req w w.lcn 0 (.stateTransfer ⟨s.seq, w, stage, x, n, h, none, 0, 0,
         (List.range n).map (fun i => (s.pcore (s.phys j w.lcn)).mem.read (s.seg j w.lcn + off + i)), false, false⟩)).advance w)))) ∧
    (let i : Instr := .sttake g hd a
     (¬stands → msg i 5 0) ∧ (stands → t.sttake ≠ none → msg i 7 0) ∧
     (∀ off k, stands → t.sttake = none → own x 512 off → hd ≠ 0 → t.freeSlot = some k → ∃ u, exec i s = .next u ∧ u.pending w hd = true ∧
       (u.thread w).sttake = some (⟨w, k, t.hseq⟩, x) ∧ u.pcOf w = s.pcOf w + 12 ∧ s.sameBytes u))) ∧
  (∀ (t : Thread) (h : Word),
    let at_ : Prop := t.stg.getLsbD 7 = true ∧ t.stg.toNat % 64 = cueS h
    let below : Prop := t.ups.getLsbD 31 = true ∧ t.ups.toNat / 2 ^ 20 % 64 = cueS h
    let above : Prop := t.dns.getLsbD 31 = true ∧ t.dns.toNat / 2 ^ 20 % 64 = cueS h
    (cueFail h = true → t.role h = .injector) ∧ (cueFail h = false → cueDone h = true → t.role h = .pass) ∧
    (cueFail h = false → cueDone h = false → cueOp h = 1 → (at_ → t.role h = .first) ∧ (¬at_ → below → cueArmed h = true → t.role h = .last) ∧
      (¬at_ → ¬below ∨ cueArmed h = false → t.role h = .pass)) ∧
    (cueFail h = false → cueDone h = false → cueOp h ≠ 1 → (above → t.role h = .first) ∧
      (¬above → at_ → cueArmed h = true ∨ t.ups.getLsbD 31 = false → t.role h = .s) ∧
      (¬above → ¬at_ → below → cueArmed h = true → t.role h = .last))) ∧
  (∀ (s : State) (w : Tid), w.lcn < 2 ^ 16 → w.thr < 16 →
    let j := w.job
    let entry (i : Nat) : CastEntry := (s.job j).castAt i
    let answers (t : State) (r : CastReq) : State := t.castSend .rsp w 0 w.lcn (.castAccess w r)
    (s.resident j 0 = true →
      (∀ i d, exec (.castAccess w (.get i d)) s = .next (answers s (.got d (entry i).bits))) ∧
      (∀ i u, ∃ t, exec (.castAccess w (.set i u)) s = .next (answers t (.did none)) ∧ s.sameRegs t ∧ s.sameBytes t ∧
        (t.job j).castAt i = { entry i with bits := ((entry i).bits &&& 0x00FFFFFFFFFFFFFF) ||| (u.zeroExtend 64 <<< 56) } ∧
        ∀ k, k ≠ i → (t.job j).castAt k = entry k) ∧
      (∀ i cid,
        ((entry i).sbv = true ∧ ¬(entry i).heldBy w ∨ (∃ x ∈ (s.job j).cast, x.1 ≠ i ∧ x.2.heldBy w = true ∧ x.2.captured = true) →
          exec (.castAccess w (.offer i cid)) s = .next (answers s (.no i))) ∧
        (((entry i).sbv = true → (entry i).heldBy w = true) → (∀ x ∈ (s.job j).cast, x.1 ≠ i → x.2.heldBy w = true → x.2.captured = false) →
          ∃ t, exec (.castAccess w (.offer i cid)) s = .next (answers t (.did (some (BitVec.ofNat 64 (0x40 + i))))) ∧ s.sameBytes t ∧
            let e := (t.job j).castAt i
            e.heldBy w = true ∧ e.cid = cid ∧ e.v = (entry i).v ∧ e.nv = (entry i).nv ∧ e.next = (entry i).next ∧ e.lcn = (entry i).lcn ∧
            e.thr = (entry i).thr ∧ e.busy = (entry i).busy)) ∧
      (∀ i, ((entry i).heldBy w = true → (entry i).captured = false → ∃ t, exec (.castAccess w (.withdraw i)) s = .next (answers t (.did (some 0))) ∧
          ((t.job j).castAt i).sbv = false ∧ ∀ k, k ≠ i → (t.job j).castAt k = entry k) ∧
        ((entry i).heldBy w = false ∨ (entry i).captured = true → exec (.castAccess w (.withdraw i)) s = .next (answers s (.did none))))) ∧
    (s.resident j w.lcn = true → (s.thread w).stall = some .home →
      let settles (r : CastReq) (ws : List RegWrite) : Prop := ∃ t, exec (.castAccess w r) s = .next t ∧ (t.thread w).stall = none ∧
        (t.thread w).readyAt = s.cyc + 8 ∧ (ws ≠ [] → ⟨s.seq, s.cyc + 8, ws, 0⟩ ∈ (t.thread w).landings) ∧ s.goesOn t w
      (∀ d v, settles (.got d v) [.s d v]) ∧ (∀ x, settles (.did (some x)) [.sp 0x00E x]) ∧ settles (.did none) [] ∧
      ∀ i, exec (.castAccess w (.no i)) s = .next ((s.unstall w).trapAt w .msg (s.pcOf w) 0 (BitVec.ofNat 64 (8 + i * 256))))) ∧
  (∀ (s : State) (t : CueTake),
    let w := t.w
    let j := w.job
    let b := s.job j
    let h := t.cue
    let i := cueS h
    let n := cueN h
    let e := b.castAt i
    let answers (u : State) (e : Event) : State := u.castSend .rsp w 0 w.lcn e
    (t.answer = none → s.resident j 0 = true →
      let down (k : Nat) : Prop := e.nv = true ∧ k = e.next
      let touched (k : Nat) : Prop := k = i ∨ (cueOp h = 1 ∧ k = n) ∨ (cueOp h ≠ 1 ∧ b.upOf i = some k) ∨ down k
      let sb := b.castAt (if cueOp h = 1 then n else i)
      let ready : Prop := cueOp h = 2 ∨ (sb.sbv = true ∧ (sb.cid = 0 ∨ sb.cid.toNat = cueCid h))
      let fails (r : Nat) : Prop := exec (.cueArm t) s = .next (answers s (.cueArm { t with answer := some r }))
      (e.v = false → fails 2) ∧ (∀ k, e.v = true → touched k → (b.castAt k).busy = true → fails 3) ∧
      (e.v = true → (∀ k, touched k → (b.castAt k).busy = false) →
        (cueOp h = 1 → (b.castAt n).v = true → fails 6) ∧
        (cueOp h ≠ 1 ∨ (b.castAt n).v = false → ¬ready → fails 4) ∧
        (cueOp h ≠ 1 ∨ (b.castAt n).v = false → ready → ∃ u, exec (.cueArm t) s = .next (answers u (.cueArm { t with answer := some 0 })) ∧
          (∀ k, touched k → ((u.job j).castAt k).busy = true) ∧ (∀ k, ¬touched k → ((u.job j).castAt k).bits = (b.castAt k).bits) ∧
          (∀ k, ((u.job j).castAt k).v = (b.castAt k).v ∧ ((u.job j).castAt k).next = (b.castAt k).next) ∧
          (u.cueCtx j h).standby = (if cueOp h = 2 then none else some ⟨sb.sbLcn, sb.sbThr, sb.cid⟩) ∧ s.sameBytes u))) ∧
    (t.answer = none → s.resident j 0 = true →
      let c := s.cueCtx j h
      let commits (ups : Word) (P : (Nat → CastEntry) → Prop) : Prop := ∃ u, exec (.cueCommit t) s =
        .next (answers u (.cueCommit { t with answer := some ups.toNat })) ∧ (∀ k ∈ c.touched, ((u.job j).castAt k).busy = false) ∧
        P (fun k => (u.job j).castAt k) ∧ s.sameBytes u ∧ (u.job j).cues.get? i = none
      let plays (x : CastEntry) (o : Handover) : Prop := x.v = true ∧ x.lcn = o.lcn % 2 ^ 16 ∧ x.thr = o.thr % 16 ∧ x.sbv = false
      (∀ o, cueOp h = 1 → c.standby = some o → n ≠ i → commits (bindWord n o.lcn o.thr false) fun f =>
        (f i).next = n ∧ (f i).nv = true ∧ plays (f n) o ∧ (f n).next = e.next ∧ (f n).nv = e.nv) ∧
      (∀ o, cueOp h = 3 → c.standby = some o → commits (bindWord i o.lcn o.thr false) fun f =>
        plays (f i) o ∧ (f i).next = e.next ∧ (f i).nv = e.nv) ∧
      (∀ u, cueOp h = 2 → c.standby = none → c.up = some u → u ≠ i → commits (bindWord u (b.castAt u).lcn (b.castAt u).thr false) fun f =>
        (f u).next = e.next ∧ (f u).nv = e.nv ∧ (f i).v = false ∧ (f i).bits &&& 0x00FFFFFFFFFFFFFF = 0 ∧
        (f i).bits.extractLsb' 56 8 = e.bits.extractLsb' 56 8)) ∧
    (s.resident j w.lcn = true → (s.thread w).stall = some .home →
      let v := s.thread w
      (∀ r, t.answer = some r → r ≠ 0 → r ≠ 5 →
        let u := if t.role = .s then s.modThread w fun v => { v with handover := none } else s
        exec (.cueArm t) s = .next ((u.stallFor w .home).castSend .req w w.lcn 0
        (.cueFailReturn { t with cue := setField (setField h 32 8 r) 62 1 1, answer := none, waits := true }))) ∧
      (∀ u, t.answer = some u → t.role = .last → v.dns.getLsbD 31 = true → ∃ z, exec (.cueCommit t) s = .next z ∧ s.goesOn z w ∧
        (∃ id, ⟨id, s.cyc + 8, [.sp 0x00D (BitVec.ofNat 64 u)], 0⟩ ∈ (z.thread w).landings) ∧ (z.thread w).stall = none ∧
        (∃ f, (z.thread w).frames = v.frames ++ [f] ∧ f.header = setField h 60 1 1 ∧ f.dst = bindTid j v.dns ∧ f.body = []) ∧
        ∀ d, t.d = some d → ∃ id, ⟨id, s.cyc + 8, [.s d 2], 0⟩ ∈ (z.thread w).landings) ∧
      (∀ r, t.answer = some r → ∃ z, exec (.cueFailReturn t) s = .next z ∧ s.goesOn z w ∧
        ∀ d, t.d = some d → ∃ id, ⟨id, s.cyc + 8, [.s d (BitVec.ofNat 64 (5 + cueReason h * 256))], 0⟩ ∈ (z.thread w).landings)) ∧
    (t.answer = none → s.resident j 0 = true → ∃ u z, exec (.cueFailReturn t) s = .next z ∧ s.sameBytes z ∧ s.sameRegs z ∧
      (u = if cueArmed h then s.releaseCue j h else s) ∧ (z.job j).cast = (u.job j).cast ∧
      (cueArmed h = true → ∀ k ∈ (s.cueCtx j h).touched, ((z.job j).castAt k).busy = false))) ∧
  (∀ (s : State) (t : Token), s.resident t.dst.job t.dst.lcn = true →
    (∃ u, exec (.bindToken t) s = .next u ∧ (u.thread t.dst).ups = t.ups ∧ (u.thread t.dst).dns = t.dns ∧ (u.thread t.dst).stg = t.stg ∧
      s.sameRegs u ∧ s.sameBytes u) ∧
    (s.bindAhead t.dst = true → exec (.openToken t) s = .next (s.later 1 (.openToken t)) ∧
      ∀ cue, exec (.unbindToken t.dst t cue) s = .next (s.later 1 (.unbindToken t.dst t cue))) ∧
    (s.bindAhead t.dst = false → ∃ u, exec (.openToken t) s = .next u ∧ (u.thread t.dst).dns = ((s.thread t.dst).dns ||| 0x40000000) ∧
      ((s.thread t.dst).st = .parked → ∀ x ∈ (s.thread t.dst).wait, x.kind = .record → (u.thread t.dst).st = .running) ∧ s.sameRegs u ∧ s.sameBytes u) ∧
    (∀ cue, s.bindAhead t.dst = false → ∃ u, exec (.unbindToken t.dst t cue) s = .next u ∧ (u.thread t.dst).ups = 0 ∧ (u.thread t.dst).dns = 0 ∧
      (u.thread t.dst).stg = t.stg ∧ s.sameRegs u ∧ s.sameBytes u) ∧
    (∀ v cue, v ≠ t.dst → s.bindAhead v = false → s.resident v.job v.lcn = true → ∃ u, exec (.unbindToken v t cue) s = .next u ∧ (u.thread v).dns = t.dns ∧
      s.sameRegs u ∧ s.sameBytes u)) ∧
  (∀ (s : State) (f : Frame),
    let t := s.thread f.dst
    let fail := f.header.getLsbD 63 = true ∧ f.header.getLsbD 62 = true
    let accepts : Prop := t.isLive s.cyc = true ∧ t.held = false ∧ s.resident f.dst.job f.dst.lcn = true ∧ (t.inbox.map Frame.size).sum + (1 + f.body.length) ≤ 32 ∧
      (fail ∨ (t.ups.getLsbD 31 = true ∧ bindTid f.dst.job t.ups = f.src ∧ s.frameBehind f = false))
    (accepts → ∃ u, exec (.recordFrameArrival f) s = .next u ∧ (u.thread f.dst).inbox = t.inbox ++ [f] ∧ s.sameRegs u ∧ s.sameBytes u) ∧
    (¬accepts → ¬fail → ∃ z : State, exec (.recordFrameArrival f) s = .next (z.sendTo (64 + z.localHop f.src.job f.dst.lcn f.src.lcn) .rsp f.src f.dst.lcn
      f.src.lcn (.frameResend f)) ∧ f.id ∈ (z.thread f.src).refused ∧ ∀ v, (z.thread v).inbox = (s.thread v).inbox) ∧
    (¬fail → f ∈ (s.thread f.src).frames → s.frameBehind f = false →
      exec (.frameResend f) s = .next (s.castSend .msg f.src f.src.lcn f.dst.lcn (.recordFrameArrival f)))) ∧
  ∀ (s : State) (x : StateXfer),
    let w := x.src
    let j := w.job
    let e := (s.job j).castAt x.stage
    let ends (u : State) (st n : Nat) (f : FlagBits) : Prop := ⟨s.cyc, .handleCompletion x.h (BitVec.ofNat 64 (n * 2 ^ 32 + st)) f⟩ ∈ u.agenda
    (x.phase = 0 → s.resident j 0 = true → exec (.stateTransfer x) s = .next (s.castSend .rsp w 0 w.lcn (.stateTransfer
      { x with phase := 1, standby := if e.sbv then some ⟨j, e.sbLcn, e.sbThr⟩ else none, cid := e.cid }))) ∧
    (x.phase = 1 → x.standby = none → ∃ u, exec (.stateTransfer x) s = .next u ∧ ends u 13 0 0 ∧ (u.thread w).handover = none) ∧
    (∀ v, x.standby = some v →
      let sends : State := s.sendTo (s.localHop v.job w.lcn v.lcn) .msg w w.lcn v.lcn (.stateTransfer { x with phase := 2 }) ((x.len + 31) / 32)
      (x.phase = 1 → exec (.stateTransfer x) s = .next sends) ∧ exec (.stateResend x) s = .next sends ∧
      (x.phase = 2 → s.resident v.job v.lcn = true →
        ((s.thread v).sttake = none → exec (.stateTransfer x) s = .next (s.sendTo (64 + s.localHop v.job v.lcn w.lcn) .rsp v v.lcn w.lcn (.stateResend x))) ∧
        (∀ h va, (s.thread v).sttake = some (h, va) → x.bytes.length = x.len → s.canonical → s.cleanAt v.job v.lcn (va.toNat % 2 ^ 21) x.len →
          ∃ u, exec (.stateTransfer x) s = .next u ∧ s.sameRegs u ∧ (u.thread v).sttake = none ∧
            ⟨s.cyc + 8, .handleCompletion h (BitVec.ofNat 64 (x.len * 2 ^ 32 + if x.guardHit then 2 else if x.subst then 1 else 0))
              (if x.subst then fSB else 0)⟩ ∈ u.agenda ∧
            ∀ pc k, (u.pcore pc).mem.read k = if pc = s.phys v.job v.lcn ∧ s.seg v.job v.lcn + va.toNat % 2 ^ 21 ≤ k ∧
              k < s.seg v.job v.lcn + va.toNat % 2 ^ 21 + x.len then x.bytes.getD (k - (s.seg v.job v.lcn + va.toNat % 2 ^ 21)) 0
              else (s.pcore pc).mem.read k)) ∧
      (x.phase = 3 → x.guardHit = false → ∃ u, exec (.stateTransfer x) s = .next u ∧ ends u (if x.subst then 1 else 0) x.len (if x.subst then fSB else 0) ∧
        (u.thread w).handover = some ⟨v.lcn, v.thr, x.cid⟩) ∧
      (x.phase = 4 → x.guardHit = false → (s.thread v).stg.toNat % 64 = x.stage →
        ((s.thread v).opens ≠ none ∨ ((s.job v.job).castAt x.stage).heldBy v = true ∧ ((s.job v.job).castAt x.stage).cid = x.cid) →
        ∃ u, exec (.stateTransfer x) s = .next u ∧ (u.thread v).took = true ∧ (u.thread v).opens = none ∧ s.sameRegs u ∧ s.sameBytes u ∧
          ∀ r, (s.thread v).opens = some r → ∃ z : State, u = z.castSend .msg v v.lcn r.lcn (.openToken ⟨r, 0, 0, 0, none, 0⟩)))

/-- With the guard on: redcfg checks its block (R358), takes ADDR 0x41 while a reduction of the group is unresolved, and
sends the configuration to the home, which sets it with count 0; a contribution traps as R360 orders, parks when it
would be the third outstanding, or enters as reduction k of its node and is combined 2 cycles on. A node that holds
everything it takes combines its own view with its children's subtotals in order; the root combines the totals of
the devices below it, and converts, or marks a mismatch; another device sends its total up. i80 sums are clamped
with SAT; a80 sums are the real sums, rounded. Each contributor's result is written to its area, or nothing on
MISMATCH, and its handle resolves with k. (R358, R359, R360, R361, R362, R364, R129, R138) -/
def Obligations.Reductions : Prop :=
  (∀ (s : State) (g : Gd) (t : Ty) (rm : Rm) (sat : Bool) (grp : BitVec 3) (op : FOp) (d : HReg) (v : VReg) (a b : SReg),
    s.guardOn s.cur g = true →
    let w := s.cur
    let j := w.job
    let q := s.job j
    let va := s.rd w a
    let trap (i : Instr) (c : Cause) (x : Word) (n : Nat) : Prop := exec i s = .next (s.trapAt w c (s.pcOf w) x (BitVec.ofNat 64 n))
    (let i : Instr := .redcfg g a
     (s.place w va = none → trap i .addr va 0) ∧
     ∀ l off, s.place w va = some (.scratch l off) → s.reaches w (.scratch l off) = true →
       (va.toNat % 64 ≠ 0 → trap i .align va 0) ∧
       (va.toNat % 64 = 0 → s.seg j l % 64 = 0 → s.blockFree w l → s.cleanAt j l off 64 →
         let u := s.blockRead w l off 64
         let trap (i : Instr) (c : Cause) (x : Word) (n : Nat) : Prop := exec i s = .next (u.trapAt w c (s.pcOf w) x (BitVec.ofNat 64 n))
         let blk := (List.range 64).map fun i => (s.pcore (s.phys j l)).mem.read (s.seg j l + off + i)
         let f := fieldOf blk
         let devs := s.poolShorts (s.phys j w.lcn) j (f 24 8) (f 16 2)
         (∀ o, q.badGroup blk = some o → trap i .addr va o) ∧
         (q.badGroup blk = none ↔ (f 0 1 < q.redgrp ∧ f 1 1 < q.t ∧ f 2 2 = 0 ∧ 1 ≤ f 8 2 ∧ f 4 2 + f 8 2 ≤ q.w ∧ 1 ≤ f 10 2 ∧
           f 6 2 + f 10 2 ≤ q.h ∧ f 16 2 ≤ 16384 ∧ (∀ n, 18 ≤ n → n < 24 → blk[n]? = some 0) ∧
           (f 16 2 = 0 ∨ (f 24 8 % 2 = 0 ∧ f 24 8 + 2 * f 16 2 ≤ 2 ^ 48)) ∧ ∀ n, 32 ≤ n → n < 64 → blk[n]? = some 0)) ∧
         (q.badGroup blk = none → devs = none → trap i .addr va 24) ∧
         (∀ l, q.badGroup blk = none → devs = some l →
           (f 16 2 ≠ 0 → s.devsOk q l = false → trap i .addr va 24) ∧
           (f 16 2 = 0 ∨ s.devsOk q l = true →
             (∀ r x, q.groups.get? (f 0 1) = some r → x ∈ r.ops → x.2.cons ≠ [] → trap i .addr va 0x41) ∧
             ((∀ r x, q.groups.get? (f 0 1) = some r → x ∈ r.ops → x.2.cons = []) → exec i s =
               .next (((u.drawn.modThread w fun t => { t with ordAcc := some s.seq }).castSend .req w w.lcn 0
                 (.castAccess w (.group s.seq blk l))).advance w)))))) ∧
    (∀ (id : Nat) (blk : List Byte) (l : List Nat), s.resident j 0 = true → let f := fieldOf blk
      ∃ u, exec (.castAccess w (.group id blk l)) s = .next u ∧ s.sameRegs u ∧ s.sameBytes u ∧
        (u.job j).groups.get? (f 0 1) = some ⟨f 1 1, f 4 2, f 6 2, f 8 2, f 10 2, BitVec.ofNat 32 (f 12 4), l, [], [], []⟩ ∧
        ∀ n, n ≠ f 0 1 → (u.job j).groups.get? n = q.groups.get? n) ∧
    ∀ i kind vals n, (i = .redv g t rm sat grp op d v b ∧ kind = .redv ∧ n = 32 ∧ vals = (s.rdV w v).toList.map (fun x => x.zeroExtend 64)) ∨
        (i = .reds g t rm sat grp op d a b ∧ kind = .reds ∧ n = 1 ∧ vals = [BitVec.ofNat 64 (s.rdT w t a)]) ∨
        (i = .bcastv g grp d v b ∧ kind = .bcastv ∧ n = 32 ∧ vals = (s.rdV w v).toList.map (fun x => x.zeroExtend 64) ∧ op = .add ∧ t = .i8 ∧
          rm = .rne ∧ sat = false) →
      let y := s.rd w b
      (q.groups.get? grp.toNat = none → trap i .addr 0 0x40) ∧
      ∀ r, q.groups.get? grp.toNat = some r →
        (w.thr ≠ r.thr ∨ w.lcn ∉ r.members q.w → trap i .addr 0 0x42) ∧
        ∀ e, r.node q w = some e → (r.members q.w)[e]? = some w.lcn ∧ w.thr = r.thr ∧
          (∀ l off, s.place w y = some (.scratch l off) → s.reaches w (.scratch l off) = true →
            (l ≠ w.lcn ∨ q.foot < off + 8 * n → trap i .addr y 0) ∧ (l = w.lcn → off + 8 * n ≤ q.foot → y.toNat % 8 ≠ 0 → trap i .align y 0) ∧
            (l = w.lcn → off + 8 * n ≤ q.foot → y.toNat % 8 = 0 →
              (2 ≤ (r.out.getD e []).length → exec i s = .next (s.park w .engq (BitVec.ofNat 64 (0x200 + grp.toNat)) false .reissue)) ∧
              ((r.out.getD e []).length < 2 → d ≠ 0 → ∀ m, (s.thread w).freeSlot = some m →
                let h : HRef := ⟨w, m, (s.thread w).hseq⟩
                let k := r.cnt.getD e 0
                ∃ u r', exec i s = .next u ∧ (u.job j).groups.get? grp.toNat = some r' ∧ r'.cnt.getD e 0 = k + 1 ∧
                  r'.out.getD e [] = r.out.getD e [] ++ [h] ∧ ((r'.ops.getD k {}).cons.get? e) = some ⟨w, kind, op, t, rm, sat, vals, y, h⟩ ∧
                  ⟨s.cyc + 2, .redCombine j grp.toNat k e none none⟩ ∈ u.agenda ∧ u.pending w d = true ∧ u.pcOf w = s.pcOf w + 12 ∧ s.sameBytes u)))) ∧
  (∀ (t : Ty) (x : Word) (a b : Nat), a < 2 ^ 80 → b < 2 ^ 80 →
    let big (n : Nat) : Int := (BitVec.ofNat 80 n).toInt
    (t = .i32 ∨ t = .n32 ∨ t = .i64 ∨ t = .n64 → big (redView t x).1 = t.intValue x.toNat ∧
      (let y := big a + big b
       let r := max (-2 ^ 79) (min (2 ^ 79 - 1) y)
       big (redComb t .add a b).1 = r ∧ (redComb t .add a b).2 = if r = y then 0 else fSAT) ∧
      big (redComb t .min a b).1 = min (big a) (big b) ∧ big (redComb t .max a b).1 = max (big a) (big b)) ∧
    (t = .f32 ∨ t = .f64 → (∀ u : ℝ, (t.value (x.toNat % 2 ^ t.width)).Is u → (Ty.a80.value (redView t x).1).Is u ∧ (redView t x).2 = 0) ∧
      ∀ u v : ℝ, (Ty.a80.value a).Is u → (Ty.a80.value b).Is v →
        (u + v ≠ 0 → Ty.a80.Rounds .rne false (u + v) (redComb t .add a b).1 (redComb t .add a b).2) ∧
        (Ty.a80.value (redComb t .min a b).1).Is (min u v) ∧ (Ty.a80.value (redComb t .max a b).1).Is (max u v))) ∧
  (∀ (s : State) (j grp k i : Nat) (r : RedGroup) (o : RedOp) (c : RedCon), (s.job j).groups.get? grp = some r → r.ops.get? k = some o →
    let mem := r.members (s.job j).w
    s.resident j (mem.getD i 0) = true → o.cons.get? i = some c →
    let kids := [2 * i + 1, 2 * i + 2].filter fun n => decide (n < mem.length)
    let rank := s.redRank r
    let below := [2 * rank + 1, 2 * rank + 2].filter fun n => decide (n < r.devs.length)
    let vec : Nat := if c.kind = .reds then 0 else 7
    let conv : Nat := if c.kind = .bcastv then 0 else 8
    let opOf (u : State) : RedOp := (((u.job j).groups.get? grp).map fun r => r.ops.getD k {}).getD {}
    let from_ (n : Nat) : List (BitVec 80) := ((o.devs.get? n).map RedMsg.sub).getD []
    let sub : List Nat := if c.kind = .bcastv then [] else c.vals.mapIdx fun n x =>
      kids.foldl (fun y m => (redComb c.t c.op y ((o.subs.getD m []).getD n 0).toNat).1) (redView c.t x).1
    let total : List Nat := if c.kind = .bcastv then [] else sub.mapIdx fun n x =>
      below.foldl (fun y m => (redComb c.t c.op y ((from_ m).getD n 0).toNat).1) (x % 2 ^ 80)
    let differs : Prop := (∃ x ∈ o.cons, RedCon.agrees x.2 c = false) ∨
      ∃ x ∈ o.devs, x.2.mismatch = true ∨ x.2.gen ≠ r.gen ∨ RedCon.agrees x.2.con c = false
    let local_ (a b : Nat) (e : Event) : Prop := s.packetTo .red ⟨j, mem.getD a 0, 0⟩ (mem.getD a 0) (mem.getD b 0) e = none
    let hop (a b : Nat) : Nat := s.localHop j (mem.getD a 0) (mem.getD b 0)
    (∀ src, (∀ n, src = some n → (o.subs.get? n).isSome = true) → (∃ n ∈ kids, n ∉ o.got ∧ src ≠ some n) → o.subs.get? i = none →
      ∃ u, exec (.redCombine j grp k i ⟨src, none⟩) s = .next u ∧ (opOf u).subs = o.subs ∧ (∀ n, n ∈ (opOf u).got ↔ n ∈ o.got ∨ src = some n) ∧
        s.sameRegs u ∧ s.sameBytes u) ∧
    (∀ src, (∀ n, src = some n → (o.subs.get? n).isSome = true) → (∀ n ∈ kids, n ∈ o.got ∨ src = some n) → o.subs.get? i = none →
      ∃ u, exec (.redCombine j grp k i ⟨src, none⟩) s = .next u ∧
      (opOf u).subs.get? i = some (sub.map fun x => BitVec.ofNat 80 x) ∧ s.sameRegs u ∧ s.sameBytes u ∧
      (i = 0 → o.combined = false → (∀ n ∈ below, (o.devs.get? n).isSome = true) → (opOf u).combined = true ∧
        (rank = 0 → ⟨s.cyc + 4 * kids.length + 4 * below.length + conv, .redBroadcast j grp k 0 none⟩ ∈ u.agenda ∧
          (differs → (opOf u).mismatch = true ∧ (opOf u).result = o.result) ∧
          (¬differs → (opOf u).mismatch = o.mismatch ∧ (opOf u).result = some (if c.kind = .bcastv then c.vals else
            total.map fun x => let y := (redConv c.t c.rm c.sat (x % 2 ^ 80)).1
              if c.kind = .reds then c.t.extend y else BitVec.ofNat 64 y))) ∧
        (rank ≠ 0 → ∃ (z : State) (bad : Bool) (fl : FlagBits), (bad = true ↔ differs) ∧ u = z.redPeer j grp k r ((rank - 1) / 2) false
          ⟨rank, r.gen, c, total.map fun x => BitVec.ofNat 80 x, none, fl, bad⟩)) ∧
      (i = 0 → (∃ n ∈ below, o.devs.get? n = none) → (opOf u).combined = o.combined ∧ (opOf u).result = o.result) ∧
      (∀ p, i ≠ 0 → p = (i - 1) / 2 → local_ i p (.redCombine j grp k p (some i) none) →
        ⟨s.cyc + 4 * kids.length + hop i p + (if c.kind = .redv then 7 else 0), .redCombine j grp k p (some i) none⟩ ∈ u.agenda)) ∧
    (∀ src m, i = 0 → (m.rank ∈ below → ∀ x ∈ (s.job j).bound, x.1 ≠ r.devs.getD m.rank 0) →
      exec (.redCombine j grp k 0 ⟨src, some m⟩) s = .next s) ∧
    (∀ src m x, i = 0 → m.rank ∈ below → x ∈ (s.job j).bound → x.1 = r.devs.getD m.rank 0 → ∃ u,
      exec (.redCombine j grp k 0 ⟨src, some m⟩) s = .next u ∧ (opOf u).devs.get? m.rank = some m ∧ s.sameRegs u ∧ s.sameBytes u ∧
      ((opOf u).combined = true ↔ o.combined = true ∨ (o.subs.get? 0 ≠ none ∧ ∀ n ∈ below, n = m.rank ∨ (o.devs.get? n).isSome = true))) ∧
    (∀ msg, ∃ u, exec (.redBroadcast j grp k ⟨i, msg⟩) s = .next u ∧ ⟨s.cyc + 4, .redResolve j grp k i⟩ ∈ u.agenda ∧ s.sameRegs u ∧ s.sameBytes u ∧
      (∀ m, msg = some m → (opOf u).result = (if m.mismatch then none else m.result) ∧ (opOf u).flags = m.flags) ∧
      (∀ n ∈ kids, local_ i n (.redBroadcast j grp k n none) → ⟨s.cyc + hop i n + vec, .redBroadcast j grp k n none⟩ ∈ u.agenda) ∧
      (i = 0 → ∀ n ∈ below, ∀ x l, (s.job j).bound.find? (fun x => x.1 == r.devs.getD n 0) = some x → s.dev.linkTo (r.devs.getD n 0) = some l →
        ∃ m : RedMsg, ⟨l, r.devs.getD n 0, .red x.2 grp k true m⟩ ∈ u.dev.peerOut ∧ (msg = none → m.result = o.result ∧ m.mismatch = o.mismatch))) ∧
    (let off := c.res.toNat % 2 ^ 21
     let word (st : Nat) (u : State) : Prop := ⟨s.cyc + 8, .handleCompletion c.h (BitVec.ofNat 64 (k * 2 ^ 32 + st)) o.flags⟩ ∈ u.agenda
     let size := if c.kind = .reds then 8 else 4
     (o.result = none → ∃ u, exec (.redResolve j grp k i) s = .next u ∧ word 8 u ∧ s.sameRegs u ∧ s.sameBytes u) ∧
     (∀ l, o.result = some l → s.canonical → s.cleanAt j c.w.lcn off (size * l.length) → ∃ u, exec (.redResolve j grp k i) s = .next u ∧
       word 0 u ∧ s.sameRegs u ∧ u.pool = s.pool ∧ u.host = s.host ∧
       (∀ n x, l[n]? = some x → u.scratchNat j c.w.lcn (off + size * n) size = x.toNat % 2 ^ (8 * size)) ∧
       ∀ pc y, ¬(pc = s.phys j c.w.lcn ∧ s.seg j c.w.lcn + off ≤ y ∧ y < s.seg j c.w.lcn + off + size * l.length) →
         (u.pcore pc).mem.read y = (s.pcore pc).mem.read y)))

/-- A trap writes the job or system record, sets JH, or SPRIV, PRIV and SH, and goes to TVEC or SVEC as R371 says; with
TVEC 0 the job ends; with SH set it is fatal (R377). trap, brk and an illegal encoding take theirs; rfe returns from
the innermost handler; tfence waits for results and raises the first of STORE_FAULT, GUARD and ARITH, or completes.
With PRIV set, tqpop reads records, slotwr and mapwr raise ADDR on each condition listed and else write one entry,
tsusp, tresm and halt change SUSP or HELD and complete once the threads are captured, tlbinv removes the job's
translations that touch the page and completes once no access to it is in flight. A verdict frees its entry. Core
registers keep the bits of R379, and a change of TENANT clears scratch and maps. EADDR = Rd(A) at these ADDR traps
is the model's choice (log entry 14). (R369, R371, R373, R374, R375, R376, R377, R378, R380, R381, R383, R387) -/
def Obligations.SystemClass : Prop :=
  (∀ (s : State) (w : Tid) (c : Cause) (p ea ei : Word), (∀ l ∈ (s.thread w).landings, ∀ n x, RegWrite.sp n x ∉ l.writes) →
    let t := s.thread w
    let u := s.trapAt w c p ea ei
    let z := u.thread w
    let pc := s.phys w.job w.lcn
    let keepsSys : Prop := z.epc = t.epc ∧ z.ecause = t.ecause ∧ z.eaddr = t.eaddr ∧ z.einfo = t.einfo
    let keepsJob : Prop := z.jepc = t.jepc ∧ z.jcause = t.jcause ∧ z.jaddr = t.jaddr ∧ z.jinfo = t.jinfo
    s.sameRegs u ∧ s.sameBytes u ∧ (∀ v, v ≠ w → u.thread v = s.thread v) ∧ z.flags = t.flags ∧ z.tvec = t.tvec ∧ z.svec = t.svec ∧
    (c.toTvec = true → t.jh = false → t.sh = false → t.tvec ≠ 0 →
      z.jepc = p ∧ z.jcause = c.code.zeroExtend 64 ∧ z.jaddr = ea ∧ z.jinfo = ei ∧ z.jh = true ∧ z.sh = false ∧ z.priv = t.priv ∧
      z.spriv = t.spriv ∧ z.pc = t.tvec ∧ keepsSys) ∧
    (c.toTvec = true → t.jh = false → t.sh = false → t.tvec = 0 → keepsSys ∧ keepsJob ∧
      ⟨s.cyc, .jobTermination w.job (if c = .hang then 3 else 4) (if c = .hang then 0 else c.code)⟩ ∈ u.agenda) ∧
    (t.sh = false → (c.toTvec = true → t.jh = true) → keepsJob ∧
      z.epc = p ∧ z.ecause = BitVec.ofNat 64 (c.code.toNat + (if c.toTvec then 256 else 0)) ∧ z.eaddr = ea ∧ z.einfo = ei ∧
      z.spriv = t.priv ∧ z.priv = true ∧ z.sh = true ∧ z.jh = t.jh ∧ z.pc = t.svec) ∧
    (t.sh = true → t.st ≠ .free → keepsSys ∧ keepsJob ∧ z.susp = true ∧ z.pstate = t.pstate ∧
      ((s.pcore pc).tq.get? 15 = none → ∃ r, (u.pcore pc).tq.get? 15 = some r ∧ r.pc = p ∧ r.addr = ea ∧ r.cause = c ∧ r.fatal = true ∧
        r.thr = w.thr ∧ r.lcn = w.lcn ∧ r.ent = 15 ∧ r.info = 0 ∧ u.dev.service = s.dev.service ++ [r]) ∧
      ((s.pcore pc).tq.get? 15 ≠ none → (u.pcore pc).cstat = ((s.pcore pc).cstat ||| 2) ∧
        ⟨s.cyc, .jobTermination w.job 5 c.code⟩ ∈ u.agenda))) ∧
  (∀ (s : State) (c : Cause), exec (.illegalInstruction c) s = .next (s.trapAt s.cur c (s.pcOf s.cur) 0 0)) ∧
  (∀ (s : State) (g : Gd) (imm : BitVec 32) (n : BitVec 2) (d a b : SReg), s.guardOn s.cur g = true →
    let w := s.cur
    let t := s.thread w
    let p := s.pcOf w
    let pc := s.phys w.job w.lcn
    let next := s.advance w
    exec (.trap g imm) s = .next (s.trapAt w .sw (p + 12) 0 (imm.zeroExtend 64)) ∧
    ((s.pcore pc).cstat.getLsbD 0 = false →
      exec (.brk g imm) s = .next (s.trapAt w .sw (p + 12) 0 (imm.zeroExtend 64 ||| BitVec.ofNat 64 (2 ^ 32)))) ∧
    ((s.pcore pc).cstat.getLsbD 0 = true → w ∈ s.carriedThreads pc → (∀ v ∈ s.carriedThreads pc, s.captured v = true) →
      ∃ u, exec (.brk g imm) s = .next u ∧ (u.pcore pc).cstat = ((s.pcore pc).cstat ||| 4) ∧ u.pcOf w = p + 12 ∧ s.sameRegs u ∧
        s.sameBytes u ∧ ∀ v ∈ s.carriedThreads pc, (s.thread v).st ≠ .free → (u.thread v).held = true) ∧
    (let back (u : State) (v : Word) : Prop := exec (.rfe g) s = .next u ∧ u.pcOf w = v ∧ s.sameRegs u ∧ s.sameBytes u ∧
       (u.thread w).readyAt = s.cyc + 8
     (t.sh = true → (t.epc - s.cbase w).toInt % 12 = 0 → ∃ u, back u t.epc ∧ (u.thread w).priv = t.spriv ∧ (u.thread w).sh = false ∧
       (u.thread w).jh = t.jh) ∧
     (t.sh = false → t.jh = true → (t.jepc - s.cbase w).toInt % 12 = 0 → ∃ u, back u t.jepc ∧ (u.thread w).jh = false ∧
       (u.thread w).sh = false ∧ (u.thread w).priv = t.priv) ∧
     (t.sh = false → t.jh = true → (t.jepc - s.cbase w).toInt % 12 ≠ 0 → exec (.rfe g) s = .next (s.trapAt w .pcAlign p t.jepc 0)) ∧
     (t.sh = false → t.jh = false → exec (.rfe g) s = .next (s.trapAt w .priv p 0 0)) ∧
     (t.sh = true → (t.epc - s.cbase w).toInt % 12 ≠ 0 → t.st ≠ .free → ∃ u, exec (.rfe g) s = .next u ∧ (u.thread w).susp = true ∧
       ((s.pcore pc).tq.get? 15 = none → ∃ r, (u.pcore pc).tq.get? 15 = some r ∧ r.cause = .pcAlign ∧ r.fatal = true))) ∧
    (let out : Prop := t.landings ≠ [] ∨ t.busy ≠ [] ∨ ∃ x ∈ s.accs, x.2.own = w ∧ x.2.dst ≠ none
     let new := t.flags &&& t.ten &&& ~~~t.reported
     let clean (f : Thread → Thread) (c : Cause) (x y : Word) : Prop := exec (.tfence g) s = .next ((s.modThread w f).trapAt w c p x y)
     (out → exec (.tfence g) s = .next s) ∧
     (¬out → t.sfq ≠ [] → exec (.tfence g) s = .next (s.trapAt w .storeFault p 0 (BitVec.ofNat 64 t.sfq.length))) ∧
     (¬out → t.sfq = [] → t.ghits ≠ 0 →
       clean (fun t => { t with ghits := 0 }) .guard t.gaddr (BitVec.ofNat 64 (min t.ghits 0xFFFF))) ∧
     (¬out → t.sfq = [] → t.ghits = 0 → new ≠ 0 →
       clean (fun t => { t with reported := t.reported ||| new }) .arith 0 (new.zeroExtend 64)) ∧
     (¬out → t.sfq = [] → t.ghits = 0 → new = 0 → exec (.tfence g) s = .next next)) ∧
    (let lands (i : Instr) (z : State) (v : Word) : Prop := exec i s = .next ((z.land w 8 [.s d v] 0).advance w)
     let into (ws : List Word) (z : State) : State := z.modThread w fun t => { t with rhold := ws }
     let held := t.rhold.getD n.toNat 0
     let record (r : TqRec) : List Word := [r.pc, r.addr, BitVec.ofNat 64 (r.cause.code.toNat + 2 ^ 8 * r.fatal.toNat + 2 ^ 9 * r.wr.toNat +
       2 ^ 10 * r.eng.toNat + 2 ^ 12 * r.thr + 2 ^ 16 * r.lcn + 2 ^ 32 * r.ent), r.info]
     lands (.sfqpop g n true d) s (match n.toNat with | 0 => t.jepc | 1 => t.jcause | 2 => t.jaddr | _ => t.jinfo) ∧
     (n ≠ 0 → lands (.sfqpop g n false d) s held ∧ (t.priv = true → lands (.tqpop g n d) s held)) ∧
     (t.sfq = [] → lands (.sfqpop g 0 false d) (into [] s) 0) ∧
     (∀ r rs, t.sfq = r :: rs → (∀ x ∈ s.accs, x.2.own ≠ w) → lands (.sfqpop g 0 false d)
       (into [r.faddr, r.fpc, BitVec.ofNat 64 (r.fcause.code.toNat + 2 ^ 8 * r.felem + 2 ^ 16 * r.fseq), r.fdata]
         (s.modThread w fun t => { t with sfq := rs })) r.faddr) ∧
     (t.priv = true → w.job = 0 → (s.dev.service = [] → lands (.tqpop g 0 d) (into [] s) 0) ∧
       ∀ r rs, s.dev.service = r :: rs → lands (.tqpop g 0 d) (into (record r) { s with dev := { s.dev with service := rs } }) r.pc) ∧
     (t.priv = true → w.job ≠ 0 → ((s.pcore pc).tqNew = [] → lands (.tqpop g 0 d) (into [] s) 0) ∧
       ∀ i is r, (s.pcore pc).tqNew = i :: is → (s.pcore pc).tq.get? i = some r →
         lands (.tqpop g 0 d) (into (record r) (s.modPCore pc fun q => { q with tqNew := is })) r.pc)) ∧
    (t.priv = true →
      let x := s.rd w a
      let y := s.rd w b
      let addr (i : Instr) : Prop := exec i s = .next (s.trapAt w .addr p x 0)
      let far : Prop := x.toNat / 2 ^ 16 % 2 ^ 16 ≠ 0xFFFF ∧ 1600 ≤ x.toNat / 2 ^ 16 % 2 ^ 16
      let named : Option Nat := if x.toNat / 2 ^ 16 % 2 ^ 16 = 0xFFFF then s.phys? w.job w.lcn else some (x.toNat / 2 ^ 16 % 2 ^ 16)
      (let bad : Prop := x.toNat / 2 ^ 5 % 2 ^ 11 ≠ 0 ∨ x.toNat / 2 ^ 32 ≠ 0 ∨ y.toNat / 2 ^ 5 ≠ 0 ∨ far
       (bad → addr (.slotwr g a b)) ∧
       (¬bad → ∀ m, named = some m → exec (.slotwr g a b) s =
         .next ((s.modPCore m fun q => { q with slotsNext := q.slotsNext.set (x.toNat % 32) (y.truncate 5) }).advance w))) ∧
      (let q := x.toNat / 2 ^ 8 % 2 ^ 8
       let f (lo n : Nat) : Nat := y.toNat / 2 ^ lo % 2 ^ n
       let js := (s.pcore (pcOf q 0)).jshape
       let T := if js.toNat % 16 = 0 then 16 else js.toNat % 16
       let bad : Prop := 200 ≤ f 0 8 ∨ 200 ≤ q ∨ (f 31 1 = 1 ∧ f 30 1 = 1) ∨ f 20 4 < f 16 4 ∨ 16 < (f 20 4 + 1) * T ∨
         2 ^ 21 < (f 20 4 + 1) * (js.toNat / 2 ^ 32 % 2 ^ 22) ∨ (0 < f 20 4 ∧ js.getLsbD 4 = false) ∨ f 24 6 ≠ 0 ∨ f 8 8 ≠ 0
       (bad → addr (.mapwr g a b)) ∧
       (¬bad → exec (.mapwr g a b) s =
         .next ((s.modPClu q fun k => { k with map := k.map.set (x.toNat % 2 ^ 8) (y.truncate 32) }).advance w))) ∧
      (let bad : Prop := x.toNat / 2 ^ 4 % 2 ^ 12 ≠ 0 ∨ x.toNat / 2 ^ 32 ≠ 0 ∨ far
       (bad → addr (.tsusp g a) ∧ addr (.tresm g a)) ∧
       ∀ v, ¬bad → named.bind (fun m => s.carried m (x.toNat % 16)) = some v →
         (v ≠ w → (s.thread v).st ≠ .free → ∃ u, exec (.tsusp g a) s = .next u ∧ (u.thread v).susp = true ∧ s.sameRegs u ∧ s.sameBytes u ∧
           u.pcOf w = p + (if s.captured v then 12 else 0) ∧ ∀ z, z ≠ v → z ≠ w → u.thread z = s.thread z) ∧
         (v = w → s.captured w = true → t.st ≠ .free → ∃ u, exec (.tsusp g a) s = .next u ∧ (u.thread w).susp = true ∧ u.pcOf w = p + 12 ∧
           s.sameRegs u ∧ s.sameBytes u) ∧
         (v = w → s.captured w = false → exec (.tsusp g a) s = .next s) ∧
         exec (.tresm g a) s = .next ((s.modThread v fun t => { t with susp := false }).advance w)) ∧
      (let bad : Prop := x.toNat / 2 % 2 ^ 15 ≠ 0 ∨ x.toNat / 2 ^ 32 ≠ 0 ∨ far
       (bad → addr (.halt g a)) ∧
       ∀ m, ¬bad → named = some m → let vs := s.carriedThreads m
         (x.getLsbD 0 = true → (∀ v ∈ vs, s.captured v = true) → ∃ u, exec (.halt g a) s = .next u ∧ u.pcOf w = p + 12 ∧
           (u.pcore m).cstat = ((s.pcore m).cstat ||| 4) ∧ (∀ v ∈ vs, (s.thread v).st ≠ .free → (u.thread v).held = true) ∧
           s.sameRegs u ∧ s.sameBytes u) ∧
         (x.getLsbD 0 = false → ∃ u, exec (.halt g a) s = .next u ∧ u.pcOf w = p + 12 ∧
           (u.pcore m).cstat = ((s.pcore m).cstat &&& ~~~4) ∧ (∀ v ∈ vs, (u.thread v).held = false) ∧ s.sameRegs u ∧ s.sameBytes u)) ∧
      (let code := y.toNat % 16
       let base := if code = 15 then 0 else x.toNat
       let size := if code = 15 then 2 ^ 64 else pageSize (5 - code / 3) (code % 3)
       let job := y.toNat / 2 ^ 32
       let bad : Prop := y.toNat / 2 ^ 4 % 2 ^ 28 ≠ 0 ∨ (10 ≤ code ∧ code ≤ 14)
       (bad → addr (.tlbinv g a b)) ∧
       (¬bad → code ≠ 15 → x.toNat % size ≠ 0 → exec (.tlbinv g a b) s = .next (s.trapAt w .align p x 0)) ∧
       (¬bad → code = 15 ∨ x.toNat % size = 0 → ∃ u, exec (.tlbinv g a b) s = .next u ∧ s.sameRegs u ∧ s.sameBytes u ∧
         (∀ m, ∀ e ∈ (u.pcore m).tlb, e.job = job → e.base + e.size ≤ base ∨ base + size ≤ e.base) ∧
         (∀ m, ∀ e ∈ (u.pclu m).walker, e.job = job → e.base + e.size ≤ base ∨ base + size ≤ e.base) ∧
         u.pcOf w = p + (if s.inFlight job (base, size) then 0 else 12)))) ) ∧
  (∀ (s : State) (pc off ent : Nat) (v : Word),
    (∃ u, exec (.coreRegWrite pc off v) s = .next u ∧ s.sameRegs u ∧ s.sameBytes u ∧
      let q := u.pcore pc
      let o := s.pcore pc
      q.ptroot = (if off = 0x00 then v &&& 0x000FFFFFFFFFFE00 else o.ptroot) ∧ q.jobreg = (if off = 0x10 then v &&& 0xFFFFFFFF else o.jobreg) ∧
      q.jshape = (if off = 0x18 then v &&& 0x003FFFFF0000001F else o.jshape) ∧ q.cecnt = o.cecnt ∧ q.tenant = o.tenant ∧
      q.cstat = (if off = 0x28 then v &&& 7 else o.cstat) ∧ q.cbase = (if off = 0x38 then v &&& 0xFFFFFFFFFFFF0000 else o.cbase)) ∧
    (∃ u, exec (.tenantWrite pc v) s = .next u ∧ (u.pcore pc).tenant = v ∧ s.sameRegs u ∧ ((s.pcore pc).tenant = v → s.sameBytes u) ∧
      ((s.pcore pc).tenant ≠ v → (u.pcore pc).mem = [] ∧ (u.pcore pc).fe = [] ∧ (u.pcore pc).guard = []) ∧
      ∀ m, m ≠ pc → u.pcore m = s.pcore m) ∧
    ((s.pcore pc).tq.get? ent = none → exec (.tqackServe pc ent) s = .next s ∧ exec (.tqackRefuse pc ent) s = .next s) ∧
    ∀ r, (s.pcore pc).tq.get? ent = some r → (s.pcore pc).tqWait = [] →
      (∃ u, exec (.tqackServe pc ent) s = .next u ∧ (r.fatal = true → s.sameRegs u ∧ s.sameBytes u ∧ (u.pcore pc).tq.get? ent = none) ∧
        ∀ x, r.fatal = false → r.h = none → r.post = none → (s.thread r.own).st = .parked → (s.thread r.own).wait = some x → x.kind = .service →
          (u.thread r.own).st = .running ∧ (u.pcore pc).tq.get? ent = none ∧ s.sameRegs u ∧ s.sameBytes u) ∧
      ∃ u, exec (.tqackRefuse pc ent) s = .next u ∧ (r.fatal = true → s.sameRegs u ∧ s.sameBytes u ∧ (u.pcore pc).tq.get? ent = none) ∧
        ∀ x, r.fatal = false → r.h = none → r.post = none → (s.thread r.own).wait = some x → x.kind = .service →
          (s.thread r.own).sh = false → r.cause.toTvec = false → (∀ l ∈ (s.thread r.own).landings, ∀ n x, RegWrite.sp n x ∉ l.writes) →
          let z := u.thread r.own
          z.epc = r.pc ∧ z.eaddr = r.addr ∧ z.ecause = r.cause.code.zeroExtend 64 ∧ z.pc = (s.thread r.own).svec ∧
          (u.pcore pc).tq.get? ent = none ∧ s.sameRegs u ∧ s.sameBytes u)

/-- With the guard on and PRIV set: vacate of a reserved or absent cluster raises ADDR; else V is cleared and VAC set in
the map entries, it suspends every thread of the clusters carried there, D becomes pending and the saving sets out.
While the clusters are not still it looks again (log entry 17); then scratch below F and the registers stand in the
area, each core block encrypted, and the handle resolves SUSPENDED with the number saved. resume raises ADDR with
EINFO 1, 2 or 3 on the three cases of R385, else D becomes pending; when it resolves, each core's scratch, at SEG =
G*F of its new place, and its registers are those of the area, V is set and VAC cleared, SUSP is clear and the
handle resolves OK. The time taken and the layout inside the areas of R386 are the model's (log entries 2 and 44).
(R384, R385, R386, R383, R235) -/
def Obligations.VacateAndResume : Prop :=
  (∀ (s : State) (g : Gd) (d : HReg) (a : SReg), s.guardOn s.cur g = true → (s.thread s.cur).priv = true →
    let w := s.cur
    let x := s.rd w a
    let bad (i : Instr) (n : Nat) : Prop := exec i s = .next (s.trapAt w .addr (s.pcOf w) x (BitVec.ofNat 64 n))
    let sets (u : State) (e : Event) : Prop := u.pcOf w = s.pcOf w + 12 ∧ (d ≠ 0 → u.pending w d = true) ∧ s.sameBytes u ∧
      ⟨s.cyc + Config.managerDelay s.seq, e⟩ ∈ u.agenda ∧ ∀ v r, v ≠ w ∨ r ≠ (0 : BitVec 1) ++ d → u.rd v r = s.rd v r
    (let p := x.toNat % 2 ^ 8
     (x.toNat / 2 ^ 8 ≠ 0 ∨ 200 ≤ p → bad (.vacate g d a) 0) ∧
     (x.toNat / 2 ^ 8 = 0 → p < 200 → ∀ i, (s.thread w).freeSlot = some i →
       let j := (s.pcore (pcOf p 0)).jobreg.toNat
       ∃ u, exec (.vacate g d a) s = .next u ∧ sets u (.vacateResolve ⟨w, i, (s.thread w).hseq⟩ p (s.thread w).vbase) ∧
         (∀ v : Tid, v.job = j → v.lcn ∈ (s.job j).coresOf (s.carriedBy p) → (s.thread v).st ≠ .free → (u.thread v).susp = true) ∧
         ∀ k c e, s.jobAt k = j → c ∈ s.carriedBy p → (s.pclu k).map.get? c = some e →
           (u.pclu k).map.get? c = some ((e &&& ~~~0x80000000) ||| 0x40000000))) ∧
    (let c := x.toNat % 2 ^ 8
     let q := x.toNat / 2 ^ 8 % 2 ^ 8
     let entry (i : Nat) : BitVec 32 := (s.pclu i).map.getD c 0
     let e := entry q
     let differ : Prop := ∃ y ∈ s.pclus, s.jobAt y.1 = s.jobAt q ∧ s.carriedBy y.1 ≠ [] ∧ entry y.1 ≠ e
     let taken : Prop := ∃ y ∈ (s.pclu (mapPcl e)).map, y.1 ≠ c ∧ mapV y.2 = true ∧ mapPcl y.2 = mapPcl e ∧ mapG y.2 = mapG e
     (x.toNat / 2 ^ 16 ≠ 0 ∨ 200 ≤ q → bad (.resume g d a) 0) ∧
     (x.toNat / 2 ^ 16 = 0 → q < 200 →
       (mapVac e = false → bad (.resume g d a) 1) ∧ (mapVac e = true → differ → bad (.resume g d a) 2) ∧
       (mapVac e = true → ¬differ → taken → bad (.resume g d a) 3) ∧
       (mapVac e = true → ¬differ → ¬taken → ∀ i, (s.thread w).freeSlot = some i → ∃ u, exec (.resume g d a) s = .next u ∧
         sets u (.resumeResolve ⟨w, i, (s.thread w).hseq⟩ c q (s.thread w).vbase))))) ∧
  (∀ (s : State) (h : HRef) (p c : Nat) (e : BitVec 32) (vb : Word),
    let j := s.jobAt p
    let b := s.job j
    let ls := b.coresOf ((s.leaving p).map Prod.fst)
    let at_ := vb.toNat + mapG e * saveSize b.foot
    (s.still j p ((s.leaving p).map Prod.fst) ls = false → exec (.vacateResolve h p vb) s = .next (s.later 16 (.vacateResolve h p vb))) ∧
    (s.still j p ((s.leaving p).map Prod.fst) ls = true → s.leaving p = [(c, e)] → s.canonical → 4 ≤ b.w → b.w % 4 = 0 →
      ∃ u, exec (.vacateResolve h p vb) s = .next u ∧
      ⟨s.cyc, .handleCompletion h (BitVec.ofNat 64 (2 ^ 32 + 12)) 0⟩ ∈ u.agenda ∧ u.host = s.host ∧
      (∀ m, m < 8 → (u.core j (b.lcnOf c m)).saved ≠ none) ∧
      (∀ a, a < at_ ∨ at_ + saveSize b.foot ≤ a → u.pool.read a = s.pool.read a) ∧
      ((∀ o, o < saveSize b.foot → (s.dev.slice (at_ + o)).isSome = true) → ∀ m, m < 8 →
        let l := b.lcnOf c m
        let at_ (o : Nat) : Byte := u.areaByte j at_ (0x40000 + m * coreSaveSize b.foot + o)
        (∀ i, i < b.foot → at_ (0x80000 + i) = (s.pcore (pcOf p m)).mem.read (mapG e * b.foot + i)) ∧
        (∀ r, r < 64 → wordAt at_ (8 * r) = (s.core j l).y.getD r 0) ∧
        ∀ n t, n < 16 → (s.core j l).threads.get? n = some t →
          (∀ r, r < 64 → wordAt at_ (0x8000 + 0x2000 * n + 8 * r) = t.x.getD r 0) ∧ wordAt at_ (0x8000 + 0x2000 * n + 0x208) = t.pc) ∧
      ((∀ k ∈ b.links, ∀ y ∈ k.2.queue, y.arr.w.lcn ∉ ls) → s.sameRegs u))) ∧
  ∀ (s : State) (h : HRef) (c q : Nat) (vb : Word),
    let j := s.jobAt q
    let b := s.job j
    let e := (s.pclu q).map.getD c 0
    mapVac e = true → s.canonical → 4 ≤ b.w → b.w % 4 = 0 →
    (∀ m, m < 8 → ∀ y, (s.core j (b.lcnOf c m)).saved = some y → y.waits = []) →
      ∃ u, exec (.resumeResolve h c q vb) s = .next u ∧ ⟨s.cyc, .handleCompletion h 0 0⟩ ∈ u.agenda ∧ u.pool = s.pool ∧ u.host = s.host ∧
        (∀ m, m < 8 →
          let l := b.lcnOf c m
          let at_ (o : Nat) : Byte := s.areaByte j vb.toNat (0x40000 + m * coreSaveSize b.foot + o)
          (u.core j l).saved = none ∧
          (∀ i, i < b.foot → (u.pcore (pcOf (mapPcl e) m)).mem.read (mapG e * b.foot + i) = at_ (0x80000 + i)) ∧
          (∀ n, (s.core j l).threads.get? n ≠ none →
            let v : Tid := ⟨j, l, n⟩
            (u.thread v).pc = wordAt at_ (0x8000 + 0x2000 * n + 0x208) ∧ (∀ r : SReg, 64 ≤ r.toNat → u.rd v r = wordAt at_ (8 * (r.toNat - 64))) ∧
            ∀ r : SReg, r ≠ 0 → r.toNat < 64 → u.rd v r = wordAt at_ (0x8000 + 0x2000 * n + 8 * r.toNat))) ∧
        (∀ v r, v.job ≠ j ∨ v.lcn ∉ b.coresOf [c] → u.rd v r = s.rd v r) ∧
        (∀ v : Tid, v.job = j → v.lcn ∈ b.coresOf [c] → (u.thread v).susp = false) ∧
        ∀ i, i ∈ s.pclus.map Prod.fst → i = q ∨ i = mapPcl e →
          (u.pclu i).map.get? c = some ((e ||| 0x80000000) &&& ~~~0x40000000)

/-- The doorbell of a booted device takes the entries posted: one whose image fails a step of R88 gets a record with
status 1 and that step and costs no JOBID; an accepted one becomes a posted job under JOBID (t-1)<<28|n. A launch of
the job that is first in order and fits gives its cores their registers and scratch images, and starts thread 0 of
every logical core with PC = ENTRY and x1 = ARGS from cycle S. A job past its waiting limit lets no later one pass,
and jobs of lower priority are pre-empted for it. A job all of whose threads and operations are done, or which is
terminated, leaves its cores, with JOBREG and TENANT 0, and its 32-byte record is written. A termination resolves
pending operations ABORTED. S, frames and tables are free (launchPlan), and so are delays (log entries 2 and 3).
(R88, R111, R112, R113, R115, R121, R388, R389, R390) -/
def Obligations.JobsFromOutside : Prop :=
  (∀ (s : State) (v : Nat) (tail : Word),
    let f := s.dev.vfs.getD v {}
    let id := (v - 1) * 2 ^ 28 + f.nextid
    let at_ := f.lqbase.toNat + 64 * f.lqhead
    let r (o n : Nat) : Nat := leNat ((List.range n).map fun i => s.host.read (at_ + o + i))
    let own := (List.range 4).map fun i => r (16 + 4 * i) 4
    (s.dev.booted = false ∨ v = 0 ∨ 16 < v → exec (.lqtail v tail) s = .next s) ∧
    (s.dev.booted = true → 1 ≤ v → v ≤ 16 → 16 ≤ f.lqsize.toNat → f.lqhead < f.lqsize.toNat → f.nextid < 2 ^ 28 →
      (f.lqhead + 1) % f.lqsize.toNat = tail.toNat % f.lqsize.toNat →
      ∃ u, exec (.lqtail v tail) s = .next u ∧ (u.dev.vfs.getD v {}).lqhead = (f.lqhead + 1) % f.lqsize.toNat ∧ (s.jobs.get? id = none → s.sameRegs u) ∧
        (∀ c, imageFault (s.fileAt (r 0 8)) v = some c → s.dev.completions = [] → f.room = false → s.jobs = u.jobs ∧
          (u.dev.vfs.getD v {}).nextid = f.nextid ∧ u.dev.completions = [⟨id, 1, BitVec.ofNat 8 c, 0, 0⟩]) ∧
        (∀ k, imageFault (s.fileAt (r 0 8)) v = none → (readSecs (s.fileAt (r 0 8))).find? (fun x => x.type == 7) = some k →
          let d := readDesc (s.fileAt (r 0 8)) k.off
          let pred := if own = [0, 0, 0, 0] then d.pred else own
          (∀ p ∈ pred, p = 0 ∨ (p / 2 ^ 28 = v - 1 ∧ p < id)) → (u.dev.vfs.getD v {}).nextid = f.nextid + 1 ∧
            ∃ b, u.jobs.get? id = some b ∧ b.st = .posted ∧ b.tenant = v ∧ b.w = d.w ∧ b.h = d.h ∧ b.t = d.t ∧ b.foot = d.foot ∧
              b.pri = d.pri ∧ b.entry = d.entry ∧ b.args = BitVec.ofNat 64 (r 8 8) ∧ b.image = BitVec.ofNat 64 (r 0 8) ∧ b.pred = pred))) ∧
  (∀ (s : State) (j sw : Nat) (p : LaunchPlan) (dj code : Sec),
    let b := s.job j
    let r := s.fileAt b.image.toNat
    let l := readSecs r
    let pc (n : Nat) : Nat := pcOf (sw + b.cluOf n / (b.w / 4) * 10 + b.cluOf n % (b.w / 4)) (b.memOf n)
    (∀ i sw', s.firstFit s.queueOrder = some (i, sw') → i ≠ j → exec (.jobLaunch j p) s = .next s.considerLaunch) ∧
    let loaded := s.loadImage r l p
    let pages := loaded.2.1
    (s.firstFit s.queueOrder = some (j, sw) → s.planOk j p pages loaded.2.2 = false → l.find? (fun x => x.type == 7) = some dj →
      l.find? (fun x => x.type == 1) = some code → ∃ n q, exec (.jobLaunch j p) s = .next (s.drawn.later (1 + n) (.jobLaunch j q))) ∧
    (s.planOk j p pages loaded.2.2 = true → (∀ x ∈ pages ++ p.extra, x.2.1 % 4096 = 0 ∧ (s.dev.slice x.2.1).isSome = true ∧ x.1 % 4096 = 0 ∧ x.1 < 2 ^ 48) ∧
      ∀ k c, s.jobs.get? k = some c → k ≠ j → c.st = .running → ∀ y ∈ c.backing, ∀ x ∈ pages, x.2.1 + 4096 ≤ y.1 ∨ y.1 + y.2 ≤ x.2.1) ∧
    (s.firstFit s.queueOrder = some (j, sw) → s.planOk j p pages loaded.2.2 = true → j ≠ 0 → l.find? (fun x => x.type == 7) = some dj → l.find? (fun x => x.type == 1) = some code →
      4 ≤ b.w → b.w % 4 = 0 → 2 ≤ b.h → b.h % 2 = 0 → ∃ u, exec (.jobLaunch j p) s = .next u ∧
        (u.job j).st = .running ∧ (u.job j).start = s.cyc + p.start ∧ u.host = s.host ∧
        ∀ n, n < b.w * b.h → let q := u.pcore (pc n); let t := u.thread ⟨j, n, 0⟩
          q.jobreg = BitVec.ofNat 64 j ∧ q.tenant = BitVec.ofNat 64 b.tenant ∧ q.ptroot = BitVec.ofNat 64 p.tables ∧
          q.cbase = BitVec.ofNat 64 code.addr ∧ q.jshape = BitVec.ofNat 64 (b.t % 16 + (if b.fold then 16 else 0) + b.foot * 2 ^ 32) ∧
          t.st = .running ∧ t.gen = 1 ∧ t.pc = b.entry ∧ u.rd ⟨j, n, 0⟩ 1 = b.args ∧ t.geom0 = b.geom0 ∧ t.geom1 = b.geom1 ∧
          t.svec = p.svec ∧ t.pstate = 0 ∧ t.flags = 0 ∧ t.turnsAt = s.cyc + p.start ∧
          (∀ m, m < b.t → (u.thread ⟨j, n, m⟩).svec = p.svec ∧ (u.thread ⟨j, n, m⟩).tvec = (match jtrapOf r with | some (_, y) => y | none => 0)) ∧
          ((readDesc r dj.off).flags.testBit 2 = false → q.mem = scratchImage r l n ∧ q.fe = fullWords r l n b.foot ∧
            q.guard = guardMarks r l n b.foot))) ∧
  (∀ (s : State) (j : Nat), (s.job j).st = .posted →
    ((∀ x, s.blocking = some x → x.1 ≠ j) → exec (.waitlimExpiry j) s = .next s.considerLaunch) ∧
    (∀ b, s.blocking = some (j, b) → ∃ n, exec (.waitlimExpiry j) s =
      .next ((s.preempt (s.job j).pri (Config.preStep s.seq)).drawn.considerLaunch.later (1 + n) (.waitlimExpiry j)))) ∧
  (∀ (s : State) (b : Job), s.overdue b = true ↔
    (s.dev.waitlim.getD b.pri 0).toNat % 2 ^ 48 ≠ 0 ∧ b.postedAt + (s.dev.waitlim.getD b.pri 0).toNat % 2 ^ 48 < s.cyc) ∧
  (∀ (s : State) (id : Nat) (b : Job) (t : List (Nat × Job)), s.placement b = none → s.overdue b = true → s.firstFit ((id, b) :: t) = none) ∧
  (∀ (s : State) (q p : Nat) (base : Word) (i : Nat) (e : BitVec 32), s.lowerAt p q = false →
    s.preempt q (.vacate p base) = s ∧ s.preempt q (.map p i e) = s) ∧
  (∀ (s : State) (j : Nat),
    let b := s.job j
    let v := j / 2 ^ 28 + 1
    let f := s.dev.vfs.getD v {}
    let ends (st cause : BitVec 8) (ev : Word) : Prop := ∃ u, exec (.jobCompletion j) s = .next u ∧ (u.job j).st = .ended ∧ u.pool = s.pool ∧
      (∀ i x, (leBytes 4 j ++ [st, cause, 0, 0] ++ leBytes 8 ev.toNat ++ leBytes 8 (s.cyc - b.start) ++ leBytes 8 0)[i]? = some x →
        u.host.read (f.cqbase.toNat + 32 * f.cqtail + i) = x) ∧
      (∀ p m, p ∈ s.pclus.map Prod.fst → m < 8 → s.jobAt p = j → let q := u.pcore (pcOf p m)
        q.jobreg = 0 ∧ q.tenant = 0 ∧ q.mem = [] ∧ (u.pclu p).map = []) ∧
      (∀ x ∈ u.accs, x.2.own.job ≠ j) ∧ ∀ x ∈ u.packets, x.2.own.job ≠ j
    s.canonical → s.dev.completions = [] → f.room = true →
      (b.st = .ending → b.cores ≠ [] → ends b.status b.cause 0) ∧
      (b.st = .running → b.controlsDone = true → s.liveThreads j = [] → s.opsLeft j = false → s.accessesLeft j = false → ends 0 0 b.exitv) ∧
      (b.st = .running → b.controlsDone = false ∨ s.liveThreads j ≠ [] ∨ s.opsLeft j = true → exec (.jobCompletion j) s = .next s) ∧
      (b.st = .running → b.controlsDone = true → s.liveThreads j = [] → s.opsLeft j = false → s.accessesLeft j = true →
        exec (.jobCompletion j) s = .next (s.later 1 (.jobCompletion j)))) ∧
  ∀ (s : State) (j : Nat) (st cause : BitVec 8),
    ((s.job j).st ≠ .running → exec (.jobTermination j st cause) s = .next s) ∧
    ((s.job j).st = .running → ∃ u, exec (.jobTermination j st cause) s = .next u ∧ (u.job j).st = .ending ∧ (u.job j).status = st ∧
      (u.job j).cause = cause ∧ ⟨s.cyc + 9, .jobCompletion j⟩ ∈ u.agenda ∧ (u.job j).links = [] ∧ s.sameBytes u ∧
      (∀ c, (u.clu j c).copyQ = [] ∧ (u.clu j c).gathQ = [] ∧ (u.clu j c).prm.queue = [] ∧ (u.clu j c).dde.queue = []) ∧
      ∀ (w : Tid) i e, w.job = j → (s.thread w).handles.get? i = some e → e.passed = false → e.discarded = false → e.word = none →
        (∀ k ∈ (s.job j).links, (∀ x ∈ k.2.prods, x.lead.h ≠ ⟨w, i, e.seq⟩ ∧ x.partner.h ≠ ⟨w, i, e.seq⟩) ∧
          ∀ x ∈ k.2.queue, x.h ≠ ⟨w, i, e.seq⟩) → e.reg ≠ 0 → (∀ x y, e.kind ≠ .product x y) → e.kind ≠ .start → e.kind ≠ .send → e.kind ≠ .value →
        u.rdH w e.reg = 9 ∧ u.pending w e.reg = false)

/-- A boot whose firmware verifies extends M0 and M2 and starts a privileged thread on every management core; one whose
firmware does not leaves boot status 1. A report holds the nonce, key id, M0 to M2 and a signature over its first
256 bytes. A sample over the ceiling lowers the clock one step, 16 under 95 % raise it one. A thermal trip halts
every core and ends every running job with status 5. PF0 writes keep the bits of R391, DEVID, routes and locked
windows keep their values once fixed, and M1 is extended. A bind waits or is refused with its reason, forms on a
match with one tenant, and a drop resolves spanning reductions ABORTED. A flit of this device leaves only by a valid
route over an enabled link to a bound device, and is dead otherwise; one that passes through needs the route alone.
The 16 samples are read as in one run (log entry 28), and fuse state and power are free. (R391, R394, R395, R397,
R398, R388, R366, R392) -/
def Obligations.Outside : Prop :=
  ∀ s : State,
  let d := s.dev
  let hash := Config.sha3
  let changes (i : Instr) (f : Device) : Prop := exec i s = .next { s with dev := f }
  (let ok := Config.mldsaVerify d.fuseKey (hash d.fw) d.fwSig && decide (d.rollback ≤ d.fwVersion)
   (ok = false → changes .boot { d with bootFail := true }) ∧
   (ok = true → ∃ u, exec .boot s = .next u ∧ u.dev.booted = true ∧ u.dev.m0 = hash (d.m0 ++ hash d.fw) ∧
     u.dev.m2 = hash (d.m2 ++ hash ((List.range 16).flatMap fun i => (Config.tenantKeys (i + 1)).flatten)) ∧ u.dev.m1 = d.m1 ∧
     ⟨(s.cyc / 1024 + 1) * 1024, .governorSample (Config.power s.seq)⟩ ∈ u.agenda ∧ s.sameBytes u ∧
     (∀ v r, v.job ≠ 0 → u.rd v r = s.rd v r) ∧ ∀ l, l < Config.managementCores → let t := u.thread ⟨0, l, 0⟩
       t.st = .running ∧ t.priv = true ∧ t.pc = Config.firmwareBase d.fw)) ∧
  (∀ nonce, ∃ u, exec (.attestationReport nonce) s = .next u ∧ s.sameRegs u ∧ s.sameBytes u ∧
    let head := leBytes 4 0x534B4154 ++ leBytes 4 1 ++ nonce ++ (hash d.identity).take 16 ++ (d.m0 ++ d.m1 ++ d.m2) ++ Config.fuseState d.rollback
    u.dev.report = head ++ Config.mldsaSign (hash head)) ∧
  (∀ watts, let c := min 3400 d.pcap.toNat
    ∃ u, exec (.governorSample watts) s = .next u ∧ ⟨s.cyc + 1024, .governorSample (Config.power s.seq)⟩ ∈ u.agenda ∧ s.sameRegs u ∧
      s.sameBytes u ∧ (c < watts → u.dev.steps = min 39 (d.steps + 1)) ∧
      (watts ≤ c → watts * 100 < c * 95 → d.low = 15 → u.dev.steps = d.steps - 1 ∧ u.dev.low = 0) ∧
      (watts ≤ c → watts * 100 < c * 95 → d.low ≠ 15 → u.dev.steps = d.steps ∧ u.dev.low = d.low + 1) ∧
      (watts ≤ c → c * 95 ≤ watts * 100 → u.dev.steps = d.steps ∧ u.dev.low = 0)) ∧
  (∃ u, exec .thermalTrip s = .next u ∧ s.sameRegs u ∧ s.sameBytes u ∧
    (∀ pc, pc < 1600 → (u.pcore pc).cstat = ((s.pcore pc).cstat ||| 4)) ∧
    ∀ j b, s.jobs.get? j = some b → b.st = .running → ⟨s.cyc, .jobTermination j 5 0⟩ ∈ u.agenda ∧
      ∀ w : Tid, w.job = j → (s.thread w).st ≠ .free → (u.thread w).held = true) ∧
  (∀ v, changes (.peeren v) { d with peeren := v.truncate 16, fixed := d.fixed || decide (v.toNat % 2 ^ 16 ≠ 0) }) ∧
  (∀ v off,
    let w (x : Device) : Prop := changes (.pf0RegWrite 0 off v) x
    let m1 (x : Device) : Device := { x with m1 := hash (x.m1 ++ hash (((List.range 16).flatMap fun i =>
      leBytes 8 (x.win0.getD i 0).toNat ++ leBytes 8 (x.win1.getD i 0).toNat) ++ ((List.range 16384).map fun i => x.route.getD i 0) ++
        leBytes 2 x.devid.toNat)) }
    let n := (off - 0x100) / 16
    (off = 0x08 → d.fixed = true → w d) ∧ (off = 0x08 → d.fixed = false → w (m1 { d with devid := v.truncate 14 })) ∧
    (off = 0x10 → exec (.pf0RegWrite 0 off v) s = exec (.peeren v) s) ∧ (off = 0x18 → w { d with pcap := v.truncate 16 }) ∧
    (∀ p, p < 4 → off = 0x20 + 8 * p → ∃ u, exec (.pf0RegWrite 0 off v) s = .next u ∧ s.sameRegs u ∧ s.sameBytes u ∧
      u.dev = { d with waitlim := d.waitlim.set p (BitVec.ofNat 64 (v.toNat % 2 ^ 48)) }) ∧
    (0x100 ≤ off → off < 0x200 → off % 8 = 0 → (d.win0.getD n 0).getLsbD 31 = true → w d) ∧
    (0x100 ≤ off → off < 0x200 → off % 16 = 0 → (d.win0.getD n 0).getLsbD 31 = false →
      w (m1 { d with win0 := d.win0.set n (v &&& 0x000FFFFFDFC00000) })) ∧
    (0x100 ≤ off → off < 0x200 → off % 16 = 8 → (d.win0.getD n 0).getLsbD 31 = false → w (m1 { d with win1 := d.win1.set n (v &&& 0x3FFFFF) })) ∧
    (off = 0x200 → w { d with bljob := v }) ∧ (off = 0x208 → w { d with bpdev := BitVec.ofNat 64 (v.toNat % 2 ^ 14) }) ∧
    (off = 0x210 → w { d with bpjob := v }) ∧ (off = 0x218 → v = 1 → exec (.pf0RegWrite 0 off v) s = exec .bcmdBind s) ∧
    (off = 0x218 → v = 2 → exec (.pf0RegWrite 0 off v) s = exec .bcmdUnbind s) ∧
    (off = 0x218 → v ≠ 1 → v ≠ 2 → w d) ∧ (0x4000 ≤ off → off < 0x8000 → d.fixed = true → w d) ∧
    (0x4000 ≤ off → off < 0x8000 → d.fixed = false → w (m1 { d with route := d.route.set (off - 0x4000) (v.truncate 8 &&& 0x8F) })) ∧
    ∀ fn, 1 ≤ fn → fn ≤ 16 → (d.bootFail = true → exec (.pf0RegWrite fn off v) s = .next s) ∧ (d.bootFail = false → off = 0x10 → exec (.pf0RegWrite fn off v) s = .next (s.later 0 (.lqtail fn v))) ∧
      (d.bootFail = false → d.completions = [] → off ≠ 0x10 → ∃ u, exec (.pf0RegWrite fn off v) s = .next u ∧
        let f := d.vfs.getD fn {}
        let z := u.dev.vfs.getD fn {}
        z.lqbase = (if off = 0x00 then v &&& ~~~63 else f.lqbase) ∧ z.lqsize = (if off = 0x08 then v else f.lqsize) ∧
        z.cqbase = (if off = 0x18 then v &&& ~~~31 else f.cqbase) ∧ z.cqsize = (if off = 0x20 then v else f.cqsize) ∧
        z.cqhead = (if off = 0x28 then v else f.cqhead) ∧ z.nextid = f.nextid ∧ z.lqhead = f.lqhead ∧ z.cqtail = f.cqtail ∧
        s.sameRegs u ∧ s.sameBytes u)) ∧
  (d.pf0Read 0x00 = BitVec.ofNat 64 ((if d.bootFail then 1 else 0) + if d.peeren = 0 then 0 else 16) ∧ d.pf0Read 0x08 = d.devid.zeroExtend 64 ∧
    d.pf0Read 0x10 = d.peeren.zeroExtend 64 ∧ d.pf0Read 0x18 = d.pcap.zeroExtend 64 ∧ d.pf0Read 0x200 = d.bljob ∧ d.pf0Read 0x208 = d.bpdev ∧
    d.pf0Read 0x210 = d.bpjob ∧ d.pf0Read 0x220 = d.bstat ∧ (∀ p, p < 4 → d.pf0Read (0x20 + 8 * p) = d.waitlim.getD p 0) ∧
    (∀ n, n < 16 → d.pf0Read (0x100 + 16 * n) = d.win0.getD n 0 ∧ d.pf0Read (0x108 + 16 * n) = d.win1.getD n 0) ∧
    ∀ n, n < 16384 → d.pf0Read (0x4000 + n) = (d.route.getD n 0).zeroExtend 64) ∧
  (∀ (dev peer lj ten : Nat),
    let gone (j : Nat) : Prop := s.jobs.get? j = none ∨ (s.job j).st = .ended ∨ (s.job j).st = .ending
    let route (n : Nat) : Prop := (d.route.getD n 0).getLsbD 7 = true
    let bound (j n : Nat) : Prop := ∃ x ∈ (s.job j).bound, x.1 = n
    let refuses (i : Instr) (n : Nat) : Prop := changes i { d with bstat := BitVec.ofNat 64 (3 + n * 2 ^ 8), bindCmd := none }
    let a := d.bljob.toNat
    let b := d.bpdev.toNat
    let peer_ := d.bpjob.toNat
    let waits : State := { s with dev := { d with bstat := 1, bindCmd := some (a, b, peer_) } }
    (gone a → refuses .bcmdBind 1) ∧ (¬gone a → ¬route b → refuses .bcmdBind 3) ∧ (¬gone a → route b → bound a b → refuses .bcmdBind 4) ∧
    (¬gone a → route b → ¬bound a b → exec .bcmdBind s = .next (waits.peerSend b (.bind a peer_ (s.job a).tenant))) ∧
    (let i : Instr := .peerBindMatch dev peer lj ten
     let meets : Prop := d.bindCmd = some (lj, dev, peer)
     (¬meets → exec i s = .next s) ∧ (meets → gone lj → refuses i 1) ∧ (meets → ¬gone lj → ¬route dev → refuses i 3) ∧
     (meets → ¬gone lj → route dev → bound lj dev → refuses i 4) ∧
     (meets → ¬gone lj → route dev → ¬bound lj dev → (s.job lj).tenant ≠ ten → refuses i 2) ∧
     (meets → ¬gone lj → route dev → ¬bound lj dev → (s.job lj).tenant = ten → ∃ u, exec i s = .next u ∧ u.dev = { d with bstat := 2, bindCmd := none } ∧
       (u.job lj).bound = (s.job lj).bound ++ [(dev, peer)] ∧ s.sameRegs u ∧ s.sameBytes u)) ∧
    (∀ i n j, (i = .bcmdUnbind ∧ j = a ∧ n = b) ∨ (i = .peerBindingDrop dev lj ∧ j = lj ∧ n = dev) → ∃ u, exec i s = .next u ∧
      s.sameRegs u ∧ s.sameBytes u ∧ (∀ x ∈ (u.job j).bound, x.1 ≠ n) ∧ (i = .bcmdUnbind → u.dev.bstat = 0 ∧ u.dev.bindCmd = none ∧
        ∀ x l, x ∈ (s.job j).bound → x.1 = n → d.linkTo n = some l → ⟨l, n, .drop x.2⟩ ∈ u.dev.peerOut) ∧
      (bound j n → ∀ x ∈ (s.job j).groups, n ∈ x.2.devs → ∀ o ∈ x.2.ops, ∀ y ∈ o.2.cons, y.1 ∉ o.2.resolved →
        ⟨s.cyc, .handleCompletion y.2.h 9 0⟩ ∈ u.agenda))) ∧
  (∀ n l, d.linkTo n = some l ↔ (d.route.getD n 0).getLsbD 7 = true ∧ l = (d.route.getD n 0).toNat % 16 ∧ d.peeren.getLsbD l = true) ∧
  ∀ f : Flit,
    let n := dstDev f.dst
    let leaves (m : PeerMsg) : Prop := ∀ l, d.linkTo n = some l → changes (.peerForward f) { d with peerOut := d.peerOut ++ [⟨l, n, m⟩] }
    let bound : Prop := ∃ x ∈ (s.job f.sender.job).bound, x.1 = n
    (f.foreign = false → bound → leaves (s.outward f)) ∧
    (f.foreign = false → ¬bound ∨ d.linkTo n = none → exec (.peerForward f) s = .next (s.later 0 (.sendAck f true))) ∧
    (f.foreign = true → n = d.devid.toNat → exec (.peerForward f) s = .next (s.later 0 (.flitArrival f))) ∧
    (f.foreign = true → n ≠ d.devid.toNat → leaves (.flit f.peerJob f) ∧ (d.linkTo n = none → exec (.peerForward f) s = .next (s.flitAck f true)))
end

