-- ==== Sys2Proof/Laws/Data.lean ====
section
/-!
SUPPORT. What the containers do: a map reads back what was set and nothing else changes, and every operation on a memory
keeps its canonical form.
-/

set_option linter.unusedVariables false

namespace Sys2Proof

/-! ### Maps -/

@[simp] theorem Map.get?_set_self {α : Type} (m : Map α) (k : Nat) (v : α) : (Map.set m k v).get? k = some v := by
  induction m with
  | nil => simp [Map.set, Map.get?]
  | cons p t ih =>
    obtain ⟨k', v'⟩ := p
    unfold Map.set
    split
    · simp [Map.get?]
    · split
      · simp [Map.get?]
      · simp [Map.get?, *]

theorem Map.get?_set_ne {α : Type} (m : Map α) (k l : Nat) (v : α) (h : l ≠ k) :
    (Map.set m k v).get? l = Map.get? m l := by
  induction m with
  | nil => simp [Map.set, Map.get?, Ne.symm h]
  | cons p t ih =>
    obtain ⟨k', v'⟩ := p
    unfold Map.set
    split
    · subst_vars; simp [Map.get?, Ne.symm h]
    · split
      · simp [Map.get?, Ne.symm h]
      · simp [Map.get?, ih]

@[simp] theorem Map.getD_set_self {α : Type} (m : Map α) (k : Nat) (v d : α) : (Map.set m k v).getD k d = v := by
  simp [Map.getD]

theorem Map.getD_set_ne {α : Type} (m : Map α) (k l : Nat) (v d : α) (h : l ≠ k) :
    (Map.set m k v).getD l d = Map.getD m l d := by
  simp [Map.getD, Map.get?_set_ne m k l v h]

@[simp] theorem Map.get?_del_self {α : Type} (m : Map α) (k : Nat) : (Map.del m k).get? k = none := by
  induction m with
  | nil => rfl
  | cons p t ih =>
    obtain ⟨k', v'⟩ := p
    unfold Map.del
    split <;> simp [Map.get?, *]

theorem Map.get?_del_ne {α : Type} (m : Map α) (k l : Nat) (h : l ≠ k) : (Map.del m k).get? l = Map.get? m l := by
  induction m with
  | nil => rfl
  | cons p t ih =>
    obtain ⟨k', v'⟩ := p
    unfold Map.del
    split
    · subst_vars; simp [Map.get?, Ne.symm h, ih]
    · simp [Map.get?, ih]

/-- A value that a map holds at a key stands in its list. -/
theorem Map.mem_of_get? {α : Type} (m : Map α) (k : Nat) (v : α) (h : Map.get? m k = some v) : (k, v) ∈ m := by
  induction m with
  | nil => simp [Map.get?] at h
  | cons p t ih =>
    obtain ⟨k', v'⟩ := p
    unfold Map.get? at h
    split at h
    · simp_all
    · exact List.mem_cons_of_mem _ (ih h)

/-- What a set leaves in a map: the new entry and entries that were there. -/
theorem Map.mem_set {α : Type} (m : Map α) (k : Nat) (v : α) (x : Nat × α) (h : x ∈ Map.set m k v) : x = (k, v) ∨ x ∈ m := by
  induction m with
  | nil => simp_all [Map.set]
  | cons p t ih =>
    obtain ⟨k', v'⟩ := p
    unfold Map.set at h
    split at h
    · simp_all; tauto
    · split at h
      · simp_all
      · simp only [List.mem_cons] at h ⊢
        rcases h with h | h
        · exact .inr (.inl h)
        · rcases ih h with h | h
          · exact .inl h
          · exact .inr (.inr h)

/-! ### Vectors -/

@[simp] theorem Vec.getElem_ofFn (f : Fin 64 → Lane) (i : Fin 64) : (Vec.ofFn f)[i] = f i := by
  simp [Vec.ofFn]

end Sys2Proof

namespace Sys2Proof.Machine

/-! ### Memories -/

theorem Memory.wf_nil : Memory.wf [] := by simp [Memory.wf]

theorem Memory.wf_cons (c : Host.Cell) (t : Memory) :
    Memory.wf (c :: t) ↔ (∀ d ∈ t, c.1 < d.1) ∧ c.2 ≠ Memory.blank ∧ Memory.wf t := by
  simp [Memory.wf]
  tauto

/-- What a write leaves in a memory. -/
theorem Memory.mem_write (m : Memory) (a : Nat) (b : Byte) (c : Host.Cell) (h : c ∈ m.write a b) :
    c ∈ m ∨ c = (a, b) ∧ b ≠ Memory.blank := by
  induction m with
  | nil => unfold Memory.write at h; split at h <;> simp_all
  | cons p t ih =>
    obtain ⟨a', b'⟩ := p
    unfold Memory.write at h
    split at h
    · split at h <;> simp_all; tauto
    · split at h
      · split at h <;> simp_all; tauto
      · simp only [List.mem_cons] at h ⊢
        rcases h with h | h
        · exact .inl (.inl h)
        · rcases ih h with h | h
          · exact .inl (.inr h)
          · exact .inr h

/-- A write keeps the canonical form. -/
theorem Memory.write_wf (m : Memory) (a : Nat) (b : Byte) (h : m.wf) : (m.write a b).wf := by
  induction m with
  | nil => unfold Memory.write; split <;> simp_all [Memory.wf]
  | cons p t ih =>
    obtain ⟨a', b'⟩ := p
    rw [Memory.wf_cons] at h
    obtain ⟨h1, h2, h3⟩ := h
    unfold Memory.write
    split
    · subst_vars
      split
      · exact h3
      · exact (Memory.wf_cons _ _).2 ⟨h1, by assumption, h3⟩
    · split
      · split
        · exact (Memory.wf_cons _ _).2 ⟨h1, h2, h3⟩
        · refine (Memory.wf_cons _ _).2 ⟨?_, by assumption, (Memory.wf_cons _ _).2 ⟨h1, h2, h3⟩⟩
          intro d hd
          rcases List.mem_cons.1 hd with rfl | hd
          · assumption
          · exact lt_trans (by assumption) (h1 d hd)
      · refine (Memory.wf_cons _ _).2 ⟨?_, h2, ih h3⟩
        intro d hd
        rcases Memory.mem_write t a b d hd with hd | ⟨rfl, -⟩
        · exact h1 d hd
        · simp_all; omega

/-- A write of several bytes keeps the canonical form. -/
theorem Memory.writeBytes_wf (bs : List Byte) (m : Memory) (a : Nat) (h : m.wf) : (m.writeBytes a bs).wf := by
  induction bs generalizing m a with
  | nil => exact h
  | cons b bs ih => exact ih _ _ (Memory.write_wf m a b h)

theorem Memory.writeNat_wf (m : Memory) (a n v : Nat) (h : m.wf) : (m.writeNat a n v).wf :=
  Memory.writeBytes_wf _ _ _ h

theorem Memory.write64_wf (m : Memory) (a : Nat) (v : Word) (h : m.wf) : (m.write64 a v).wf :=
  Memory.writeNat_wf _ _ _ _ h

/-- Part of a memory is in canonical form. -/
theorem Memory.filter_wf (m : Memory) (p : Host.Cell → Bool) (h : m.wf) : Memory.wf (m.filter p) := by
  refine ⟨List.Pairwise.sublist (List.Sublist.map _ List.filter_sublist) h.1, ?_⟩
  intro c hc
  exact h.2 c ((List.mem_filter.1 hc).1)

theorem Memory.clear_wf (m : Memory) (a n : Nat) (h : m.wf) : (m.clear a n).wf := Memory.filter_wf m _ h

/-- A splice of entries of its range, in canonical form, keeps the canonical form. -/
theorem Memory.spliceAt_wf (m c : Memory) (a n : Nat) (h : m.wf) (hc : c.wf) (hr : ∀ x ∈ c, a ≤ x.1 ∧ x.1 < a + n) :
    Memory.wf (spliceAt m a n c) := by
  have hl := Memory.filter_wf m (fun x => x.1 < a) h
  have hu := Memory.filter_wf m (fun x => a + n ≤ x.1) h
  constructor
  · simp only [spliceAt, List.map_append, List.pairwise_append, List.mem_append, List.mem_map]
    refine ⟨⟨hl.1, hc.1, ?_⟩, hu.1, ?_⟩
    · rintro _ ⟨x, hx, rfl⟩ _ ⟨y, hy, rfl⟩
      have hx := (List.mem_filter.1 hx).2
      have := hr y hy
      simp at hx
      omega
    · rintro _ (⟨x, hx, rfl⟩ | ⟨x, hx, rfl⟩) _ ⟨y, hy, rfl⟩
      · have hx := (List.mem_filter.1 hx).2
        have hy := (List.mem_filter.1 hy).2
        simp at hx hy
        omega
      · have hy := (List.mem_filter.1 hy).2
        have := hr x hx
        simp at hy
        omega
  · intro x hx
    simp only [spliceAt, List.mem_append] at hx
    rcases hx with (hx | hx) | hx
    · exact hl.2 x hx
    · exact hc.2 x hx
    · exact hu.2 x hx

/-- An overlay keeps the canonical form. -/
theorem Memory.overlay_wf (m : Memory) (a n : Nat) (f : Nat → Byte) (h : m.wf) : (m.overlay a n f).wf := by
  refine Memory.spliceAt_wf _ _ _ _ h ⟨?_, ?_⟩ ?_
  · refine List.Pairwise.sublist (List.Sublist.map _ List.filter_sublist) ?_
    rw [List.map_map]
    rw [List.pairwise_map]
    refine List.Pairwise.imp ?_ List.pairwise_lt_range
    intro x y hxy
    simpa using hxy
  · intro c hc
    simpa using (List.mem_filter.1 hc).2
  · intro c hc
    have hc := (List.mem_filter.1 hc).1
    simp only [List.mem_map, List.mem_range] at hc
    obtain ⟨i, hi, rfl⟩ := hc
    simp; omega

/-- Entries cut out of a memory, counted from the start of the range, are in canonical form. -/
theorem Memory.cutFrom_wf (m : Memory) (a n : Nat) (h : m.wf) : Memory.wf (cutFrom m a n) := by
  have hf := Memory.filter_wf m (fun c => a ≤ c.1 && c.1 < a + n) h
  constructor
  · simp only [cutFrom, List.map_map]
    rw [List.pairwise_map]
    have h1 := hf.1
    rw [List.pairwise_map] at h1
    refine List.Pairwise.imp_of_mem ?_ h1
    intro x y hx hy hxy
    have hx := (List.mem_filter.1 hx).2
    have hy := (List.mem_filter.1 hy).2
    simp at hx hy ⊢
    omega
  · intro c hc
    simp only [cutFrom, List.mem_map] at hc
    obtain ⟨d, hd, rfl⟩ := hc
    exact hf.2 d hd

theorem Memory.shiftBy_wf (m : Memory) (a : Nat) (h : m.wf) : Memory.wf (shiftBy a m) := by
  constructor
  · simp only [shiftBy, List.map_map]
    rw [List.pairwise_map]
    have h1 := h.1
    rw [List.pairwise_map] at h1
    refine List.Pairwise.imp ?_ h1
    intro x y hxy
    simpa using hxy
  · intro c hc
    simp only [shiftBy, List.mem_map] at hc
    obtain ⟨d, hd, rfl⟩ := hc
    exact h.2 d hd

/-- A byte reads back after its write. -/
theorem Memory.read_write_self (m : Memory) (a : Nat) (b : Byte) (h : m.wf) : (m.write a b).read a = b := by
  induction m with
  | nil => unfold Memory.write; split <;> simp_all [Memory.read]
  | cons p t ih =>
    obtain ⟨a', b'⟩ := p
    rw [Memory.wf_cons] at h
    obtain ⟨h1, h2, h3⟩ := h
    unfold Memory.write
    split
    · subst_vars
      split
      · subst_vars
        cases t with
        | nil => rfl
        | cons d t =>
          have := h1 d (by simp)
          obtain ⟨x, y⟩ := d
          simp only [Memory.read]
          rw [if_neg (by simp at this; omega), if_pos (by simpa using this)]
      · simp [Memory.read]
    · split
      · split
        · simp_all [Memory.read]
        · simp [Memory.read]
      · simp only [Memory.read]
        rw [if_neg (by assumption), if_neg (by assumption), ih h3]

/-- A write leaves every other byte as it reads. -/
theorem Memory.read_write_ne (m : Memory) (a c : Nat) (b : Byte) (hc : c ≠ a) (h : m.wf) : (m.write a b).read c = m.read c := by
  induction m with
  | nil =>
    unfold Memory.write
    split
    · rfl
    · simp only [Memory.read]
      rw [if_neg (Ne.symm hc)]
      split <;> rfl
  | cons p t ih =>
    obtain ⟨a', b'⟩ := p
    rw [Memory.wf_cons] at h
    obtain ⟨h1, h2, h3⟩ := h
    unfold Memory.write
    split
    · subst_vars
      split
      · simp only [Memory.read]
        rw [if_neg (Ne.symm hc)]
        split
        · rename_i hlt
          cases t with
          | nil => rfl
          | cons d t =>
            have := h1 d (by simp)
            obtain ⟨x, y⟩ := d
            simp only [Memory.read]
            rw [if_neg (by simp at this; omega), if_pos (by simp at this; omega)]
        · rfl
      · simp only [Memory.read]
        rw [if_neg (Ne.symm hc), if_neg (Ne.symm hc)]
    · split
      · split
        · rfl
        · simp only [Memory.read]
          rw [if_neg (Ne.symm hc)]
          split
          · have : ¬ a' = c := by omega
            rw [if_neg this, if_pos (by omega)]
          · rfl
      · simp only [Memory.read, ih h3]

end Sys2Proof.Machine
end

