-- ==== Sys2Proof/Laws/Encoding.lean ====
section
/-!
SUPPORT. The instruction word and its fields (R33): each determines the other.
-/

set_option linter.unusedSimpArgs false

namespace Sys2Proof

/-- Bits of a concatenation above its lower part. -/
theorem extract_high {a m : Nat} (x : BitVec a) (y : BitVec m) (k n : Nat) (h : m ≤ k) :
    (x ++ y).extractLsb' k n = x.extractLsb' (k - m) n := by
  apply BitVec.eq_of_getLsbD_eq; intro i hi
  simp only [BitVec.getLsbD_extractLsb', BitVec.getLsbD_append, hi, decide_true, Bool.true_and]
  rw [if_neg (by omega)]; congr 1; omega

/-- Bits of a concatenation within its lower part. -/
theorem extract_low {a m : Nat} (x : BitVec a) (y : BitVec m) (k n : Nat) (h : k + n ≤ m) :
    (x ++ y).extractLsb' k n = y.extractLsb' k n := by
  apply BitVec.eq_of_getLsbD_eq; intro i hi
  simp only [BitVec.getLsbD_extractLsb', BitVec.getLsbD_append, hi, decide_true, Bool.true_and]
  rw [if_pos (by omega)]

theorem extract_all {n : Nat} (x : BitVec n) : x.extractLsb' 0 n = x := by
  apply BitVec.eq_of_getLsbD_eq; intro i hi
  simp [BitVec.getLsbD_extractLsb', hi]

/-- A single bit as a field. -/
theorem ofBool_bit {n : Nat} (w : BitVec n) (k : Nat) : BitVec.ofBool (w.getLsbD k) = w.extractLsb' k 1 := by
  apply BitVec.eq_of_getLsbD_eq; intro i hi
  have : i = 0 := by omega
  subst this
  simp [BitVec.getLsbD_extractLsb']

/-- Fields side by side are one field. -/
theorem append_extract {m : Nat} (w : BitVec m) (k a n : Nat) (h : k = a + n) (p : Nat) :
    w.extractLsb' k p ++ w.extractLsb' a n = w.extractLsb' a (p + n) := by
  subst h
  apply BitVec.eq_of_getLsbD_eq; intro i hi
  simp only [BitVec.getLsbD_extractLsb', BitVec.getLsbD_append, hi, decide_true, Bool.true_and]
  split
  · simp_all
  · rw [decide_eq_true (by omega)]; simp; congr 1; omega

theorem bit_high {a m : Nat} (x : BitVec a) (y : BitVec m) (k : Nat) (h : m ≤ k) : (x ++ y).getLsbD k = x.getLsbD (k - m) := by
  rw [BitVec.getLsbD_append, if_neg (by omega)]

theorem bit_low {a m : Nat} (x : BitVec a) (y : BitVec m) (k : Nat) (h : k < m) : (x ++ y).getLsbD k = y.getLsbD k := by
  rw [BitVec.getLsbD_append, if_pos h]

/-- The fields laid out as R33 says are read back as they are. -/
theorem Fields.ofWord_toWord (f : Fields) : Fields.ofWord f.toWord = f := by
  obtain ⟨opc, la, gn, gp, rx, rsv, md, d, a, b, i, t, rm, sat, fn, imm⟩ := f
  have key (k n : Nat) : (Fields.toWord ⟨opc, la, gn, gp, rx, rsv, md, d, a, b, i, t, rm, sat, fn, imm⟩).extractLsb' k n =
      BitVec.extractLsb' (n := 10 + 4 + 1 + 3 + 1 + 1 + 2 + 7 + 7 + 7 + 1 + 4 + 3 + 1 + 12 + 32) k n
        (opc ++ la ++ BitVec.ofBool gn ++ gp ++ BitVec.ofBool rx ++ BitVec.ofBool rsv ++ md ++ d ++ a ++ b ++ BitVec.ofBool i ++ t ++
          rm ++ BitVec.ofBool sat ++ fn ++ imm) := rfl
  have bit (k : Nat) : (Fields.toWord ⟨opc, la, gn, gp, rx, rsv, md, d, a, b, i, t, rm, sat, fn, imm⟩).getLsbD k =
      BitVec.getLsbD (w := 10 + 4 + 1 + 3 + 1 + 1 + 2 + 7 + 7 + 7 + 1 + 4 + 3 + 1 + 12 + 32)
        (opc ++ la ++ BitVec.ofBool gn ++ gp ++ BitVec.ofBool rx ++ BitVec.ofBool rsv ++ md ++ d ++ a ++ b ++ BitVec.ofBool i ++ t ++
          rm ++ BitVec.ofBool sat ++ fn ++ imm) k := rfl
  simp only [Fields.ofWord, Fields.mk.injEq, key, bit]
  refine ⟨?_, ?_, ?_, ?_, ?_, ?_, ?_, ?_, ?_, ?_, ?_, ?_, ?_, ?_, ?_, ?_⟩
  all_goals
    simp (disch := decide) only [extract_low, extract_high, extract_all, bit_high, bit_low, Nat.reduceSub, Nat.sub_self, Nat.sub_zero, BitVec.getLsbD_ofBool, decide_true, Bool.true_and]

/-- No bit of a word is lost in its fields. -/
theorem Fields.toWord_ofWord (w : BitVec 96) : (Fields.ofWord w).toWord = w := by
  simp only [Fields.ofWord, Fields.toWord, ofBool_bit]
  rw [append_extract w 86 82 4 rfl, append_extract w 82 81 1 rfl, append_extract w 81 78 3 rfl, append_extract w 78 77 1 rfl, append_extract w 77 76 1 rfl, append_extract w 76 74 2 rfl, append_extract w 74 67 7 rfl, append_extract w 67 60 7 rfl, append_extract w 60 53 7 rfl,append_extract w 53 52 1 rfl,append_extract w 52 48 4 rfl,append_extract w 48 45 3 rfl,append_extract w 45 44 1 rfl,append_extract w 44 32 12 rfl,append_extract w 32 0 32 rfl]
  exact extract_all w

end Sys2Proof
end

