-- ==== Sys2Proof/Laws/State.lean ====
section
/-!
SUPPORT. What each update of the state leaves as it is, and what a lookup gives after it: one lemma for each field and each
update, so that no proof unfolds a record.
-/

set_option linter.unusedVariables false
set_option linter.unusedSimpArgs false

namespace Sys2Proof.Machine

/-! ### Fields of the state -/

/-! #### `modJob` -/

@[simp] theorem State.modJob_cyc (s : State) (j : Nat) (f : Job → Job) : (s.modJob j f).cyc = s.cyc := rfl
@[simp] theorem State.modJob_scan (s : State) (j : Nat) (f : Job → Job) : (s.modJob j f).scan = s.scan := rfl
@[simp] theorem State.modJob_seq (s : State) (j : Nat) (f : Job → Job) : (s.modJob j f).seq = s.seq := rfl
@[simp] theorem State.modJob_cur (s : State) (j : Nat) (f : Job → Job) : (s.modJob j f).cur = s.cur := rfl
@[simp] theorem State.modJob_agenda (s : State) (j : Nat) (f : Job → Job) : (s.modJob j f).agenda = s.agenda := rfl
@[simp] theorem State.modJob_pcores (s : State) (j : Nat) (f : Job → Job) : (s.modJob j f).pcores = s.pcores := rfl
@[simp] theorem State.modJob_pclus (s : State) (j : Nat) (f : Job → Job) : (s.modJob j f).pclus = s.pclus := rfl
@[simp] theorem State.modJob_accs (s : State) (j : Nat) (f : Job → Job) : (s.modJob j f).accs = s.accs := rfl
@[simp] theorem State.modJob_walks (s : State) (j : Nat) (f : Job → Job) : (s.modJob j f).walks = s.walks := rfl
@[simp] theorem State.modJob_packets (s : State) (j : Nat) (f : Job → Job) : (s.modJob j f).packets = s.packets := rfl
@[simp] theorem State.modJob_routers (s : State) (j : Nat) (f : Job → Job) : (s.modJob j f).routers = s.routers := rfl
@[simp] theorem State.modJob_linkLast (s : State) (j : Nat) (f : Job → Job) : (s.modJob j f).linkLast = s.linkLast := rfl
@[simp] theorem State.modJob_trans (s : State) (j : Nat) (f : Job → Job) : (s.modJob j f).trans = s.trans := rfl
@[simp] theorem State.modJob_transReqs (s : State) (j : Nat) (f : Job → Job) : (s.modJob j f).transReqs = s.transReqs := rfl
@[simp] theorem State.modJob_pool (s : State) (j : Nat) (f : Job → Job) : (s.modJob j f).pool = s.pool := rfl
@[simp] theorem State.modJob_poolBuf (s : State) (j : Nat) (f : Job → Job) : (s.modJob j f).poolBuf = s.poolBuf := rfl
@[simp] theorem State.modJob_host (s : State) (j : Nat) (f : Job → Job) : (s.modJob j f).host = s.host := rfl
@[simp] theorem State.modJob_dev (s : State) (j : Nat) (f : Job → Job) : (s.modJob j f).dev = s.dev := rfl

/-! #### `modCore` -/

@[simp] theorem State.modCore_cyc (s : State) (j l : Nat) (f : LCore → LCore) : (s.modCore j l f).cyc = s.cyc := rfl
@[simp] theorem State.modCore_scan (s : State) (j l : Nat) (f : LCore → LCore) : (s.modCore j l f).scan = s.scan := rfl
@[simp] theorem State.modCore_seq (s : State) (j l : Nat) (f : LCore → LCore) : (s.modCore j l f).seq = s.seq := rfl
@[simp] theorem State.modCore_cur (s : State) (j l : Nat) (f : LCore → LCore) : (s.modCore j l f).cur = s.cur := rfl
@[simp] theorem State.modCore_agenda (s : State) (j l : Nat) (f : LCore → LCore) : (s.modCore j l f).agenda = s.agenda := rfl
@[simp] theorem State.modCore_pcores (s : State) (j l : Nat) (f : LCore → LCore) : (s.modCore j l f).pcores = s.pcores := rfl
@[simp] theorem State.modCore_pclus (s : State) (j l : Nat) (f : LCore → LCore) : (s.modCore j l f).pclus = s.pclus := rfl
@[simp] theorem State.modCore_accs (s : State) (j l : Nat) (f : LCore → LCore) : (s.modCore j l f).accs = s.accs := rfl
@[simp] theorem State.modCore_walks (s : State) (j l : Nat) (f : LCore → LCore) : (s.modCore j l f).walks = s.walks := rfl
@[simp] theorem State.modCore_packets (s : State) (j l : Nat) (f : LCore → LCore) : (s.modCore j l f).packets = s.packets := rfl
@[simp] theorem State.modCore_routers (s : State) (j l : Nat) (f : LCore → LCore) : (s.modCore j l f).routers = s.routers := rfl
@[simp] theorem State.modCore_linkLast (s : State) (j l : Nat) (f : LCore → LCore) : (s.modCore j l f).linkLast = s.linkLast := rfl
@[simp] theorem State.modCore_trans (s : State) (j l : Nat) (f : LCore → LCore) : (s.modCore j l f).trans = s.trans := rfl
@[simp] theorem State.modCore_transReqs (s : State) (j l : Nat) (f : LCore → LCore) : (s.modCore j l f).transReqs = s.transReqs := rfl
@[simp] theorem State.modCore_pool (s : State) (j l : Nat) (f : LCore → LCore) : (s.modCore j l f).pool = s.pool := rfl
@[simp] theorem State.modCore_poolBuf (s : State) (j l : Nat) (f : LCore → LCore) : (s.modCore j l f).poolBuf = s.poolBuf := rfl
@[simp] theorem State.modCore_host (s : State) (j l : Nat) (f : LCore → LCore) : (s.modCore j l f).host = s.host := rfl
@[simp] theorem State.modCore_dev (s : State) (j l : Nat) (f : LCore → LCore) : (s.modCore j l f).dev = s.dev := rfl

/-! #### `modClu` -/

@[simp] theorem State.modClu_cyc (s : State) (j c : Nat) (f : LCluster → LCluster) : (s.modClu j c f).cyc = s.cyc := rfl
@[simp] theorem State.modClu_scan (s : State) (j c : Nat) (f : LCluster → LCluster) : (s.modClu j c f).scan = s.scan := rfl
@[simp] theorem State.modClu_seq (s : State) (j c : Nat) (f : LCluster → LCluster) : (s.modClu j c f).seq = s.seq := rfl
@[simp] theorem State.modClu_cur (s : State) (j c : Nat) (f : LCluster → LCluster) : (s.modClu j c f).cur = s.cur := rfl
@[simp] theorem State.modClu_agenda (s : State) (j c : Nat) (f : LCluster → LCluster) : (s.modClu j c f).agenda = s.agenda := rfl
@[simp] theorem State.modClu_pcores (s : State) (j c : Nat) (f : LCluster → LCluster) : (s.modClu j c f).pcores = s.pcores := rfl
@[simp] theorem State.modClu_pclus (s : State) (j c : Nat) (f : LCluster → LCluster) : (s.modClu j c f).pclus = s.pclus := rfl
@[simp] theorem State.modClu_accs (s : State) (j c : Nat) (f : LCluster → LCluster) : (s.modClu j c f).accs = s.accs := rfl
@[simp] theorem State.modClu_walks (s : State) (j c : Nat) (f : LCluster → LCluster) : (s.modClu j c f).walks = s.walks := rfl
@[simp] theorem State.modClu_packets (s : State) (j c : Nat) (f : LCluster → LCluster) : (s.modClu j c f).packets = s.packets := rfl
@[simp] theorem State.modClu_routers (s : State) (j c : Nat) (f : LCluster → LCluster) : (s.modClu j c f).routers = s.routers := rfl
@[simp] theorem State.modClu_linkLast (s : State) (j c : Nat) (f : LCluster → LCluster) : (s.modClu j c f).linkLast = s.linkLast := rfl
@[simp] theorem State.modClu_trans (s : State) (j c : Nat) (f : LCluster → LCluster) : (s.modClu j c f).trans = s.trans := rfl
@[simp] theorem State.modClu_transReqs (s : State) (j c : Nat) (f : LCluster → LCluster) : (s.modClu j c f).transReqs = s.transReqs := rfl
@[simp] theorem State.modClu_pool (s : State) (j c : Nat) (f : LCluster → LCluster) : (s.modClu j c f).pool = s.pool := rfl
@[simp] theorem State.modClu_poolBuf (s : State) (j c : Nat) (f : LCluster → LCluster) : (s.modClu j c f).poolBuf = s.poolBuf := rfl
@[simp] theorem State.modClu_host (s : State) (j c : Nat) (f : LCluster → LCluster) : (s.modClu j c f).host = s.host := rfl
@[simp] theorem State.modClu_dev (s : State) (j c : Nat) (f : LCluster → LCluster) : (s.modClu j c f).dev = s.dev := rfl

/-! #### `modThread` -/

@[simp] theorem State.modThread_cyc (s : State) (w : Tid) (f : Thread → Thread) : (s.modThread w f).cyc = s.cyc := rfl
@[simp] theorem State.modThread_scan (s : State) (w : Tid) (f : Thread → Thread) : (s.modThread w f).scan = s.scan := rfl
@[simp] theorem State.modThread_seq (s : State) (w : Tid) (f : Thread → Thread) : (s.modThread w f).seq = s.seq := rfl
@[simp] theorem State.modThread_cur (s : State) (w : Tid) (f : Thread → Thread) : (s.modThread w f).cur = s.cur := rfl
@[simp] theorem State.modThread_agenda (s : State) (w : Tid) (f : Thread → Thread) : (s.modThread w f).agenda = s.agenda := rfl
@[simp] theorem State.modThread_pcores (s : State) (w : Tid) (f : Thread → Thread) : (s.modThread w f).pcores = s.pcores := rfl
@[simp] theorem State.modThread_pclus (s : State) (w : Tid) (f : Thread → Thread) : (s.modThread w f).pclus = s.pclus := rfl
@[simp] theorem State.modThread_accs (s : State) (w : Tid) (f : Thread → Thread) : (s.modThread w f).accs = s.accs := rfl
@[simp] theorem State.modThread_walks (s : State) (w : Tid) (f : Thread → Thread) : (s.modThread w f).walks = s.walks := rfl
@[simp] theorem State.modThread_packets (s : State) (w : Tid) (f : Thread → Thread) : (s.modThread w f).packets = s.packets := rfl
@[simp] theorem State.modThread_routers (s : State) (w : Tid) (f : Thread → Thread) : (s.modThread w f).routers = s.routers := rfl
@[simp] theorem State.modThread_linkLast (s : State) (w : Tid) (f : Thread → Thread) : (s.modThread w f).linkLast = s.linkLast := rfl
@[simp] theorem State.modThread_trans (s : State) (w : Tid) (f : Thread → Thread) : (s.modThread w f).trans = s.trans := rfl
@[simp] theorem State.modThread_transReqs (s : State) (w : Tid) (f : Thread → Thread) : (s.modThread w f).transReqs = s.transReqs := rfl
@[simp] theorem State.modThread_pool (s : State) (w : Tid) (f : Thread → Thread) : (s.modThread w f).pool = s.pool := rfl
@[simp] theorem State.modThread_poolBuf (s : State) (w : Tid) (f : Thread → Thread) : (s.modThread w f).poolBuf = s.poolBuf := rfl
@[simp] theorem State.modThread_host (s : State) (w : Tid) (f : Thread → Thread) : (s.modThread w f).host = s.host := rfl
@[simp] theorem State.modThread_dev (s : State) (w : Tid) (f : Thread → Thread) : (s.modThread w f).dev = s.dev := rfl

/-! #### `modPCore` -/

@[simp] theorem State.modPCore_cyc (s : State) (pc : Nat) (f : PCore → PCore) : (s.modPCore pc f).cyc = s.cyc := rfl
@[simp] theorem State.modPCore_scan (s : State) (pc : Nat) (f : PCore → PCore) : (s.modPCore pc f).scan = s.scan := rfl
@[simp] theorem State.modPCore_seq (s : State) (pc : Nat) (f : PCore → PCore) : (s.modPCore pc f).seq = s.seq := rfl
@[simp] theorem State.modPCore_cur (s : State) (pc : Nat) (f : PCore → PCore) : (s.modPCore pc f).cur = s.cur := rfl
@[simp] theorem State.modPCore_agenda (s : State) (pc : Nat) (f : PCore → PCore) : (s.modPCore pc f).agenda = s.agenda := rfl
@[simp] theorem State.modPCore_jobs (s : State) (pc : Nat) (f : PCore → PCore) : (s.modPCore pc f).jobs = s.jobs := rfl
@[simp] theorem State.modPCore_pclus (s : State) (pc : Nat) (f : PCore → PCore) : (s.modPCore pc f).pclus = s.pclus := rfl
@[simp] theorem State.modPCore_accs (s : State) (pc : Nat) (f : PCore → PCore) : (s.modPCore pc f).accs = s.accs := rfl
@[simp] theorem State.modPCore_walks (s : State) (pc : Nat) (f : PCore → PCore) : (s.modPCore pc f).walks = s.walks := rfl
@[simp] theorem State.modPCore_packets (s : State) (pc : Nat) (f : PCore → PCore) : (s.modPCore pc f).packets = s.packets := rfl
@[simp] theorem State.modPCore_routers (s : State) (pc : Nat) (f : PCore → PCore) : (s.modPCore pc f).routers = s.routers := rfl
@[simp] theorem State.modPCore_linkLast (s : State) (pc : Nat) (f : PCore → PCore) : (s.modPCore pc f).linkLast = s.linkLast := rfl
@[simp] theorem State.modPCore_trans (s : State) (pc : Nat) (f : PCore → PCore) : (s.modPCore pc f).trans = s.trans := rfl
@[simp] theorem State.modPCore_transReqs (s : State) (pc : Nat) (f : PCore → PCore) : (s.modPCore pc f).transReqs = s.transReqs := rfl
@[simp] theorem State.modPCore_pool (s : State) (pc : Nat) (f : PCore → PCore) : (s.modPCore pc f).pool = s.pool := rfl
@[simp] theorem State.modPCore_poolBuf (s : State) (pc : Nat) (f : PCore → PCore) : (s.modPCore pc f).poolBuf = s.poolBuf := rfl
@[simp] theorem State.modPCore_host (s : State) (pc : Nat) (f : PCore → PCore) : (s.modPCore pc f).host = s.host := rfl
@[simp] theorem State.modPCore_dev (s : State) (pc : Nat) (f : PCore → PCore) : (s.modPCore pc f).dev = s.dev := rfl

/-! #### `modPClu` -/

@[simp] theorem State.modPClu_cyc (s : State) (pcl : Nat) (f : PCluster → PCluster) : (s.modPClu pcl f).cyc = s.cyc := rfl
@[simp] theorem State.modPClu_scan (s : State) (pcl : Nat) (f : PCluster → PCluster) : (s.modPClu pcl f).scan = s.scan := rfl
@[simp] theorem State.modPClu_seq (s : State) (pcl : Nat) (f : PCluster → PCluster) : (s.modPClu pcl f).seq = s.seq := rfl
@[simp] theorem State.modPClu_cur (s : State) (pcl : Nat) (f : PCluster → PCluster) : (s.modPClu pcl f).cur = s.cur := rfl
@[simp] theorem State.modPClu_agenda (s : State) (pcl : Nat) (f : PCluster → PCluster) : (s.modPClu pcl f).agenda = s.agenda := rfl
@[simp] theorem State.modPClu_jobs (s : State) (pcl : Nat) (f : PCluster → PCluster) : (s.modPClu pcl f).jobs = s.jobs := rfl
@[simp] theorem State.modPClu_pcores (s : State) (pcl : Nat) (f : PCluster → PCluster) : (s.modPClu pcl f).pcores = s.pcores := rfl
@[simp] theorem State.modPClu_accs (s : State) (pcl : Nat) (f : PCluster → PCluster) : (s.modPClu pcl f).accs = s.accs := rfl
@[simp] theorem State.modPClu_walks (s : State) (pcl : Nat) (f : PCluster → PCluster) : (s.modPClu pcl f).walks = s.walks := rfl
@[simp] theorem State.modPClu_packets (s : State) (pcl : Nat) (f : PCluster → PCluster) : (s.modPClu pcl f).packets = s.packets := rfl
@[simp] theorem State.modPClu_routers (s : State) (pcl : Nat) (f : PCluster → PCluster) : (s.modPClu pcl f).routers = s.routers := rfl
@[simp] theorem State.modPClu_linkLast (s : State) (pcl : Nat) (f : PCluster → PCluster) : (s.modPClu pcl f).linkLast = s.linkLast := rfl
@[simp] theorem State.modPClu_trans (s : State) (pcl : Nat) (f : PCluster → PCluster) : (s.modPClu pcl f).trans = s.trans := rfl
@[simp] theorem State.modPClu_transReqs (s : State) (pcl : Nat) (f : PCluster → PCluster) : (s.modPClu pcl f).transReqs = s.transReqs := rfl
@[simp] theorem State.modPClu_pool (s : State) (pcl : Nat) (f : PCluster → PCluster) : (s.modPClu pcl f).pool = s.pool := rfl
@[simp] theorem State.modPClu_poolBuf (s : State) (pcl : Nat) (f : PCluster → PCluster) : (s.modPClu pcl f).poolBuf = s.poolBuf := rfl
@[simp] theorem State.modPClu_host (s : State) (pcl : Nat) (f : PCluster → PCluster) : (s.modPClu pcl f).host = s.host := rfl
@[simp] theorem State.modPClu_dev (s : State) (pcl : Nat) (f : PCluster → PCluster) : (s.modPClu pcl f).dev = s.dev := rfl

/-! #### `drawn` -/

@[simp] theorem State.drawn_cyc (s : State) : (s.drawn).cyc = s.cyc := rfl
@[simp] theorem State.drawn_scan (s : State) : (s.drawn).scan = s.scan := rfl
@[simp] theorem State.drawn_cur (s : State) : (s.drawn).cur = s.cur := rfl
@[simp] theorem State.drawn_agenda (s : State) : (s.drawn).agenda = s.agenda := rfl
@[simp] theorem State.drawn_jobs (s : State) : (s.drawn).jobs = s.jobs := rfl
@[simp] theorem State.drawn_pcores (s : State) : (s.drawn).pcores = s.pcores := rfl
@[simp] theorem State.drawn_pclus (s : State) : (s.drawn).pclus = s.pclus := rfl
@[simp] theorem State.drawn_accs (s : State) : (s.drawn).accs = s.accs := rfl
@[simp] theorem State.drawn_walks (s : State) : (s.drawn).walks = s.walks := rfl
@[simp] theorem State.drawn_packets (s : State) : (s.drawn).packets = s.packets := rfl
@[simp] theorem State.drawn_routers (s : State) : (s.drawn).routers = s.routers := rfl
@[simp] theorem State.drawn_linkLast (s : State) : (s.drawn).linkLast = s.linkLast := rfl
@[simp] theorem State.drawn_trans (s : State) : (s.drawn).trans = s.trans := rfl
@[simp] theorem State.drawn_transReqs (s : State) : (s.drawn).transReqs = s.transReqs := rfl
@[simp] theorem State.drawn_pool (s : State) : (s.drawn).pool = s.pool := rfl
@[simp] theorem State.drawn_poolBuf (s : State) : (s.drawn).poolBuf = s.poolBuf := rfl
@[simp] theorem State.drawn_host (s : State) : (s.drawn).host = s.host := rfl
@[simp] theorem State.drawn_dev (s : State) : (s.drawn).dev = s.dev := rfl

/-! #### `atCycle` -/

@[simp] theorem State.atCycle_cyc (s : State) (n : Nat) (e : Event) : (s.atCycle n e).cyc = s.cyc := rfl
@[simp] theorem State.atCycle_scan (s : State) (n : Nat) (e : Event) : (s.atCycle n e).scan = s.scan := rfl
@[simp] theorem State.atCycle_seq (s : State) (n : Nat) (e : Event) : (s.atCycle n e).seq = s.seq := rfl
@[simp] theorem State.atCycle_cur (s : State) (n : Nat) (e : Event) : (s.atCycle n e).cur = s.cur := rfl
@[simp] theorem State.atCycle_jobs (s : State) (n : Nat) (e : Event) : (s.atCycle n e).jobs = s.jobs := rfl
@[simp] theorem State.atCycle_pcores (s : State) (n : Nat) (e : Event) : (s.atCycle n e).pcores = s.pcores := rfl
@[simp] theorem State.atCycle_pclus (s : State) (n : Nat) (e : Event) : (s.atCycle n e).pclus = s.pclus := rfl
@[simp] theorem State.atCycle_accs (s : State) (n : Nat) (e : Event) : (s.atCycle n e).accs = s.accs := rfl
@[simp] theorem State.atCycle_walks (s : State) (n : Nat) (e : Event) : (s.atCycle n e).walks = s.walks := rfl
@[simp] theorem State.atCycle_packets (s : State) (n : Nat) (e : Event) : (s.atCycle n e).packets = s.packets := rfl
@[simp] theorem State.atCycle_routers (s : State) (n : Nat) (e : Event) : (s.atCycle n e).routers = s.routers := rfl
@[simp] theorem State.atCycle_linkLast (s : State) (n : Nat) (e : Event) : (s.atCycle n e).linkLast = s.linkLast := rfl
@[simp] theorem State.atCycle_trans (s : State) (n : Nat) (e : Event) : (s.atCycle n e).trans = s.trans := rfl
@[simp] theorem State.atCycle_transReqs (s : State) (n : Nat) (e : Event) : (s.atCycle n e).transReqs = s.transReqs := rfl
@[simp] theorem State.atCycle_pool (s : State) (n : Nat) (e : Event) : (s.atCycle n e).pool = s.pool := rfl
@[simp] theorem State.atCycle_poolBuf (s : State) (n : Nat) (e : Event) : (s.atCycle n e).poolBuf = s.poolBuf := rfl
@[simp] theorem State.atCycle_host (s : State) (n : Nat) (e : Event) : (s.atCycle n e).host = s.host := rfl
@[simp] theorem State.atCycle_dev (s : State) (n : Nat) (e : Event) : (s.atCycle n e).dev = s.dev := rfl

/-! #### `later` -/

@[simp] theorem State.later_cyc (s : State) (n : Nat) (e : Event) : (s.later n e).cyc = s.cyc := rfl
@[simp] theorem State.later_scan (s : State) (n : Nat) (e : Event) : (s.later n e).scan = s.scan := rfl
@[simp] theorem State.later_seq (s : State) (n : Nat) (e : Event) : (s.later n e).seq = s.seq := rfl
@[simp] theorem State.later_cur (s : State) (n : Nat) (e : Event) : (s.later n e).cur = s.cur := rfl
@[simp] theorem State.later_jobs (s : State) (n : Nat) (e : Event) : (s.later n e).jobs = s.jobs := rfl
@[simp] theorem State.later_pcores (s : State) (n : Nat) (e : Event) : (s.later n e).pcores = s.pcores := rfl
@[simp] theorem State.later_pclus (s : State) (n : Nat) (e : Event) : (s.later n e).pclus = s.pclus := rfl
@[simp] theorem State.later_accs (s : State) (n : Nat) (e : Event) : (s.later n e).accs = s.accs := rfl
@[simp] theorem State.later_walks (s : State) (n : Nat) (e : Event) : (s.later n e).walks = s.walks := rfl
@[simp] theorem State.later_packets (s : State) (n : Nat) (e : Event) : (s.later n e).packets = s.packets := rfl
@[simp] theorem State.later_routers (s : State) (n : Nat) (e : Event) : (s.later n e).routers = s.routers := rfl
@[simp] theorem State.later_linkLast (s : State) (n : Nat) (e : Event) : (s.later n e).linkLast = s.linkLast := rfl
@[simp] theorem State.later_trans (s : State) (n : Nat) (e : Event) : (s.later n e).trans = s.trans := rfl
@[simp] theorem State.later_transReqs (s : State) (n : Nat) (e : Event) : (s.later n e).transReqs = s.transReqs := rfl
@[simp] theorem State.later_pool (s : State) (n : Nat) (e : Event) : (s.later n e).pool = s.pool := rfl
@[simp] theorem State.later_poolBuf (s : State) (n : Nat) (e : Event) : (s.later n e).poolBuf = s.poolBuf := rfl
@[simp] theorem State.later_host (s : State) (n : Nat) (e : Event) : (s.later n e).host = s.host := rfl
@[simp] theorem State.later_dev (s : State) (n : Nat) (e : Event) : (s.later n e).dev = s.dev := rfl

@[simp] theorem State.drawn_seq (s : State) : s.drawn.seq = s.seq + 1 := rfl
@[simp] theorem State.atCycle_agenda (s : State) (n : Nat) (e : Event) :
    (s.atCycle n e).agenda = insertPending ⟨n, e⟩ s.agenda := rfl
@[simp] theorem State.later_agenda (s : State) (n : Nat) (e : Event) :
    (s.later n e).agenda = insertPending ⟨s.cyc + n, e⟩ s.agenda := rfl

/-- A step put on the agenda stands in it, and those that were there stay. -/
@[simp] theorem mem_insertPending (p q : Pending) (l : List Pending) : q ∈ insertPending p l ↔ q = p ∨ q ∈ l := by
  induction l with
  | nil => simp [insertPending]
  | cons a t ih =>
    unfold insertPending
    split
    · simp
    · simp [ih]; tauto

/-! ### Lookups -/

@[simp] theorem State.drawn_job (s : State) (j : Nat) : s.drawn.job j = s.job j := rfl
@[simp] theorem State.atCycle_job (s : State) (n : Nat) (e : Event) (j : Nat) : (s.atCycle n e).job j = s.job j := rfl
@[simp] theorem State.later_job (s : State) (n : Nat) (e : Event) (j : Nat) : (s.later n e).job j = s.job j := rfl
@[simp] theorem State.modPCore_job (s : State) (pc : Nat) (f : PCore → PCore) (j : Nat) : (s.modPCore pc f).job j = s.job j := rfl
@[simp] theorem State.modPClu_job (s : State) (pc : Nat) (f : PCluster → PCluster) (j : Nat) :
    (s.modPClu pc f).job j = s.job j := rfl

@[simp] theorem State.drawn_thread (s : State) (w : Tid) : s.drawn.thread w = s.thread w := rfl
@[simp] theorem State.atCycle_thread (s : State) (n : Nat) (e : Event) (w : Tid) : (s.atCycle n e).thread w = s.thread w := rfl
@[simp] theorem State.later_thread (s : State) (n : Nat) (e : Event) (w : Tid) : (s.later n e).thread w = s.thread w := rfl
@[simp] theorem State.modPCore_thread (s : State) (pc : Nat) (f : PCore → PCore) (w : Tid) :
    (s.modPCore pc f).thread w = s.thread w := rfl
@[simp] theorem State.modPClu_thread (s : State) (pc : Nat) (f : PCluster → PCluster) (w : Tid) :
    (s.modPClu pc f).thread w = s.thread w := rfl

@[simp] theorem State.drawn_core (s : State) (j l : Nat) : s.drawn.core j l = s.core j l := rfl
@[simp] theorem State.atCycle_core (s : State) (n : Nat) (e : Event) (j l : Nat) : (s.atCycle n e).core j l = s.core j l := rfl
@[simp] theorem State.later_core (s : State) (n : Nat) (e : Event) (j l : Nat) : (s.later n e).core j l = s.core j l := rfl
@[simp] theorem State.modPCore_core (s : State) (pc : Nat) (f : PCore → PCore) (j l : Nat) :
    (s.modPCore pc f).core j l = s.core j l := rfl
@[simp] theorem State.modPClu_core (s : State) (pc : Nat) (f : PCluster → PCluster) (j l : Nat) :
    (s.modPClu pc f).core j l = s.core j l := rfl

@[simp] theorem State.drawn_pcore (s : State) (pc : Nat) : s.drawn.pcore pc = s.pcore pc := rfl
@[simp] theorem State.atCycle_pcore (s : State) (n : Nat) (e : Event) (pc : Nat) : (s.atCycle n e).pcore pc = s.pcore pc := rfl
@[simp] theorem State.later_pcore (s : State) (n : Nat) (e : Event) (pc : Nat) : (s.later n e).pcore pc = s.pcore pc := rfl
@[simp] theorem State.modThread_pcore (s : State) (w : Tid) (f : Thread → Thread) (pc : Nat) :
    (s.modThread w f).pcore pc = s.pcore pc := rfl
@[simp] theorem State.modCore_pcore (s : State) (j l : Nat) (f : LCore → LCore) (pc : Nat) :
    (s.modCore j l f).pcore pc = s.pcore pc := rfl
@[simp] theorem State.modJob_pcore (s : State) (j : Nat) (f : Job → Job) (pc : Nat) : (s.modJob j f).pcore pc = s.pcore pc := rfl

@[simp] theorem State.modJob_job_self (s : State) (j : Nat) (f : Job → Job) : (s.modJob j f).job j = f (s.job j) := by
  simp [State.modJob, State.job]

theorem State.modJob_job_ne (s : State) (j i : Nat) (f : Job → Job) (h : i ≠ j) : (s.modJob j f).job i = s.job i := by
  simp [State.modJob, State.job, Map.getD_set_ne _ _ _ _ _ h]

@[simp] theorem State.modCore_core_self (s : State) (j l : Nat) (f : LCore → LCore) :
    (s.modCore j l f).core j l = f (s.core j l) := by
  simp [State.modCore, State.core]

theorem State.modCore_core_ne (s : State) (j l i k : Nat) (f : LCore → LCore) (h : (i, k) ≠ (j, l)) :
    (s.modCore j l f).core i k = s.core i k := by
  by_cases hi : i = j
  · subst hi
    have hk : k ≠ l := fun e => h (by rw [e])
    simp [State.modCore, State.core, Map.getD_set_ne _ _ _ _ _ hk]
  · simp [State.modCore, State.core, State.modJob_job_ne _ _ _ _ hi]

/-- The thread that an update names. -/
@[simp] theorem State.modThread_thread_self (s : State) (w : Tid) (f : Thread → Thread) :
    (s.modThread w f).thread w = f (s.thread w) := by
  simp [State.modThread, State.thread]

/-- Every other thread is as it was. -/
theorem State.modThread_thread_ne (s : State) (w v : Tid) (f : Thread → Thread) (h : v ≠ w) :
    (s.modThread w f).thread v = s.thread v := by
  by_cases hc : (v.job, v.lcn) = (w.job, w.lcn)
  · have h1 : v.job = w.job := congrArg Prod.fst hc
    have h2 : v.lcn = w.lcn := congrArg Prod.snd hc
    have h3 : v.thr ≠ w.thr := by
      intro h3
      apply h
      cases v; cases w
      simp_all
    simp [State.modThread, State.thread, h1, h2, Map.getD_set_ne _ _ _ _ _ h3]
  · simp [State.modThread, State.thread, State.modCore_core_ne _ _ _ _ _ _ hc]

@[simp] theorem State.modPCore_pcore_self (s : State) (pc : Nat) (f : PCore → PCore) :
    (s.modPCore pc f).pcore pc = f (s.pcore pc) := by
  simp [State.modPCore, State.pcore]

theorem State.modPCore_pcore_ne (s : State) (pc i : Nat) (f : PCore → PCore) (h : i ≠ pc) :
    (s.modPCore pc f).pcore i = s.pcore i := by
  simp [State.modPCore, State.pcore, Map.getD_set_ne _ _ _ _ _ h]

/-! ### The job and the core of a changed thread -/

/-- A change of a thread changes its job in its cores alone. -/
theorem State.modThread_job (s : State) (w : Tid) (f : Thread → Thread) (j : Nat) :
    (s.modThread w f).job j = { s.job j with cores := ((s.modThread w f).job j).cores } := by
  by_cases h : j = w.job
  · subst h; simp [State.modThread, State.modCore]
  · simp [State.modThread, State.modCore, State.modJob_job_ne _ _ _ _ h]

@[simp] theorem State.modThread_job_st (s : State) (w : Tid) (f : Thread → Thread) (j : Nat) :
    ((s.modThread w f).job j).st = (s.job j).st := by rw [State.modThread_job]
@[simp] theorem State.modThread_job_tenant (s : State) (w : Tid) (f : Thread → Thread) (j : Nat) :
    ((s.modThread w f).job j).tenant = (s.job j).tenant := by rw [State.modThread_job]
@[simp] theorem State.modThread_job_w (s : State) (w : Tid) (f : Thread → Thread) (j : Nat) :
    ((s.modThread w f).job j).w = (s.job j).w := by rw [State.modThread_job]
@[simp] theorem State.modThread_job_h (s : State) (w : Tid) (f : Thread → Thread) (j : Nat) :
    ((s.modThread w f).job j).h = (s.job j).h := by rw [State.modThread_job]
@[simp] theorem State.modThread_job_t (s : State) (w : Tid) (f : Thread → Thread) (j : Nat) :
    ((s.modThread w f).job j).t = (s.job j).t := by rw [State.modThread_job]
@[simp] theorem State.modThread_job_foot (s : State) (w : Tid) (f : Thread → Thread) (j : Nat) :
    ((s.modThread w f).job j).foot = (s.job j).foot := by rw [State.modThread_job]
@[simp] theorem State.modThread_job_pri (s : State) (w : Tid) (f : Thread → Thread) (j : Nat) :
    ((s.modThread w f).job j).pri = (s.job j).pri := by rw [State.modThread_job]
@[simp] theorem State.modThread_job_fold (s : State) (w : Tid) (f : Thread → Thread) (j : Nat) :
    ((s.modThread w f).job j).fold = (s.job j).fold := by rw [State.modThread_job]
@[simp] theorem State.modThread_job_redgrp (s : State) (w : Tid) (f : Thread → Thread) (j : Nat) :
    ((s.modThread w f).job j).redgrp = (s.job j).redgrp := by rw [State.modThread_job]
@[simp] theorem State.modThread_job_entry (s : State) (w : Tid) (f : Thread → Thread) (j : Nat) :
    ((s.modThread w f).job j).entry = (s.job j).entry := by rw [State.modThread_job]
@[simp] theorem State.modThread_job_image (s : State) (w : Tid) (f : Thread → Thread) (j : Nat) :
    ((s.modThread w f).job j).image = (s.job j).image := by rw [State.modThread_job]
@[simp] theorem State.modThread_job_args (s : State) (w : Tid) (f : Thread → Thread) (j : Nat) :
    ((s.modThread w f).job j).args = (s.job j).args := by rw [State.modThread_job]
@[simp] theorem State.modThread_job_argSize (s : State) (w : Tid) (f : Thread → Thread) (j : Nat) :
    ((s.modThread w f).job j).argSize = (s.job j).argSize := by rw [State.modThread_job]
@[simp] theorem State.modThread_job_pred (s : State) (w : Tid) (f : Thread → Thread) (j : Nat) :
    ((s.modThread w f).job j).pred = (s.job j).pred := by rw [State.modThread_job]
@[simp] theorem State.modThread_job_geom0 (s : State) (w : Tid) (f : Thread → Thread) (j : Nat) :
    ((s.modThread w f).job j).geom0 = (s.job j).geom0 := by rw [State.modThread_job]
@[simp] theorem State.modThread_job_geom1 (s : State) (w : Tid) (f : Thread → Thread) (j : Nat) :
    ((s.modThread w f).job j).geom1 = (s.job j).geom1 := by rw [State.modThread_job]
@[simp] theorem State.modThread_job_dde (s : State) (w : Tid) (f : Thread → Thread) (j : Nat) :
    ((s.modThread w f).job j).dde = (s.job j).dde := by rw [State.modThread_job]
@[simp] theorem State.modThread_job_prm (s : State) (w : Tid) (f : Thread → Thread) (j : Nat) :
    ((s.modThread w f).job j).prm = (s.job j).prm := by rw [State.modThread_job]
@[simp] theorem State.modThread_job_cast0 (s : State) (w : Tid) (f : Thread → Thread) (j : Nat) :
    ((s.modThread w f).job j).cast0 = (s.job j).cast0 := by rw [State.modThread_job]
@[simp] theorem State.modThread_job_postedAt (s : State) (w : Tid) (f : Thread → Thread) (j : Nat) :
    ((s.modThread w f).job j).postedAt = (s.job j).postedAt := by rw [State.modThread_job]
@[simp] theorem State.modThread_job_start (s : State) (w : Tid) (f : Thread → Thread) (j : Nat) :
    ((s.modThread w f).job j).start = (s.job j).start := by rw [State.modThread_job]
@[simp] theorem State.modThread_job_status (s : State) (w : Tid) (f : Thread → Thread) (j : Nat) :
    ((s.modThread w f).job j).status = (s.job j).status := by rw [State.modThread_job]
@[simp] theorem State.modThread_job_cause (s : State) (w : Tid) (f : Thread → Thread) (j : Nat) :
    ((s.modThread w f).job j).cause = (s.job j).cause := by rw [State.modThread_job]
@[simp] theorem State.modThread_job_exitv (s : State) (w : Tid) (f : Thread → Thread) (j : Nat) :
    ((s.modThread w f).job j).exitv = (s.job j).exitv := by rw [State.modThread_job]
@[simp] theorem State.modThread_job_root (s : State) (w : Tid) (f : Thread → Thread) (j : Nat) :
    ((s.modThread w f).job j).root = (s.job j).root := by rw [State.modThread_job]
@[simp] theorem State.modThread_job_cbase (s : State) (w : Tid) (f : Thread → Thread) (j : Nat) :
    ((s.modThread w f).job j).cbase = (s.job j).cbase := by rw [State.modThread_job]
@[simp] theorem State.modThread_job_backing (s : State) (w : Tid) (f : Thread → Thread) (j : Nat) :
    ((s.modThread w f).job j).backing = (s.job j).backing := by rw [State.modThread_job]
@[simp] theorem State.modThread_job_extra (s : State) (w : Tid) (f : Thread → Thread) (j : Nat) :
    ((s.modThread w f).job j).extra = (s.job j).extra := by rw [State.modThread_job]
@[simp] theorem State.modThread_job_clus (s : State) (w : Tid) (f : Thread → Thread) (j : Nat) :
    ((s.modThread w f).job j).clus = (s.job j).clus := by rw [State.modThread_job]
@[simp] theorem State.modThread_job_links (s : State) (w : Tid) (f : Thread → Thread) (j : Nat) :
    ((s.modThread w f).job j).links = (s.job j).links := by rw [State.modThread_job]
@[simp] theorem State.modThread_job_cast (s : State) (w : Tid) (f : Thread → Thread) (j : Nat) :
    ((s.modThread w f).job j).cast = (s.job j).cast := by rw [State.modThread_job]
@[simp] theorem State.modThread_job_cues (s : State) (w : Tid) (f : Thread → Thread) (j : Nat) :
    ((s.modThread w f).job j).cues = (s.job j).cues := by rw [State.modThread_job]
@[simp] theorem State.modThread_job_groups (s : State) (w : Tid) (f : Thread → Thread) (j : Nat) :
    ((s.modThread w f).job j).groups = (s.job j).groups := by rw [State.modThread_job]
@[simp] theorem State.modThread_job_bound (s : State) (w : Tid) (f : Thread → Thread) (j : Nat) :
    ((s.modThread w f).job j).bound = (s.job j).bound := by rw [State.modThread_job]
@[simp] theorem State.modThread_job_hangLast (s : State) (w : Tid) (f : Thread → Thread) (j : Nat) :
    ((s.modThread w f).job j).hangLast = (s.job j).hangLast := by rw [State.modThread_job]

/-- A change of a thread changes its core in its threads alone. -/
theorem State.modThread_core (s : State) (w : Tid) (f : Thread → Thread) (j l : Nat) :
    (s.modThread w f).core j l = { s.core j l with threads := ((s.modThread w f).core j l).threads } := by
  by_cases hc : (j, l) = (w.job, w.lcn)
  · obtain ⟨rfl, rfl⟩ := Prod.mk.inj hc
    simp [State.modThread]
  · simp [State.modThread, State.modCore_core_ne _ _ _ _ _ _ hc]

@[simp] theorem State.modThread_core_y (s : State) (w : Tid) (f : Thread → Thread) (j l : Nat) :
    ((s.modThread w f).core j l).y = (s.core j l).y := by rw [State.modThread_core]
@[simp] theorem State.modThread_core_w (s : State) (w : Tid) (f : Thread → Thread) (j l : Nat) :
    ((s.modThread w f).core j l).w = (s.core j l).w := by rw [State.modThread_core]
@[simp] theorem State.modThread_core_tags (s : State) (w : Tid) (f : Thread → Thread) (j l : Nat) :
    ((s.modThread w f).core j l).tags = (s.core j l).tags := by rw [State.modThread_core]
@[simp] theorem State.modThread_core_victim (s : State) (w : Tid) (f : Thread → Thread) (j l : Nat) :
    ((s.modThread w f).core j l).victim = (s.core j l).victim := by rw [State.modThread_core]
@[simp] theorem State.modThread_core_feQ (s : State) (w : Tid) (f : Thread → Thread) (j l : Nat) :
    ((s.modThread w f).core j l).feQ = (s.core j l).feQ := by rw [State.modThread_core]
@[simp] theorem State.modThread_core_starters (s : State) (w : Tid) (f : Thread → Thread) (j l : Nat) :
    ((s.modThread w f).core j l).starters = (s.core j l).starters := by rw [State.modThread_core]
@[simp] theorem State.modThread_core_saved (s : State) (w : Tid) (f : Thread → Thread) (j l : Nat) :
    ((s.modThread w f).core j l).saved = (s.core j l).saved := by rw [State.modThread_core]
@[simp] theorem State.modThread_core_parity (s : State) (w : Tid) (f : Thread → Thread) (j l : Nat) :
    ((s.modThread w f).core j l).parity = (s.core j l).parity := by rw [State.modThread_core]

/-! ### Where a thread is carried -/

@[simp] theorem State.modThread_carrier (s : State) (w : Tid) (f : Thread → Thread) (j c : Nat) :
    (s.modThread w f).carrier j c = s.carrier j c := rfl
@[simp] theorem State.drawn_carrier (s : State) (j c : Nat) : s.drawn.carrier j c = s.carrier j c := rfl
@[simp] theorem State.atCycle_carrier (s : State) (n : Nat) (e : Event) (j c : Nat) : (s.atCycle n e).carrier j c = s.carrier j c := rfl
@[simp] theorem State.later_carrier (s : State) (n : Nat) (e : Event) (j c : Nat) : (s.later n e).carrier j c = s.carrier j c := rfl

@[simp] theorem State.modThread_seat (s : State) (w : Tid) (f : Thread → Thread) (j c : Nat) :
    (s.modThread w f).seat j c = s.seat j c := by
  simp [State.seat, Job.lcnOf, Job.lcnAt, State.modThread_pclus, State.modThread_pcore]
@[simp] theorem State.drawn_seat (s : State) (j c : Nat) : s.drawn.seat j c = s.seat j c := rfl
@[simp] theorem State.later_seat (s : State) (n : Nat) (e : Event) (j c : Nat) : (s.later n e).seat j c = s.seat j c := rfl

@[simp] theorem State.modThread_phys (s : State) (w : Tid) (f : Thread → Thread) (j l : Nat) :
    (s.modThread w f).phys j l = s.phys j l := by
  simp [State.phys, State.phys?, Job.cluOf, Job.memOf, Job.xOf, Job.yOf]
@[simp] theorem State.drawn_phys (s : State) (j l : Nat) : s.drawn.phys j l = s.phys j l := rfl
@[simp] theorem State.atCycle_phys (s : State) (n : Nat) (e : Event) (j l : Nat) : (s.atCycle n e).phys j l = s.phys j l := rfl
@[simp] theorem State.later_phys (s : State) (n : Nat) (e : Event) (j l : Nat) : (s.later n e).phys j l = s.phys j l := rfl

@[simp] theorem State.modThread_cbase (s : State) (w v : Tid) (f : Thread → Thread) : (s.modThread w f).cbase v = s.cbase v := by
  simp [State.cbase]

end Sys2Proof.Machine
end

