-- ==== Sys2Proof/Laws/Ops.lean ====
section
/-!
SUPPORT. What each shared operation over the state can do, said once: queueing a result, moving the PC, landing, parking,
handles, traps and their return.
-/

set_option linter.unusedVariables false

namespace Sys2Proof.Machine

/-! ### Only the place in the program and the results on their way -/

theorem State.onlyMoves.refl (s : State) (w : Tid) : s.onlyMoves s w where
  others := fun _ _ => rfl
  self := rfl
  cores := fun _ _ => rfl
  jobs := fun _ => rfl
  pcores := rfl
  pclus := rfl
  accs := rfl
  walks := rfl
  packets := rfl
  routers := rfl
  linkLast := rfl
  trans := rfl
  transReqs := rfl
  pool := rfl
  poolBuf := rfl
  host := rfl
  dev := rfl
  cyc := rfl
  scan := rfl
  cur := rfl

theorem State.onlyMoves.andThen {s t u : State} {w : Tid} (h : s.onlyMoves t w) (k : t.onlyMoves u w) : s.onlyMoves u w where
  others := fun v hv => (k.others v hv).trans (h.others v hv)
  self := k.self.trans h.self
  cores := fun j l => (k.cores j l).trans (h.cores j l)
  jobs := fun j => (k.jobs j).trans (h.jobs j)
  pcores := k.pcores.trans h.pcores
  pclus := k.pclus.trans h.pclus
  accs := k.accs.trans h.accs
  walks := k.walks.trans h.walks
  packets := k.packets.trans h.packets
  routers := k.routers.trans h.routers
  linkLast := k.linkLast.trans h.linkLast
  trans := k.trans.trans h.trans
  transReqs := k.transReqs.trans h.transReqs
  pool := k.pool.trans h.pool
  poolBuf := k.poolBuf.trans h.poolBuf
  host := k.host.trans h.host
  dev := k.dev.trans h.dev
  cyc := k.cyc.trans h.cyc
  scan := k.scan.trans h.scan
  cur := k.cur.trans h.cur

/-- A change of a thread leaves its core but for the threads. -/
@[simp] theorem State.modThread_core_bare (s : State) (w : Tid) (f : Thread → Thread) (j l : Nat) :
    ((s.modThread w f).core j l).bare = (s.core j l).bare := by
  by_cases hc : (j, l) = (w.job, w.lcn)
  · obtain ⟨rfl, rfl⟩ := Prod.mk.inj hc
    simp [State.modThread, LCore.bare]
  · simp [State.modThread, State.modCore_core_ne _ _ _ _ _ _ hc]

/-- A change of a thread leaves its job but for the cores. -/
@[simp] theorem State.modThread_job_bare (s : State) (w : Tid) (f : Thread → Thread) (j : Nat) :
    ((s.modThread w f).job j).bare = (s.job j).bare := by
  by_cases h : j = w.job
  · subst h; simp [State.modThread, State.modCore, Job.bare]
  · simp [State.modThread, State.modCore, State.modJob_job_ne _ _ _ _ h]

/-- A change of a thread that leaves it but for its place and its results on their way. -/
theorem State.onlyMoves.ofModThread (s : State) (w : Tid) (f : Thread → Thread) (h : (f (s.thread w)).bare = (s.thread w).bare) :
    s.onlyMoves (s.modThread w f) w where
  others := fun v hv => State.modThread_thread_ne s w v f hv
  self := by simpa using h
  cores := by simp
  jobs := by simp
  pcores := rfl
  pclus := rfl
  accs := rfl
  walks := rfl
  packets := rfl
  routers := rfl
  linkLast := rfl
  trans := rfl
  transReqs := rfl
  pool := rfl
  poolBuf := rfl
  host := rfl
  dev := rfl
  cyc := rfl
  scan := rfl
  cur := rfl

theorem State.onlyMoves.ofDrawn (s : State) (w : Tid) : s.onlyMoves s.drawn w := { State.onlyMoves.refl s w with }

theorem State.onlyMoves.ofLater (s : State) (w : Tid) (d : Nat) (e : Event) : s.onlyMoves (s.later d e) w :=
  { State.onlyMoves.refl s w with }

/-- Queueing a result changes nothing but the results on their way. -/
theorem State.land_onlyMoves (s : State) (w : Tid) (lat : Nat) (ws : List RegWrite) (fl : FlagBits) :
    s.onlyMoves (s.land w lat ws fl) w :=
  (((State.onlyMoves.ofDrawn s w).andThen (State.onlyMoves.ofModThread _ w _ rfl)).andThen
    (State.onlyMoves.ofModThread _ w _ rfl)).andThen (State.onlyMoves.ofLater _ w _ _)

theorem State.landLa_onlyMoves (s : State) (w : Tid) (lat : Nat) (la : BitVec 4) (ws : List RegWrite) (fl : FlagBits) :
    s.onlyMoves (s.landLa w lat la ws fl) w := by
  unfold State.landLa State.openWindow
  exact (State.land_onlyMoves s w lat ws fl).andThen (State.onlyMoves.ofModThread _ w _ rfl)

theorem State.setPc_onlyMoves (s : State) (w : Tid) (a : Word) : s.onlyMoves (s.setPc w a) w :=
  State.onlyMoves.ofModThread s w _ rfl

theorem State.advance_onlyMoves (s : State) (w : Tid) : s.onlyMoves (s.advance w) w := State.setPc_onlyMoves s w _

theorem State.jump_onlyMoves (s : State) (w : Tid) (a : Word) : s.onlyMoves (s.jump w a) w :=
  State.onlyMoves.ofModThread s w _ rfl

/-- A result and the next instruction. -/
theorem State.land_advance_onlyMoves (s : State) (w : Tid) (lat : Nat) (ws : List RegWrite) (fl : FlagBits) :
    s.onlyMoves ((s.land w lat ws fl).advance w) w :=
  (State.land_onlyMoves s w lat ws fl).andThen (State.advance_onlyMoves _ w)

theorem State.landLa_advance_onlyMoves (s : State) (w : Tid) (lat : Nat) (la : BitVec 4) (ws : List RegWrite) (fl : FlagBits) :
    s.onlyMoves ((s.landLa w lat la ws fl).advance w) w :=
  (State.landLa_onlyMoves s w lat la ws fl).andThen (State.advance_onlyMoves _ w)

/-- A field of a thread that `bare` keeps. -/
theorem State.onlyMoves.field {s t : State} {w : Tid} (h : s.onlyMoves t w) {α : Type} (f : Thread → α)
    (hf : ∀ x : Thread, f x = f x.bare) (v : Tid) : f (t.thread v) = f (s.thread v) := by
  by_cases hv : v = w
  · subst hv; rw [hf (t.thread v), h.self, ← hf]
  · rw [h.others v hv]

theorem State.onlyMoves.coreField {s t : State} {w : Tid} (h : s.onlyMoves t w) {α : Type} (f : LCore → α)
    (hf : ∀ x : LCore, f x = f x.bare) (j l : Nat) : f (t.core j l) = f (s.core j l) := by
  rw [hf (t.core j l), h.cores, ← hf]

theorem State.onlyMoves.jobField {s t : State} {w : Tid} (h : s.onlyMoves t w) {α : Type} (f : Job → α)
    (hf : ∀ x : Job, f x = f x.bare) (j : Nat) : f (t.job j) = f (s.job j) := by
  rw [hf (t.job j), h.jobs, ← hf]

/-- When only the place and the results on their way change, every register reads as before. -/
theorem State.onlyMoves.sameRegs {s t : State} {w : Tid} (h : s.onlyMoves t w) : s.sameRegs t := by
  intro v
  have hx := h.field (fun x => x.x) (fun _ => rfl) v
  have hv := h.field (fun x => x.v) (fun _ => rfl) v
  have hq := h.field (fun x => x.q) (fun _ => rfl) v
  have hk := h.field (fun x => x.k) (fun _ => rfl) v
  have hy := h.coreField (fun x => x.y) (fun _ => rfl) v.job v.lcn
  have hw := h.coreField (fun x => x.w) (fun _ => rfl) v.job v.lcn
  refine ⟨fun r => ?_, fun r => ?_, fun q => ?_, fun k => ?_⟩
  · simp only [State.rd, hx, hy]
  · simp only [State.rdV, hv, hw]
  · simp only [State.rdQ, hq]
  · simp only [State.rdK, hk]

/-- … and every byte of every memory. -/
theorem State.onlyMoves.sameBytes {s t : State} {w : Tid} (h : s.onlyMoves t w) : s.sameBytes t := by
  refine ⟨fun a => by rw [h.pool], fun a => by rw [h.host], fun pc a => ?_⟩
  simp only [State.pcore, h.pcores]

/-! ### The thread that an operation changes

Each of these is one change of one thread, so that everything else follows from the lemmas about `modThread`. -/

/-- The PC moves, and nothing else of the thread. -/
@[simp] theorem State.setPc_thread (s : State) (w : Tid) (a : Word) : (s.setPc w a).thread w = { s.thread w with pc := a } := by
  simp [State.setPc]

@[simp] theorem State.advance_thread (s : State) (w : Tid) :
    (s.advance w).thread w = { s.thread w with pc := (s.thread w).pc + 12 } := by simp [State.advance]

/-- A taken transfer issues no earlier than 8 cycles on (R106). -/
@[simp] theorem State.jump_thread (s : State) (w : Tid) (a : Word) :
    (s.jump w a).thread w = { s.thread w with pc := a, readyAt := s.cyc + 8 } := by simp [State.jump]

/-- A parked thread keeps its PC and shows what it waits for and since when (R227). -/
@[simp] theorem State.park_thread (s : State) (w : Tid) (k : WaitKind) (o : Word) (b : Bool) (c : Cont) :
    (s.park w k o b c).thread w =
      { s.thread w with st := .parked, wait := some ⟨k, o, s.cyc, b, c⟩, stamp := (s.thread w).stamp + 1 } := by simp [State.park]

/-- A thread that is not parked is left as it is. -/
theorem State.unpark_running (s : State) (w : Tid) (h : (s.thread w).st ≠ .parked) : (s.unpark w).thread w = s.thread w := by
  simp [State.unpark, h]

/-- A parked one runs, waits for nothing, and keeps its PC. -/
theorem State.unpark_parked (s : State) (w : Tid) (h : (s.thread w).st = .parked) :
    ((s.unpark w).thread w).st = .running ∧ ((s.unpark w).thread w).wait = none ∧ ((s.unpark w).thread w).pc = (s.thread w).pc := by
  simp [State.unpark, h]

/-- A new entry is bound to its register, which becomes pending and holds the identity (R232). -/
theorem State.allocHandle_entry (s : State) (w : Tid) (i : Nat) (r : HReg) (k : HKind) :
    ((s.allocHandle w i r k).thread w).handles.get? i = some ⟨(s.thread w).hseq, k, r, (s.thread w).pc, false, false, none, none⟩ ∧
      (r ≠ 0 → ((s.allocHandle w i r k).thread w).x.get? r.toNat = some (HRef.word ⟨w, i, (s.thread w).hseq⟩)) := by
  refine ⟨by simp [State.allocHandle], fun h => ?_⟩
  simp only [State.allocHandle, State.modThread_thread_self, if_neg h, Map.get?_set_self]

/-- An instruction that finds no free entry parks on ENGQ, with nothing else done (R235). -/
theorem State.withHandle_full (s : State) (w : Tid) (r : HReg) (k : HKind) (f : HRef → State → State)
    (h : (s.thread w).freeSlot = none) : s.withHandle w r k f = s.park w .engq 0 false .reissue := by simp [State.withHandle, h]

theorem State.withHandle_free (s : State) (w : Tid) (r : HReg) (k : HKind) (f : HRef → State → State) (i : Nat)
    (h : (s.thread w).freeSlot = some i) : s.withHandle w r k f = f (s.nextHandle w i) (s.allocHandle w i r k) := by
  simp [State.withHandle, h]

/-! ### Landing (R92, log 7) -/

/-- A result that has landed already changes nothing. -/
theorem State.landNow_stale (s : State) (w : Tid) (id : Nat) (h : (s.thread w).landings.find? (fun l => l.id == id) = none) :
    s.landNow w id = s := by simp [State.landNow, h]

/-- No flags: nothing. -/
@[simp] theorem State.setFlags_zero (s : State) (w : Tid) : s.setFlags w 0 = s := by simp [State.setFlags]

/-- Flags stick: each one is the old one or the new one (R138). -/
theorem State.setFlags_flags (s : State) (w : Tid) (f : FlagBits) : ((s.setFlags w f).thread w).flags = (s.thread w).flags ||| f := by
  by_cases h : f = 0
  · subst h; rw [State.setFlags_zero]; exact (BitVec.or_zero).symm
  · simp only [State.setFlags, if_neg h, State.modThread_thread_self]

/-! ### Handles that resolve (R232, R241 to R243) -/

/-- A completion for an entry that is no longer there changes nothing. -/
theorem State.completeHandle_gone (s : State) (h : HRef) (c : Word) (fl : FlagBits) (e : s.entry? h = none) :
    s.completeHandle h c fl = s := by simp [State.completeHandle, e]

/-- The word of a discarded entry is discarded; the entry is free. -/
theorem State.completeHandle_discarded (s : State) (h : HRef) (c : Word) (fl : FlagBits) (e : HEntry) (he : s.entry? h = some e)
    (hd : e.discarded = true) : s.completeHandle h c fl = s.freeEntry h := by simp [State.completeHandle, he, hd]

/-- A passed entry with no adopter keeps the word. -/
theorem State.completeHandle_passed (s : State) (h : HRef) (c : Word) (fl : FlagBits) (e : HEntry) (he : s.entry? h = some e)
    (hd : e.discarded = false) (hp : e.passed = true) (ht : e.target = none) :
    (((s.completeHandle h c fl).thread h.own).handles.get? h.slot) = some { e with word := some c } := by
  simp [State.completeHandle, he, hd, hp, ht]

/-! ### Traps (R371, R375) -/

/-- With no special register on its way, the flush of a trap leaves the thread as it is. -/
theorem State.flushSpecial_none (s : State) (w : Tid) (h : ∀ l ∈ (s.thread w).landings, l.writes = []) :
    ((s.flushSpecial w).thread w) = s.thread w := by
  have e : ∀ f : Landing → List RegWrite, (∀ l, l.writes = [] → f l = []) → (s.thread w).landings.flatMap f = [] :=
    fun f hf => List.flatMap_eq_nil_iff.mpr fun l hl => hf l (h l hl)
  have m : ∀ f : Landing → Landing, (∀ l, l.writes = [] → f l = l) → (s.thread w).landings.map f = (s.thread w).landings :=
    fun f hf => (List.map_congr_left fun l hl => hf l (h l hl)).trans (List.map_id _)
  rw [State.flushSpecial]
  simp only []
  rw [e]
  · simp only [State.applyWrites, List.foldl_nil, State.modThread_thread_self]
    rw [m]
    rintro ⟨a, b, c, d⟩ hl
    simp only at hl
    subst hl; rfl
  · intro l hl; rw [hl]; rfl

/-- A return from system state goes to EPC, with the mode that SPRIV saved (R375). -/
theorem State.trapReturn_system (s : State) (w : Tid) (h : (s.thread w).sh = true) (v : validPc (s.cbase w) (s.thread w).epc = true) :
    (s.trapReturn w).thread w = { s.thread w with
      pstate := mkPstate (s.thread w).spriv false (s.thread w).jh (s.thread w).spriv
      pc := (s.thread w).epc, readyAt := s.cyc + 8 } := by simp [State.trapReturn, h, v]

/-- A return from the job's handler goes to JEPC and keeps the mode (R375). -/
theorem State.trapReturn_job (s : State) (w : Tid) (h : (s.thread w).sh = false) (j : (s.thread w).jh = true)
    (v : validPc (s.cbase w) (s.thread w).jepc = true) :
    (s.trapReturn w).thread w = { s.thread w with
      pstate := mkPstate (s.thread w).spriv (s.thread w).sh false (s.thread w).priv
      pc := (s.thread w).jepc, readyAt := s.cyc + 8 } := by simp [State.trapReturn, h, j, v]

/-- Outside both it takes PRIV (R375). -/
theorem State.trapReturn_outside (s : State) (w : Tid) (h : (s.thread w).sh = false) (j : (s.thread w).jh = false) :
    s.trapReturn w = s.trap w .priv 0 0 := by simp [State.trapReturn, h, j]

end Sys2Proof.Machine
end

