-- ==== Sys2Proof/Laws/Exec.lean ====
section
/-!
SUPPORT. The one shape that every instruction of a thread has: a meaning under its guard.
-/

set_option linter.unusedVariables false
set_option linter.unusedSimpArgs false

namespace Sys2Proof.Machine

/-- A guarded-off instruction passes on (R41). -/
theorem State.guarded_off (s : State) (g : Gd) (f : State → State) (h : s.guardOn s.cur g = false) :
    s.guarded g f = .next (s.advance s.cur) := by simp [State.guarded, h]

/-- One whose guard holds does what its meaning says. -/
theorem State.guarded_on (s : State) (g : Gd) (f : State → State) (h : s.guardOn s.cur g = true) :
    s.guarded g f = .next (f s) := by simp [State.guarded, h]

/-- A privileged one without privilege takes PRIV (R371). -/
theorem State.privileged_denied (s : State) (g : Gd) (f : State → State) (h : s.guardOn s.cur g = true)
    (p : (s.thread s.cur).priv = false) : s.privileged g f = .next (s.trap s.cur .priv 0 0) := by
  simp [State.privileged, State.guarded, h, p]

theorem State.privileged_held (s : State) (g : Gd) (f : State → State) (h : s.guardOn s.cur g = true)
    (p : (s.thread s.cur).priv = true) : s.privileged g f = .next (f s) := by
  simp [State.privileged, State.guarded, h, p]

/-- Every instruction that has a guard is a meaning under it. -/
theorem exec_guarded (i : Instr) (g : Gd) (s : State) (hg : i.guard? = some g) : ∃ f, exec i s = s.guarded g f := by
  cases i with
  | nop g =>
    cases hg; simp only [exec, execNop, State.privileged]; exact ⟨_, rfl⟩
  | add g w d a b =>
    cases hg; simp only [exec, execAdd, State.privileged]; exact ⟨_, rfl⟩
  | sub g w d a b =>
    cases hg; simp only [exec, execSub, State.privileged]; exact ⟨_, rfl⟩
  | mul g w d a b =>
    cases hg; simp only [exec, execMul, State.privileged]; exact ⟨_, rfl⟩
  | mulh g w d a b =>
    cases hg; simp only [exec, execMulh, State.privileged]; exact ⟨_, rfl⟩
  | mulhu g w d a b =>
    cases hg; simp only [exec, execMulhu, State.privileged]; exact ⟨_, rfl⟩
  | div g w la d a b =>
    cases hg; simp only [exec, execDiv, State.privileged]; exact ⟨_, rfl⟩
  | divu g w la d a b =>
    cases hg; simp only [exec, execDivu, State.privileged]; exact ⟨_, rfl⟩
  | rem g w la d a b =>
    cases hg; simp only [exec, execRem, State.privileged]; exact ⟨_, rfl⟩
  | remu g w la d a b =>
    cases hg; simp only [exec, execRemu, State.privileged]; exact ⟨_, rfl⟩
  | and g d a b =>
    cases hg; simp only [exec, execAnd, State.privileged]; exact ⟨_, rfl⟩
  | or g d a b =>
    cases hg; simp only [exec, execOr, State.privileged]; exact ⟨_, rfl⟩
  | xor g d a b =>
    cases hg; simp only [exec, execXor, State.privileged]; exact ⟨_, rfl⟩
  | andn g d a b =>
    cases hg; simp only [exec, execAndn, State.privileged]; exact ⟨_, rfl⟩
  | shl g w d a b =>
    cases hg; simp only [exec, execShl, State.privileged]; exact ⟨_, rfl⟩
  | shr g w d a b =>
    cases hg; simp only [exec, execShr, State.privileged]; exact ⟨_, rfl⟩
  | sar g w d a b =>
    cases hg; simp only [exec, execSar, State.privileged]; exact ⟨_, rfl⟩
  | rol g w d a b =>
    cases hg; simp only [exec, execRol, State.privileged]; exact ⟨_, rfl⟩
  | clz g w d a =>
    cases hg; simp only [exec, execClz, State.privileged]; exact ⟨_, rfl⟩
  | ctz g w d a =>
    cases hg; simp only [exec, execCtz, State.privileged]; exact ⟨_, rfl⟩
  | popc g w d a =>
    cases hg; simp only [exec, execPopc, State.privileged]; exact ⟨_, rfl⟩
  | min g w d a b =>
    cases hg; simp only [exec, execMin, State.privileged]; exact ⟨_, rfl⟩
  | max g w d a b =>
    cases hg; simp only [exec, execMax, State.privileged]; exact ⟨_, rfl⟩
  | minu g w d a b =>
    cases hg; simp only [exec, execMinu, State.privileged]; exact ⟨_, rfl⟩
  | maxu g w d a b =>
    cases hg; simp only [exec, execMaxu, State.privileged]; exact ⟨_, rfl⟩
  | sel g p d a b =>
    cases hg; simp only [exec, execSel, State.privileged]; exact ⟨_, rfl⟩
  | movi g d imm =>
    cases hg; simp only [exec, execMovi, State.privileged]; exact ⟨_, rfl⟩
  | movhi g d a imm =>
    cases hg; simp only [exec, execMovhi, State.privileged]; exact ⟨_, rfl⟩
  | bext g pos len d a b =>
    cases hg; simp only [exec, execBext, State.privileged]; exact ⟨_, rfl⟩
  | bextu g pos len d a b =>
    cases hg; simp only [exec, execBextu, State.privileged]; exact ⟨_, rfl⟩
  | bins g pos len d a b =>
    cases hg; simp only [exec, execBins, State.privileged]; exact ⟨_, rfl⟩
  | sext g wd d a =>
    cases hg; simp only [exec, execSext, State.privileged]; exact ⟨_, rfl⟩
  | bswap g w d a =>
    cases hg; simp only [exec, execBswap, State.privileged]; exact ⟨_, rfl⟩
  | mov g d a =>
    cases hg; simp only [exec, execMov, State.privileged]; exact ⟨_, rfl⟩
  | br g imm =>
    cases hg; simp only [exec, execBr, State.privileged]; exact ⟨_, rfl⟩
  | jmp g a imm =>
    cases hg; simp only [exec, execJmp, State.privileged]; exact ⟨_, rfl⟩
  | call g d imm =>
    cases hg; simp only [exec, execCall, State.privileged]; exact ⟨_, rfl⟩
  | callr g d a imm =>
    cases hg; simp only [exec, execCallr, State.privileged]; exact ⟨_, rfl⟩
  | cmp g w cnd d a b =>
    cases hg; simp only [exec, execCmp, State.privileged]; exact ⟨_, rfl⟩
  | tst g zero d a b =>
    cases hg; simp only [exec, execTst, State.privileged]; exact ⟨_, rfl⟩
  | plog g tt d a b =>
    cases hg; simp only [exec, execPlog, State.privileged]; exact ⟨_, rfl⟩
  | pset g qm a =>
    cases hg; simp only [exec, execPset, State.privileged]; exact ⟨_, rfl⟩
  | pget g d =>
    cases hg; simp only [exec, execPget, State.privileged]; exact ⟨_, rfl⟩
  | dbnz g d imm =>
    cases hg; simp only [exec, execDbnz, State.privileged]; exact ⟨_, rfl⟩
  | syncf g imm =>
    cases hg; simp only [exec, execSyncf, State.privileged]; exact ⟨_, rfl⟩
  | start g th d a b =>
    cases hg; simp only [exec, execStart, State.privileged]; exact ⟨_, rfl⟩
  | exit g a =>
    cases hg; simp only [exec, execExit, State.privileged]; exact ⟨_, rfl⟩
  | gets g d imm =>
    cases hg; simp only [exec, execGets, State.privileged]; exact ⟨_, rfl⟩
  | sets g a imm =>
    cases hg; simp only [exec, execSets, State.privileged]; exact ⟨_, rfl⟩
  | tilepos g d =>
    cases hg; simp only [exec, execTilepos, State.privileged]; exact ⟨_, rfl⟩
  | sleep g a imm =>
    cases hg; simp only [exec, execSleep, State.privileged]; exact ⟨_, rfl⟩
  | mkadr g form d a b =>
    cases hg; simp only [exec, execMkadr, State.privileged]; exact ⟨_, rfl⟩
  | slotrd g d imm =>
    cases hg; simp only [exec, execSlotrd, State.privileged]; exact ⟨_, rfl⟩
  | thrst g d a =>
    cases hg; simp only [exec, execThrst, State.privileged]; exact ⟨_, rfl⟩
  | cvt g t rm sat src d a =>
    cases hg; simp only [exec, execCvt, State.privileged]; exact ⟨_, rfl⟩
  | fadd g t rm d a b =>
    cases hg; simp only [exec, execFadd, State.privileged]; exact ⟨_, rfl⟩
  | fsub g t rm d a b =>
    cases hg; simp only [exec, execFsub, State.privileged]; exact ⟨_, rfl⟩
  | fmul g t rm d a b =>
    cases hg; simp only [exec, execFmul, State.privileged]; exact ⟨_, rfl⟩
  | ffma g t rm d a b =>
    cases hg; simp only [exec, execFfma, State.privileged]; exact ⟨_, rfl⟩
  | fdiv g la t rm d a b =>
    cases hg; simp only [exec, execFdiv, State.privileged]; exact ⟨_, rfl⟩
  | fsqrt g la t rm d a =>
    cases hg; simp only [exec, execFsqrt, State.privileged]; exact ⟨_, rfl⟩
  | fmin g t d a b =>
    cases hg; simp only [exec, execFmin, State.privileged]; exact ⟨_, rfl⟩
  | fmax g t d a b =>
    cases hg; simp only [exec, execFmax, State.privileged]; exact ⟨_, rfl⟩
  | fcmp g t cnd d a b =>
    cases hg; simp only [exec, execFcmp, State.privileged]; exact ⟨_, rfl⟩
  | fclass g t d a =>
    cases hg; simp only [exec, execFclass, State.privileged]; exact ⟨_, rfl⟩
  | vcvt g t rm sat src d a =>
    cases hg; simp only [exec, execVcvt, State.privileged]; exact ⟨_, rfl⟩
  | vpack g t rm sat d a b =>
    cases hg; simp only [exec, execVpack, State.privileged]; exact ⟨_, rfl⟩
  | vunpk g t part d a =>
    cases hg; simp only [exec, execVunpk, State.privileged]; exact ⟨_, rfl⟩
  | vadd g t rm sat km d a b =>
    cases hg; simp only [exec, execVadd, State.privileged]; exact ⟨_, rfl⟩
  | vsub g t rm sat km d a b =>
    cases hg; simp only [exec, execVsub, State.privileged]; exact ⟨_, rfl⟩
  | vmul g t rm sat km d a b =>
    cases hg; simp only [exec, execVmul, State.privileged]; exact ⟨_, rfl⟩
  | vfma g t rm sat km d a b =>
    cases hg; simp only [exec, execVfma, State.privileged]; exact ⟨_, rfl⟩
  | vfms g t rm sat km d a b =>
    cases hg; simp only [exec, execVfms, State.privileged]; exact ⟨_, rfl⟩
  | vmin g t km d a b =>
    cases hg; simp only [exec, execVmin, State.privileged]; exact ⟨_, rfl⟩
  | vmax g t km d a b =>
    cases hg; simp only [exec, execVmax, State.privileged]; exact ⟨_, rfl⟩
  | vabs g t sat km d a =>
    cases hg; simp only [exec, execVabs, State.privileged]; exact ⟨_, rfl⟩
  | vneg g t sat km d a =>
    cases hg; simp only [exec, execVneg, State.privileged]; exact ⟨_, rfl⟩
  | vexp2 g la km d a =>
    cases hg; simp only [exec, execVexp2, State.privileged]; exact ⟨_, rfl⟩
  | vlog2 g la km d a =>
    cases hg; simp only [exec, execVlog2, State.privileged]; exact ⟨_, rfl⟩
  | vrcp g la km d a =>
    cases hg; simp only [exec, execVrcp, State.privileged]; exact ⟨_, rfl⟩
  | vrsq g la km d a =>
    cases hg; simp only [exec, execVrsq, State.privileged]; exact ⟨_, rfl⟩
  | vcmp g t km cnd d a b =>
    cases hg; simp only [exec, execVcmp, State.privileged]; exact ⟨_, rfl⟩
  | vsel g km d a b =>
    cases hg; simp only [exec, execVsel, State.privileged]; exact ⟨_, rfl⟩
  | vand g km d a b =>
    cases hg; simp only [exec, execVand, State.privileged]; exact ⟨_, rfl⟩
  | vor g km d a b =>
    cases hg; simp only [exec, execVor, State.privileged]; exact ⟨_, rfl⟩
  | vxor g km d a b =>
    cases hg; simp only [exec, execVxor, State.privileged]; exact ⟨_, rfl⟩
  | vshl g km d a b =>
    cases hg; simp only [exec, execVshl, State.privileged]; exact ⟨_, rfl⟩
  | vshr g km d a b =>
    cases hg; simp only [exec, execVshr, State.privileged]; exact ⟨_, rfl⟩
  | vsar g km d a b =>
    cases hg; simp only [exec, execVsar, State.privileged]; exact ⟨_, rfl⟩
  | vpopc g km d a =>
    cases hg; simp only [exec, execVpopc, State.privileged]; exact ⟨_, rfl⟩
  | vdot4 g t sat km d a b =>
    cases hg; simp only [exec, execVdot4, State.privileged]; exact ⟨_, rfl⟩
  | vsum g t rm sat km d a =>
    cases hg; simp only [exec, execVsum, State.privileged]; exact ⟨_, rfl⟩
  | vmaxr g t km d a =>
    cases hg; simp only [exec, execVmaxr, State.privileged]; exact ⟨_, rfl⟩
  | vfmas g t rm sat km d a b =>
    cases hg; simp only [exec, execVfmas, State.privileged]; exact ⟨_, rfl⟩
  | vscal g t rm sat km d a b =>
    cases hg; simp only [exec, execVscal, State.privileged]; exact ⟨_, rfl⟩
  | vmov g km d a =>
    cases hg; simp only [exec, execVmov, State.privileged]; exact ⟨_, rfl⟩
  | vbcast g km d a =>
    cases hg; simp only [exec, execVbcast, State.privileged]; exact ⟨_, rfl⟩
  | vget g xs d a b =>
    cases hg; simp only [exec, execVget, State.privileged]; exact ⟨_, rfl⟩
  | vput g d a b =>
    cases hg; simp only [exec, execVput, State.privileged]; exact ⟨_, rfl⟩
  | vperm g km d a b =>
    cases hg; simp only [exec, execVperm, State.privileged]; exact ⟨_, rfl⟩
  | vrot g km d a b =>
    cases hg; simp only [exec, execVrot, State.privileged]; exact ⟨_, rfl⟩
  | vcomp g km d a =>
    cases hg; simp only [exec, execVcomp, State.privileged]; exact ⟨_, rfl⟩
  | vexpd g km d a =>
    cases hg; simp only [exec, execVexpd, State.privileged]; exact ⟨_, rfl⟩
  | viota g km d =>
    cases hg; simp only [exec, execViota, State.privileged]; exact ⟨_, rfl⟩
  | kop g tt d a b =>
    cases hg; simp only [exec, execKop, State.privileged]; exact ⟨_, rfl⟩
  | kpopc g d a =>
    cases hg; simp only [exec, execKpopc, State.privileged]; exact ⟨_, rfl⟩
  | kmovToMask g d a =>
    cases hg; simp only [exec, execKmovToMask, State.privileged]; exact ⟨_, rfl⟩
  | kmovFromMask g d a =>
    cases hg; simp only [exec, execKmovFromMask, State.privileged]; exact ⟨_, rfl⟩
  | kfirst g d a =>
    cases hg; simp only [exec, execKfirst, State.privileged]; exact ⟨_, rfl⟩
  | ld g la rx t d a ix imm =>
    cases hg; simp only [exec, execLd, State.privileged]; exact ⟨_, rfl⟩
  | st g rx t d a ix imm =>
    cases hg; simp only [exec, execSt, State.privileged]; exact ⟨_, rfl⟩
  | vld g la rx t cnt d a ix imm =>
    cases hg; simp only [exec, execVld, State.privileged]; exact ⟨_, rfl⟩
  | vst g rx t cnt d a ix imm =>
    cases hg; simp only [exec, execVst, State.privileged]; exact ⟨_, rfl⟩
  | vlds g la rx t cnt d a b imm =>
    cases hg; simp only [exec, execVlds, State.privileged]; exact ⟨_, rfl⟩
  | vsts g rx t cnt d a b imm =>
    cases hg; simp only [exec, execVsts, State.privileged]; exact ⟨_, rfl⟩
  | vldx g la rx t sh cnt d a b imm =>
    cases hg; simp only [exec, execVldx, State.privileged]; exact ⟨_, rfl⟩
  | vstx g rx t sh cnt d a b imm =>
    cases hg; simp only [exec, execVstx, State.privileged]; exact ⟨_, rfl⟩
  | ldf g la t d a ix imm =>
    cases hg; simp only [exec, execLdf, State.privileged]; exact ⟨_, rfl⟩
  | ldp g la t d a ix imm =>
    cases hg; simp only [exec, execLdp, State.privileged]; exact ⟨_, rfl⟩
  | ste g t d a ix imm =>
    cases hg; simp only [exec, execSte, State.privileged]; exact ⟨_, rfl⟩
  | stf g rx t d a ix imm =>
    cases hg; simp only [exec, execStf, State.privileged]; exact ⟨_, rfl⟩
  | fe g full a b imm =>
    cases hg; simp only [exec, execFe, State.privileged]; exact ⟨_, rfl⟩
  | tlook g la gs d a =>
    cases hg; simp only [exec, execTlook, State.privileged]; exact ⟨_, rfl⟩
  | tset g gs a b =>
    cases hg; simp only [exec, execTset, State.privileged]; exact ⟨_, rfl⟩
  | tinv g gs a =>
    cases hg; simp only [exec, execTinv, State.privileged]; exact ⟨_, rfl⟩
  | tinvAll g =>
    cases hg; simp only [exec, execTinvAll, State.privileged]; exact ⟨_, rfl⟩
  | guard g set a b imm =>
    cases hg; simp only [exec, execGuard, State.privileged]; exact ⟨_, rfl⟩
  | drain g =>
    cases hg; simp only [exec, execDrain, State.privileged]; exact ⟨_, rfl⟩
  | fence g sc =>
    cases hg; simp only [exec, execFence, State.privileged]; exact ⟨_, rfl⟩
  | xlat g la d a imm =>
    cases hg; simp only [exec, execXlat, State.privileged]; exact ⟨_, rfl⟩
  | amo g la rx t op d a b imm =>
    cases hg; simp only [exec, execAmo, State.privileged]; exact ⟨_, rfl⟩
  | cas g la rx t d a b imm =>
    cases hg; simp only [exec, execCas, State.privileged]; exact ⟨_, rfl⟩
  | famo g la rx t rm op d a b imm =>
    cases hg; simp only [exec, execFamo, State.privileged]; exact ⟨_, rfl⟩
  | rupd g rx t op a b imm =>
    cases hg; simp only [exec, execRupd, State.privileged]; exact ⟨_, rfl⟩
  | frupd g rx t rm op a b imm =>
    cases hg; simp only [exec, execFrupd, State.privileged]; exact ⟨_, rfl⟩
  | mon g mi a imm =>
    cases hg; simp only [exec, execMon, State.privileged]; exact ⟨_, rfl⟩
  | monc g =>
    cases hg; simp only [exec, execMonc, State.privileged]; exact ⟨_, rfl⟩
  | waitm g mq d a =>
    cases hg; simp only [exec, execWaitm, State.privileged]; exact ⟨_, rfl⟩
  | bar g bc =>
    cases hg; simp only [exec, execBar, State.privileged]; exact ⟨_, rfl⟩
  | bara g bc d =>
    cases hg; simp only [exec, execBara, State.privileged]; exact ⟨_, rfl⟩
  | barw g bc =>
    cases hg; simp only [exec, execBarw, State.privileged]; exact ⟨_, rfl⟩
  | barset g bc a =>
    cases hg; simp only [exec, execBarset, State.privileged]; exact ⟨_, rfl⟩
  | send g rx d a b =>
    cases hg; simp only [exec, execSend, State.privileged]; exact ⟨_, rfl⟩
  | recv g d =>
    cases hg; simp only [exec, execRecv, State.privileged]; exact ⟨_, rfl⟩
  | trecv g p d a =>
    cases hg; simp only [exec, execTrecv, State.privileged]; exact ⟨_, rfl⟩
  | mqst g src d =>
    cases hg; simp only [exec, execMqst, State.privileged]; exact ⟨_, rfl⟩
  | copy g rx d a b imm =>
    cases hg; simp only [exec, execCopy, State.privileged]; exact ⟨_, rfl⟩
  | copy2 g rx d a b imm =>
    cases hg; simp only [exec, execCopy2, State.privileged]; exact ⟨_, rfl⟩
  | gath g rx d a =>
    cases hg; simp only [exec, execGath, State.privileged]; exact ⟨_, rfl⟩
  | scat g rx d a =>
    cases hg; simp only [exec, execScat, State.privileged]; exact ⟨_, rfl⟩
  | hval g fld d a =>
    cases hg; simp only [exec, execHval, State.privileged]; exact ⟨_, rfl⟩
  | htest g d a =>
    cases hg; simp only [exec, execHtest, State.privileged]; exact ⟨_, rfl⟩
  | hcancel g a =>
    cases hg; simp only [exec, execHcancel, State.privileged]; exact ⟨_, rfl⟩
  | hpass g d a =>
    cases hg; simp only [exec, execHpass, State.privileged]; exact ⟨_, rfl⟩
  | hadopt g d a =>
    cases hg; simp only [exec, execHadopt, State.privileged]; exact ⟨_, rfl⟩
  | sopen g t dir slot scl keep bop d a b =>
    cases hg; simp only [exec, execSopen, State.privileged]; exact ⟨_, rfl⟩
  | sjoin g t dir scl d a b =>
    cases hg; simp only [exec, execSjoin, State.privileged]; exact ⟨_, rfl⟩
  | sfeed g dir a b imm =>
    cases hg; simp only [exec, execSfeed, State.privileged]; exact ⟨_, rfl⟩
  | sscale g dir a b =>
    cases hg; simp only [exec, execSscale, State.privileged]; exact ⟨_, rfl⟩
  | sclose g t rm sat dir a b imm =>
    cases hg; simp only [exec, execSclose, State.privileged]; exact ⟨_, rfl⟩
  | scloseRdl g t rm sat dir slot a b imm =>
    cases hg; simp only [exec, execScloseRdl, State.privileged]; exact ⟨_, rfl⟩
  | sabort g dir slot =>
    cases hg; simp only [exec, execSabort, State.privileged]; exact ⟨_, rfl⟩
  | sstat g d a =>
    cases hg; simp only [exec, execSstat, State.privileged]; exact ⟨_, rfl⟩
  | sround g =>
    cases hg; simp only [exec, execSround, State.privileged]; exact ⟨_, rfl⟩
  | pcfg g a =>
    cases hg; simp only [exec, execPcfg, State.privileged]; exact ⟨_, rfl⟩
  | pplan g d a b =>
    cases hg; simp only [exec, execPplan, State.privileged]; exact ⟨_, rfl⟩
  | pfetch g replay wm d a =>
    cases hg; simp only [exec, execPfetch, State.privileged]; exact ⟨_, rfl⟩
  | pstat g d imm =>
    cases hg; simp only [exec, execPstat, State.privileged]; exact ⟨_, rfl⟩
  | ddcfg g a =>
    cases hg; simp only [exec, execDdcfg, State.privileged]; exact ⟨_, rfl⟩
  | ddord g a b =>
    cases hg; simp only [exec, execDdord, State.privileged]; exact ⟨_, rfl⟩
  | ddwset g a b =>
    cases hg; simp only [exec, execDdwset, State.privileged]; exact ⟨_, rfl⟩
  | ddmk g d a b imm =>
    cases hg; simp only [exec, execDdmk, State.privileged]; exact ⟨_, rfl⟩
  | ddapply g tt d a b =>
    cases hg; simp only [exec, execDdapply, State.privileged]; exact ⟨_, rfl⟩
  | ddite g d a b =>
    cases hg; simp only [exec, execDdite, State.privileged]; exact ⟨_, rfl⟩
  | ddrestr g d a b =>
    cases hg; simp only [exec, execDdrestr, State.privileged]; exact ⟨_, rfl⟩
  | ddexist g d a b =>
    cases hg; simp only [exec, execDdexist, State.privileged]; exact ⟨_, rfl⟩
  | ddcount g d a =>
    cases hg; simp only [exec, execDdcount, State.privileged]; exact ⟨_, rfl⟩
  | ddwcount g d a =>
    cases hg; simp only [exec, execDdwcount, State.privileged]; exact ⟨_, rfl⟩
  | ddref g a =>
    cases hg; simp only [exec, execDdref, State.privileged]; exact ⟨_, rfl⟩
  | dderef g a =>
    cases hg; simp only [exec, execDderef, State.privileged]; exact ⟨_, rfl⟩
  | ddgc g d =>
    cases hg; simp only [exec, execDdgc, State.privileged]; exact ⟨_, rfl⟩
  | ddnode g d a =>
    cases hg; simp only [exec, execDdnode, State.privileged]; exact ⟨_, rfl⟩
  | ddstat g d imm =>
    cases hg; simp only [exec, execDdstat, State.privileged]; exact ⟨_, rfl⟩
  | rsend g a b =>
    cases hg; simp only [exec, execRsend, State.privileged]; exact ⟨_, rfl⟩
  | rrecv g d a =>
    cases hg; simp only [exec, execRrecv, State.privileged]; exact ⟨_, rfl⟩
  | cbindOffer g a b =>
    cases hg; simp only [exec, execCbindOffer, State.privileged]; exact ⟨_, rfl⟩
  | cbindWithdraw g a b =>
    cases hg; simp only [exec, execCbindWithdraw, State.privileged]; exact ⟨_, rfl⟩
  | cget g d a =>
    cases hg; simp only [exec, execCget, State.privileged]; exact ⟨_, rfl⟩
  | cset g a b =>
    cases hg; simp only [exec, execCset, State.privileged]; exact ⟨_, rfl⟩
  | cue g a =>
    cases hg; simp only [exec, execCue, State.privileged]; exact ⟨_, rfl⟩
  | cuetake g d a =>
    cases hg; simp only [exec, execCuetake, State.privileged]; exact ⟨_, rfl⟩
  | sthand g d a b =>
    cases hg; simp only [exec, execSthand, State.privileged]; exact ⟨_, rfl⟩
  | sttake g d a =>
    cases hg; simp only [exec, execSttake, State.privileged]; exact ⟨_, rfl⟩
  | redcfg g a =>
    cases hg; simp only [exec, execRedcfg, State.privileged]; exact ⟨_, rfl⟩
  | redv g t rm sat grp op d a b =>
    cases hg; simp only [exec, execRedv, State.privileged]; exact ⟨_, rfl⟩
  | reds g t rm sat grp op d a b =>
    cases hg; simp only [exec, execReds, State.privileged]; exact ⟨_, rfl⟩
  | bcastv g grp d a b =>
    cases hg; simp only [exec, execBcastv, State.privileged]; exact ⟨_, rfl⟩
  | trap g imm =>
    cases hg; simp only [exec, execTrap, State.privileged]; exact ⟨_, rfl⟩
  | tfence g =>
    cases hg; simp only [exec, execTfence, State.privileged]; exact ⟨_, rfl⟩
  | rfe g =>
    cases hg; simp only [exec, execRfe, State.privileged]; exact ⟨_, rfl⟩
  | brk g imm =>
    cases hg; simp only [exec, execBrk, State.privileged]; exact ⟨_, rfl⟩
  | tqpop g w d =>
    cases hg; simp only [exec, execTqpop, State.privileged]; exact ⟨_, rfl⟩
  | sfqpop g w tr d =>
    cases hg; simp only [exec, execSfqpop, State.privileged]; exact ⟨_, rfl⟩
  | tlbinv g a b =>
    cases hg; simp only [exec, execTlbinv, State.privileged]; exact ⟨_, rfl⟩
  | slotwr g a b =>
    cases hg; simp only [exec, execSlotwr, State.privileged]; exact ⟨_, rfl⟩
  | mapwr g a b =>
    cases hg; simp only [exec, execMapwr, State.privileged]; exact ⟨_, rfl⟩
  | vacate g d a =>
    cases hg; simp only [exec, execVacate, State.privileged]; exact ⟨_, rfl⟩
  | resume g d a =>
    cases hg; simp only [exec, execResume, State.privileged]; exact ⟨_, rfl⟩
  | tsusp g a =>
    cases hg; simp only [exec, execTsusp, State.privileged]; exact ⟨_, rfl⟩
  | tresm g a =>
    cases hg; simp only [exec, execTresm, State.privileged]; exact ⟨_, rfl⟩
  | halt g a =>
    cases hg; simp only [exec, execHalt, State.privileged]; exact ⟨_, rfl⟩
  | illegalInstruction c_ => cases hg
  | resultLands w_ id_ => cases hg
  | lineDelivery pcl_ line_ => cases hg
  | sleepExpiry w_ stamp_ => cases hg
  | syncfRelease w_ stamp_ => cases hg
  | packetForward pid_ => cases hg
  | starvationToken router_ port_ => cases hg
  | remoteAccess aid_ part_ => cases hg
  | accessResponse aid_ part_ => cases hg
  | translationWalk wid_ => cases hg
  | storeFaultRecord aid_ part_ => cases hg
  | feRetry aid_ part_ => cases hg
  | waitmTimeout w_ stamp_ => cases hg
  | transRequest rid_ => cases hg
  | transResult rid_ => cases hg
  | barrierArrival w_ n_ wait_ d_ => cases hg
  | barsetRequest w_ n_ count_ => cases hg
  | barrierVerdict w_ n_ ok_ ph_ wait_ => cases hg
  | barrierRelease job_ clu_ n_ ws_ => cases hg
  | flitArrival f_ => cases hg
  | flitResend f_ => cases hg
  | sendAck f_ dead_ => cases hg
  | trecvTimeout w_ stamp_ => cases hg
  | hangSample job_ => cases hg
  | engineEnqueue op_ => cases hg
  | copyChunk job_ clu_ id_ => cases hg
  | copyResolve job_ clu_ id_ => cases hg
  | gatherBatch job_ clu_ id_ => cases hg
  | gatherResolve job_ clu_ id_ => cases hg
  | cancelRequest h_ => cases hg
  | adoptRequest w_ d_ id_ => cases hg
  | adoptReply w_ d_ id_ r_ => cases hg
  | handleCompletion h_ c_ flags_ => cases hg
  | spanArrival a_ => cases hg
  | spanSlotTake job_ link_ pid_ => cases hg
  | spanPortRead job_ link_ pid_ lead_ => cases hg
  | spanKstep job_ link_ pid_ => cases hg
  | spanEmulKstep job_ link_ pid_ => cases hg
  | spanPromote job_ link_ pid_ => cases hg
  | spanDeliver job_ link_ pid_ => cases hg
  | spanDoneWord job_ link_ pid_ => cases hg
  | spanResolve job_ link_ pid_ => cases hg
  | spanDeliveryStop job_ link_ pid_ => cases hg
  | pcfgApply w_ adr_ blk_ => cases hg
  | pplanRun job_ clu_ => cases hg
  | pplanResolve job_ clu_ => cases hg
  | ddEnqueue e_ => cases hg
  | ddExecute job_ clu_ => cases hg
  | ddResolve job_ clu_ e_ c_ flags_ => cases hg
  | castAccess w_ r_ => cases hg
  | cueArm t_ => cases hg
  | cueCommit t_ => cases hg
  | recordFrameArrival f_ => cases hg
  | frameResend f_ => cases hg
  | bindToken t_ => cases hg
  | openToken t_ => cases hg
  | unbindToken u_ t_ cue_ => cases hg
  | cueFailReturn t_ => cases hg
  | stateTransfer x_ => cases hg
  | stateResend x_ => cases hg
  | redCombine job_ grp_ k_ node_ src_ => cases hg
  | redBroadcast job_ grp_ k_ node_ => cases hg
  | redResolve job_ grp_ k_ node_ => cases hg
  | vacateResolve h_ pcl_ vbase_ => cases hg
  | resumeResolve h_ clu_ pcl_ vbase_ => cases hg
  | tqackServe pc_ ent_ => cases hg
  | tqackRefuse pc_ ent_ => cases hg
  | tenantWrite pc_ v_ => cases hg
  | coreRegWrite pc_ off_ v_ => cases hg
  | jobLaunch job_ p_ => cases hg
  | waitlimExpiry job_ => cases hg
  | lqtail vf_ tail_ => cases hg
  | jobCompletion job_ => cases hg
  | bcmdBind  => cases hg
  | bcmdUnbind  => cases hg
  | peerBindMatch dev_ peerJob_ localJob_ tenant_ => cases hg
  | peeren v_ => cases hg
  | pf0RegWrite fn_ off_ v_ => cases hg
  | peerForward f_ => cases hg
  | attestationReport nonce_ => cases hg
  | boot  => cases hg
  | governorSample watts_ => cases hg
  | thermalTrip  => cases hg
  | jobTermination job_ status_ cause_ => cases hg
  | peerBindingDrop dev_ localJob_ => cases hg

end Sys2Proof.Machine
end

