-- ==== Sys2Proof/Tests/Slice0.lean ====
section
/-!
SUPPORT. The model's own tests: a term that each check of well-formedness refuses; words written out bit by bit from the encoding tables
of the spec, for every constructor, and words that stop by name; a few single steps; and for each statement of the obligations
with hypotheses, states and operands that meet them, clause by clause, at the boundaries of their ranges. Expected values are
the spec's, or worked out by hand from it.
-/

set_option linter.unusedVariables false

namespace Sys2Proof.Tests

open Sys2Proof.Machine

/-! ### Well-formedness: for each check an ill-formed term, which the check refuses -/

theorem test_wf_guard : (Instr.nop ⟨true, 0⟩).wellFormed = false ∧ (Instr.halt ⟨true, 0⟩ 1).wellFormed = false := by decide

theorem test_wf_zero_destination :
    [Instr.cmp ⟨false, 0⟩ false .lt 0 4 (.imm 1), .tst ⟨false, 0⟩ false 0 4 (.imm 1), .plog ⟨false, 0⟩ 8 0 1 2,
     .start ⟨false, 0⟩ 0 0 10 (.imm 5), .fcmp ⟨false, 0⟩ .f32 .lt 0 1 2, .vcmp ⟨false, 0⟩ .f32 0 .lt 0 1 (.reg 2),
     .trecv ⟨false, 0⟩ 0 5 9, .copy ⟨false, 0⟩ false 0 1 2 3, .copy2 ⟨false, 0⟩ false 0 1 2 3,
     .gath ⟨false, 0⟩ false 0 1, .scat ⟨false, 0⟩ false 0 1, .hadopt ⟨false, 0⟩ 0 1, .htest ⟨false, 0⟩ 0 4,
     .sopen ⟨false, 0⟩ .f16 .e 0 false false false 0 1 2, .sjoin ⟨false, 0⟩ .f16 .e false 0 1 2, .pplan ⟨false, 0⟩ 0 1 2,
     .pfetch ⟨false, 0⟩ false 1 0 1, .ddmk ⟨false, 0⟩ 0 1 2 3, .ddapply ⟨false, 0⟩ 8 0 1 2, .ddite ⟨false, 0⟩ 0 4 6,
     .ddrestr ⟨false, 0⟩ 0 1 2, .ddexist ⟨false, 0⟩ 0 1 2, .ddcount ⟨false, 0⟩ 0 1, .ddwcount ⟨false, 0⟩ 0 1, .ddgc ⟨false, 0⟩ 0,
     .sthand ⟨false, 0⟩ 0 1 2, .sttake ⟨false, 0⟩ 0 1, .redv ⟨false, 0⟩ .f32 .rne false 0 .add 0 1 2,
     .reds ⟨false, 0⟩ .f64 .rne false 0 .add 0 1 2, .bcastv ⟨false, 0⟩ 0 0 1 2, .vacate ⟨false, 0⟩ 0 1,
     .resume ⟨false, 0⟩ 0 1].all (fun i => !i.wellFormed) = true := by decide

theorem test_wf_zero_handle :
    [Instr.hval ⟨false, 0⟩ 3 5 0, .htest ⟨false, 0⟩ 4 0, .hcancel ⟨false, 0⟩ 0, .hpass ⟨false, 0⟩ 9 0].all
      (fun i => !i.wellFormed) = true := by decide

theorem test_wf_pairs_and_triples :
    [Instr.tilepos ⟨false, 0⟩ 62, .tilepos ⟨false, 0⟩ 127, .ddite ⟨false, 0⟩ 9 63 6, .ddnode ⟨false, 0⟩ 127 5,
     .fadd ⟨false, 0⟩ .a80 .rne 63 2 4, .fmul ⟨false, 0⟩ .a80 .rne 2 4 127, .cvt ⟨false, 0⟩ .f64 .rne false .a80 2 63].all
      (fun i => !i.wellFormed) = true := by decide

theorem test_wf_types :
    [Instr.cvt ⟨false, 0⟩ .b1 .rne false .f32 1 2, .fadd ⟨false, 0⟩ .i32 .rne 1 2 3, .fdiv ⟨false, 0⟩ 0 .a80 .rne 1 2 3,
     .vcvt ⟨false, 0⟩ .f64 .rne false .f32 1 2, .vpack ⟨false, 0⟩ .f32 .rne false 1 2 3, .vunpk ⟨false, 0⟩ .i32 0 1 2,
     .vadd ⟨false, 0⟩ .f64 .rne false 0 3 4 (.reg 1), .vabs ⟨false, 0⟩ .n32 false 0 3 4, .vdot4 ⟨false, 0⟩ .i16 false 0 3 4 (.reg 5),
     .ld ⟨false, 0⟩ 0 false .f32 9 62 .none 16, .vld ⟨false, 0⟩ 0 false .i64 1 3 62 .none 0,
     .amo ⟨false, 0⟩ 0 false .i16 .add 9 4 5 0, .famo ⟨false, 0⟩ 0 false .f16 .rne .add 9 4 5 0,
     .sopen ⟨false, 0⟩ .f32 .e 0 false false false 5 1 2, .sclose ⟨false, 0⟩ .f64 .rne false .e 5 1 2,
     .reds ⟨false, 0⟩ .f16 .rne false 0 .add 5 1 2].all (fun i => !i.wellFormed) = true := by decide

theorem test_wf_rounding_and_saturation :
    [Instr.cvt ⟨false, 0⟩ .i64 .rup false .i32 1 2, .cvt ⟨false, 0⟩ .f64 .rne true .f32 1 2,
     .vadd ⟨false, 0⟩ .i32 .rtz false 0 3 4 (.reg 1), .vadd ⟨false, 0⟩ .f32 .rne true 0 3 4 (.reg 1),
     .vabs ⟨false, 0⟩ .f32 true 0 3 4, .sclose ⟨false, 0⟩ .i32 .rup false .e 5 1 2, .sclose ⟨false, 0⟩ .a80 .rne true .e 5 1 2,
     .redv ⟨false, 0⟩ .i32 .rtz false 0 .add 5 1 2].all (fun i => !i.wellFormed) = true := by decide +kernel

theorem test_wf_counts_granules_and_forms :
    [Instr.vld ⟨false, 0⟩ 0 false .f32 0 3 62 .none 0, .vld ⟨false, 0⟩ 0 false .f32 65 3 62 .none 0,
     .tlook ⟨false, 0⟩ 0 5 9 4, .tset ⟨false, 0⟩ 17 9 4, .tinv ⟨false, 0⟩ 0 9, .rupd ⟨false, 0⟩ false .i64 .swap 4 5 0,
     .vcmp ⟨false, 0⟩ .i32 0 .un 3 4 (.reg 1), .vunpk ⟨false, 0⟩ .i16 2 1 2, .sopen ⟨false, 0⟩ .f16 .e 0 true false false 5 1 2,
     .sjoin ⟨false, 0⟩ .i8 .e true 5 1 2, .sopen ⟨false, 0⟩ .i8 .e 0 false false true 5 1 2, .pfetch ⟨false, 0⟩ false 0 5 1].all
      (fun i => !i.wellFormed) = true := by decide

/-- A step of the machine that is not an instruction has no word. -/
theorem test_wf_machine_step : Instr.boot.wellFormed = false ∧ encode .boot = none := ⟨by decide, rfl⟩

theorem test_encode_add : encode (.add ⟨false, 0⟩ false 5 6 (.reg 66)) = some 0x008000286840000000000000 := by decide

/-- The host's numbering: the 12 bytes of R34, the word's least significant byte first. -/
theorem test_table_word : decodeTableWord 96 0x008000286840000000000000 = some (.add ⟨false, 0⟩ false 5 6 (.reg 66)) := by decide

/-! ### Decoding (R33, R49)

One word for every instruction: a word that the manual prints beside its line, or one laid out from R33, R49 and the FN
table of its chapter. -/

theorem test_decode_scalar1 : [0x004000000000000000000000, 0x008000286840000000000000, 0x00C000286860000000000000, 0x0100063860100000FFFFFFFD, 0x014000288860000000000000, 0x0180064860100000FFFFFFFB, 0x01C804A152C0000000000000, 0x021400A152C0000000000000, 0x025804A152C0000000000000, 0x029C00A152C0000000000000, 0x02C000082060000000000000, 0x03000008201000000000004E].map (fun w => (decode w).toOption) =
    [some (.nop ⟨false, 0⟩),
     some (.add ⟨false, 0⟩ false 5 6 (.reg 66)),
     some (.sub ⟨false, 0⟩ false 5 6 (.reg 67)),
     some (.mul ⟨false, 0⟩ true 71 6 (.imm 0xFFFFFFFD)),
     some (.mulh ⟨false, 0⟩ false 5 8 (.reg 67)),
     some (.mulhu ⟨false, 0⟩ true 73 6 (.imm 0xFFFFFFFB)),
     some (.div ⟨false, 0⟩ true 2 20 21 (.reg 22)),
     some (.divu ⟨false, 0⟩ false 5 20 21 (.reg 22)),
     some (.rem ⟨false, 0⟩ true 6 20 21 (.reg 22)),
     some (.remu ⟨false, 0⟩ false 7 20 21 (.reg 22)),
     some (.and ⟨false, 0⟩ 1 2 (.reg 3)),
     some (.or ⟨false, 0⟩ 1 2 (.imm 78))] := by decide

theorem test_decode_scalar2 : [0x0340000820A0000000000000, 0x038000082010000000000050, 0x03C00028A860000000000000, 0x0400065860100000FFFFFFF9, 0x04400028C860000000000000, 0x0480066860100000FFFFFFF7, 0x04C000388000000000000000, 0x050004389000000000000000, 0x05400038A000000000000000, 0x05800028E860000000000000, 0x05C0067860100000FFFFFFF5, 0x060000290860000000000000].map (fun w => (decode w).toOption) =
    [some (.xor ⟨false, 0⟩ 1 2 (.reg 5)),
     some (.andn ⟨false, 0⟩ 1 2 (.imm 80)),
     some (.shl ⟨false, 0⟩ false 5 10 (.reg 67)),
     some (.shr ⟨false, 0⟩ true 75 6 (.imm 0xFFFFFFF9)),
     some (.sar ⟨false, 0⟩ false 5 12 (.reg 67)),
     some (.rol ⟨false, 0⟩ true 77 6 (.imm 0xFFFFFFF7)),
     some (.clz ⟨false, 0⟩ false 7 8),
     some (.ctz ⟨false, 0⟩ true 7 9),
     some (.popc ⟨false, 0⟩ false 7 10),
     some (.min ⟨false, 0⟩ false 5 14 (.reg 67)),
     some (.max ⟨false, 0⟩ true 79 6 (.imm 0xFFFFFFF5)),
     some (.minu ⟨false, 0⟩ false 5 16 (.reg 67))] := by decide

theorem test_decode_scalar3 : [0x0640068860100000FFFFFFF3, 0x068000388120000500000000, 0x06C000480000000000000000, 0x070000388000000089ABCDEF, 0x0740002860000FC300000000, 0x07800028600003C800000000, 0x07C00050A160074000000000, 0x080000286000000200000000, 0x08400438B000000000000000, 0x088000089000000000000000].map (fun w => (decode w).toOption) =
    [some (.maxu ⟨false, 0⟩ true 81 6 (.imm 0xFFFFFFF3)),
     some (.sel ⟨false, 0⟩ 5 7 8 (.reg 9)),
     some (.movi ⟨false, 0⟩ 9 0),
     some (.movhi ⟨false, 0⟩ 7 8 0x89ABCDEF),
     some (.bext ⟨false, 0⟩ 3 63 5 6 (.reg 0)),
     some (.bextu ⟨false, 0⟩ 8 15 5 6 (.reg 0)),
     some (.bins ⟨false, 0⟩ 0 29 10 10 (.reg 11)),
     some (.sext ⟨false, 0⟩ .w32 5 6),
     some (.bswap ⟨false, 0⟩ true 7 11),
     some (.mov ⟨false, 0⟩ 1 9)] := by decide

theorem test_decode_control : [0x1002C00000000000FFFFFFFE, 0x10400003F000000000000000, 0x108001F80000000000000003, 0x10C001F89000000000000018, 0x110000104010000200000064, 0x114000205010000100000008, 0x118000181040000800000000, 0x11C00000900000A600000000, 0x120000480000000000000000, 0x1240005000000000FFFFFFFD, 0x12800000000000000000012C].map (fun w => (decode w).toOption) =
    [some (.br ⟨true, 3⟩ 0xFFFFFFFE),
     some (.jmp ⟨false, 0⟩ 63 0),
     some (.call ⟨false, 0⟩ 63 3),
     some (.callr ⟨false, 0⟩ 63 9 24),
     some (.cmp ⟨false, 0⟩ false .lt 2 4 (.imm 100)),
     some (.tst ⟨false, 0⟩ true 4 5 (.imm 8)),
     some (.plog ⟨false, 0⟩ 8 3 1 2),
     some (.pset ⟨false, 0⟩ 0x53 9),
     some (.pget ⟨false, 0⟩ 9),
     some (.dbnz ⟨false, 0⟩ 10 4294967293),
     some (.syncf ⟨false, 0⟩ 300)] := by decide

theorem test_decode_threads : [0x20000048A010000000000005, 0x204000009000000000000000, 0x208000280000000000000001, 0x20C000009000000000000807, 0x210000A00000000000000000, 0x2140000000000000000003E8, 0x2180003050E0000100000000, 0x21C00048000000000000001F, 0x22000048A000000000000000].map (fun w => (decode w).toOption) =
    [some (.start ⟨false, 0⟩ 0 9 10 (.imm 5)),
     some (.exit ⟨false, 0⟩ 9),
     some (.gets ⟨false, 0⟩ 5 1),
     some (.sets ⟨false, 0⟩ 9 0x807),
     some (.tilepos ⟨false, 0⟩ 20),
     some (.sleep ⟨false, 0⟩ 0 1000),
     some (.mkadr ⟨false, 0⟩ .rel 6 5 (.reg 7)),
     some (.slotrd ⟨false, 0⟩ 9 31),
     some (.thrst ⟨false, 0⟩ 9 10)] := by decide

theorem test_decode_numbers1 : [0x300000206008100C00000000, 0x3040001040CC400000000000, 0x3080001040CD600000000000, 0x30C0001040CE800000000000, 0x31000050C1CE600000000000, 0x3164001040CD200000000000, 0x31840010400C000000000000, 0x31C0001040CE000000000000, 0x3200001040CC000000000000, 0x3240001040CD000600000000, 0x32800010400E000000000000, 0x32C000140000300C00000000].map (fun w => (decode w).toOption) =
    [some (.cvt ⟨false, 0⟩ .e4m3 .rne true .f32 4 6),
     some (.fadd ⟨false, 0⟩ .f32 .rup 2 4 6),
     some (.fsub ⟨false, 0⟩ .f64 .rdn 2 4 6),
     some (.fmul ⟨false, 0⟩ .a80 .rna 2 4 6),
     some (.ffma ⟨false, 0⟩ .a80 .rdn 10 12 14),
     some (.fdiv ⟨false, 0⟩ 9 .f64 .rtz 2 4 6),
     some (.fsqrt ⟨false, 0⟩ 1 .f32 .rne 2 4),
     some (.fmin ⟨false, 0⟩ .a80 2 4 6),
     some (.fmax ⟨false, 0⟩ .f32 2 4 6),
     some (.fcmp ⟨false, 0⟩ .f64 .un 2 4 6),
     some (.fclass ⟨false, 0⟩ .a80 2 4),
     some (.vcvt ⟨false, 0⟩ .i8 .rtz true .f32 2 16)] := by decide

theorem test_decode_numbers2 : [0x330000103088100000000000, 0x33400014F00B000100000000].map (fun w => (decode w).toOption) =
    [some (.vpack ⟨false, 0⟩ .e4m3 .rne true 2 3 4),
     some (.vunpk ⟨false, 0⟩ .f16 1 2 31)] := by decide

theorem test_decode_lanes1 : [0x40028018482C200000000000, 0x40400008284C000100000000, 0x40800008284C200200000000, 0x40C00008286C000200000000, 0x41000008284C400300000000, 0x4140000820140000FFFFFFFF, 0x418000082065000700000000, 0x41C000082004100000000000, 0x42000008200C000200000000, 0x42500040900C000000000000, 0x428C0008200C000000000000, 0x42D00008200C000100000000].map (fun w => (decode w).toOption) =
    [some (.vadd ⟨true, 2⟩ .f32 .rtz false 0 3 4 (.reg 17)),
     some (.vsub ⟨false, 0⟩ .f32 .rne false 1 1 2 (.reg 18)),
     some (.vmul ⟨false, 0⟩ .f32 .rtz false 2 1 2 (.reg 18)),
     some (.vfma ⟨false, 0⟩ .f32 .rne false 2 1 2 (.reg 19)),
     some (.vfms ⟨false, 0⟩ .f32 .rup false 3 1 2 (.reg 18)),
     some (.vmin ⟨false, 0⟩ .i32 0 1 2 (.imm 0xFFFFFFFF)),
     some (.vmax ⟨false, 0⟩ .n32 7 1 2 (.reg 3)),
     some (.vabs ⟨false, 0⟩ .i32 true 0 1 2),
     some (.vneg ⟨false, 0⟩ .f32 false 2 1 2),
     some (.vexp2 ⟨false, 0⟩ 4 0 8 9),
     some (.vlog2 ⟨false, 0⟩ 3 0 1 2),
     some (.vrcp ⟨false, 0⟩ 4 1 1 2)] := by decide

theorem test_decode_lanes2 : [0x43140008200C000200000000, 0x43400018101C001000000000, 0x438000082060000400000000, 0x43C000082060000000000000, 0x440000082010000000000001, 0x444000082060000200000000, 0x448000082010000000000003, 0x44C000082060000400000000, 0x450000082010000000000005, 0x454000082000000600000000, 0x4580002860E0100000000000, 0x45C000482004100100000000].map (fun w => (decode w).toOption) =
    [some (.vrsq ⟨false, 0⟩ 5 2 1 2),
     some (.vcmp ⟨false, 0⟩ .f32 0 .lt 3 1 (.imm 0)),
     some (.vsel ⟨false, 0⟩ 4 1 2 3),
     some (.vand ⟨false, 0⟩ 0 1 2 (.reg 3)),
     some (.vor ⟨false, 0⟩ 0 1 2 (.imm 1)),
     some (.vxor ⟨false, 0⟩ 2 1 2 (.reg 3)),
     some (.vshl ⟨false, 0⟩ 0 1 2 (.imm 3)),
     some (.vshr ⟨false, 0⟩ 4 1 2 (.reg 3)),
     some (.vsar ⟨false, 0⟩ 0 1 2 (.imm 5)),
     some (.vpopc ⟨false, 0⟩ 6 1 2),
     some (.vdot4 ⟨false, 0⟩ .i8 true 0 5 6 (.reg 7)),
     some (.vsum ⟨false, 0⟩ .i32 .rne true 1 9 2)] := by decide

theorem test_decode_lanes3 : [0x46000048200C000100000000, 0x4640000821A4000000000000, 0x46800008108C000000000000].map (fun w => (decode w).toOption) =
    [some (.vmaxr ⟨false, 0⟩ .f32 1 9 2),
     some (.vfmas ⟨false, 0⟩ .i32 .rne false 0 1 2 (.reg 13)),
     some (.vscal ⟨false, 0⟩ .f32 .rne false 0 1 1 (.reg 4))] := by decide

theorem test_decode_laneData1 : [0x5000000C1000000300000000, 0x5040000C1000000300000000, 0x508000482060000100000000, 0x50C00048201000000000003F, 0x510000082060000500000000, 0x514000082010000500000009, 0x518000082000000500000000, 0x51C000082000000500000000, 0x520000080000000500000000, 0x524000082060000600000000, 0x528000483000000000000000, 0x52C000189000000000000000].map (fun w => (decode w).toOption) =
    [some (.vmov ⟨false, 0⟩ 3 1 17),
     some (.vbcast ⟨false, 0⟩ 3 1 65),
     some (.vget ⟨false, 0⟩ true 9 2 (.reg 3)),
     some (.vput ⟨false, 0⟩ 9 2 (.imm 63)),
     some (.vperm ⟨false, 0⟩ 5 1 2 3),
     some (.vrot ⟨false, 0⟩ 5 1 2 (.imm 9)),
     some (.vcomp ⟨false, 0⟩ 5 1 2),
     some (.vexpd ⟨false, 0⟩ 5 1 2),
     some (.viota ⟨false, 0⟩ 5 1),
     some (.kop ⟨false, 0⟩ 6 1 2 3),
     some (.kpopc ⟨false, 0⟩ 9 3),
     some (.kmovToMask ⟨false, 0⟩ 3 9)] := by decide

theorem test_decode_laneData2 : [0x52C004483000000000000000, 0x530000483000000000000000].map (fun w => (decode w).toOption) =
    [some (.kmovFromMask ⟨false, 0⟩ 9 3),
     some (.kfirst ⟨false, 0⟩ 9 3)] := by decide

theorem test_decode_memory1 : [0x6008204BE015000000000010, 0x604020282015000000000000, 0x608C20103015020000000000, 0x60C020090015040000000000, 0x610820082064040000000008, 0x614000082061001000000008, 0x618800082863005200000008, 0x61C020082865009300000008, 0x620000206016000000000008, 0x624400082067000300000008, 0x6280000820160000FFFFFFF8, 0x62C020082062000700000000].map (fun w => (decode w).toOption) =
    [some (.ld ⟨false, 0⟩ 2 true .n32 9 62 .none 16),
     some (.st ⟨false, 0⟩ true .n32 5 2 .none 0),
     some (.vld ⟨false, 0⟩ 3 true .n32 32 2 3 .none 0),
     some (.vst ⟨false, 0⟩ true .n32 64 1 16 .none 0),
     some (.vlds ⟨false, 0⟩ 2 true .i32 64 1 2 3 8),
     some (.vsts ⟨false, 0⟩ false .n8 1 1 2 3 8),
     some (.vldx ⟨false, 0⟩ 2 false .n16 2 5 1 2 19 8),
     some (.vstx ⟨false, 0⟩ true .n32 3 9 1 2 19 8),
     some (.ldf ⟨false, 0⟩ 0 .i64 4 6 .none 8),
     some (.ldp ⟨false, 0⟩ 1 .n64 1 2 (.reg 3 3) 8),
     some (.ste ⟨false, 0⟩ .i64 1 2 .none 0xFFFFFFF8),
     some (.stf ⟨false, 0⟩ true .i16 1 2 (.reg 3 7) 0)] := by decide

theorem test_decode_memory2 : [0x630000002060000100000040, 0x634800482000001000000000, 0x638000002060000600000000, 0x63C000000000002000000000, 0x63C000002000000A00000000, 0x64008000C1A0000100000000, 0x644000000000000000000000, 0x648000000000000200000000, 0x64CC00482000000000000004].map (fun w => (decode w).toOption) =
    [some (.fe ⟨false, 0⟩ true 2 3 64),
     some (.tlook ⟨false, 0⟩ 2 16 9 2),
     some (.tset ⟨false, 0⟩ 6 2 3),
     some (.tinvAll ⟨false, 0⟩),
     some (.tinv ⟨false, 0⟩ 10 2),
     some (.guard ⟨false, 2⟩ true 12 13 0),
     some (.drain ⟨false, 0⟩),
     some (.fence ⟨false, 0⟩ .job),
     some (.xlat ⟨false, 0⟩ 3 9 2 4)] := by decide

theorem test_decode_atomics : [0x7000202060E7000000000010, 0x7044002060E4000000000010, 0x7084202060ED600000000010, 0x70C0200060E6000700000010, 0x7100000060EC000200000010].map (fun w => (decode w).toOption) =
    [some (.amo ⟨false, 0⟩ 0 true .n64 .add 4 6 7 16),
     some (.cas ⟨false, 0⟩ 1 false .i32 4 6 7 16),
     some (.famo ⟨false, 0⟩ 1 true .f64 .rdn .add 4 6 7 16),
     some (.rupd ⟨false, 0⟩ true .i64 .maxu 6 7 16),
     some (.frupd ⟨false, 0⟩ false .f32 .rne .max 6 7 16)] := by decide

theorem test_decode_sync : [0x800000006000000100000040, 0x804000000000000000000000, 0x808000207000000000000000, 0x80C000000000000300000000, 0x810000200000000300000000, 0x814000000000000F00000000, 0x818000004000000F00000000, 0x81C0000050C0000000000000, 0x820000480000000000000000, 0x824000207000000200000000, 0x828000480000000100000000].map (fun w => (decode w).toOption) =
    [some (.mon ⟨false, 0⟩ 1 6 64),
     some (.monc ⟨false, 0⟩),
     some (.waitm ⟨false, 0⟩ false 4 7),
     some (.bar ⟨false, 0⟩ 3),
     some (.bara ⟨false, 0⟩ 3 4),
     some (.barw ⟨false, 0⟩ 15),
     some (.barset ⟨false, 0⟩ 15 4),
     some (.send ⟨false, 0⟩ false 0 5 (.reg 6)),
     some (.recv ⟨false, 0⟩ 9),
     some (.trecv ⟨false, 0⟩ 2 4 7),
     some (.mqst ⟨false, 0⟩ true 9)] := by decide

theorem test_decode_engines : [0x9000004840A0000000000100, 0x9040005840A0000000000200, 0x908000506000000000000000, 0x90C020506000000000000000, 0x910000289000000300000000, 0x914000089000000000000000, 0x918000009000000000000000, 0x91C000309000000000000000, 0x920000486000000000000000].map (fun w => (decode w).toOption) =
    [some (.copy ⟨false, 0⟩ false 9 4 5 256),
     some (.copy2 ⟨false, 0⟩ false 11 4 5 512),
     some (.gath ⟨false, 0⟩ false 10 6),
     some (.scat ⟨false, 0⟩ true 10 6),
     some (.hval ⟨false, 0⟩ 3 5 9),
     some (.htest ⟨false, 0⟩ 1 9),
     some (.hcancel ⟨false, 0⟩ 9),
     some (.hpass ⟨false, 0⟩ 6 9),
     some (.hadopt ⟨false, 0⟩ 9 6)] := by decide

theorem test_decode_span : [0xA000004840A8001400000000, 0xA040004840A8001200000000, 0xA080000060E0000000000004, 0xA0C0000060E0000000000000, 0xA100000142AA401E00012020, 0xA100000142AC000000002020, 0xA14000000000000900000000, 0xA18000286000000000000000, 0xA1C000000000000000000000].map (fun w => (decode w).toOption) =
    [some (.sopen ⟨false, 0⟩ .e4m3 .e 1 true false false 9 4 5),
     some (.sjoin ⟨false, 0⟩ .e4m3 .w true 9 4 5),
     some (.sfeed ⟨false, 0⟩ .e 6 7 4),
     some (.sscale ⟨false, 0⟩ .e 6 7),
     some (.scloseRdl ⟨false, 0⟩ .bf16 .rup false .w 3 20 21 0x12020),
     some (.sclose ⟨false, 0⟩ .f32 .rne false .e 20 21 8224),
     some (.sabort ⟨false, 0⟩ .n 2),
     some (.sstat ⟨false, 0⟩ 5 6),
     some (.sround ⟨false, 0⟩)] := by decide

theorem test_decode_prompter : [0xB00000006000000000000000, 0xB040004840A0000000000000, 0xB08000507000000700000000, 0xB0C000280000000000000003].map (fun w => (decode w).toOption) =
    [some (.pcfg ⟨false, 0⟩ 6),
     some (.pplan ⟨false, 0⟩ 9 4 5),
     some (.pfetch ⟨false, 0⟩ true 3 10 7),
     some (.pstat ⟨false, 0⟩ 5 3)] := by decide

theorem test_decode_dd1 : [0xC00000004000000000000000, 0xC040000040A0000000000000, 0xC080000040A0000000000000, 0xC0C000482000000000000003, 0xC100004840A0000800000000, 0xC140005840C0000000000000, 0xC180012A40A0000000000000, 0xC1C0004840A0000000000000, 0xC20000607000000000000000, 0xC240016A7000000000000000, 0xC28000009000000000000000, 0xC2C000009000000000000000].map (fun w => (decode w).toOption) =
    [some (.ddcfg ⟨false, 0⟩ 4),
     some (.ddord ⟨false, 0⟩ 4 5),
     some (.ddwset ⟨false, 0⟩ 4 5),
     some (.ddmk ⟨false, 0⟩ 9 2 0 3),
     some (.ddapply ⟨false, 0⟩ 8 9 4 5),
     some (.ddite ⟨false, 0⟩ 11 4 6),
     some (.ddrestr ⟨false, 0⟩ 37 36 5),
     some (.ddexist ⟨false, 0⟩ 9 4 5),
     some (.ddcount ⟨false, 0⟩ 12 7),
     some (.ddwcount ⟨false, 0⟩ 45 39),
     some (.ddref ⟨false, 0⟩ 9),
     some (.dderef ⟨false, 0⟩ 9)] := by decide

theorem test_decode_dd2 : [0xC30000680000000000000000, 0xC34000A04000000000000000, 0xC38000280000000000000006].map (fun w => (decode w).toOption) =
    [some (.ddgc ⟨false, 0⟩ 13),
     some (.ddnode ⟨false, 0⟩ 20 4),
     some (.ddstat ⟨false, 0⟩ 5 6)] := by decide

theorem test_decode_cast : [0xD000000040A0000000000000, 0xD04000307000000000000000, 0xD080000040A0000000000000, 0xD080000040A0000100000000, 0xD0C000404000000000000000, 0xD100000040A0000000000000, 0xD14000009000000000000000, 0xD18000506000000000000000, 0xD1C00058C1A0000000000000, 0xD2000058C000000000000000].map (fun w => (decode w).toOption) =
    [some (.rsend ⟨false, 0⟩ 4 5),
     some (.rrecv ⟨false, 0⟩ 6 7),
     some (.cbindOffer ⟨false, 0⟩ 4 5),
     some (.cbindWithdraw ⟨false, 0⟩ 4 5),
     some (.cget ⟨false, 0⟩ 8 4),
     some (.cset ⟨false, 0⟩ 4 5),
     some (.cue ⟨false, 0⟩ 9),
     some (.cuetake ⟨false, 0⟩ 10 6),
     some (.sthand ⟨false, 0⟩ 11 12 13),
     some (.sttake ⟨false, 0⟩ 11 12)] := by decide

theorem test_decode_reduce : [0xE00000004000000000000000, 0xE040004820AC000100000000, 0xE080004840AD001200000000, 0xE0C0004820A0000000000000].map (fun w => (decode w).toOption) =
    [some (.redcfg ⟨false, 0⟩ 4),
     some (.redv ⟨false, 0⟩ .f32 .rne false 1 .add 9 2 5),
     some (.reds ⟨false, 0⟩ .f64 .rne false 2 .max 9 4 5),
     some (.bcastv ⟨false, 0⟩ 0 9 2 5)] := by decide

theorem test_decode_system1 : [0xF00000000000000000000005, 0xF04000000000000000000000, 0xF08000000000000000000000, 0xF0C000000000000000000001, 0xF10000280000000200000000, 0xF14000280000000500000000, 0xF180000040A0000000000000, 0xF1C0000040A0000000000000, 0xF200000040A0000000000000, 0xF24000484000000000000000, 0xF28000484000000000000000, 0xF2C000003000000000000000].map (fun w => (decode w).toOption) =
    [some (.trap ⟨false, 0⟩ 5),
     some (.tfence ⟨false, 0⟩),
     some (.rfe ⟨false, 0⟩),
     some (.brk ⟨false, 0⟩ 1),
     some (.tqpop ⟨false, 0⟩ 2 5),
     some (.sfqpop ⟨false, 0⟩ 1 true 5),
     some (.tlbinv ⟨false, 0⟩ 4 5),
     some (.slotwr ⟨false, 0⟩ 4 5),
     some (.mapwr ⟨false, 0⟩ 4 5),
     some (.vacate ⟨false, 0⟩ 9 4),
     some (.resume ⟨false, 0⟩ 9 4),
     some (.tsusp ⟨false, 0⟩ 3)] := by decide

theorem test_decode_system2 : [0xF30000003000000000000000, 0xF34000003000000000000000].map (fun w => (decode w).toOption) =
    [some (.tresm ⟨false, 0⟩ 3),
     some (.halt ⟨false, 0⟩ 3)] := by decide

/-! ### Illegal encodings: the cases of R51, in its order -/

/-- an unassigned opcode; bit 76; GN = 1 with GP = 0; a field of kind — not 0: D of nop; B not 0 with I = 1; IMM not 0 with I = 0: add; SAT without its letter: add; LA without its letter: add; RX without its letter: add; MD without W or K: and; MD = 2: add; T not 0 with a type —: add; an FN value not assigned: tst; q0 as destination: cmp; a type outside the set: fadd on i32; a pair off its bank: fadd on a80; RM = 5 where M is permitted: fadd; IL_RSV is found before IL_OPND: cmp of q0 with LA. -/
theorem test_decode_illegal : [0xFFC000000000000000000000, 0x004010000000000000000000, 0x004200000000000000000000, 0x004000080000000000000000, 0x0080002860F0000000000000, 0x008000286840000000000001, 0x008000286840100000000000, 0x008400286840000000000000, 0x008020286840000000000000, 0x02C004082060000000000000, 0x008008286840000000000000, 0x008000286841000000000000, 0x114000205010000200000000, 0x1100000040A0000000000000, 0x3040001040C4000000000000, 0x304001F840CE000000000000, 0x3040001040CCA00000000000, 0x1104000040A0000000000000].map (fun w => match decode w with | .ok _ => none | .error c => some c) =
    [some .ilOpc, some .ilRsv, some .ilRsv, some .ilRsv, some .ilRsv, some .ilRsv, some .ilRsv, some .ilRsv, some .ilRsv, some .ilRsv, some .ilRsv, some .ilRsv, some .ilRsv, some .ilOpnd, some .ilOpnd, some .ilOpnd, some .ilOpnd, some .ilRsv] := by decide

/-! ### The machine -/

/-- A state whose next step runs the instruction of a word, in thread 0 of core 0 of job 1. -/
def word (w : Nat) : State := State.reset.withFetchWord 96 w

/-- The state after a step. -/
def after (s : State) : State := match step s with
  | .next t => t
  | _ => s

/-- movi x9, 5 at 0x10000: 5 is on its way to x9 for cycle 8, and the PC has passed on (R99, R92, R34). -/
theorem test_step_movi :
    let t := after (word 0x06C000480000000000000005)
    (t.thread ⟨1, 0, 0⟩).pc = 0x1000C ∧ (t.thread ⟨1, 0, 0⟩).landings.map (fun l => (l.due, l.writes)) = [(8, [.s 9 5])] := by
  decide

/-- The step answers a next state. -/
def goesOn (o : Host.Outcome State Fault Refusal) : Bool := match o with
  | .next _ => true
  | _ => false

/-! ### Witnesses: for each statement with hypotheses, states and operands that meet them

`me` is thread 0 of core 0; `base` is the state about to run a nop in it. Small changes of `base` meet the hypotheses of a
statement, clause by clause. -/

def me : Tid := ⟨1, 0, 0⟩

/-- The guard that always holds. -/
def on : Gd := ⟨false, 0⟩

def base : State := { word 0x004000000000000000000000 with cur := me }

/-- `base` with the thread changed. -/
def mine (f : Thread → Thread) : State := base.modThread me f

/-- `base` with values in x1, x2, … -/
def xs (vs : List Word) : State := mine fun t => { t with x := vs.mapIdx fun i v => (i + 1, v) }

/-- A state whose memories are in canonical form. -/
theorem canonical_of {s : State} (h : s.pool.wf ∧ s.host.wf ∧ ∀ q ∈ s.pcores, q.2.mem.wf) : s.canonical := h

/-- ScalarArithmetic, CountsAndMoves, SelectionAndFields, Predicates, TestBits and the statements on floats, lanes and masks:
the guard holds, and so it does with a predicate, either way. -/
theorem witness_guard : base.guardOn base.cur on = true ∧ base.guardOn base.cur ⟨true, 1⟩ = true ∧
    (mine fun t => { t with q := 3 }).guardOn me ⟨false, 1⟩ = true := by decide

theorem witness_StepKeepsCanonical :
    let s : State := { base with pool := [(5, 7), (9, 1)] }
    s.canonical ∧ goesOn (step s) = true :=
  ⟨canonical_of (by decide), by decide⟩

theorem witness_EncodeDecodes : (Instr.add on false 5 6 (.reg 66)).wellFormed = true := by decide

theorem witness_DecodeIsInjective : decode 0x008000286840000000000000 = .ok (.add on false 5 6 (.reg 66)) := by rfl

theorem witness_StepRunsDecoded :
    let s := word 0x06C000480000000000000005
    let u : State := { s with scan := 1 }
    s.due false = none ∧ s.nextCore = some 0 ∧ u.turn 0 = some me ∧ (u.thread me).stall = none ∧ u.parkFe me = none ∧
    ∃ l, (u.thread me).line? (u.lineOf me) = some l ∧ l.lo ≤ (u.pcOf me - l.addr).toNat ∧ (u.pcOf me - l.addr).toNat + 12 ≤ l.hi ∧
      (let x : BitVec 96 := l.bytes.extractLsb' (8 * (u.pcOf me - l.addr).toNat) 96
       decode x = .ok (.movi on 9 5) ∧ u.preIssue me (Fields.ofWord x) = none) :=
  by refine ⟨?_, ?_, ?_, ?_, ?_, _, rfl, ?_, ?_, ?_, ?_⟩ <;> decide

theorem witness_StepRunsDueStep :
    (∃ e t, State.reset.due false = some (e, t)) ∧
    (let s : State := { base with scan := 1600, agenda := [⟨0, .flitArrival default⟩] }
     s.due false = none ∧ s.nextCore = none ∧ ∃ e t, s.due true = some (e, t)) ∧
    (let s : State := { base with scan := 1600 }
     s.due true = none ∧ s.nextCore = none) := by
  refine ⟨⟨_, _, rfl⟩, ⟨?_, ?_, _, _, rfl⟩, ?_⟩ <;> decide

theorem witness_GuardedOff : (Instr.halt ⟨false, 1⟩ 4).guard? = some ⟨false, 1⟩ ∧ base.guardOn base.cur ⟨false, 1⟩ = false := by decide

theorem witness_PrivilegedTraps : base.guardOn base.cur on = true ∧ (base.thread base.cur).priv = false ∧
    (Instr.halt on 4).privileged = true ∧ (Instr.halt on 4).guard? = some on ∧ 0x800 ≤ (0x800 : BitVec 32).toNat % 4096 := by decide

theorem witness_ComputeFrame : (Instr.add on false 5 6 (.reg 66)).computes = true ∧ (Instr.vsum on .f32 .rne false 0 5 6).computes = true := by
  decide

/-- Division: a divisor 0, the overflow, and neither. -/
theorem witness_Division :
    let s := xs [0x8000000000000000, -1, 0]
    s.guardOn s.cur on = true ∧ s.rd s.cur 3 = 0 ∧ (s.rd s.cur 1).toInt = -2 ^ 63 ∧ (s.rd s.cur 2).toInt = -1 := by decide

/-- Transfers: a counter that ends and one that goes on; a target at the code base, and one a byte on. -/
theorem witness_Transfers :
    let s := xs [1, 2, 0x10000, 0x10001]
    s.guardOn s.cur on = true ∧ s.rd s.cur 1 - 1 = 0 ∧ s.rd s.cur 2 - 1 ≠ 0 ∧
    (s.rd s.cur 3 - s.cbase s.cur).toInt % 12 = 0 ∧ (s.rd s.cur 4 - s.cbase s.cur).toInt % 12 ≠ 0 := by decide

/-- SpecialRegisters: the last number of every thread, and the first of a privileged one. -/
theorem witness_SpecialRegisters :
    let s := mine fun t => { t with pstate := 1 }
    base.guardOn base.cur on = true ∧ (0x7FF : BitVec 32).toNat % 4096 < 0x800 ∧ s.guardOn s.cur on = true ∧
    ¬(0x800 : BitVec 32).toNat % 4096 < 0x800 ∧ (s.thread s.cur).pstate.getLsbD 0 = true := by decide

/-- ThreadReports: an entry that names a carried thread and an empty one; for thrst the numbers T and T − 1, and a thread
that is free, running, held, suspended and parked. -/
theorem witness_ThreadReports :
    let is (f : Thread → Thread) (p : Thread → Bool) : Prop := p ((mine f).thread me) = true
    base.guardOn base.cur on = true ∧ (base.pcore 0).slot 0 = 0x10 ∧ base.carried 0 0 = some me ∧
    (({ base with pcores := [] } : State).pcore 0).slot 0 = 0x10 ∧
    (base.modPCore 0 fun p => { p with slots := [(0, 0)] } : State).guardOn me on = true ∧
    (((base.modPCore 0 fun p => { p with slots := [(0, 0)] }).pcore 0).slot 0).getLsbD 4 = false ∧
    (base.job 1).t ≤ 1 ∧ 0 < (base.job 1).t ∧
    is (fun t => { t with st := .free }) (fun t => !t.isLive 0) ∧
    is id (fun t => t.isLive 0 && t.st != .parked && !t.held && !t.susp) ∧
    is (fun t => { t with held := true }) (fun t => t.isLive 0 && t.st != .parked && t.held && !t.susp) ∧
    is (fun t => { t with susp := true }) (fun t => t.isLive 0 && t.st != .parked && t.susp) ∧
    is (fun t => { t with st := .parked, wait := some ⟨.handle, 1, 0, 0, .reissue⟩ }) (fun t => t.isLive 0 && t.st == .parked) := by
  decide

/-- Waits: no wait, a wait of one cycle and the longest of syncf, and their ends. -/
theorem witness_Waits :
    let s := xs [0, 1]
    let n (a : SReg) (i : BitVec 32) := (s.rd s.cur a + i.zeroExtend 64).toNat
    s.guardOn s.cur on = true ∧ n 1 0 = 0 ∧ n 2 0 = 1 ∧ min (0 : BitVec 32).toNat 65535 = 0 ∧
    min (0x10000 : BitVec 32).toNat 65535 = 65535 ∧
    (let t := mine fun t => { t with stall := some (.sleep 5), stamp := 3 }
     (t.thread me).stall = some (.sleep 5) ∧ (t.thread me).stamp = 3) ∧
    (let t := mine fun t => { t with stall := some (.syncf 0x10000 0), stamp := 3 }
     (t.thread me).stall = some (.syncf 0x10000 0) ∧ 0 ≤ t.cyc) := by decide

/-- Waits, the release: in a cluster of eight cores all of whose threads 0 wait at the address, in another cycle all but one. -/
theorem witness_SyncfRelease :
    let at' (q : Word) (s : State) (n : Nat) : State := s.modThread ⟨1, n, 0⟩ fun t => { t with st := .running, stall := some (.syncf q 99) }
    let all := (List.range 8).foldl (at' 0x10000) base
    let but := at' 0x1000C all 7
    let ok (x : Tid × Thread) : Bool := x.1.thr == 0 && x.2.isLive 0 && x.2.st != .parked && !x.2.held && !x.2.susp
    (all.threadsOf 1).length = 8 ∧ ((all.threadsOf 1).all fun x => ok x && x.2.stall == some (.syncf 0x10000 99)) = true ∧
    ((but.threadsOf 1).any fun x => ok x && x.2.stall == some (.syncf 0x1000C 99)) = true := by decide

/-- `base` with two threads a core. -/
def two : State := base.modJob 1 fun b => { b with t := 2 }

/-- StartsAHelper: any free helper, and the last one by number. -/
theorem witness_StartsAHelper :
    let s := two.modThread me fun t => { t with x := [(1, 0x10000)] }
    s.guardOn s.cur on = true ∧ (s.rd s.cur 1 - s.cbase s.cur).toInt % 12 = 0 ∧ (s.thread s.cur).freeSlot = some 0 ∧
    s.chosen s.cur (0 : BitVec 4).toNat = some 1 ∧ (1 : BitVec 4).toNat < (s.job s.cur.job).t ∧
    s.chosen s.cur (1 : BitVec 4).toNat = some 1 ∧ 1 ≠ s.cur.thr ∧ (5 : HReg) ≠ 0 := by decide

/-- EndsAThread: thread 0, and a helper with a starter. -/
theorem witness_EndsAThread :
    let h : Tid := ⟨1, 0, 1⟩
    let s : State := { two.modThread h fun t => { t with st := .running, starter := some ⟨me, 0, 0⟩ } with cur := h }
    base.guardOn base.cur on = true ∧ base.undrained base.cur = false ∧ (base.thread base.cur).sfq = [] ∧
    base.accs = [] ∧ base.helpersLive base.cur.job base.cur.lcn = false ∧
    s.guardOn s.cur on = true ∧ s.undrained s.cur = false ∧ (s.thread s.cur).sfq = [] ∧ s.cur.thr ≠ 0 ∧
    (s.thread s.cur).starter = some ⟨me, 0, 0⟩ := by decide

/-! ### Witnesses: numbers and vectors -/

/-- x1 to x10 as f32: 1, 2, 3, +∞, −∞, a signalling and a quiet NaN, +0, −0, −1. -/
def floats : State :=
  xs [0x3F800000, 0x40000000, 0x40400000, 0x7F800000, 0xFF800000, 0x7F800001, 0x7FC00000, 0, 0x80000000, 0xBF800000]

/-- What the f32 in a register is. -/
def f32 (r : SReg) : FVal := Ty.f32.value (floats.operand floats.cur .f32 r)

theorem f32_values :
    [1, 2, 3, 4, 5, 6, 7, 8, 9, 10].map f32 =
      [.fin false 0x800000 (-23), .fin false 0x800000 (-22), .fin false 0xC00000 (-22), .inf false, .inf true, .nan true, .nan false,
       .fin false 0 (-149), .fin true 0 (-149), .fin true 0x800000 (-23)] := by decide

theorem f32_numbers : (f32 1).Is 1 ∧ (f32 2).Is 2 ∧ (f32 3).Is 3 ∧ (f32 8).Is 0 ∧ (f32 9).Is 0 ∧ (f32 10).Is (-1) := by
  have h := f32_values
  simp only [List.map_cons, List.map_nil, List.cons.injEq, and_true] at h
  obtain ⟨h1, h2, h3, -, -, -, -, h8, h9, h10⟩ := h
  rw [h1, h2, h3, h8, h9, h10]
  norm_num [FVal.Is]

/-- RoundingIsCorrect: an exact value, and one bracketed, at the fewest bits that the bracket may have. -/
theorem witness_RoundingIsCorrect :
    Ty.f32.isFloat = true ∧ (0 : ℝ) < 3 ∧ (3 : ℝ) = (3 : ℕ) * (2 : ℝ) ^ (0 : ℤ) ∧
    (let m : ℕ := 2 ^ 25
     (m : ℝ) * (2 : ℝ) ^ (0 : ℤ) < m + 1 / 2 ∧ (m + 1 / 2 : ℝ) < (m + 1 : ℝ) * (2 : ℝ) ^ (0 : ℤ) ∧ 2 ^ (Ty.f32.prec + 1) ≤ m) :=
  ⟨by decide, by norm_num, by norm_num, by norm_num, by norm_num, by decide⟩

/-- FloatArithmetic: 1 and 2, with the addend 3. -/
theorem witness_FloatArithmetic :
    floats.guardOn floats.cur on = true ∧ (f32 1).Is 1 ∧ (f32 2).Is 2 ∧ (f32 3).Is 3 ∧ (1 : ℝ) + 2 ≠ 0 ∧ (1 : ℝ) - 2 ≠ 0 ∧ (1 : ℝ) * 2 ≠ 0 ∧
    (1 : ℝ) * 2 + 3 ≠ 0 ∧ Ty.f32 ≠ .a80 ∧ (0 : ℝ) < 1 :=
  ⟨by decide, f32_numbers.1, f32_numbers.2.1, f32_numbers.2.2.1, by norm_num, by norm_num, by norm_num, by norm_num, by decide, by norm_num⟩

/-- FloatSpecialCases: NaNs that signal and that do not, infinities of both signs, zeros, sums that cancel, and a negative
number. -/
theorem witness_FloatSpecialCases :
    floats.guardOn floats.cur on = true ∧ f32 6 = .nan true ∧ f32 7 = .nan false ∧ f32 4 = .inf false ∧ f32 5 = .inf true ∧
    (f32 4).isNan = false ∧ (f32 1).isNan = false ∧ (f32 1).Is 1 ∧ (f32 10).Is (-1) ∧ (f32 8).Is 0 ∧ (f32 9).Is 0 ∧
    (1 : ℝ) + -1 = 0 ∧ (1 : ℝ) - 1 = 0 ∧ (1 : ℝ) * 0 = 0 ∧ (1 : ℝ) * -1 + 1 = 0 ∧ (-1 : ℝ) < 0 := by
  have h := f32_values
  simp only [List.map_cons, List.map_nil, List.cons.injEq, and_true] at h
  exact ⟨by decide, h.2.2.2.2.2.1, h.2.2.2.2.2.2.1, h.2.2.2.1, h.2.2.2.2.1, by decide, by decide, f32_numbers.1, f32_numbers.2.2.2.2.2,
    f32_numbers.2.2.2.1, f32_numbers.2.2.2.2.1, by norm_num, by norm_num, by norm_num, by norm_num, by norm_num⟩

/-- FloatComparisons: two numbers, equal zeros of two signs, an infinity, and NaNs on either side; on a80 a number, an infinity
and a negative zero. -/
theorem witness_FloatComparisons :
    floats.guardOn floats.cur on = true ∧ (f32 1).At 1 ∧ (f32 4).At ⊤ ∧ (f32 5).At ⊥ ∧ (f32 8).At 0 ∧ (f32 9).At 0 ∧
    (f32 9).neg = true ∧ (f32 8).neg = false ∧ (f32 6).isNan = true ∧ (f32 7).isNan = true ∧ (f32 1).isNan = false ∧
    Ty.a80.value (0x7FFF * 2 ^ 64 + 2 ^ 63) = .inf false ∧ (Ty.a80.value (2 ^ 79)).neg = true ∧ (Ty.a80.value (2 ^ 79)).Is 0 ∧
    (Ty.a80.value (0x3FFF * 2 ^ 64 + 2 ^ 63)).Is 1 := by
  have h := f32_values
  simp only [List.map_cons, List.map_nil, List.cons.injEq, and_true] at h
  obtain ⟨h1, -, -, h4, h5, -, -, h8, h9, -⟩ := h
  have h80 : Ty.a80.value (0x3FFF * 2 ^ 64 + 2 ^ 63) = .fin false (2 ^ 63) (-63) := by decide +kernel
  have z80 : Ty.a80.value (2 ^ 79) = .fin true 0 (-16445) := by decide +kernel
  rw [h1, h4, h5, h8, h9, z80, h80]
  and_intros
  all_goals first | decide +kernel | norm_num [FVal.At, FVal.Is]

/-- Conversions: 2^32 − 1 and −1 across the range of i32, a non-zero integer, zeros, a number, an infinity and a NaN. -/
theorem witness_Conversions :
    floats.guardOn floats.cur on = true ∧ Ty.i64.reads (2 ^ 31 - 1) = 2 ^ 31 - 1 ∧ Ty.i32.inRange (2 ^ 31 - 1) ∧
    ¬Ty.i32.inRange (2 ^ 31) ∧ ¬Ty.n32.inRange (-1) ∧ Ty.i64.reads 1 ≠ 0 ∧ (f32 1).Is 1 ∧ (1 : ℝ) ≠ 0 ∧ f32 4 = .inf false ∧ f32 7 = .nan false ∧
    Ty.i8.inRange 127 ∧ ¬Ty.i8.inRange 128 ∧
    Ty.i64.reads 0 = 0 ∧ (f32 8).Is 0 ∧ (f32 9).Is 0 ∧ (f32 9).neg = true := by
  have h := f32_values
  simp only [List.map_cons, List.map_nil, List.cons.injEq, and_true] at h
  obtain ⟨-, -, -, h4, -, -, h7, -, -, -⟩ := h
  have n := f32_numbers
  and_intros
  all_goals first
    | exact n.1 | exact n.2.2.2.1 | exact n.2.2.2.2.1 | exact h4 | exact h7
    | decide
    | norm_num [Ty.inRange, Ty.signed, Ty.width]

/-- LaneArithmetic, ByteDot, LaneConversions, LanesAndMasks and LaneReductions: their types, a mask with lanes and one
without, and the last part of each width. -/
theorem witness_lanes :
    let s := mine fun t => { t with k := [(1, 1)] }
    s.guardOn s.cur on = true ∧ s.rdK s.cur 0 ≠ 0 ∧ s.rdK s.cur 1 = 1 ∧ s.rdK s.cur 2 = 0 ∧ TSet.lane.has .i8 = true ∧ TSet.lane.has .f32 = true ∧
    TSet.narrow.has .i8 = true ∧ (3 : BitVec 2).toNat < 4 / (Ty.i8.width / 8) ∧ TSet.narrow.has .bf16 = true ∧
    (1 : BitVec 2).toNat < 4 / (Ty.bf16.width / 8) := by decide

/-! ### Witnesses: results, packets and memory -/

/-- A request of the vrcp of the thread, with the same f32 in every lane. -/
def request (x : Lane) : TransReq := { own := me, pcore := 0, fn := 2, d := 3, src := Vec.splat x, mask := -1, due := 0 }

/-- Transcendentals: 0 requests and 8; a request in its unit, whose result is due, on a NaN, infinities, zeros and a power
of 2. -/
theorem witness_Transcendentals :
    let full : State := { base with transReqs := (List.range 8).map fun i => (i, request 0) }
    let s (x : Lane) : State := { mine fun t => { t with busy := [(5, .v 3)] } with transReqs := [(5, request x)] }
    base.guardOn base.cur on = true ∧ base.granted base.cur 110 = false ∧ base.transLoad me 0 = 0 ∧
    full.guardOn full.cur on = true ∧ full.granted full.cur 110 = false ∧ full.transLoad me 0 = 8 ∧
    (∀ x, (s x).transReqs.get? 5 = some (request x) ∧ (∃ r, (5, r) ∈ ((s x).thread me).busy)) ∧
    (let u := s 0x40000000
     (u.waiters 1 fun v x => u.phys? 1 v.lcn == some 0 && x.kind == .engq && x.obj == 5) = []) ∧
    [(0x7F800001 : Lane), 0x7F800000, 0xFF800000, 0, 0x40000000, 0xBF800000, 0x43000000].map (fun x => Ty.f32.value ((request x).src[(0 : Fin 64)]).toNat) =
      [.nan true, .inf false, .inf true, .fin false 0 (-149), .fin false 0x800000 (-22), .fin true 0x800000 (-23),
        .fin false 0x800000 (-16)] := by
  refine ⟨by decide, by decide, by decide, by decide, by decide, by decide, fun x => ⟨rfl, .v 3, List.mem_cons_self⟩, ?_⟩
  decide

/-- ResultLands: one result of every kind of register, and one that has landed before. -/
theorem witness_ResultLands :
    let l : Landing := ⟨7, 8, [.s 5 9, .s 64 3, .v 2 (Vec.splat 1) 3, .v 16 (Vec.splat 1) 3, .q 1 true, .k 1 3, .h 3 (HRef.word ⟨me, 0, 2⟩)] ++
      [0x006, 0x007, 0x009, 0x00A, 0x012, 0x800, 0x801, 0x802, 0x803, 0x804, 0x805, 0x806, 0x807, 0x808, 0x809, 0x80A, 0x80B, 0x000, 0x7FF].map
        fun n => .sp n 4, 1⟩
    let e : HEntry := { seq := 2, kind := .copyGather, reg := 3, pc := 0x10000 }
    let s := mine fun t => { t with landings := [l], handles := [(0, e)] }
    (s.thread me).handles.get? ((HRef.word ⟨me, 0, 2⟩).toNat % 32) = some e ∧ e.seq = (HRef.word ⟨me, 0, 2⟩).toNat / 2 ^ 32 % 65536 ∧
    (s.thread me).landings.find? (fun l => l.id == 7) = some l ∧ (l.writes.map RegWrite.ref).Nodup ∧ (∀ x ∈ (s.thread me).landings, x.id ≠ 8) := by
  decide

/-- A packet from router 0 to a router. -/
def packet (dst : Nat) : Packet :=
  { chan := .req, src := 0, at_ := 0, dst := dst, tenant := 0, entry := true, own := me, payload := .remoteAccess 7 0 }

/-- `base` with a packet to a router, among routers whose links are open. -/
def sending (dst : Nat) : State :=
  { base with packets := [(4, packet dst)], routers := [0, 1, 2, 3, 4, 40, 80, 120, 160].map fun r => (r, { member := 0x1F }) }

/-- PacketsMove: a packet that has arrived, one that turns back as its response and those that run; one at a closed link, with
the access it carries; and one at an open link, along the row as far as it goes, to the I/O die and along the column: its link
free and taken, with others before it and without, under the token, and at the eighth bypass. -/
theorem witness_PacketsMove :
    let shut (d : Nat) : State := { sending d with routers := [] }
    let queued (d : Nat) (q : List Nat) : State := { sending d with routers := [(0, { member := 0x1F, queue := [(2, q)] })] }
    let a : Access := {
      id := 7, own := me, pc := 0x10000, kind := .store, t := .n64, size := 8, vec := false, rx := false, lat := 16
      posted := true, dst := none, fseq := 0, parts := [(0, { home := .scratch 39, elems := [] })] }
    let holds (s : State) : State := { s with accs := [(7, a)] }
    let plain (s : State) : State := { s with accs := [(7, { a with posted := false })] }
    let other : Packet := { packet 1 with src := 40 }
    (sending 0).packets.get? 4 = some (packet 0) ∧ (packet 0).at_ = (packet 0).dst ∧ (packet 0).trip = false ∧
    ({ packet 0 with trip := true } : Packet).trip = true ∧ 4 ≠ (sending 0).seq ∧ (1640 : Nat) ≤ 1640 ∧
    (packet 39).at_ ≠ (packet 39).dst ∧ (shut 39).linkOpen (packet 39) 0 2 = false ∧ (holds (shut 39)).accs.get? 7 = some a ∧
    (plain (shut 39)).accs.get? 7 = some { a with posted := false } ∧ (base.thread me).landings = [] ∧
    (base.thread me).pstate.getLsbD 1 = false ∧ (base.thread me).pstate.getLsbD 2 = false ∧
    ((mine fun t => { t with tvec := 0x10000 }).thread me).tvec ≠ 0 ∧
    (sending 39).linkOpen (packet 39) 0 2 = true ∧ (sending 1600).linkOpen (packet 1600) 0 4 = true ∧
    (sending 1560).linkOpen (packet 1560) 0 1 = true ∧ (sending 39).linkLast = [] ∧
    ({ sending 39 with linkLast := [(2, 0)] } : State).linkLast.get? (0 * 8 + 2) = some 0 ∧ ¬0 < (sending 39).cyc ∧
    (let s := queued 39 [4]
     (s.routers.getD 0 {}).queue.getD 2 [] = [4] ∧ [4].head? = some 4) ∧
    (let s := queued 39 [5, 4]
     (s.routers.getD 0 {}).queue.getD 2 [] = [5, 4] ∧ 4 ∈ [5, 4] ∧ [5, 4].head? ≠ some 4) ∧
    (let s : State := { queued 39 [5] with packets := [(4, packet 39), (5, other)] }
     s.packets.get? 5 = some other ∧ other.src ≠ (packet 39).src) ∧
    (let s : State := { sending 39 with routers := [(0, { member := 0x1F, token := [(2, 0)], bypass := [(2, 7, 3)] })] }
     (s.routers.getD 0 {}).token.get? 2 = some s.cyc ∧ (s.routers.getD 0 {}).bypass.get? 2 = some (7, 4 - 1) ∧ 8 ≤ 7 + (packet 39).beats) := by
  decide

/-- PacketsMove, code lines: a line in the cache, and the first and the last block of one from the pool. -/
theorem witness_CodeLines :
    let s (n : Nat) : State :=
      { base with pclus := [(0, { fetch := [(0, 0x10000, me)], reads := [(0x10000, { (default : CodeRead) with pc := 0, left := n })], cache := [] })] }
    let c : State := { base with pclus := [(0, { fetch := [(0, 0x10000, me)], cache := [(0x10000, 5)] })] }
    ((s 2).pclu 0).fetch.find? (fun x => x.2.1 == 0x10000) = some (0, 0x10000, me) ∧
    ((s 2).pclu 0).reads.get? (0x10000 : Word).toNat = some { (default : CodeRead) with pc := 0, left := 2 } ∧
    ((s 1).pclu 0).reads.get? (0x10000 : Word).toNat = some { (default : CodeRead) with pc := 0, left := 1 } ∧
    (∀ y ∈ ((s 1).pcore 0).permitQ, y.1 ≠ 3) ∧ ((s 1).pclu 0).cache.get? (0x10000 : Word).toNat = none ∧
    (c.pclu 0).fetch.find? (fun x => x.2.1 == 0x10000) = some (0, 0x10000, me) ∧ (c.pclu 0).cache.get? (0x10000 : Word).toNat = some 5 := by
  decide

/-- A pool window of 2 GiB at 0, and tables there that map the first GiB to the second. -/
def pooled : State :=
  { base.modPCore 0 fun p => { p with tlb := [⟨1, 0, 0x40000000, 0x40000000, 0xF, 2, 9⟩] } with
    pool := [(0, 1), (1, 2), (0x200, 1), (0x201, 4), (0x400, 0x3F), (0x403, 0x40)]
    dev := { win0 := [(0, 0x400000)], win1 := [(0, 2)] } }

/-- AddressChecks: an address of every space at the ends of its fields, and places and pages with every outcome. -/
theorem witness_AddressChecks :
    let none' (a : Word) : Bool := (base.place me a).isNone
    let scr (a : Word) (l o : Nat) : Bool := base.place me a == some (.scratch l o)
    none' 0x0001000000000000 = true ∧ base.place me 0x0000FFFFFFFFFFFF = some (.pool 0xFFFFFFFFFFFF) ∧
    scr 0x80000000001FFFFF 0 0x1FFFFF = true ∧ none' 0x8000000000200000 = true ∧ scr 0x8030400000000000 7 0 = true ∧
    none' 0x8040000000000000 = true ∧ scr 0x9030400000000008 7 8 = true ∧ none' 0x93F0000000000000 = true ∧
    scr 0xA000000000E00000 7 0 = true ∧ none' 0xA000000001000000 = true ∧ none' 0xF000000000000000 = true ∧ none' 0xB000000000000000 = true ∧
    0 < (base.job 1).w ∧ (base.job 1).w % 4 = 0 ∧
    pooled.cached (pooled.phys 1 0) 1 0x18 = some ⟨1, 0, 0x40000000, 0x40000000, 0xF, 2, 9⟩ ∧ (pooled.dev.slice 0x40000018).isSome = true ∧
    pooled.place me 0x18 = some (.pool 0x18) ∧ (0x18 : Word).toNat % 8 = 0 ∧ (0x1C : Word).toNat % 8 ≠ 0 ∧
    base.reaches me (.scratch 1 8) = true ∧ ({ base with routers := [] } : State).reaches me (.scratch 1 8) = false ∧
    pooled.reachesSlice me 0 = true ∧ ({ pooled with routers := [] } : State).reachesSlice me 0 = false ∧
    (let s := pooled.modThread me fun t => { t with pstate := 1 }
     (s.thread me).pstate.getLsbD 0 = true ∧ s.place me 0xF000000000000018 = some (.phys 0x18) ∧ s.place me 0xF010000000000000 = none ∧
     (s.dev.slice 0x18).isSome = true ∧ s.dev.slice 0xFFFFFFFFFFFF8 = none ∧ s.place me 0xF1063F0000000038 = some (.reg 1599 0x38) ∧
     s.place me 0xF106400000000000 = none ∧ s.place me 0xF2063F00001FFFF8 = some (.raw 1599 0x1FFFF8) ∧
     s.place me 0xF300C700000017F8 = some (.unit 199 0x17F8) ∧ s.place me 0xF300C80000001000 = none ∧
     s.place me 0xF300C70000000400 = none ∧ s.place me 0xF400000000000000 = none) := by decide

/-- AddressChecks, several elements: each passes alone, and one that does not pass stands behind one that does. -/
theorem witness_CheckedElements :
    let all (es : List ElemReq) : Checked := base.checkAll me .load false false 8 [] es
    let at' (i : Nat) (a : Word) : ElemReq := { idx := i, va := a }
    (∃ ps, all [at' 0 0x8000000000000008] = .parts ps) ∧ (∃ ps, all [at' 1 0x8000000000000010] = .parts ps) ∧
    all [at' 1 0x8000000000000009] = .stop (.trap .align) 0x8000000000000009 := ⟨⟨_, rfl⟩, ⟨_, rfl⟩, rfl⟩

/-- AccessesBegin: no relaxed access outstanding and 16; an access that passes, to the own scratch, and one that traps. -/
theorem witness_AccessesBegin :
    let full := mine fun t => { t with relaxed := List.range 16 }
    let req (a : Word) : List ElemReq := [{ idx := 0, va := a }]
    base.guardOn base.cur on = true ∧ (64 : BitVec 8).toNat ≤ 64 ∧ (base.thread me).relaxed.length = 0 ∧
    full.guardOn full.cur on = true ∧ (full.thread me).relaxed.length = 16 ∧
    (∃ ps, base.checkAll me .load false false 8 [] (req 0x8000000000000008) = .parts ps ∧ (∀ p ∈ ps, p.2.home = .scratch 0) ∧
      (∀ p ∈ ps, p.2.elems ≠ []) ∧ ps.length = 1) ∧
    base.phys? 1 0 = some 0 ∧ (base.pcore 0).bank.get? ((base.seg 1 0 + 8) / 32 % 16) = none ∧
    base.checkAll me .load false false 8 [] (req 0x8000000000000009) = .stop (.trap .align) 0x8000000000000009 := by
  intro full req
  and_intros
  all_goals first | decide | exact ⟨_, rfl, by decide⟩

/-- An element at a place of its home, a part of one element, and an access of one part. -/
def elem (at_ : Nat) : Elem := { idx := 0, va := 0x8000000000000000 + BitVec.ofNat 64 at_, at_ := at_, val := 5, cmp := 5 }
def part (home : Home) (at_ : Nat) : Part := { home := home, elems := [elem at_] }
def access (k : AccKind) (q : Part) : Access :=
  { id := 7, own := me, pc := 0x10000, kind := k, t := .n64, size := 8, vec := false, rx := false, lat := 16, posted := false,
    dst := some (.s 5), fseq := 0, parts := [(0, q)] }

/-- `base` with an access on its way. -/
def accessing (k : AccKind) (q : Part) : State := { base with accs := [(7, access k q)] }

/-- What every clause of AccessesPerform needs of the state. -/
def performs (s : State) (k : AccKind) (q : Part) : Bool :=
  decide (s.pool.wf ∧ s.host.wf ∧ ∀ q ∈ s.pcores, q.2.mem.wf) &&
  decide (s.part? 7 0 = some (access k q, q)) && decide (q.elems.map fun e => e.idx).Nodup && (q.elems.all fun e => e.at_ % (access k q).size == 0) && s.serves 1 0 0 && s.seg 1 0 == 0 && !q.performed && q.fault == none && !s.blocked (access k q) q &&
  (access k q).t.width == 8 * (access k q).size

/-- AccessesPerform: the last word of the scratch, empty, full, guarded and uncorrectable, with 32 remote entries waiting for
it; and a word of the pool. -/
theorem witness_AccessesPerform :
    let q := part (.scratch 0) 0x1FFFF8
    let at' (k : AccKind) (f : PCore → PCore) : State := (accessing k q).modPCore 0 f
    performs (accessing (.amo .add) q) (.amo .add) q ∧ performs (accessing .take q) .take q = true ∧
    (accessing .take q).phys? 1 0 = some 0 ∧ ((accessing .take q).pcore 0).ecc.get? ((0 + 0x1FFFF8) / 8) = none ∧
    (accessing .take q).closed 1 0 0x1FFFF8 8 = false ∧ ((accessing .take q).pcore 0).full 0x1FFFF8 = false ∧ ((accessing .take q).core 1 0).feQ = [] ∧
    (let s := at' .take fun p => { p with fe := [(0x1FFFF8 / 8, true)] }
     performs s .take q = true ∧ s.closed 1 0 0x1FFFF8 8 = false ∧ (s.pcore 0).full 0x1FFFF8 = true) ∧
    (let s := at' .store fun p => { p with guard := [(0x1FFFF8 / 64, true)] }
     performs s .store q = true ∧ (s.pcore 0).guarded (s.seg 1 0 + 0x1FFFF8) = true ∧ s.locked 1 0 0x1FFFC0 64 = false) ∧
    (let s := at' .load fun p => { p with ecc := [(0x1FFFF8 / 8, .double)] }
     performs s .load q = true ∧ (s.pcore 0).ecc.get? ((s.seg 1 0 + 0x1FFFF8) / 8) = some .double ∧ (s.pcore 0).guarded (s.seg 1 0 + 0x1FFFF8) = false) ∧
    (let s := (accessing .take q).modCore 1 0 fun c => { c with feQ := List.replicate 32 ⟨0x3FFFF, 9, 0, true⟩ }
     performs s .take q = true ∧ 32 ≤ ((s.core 1 0).feQ.filter fun x => x.remote).length) ∧
    (let s := at' .load fun p => { p with ecc := [(0x1FFFF8 / 8, .single)] }
     performs s .load q = true ∧ (s.pcore 0).ecc.get? ((s.seg 1 0 + 0x1FFFF8) / 8) = some .single ∧ (s.pcore 0).guarded (s.seg 1 0 + 0x1FFFF8) = false) ∧
    (let two : Part := { home := .scratch 0, elems := [elem 8, { elem 16 with idx := 1 }] }
     let run : Part := { home := .scratch 0, elems := [elem 0x1FFFF0] }
     let a : Access := { access (.fe true) run with parts := [(0, run), (1, q)] }
     performs (accessing .store two) .store two = true ∧ two.elems.length = 2 ∧ ({ accessing .load q with accs := [(7, a)] } : State).part? 7 0 = some (a, run) ∧
     (0 : Nat) + 1 < a.parts.length ∧ a.parts.get? 1 = some q ∧ q.home = .scratch 0 ∧ q.elems ≠ []) ∧
    performs (accessing .store (part .pool 0x1FFFF8)) .store (part .pool 0x1FFFF8) = true := by
  decide

/-- AccessesPerform, the waits: a part that an earlier access to the same word holds back, and one whose core is vacated. -/
theorem witness_AccessesWait :
    let q := part (.scratch 0) 8
    let first : Access := { access .store q with id := 6, rx := false }
    let held : State := { base with accs := [(6, first), (7, access .load q)] }
    let gone : State := { accessing .load q with pclus := [] }
    held.part? 7 0 = some (access .load q, q) ∧ held.blocked (access .load q) q = true ∧ q.performed = false ∧ q.fault = none ∧
    gone.part? 7 0 = some (access .load q, q) ∧ gone.blocked (access .load q) q = false ∧ gone.serves 1 0 0 = false := by decide

/-- AccessesReturn: the answers to a load, a vector load, a store and a guard hit; posted faults with 3 and 4 records queued;
the walk of a mapped and of an unmapped page, with an empty trap queue and one with a single entry free. -/
theorem witness_AccessesReturn :
    let returned (f : Part → Part) : Part := f { part (.scratch 0) 8 with performed := true }
    let done (k : AccKind) (f : Part → Part) : State := accessing k (returned f)
    let faulted (n : Nat) : State :=
      (accessing .store { part (.scratch 0) 8 with fault := some .addr }).modThread me fun t => { t with sfq := List.replicate n ⟨0, 0, .addr, 0, 0, 0⟩ }
    let walk (va : Word) : Walk := { own := me, pc := 0x10000, va := va, write := false, atomic := false, exec := false, post := none, eng := none }
    let probe (va : Word) : State := { pooled with walks := [(3, { walk va with probe := some (9, 4) })] }
    let walking (va : Word) (tq : Map TqRec) : State :=
      { (pooled.modThread me fun t => { t with stall := some .walk }).modPCore 0 fun p => { p with tq := tq } with walks := [(3, walk va)] }
    let rec' : TqRec := ⟨0, 0, .xlat, false, false, false, 0, 0, 0, 0, me, none, none, 0⟩
    (done .load id).canonical ∧ (done .load id).accs.get? 7 = some (access .load (returned id)) ∧
    (access .load (returned id)).parts = [(0, returned id)] ∧ (returned id).returned = false ∧
    (done .store fun q => { q with hits := 1 }).accs.get? 7 = some (access .store (returned fun q => { q with hits := 1 })) ∧
    (faulted 3).accs.get? 7 = some (access .store { part (.scratch 0) 8 with fault := some .addr }) ∧ (access .store (part (.scratch 0) 8)).vec = false ∧
    ((faulted 3).thread me).sfq.length = 3 ∧ ((faulted 4).thread me).sfq.length = 4 ∧
    (probe 0).walks.get? 3 = some { walk 0 with probe := some (9, 4) } ∧ (probe 0x40000000).walks.get? 3 = some { walk 0x40000000 with probe := some (9, 4) } ∧
    (walking 0 []).walks.get? 3 = some (walk 0) ∧ ((walking 0 []).thread me).stall = some .walk ∧
    (walking 0x3FFFFFFF []).walkTable 0 1 0x3FFFFFFF = .leaf ⟨1, 0, 0x40000000, 0x40000000, 0xF, 2, 9⟩ ∧
    (walking 0x40000000 []).walkTable 0 1 0x40000000 = .fault 2 .xlat ∧ ((walking 0x40000000 []).pcore 0).tq.get? 0 = none ∧
    (let s := walking 0x40000000 ((List.range 14).map fun i => (i, rec'))
     (s.pcore 0).tq.get? 14 = none ∧ ∀ h < 14, (s.pcore 0).tq.get? h ≠ none) := by
  intro returned done faulted walk probe walking rec'
  refine ⟨canonical_of (by decide), ?_⟩
  decide

/-- RangesTagsAndOrder: the ends of the granule codes; ranges that end at the footprint and one granule past it, and that are
misaligned; a tag that hits, a set with a way free and a full one; posted and relaxed accesses on their way. -/
theorem witness_RangesTagsAndOrder :
    let s := xs [0x80000000001FFFC0, 64, 128, 0, 0x80000000001FFFC4, 0x1FFFC0, 0x1FFFC1]
    let tagged (n : Nat) : State := s.modCore 1 0 fun c => { c with tags := (List.range n).map fun i => (63 * 4 + i, ⟨BitVec.ofNat 64 i, 6, 0⟩) }
    let posted : State := { s with accs := [(7, { access .store (part .pool 0) with posted := true, rx := true })] }
    (let r := xs [0x8000000000000040, 0x44, 0xF000000000000000]
     r.place me (r.rd me 1) = some (.scratch 0 0x40) ∧ (r.rd me 1).toNat % 64 = 0 ∧ 0x40 + (r.rd me 2).toNat ≤ (r.job 1).foot ∧ (r.rd me 2).toNat % 64 ≠ 0 ∧
     (r.modThread me fun t => { t with pstate := 1 }).place me (r.rd me 3) = some (.phys 0)) ∧ pooled.place me 0x40000000 = some (.pool 0x40000000) ∧
    pooled.cached (pooled.phys 1 0) 1 0x40000000 = none ∧
    s.guardOn s.cur on = true ∧ 6 ≤ (6 : BitVec 5).toNat ∧ (16 : BitVec 5).toNat ≤ 16 ∧
    s.place me (s.rd me 1) = some (.scratch 0 0x1FFFC0) ∧ s.reaches me (.scratch 0 0x1FFFC0) = true ∧
    (s.rd me 1).toNat % 64 = 0 ∧ 0x1FFFC0 + (s.rd me 2).toNat ≤ (s.job 1).foot ∧ (s.job 1).foot < 0x1FFFC0 + (s.rd me 3).toNat ∧ s.rd me 4 = 0 ∧
    (s.rd me 5).toNat % 64 ≠ 0 ∧ s.place me 0xB000000000000000 = none ∧
    (match s.checkAll me (.guard true) true false 1 [] [{ idx := 0, va := s.rd me 1 }] with
      | .parts _ => true
      | _ => false) = true ∧
    ((s.rd me 1) >>> 6).toNat % 64 = 63 ∧ ((tagged 1).core 1 0).tags.get? (63 * 4) = some ⟨0, 6, 0⟩ ∧
    ((tagged 1).core 1 0).tags.get? (63 * 4 + 1) = none ∧ (∀ i < 4, ((tagged 4).core 1 0).tags.get? (63 * 4 + i) ≠ none) ∧
    (s.rd me 6).toNat % 2 ^ 6 = 0 ∧ (s.rd me 6).toNat < (s.job 1).foot ∧ (s.rd me 7).toNat % 2 ^ 6 ≠ 0 ∧
    (∃ i x, (i, x) ∈ posted.accs ∧ x.own = me ∧ x.returned = false ∧ x.posted = true ∧ x.rx = true) ∧ s.accs = [] ∧ (s.thread me).outbox = [] ∧
    (s.thread me).sfq = [] ∧ pooled.cached (pooled.phys 1 0) 1 0x18 = some ⟨1, 0, 0x40000000, 0x40000000, 0xF, 2, 9⟩ := by
  intro s tagged posted
  and_intros
  all_goals first | decide | exact ⟨7, _, List.mem_cons_self, rfl, rfl, rfl, rfl⟩

/-! ### Witnesses: synchronisation, messages, handles and engines -/

/-- A wait of a parked thread. -/
def waiting (k : WaitKind) (c : Cont) : Thread → Thread := fun t => { t with st := .parked, wait := some ⟨k, 0, 0, false, c⟩, stamp := 3 }

/-- MonitorsAndBarriers: lines in the own cluster, in another one and nowhere; a monitor that has and has not triggered; an
unreported hit; an arrival in and out of phase, the last of its phase and not; and the ends of waits. -/
theorem witness_MonitorsAndBarriers :
    let wide : State := base.modJob 1 fun b => { b with w := 8, h := 2 }
    let mon (trig : Bool) := mine fun t => { t with mons := [(3, { armed := true, lcn := 0, line := 5, trig := trig })], mq := [default] }
    let c (k : Counter) : State := base.modClu 1 0 fun q => { q with bars := [(15, k)] }
    base.guardOn base.cur on = true ∧ base.place me 0xB000000000000000 = none ∧
    base.place me 0x8000000000000040 = some (.scratch 0 64) ∧ base.reaches me (.scratch 0 64) = true ∧ (base.job 1).cluOf 0 = (base.job 1).cluOf me.lcn ∧
    wide.place me 0x8040000000000040 = some (.scratch 4 64) ∧ (wide.job 1).cluOf 4 ≠ (wide.job 1).cluOf me.lcn ∧ wide.reaches me (.scratch 4 64) = true ∧
    (((mon true).thread me).mons.map Prod.fst).Nodup ∧ (∀ x ∈ ((mon true).thread me).mons, x.1 < 4) ∧ ((mon true).thread me).st = .running ∧
    ((mon true).thread me).mons.get? 3 = some { armed := true, lcn := 0, line := 5, trig := true } ∧
    ((mon false).thread me).mons.get? 3 = some { armed := true, lcn := 0, line := 5, trig := false } ∧ ((mon false).thread me).mq ≠ [] ∧
    (base.thread me).mons = [] ∧ (base.thread me).mq = [] ∧ ((mon false).thread me).wait = none ∧ 5 = 320 / 64 ∧
    (let s := mine (waiting .monitor (.waitm 5 false))
     (s.thread me).st = .parked ∧ (s.thread me).wait = some ⟨.monitor, 0, 0, false, .waitm 5 false⟩) ∧
    ((mine fun t => { t with ghits := 1 }).thread me).ghits ≠ 0 ∧ (base.thread me).ghits = 0 ∧
    (base.thread me).ep.getLsbD 15 = (base.counter 1 0 15).ph ∧ ((mine fun t => { t with ep := 0x8000 }).thread me).ep.getLsbD 15 ≠ (base.counter 1 0 15).ph ∧
    (base.counter 1 0 15).arr + 1 ≠ (base.counter 1 0 15).count ∧
    ((c { count := 1 }).counter 1 0 15).arr + 1 = ((c { count := 1 }).counter 1 0 15).count ∧
    1 ≤ ((c { count := 8, arr := 1 }).counter 1 0 15).arr ∧
    ((mine fun t => { t with stall := some .verdict, bpend := 0x8000 }).thread me).stall = some .verdict ∧
    ((mine fun t => { t with stall := some .verdict, bpend := 0x8000 }).thread me).bpend.getLsbD 15 = true ∧
    base.arrivedAgain 1 0 15 me = false ∧
    (let s := mine (waiting .barrier (.bar 15))
     s.arrivedAgain 1 0 15 me = false ∧ (s.thread me).st = .parked ∧ (s.thread me).wait = some ⟨.barrier, 0, 0, false, .bar 15⟩) ∧
    (let s := mine (waiting .barrier (.barw 15))
     (s.thread me).st = .parked ∧ (s.thread me).wait = some ⟨.barrier, 0, 0, false, .barw 15⟩) := by decide

/-- A flit of the thread to itself, of any generation. -/
def flit (dst : Word) : Flit := { id := 7, sender := me, src := 1, dst := dst, payload := 9, rx := false, ack := some ⟨me, 0, 0⟩ }

/-- Messages: destinations that are wrong in each field, the last thread of the job, and a peer without binding; outboxes with
7 and 8 flits; an empty queue, one with a message and a full one; threads that are free, of another generation, parked
in recv and running. -/
theorem witness_Messages :
    let s := xs [0x0008000000000000, 0x0000001000000000, 0x0000000000800000, 0x0000000000010000, 0x0000000000700000, 0x0004000000000000, 0, 1]
    let field (v : Word) (lo n : Nat) : Nat := v.toNat / 2 ^ lo % 2 ^ n
    let out (n : Nat) : State := mine fun t => { t with outbox := (List.range n).map fun i => { flit 0 with id := 100 + i } }
    let queue (n : Nat) : State := mine fun t => { t with mq := List.replicate n (flit 0) }
    let parked := mine (waiting .msgq (.recv 5))
    s.guardOn s.cur on = true ∧
    [1, 2, 3, 4, 5, 6].map (fun r => (field (s.rd me r) 51 13 ≠ 0 : Bool)) = [true, false, false, false, false, false] ∧
    field (s.rd me 2) 36 14 ≠ 0 ∧ (s.job 1).w * (s.job 1).h ≤ field (s.rd me 3) 20 16 ∧ (s.job 1).t ≤ field (s.rd me 4) 16 4 ∧
    field (s.rd me 5) 20 16 < (s.job 1).w * (s.job 1).h ∧ field (s.rd me 5) 16 4 < (s.job 1).t ∧ field (s.rd me 5) 36 14 = 0 ∧
    s.reaches me (.scratch (field (s.rd me 5) 20 16) 0) = true ∧ ({ s with routers := [] } : State).reaches me (.scratch 7 0) = false ∧
    (s.packetTo .msg me 0 0 (.flitArrival (flit 0))).isNone = true ∧ (s.packetTo .rsp me 0 0 (.sendAck (flit 0) true)).isNone = true ∧
    (s.packetTo .rsp me 0 0 (.flitResend (flit 0))).isNone = true ∧ (s.packetTo .msg me 0 7 (.flitArrival (flit 0))).isSome = true ∧
    (s.rd me 5).getLsbD 50 = false ∧ (s.rd me 6).getLsbD 50 = true ∧ (∀ x ∈ (s.job 1).bound, x.1 ≠ field (s.rd me 6) 36 14) ∧
    ((out 8).thread me).outbox.length = 8 ∧ ((out 7).thread me).outbox.length = 7 ∧
    (∀ x ∈ ((out 7).thread me).outbox, x.id ∉ ((out 7).thread me).refused ∧ x.id ∉ ((out 7).thread me).outHeld) ∧
    ((out 7).thread me).freeSlot = some 0 ∧ ((out 7).thread me).relaxed.length < 16 ∧
    ((queue 16).thread me).mq.length = 16 ∧ ((queue 1).thread me).mq = [flit 0] ∧ (base.thread me).mq = [] ∧
    (s.rd me 7).toNat = 0 ∧ (s.rd me 8).toNat ≠ 0 ∧
    ((mine (waiting .msgq (.trecv 5 1))).thread me).wait = some ⟨.msgq, 0, 0, false, .trecv 5 1⟩ ∧
    (flit 0).src.getLsbD 50 = false ∧ (flit 0).dst.getLsbD 50 = false ∧ base.flitBehind (flit 0) = false ∧
    (base.thread me).isLive base.cyc = true ∧ (base.thread me).gen.toNat ≠ 0xFFFF ∧
    ((mine fun t => { t with st := .free }).thread me).isLive 0 = false ∧ base.refusesFlit me = false ∧ (base.thread me).wait = none ∧
    parked.refusesFlit me = false ∧ (parked.thread me).mq = [] ∧ (parked.thread me).wait = some ⟨.msgq, 0, 0, false, .recv 5⟩ ∧
    (∃ x ∈ ((out 1).thread me).outbox, x.id = 100) ∧ (flit 0).ack = some ⟨me, 0, 0⟩ ∧ (base.job 1).st = .running := by decide

/-- Messages, HANG: a job with a thread that waits for a message and nothing on its way, at its first sample and at the second
with the same entries: its one thread's stamp, and the cycle in which it was last held. -/
theorem witness_Hang :
    let parked := mine (waiting .msgq (.recv 5))
    let s := (mine fun t => { waiting .msgq (.recv 5) t with tvec := 0x10000 }).modJob 1 fun b => { b with hangLast := some [(0, 3), (0, 0)] }
    let live := (s.threadsOf 1).filter fun x => x.2.isLive s.cyc
    (base.job 1).st = .running ∧ (base.later 1024 (.hangSample 1)).hung 1 = false ∧ (parked.later 1024 (.hangSample 1)).hung 1 = true ∧
    (parked.job 1).hangLast = none ∧ (s.later 1024 (.hangSample 1)).hung 1 = true ∧
    live.map (fun x => (x.1.lcn * 16 + x.1.thr, x.2.stamp, x.2.capAt)) = [(0, 3, 0)] ∧
    (live.all fun x => match x.2.wait with
      | some y => (s.otherParties x.1 y).isEmpty
      | none => true) = true ∧
    (s.thread me).tvec ≠ 0 ∧ (s.thread me).jh = false ∧ (s.thread me).sh = false ∧ (s.thread me).landings = [] ∧
    (s.thread me).st = .parked ∧ (s.thread me).wait = some ⟨.msgq, 0, 0, false, .recv 5⟩ := by decide

/-- The thread with a handle entry 31, and its identity in x1. -/
def holding (e : HEntry) (pend : BitVec 64) : State :=
  mine fun t => { t with handles := [(31, e)], pend := pend, x := [(1, HRef.word ⟨me, 31, 5⟩), (2, 1), (3, 0xC000000000000020)], hseq := 6 }

/-- Handles: an entry of a copy that is pending, one that is passed, with and without its word and an adopter, and an identity
that is malformed; a core that is saved and one that is not; an operation that is queued, active and stopped. -/
theorem witness_Handles :
    let e : HEntry := { seq := 5, kind := .copyGather, reg := 1, pc := 0x10000 }
    let h : HRef := ⟨me, 31, 5⟩
    let s := holding e 2
    let p := holding { e with passed := true, reg := 0 } 0
    let a := holding { e with passed := true, reg := 0, target := some (me, 2) } 4
    let k := holding { e with passed := true, reg := 0, target := some (me, 2), word := some 0 } 4
    let o : EngOp := { (default : EngOp) with id := 9, own := me, h := h, kind := .copy }
    let q (o : EngOp) : State := s.modClu 1 0 fun q => { q with copyQ := [o] }
    s.guardOn s.cur on = true ∧ s.pending me 1 = true ∧ s.pending me 2 = false ∧ s.entry? h = some e ∧ (s.thread me).freeSlot = some 0 ∧
    p.entry? h = some { e with passed := true, reg := 0 } ∧ p.pending me 1 = false ∧
    (s.rd me 2).toNat / 2 ^ 60 ≠ 0xC ∧ (s.rd me 3).toNat / 2 ^ 5 % 2 ^ 7 ≠ 0 ∧
    (s.rd me 1).toNat / 2 ^ 60 = 0xC ∧ (s.rd me 1).toNat / 2 ^ 48 % 2 ^ 12 = 0 ∧ (s.rd me 1).toNat / 2 ^ 5 % 2 ^ 7 = 0 ∧
    (s.rd me 1).toNat % 2 ^ 5 = 31 ∧ (s.rd me 1).toNat / 2 ^ 32 % 2 ^ 16 = 5 ∧
    base.entry? h = none ∧ (2 : HReg) ≠ 0 ∧
    a.entry? h = some { e with passed := true, reg := 0, target := some (me, 2) } ∧
    ((a.modThread me fun t => { t with stall := some .home }).thread me).stall = some .home ∧
    ((a.modThread me fun t => { t with stall := some .home }).entry? h).isSome = true ∧
    k.entry? h = some { e with passed := true, reg := 0, target := some (me, 2), word := some 0 } ∧ e.discarded = false ∧ e.reg ≠ 0 ∧
    (s.core 1 0).starters = [] ∧ (s.core 1 0).saved = none ∧ s.phys? 1 0 = s.phys? 1 me.lcn ∧ (s.thread me).susp = false ∧ (s.thread me).held = false ∧
    (let v := s.modCore 1 0 fun c => { c with saved := some {} }
     (v.core 1 0).saved ≠ none ∧ (v.core 1 0).saved.isSome = true ∧ v.entry? h = some e) ∧
    (let s := s.modThread me fun t => { t with st := .parked, wait := some ⟨.handle, 2 ^ 32 + 1, 0, false, .reissue⟩ }
     (s.thread me).st = .parked ∧ (s.thread me).wait = some ⟨.handle, BitVec.ofNat 64 (2 ^ 32 + e.reg.toNat), 0, false, .reissue⟩) ∧
    (∀ o' : EngOp, o'.h = h → (((q o').clu 1 0).copyQ ++ ((q o').clu 1 0).gathQ).find? (fun o => o.h == h) = some o') ∧
    o.active = false ∧ o.stop = none ∧ o.subst = false ∧ o.guardHit = false ∧ ({ o with active := true } : EngOp).active = true ∧
    ({ o with stop := some 0 } : EngOp).stop ≠ none := by
  intro e h s p a k o q
  and_intros
  all_goals first
    | decide
    | exact fun o' ho => by show List.find? _ [o'] = some o'; simp [List.find?, ho]

/-- A gather block at 0x40 and a copy2 block at 0x80 of the own scratch, and their addresses in x1 to x6. -/
def blocks (start : Byte) : State :=
  (xs [0x8000000000000040, 0x8000000000000100, 0x8000000000000044, 0x80000000001FFFC0, 0x80000000001FFFC1, 0xB000000000000000]).modPCore 0 fun p =>
    { p with mem := [(0x47, 0x80), (0x4F, 0x80), (0x57, 0xA0), (0x58, 1)] ++ (if start = 0 then [] else [(0x5C, start)]) ++
        [(0x60, 8), (0x70, 8), (0x80, 4), (0x84, 1)] }

/-- A range without guard granules, locked bytes and errors. -/
theorem clean_of {s : State} {a n : Nat} (h : ∀ i < n, (∀ k < 9, i + k ≤ n → s.closed 1 0 (a + i) k = false) ∧
    (s.pcore (s.phys 1 0)).ecc.get? ((s.seg 1 0 + (a + i)) / 8) = none) : s.cleanAt 1 0 a n :=
  fun i hi => ⟨fun k hk => (h i hi).1 k (by omega), (h i hi).2⟩

/-- Engines, the instructions: ranges that end at the footprint, past it, and nowhere; blocks that are aligned and not, with START
below COUNT, at it and past it; banks that are free and busy, and a turn that was waited for; queues with a place and full. -/
theorem witness_Engines :
    let s := blocks 0
    let full : State := s.modClu 1 0 fun q => { q with copyQ := List.replicate 64 { (default : EngOp) with own := me } }
    let busy : State := s.modPCore 0 fun p => { p with bank := (List.range 16).map fun b => (b, 5) }
    let f (s : State) (o n : Nat) : Nat := s.scratchNat 1 0 (0x40 + o) n
    let g (o : Nat) : Nat := s.scratchNat 1 0 (0x80 + o) 4
    s.guardOn s.cur on = true ∧ (5 : HReg) ≠ 0 ∧ (s.thread me).freeSlot = some 0 ∧ s.seg 1 0 % 64 = 0 ∧
    s.rangeFault me (s.rd me 4) 64 = none ∧ s.rangeFault me (s.rd me 5) 64 ≠ none ∧ s.rangeFault me (s.rd me 6) 64 = some (.addr, s.rd me 6) ∧
    s.placeFor me 100 (s.queuedOps 1 0 true) 64 = true ∧ full.placeFor me 100 (full.queuedOps 1 0 true) 64 = false ∧
    (s.job 1).foot < 0x1FFFF8 + 16 ∧ 0x1FFFF0 + 16 ≤ (s.job 1).foot ∧ 0x1FFFEC % 8 ≠ 0 ∧ 0x80 % 8 = 0 ∧
    (s.pcore (s.phys 1 0)).bank = [] ∧ s.granted me 120 = false ∧ (∀ b < 16, (busy.pcore 0).bank.get? b = some 5) ∧
    (mine fun t => { t with grants := [120] }).granted me 120 = true ∧
    s.cleanAt 1 0 0x80 16 ∧ g 0 = 4 ∧ g 4 = 1 ∧ s.rangeFault me (s.rd me 2) (g 0) = none ∧
    s.place me (s.rd me 1) = some (.scratch 0 0x40) ∧ s.reaches me (.scratch 0 0x40) = true ∧ (s.rd me 1).toNat % 64 = 0 ∧ (s.rd me 3).toNat % 64 ≠ 0 ∧
    0x40 + 64 ≤ (s.job 1).foot ∧ (s.job 1).foot < 0x1FFFC4 + 64 ∧ s.cleanAt 1 0 0x40 64 ∧
    (f s 0 8 / 2 ^ 60 ∈ [0x0, 0x8, 0x9, 0xA] ∧ f s 8 8 / 2 ^ 60 ∈ [0x8, 0x9, 0xA] ∧ f s 8 8 % 4 = 0 ∧ f s 16 8 / 2 ^ 60 = 0xA ∧
      f s 28 4 < f s 24 4 ∧ 0 < f s 32 4 ∧ f s 32 4 ≤ 65536 ∧ f s 36 4 < 2 ∧ f s 32 4 ≤ f s 48 4 ∧ f s 52 4 = 0 ∧ f s 56 8 = 0) ∧
    f (blocks 1) 28 4 = f (blocks 1) 24 4 ∧ f (blocks 2) 24 4 < f (blocks 2) 28 4 ∧
    s.rangeFault me (BitVec.ofNat 64 (f s 8 8 + f s 28 4 * 4)) ((f s 24 4 - f s 28 4) * 4) = none ∧
    s.rangeFault me (BitVec.ofNat 64 (f s 16 8 + f s 28 4 * f s 48 4)) ((f s 24 4 - f s 28 4 - 1) * f s 48 4 + f s 32 4) = none := by
  intro s full busy f g
  and_intros
  all_goals first | decide | exact clean_of (by decide +kernel)

/-- Engines, the operations: a read and a write that are sent, at their banks and done, a vacated core, a chunk that is done and one
that fails, an operation at its end, and a unit with 3 active operations. -/
theorem witness_EngineSteps :
    let s := blocks 0
    let r (st : ReqState) : EngReq :=
      { wr := false, addr := 0x8000000000000080, len := 8, at_ := 0, pos := none, mv := 0, st := st, slice := none, pa := 0, data := [] }
    let w (st : ReqState) : EngReq := { r st with wr := true, addr := 0x8000000000000100, data := List.replicate 8 0 }
    let pool (st : ReqState) : EngReq := { r st with addr := 0x40 }
    let o (qs : List EngReq) : EngOp := { (default : EngOp) with
                         id := 9, own := me, h := ⟨me, 0, 0⟩, kind := .copy, dst := 0x8000000000000100, src := 0x8000000000000080, rowb := 8, rows := 1,
                         active := true, reqs := qs.zipIdx.map fun x => (x.2, x.1) }
    let q (o : EngOp) : State := s.modClu 1 0 fun q => { q with copyQ := [o] }
    let z (o : EngOp) : State := s.modClu 1 0 fun q => { q with gathQ := [o] }
    let at' (o : EngOp) : Prop := (q o).op? 1 0 true 9 = some o
    let st : EngOp := { o [] with kind := .gath, blk := 0x8000000000000040, stop := some 5 }
    (at' (o [r .sent, w .banked]) ∧ at' (o []) ∧ (o [r .sent, w .banked]).own.job = 1 ∧ (o []).id = 9 ∧ (o []).active = true ∧ (o []).rows = 1) ∧
    ((o [r .sent, w .banked]).reqs.get? 0 = some (r .sent) ∧ (o [r .sent, w .banked]).reqs.get? 1 = some (w .banked) ∧
      (w .banked).data.length = (w .banked).len ∧ (r .sent).len ≤ 256 ∧ (o [pool .sent]).reqs.get? 0 = some (pool .sent)) ∧
    (let t := q (o [r .sent])
     t.canonical ∧ t.place me 0x8000000000000080 = some (.scratch 0 0x80) ∧ t.place me 0x8000000000000100 = some (.scratch 0 0x100) ∧
       t.place me 0x40 = some (.pool 0x40) ∧ t.phys? 1 0 = some 0 ∧ t.serves 1 0 0 = true ∧ t.seg 1 0 % 64 = 0 ∧
       (t.pcore 0).bank = [] ∧ t.cleanAt 1 0 0x80 8 ∧ t.cleanAt 1 0 0x100 8 ∧ ({ t with pclus := [] } : State).serves 1 0 0 = false ∧
       ({ t with pclus := [] } : State).carrier 1 0 = none ∧ t.carrier 1 0 ≠ none) ∧
    (o [r .performed]).reqs.get? 0 = some (r .performed) ∧
    ((∀ x ∈ (o [r .done, w .done]).reqs, x.2.st = .done) ∧ (o [r .done, w .done]).reqs ≠ [] ∧ ∃ x ∈ (o [r .done, w .done]).reqs, x.2.wr = true) ∧
    (let e : EngOp := { o [r .done, w .want] with fail := some (0x8000000000000100, 0) }
     e.fail = some (0x8000000000000100, 0) ∧ ∀ x ∈ e.reqs, x.2.st = .want ∨ x.2.st = .done) ∧
    ((o []).fail = none ∧ (o []).flt = none ∧ (o []).phase = 0 ∧ ({ o [] with cancel := true } : EngOp).cancel = true ∧
      ({ o [] with pos := 1 } : EngOp).rows ≤ 1 ∧ (o [r .done]).kind.isCopy = true ∧ st.kind.isCopy = false) ∧
    ((z st).op? 1 0 false 9 = some st ∧ (z st).place me (st.blk + 28) = some (.scratch 0 0x5C) ∧ 0x5C % 4 = 0 ∧ st.stop = some 5 ∧ (z st).canonical ∧
      (z st).cleanAt 1 0 0x5C 4 ∧ st.kind ≠ .pfetch ∧ ({ st with stop := some 0 } : EngOp).stop = some 0) ∧
    (let r : State := s.modClu 1 0 fun q => { q with copyQ := [1, 2, 3].map fun i => { o [] with id := i } }
     (∃ e, r.carrier 1 0 = some (0, e)) ∧ r.jobAt 0 = 1 ∧ r.carriedBy 0 = [0] ∧ (∀ x ∈ (r.clu 1 0).ops true, x.active = true ∧ x.id ≠ 9) ∧
       ((r.clu 1 0).ops true).length < 4) := by
  intro s r w pool o q z at' st
  and_intros
  all_goals first
    | exact ⟨_, rfl⟩
    | decide
    | exact canonical_of (by decide)
    | exact clean_of (by decide +kernel)

/-! ### Witnesses: spans -/

def other : Tid := ⟨1, 1, 0⟩

/-- A product of two K-steps on the east link of core 0, which this thread leads. -/
def product : Product :=
  { pid := 3, st := .accumulating, slot := 1, tag := 5, t := .f16, scl := false, keep := false, bop := false, kt := 2,
    lead := { w := me, dir := .e, h := ⟨me, 0, 0⟩ }, partner := { w := other, dir := .w, h := ⟨other, 0, 0⟩ } }

/-- `base` with values in registers, the product on its link and in its slot, and this thread bound to it. -/
def spanning (q : Product) (vs : List Word) (f : SpanLink → SpanLink) : State :=
  ((xs vs).modThread me fun t => { t with binds := [(0, ⟨0, 3, true⟩)] }).modLink 1 0 fun l => f { l with prods := [q], occupant := [(1, 3)] }

/-- SpanInstructions: a mesh edge and a link; K-step counts 0 and 1; ORD at the link and below it; a full handle table; a binding
and none; feeds at every limit; scales; closes that are early, masked wrongly, in and out of range; held products; aborts
that wait for a K-step; and accumulators. -/
theorem witness_SpanInstructions :
    let q := product
    let fed : Product := { q with lead := { q.lead with fp := 2 } }
    let sc : Product := { q with scl := true, t := .e4m3 }
    let s := spanning q [0x8000000000000040, 64, 0x80000000001FF800, 0x80000000001FF840, 0x2100000000, 0, 1, 0x10000, 0x8000000000000041] id
    let c := spanning fed [0x8000000000000040, 64, 0x80000000001FFFC0, 0x1FFFC000000040, 0x20000000000040, 0x10000000040] id
    let held := spanning { q with st := .held } [0x8000000000000040, 64] id
    let none' := xs [0, 1]
    let k := (q.kt + 1) / 2
    (∃ p, held.prod? 1 0 3 = some p ∧ p.st = .held ∧ p.lead.w = me ∧
      (∃ c, held.closeRec .f16 .rne false true 0 1 2 0x2020 = .ok c ∧ c.nd = false)) ∧
    s.guardOn s.cur on = true ∧ none'.guardOn me on = true ∧ (s.job 1).linkOf 0 .e = some 0 ∧ (s.job 1).linkOf 0 .w = none ∧
    (none'.rd me 1).toNat % 2 ^ 16 = 0 ∧ (none'.rd me 2).toNat % 2 ^ 16 = 1 ∧ (none'.thread me).binds.get? Dir.e.code.toNat = none ∧
    0 + 1 ≤ ((mine fun t => { t with ordLink := 1 }).thread me).ordLink.toNat ∧ (none'.thread me).ordLink.toNat < 0 + 1 ∧
    (none'.thread me).freeSlot ≠ none ∧
    ((mine fun t => { t with handles := (List.range 32).map fun i => (i, ⟨0, .copyGather, 1, 0, false, false, none, none⟩) }).thread me).freeSlot = none ∧
    (s.thread me).binds.get? Dir.e.code.toNat = some ⟨0, 3, true⟩ ∧ s.prod? 1 0 3 = some q ∧
    1 / 65536 = q.lead.fp ∧ 0x10001 / 65536 ≠ q.lead.fp ∧ q.kt < q.lead.fp + 3 ∧ q.lead.fp + 2 ≤ q.kt ∧ 32 < (s.rd me 5).toNat / 2 ^ 32 % 64 ∧
    (s.rd me 2).toNat / 2 ^ 32 % 64 ≤ 32 ∧ (s.rd me 9).toNat % 64 ≠ 0 ∧ (s.rd me 3).toNat % 64 = 0 ∧ (s.rd me 2).toNat % 2 ^ 32 % 64 = 0 ∧
    s.place me (s.rd me 3) = some (.scratch 0 0x1FF800) ∧ 0x1FF800 + (31 * 64 + 64 * 1) ≤ (s.job 1).foot ∧
    s.place me (s.rd me 4) = some (.scratch 0 0x1FF840) ∧ (s.job 1).foot < 0x1FF840 + (31 * 64 + 64 * 1) ∧ q.lead.feeds.length < 4 ∧
    sc.scl = true ∧ (s.rd me 8).toNat / 2 ^ 16 % 2 ^ 16 = 1 ∧ (s.rd me 8).toNat % 2 ^ 16 = sc.lead.sp ∧ 0 + 1 ≤ k ∧ k < 1 + 1 ∧ (s.rd me 9).toNat % 4 ≠ 0 ∧
    (s.rd me 1).toNat % 4 = 0 ∧ 64 + 4 * 32 * 1 ≤ (s.job 1).foot ∧ s.cleanAt 1 0 64 128 ∧ s.seg 1 0 = 0 ∧ (s.pcore 0).bank = [] ∧ s.granted me 120 = false ∧ 512 < 4 * 32 * 5 ∧ (s.pcore 0).ecc = [] ∧
    (q.lead.fp ≠ q.kt) ∧ fed.lead.fp = fed.kt ∧ c.prod? 1 0 3 = some fed ∧ 32 + 256 * 32 = 0x2020 ∧
    c.tilePlace me (c.rd me 1) (min 0 (31 * 64)) (max 0 (31 * 64) + 32 * 2 - 1) = some (.scratch 0 0x40) ∧
    c.tilePlace me (c.rd me 3) (min 0 (31 * 64)) (max 0 (31 * 64) + 32 * 2 - 1) = none ∧ (c.rd me 1).toNat % 2 = 0 ∧
    ((c.rd me 4).extractLsb' 0 32).toNat % 2 = 0 ∧ (c.rd me 4).toNat / 2 ^ 32 % 2 ^ 21 = 0x1FFFC0 ∧
    (c.rd me 6).toNat / 2 ^ 32 % 2 ^ 21 % 8 = 0 ∧ ((c.modJob 1 fun b => { b with foot := 0x100 }).job 1).foot ≤ 0x100 ∧
    (held.link 1 0).occupant.get? 1 = some 3 ∧
    (s.link 1 0).occupant.get? 0 = none ∧ ((spanning q [] fun l => { l with busy := some 3 }).link 1 0).busy = some 3 ∧ (s.link 1 0).busy ≠ some 3 ∧
    q.resolved = false ∧ (∀ q' ∈ (s.link 1 0).prods, q'.slot ≠ 0) ∧
    s.linkUp 1 0 = true ∧ ({ s with pclus := [] } : State).linkUp 1 0 = false ∧
    (let v : State := s.modLink 1 0 fun l => { l with occupant := [], logs := [(1, ([7], true))] }
     (v.link 1 0).occupant.get? 1 = none ∧ (v.link 1 0).logs.get? 1 = some ([7], true)) ∧
    (let d := { q with st := .accumulating, done := 2, promoted := 2 }
     d.st = .accumulating ∧ d.promoted = d.kt ∧ d.st ≠ .held) ∧
    ((s.link 1 0).prods.find? fun x => x.slot == 1 && (s.link 1 0).occupant.get? 1 == some x.pid) = some q := by
  refine ⟨⟨_, rfl, rfl, rfl, _, rfl, rfl⟩, ?_⟩
  and_intros
  all_goals first | decide | exact clean_of (by decide +kernel)

/-- SpanSteps: an arrival at an empty queue, behind one of its own end, and at one of the other end that it matches, or that
differs from it in each of role, tag, round, type, scales and K-step count; a product that takes its slot, reads rows,
computes, aborts, promotes (i8, b1 and floats), delivers, writes its done word and resolves, with and without a stop. -/
theorem witness_SpanSteps :
    let a : SpanArr := ⟨me, .e, 0, true, 5, 0, .f16, false, 2, 1, false, false, 6⟩
    let b : SpanArr := { a with w := other, dir := .w, lead := false }
    let home := mine fun t => { t with stall := some .home }
    let queued (x : SpanArr) : State := home.modLink 1 0 fun l => { l with queue := [⟨x, ⟨x.w, 0, 0⟩, 3, 0, 0⟩] }
    let c : CloseRec := ⟨0, 0x8000000000000100, 64, 0x80, 0, 32, 32, false, .f16, .rne, false, false⟩
    let rows : KRows := ⟨List.replicate 32 1, 0⟩
    let fd : Feed := ⟨1, 0, 0x1FF800, 64, 32, 0, 1⟩
    let at' (q : Product) : State := spanning q [] id
    let p := product
    let wait : Product := { p with st := .awaiting }
    let read : Product := { p with lead := { p.lead with feeds := [fd] } }
    let comp : Product := { p with lead := { p.lead with buf := [rows] }, partner := { p.partner with buf := [rows] } }
    let prom : Product := { p with done := 1, part := [(0, List.replicate 1024 (1, 0))] }
    let del : Product := { p with st := .delivering, close := some c, row := 31 }
    (let m : SpanArr := { b with kt := 1 }
     (queued m).link 1 0 = { (home.link 1 0) with queue := [⟨m, ⟨m.w, 0, 0⟩, 3, 0, 0⟩] } ∧ m.kt ≠ a.kt) ∧
    (home.thread a.w).stall = some .home ∧ (∀ x ∈ (home.link 1 0).queue.head?, x.arr.w.lcn = me.lcn) ∧
    ((queued { a with tag := 9 }).thread me).stall = some .home ∧ (∀ x ∈ ((queued { a with tag := 9 }).link 1 0).queue.head?, x.arr.w.lcn = me.lcn) ∧
    ((queued b).link 1 0).queue = [⟨b, ⟨other, 0, 0⟩, 3, 0, 0⟩] ∧ b.w.lcn ≠ me.lcn ∧ b.w.job = 1 ∧ b.link = 0 ∧ b.lead ≠ a.lead ∧ b.tag = a.tag ∧
    b.round = a.round ∧ b.t = a.t ∧ b.scl = a.scl ∧ b.kt = a.kt ∧ ({ b with lead := true } : SpanArr).lead = a.lead ∧
    ({ b with tag := 4 } : SpanArr).tag ≠ a.tag ∧ ({ b with round := 1 } : SpanArr).round ≠ a.round ∧ ({ b with t := .i8 } : SpanArr).t ≠ a.t ∧
    ({ b with scl := true } : SpanArr).scl ≠ a.scl ∧ ({ b with kt := 1 } : SpanArr).kt ≠ a.kt ∧
    (let s : State := base.modLink 1 0 fun l => { l with prods := [wait] }
     s.prod? 1 0 3 = some wait ∧ (s.link 1 0).occupant.get? wait.slot = none ∧ (s.link 1 0).nextFor wait.slot = some wait) ∧
    (at' read).prod? 1 0 3 = some read ∧ read.lead.feeds = [fd] ∧ (at' read).phys? 1 0 = some 0 ∧ fd.rows ≤ 32 ∧
    fd.base + 31 * fd.stride + 64 = 0x200000 ∧ ((at' read).pcore 0).ecc = [] ∧ ((at' read).pcore 0).guard = [] ∧
    (at' comp).prod? 1 0 3 = some comp ∧ comp.abort = false ∧ comp.lead.buf = [rows] ∧ comp.partner.buf = [rows] ∧ rows.rows.length = 32 ∧
    comp.part.getD 0 [] = [] ∧ (∀ y ∈ p.t.kRow 1 ++ p.t.kRow 1, y.special = 0) ∧ ({ p with abort := true } : Product).abort = true ∧
    (at' prom).prod? 1 0 3 = some prom ∧ prom.st = .accumulating ∧ prom.scl = false ∧ prom.promoted < prom.done ∧
    prom.t ≠ .i8 ∧ prom.t ≠ .b1 ∧ ({ prom with t := .i8 } : Product).t = .i8 ∧ ({ prom with t := .b1 } : Product).t = .b1 ∧
    (prom.marks.getD 0 []).getD 1023 0 = 0 ∧ (prom.part.getD 0 []).getD 1023 (0, 0) = (1, 0) ∧ (Ty.a80.value 0).Is 0 ∧
    (at' del).prod? 1 0 3 = some del ∧ del.close = some c ∧ del.st = .delivering ∧
    (at' del).place me (c.dst + BitVec.ofNat 64 del.row * c.stride) = some (.scratch 0 0x8C0) ∧ (at' del).canonical ∧
    del.doneSent = false ∧ ({ del with doneSent := true } : Product).doneSent = true ∧ (at' del).phys? 1 c.doneLcn = some 0 ∧ c.done % 8 = 0 ∧
    ((at' del).core 1 0).feQ = [] ∧ del.resolved = false ∧ del.stop = none ∧ ({ del with stop := some .xlat } : Product).stop ≠ none := by
  have zero : Ty.a80.value 0 = .fin false 0 (-16445) := by decide +kernel
  intro a b home queued c rows fd at' p wait read comp prom del
  and_intros
  all_goals first
    | decide +kernel
    | exact canonical_of (by decide +kernel)
    | (have zero : Ty.a80.value 0 = .fin false 0 (-16445) := by decide +kernel
       rw [zero]; norm_num [FVal.Is])

/-- SpanSteps, further states: a port that starts, that sends its rows to the lead core and whose rows have arrived; blocks with
scales; rows, requests and a done word whose turn has come or that are sent and done; and a delivery to the pool. -/
theorem witness_SpanTurns :
    let p := product
    let fd : Feed := ⟨1, 0, 0x1000, 64, 32, 0, 1⟩
    let c : CloseRec := ⟨0, 0x100, 64, 0x80, 0, 32, 32, false, .f16, .rne, false, false⟩
    let at' (q : Product) : State := spanning q [] id
    let full : SpanEnd := { p.partner with feeds := [fd], rows := List.replicate 32 1 }
    let port : Product := { p with partner := full }
    let sent : Product := { p with partner := { full with sent := true } }
    let sc : Product := { p with scl := true, done := 2, lead := { p.lead with scales := [(0, List.replicate 32 0x3F800000)] },
                                 partner := { p.partner with scales := [(0, [0x7FC00000])] } }
    let r (st : ReqState) : EngReq := { wr := true, addr := 0x100, len := 64, at_ := 0, pos := some 3, mv := 0, st := st, slice := none, pa := 0x100, data := [] }
    let del (qs : List EngReq) : Product := { p with st := .delivering, close := some c, reqs := qs.zipIdx.map fun x => (x.2, x.1) }
    (at' p).cleanAt 1 0 0x1000 64 ∧ ((at' p).pcore 0).bank = [] ∧ ({ p.lead with turnAt := some 0 } : SpanEnd).turnAt = some base.cyc ∧
    (at' port).prod? 1 0 3 = some port ∧ (port.side false).feeds = [fd] ∧ fd.rows ≤ (port.side false).rows.length ∧ (port.side false).sent = false ∧
    (at' port).phys? 1 1 = some 1 ∧ (at' port).emulated 1 0 port = false ∧
    ({ at' port with pclus := [] } : State).emulated 1 0 port = true ∧ (at' sent).prod? 1 0 3 = some sent ∧ (sent.side false).sent = true ∧
    (at' sc).prod? 1 0 3 = some sc ∧ sc.st = .accumulating ∧ sc.promoted < sc.kt ∧ min (2 * 0 + 2) sc.kt ≤ sc.done ∧
    sc.lead.scales.get? 0 = some (List.replicate 32 0x3F800000) ∧ sc.partner.scales.get? 0 = some [0x7FC00000] ∧
    (Ty.f32.value 0x7FC00000).isNan = true ∧ (Ty.f32.value 0x3F800000).isNan = false ∧
    (at' (del [r .sent])).prod? 1 0 3 = some (del [r .sent]) ∧ (at' (del [])).place me c.dst = some (.pool 0x100) ∧
    (del [r .sent]).reqs.get? 0 = some (r .sent) ∧ (r .sent).pos = some 3 ∧ (r .sent).at_ + (r .sent).len ≤ c.nv * c.t.outBytes ∧
    (del [r .performed]).reqs.get? 0 = some (r .performed) ∧ (∀ x ∈ (del [r .done]).reqs, x.2.st = .done) ∧ (del [r .done]).reqs ≠ [] ∧
    (del [r .done]).stop = none ∧ ({ del [r .done] with stop := some .xlat } : Product).stop ≠ none ∧
    ({ del [] with turns := [(5, 0)] } : Product).turns.get? 5 = some base.cyc ∧
    ({ del [] with doneTurn := some 0 } : Product).doneTurn = some base.cyc ∧ (at' (del [])).cleanAt 1 0 0x80 8 ∧
    (at' p).serves 1 0 0 = true ∧ (at' p).phys? 1 c.doneLcn = (at' p).phys? 1 p.lead.w.lcn ∧ p.lead.w.job = 1 ∧
    ((at' p).link 1 0).occupant.get? p.slot = some 3 := by
  intro p fd c at' full port sent sc r del
  and_intros
  all_goals first | decide +kernel | exact clean_of (by decide +kernel)

/-! ### Witnesses: the prompter -/

/-- A layer block of one row of 16 bytes: table at 0x800, list at 0x400, destination 0x200 of the window. -/
def layer : List Byte :=
  [1, 0, 0, 0, 16, 0, 1, 0, 0, 8, 0, 0, 0, 0, 0, 0xA0, 0, 0, 0x80, 0x3F, 0, 0, 0, 0, 0, 0, 0, 0, 0, 0, 0, 0,
   0, 0, 0, 0, 0, 0, 0, 0, 64, 0, 0, 0, 64, 0, 0, 0, 0, 4, 0, 0, 0, 0, 0, 0xA0, 0, 2, 0, 0, 0, 2, 0, 0]

/-- `base` with the layer block at 0x40 and other bytes behind it, addresses in x1 to x5, and a prompter. -/
def prompting (more : Memory) (p : Prompter) : State :=
  (((xs [0xA000000000000040, 0xA000000000000044, 0xA0000000001FFFD0, 0x8000000000000040, 0xA000000000000080, 0xA000000000000400]).modPCore 0
    fun q => { q with mem := Memory.writeBytes [] 0x40 layer ++ more })).modClu 1 0 fun q => { q with prm := p }

/-- A plan on the vector at 0x40. -/
def plan (active : Bool) : Plan :=
  { own := me, since := 0, h := ⟨me, 0, 0⟩, z := 0xA000000000000040, tau := 0, bud := 0, cfg := layer, active := active, word := 0, miss := false, flags := 0 }

/-- A range of a window without guard granules, locked bytes and errors. -/
theorem window_of {s : State} {a n : Nat} (h : ∀ i < n, let l := (s.job 1).lcnOf 0 ((a + i) / 2 ^ 21)
    let m := min (min 8 (n - i)) (2 ^ 21 - (a + i) % 2 ^ 21)
    ∀ x < m, (∀ k < 9, x + k ≤ m → s.closed 1 l ((a + i) % 2 ^ 21 + x) k = false) ∧
      (s.pcore (s.phys 1 l)).ecc.get? ((s.seg 1 l + ((a + i) % 2 ^ 21 + x)) / 8) = none) : s.windowClean 1 0 a n :=
  fun i hi x hx => ⟨fun k hk => (h i hi x hx).1 k (by omega), (h i hi x hx).2⟩

/-- Prompter, the instructions: blocks that are elsewhere, past the footprint, misaligned, bad and good; no configuration; a queue
with a place and a full one; and list blocks with too many rows, and with START at COUNT and past it. -/
theorem witness_Prompter :
    let s := prompting [] { cfg := some layer }
    let full := prompting [] { cfg := some layer, queue := List.replicate 16 (plan false) }
    let hdr (s : State) := fieldOf (s.windowBytes 1 0 0x400 64)
    let o : EngOp := { (default : EngOp) with
      kind := .pfetch, id := s.seq, own := me, pc := s.pcOf me, blk := 0xA000000000000400,
      idx := BitVec.ofNat 64 (0xA * 2 ^ 60 + (0x400 + 64)), replay := false, wm := 1, nf := 0, cfg := layer, count := 0, pos := 0 }
    s.guardOn s.cur on = true ∧ (s.rd me 4).toNat / 2 ^ 60 ≠ 0xA ∧ (s.rd me 1).toNat / 2 ^ 60 = 0xA ∧
    s.place me (s.rd me 1) = some (.scratch 0 0x40) ∧ s.reaches me (.scratch 0 0x40) = true ∧ s.place me (s.rd me 3) = some (.scratch 0 0x1FFFD0) ∧
    (s.job 1).foot < 0x1FFFD0 + 64 ∧ 0x1FFFC0 + 64 ≤ (s.job 1).foot ∧ (s.rd me 2).toNat % 64 ≠ 0 ∧ (s.rd me 1).toNat % 64 = 0 ∧
    s.cleanAt 1 0 0x40 64 ∧ s.seg 1 0 % 64 = 0 ∧ (s.pcore 0).bank = [] ∧ s.granted me 120 = false ∧
    (List.range 64).map (fun i => (s.pcore 0).mem.read (0x40 + i)) = layer ∧ (s.job 1).badLayer layer = none ∧
    (s.job 1).badLayer (List.replicate 64 0) ≠ none ∧ ((base.clu 1 0).prm.cfg = none) ∧
    (s.clu 1 0).prm.cfg = some layer ∧ (s.job 1).cluOf 0 = 0 ∧ 0x1FFFF0 + fieldOf layer 4 2 ≤ (s.job 1).foot ∧
    (s.rd me 2).toNat % 16 ≠ 0 ∧ (s.rd me 1).toNat % 16 = 0 ∧
    s.placeFor me 102 ((s.clu 1 0).prm.queue.filter fun q => !q.active).length 16 = true ∧
    full.placeFor me 102 ((full.clu 1 0).prm.queue.filter fun q => !q.active).length 16 = false ∧ (s.thread me).freeSlot = some 0 ∧
    (s.rd me 6).toNat = 0xA * 2 ^ 60 + 0x400 ∧ (s.job 1).windowOk 0x400 64 = true ∧ (s.job 1).windowOk (0x400 + 64) 0 = true ∧
    s.place me (s.rd me 6) = some (.scratch 0 0x400) ∧ s.windowClean 1 0 0x400 64 ∧
    fieldOf layer 0 4 = 1 ∧ hdr s 0 4 = 0 ∧ hdr s 56 4 = hdr s 0 4 ∧ hdr (prompting [(0x400, 2)] {}) 0 4 = 2 ∧
    hdr (prompting [(0x404, 2)] {}) 4 4 = 2 ∧ hdr (prompting [(0x438, 1)] {}) 56 4 = 1 ∧
    (s.job 1).destFault o = none ∧ s.placeFor me 101 (s.queuedOps 1 0 false) 64 = true := by
  intro s full hdr o
  and_intros
  all_goals first
    | decide
    | exact clean_of (by decide +kernel)
    | exact window_of (by decide +kernel)

/-- Prompter, the steps: bounds that are 0 and not; a plan at its turn, one that writes its list, in a cluster that is there and
vacated, and one that ends; and a fetch that ends. -/
theorem witness_PlanSteps :
    let one (p : Plan) := prompting [] { cfg := some layer, queue := [p] }
    let writes : Plan := { plan true with out := [(0x400, List.replicate 68 0), (0x444, List.replicate 4 0)] }
    let ends : Plan := { plan true with begun := true }
    let fetch : EngOp := { (default : EngOp) with id := 9, own := me, kind := .pfetch, stop := some 0 }
    let f : State := base.modClu 1 0 fun q => { q with gathQ := [fetch] }
    (∃ e, (one (plan false)).carrier 1 0 = some (0, e)) ∧ (one (plan false)).carriedBy 0 = [0] ∧
    ((one (plan false)).clu 1 0).prm.queue = [plan false] ∧ (plan false).active = false ∧ (plan false).since ≤ base.cyc ∧
    (one (plan false)).canonical ∧ (one (plan false)).place me (plan false).z = some (.scratch 0 0x40) ∧ (one (plan false)).cleanAt 1 0 0x40 16 ∧
    (one (plan false)).windowClean 1 0 (fieldOf layer 8 8 % 2 ^ 24) (1 * (16 + 8)) ∧ fieldOf layer 0 4 = 1 ∧ fieldOf layer 4 2 = 16 ∧
    ((one writes).clu 1 0).prm.queue.find? (fun q => q.active && q.due == base.cyc) = some writes ∧ writes.begun = false ∧
    (one writes).carrier 1 0 ≠ none ∧ ({ one writes with pclus := [] } : State).carrier 1 0 = none ∧ 0x400 % 2 ^ 21 + 68 + 4 ≤ 2 ^ 21 ∧
    (one writes).windowClean 1 0 0x400 (68 + 4) ∧ (one writes).canonical ∧
    ((one ends).clu 1 0).prm.queue.find? (fun q => q.active && q.due == base.cyc) = some ends ∧ ends.begun = true ∧
    f.op? 1 0 false 9 = some fetch ∧ fetch.own.job = 1 ∧ fetch.kind = .pfetch ∧ fetch.stop = some 0 ∧
    (f32 1).Is 1 ∧ (f32 10).Is (-1) ∧ max 0 ((1 : ℝ) + 1 + 1) * |1| ≠ 0 ∧ max 0 ((-1 : ℝ) + -1 + -1) * |1| = 0 ∧ (0 : ℝ) ≤ 1 := by
  intro one writes ends fetch f
  and_intros
  all_goals first
    | exact ⟨_, rfl⟩
    | exact f32_numbers.1
    | exact f32_numbers.2.2.2.2.2
    | exact canonical_of (by decide)
    | exact clean_of (by decide +kernel)
    | exact window_of (by decide +kernel)
    | decide
    | norm_num

/-! ### Witnesses: decision diagrams -/

/-- A block of a store of four nodes without variables. -/
def ddBlock : List Byte :=
  [0, 0x10, 0, 0, 4, 0, 0, 0, 0, 0x20, 0, 0, 4, 4, 0, 0, 0, 0x30, 0, 0, 0, 0x40, 0, 0, 0, 0, 4, 0] ++ List.replicate 36 0

def ddCfg : DdCfg := ddParse ddBlock 0xA000000000000040

/-- `base` with the block at 0x40 of the window and other bytes behind it, registers, and an engine. -/
def deciding (more : Memory) (vs : List Word) (e : Dde) : State :=
  ((xs vs).modPCore 0 fun q => { q with mem := Memory.writeBytes [] 0x40 ddBlock ++ more }).modClu 1 0 fun q => { q with dde := e }

theorem getD_all {α : Type} (P : α → Prop) (m : Map α) (d : α) (k : Nat) (hd : P d) (h : ∀ x ∈ m, P x.2) : P (m.getD k d) := by
  induction m with
  | nil => exact hd
  | cons x t ih =>
    obtain ⟨a, v⟩ := x
    by_cases e : a = k
    · simpa [Map.getD, Map.get?, e] using h (a, v) List.mem_cons_self
    · have := ih fun x hx => h x (List.mem_cons_of_mem _ hx)
      simpa [Map.getD, Map.get?, e] using this

theorem base_pcore (pc : Nat) : (base.pcore pc).guard = [] ∧ (base.pcore pc).ecc = [] :=
  getD_all (fun p : PCore => p.guard = [] ∧ p.ecc = []) _ _ pc ⟨rfl, rfl⟩ (by decide)

/-- The block, the bytes behind it, the registers and the engine change no core's guards, errors and job. -/
theorem deciding_pcore (more : Memory) (vs : List Word) (e : Dde) (pc : Nat) :
    ((deciding more vs e).pcore pc).guard = [] ∧ ((deciding more vs e).pcore pc).ecc = [] ∧
      ((deciding more vs e).pcore pc).jobreg = (base.pcore pc).jobreg := by
  let f (q : PCore) : PCore := { q with mem := Memory.writeBytes [] 0x40 ddBlock ++ more }
  let s := (xs vs).modPCore 0 f
  show (s.pcore pc).guard = [] ∧ (s.pcore pc).ecc = [] ∧ (s.pcore pc).jobreg = (base.pcore pc).jobreg
  have b := base_pcore pc
  by_cases h : pc = 0
  · subst h; rw [State.modPCore_pcore_self]; exact ⟨b.1, b.2, rfl⟩
  · rw [State.modPCore_pcore_ne _ _ _ _ h]; exact ⟨b.1, b.2, rfl⟩

theorem deciding_seat (more : Memory) (vs : List Word) (e : Dde) : (deciding more vs e).seat 1 0 = some (0, mapEntry 0 0 0) := by
  have saved (l : Nat) : ((deciding more vs e).core 1 l).saved = (base.core 1 l).saved := by
    change ((xs vs).core 1 l).saved = _
    by_cases h : l = 0
    · subst h; rfl
    · rw [xs, mine, State.modThread, State.modCore_core_ne _ me.job me.lcn 1 l _ fun e => h (congrArg Prod.snd e)]
  have r : base.seat 1 0 = some (0, mapEntry 0 0 0) := by decide
  rw [← r]
  simp only [State.seat, fun pc => (deciding_pcore more vs e pc).2.2, saved]
  rfl

theorem deciding_sound (more : Memory) (vs : List Word) (e : Dde)
    (h : let s := deciding more vs e; s.pool.wf ∧ s.host.wf ∧ ∀ q ∈ s.pcores, q.2.mem.wf) :
    (deciding more vs e).ddSound 1 0 ddCfg := by
  have clu : ∀ m < 8, ((deciding more vs e).job 1).cluOf (((deciding more vs e).job 1).lcnOf 0 m) = 0 ∧
      ((deciding more vs e).job 1).memOf (((deciding more vs e).job 1).lcnOf 0 m) = m := fun m hm => by
    change (base.job 1).cluOf ((base.job 1).lcnOf 0 m) = 0 ∧ (base.job 1).memOf ((base.job 1).lcnOf 0 m) = m
    revert m; decide
  have at' : ∀ a < 2 ^ 24, (deciding more vs e).windowAt 1 0 a = ([0, 1, 2, 3, 40, 41, 42, 43].getD (a / 2 ^ 21) 0, a % 2 ^ 21) := by
    intro a ha
    have seat : (deciding more vs e).seat 1 0 = some (0, mapEntry 0 0 0) := deciding_seat more vs e
    have m := clu (a / 2 ^ 21) (by omega)
    have pc : ∀ m < 8, pcOf 0 m = [0, 1, 2, 3, 40, 41, 42, 43].getD m 0 := by decide
    have g : mapG (mapEntry 0 0 0) = 0 := by decide
    simp only [State.windowAt, State.phys, State.phys?, State.seg, State.foldG, m.1, m.2, seat, Option.map_some, Option.getD_some, g, Nat.zero_mul,
      Nat.zero_add, pc _ (show a / 2 ^ 21 < 8 by omega)]
  have parts : (base.job 1).badArea [] ddCfg.parts = none := by decide
  have limits : ddCfg.nodes % 16 = 0 ∧ ddCfg.buck % 4 = 0 ∧ ddCfg.cache % 32 = 0 ∧ ddCfg.wtab % 16 = 0 ∧ 3 ≤ ddCfg.noden ∧ ddCfg.noden ≤ 786432 ∧
      4 ≤ ddCfg.blog ∧ ddCfg.blog ≤ 20 ∧ 4 ≤ ddCfg.clog ∧ ddCfg.clog ≤ 16 ∧ ddCfg.varn ≤ 4095 := by decide
  obtain ⟨h1, h2, h3, h4, h5, h6, h7, h8, h9, h10, h11⟩ := limits
  refine ⟨canonical_of h, h1, h2, h3, h4, h5, h6, h7, h8, h9, h10, h11, parts, fun m hm => clu m hm, ?_, ?_⟩
  · intro a b ha hb hab
    rw [at' a ha, at' b hb, Prod.mk.injEq] at hab
    have inj : ∀ x < 8, ∀ y < 8, [0, 1, 2, 3, 40, 41, 42, 43].getD x 0 = [0, 1, 2, 3, 40, 41, 42, 43].getD y 0 → x = y := by decide
    have := inj (a / 2 ^ 21) (by omega) (b / 2 ^ 21) (by omega) hab.1
    omega
  · intro x _ i _
    have p := deciding_pcore more vs e ((deciding more vs e).windowAt 1 0 (x.2.1 + i)).1
    refine ⟨?_, ?_⟩
    · simp only [PCore.guarded, p.1]; rfl
    · rw [p.2.1]; rfl

/-- An engine with the store set up, about to take an entry. -/
def engine (h : Option HRef) (k : DdKind) (free : Nat) (made : Word) : Dde :=
  { cfg := some ddCfg, freeHead := free, queue := [⟨me, 0, h, 0x10000, k⟩], counters := if made = 0 then [] else [(0, made)] }

/-- Node 2 is (5, high TRUE, low FALSE) with reference count 1, the head of its bucket; node 3 is free. -/
def nodes : Memory := [(0x1028, 1), (0x102C, 1), (0x102E, 0x50), (0x103E, 0xF0), (0x103F, 0xFF), (0x2024, 2)]

/-- DecisionDiagrams: no configuration; a block elsewhere, misaligned, bad and good; a queue with a place and a full one; the last
variable and one past it; areas for the result; and every command at its turn, on terminals, live and free nodes. -/
theorem witness_DecisionDiagrams :
    let s := deciding nodes [0xA000000000000040, 0xA000000000000044, 0x8000000000000040, 4094, 0x2000, 0x1FFFE800000002, 0x1FFFF800000002, 0x1FFFF000000002] { cfg := some ddCfg }
    let full := deciding [] [] { cfg := some ddCfg, queue := List.replicate 32 ⟨me, 0, none, 0, .gc⟩ }
    let turn (h : Option HRef) (k : DdKind) (free : Nat) (made : Word) : State := deciding nodes [] (engine h k free made)
    let t := turn none (.ref 2) 3 0
    let hr : HRef := ⟨me, 0, 0⟩
    let node (n : Nat) : DdNode := s.ddNodeAt 1 0 ddCfg n
    let act : State := (deciding [] [] { active := some ⟨me, 0, none, 0, .ref 2⟩ }).modThread me (waiting .engq .command)
    s.ddSound 1 0 ddCfg ∧ t.ddSound 1 0 ddCfg ∧ s.guardOn s.cur on = true ∧ (base.clu 1 0).dde.cfg = none ∧
    (s.rd me 3).toNat / 2 ^ 60 ≠ 0xA ∧ s.place me (s.rd me 2) = some (.scratch 0 0x44) ∧ s.reaches me (.scratch 0 0x44) = true ∧
    (s.rd me 2).toNat % 64 ≠ 0 ∧ (s.rd me 1).toNat % 64 = 0 ∧ (s.clu 1 0).dde.cfg ≠ none ∧
    s.placeFor me 103 (s.ddWaiting 1 0) 32 = true ∧ full.placeFor me 103 (full.ddWaiting 1 0) 32 = false ∧ (s.thread me).freeSlot = some 0 ∧
    (s.rd me 4).toNat % 2 ^ 12 ≤ 4094 ∧ (s.rd me 4).toNat < 2 ^ 13 ∧ 2 ^ 13 ≤ (s.rd me 5).toNat ∧
    (s.rd me 6).toNat / 2 ^ 32 % 2 ^ 24 % 2 ^ 21 + 16 ≤ (s.job 1).foot ∧ (s.rd me 6).toNat / 2 ^ 32 % 2 ^ 24 % 16 ≠ 0 ∧
    (s.rd me 8).toNat / 2 ^ 32 % 2 ^ 24 % 2 ^ 21 + 16 ≤ (s.job 1).foot ∧ (s.rd me 8).toNat / 2 ^ 32 % 2 ^ 24 % 16 = 0 ∧
    (s.job 1).foot < (s.rd me 7).toNat / 2 ^ 32 % 2 ^ 24 % 2 ^ 21 + 16 ∧
    t.carrier 1 0 = some (0, mapEntry 0 0 0) ∧ t.carriedBy 0 = [0] ∧ ({ act with pclus := [] } : State).carrier 1 0 = none ∧ (t.clu 1 0).dde.active = none ∧ (t.clu 1 0).dde.queue = [⟨me, 0, none, 0x10000, .ref 2⟩] ∧
    s.windowBytes 1 0 0x40 64 = ddBlock ∧ (s.job 1).badDd ddBlock = none ∧ (s.job 1).badDd (List.replicate 64 0) ≠ none ∧
    (t.clu 1 0).dde.cfg = some ddCfg ∧ (t.clu 1 0).dde.counters.getD 0 0 = 0 ∧ ((turn none .gc 3 1).clu 1 0).dde.counters.getD 0 0 ≠ 0 ∧
    ((t.clu 1 0).dde.levOf 7 = 7 ∧ (t.clu 1 0).dde.varAt 7 = 7) ∧
    node 2 = ⟨5, 1, 1, 0, 0⟩ ∧ node 3 = ⟨0xFFF, 0, 0, 0, 0⟩ ∧ 4 ≤ ddCfg.noden ∧ ddCfg.varn = 0 ∧
    (node 2).ref ≠ 0xFFFFF ∧ (node 2).ref ≠ 0 ∧
    s.win 1 0 (ddCfg.buck + 4 * ddCfg.bucket 5 1 0) 4 = 2 ∧ s.ddPath 1 0 ddCfg 2 [] 2 ∧
    s.win 1 0 (ddCfg.buck + 4 * ddCfg.bucket 6 1 0) 4 = 0 ∧ s.ddPath 1 0 ddCfg 0 [] 0 ∧ (t.clu 1 0).dde.freeHead = 3 ∧
    ((turn (some hr) (.mk 6 1 0) 0 0).clu 1 0).dde.freeHead = 0 ∧ (t.clu 1 0).dde.levOf 5 < 4095 ∧ t.windowClean 1 0 0x100 16 ∧ t.windowClean 1 0 0x100 8 ∧
    (act.clu 1 0).dde.active = some ⟨me, 0, none, 0, .ref 2⟩ ∧ (act.carrier 1 0).isSome = true ∧ (act.thread me).st = .parked ∧
    (act.thread me).wait = some ⟨.engq, 0, 0, false, .command⟩ := by
  intro s full turn t hr node act
  refine ⟨deciding_sound _ _ _ (by decide +kernel), deciding_sound _ _ _ (by decide +kernel), ?_⟩
  and_intros
  all_goals first | decide +kernel | exact rfl | exact window_of (by decide +kernel)

/-! ### Witnesses: cast and splice -/

/-- A cue: operation, stage S, new stage N, and ARMED, DONE and FAIL in bits 61, 60 and 62. -/
def cueWord (op s n bits : Nat) : Word := BitVec.ofNat 64 (2 ^ 63 + op * 2 ^ 52 + s * 2 ^ 46 + n * 2 ^ 40 + bits)

/-- A thread that plays stage 2 between stages 1 and 3, open or not. -/
def playing (open_ : Bool) : Thread → Thread := fun t =>
  { t with stg := 0x82, ups := bindWord 1 0 0 true, dns := bindWord 3 1 0 open_ }

/-- An entry that a thread plays, with a next stage and a standby. -/
def entry (nv sbv : Bool) (next sbLcn : Nat) : CastEntry :=
  { bits := BitVec.ofNat 64 (2 ^ 31 + (if nv then 2 ^ 30 else 0) + (if sbv then 2 ^ 28 else 0) + next * 2 ^ 20 + sbLcn * 2 ^ 32), cid := 5 }

/-- CastAndSplice, the instructions: threads that play, stand by and do neither, open and closed; headers and payloads at their
limits; banks that are free and busy; frames that are records and cues; and cues in every role. -/
theorem witness_CastAndSplice :
    let vs : List Word := [0, 0x0F00000000000000, 0x1000000000000000, 0x80000000001FFF88, 0x80000000001FFF90, 0x8000000000000044, 4096, 4097, 8, 7,
      cueWord 1 2 9 0, 0x8000000000000100]
    let at' (f : Thread → Thread) : State := (xs vs).modThread me f
    let s := at' (playing true)
    let stands : Thread → Thread := fun t => { t with stg := 0x42 }
    let h := cueWord 1 2 9 0
    let rec' : Frame := ⟨4, other, me, 0x0200000000000005, [7, 8], true, 0⟩
    let cue : Frame := ⟨4, other, me, h, [], false, 0⟩
    let t := playing true {}
    let cues : State := s.modJob 1 fun b => { b with cues := [(2, { touched := [2], standby := some ⟨1, 0, 5⟩, up := some 1 })] }
    let busy : State := s.modPCore 0 fun p => { p with bank := (List.range 16).map fun b => (b, 5) }
    s.guardOn s.cur on = true ∧ (s.thread s.cur).stall = none ∧ (s.thread me).stg.getLsbD 7 = true ∧ (s.thread me).stg.getLsbD 6 = false ∧
    ((at' id).thread me).stg.getLsbD 7 = false ∧ ((at' stands).thread me).stg.getLsbD 6 = true ∧ ((at' stands).thread me).stg.getLsbD 7 = false ∧
    (s.thread me).dns.getLsbD 31 = true ∧ (s.thread me).dns.getLsbD 30 = true ∧ ((at' (playing false)).thread me).dns.getLsbD 30 = false ∧
    ((at' fun t => { t with stg := 0x82 }).thread me).dns.getLsbD 31 = false ∧ (s.rd me 1).toNat / 2 ^ 56 % 16 = 0 ∧ (s.rd me 2).toNat / 2 ^ 56 % 16 = 15 ∧
    (s.rd me 2).toNat / 2 ^ 60 = 0 ∧ (s.rd me 3).toNat / 2 ^ 60 ≠ 0 ∧ s.place me (s.rd me 4) = some (.scratch 0 0x1FFF88) ∧
    s.reaches me (.scratch 0 0x1FFF88) = true ∧ 0x1FFF88 + 8 * 15 ≤ (s.job 1).foot ∧ (s.rd me 4).toNat % 8 = 0 ∧ (s.job 1).foot < 0x1FFF90 + 8 * 15 ∧
    s.place me (s.rd me 5) = some (.scratch 0 0x1FFF90) ∧ (s.rd me 6).toNat % 8 ≠ 0 ∧ s.cleanAt 1 0 0x1FFF88 120 ∧ s.canonical ∧
    (s.pcore (s.phys 1 0)).bank = [] ∧ s.granted me 120 = false ∧ (∀ b < 16, (busy.pcore 0).bank.get? b = some 5) ∧
    (at' fun t => { playing true t with grants := [120] }).granted me 120 = true ∧
    (⟨1, (s.thread me).dns.toNat % 2 ^ 16, (s.thread me).dns.toNat / 2 ^ 16 % 16⟩ : Tid) = other ∧
    (s.thread me).frames = [] ∧
    (let b := at' fun t => { playing true t with frames := [⟨9, me, other, 0, [], true, 0⟩], refused := [9] }
     (∃ z ∈ (b.thread me).frames, z.dst = other ∧ (z.id ∈ (b.thread me).refused ∨ z.id ∈ (b.thread me).outHeld))) ∧
    (s.thread me).inbox = [] ∧ ((at' fun t => { playing true t with inbox := [rec'] }).thread me).inbox = [rec'] ∧ rec'.header.getLsbD 63 = false ∧
    cue.header.getLsbD 63 = true ∧ s.place me (s.rd me 12) = some (.scratch 0 0x100) ∧
    badCue (s.rd me 11) = false ∧ badCue (s.rd me 1) = true ∧ h = s.rd me 11 ∧ (s.rd me 1).getLsbD 46 ≠ h.getLsbD 47 ∧
    t.role h = .first ∧ t.role (cueWord 1 4 9 0) = .pass ∧ t.role (cueWord 1 1 9 (2 ^ 61)) = .last ∧ t.role (cueWord 3 2 0 (2 ^ 61)) = .s ∧
    (playing true { t with ups := 0 } |>.role (cueWord 3 2 0 (2 ^ 61))) = .s ∧
    ({ t with ups := 0 } : Thread).role (cueWord 2 2 0 0) = .s ∧ cueArmed (cueWord 2 2 0 0) = false ∧ cueArmed (cueWord 2 2 0 (2 ^ 61)) = true ∧
    cueOp (cueWord 2 2 0 (2 ^ 61)) ≠ 3 ∧ t.role (cueWord 1 2 9 (2 ^ 62)) = .injector ∧ cueFail (cueWord 1 2 9 (2 ^ 62)) = true ∧
    cueDone (cueWord 1 2 9 (2 ^ 60)) = true ∧ cueDone h = false ∧ cueFail h = false ∧
    (∃ x, (cues.cueCtx 1 (cueWord 3 2 0 (2 ^ 61))).standby = some x ∧
      t.handover ≠ some x) ∧ t.ups.getLsbD 31 = true ∧ (cues.newUps 1 (cueWord 1 2 9 (2 ^ 61))).getLsbD 31 = true ∧ (s.newUps 1 (cueWord 1 2 9 (2 ^ 61))).getLsbD 31 = false ∧
    s.place me (s.rd me 12) = some (.scratch 0 0x100) ∧ 0x100 + 8 * 512 ≤ (s.job 1).foot ∧ s.cleanAt 1 0 0x100 8 ∧
    (s.rd me 9).toNat = 8 ∧ (s.rd me 7).toNat = 4096 ∧ 4096 < (s.rd me 8).toNat ∧ (s.rd me 10).toNat % 8 ≠ 0 ∧ (s.thread me).freeSlot = some 0 ∧
    (s.thread me).sttake = none ∧ ((at' fun t => { stands t with sttake := some (⟨me, 0, 0⟩, 0) }).thread me).sttake ≠ none := by
  intro vs at' s stands h rec' cue t cues busy
  and_intros
  all_goals first | decide | exact clean_of (by decide +kernel)

/-- CastAndSplice, the home and the tokens: offers of a stage that is free, held by the thread, and held by another; cues that meet
each reason, and that arm and commit; answers of the home; a receiver that is there; frames that are accepted, held
back, too many, and resent; and state in every phase. -/
theorem witness_CastHome :
    let tab (es : Map CastEntry) : State := (mine fun t => { t with stall := some .home }).modJob 1 fun b => { b with cast := es }
    let s := tab [(1, entry true false 2 0), (2, entry true true 3 0), (3, entry false false 0 0)]
    let b := s.job 1
    let mineC := cueWord 3 2 0 5
    let ins := cueWord 1 2 9 5
    let sb : CastEntry := { bits := 2 ^ 28, cid := 0 }
    let t (h : Word) : CueTake := ⟨me, h, some 5, .last, none, true⟩
    let c : State := s.modJob 1 fun b => { b with cues := [(2, { touched := [2], standby := some ⟨1, 0, 5⟩, up := some 1 })] }
    let q : State := s.modJob 1 fun b => { b with cues := [(2, { touched := [2], up := some 1 })] }
    let inbox (n : Nat) : State := mine fun t => { playing true t with ups := bindWord 1 1 0 true, inbox := List.replicate n ⟨4, other, me, 0, [], true, 0⟩ }
    let f : Frame := ⟨7, other, me, 0, [5], true, 0⟩
    let fail : Frame := { f with header := 0xC000000000000000 }
    let x : StateXfer := ⟨3, me, 2, 0x8000000000000100, 8, ⟨me, 0, 0⟩, some me, 5, 2, List.replicate 8 0, false, false⟩
    me.lcn < 2 ^ 16 ∧ me.thr < 16 ∧ s.resident 1 0 = true ∧ (b.castAt 2).sbv = true ∧ (b.castAt 2).heldBy me = true ∧ (b.castAt 2).heldBy other = false ∧
    (b.castAt 3).sbv = false ∧ (∀ x ∈ b.cast, x.1 ≠ 2 → x.2.heldBy me = true → x.2.captured = false) ∧ (b.castAt 2).captured = false ∧
    (let d : State := tab [(1, { entry true true 2 0 with captured := true })]
     ∃ x ∈ (d.job 1).cast, x.1 ≠ 2 ∧ x.2.heldBy me = true ∧ x.2.captured = true) ∧
    (s.thread me).stall = some .home ∧ (b.castAt 2).v = true ∧ ((tab []).job 1).castAt 2 = {} ∧
    (((tab [(2, { entry true true 3 0 with bits := 2 ^ 31 + 2 ^ 29 })]).job 1).castAt 2).busy = true ∧
    (b.castAt 1).busy = false ∧ (b.castAt 2).busy = false ∧ (b.castAt 3).busy = false ∧ b.upOf 2 = some 1 ∧ cueOp mineC = 3 ∧
    (b.castAt (cueN (cueWord 1 2 3 5))).v = true ∧ (b.castAt (cueN ins)).v = false ∧ (b.castAt 9).sbv = false ∧ sb.sbv = true ∧ sb.cid = 0 ∧
    (b.castAt 2).cid.toNat = cueCid mineC ∧ (b.castAt 2).cid.toNat ≠ cueCid (cueWord 3 2 0 6) ∧ (t ins).answer = none ∧
    (c.cueCtx 1 ins).standby = some ⟨1, 0, 5⟩ ∧ cueN ins ≠ cueS ins ∧ (q.cueCtx 1 (cueWord 2 2 0 0)).standby = none ∧
    (q.cueCtx 1 (cueWord 2 2 0 0)).up = some 1 ∧ cueOp (cueWord 2 2 0 0) = 2 ∧
    (let u : State := mine fun t => { playing false t with stall := some .home }
     (u.thread me).dns.getLsbD 31 = true ∧ (u.thread me).stall = some .home) ∧
    cueArmed (cueWord 1 2 9 (2 ^ 61)) = true ∧ (t ins).role = .last ∧ ({ (t ins) with role := .s } : CueTake).role = .s ∧ s.bindAhead me = false ∧
    ({ s with agenda := [⟨0, .bindToken ⟨me, 0, 0, 0, none, 0⟩⟩] } : State).bindAhead me = true ∧ s.resident 1 1 = true ∧ me ≠ other ∧
    ((inbox 30).thread me).isLive 0 = true ∧ (((inbox 30).thread me).inbox.map Frame.size).sum + (1 + f.body.length) ≤ 32 ∧
    32 < (((inbox 31).thread me).inbox.map Frame.size).sum + (1 + f.body.length) ∧ ((inbox 30).thread me).ups.getLsbD 31 = true ∧
    bindTid 1 ((inbox 30).thread me).ups = f.src ∧ ((inbox 30).thread me).held = false ∧ (inbox 30).frameBehind f = false ∧ fail.header.getLsbD 63 = true ∧ fail.header.getLsbD 62 = true ∧
    f.header.getLsbD 63 = false ∧ ((base.thread me).ups.getLsbD 31 = false) ∧
    (let u : State := base.modThread other fun t => { t with frames := [f] }
     f ∈ (u.thread f.src).frames ∧ u.frameBehind f = false) ∧
    ({ x with phase := 0 } : StateXfer).phase = 0 ∧ ({ x with phase := 1, standby := none } : StateXfer).standby = none ∧ x.standby = some me ∧ x.phase = 2 ∧
    (base.thread me).sttake = none ∧ ((mine fun t => { t with sttake := some (⟨me, 0, 0⟩, 0x8000000000000100) }).thread me).sttake ≠ none ∧
    x.bytes.length = x.len ∧ base.canonical ∧ base.cleanAt 1 0 0x100 8 ∧
    (let v : State := mine fun t => { t with stg := 0x42, opens := some other }
     (v.thread me).stg.toNat % 64 = x.stage ∧ (v.thread me).opens = some other) ∧ ({ x with phase := 3 } : StateXfer).guardHit = false := by
  intro tab s b mineC ins sb t c q inbox f fail x
  and_intros
  all_goals first | decide | exact clean_of (by decide +kernel)

/-! ### Witnesses: reductions, the system class, vacating -/

/-- A group block: group 0 over two cores of one row. -/
def groupBlock : List Byte := [0, 0, 0, 0, 0, 0, 0, 0, 2, 0, 1, 0] ++ List.replicate 52 0

/-- A group over cores 0 and 1, one outstanding contribution or two, and an operation. -/
def group (n : Nat) (ops : Map RedOp) : RedGroup :=
  ⟨0, 0, 0, 2, 1, 0, [], [], [(0, List.replicate n ⟨me, 0, 0⟩)], ops⟩

/-- A contribution of a core. -/
def gives (w : Tid) : RedCon := ⟨w, .reds, .add, .i64, .rne, false, [5], 0x8000000000000100, ⟨w, 0, 0⟩⟩

/-- Reductions: group blocks that are nowhere, misaligned, bad and good; a group that is not there, one of which the thread is no
member, one at its limit; operands; an operation at its leaf, at its root with and without its child, agreed and not, with and
without result; a node under its parent on one folded core; and a group over two devices at either rank, bound and not. -/
theorem witness_Reductions :
    let at' (g : Map RedGroup) : State :=
      ((xs [0x8000000000000040, 0x8000000000000044, 0xB000000000000000, 0x80000000001FFFF8, 0x80000000001FFFFC]).modPCore 0 fun q =>
        { q with mem := Memory.writeBytes [] 0x40 groupBlock }).modJob 1 fun b => { b with redgrp := 1, groups := g }
    let s := at' [(0, group 1 [])]
    let o : RedOp := { cons := [(0, gives me), (1, gives other)] }
    let run (o : RedOp) : State := at' [(0, group 0 [(7, o)])]
    let wide : RedGroup := { group 0 [(7, { cons := [(7, gives me)] })] with gw := 8 }
    let folded : State := (at' [(0, wide)]).modJob 1 (fun b => { b with w := 8, fold := true }) |>.modPClu 0 fun p =>
      { p with map := [(0, mapEntry 0 1 0), (1, mapEntry 0 1 1)] }
    let far (devs : List Nat) (bound : List (Nat × Nat)) (o : RedOp) : State :=
      { (at' [(0, { group 0 [(7, o)] with devs := devs })]).modJob 1 fun b => { b with bound := bound } with
        dev := { base.dev with devid := 3, route := [(5, 0x83)], peeren := 8 } }
    let msg : RedMsg := ⟨1, 0, gives other, [6], none, 0, false⟩
    s.guardOn s.cur on = true ∧ s.place me (s.rd me 3) = none ∧ s.place me (s.rd me 1) = some (.scratch 0 0x40) ∧ s.reaches me (.scratch 0 0x40) = true ∧
    (s.rd me 2).toNat % 64 ≠ 0 ∧ (s.rd me 1).toNat % 64 = 0 ∧ s.seg 1 0 % 64 = 0 ∧ (s.pcore (s.phys 1 0)).bank = [] ∧ s.cleanAt 1 0 0x40 64 ∧
    (List.range 64).map (fun i => (s.pcore 0).mem.read (0x40 + i)) = groupBlock ∧ (s.job 1).badGroup groupBlock = none ∧
    (s.job 1).badGroup (List.replicate 64 0) = some 8 ∧ s.poolShorts 0 1 0 0 = some [] ∧ fieldOf groupBlock 16 2 = 0 ∧
    (s.devsOk (s.job 1) [0] = true ∧ s.devsOk (s.job 1) [1] = false) ∧ s.poolShorts 0 1 0 1 = none ∧
    (∀ r, (s.job 1).groups.get? 0 = some r → r.ops = []) ∧ (∃ x ∈ (group 0 [(7, o)]).ops, x.2.cons ≠ []) ∧ s.resident 1 0 = true ∧
    (s.job 1).groups.get? 7 = none ∧ (s.job 1).groups.get? 0 = some (group 1 []) ∧ (group 1 []).node (s.job 1) me = some 0 ∧
    (2 : Nat) ∉ (group 1 []).members (s.job 1).w ∧ ((group 1 []).out.getD 0 []).length < 2 ∧ 2 ≤ ((group 2 []).out.getD 0 []).length ∧
    s.place me (s.rd me 4) = some (.scratch 0 0x1FFFF8) ∧ 0x1FFFF8 + 8 * 1 ≤ (s.job 1).foot ∧ (s.job 1).foot < 0x1FFFF8 + 8 * 32 ∧
    (s.rd me 5).toNat % 8 ≠ 0 ∧ (s.thread me).freeSlot = some 0 ∧
    2 ^ 80 - 1 < 2 ^ 80 ∧ (f32 1).Is 1 ∧ (f32 2).Is 2 ∧ (1 : ℝ) + 2 ≠ 0 ∧
    ((run o).job 1).groups.get? 0 = some (group 0 [(7, o)]) ∧ (group 0 [(7, o)]).ops.get? 7 = some o ∧ o.cons.get? 0 = some (gives me) ∧
    (run o).resident 1 (((group 0 []).members 4).getD 0 0) = true ∧ [2 * 0 + 1, 2 * 0 + 2].filter (fun n => decide (n < ((group 0 []).members 4).length)) = [1] ∧
    1 ∉ o.got ∧ o.subs.get? 0 = none ∧ (group 0 []).devs = [] ∧
    (folded.resident 1 7 = true ∧ (wide.members 8).getD 7 0 = 7 ∧ (7 - 1) / 2 = 3 ∧ 7 ∈ [2 * 3 + 1, 2 * 3 + 2] ∧
      folded.packetTo .red ⟨1, 7, 0⟩ 7 3 (.redCombine 1 0 7 3 (some 7) none) = none ∧
      folded.packetTo .red ⟨1, 3, 0⟩ 3 7 (.redBroadcast 1 0 7 7 none) = none) ∧
    ((far [3, 5] [(5, 9)] o).redRank { group 0 [] with devs := [3, 5] } = 0 ∧ (far [5, 3] [(5, 9)] o).redRank { group 0 [] with devs := [5, 3] } = 1 ∧
      [2 * 0 + 1, 2 * 0 + 2].filter (fun n => decide (n < [3, 5].length)) = [1] ∧ o.devs.get? 1 = none ∧ o.combined = false ∧
      (({ o with devs := [(1, msg)] } : RedOp).devs.get? 1).isSome = true ∧ msg.rank ∈ [1] ∧ msg.mismatch = false ∧ msg.gen = (group 0 []).gen ∧
      RedCon.agrees msg.con (gives me) = true ∧ (∀ x ∈ ((far [3, 5] [] o).job 1).bound, x.1 ≠ [3, 5].getD msg.rank 0) ∧
      ((far [3, 5] [(5, 9)] o).job 1).bound.find? (fun x => x.1 == [3, 5].getD 1 0) = some (5, 9) ∧
      (far [3, 5] [(5, 9)] o).dev.linkTo 5 = some 3) ∧
    (∀ x ∈ o.cons, RedCon.agrees x.2 (gives me) = true) ∧
    (∃ x ∈ ({ o with cons := [(0, gives me), (1, { gives other with op := .max })] } : RedOp).cons, RedCon.agrees x.2 (gives me) = false) ∧
    o.result = none ∧ ({ o with result := some [5] } : RedOp).result = some [5] ∧ (run o).canonical ∧ (run o).cleanAt 1 0 0x100 8 := by
  intro at' s o run wide folded far msg
  have none_yet : ∀ r, (s.job 1).groups.get? 0 = some r → r.ops = [] := fun r h => by cases h; rfl
  have kept : ∃ x ∈ (group 0 [(7, o)]).ops, x.2.cons ≠ [] := ⟨(7, o), by decide, by decide⟩
  have other_op : ∃ x ∈ ({ o with cons := [(0, gives me), (1, { gives other with op := .max })] } : RedOp).cons, RedCon.agrees x.2 (gives me) = false :=
    ⟨(1, { gives other with op := .max }), by decide, by decide⟩
  and_intros
  all_goals first
    | assumption
    | exact f32_numbers.1
    | exact f32_numbers.2.1
    | exact clean_of (by decide +kernel)
    | exact canonical_of (s := run o) (by decide)
    | decide
    | norm_num

/-- A record of the trap queue. -/
def record (c : Cause) (fatal : Bool) : TqRec := ⟨0x10000, 0, c, fatal, false, false, 0, 0, 3, 0, me, none, none, 0⟩

/-- SystemClass: traps with each of JH and SH, with TVEC 0 and not, with the last entry free and not; an attached debugger; returns
to an address that is valid and one that is not; results outstanding, records, hits and new flags; queues that are empty
and not; operands that break each field and that fit; and a record that is served, fatal and not. -/
theorem witness_SystemClass :
    let t (f : Thread → Thread) : State := mine f
    let reg (v : Word) (w : Word) : State := (xs [v, w]).modThread me fun t => { t with pstate := 1 }
    let tq (r : TqRec) : State := base.modPCore 0 fun q => { q with tq := [(3, r)], tqNew := [3] }
    let s := reg 0xFFFF0000 0x1F
    let tlb (x y : Word) : State := reg x y
    let manager (l : List TqRec) : State := { base.modThread ⟨0, 0, 0⟩ (fun t => { t with st := .running, pstate := 1 }) with
      cur := ⟨0, 0, 0⟩, dev := { base.dev with service := l } }
    (∀ l ∈ (base.thread me).landings, l.writes = []) ∧ Cause.sw.toTvec = true ∧ Cause.priv.toTvec = false ∧
    (base.thread me).jh = false ∧ (base.thread me).sh = false ∧ (base.thread me).tvec = 0 ∧ ((t fun t => { t with tvec := 0x10000 }).thread me).tvec ≠ 0 ∧
    ((t fun t => { t with pstate := 2 }).thread me).jh = true ∧ ((t fun t => { t with pstate := 2 }).thread me).sh = false ∧
    ((t fun t => { t with pstate := 4 }).thread me).sh = true ∧ (base.pcore 0).tq.get? 15 = none ∧ ((t fun t => { t with pstate := 4 }).thread me).st ≠ .free ∧
    ((base.modPCore 0 fun q => { q with tq := [(15, record .sw true)] }).pcore 0).tq.get? 15 ≠ none ∧
    base.guardOn base.cur on = true ∧ (base.pcore 0).cstat.getLsbD 0 = false ∧ ((base.modPCore 0 fun q => { q with cstat := 1 }).pcore 0).cstat.getLsbD 0 = true ∧
    base.carriedThreads 0 = [me] ∧ base.captured me = true ∧
    (let u := t fun t => { t with epc := 0x1000C, jepc := 0x10001 }
     ((u.thread me).epc - u.cbase me).toInt % 12 = 0 ∧ ((u.thread me).jepc - u.cbase me).toInt % 12 ≠ 0 ∧
       (((t fun t => { t with epc := 0x10001 }).thread me).epc - u.cbase me).toInt % 12 ≠ 0) ∧
    (base.thread me).busy = [] ∧ (base.thread me).landings = [] ∧ ((t fun t => { t with busy := [(1, .s 1)] }).thread me).busy ≠ [] ∧
    (base.thread me).sfq = [] ∧ (base.thread me).ghits = 0 ∧ ((t fun t => { t with ghits := 1 }).thread me).ghits ≠ 0 ∧
    ((t fun t => { t with sfq := [⟨0, 0, .addr, 0, 0, 0⟩] }).thread me).sfq ≠ [] ∧ (∀ x ∈ base.accs, x.2.own ≠ me) ∧
    (let u := (t fun t => { t with flags := 3, ten := 2, reported := 1 }).thread me
     u.flags &&& u.ten &&& ~~~u.reported ≠ 0) ∧ (base.thread me).flags &&& (base.thread me).ten &&& ~~~(base.thread me).reported = 0 ∧
    (s.thread me).priv = true ∧ me.job ≠ 0 ∧ (manager []).cur.job = 0 ∧ (manager []).guardOn (manager []).cur on = true ∧
    ((manager []).thread (manager []).cur).priv = true ∧ (manager []).dev.service = [] ∧ (manager [record .xlat false]).dev.service = [record .xlat false] ∧ (base.pcore 0).tqNew = [] ∧ ((tq (record .xlat false)).pcore 0).tqNew = [3] ∧
    ((tq (record .xlat false)).pcore 0).tq.get? 3 = some (record .xlat false) ∧
    (s.rd me 1).toNat / 2 ^ 16 % 2 ^ 16 = 0xFFFF ∧ (s.rd me 1).toNat / 2 ^ 5 % 2 ^ 11 = 0 ∧ (s.rd me 1).toNat / 2 ^ 32 = 0 ∧ (s.rd me 2).toNat / 2 ^ 5 = 0 ∧
    s.phys? 1 0 = some 0 ∧ 1600 ≤ (0x6400000 : Nat) / 2 ^ 16 % 2 ^ 16 ∧ (0x63F0000 : Nat) / 2 ^ 16 % 2 ^ 16 < 1600 ∧ (0x20 : Nat) / 2 ^ 5 % 2 ^ 11 ≠ 0 ∧
    (0x10 : Nat) / 2 ^ 4 % 2 ^ 12 ≠ 0 ∧ (2 : Nat) / 2 % 2 ^ 15 ≠ 0 ∧
    s.carried 0 0 = some me ∧ (s.rd me 1).toNat % 16 = 0 ∧ (s.thread me).st ≠ .free ∧ s.captured me = true ∧
    (let u : State := (base.modJob 1 fun b => { b with t := 2 }).modThread ⟨1, 0, 1⟩ fun t => { t with st := .running }
     u.carried 0 1 = some ⟨1, 0, 1⟩ ∧ (⟨1, 0, 1⟩ : Tid) ≠ me ∧ (u.thread ⟨1, 0, 1⟩).st ≠ .free) ∧
    (mine fun t => { t with landings := [⟨0, 8, [], 0⟩] }).captured me = false ∧
    ((tlb 0x1000 0).rd me 1).toNat % pageSize 5 0 = 0 ∧ ((tlb 0x1001 0).rd me 1).toNat % pageSize 5 0 ≠ 0 ∧ (9 : Nat) % 16 ≠ 15 ∧ ¬(10 ≤ 9) ∧ 10 ≤ 14 ∧
    base.accs = [] ∧ (base.pcore 0).tq.get? 3 = none ∧ ((tq (record .xlat false)).pcore 0).tqWait = [] ∧ (record .sw true).fatal = true ∧
    (let u := (tq (record .xlat false)).modThread me (waiting .service .reissue)
     (u.thread me).st = .parked ∧ (u.thread me).wait = some ⟨.service, 0, 0, false, .reissue⟩ ∧ (u.thread me).sh = false) ∧
    (record .xlat false).cause.toTvec = false ∧ (record .xlat false).h = none ∧ (record .xlat false).post = none ∧ (base.pcore 0).tenant = 0 ∧
    (let y : Nat := 0x80000000 + 199
     let js := (s.pcore 0).jshape
     y % 2 ^ 8 < 200 ∧ y / 2 ^ 20 % 2 ^ 4 = 0 ∧ 16 ≤ 16 ∧ js.toNat / 2 ^ 32 % 2 ^ 22 ≤ 2 ^ 21 ∧ y / 2 ^ 24 % 2 ^ 6 = 0 ∧ y / 2 ^ 8 % 2 ^ 8 = 0 ∧ y / 2 ^ 30 % 2 = 0) := by
  intro t reg tq s tlb manager
  and_intros
  all_goals decide

/-- One window of 1 GiB from 0, in the pool of slice 3 (R391, R392). -/
def windowed (s : State) : State := { s with dev := { s.dev with win0 := [(0, 0x3800000)], win1 := [(0, 1)] } }

/-- Every address of that window has its slice. -/
theorem windowed_slice (s : State) (a : Nat) (h : a < 2 ^ 30) : ((windowed s).dev.slice a).isSome = true := by
  have w (i : Nat) : (windowed s).dev.windowSlice a i = if i = 0 then some 3 else none := by
    by_cases e : i = 0
    · subst e
      have m : (windowed s).dev.win0.getD 0 0 = 0x3800000 ∧ (windowed s).dev.win1.getD 0 0 = 1 := ⟨rfl, rfl⟩
      have f : bitsOf (0x3800000 : Word) 30 22 = 0 ∧ bitsOf (1 : Word) 0 22 = 1 ∧ bitsOf (0x3800000 : Word) 22 2 = 2 ∧
        bitsOf (0x3800000 : Word) 24 5 = 3 := by decide
      simp only [Device.windowSlice, m, f, Nat.zero_mul, Nat.zero_le, decide_true, Bool.true_and, Nat.one_mul, Nat.zero_add, h, if_true]
    · have m : (windowed s).dev.win1.getD i 0 = 0 := by simp [windowed, Map.getD, Map.get?, Ne.symm e]
      have f : bitsOf (0 : Word) 0 22 = 0 := by decide
      have none_ (n : Nat) : (decide (n ≤ a) && decide (a < n)) = false := by simp
      simp only [Device.windowSlice, m, f, e, Nat.zero_mul, Nat.add_zero, none_, Bool.false_eq_true, if_false]
  have l : (List.range 16).filterMap (fun i => (windowed s).dev.windowSlice a i) = [3] := by
    rw [funext w]; decide
  delta Device.slice
  rw [l]; rfl

/-- VacateAndResume: a cluster that is there and numbers that are not; a cluster that leaves, still and not; a map entry that
is vacated, not, different elsewhere, and whose place is taken; and a vacated cluster with its saved cores. -/
theorem witness_VacateAndResume :
    let s := mine fun t => { t with pstate := 1 }
    let vac := mapEntry 0 0 0 &&& ~~~0x80000000 ||| 0x40000000
    let leaves : State := windowed ((base.modPClu 0 fun p => { p with map := [(0, vac)] }).modJob 1 fun b => { b with foot := 0x10000 })
    let v : State := leaves.modJob 1 fun b => { b with cores := b.cores.map fun c => (c.1, { c.2 with saved := some {} }) }
    let taken : State := s.modPClu 0 fun p => { p with map := [(0, vac), (1, mapEntry 0 0 0)] }
    s.guardOn s.cur on = true ∧ (s.thread s.cur).priv = true ∧ (256 : Nat) / 2 ^ 8 ≠ 0 ∧ 200 ≤ 200 ∧ 199 < 200 ∧ (s.thread me).freeSlot = some 0 ∧
    (s.job 1).coresOf (s.carriedBy 0) = [0, 1, 2, 3, 4, 5, 6, 7] ∧ (s.thread me).st ≠ .free ∧ (s.pclu 0).map.get? 0 = some (mapEntry 0 0 0) ∧
    s.jobAt 0 = (s.pcore (pcOf 0 0)).jobreg.toNat ∧ 0 ∈ s.carriedBy 0 ∧ mapVac ((s.pclu 0).map.getD 0 0) = false ∧
    mapVac ((v.pclu 0).map.getD 0 0) = true ∧ (∀ y ∈ v.pclus, y.1 = 0) ∧ (∀ y ∈ (v.pclu 0).map, y.1 = 0) ∧
    (∃ y ∈ (taken.pclu 0).map, y.1 ≠ 0 ∧ mapV y.2 = true ∧ mapPcl y.2 = mapPcl vac ∧ mapG y.2 = mapG vac) ∧
    (let d : State := (taken.modPClu 1 fun p => { p with map := [(0, mapEntry 1 0 0)] }).modPCore (pcOf 1 0) fun q => { q with jobreg := 1 }
     ∃ y ∈ d.pclus, d.jobAt y.1 = d.jobAt 0 ∧ d.carriedBy y.1 ≠ [] ∧ (d.pclu y.1).map.getD 0 0 ≠ vac) ∧
    leaves.leaving 0 = [(0, vac)] ∧ leaves.still 1 0 [0] [0, 1, 2, 3, 4, 5, 6, 7] = true ∧
    (mine fun t => { t with landings := [⟨0, 8, [], 0⟩] }).still 1 0 [0] [0] = false ∧ leaves.jobAt 0 = 1 ∧ leaves.canonical ∧ 4 ≤ (leaves.job 1).w ∧
    (leaves.job 1).w % 4 = 0 ∧ (leaves.job 1).links = [] ∧ (∀ o < saveSize (leaves.job 1).foot, (leaves.dev.slice (0x10000 + o)).isSome = true) ∧
    (leaves.core 1 0).threads.get? 0 ≠ none ∧ v.canonical ∧ (v.core 1 0).threads.get? 0 ≠ none ∧ 0 ∈ v.pclus.map Prod.fst ∧
    (∀ m < 8, (v.core 1 ((v.job 1).lcnOf 0 m)).saved = some {}) ∧ ({} : SavedCore).waits = [] := by
  intro s vac leaves v taken
  have window : ∀ o < saveSize (leaves.job 1).foot, (leaves.dev.slice (0x10000 + o)).isSome = true := fun o h => by
    have size : saveSize (leaves.job 1).foot < 2 ^ 29 := by decide
    exact windowed_slice _ _ (by omega)
  and_intros
  all_goals first | exact window | decide

/-! #### Jobs from outside -/

/-- Host memory with a linked image at 0x1000 (a code section of one line and a descriptor of a 4 x 2 job, from the field
tables of R74, R75 and R80), and one launch entry of R389 at 0x800. -/
def hostImage : Memory :=
  [(0x800, 8, 0x1000), (0x1000, 4, 0x534B4F46), (0x1004, 2, 1), (0x1006, 2, 64), (0x1008, 4, 2), (0x1010, 8, 64), (0x1018, 2, 4), (0x101A, 2, 48),
    (0x101C, 4, 3), (0x1020, 8, 705), (0x1028, 4, 0x1600),
    (0x1074, 2, 1), (0x1076, 2, 0xFFFF), (0x1078, 8, 0x10000), (0x1080, 8, 256), (0x1088, 8, 48), (0x1090, 4, 48),
    (0x10A4, 2, 7), (0x10A6, 2, 0xFFFF), (0x10B0, 8, 320), (0x10B8, 8, 384), (0x10C0, 4, 1),
    (0x10D4, 2, 10), (0x10D6, 2, 0xFFFF), (0x10E0, 8, 704), (0x10E8, 8, 1), (0x10F0, 4, 1),
    (0x1140, 8, 0x10000), (0x1148, 2, 4), (0x114A, 2, 2), (0x114C, 1, 1), (0x1150, 4, 64)].foldl (fun m (a, n, v) => m.writeNat a n v) []

/-- A booted device whose first virtual function has that entry, and a place in its completion queue or none. -/
def hosted (cq : Word) : State :=
  { State.reset with host := hostImage, dev := { State.reset.dev with booted := true, vfs := [(1, { lqbase := 0x800, lqsize := 16, cqbase := 0x8000, cqsize := cq })] } }

/-- With no signature section, the image passes but for a tenant that demands one (R84). -/
theorem hosted_image : imageFault ((hosted 0).fileAt 0x1000) 1 = if Config.demandsSignature 1 then some 2 else none := by
  have h : (headerOk ((hosted 0).fileAt 0x1000) && tableOk ((hosted 0).fileAt 0x1000)) = true := by decide +kernel
  have g : (readSecs ((hosted 0).fileAt 0x1000)).find? (fun x => x.type == 12) = none := by decide +kernel
  have d : descOk ((hosted 0).fileAt 0x1000) = true := by decide +kernel
  have b : blocksOk ((hosted 0).fileAt 0x1000) = true := by decide +kernel
  unfold imageFault sigOk
  rw [h, g, d, b]
  cases Config.demandsSignature 1 <;> rfl

/-- That job as posted. -/
def posted : State := { hosted 16 with jobs := [(1, { st := .posted, image := 0x1000, w := 4, h := 2, foot := 64, entry := 0x10000, tenant := 1 })] }

/-- A plan of a launch: one frame for the code, tables behind it, cycle 7. -/
def frames : LaunchPlan := ⟨0x10000, 0x20000, [], 0, 7⟩

/-- What that plan makes of the image: its pages, and the place after the last table. -/
def loaded (s : State) := s.loadImage (posted.fileAt 0x1000) (readSecs (posted.fileAt 0x1000)) frames

/-- Entering a page takes at most one table a level. -/
theorem mapBelow_next (va pte fuel base : Nat) (s : State) (n : Nat) :
    n ≤ (State.mapBelow va pte fuel base s n).2 ∧ (State.mapBelow va pte fuel base s n).2 ≤ n + 512 * fuel := by
  induction fuel generalizing base s n with
  | zero => exact ⟨Nat.le_refl n, Nat.le_refl n⟩
  | succ f ih =>
    simp only [State.mapBelow]
    split
    · exact ⟨Nat.le_refl n, Nat.le_add_right n _⟩
    · split
      · have := ih (s.poolNat (base + 8 * (va / 2 ^ (42 - 6 * (5 - f)) % 64)) 8 / 512 % 2 ^ 43 * 512) s n
        omega
      · have := ih n ((s.clearTable n).poolStore (base + 8 * (va / 2 ^ (42 - 6 * (5 - f)) % 64)) 8 (n / 512 * 512 + 1)) (n + 512)
        omega

theorem mapPages_next (root : Nat) (ps : List (Nat × Nat × BitVec 4)) (x : State × Nat) :
    x.2 ≤ (State.mapPages root ps x).2 ∧ (State.mapPages root ps x).2 ≤ x.2 + 3072 * ps.length := by
  induction ps generalizing x with
  | nil => exact ⟨Nat.le_refl _, Nat.le_refl _⟩
  | cons y ps ih =>
    have h := mapBelow_next y.1 (y.2.1 / 4096 % 2 ^ 40 * 4096 + y.2.2.toNat * 4 + 3) 6 root x.1 x.2
    have i := ih (State.mapBelow y.1 (y.2.1 / 4096 % 2 ^ 40 * 4096 + y.2.2.toNat * 4 + 3) 6 root x.1 x.2)
    simp only [State.mapPages, List.foldl_cons, List.length_cons] at i ⊢
    omega

/-- The tables of an image end behind their first. -/
theorem loadImage_next (s : State) (r : Nat → Byte) (l : List Sec) (p : LaunchPlan) : let x := s.loadImage r l p
    p.tables + 512 ≤ x.2.2 ∧ x.2.2 ≤ p.tables + 512 + 3072 * (x.2.1 ++ p.extra).length :=
  mapPages_next p.tables _ (_, p.tables + 512)

theorem loaded_pages (s : State) : (loaded s).2.1 = [(0x10000, 0x10000, 0b0101)] := by
  have l : (readSecs (posted.fileAt 0x1000)).filter (fun x => x.type ≤ 3) = [⟨0, 1, 0xFFFF, 0x10000, 256, 48, 48, 0, 0⟩] := by decide +kernel
  simp only [loaded, State.loadImage, l]
  rfl

theorem loaded_tables (t : State) : 0x20000 ≤ (loaded t).2.2 ∧ (loaded t).2.2 ≤ 0x21000 := by
  have e : 0x20000 + 512 ≤ (loaded t).2.2 ∧ (loaded t).2.2 ≤ 0x20000 + 512 + 3072 * ((loaded t).2.1 ++ []).length :=
    loadImage_next t (posted.fileAt 0x1000) (readSecs (posted.fileAt 0x1000)) frames
  rw [loaded_pages] at e
  simp only [List.length_append, List.length_cons, List.length_nil] at e
  omega

/-- That plan serves where a window holds its frame and tables. -/
theorem plan_serves (s t : State) (h : s.jobs = posted.jobs) : (windowed s).planOk 1 frames (loaded t).2.1 (loaded t).2.2 = true := by
  have n := loaded_tables t
  rw [loaded_pages]
  generalize (loaded t).2.2 = m at n ⊢
  have tables : ((List.range ((m - 0x20000) / 512)).all fun i => ((windowed s).dev.slice (0x20000 + 512 * i)).isSome) = true := by
    simp only [List.all_eq_true, List.mem_range]
    exact fun i hi => windowed_slice _ _ (by omega)
  have frame : ((windowed s).dev.slice 0x10000).isSome = true := windowed_slice _ _ (by norm_num)
  have job : (windowed s).job 1 = posted.job 1 := congrArg (fun m => m.getD 1 {}) h
  have jobs : (windowed s).jobs = [(1, posted.job 1)] := h
  have args : (posted.job 1).argPages = [] := by decide
  have apart : rangesApart [(0x20000, m - 0x20000), (0x10000, 4096)] = true := by
    simp [rangesApart, rangesMeet]
  simp only [State.planOk, frames, List.map_cons, List.map_nil, List.append_nil, List.all_cons, List.all_nil, tables, frame, job, jobs, args, apart]
  simp [List.nodup_cons]

theorem posted_refuses (ps : List (Nat × Nat × BitVec 4)) (n : Nat) (h : ps ≠ []) : posted.planOk 1 frames ps n = false := by
  have none_ (a : Nat) : posted.dev.slice a = none := by
    have w (i : Nat) : posted.dev.windowSlice a i = none := by
      have z : posted.dev.win0.getD i 0 = 0 ∧ posted.dev.win1.getD i 0 = 0 := ⟨rfl, rfl⟩
      have f : bitsOf (0 : Word) 0 22 = 0 ∧ bitsOf (0 : Word) 30 22 = 0 ∧ bitsOf (0 : Word) 22 2 = 0 := by decide
      simp only [Device.windowSlice, z, f]
      split <;> rfl
    simp only [Device.slice, w]
    rfl
  match ps, h with
  | _ :: _, _ => simp [State.planOk, none_]

/-- JobsFromOutside: a booted device with an entry, whose image fails at once (all zeros) or passes; a job that fits, with a plan
that serves and one that does not; one past its waiting limit that does not fit; jobs that end in each way; and a pending
handle of a job that is terminated. -/
theorem witness_JobsFromOutside :
    let f := (hosted 0).dev.vfs.getD 1 {}
    let r := (hosted 0).fileAt 0x1000
    let blank : State := { hosted 0 with host := [] }
    let big : Job := { st := .posted, w := 40, h := 42 }
    let late : State := { State.reset with cyc := 10, jobs := [(2, big)], dev := { State.reset.dev with waitlim := [(0, 9)] } }
    let open_ : State := windowed posted
    let access : Access := {
      id := 7, own := me, pc := 0x10000, kind := .store, t := .n64, size := 8, vec := false, rx := false, lat := 16
      posted := true, dst := none, fseq := 0, parts := [] }
    let full (s : State) : State := { s with dev := { s.dev with vfs := [(1, { cqsize := 4, cqbase := 0x8000 })] } }
    let e : State := full (base.modJob 1 fun b => { b with st := .ending, status := 5 })
    let done : State := full ((List.range 8).foldl (fun s n => s.modThread ⟨1, n, 0⟩ fun t => { t with st := .free }) base)
    let p := mine fun t => { t with handles := [(1, ⟨0, .copyGather, 3, 0x10000, false, false, none, none⟩)] }
    (posted.planOk 1 frames (loaded posted).2.1 (loaded posted).2.2 = false ∧ open_.planOk 1 frames (loaded open_).2.1 (loaded open_).2.2 = true ∧
      ∀ x y, (⟨0, .copyGather, 3, 0x10000, false, false, none, none⟩ : HEntry).kind ≠ .product x y) ∧
    State.reset.dev.booted = false ∧ (hosted 0).dev.booted = true ∧ 16 ≤ f.lqsize.toNat ∧ f.lqhead < f.lqsize.toNat ∧ f.nextid < 2 ^ 28 ∧
    (f.lqhead + 1) % f.lqsize.toNat = (1 : Word).toNat % f.lqsize.toNat ∧ (hosted 0).jobs.get? (0 * 2 ^ 28 + f.nextid) = none ∧
    imageFault (blank.fileAt 0) 1 = some 1 ∧ (hosted 0).dev.completions = [] ∧ f.room = false ∧
    leNat ((List.range 8).map fun i => (hosted 0).host.read (0x800 + i)) = 0x1000 ∧
    ((readSecs r).find? fun x => x.type == 7).isSome = true ∧ ((readSecs r).find? fun x => x.type == 1).isSome = true ∧
    ((readDesc r 320).pred.all fun p => p == 0) = true ∧ posted.fileAt 0x1000 0 = 0x46 ∧
    posted.firstFit posted.queueOrder = some (1, 0) ∧ (1 : Nat) ≠ 2 ∧
    open_.firstFit open_.queueOrder = some (1, 0) ∧ 4 ≤ (posted.job 1).w ∧ (posted.job 1).w % 4 = 0 ∧ 2 ≤ (posted.job 1).h ∧
    (posted.job 1).h % 2 = 0 ∧ (readDesc r 320).flags.testBit 2 = false ∧ (posted.job 1).st = .posted ∧ posted.blocking = none ∧
    (late.job 2).st = .posted ∧ late.blocking = some (2, big) ∧ late.placement big = none ∧ late.overdue big = true ∧ base.lowerAt 0 0 = false ∧
    e.canonical ∧ e.dev.completions = [] ∧ (e.dev.vfs.getD 1 {}).room = true ∧ (e.job 1).st = .ending ∧ (e.job 1).cores ≠ [] ∧
    e.jobAt 0 = 1 ∧ 0 ∈ e.pclus.map Prod.fst ∧
    done.canonical ∧ (done.job 1).st = .running ∧ (done.job 1).controlsDone = true ∧ done.liveThreads 1 = [] ∧ done.opsLeft 1 = false ∧ done.accessesLeft 1 = false ∧
    (({ done with accs := [(7, access)] } : State).accessesLeft 1 = true) ∧
    base.liveThreads 1 ≠ [] ∧ (base.job 1).controlsDone = false ∧ (base.job 1).st = .running ∧ (e.job 1).st ≠ .running ∧
    (p.job 1).st = .running ∧ (p.job 1).links = [] ∧ (p.thread me).handles.get? 1 = some ⟨0, .copyGather, 3, 0x10000, false, false, none, none⟩ ∧
    (let h : HEntry := ⟨0, .copyGather, 3, 0x10000, false, false, none, none⟩
     h.passed = false ∧ h.discarded = false ∧ h.word = none ∧ h.reg ≠ 0 ∧ h.kind ≠ .start ∧ h.kind ≠ .send ∧ h.kind ≠ .value) := by
  intro f r blank big late open_ access full e done p
  have kind : ∀ x y, (⟨0, .copyGather, 3, 0x10000, false, false, none, none⟩ : HEntry).kind ≠ .product x y := fun x y h => by cases h
  have serves : open_.planOk 1 frames (loaded open_).2.1 (loaded open_).2.2 = true := plan_serves posted open_ rfl
  have refuses := posted_refuses (loaded posted).2.1 (loaded posted).2.2 (by rw [loaded_pages]; exact List.cons_ne_nil _ _)
  refine ⟨⟨refuses, serves, kind⟩, ?_⟩
  and_intros
  all_goals first
    | exact canonical_of (by decide +kernel)
    | decide +kernel

/-- Outside: firmware below the rollback counter; samples over, far under and near the ceiling, for the first and for the
sixteenth time; offsets of each register; locked and fixed ones; bindings that are refused for each reason, meet, or are
there; links that are open and not; and flits of this device and of another, for this one and beyond. What a signature check answers is open (log 9), so that no state here shows firmware that verifies. -/
theorem witness_Outside :
    let d := base.dev
    let old : Device := { d with rollback := 1, fwVersion := 0 }
    let fixed : Device := { d with fixed := true, route := [(5, 0x80)], win0 := [(2, 0x80000000)], peeren := 1, bindCmd := some (1, 5, 9) }
    let w : State := { base with dev := { fixed with bstat := 1, bpdev := 5, bpjob := 9, bljob := 1 } }
    let b : State := w.modJob 1 fun b => { b with bound := [(5, 9)], groups := [(0, ⟨0, 0, 0, 1, 1, 0, [5], [], [], [(0, { cons := [(0, gives me)] })]⟩)] }
    let flit (dev : Nat) (foreign : Bool) : Flit := { (default : Flit) with sender := me, dst := BitVec.ofNat 64 (dev * 2 ^ 36), src := if foreign then 0x4000000000000 else 0 }
    decide (old.rollback ≤ old.fwVersion) = false ∧ decide (d.rollback ≤ d.fwVersion) = true ∧
    min 3400 d.pcap.toNat = 3400 ∧ (3400 : Nat) < 3401 ∧ (3229 : Nat) * 100 < 3400 * 95 ∧ ¬((3230 : Nat) * 100 < 3400 * 95) ∧
    d.low ≠ 15 ∧ ({ d with low := 15 } : Device).low = 15 ∧ base.jobs.get? 1 = some (base.job 1) ∧ (base.job 1).st = .running ∧
    (base.thread me).st ≠ .free ∧ fixed.fixed = true ∧ d.fixed = false ∧ (fixed.win0.getD ((0x128 - 0x100) / 16) 0).getLsbD 31 = true ∧
    (d.win0.getD ((0x1F8 - 0x100) / 16) 0).getLsbD 31 = false ∧ 0x1F8 % 8 = 0 ∧ 0x1F8 % 16 = 8 ∧ 0x1F0 % 16 = 0 ∧ d.completions = [] ∧
    base.jobs.get? 7 = none ∧ (d.route.getD 5 0).getLsbD 7 = false ∧ (w.dev.route.getD 5 0).getLsbD 7 = true ∧
    w.jobs.get? 1 ≠ none ∧ (w.job 1).st ≠ .ended ∧ (w.job 1).st ≠ .ending ∧ (w.job 1).bound = [] ∧ (5, 9) ∈ (b.job 1).bound ∧
    w.dev.bstat = 1 ∧ w.dev.bpdev.toNat = 5 ∧ w.dev.bpjob.toNat = 9 ∧ w.dev.bljob.toNat = 1 ∧ (w.job 1).tenant ≠ 20 ∧ d.bstat ≠ 1 ∧
    (∃ x ∈ (b.job 1).groups, 5 ∈ x.2.devs ∧ ∃ o ∈ x.2.ops, ∃ y ∈ o.2.cons, y.1 ∉ o.2.resolved) ∧
    w.dev.bindCmd = some (1, 5, 9) ∧ d.bindCmd = none ∧ (w.job 1).tenant = (base.job 1).tenant ∧ d.bootFail = false ∧
    ({ d with bootFail := true } : Device).bootFail = true ∧ w.dev.linkTo 5 = some 0 ∧ d.linkTo 5 = none ∧
    dstDev (flit 5 false).dst = 5 ∧ (flit 5 false).foreign = false ∧ (flit 5 true).foreign = true ∧ (flit 5 false).sender.job = 1 ∧
    dstDev (flit 0 true).dst = d.devid.toNat ∧ dstDev (flit 5 true).dst ≠ d.devid.toNat := by
  intro d old fixed w b flit
  and_intros
  all_goals decide

end Sys2Proof.Tests
end

/-!
PROOFS. No instruction, no step of the agenda and no step of the machine ends in a fault or a refusal (R6), so that no run
does: obligations O9 and O10.
-/

namespace Sys2Proof.Machine

/-! ### Instructions and steps of the table -/

/-- An instruction with a guard does what its meaning says, or passes on (R41); either is a next state. -/
theorem exec_answers_next_of_guard (i : Instr) (g : Gd) (s : State) (hg : i.guard? = some g) :
    ∃ t, exec i s = .next t := by
  obtain ⟨f, hf⟩ := exec_guarded i g s hg
  exact ⟨_, hf⟩

/-- Every constructor answers a next state. First the steps of units that have one outcome; then those that branch, with
one goal for each branch of the meaning, which shows the next state that the branch answers; last the instructions of
threads, all of which stand under a guard. -/
theorem exec_answers_next (i : Instr) (s : State) : ∃ t, exec i s = .next t := by
  cases i with
  | illegalInstruction | resultLands | starvationToken | remoteAccess | feRetry | barsetRequest | barrierRelease |
    engineEnqueue | spanKstep | spanEmulKstep | pcfgApply | pplanRun | ddEnqueue | ddExecute | stateResend |
    tqackServe | tqackRefuse | tenantWrite | coreRegWrite | bcmdBind | bcmdUnbind | peeren | attestationReport |
    governorSample | thermalTrip | peerBindingDrop => exact ⟨_, rfl⟩
  | lineDelivery => simp only [exec]; fun_cases execLineDelivery <;> exact ⟨_, rfl⟩
  | sleepExpiry => simp only [exec]; fun_cases execSleepExpiry <;> exact ⟨_, rfl⟩
  | syncfRelease => simp only [exec]; fun_cases execSyncfRelease <;> exact ⟨_, rfl⟩
  | packetForward => simp only [exec]; fun_cases execPacketForward <;> exact ⟨_, rfl⟩
  | accessResponse => simp only [exec]; fun_cases execAccessResponse <;> exact ⟨_, rfl⟩
  | translationWalk => simp only [exec]; fun_cases execTranslationWalk <;> exact ⟨_, rfl⟩
  | storeFaultRecord => simp only [exec]; fun_cases execStoreFaultRecord <;> exact ⟨_, rfl⟩
  | waitmTimeout => simp only [exec]; fun_cases execWaitmTimeout <;> exact ⟨_, rfl⟩
  | transRequest => simp only [exec]; fun_cases execTransRequest <;> exact ⟨_, rfl⟩
  | transResult => simp only [exec]; fun_cases execTransResult <;> exact ⟨_, rfl⟩
  | barrierArrival => simp only [exec]; fun_cases execBarrierArrival <;> exact ⟨_, rfl⟩
  | barrierVerdict => simp only [exec]; fun_cases execBarrierVerdict <;> exact ⟨_, rfl⟩
  | flitArrival => simp only [exec]; fun_cases execFlitArrival <;> exact ⟨_, rfl⟩
  | flitResend => simp only [exec]; fun_cases execFlitResend <;> exact ⟨_, rfl⟩
  | sendAck => simp only [exec]; fun_cases execSendAck <;> exact ⟨_, rfl⟩
  | trecvTimeout => simp only [exec]; fun_cases execTrecvTimeout <;> exact ⟨_, rfl⟩
  | hangSample => simp only [exec]; fun_cases execHangSample <;> exact ⟨_, rfl⟩
  | copyChunk => simp only [exec]; fun_cases execCopyChunk <;> exact ⟨_, rfl⟩
  | copyResolve => simp only [exec]; fun_cases execCopyResolve <;> exact ⟨_, rfl⟩
  | gatherBatch => simp only [exec]; fun_cases execGatherBatch <;> exact ⟨_, rfl⟩
  | gatherResolve => simp only [exec]; fun_cases execGatherResolve <;> exact ⟨_, rfl⟩
  | cancelRequest => simp only [exec]; fun_cases execCancelRequest <;> exact ⟨_, rfl⟩
  | adoptRequest => simp only [exec]; fun_cases execAdoptRequest <;> exact ⟨_, rfl⟩
  | adoptReply => simp only [exec]; fun_cases execAdoptReply <;> exact ⟨_, rfl⟩
  | handleCompletion => simp only [exec]; fun_cases execHandleCompletion <;> exact ⟨_, rfl⟩
  | spanArrival => simp only [exec]; fun_cases execSpanArrival <;> exact ⟨_, rfl⟩
  | spanSlotTake => simp only [exec]; fun_cases execSpanSlotTake <;> exact ⟨_, rfl⟩
  | spanPortRead => simp only [exec]; fun_cases execSpanPortRead <;> exact ⟨_, rfl⟩
  | spanPromote => simp only [exec]; fun_cases execSpanPromote <;> exact ⟨_, rfl⟩
  | spanDeliver => simp only [exec]; fun_cases execSpanDeliver <;> exact ⟨_, rfl⟩
  | spanDoneWord => simp only [exec]; fun_cases execSpanDoneWord <;> exact ⟨_, rfl⟩
  | spanResolve => simp only [exec]; fun_cases execSpanResolve <;> exact ⟨_, rfl⟩
  | spanDeliveryStop => simp only [exec]; fun_cases execSpanDeliveryStop <;> exact ⟨_, rfl⟩
  | pplanResolve => simp only [exec]; fun_cases execPplanResolve <;> exact ⟨_, rfl⟩
  | ddResolve => simp only [exec]; fun_cases execDdResolve <;> exact ⟨_, rfl⟩
  | castAccess => simp only [exec]; fun_cases execCastAccess <;> exact ⟨_, rfl⟩
  | cueArm => simp only [exec]; fun_cases execCueArm <;> exact ⟨_, rfl⟩
  | cueCommit => simp only [exec]; fun_cases execCueCommit <;> exact ⟨_, rfl⟩
  | recordFrameArrival => simp only [exec]; fun_cases execRecordFrameArrival <;> exact ⟨_, rfl⟩
  | frameResend => simp only [exec]; fun_cases execFrameResend <;> exact ⟨_, rfl⟩
  | bindToken => simp only [exec]; fun_cases execBindToken <;> exact ⟨_, rfl⟩
  | openToken => simp only [exec]; fun_cases execOpenToken <;> exact ⟨_, rfl⟩
  | unbindToken => simp only [exec]; fun_cases execUnbindToken <;> exact ⟨_, rfl⟩
  | cueFailReturn => simp only [exec]; fun_cases execCueFailReturn <;> exact ⟨_, rfl⟩
  | stateTransfer => simp only [exec]; fun_cases execStateTransfer <;> exact ⟨_, rfl⟩
  | redCombine => simp only [exec]; fun_cases execRedCombine <;> exact ⟨_, rfl⟩
  | redBroadcast => simp only [exec]; fun_cases execRedBroadcast <;> exact ⟨_, rfl⟩
  | redResolve => simp only [exec]; fun_cases execRedResolve <;> exact ⟨_, rfl⟩
  | vacateResolve => simp only [exec]; fun_cases execVacateResolve <;> exact ⟨_, rfl⟩
  | resumeResolve => simp only [exec]; fun_cases execResumeResolve <;> exact ⟨_, rfl⟩
  | jobLaunch => simp only [exec]; fun_cases execJobLaunch <;> exact ⟨_, rfl⟩
  | waitlimExpiry => simp only [exec]; fun_cases execWaitlimExpiry <;> exact ⟨_, rfl⟩
  | lqtail => simp only [exec]; fun_cases execLqtail <;> exact ⟨_, rfl⟩
  | jobCompletion => simp only [exec]; fun_cases execJobCompletion <;> exact ⟨_, rfl⟩
  | peerBindMatch => simp only [exec]; fun_cases execPeerBindMatch <;> exact ⟨_, rfl⟩
  | pf0RegWrite => simp only [exec]; fun_cases execPf0RegWrite <;> exact ⟨_, rfl⟩
  | peerForward => simp only [exec]; fun_cases execPeerForward <;> exact ⟨_, rfl⟩
  | boot => simp only [exec]; fun_cases execBoot <;> exact ⟨_, rfl⟩
  | jobTermination => simp only [exec]; fun_cases execJobTermination <;> exact ⟨_, rfl⟩
  | _ => exact exec_answers_next_of_guard _ _ s rfl

/-! ### Steps of the agenda -/

/-- A step of the agenda is the meaning of the constructor of its name (log 1), so that what holds of `exec` for every
instruction and state holds of every entry of the agenda. -/
theorem runEvent_is_exec : ∀ e : Event, ∃ i, ∀ s, runEvent e s = exec i s
  | .resultLands w id => ⟨.resultLands w id, fun _ => rfl⟩
  | .lineDelivery pcl line slice => ⟨.lineDelivery pcl ⟨line, slice⟩, fun _ => rfl⟩
  | .sleepExpiry w stamp => ⟨.sleepExpiry w stamp, fun _ => rfl⟩
  | .syncfRelease w stamp => ⟨.syncfRelease w stamp, fun _ => rfl⟩
  | .packetForward pid buffered => ⟨.packetForward ⟨pid, buffered⟩, fun _ => rfl⟩
  | .starvationToken router port => ⟨.starvationToken router port, fun _ => rfl⟩
  | .remoteAccess aid part => ⟨.remoteAccess aid part, fun _ => rfl⟩
  | .accessResponse aid part => ⟨.accessResponse aid part, fun _ => rfl⟩
  | .translationWalk wid => ⟨.translationWalk wid, fun _ => rfl⟩
  | .storeFaultRecord aid part => ⟨.storeFaultRecord aid part, fun _ => rfl⟩
  | .feRetry aid part => ⟨.feRetry aid part, fun _ => rfl⟩
  | .waitmTimeout w stamp => ⟨.waitmTimeout w stamp, fun _ => rfl⟩
  | .transRequest rid => ⟨.transRequest rid, fun _ => rfl⟩
  | .transResult rid => ⟨.transResult rid, fun _ => rfl⟩
  | .barrierArrival w n wait d => ⟨.barrierArrival w n wait d, fun _ => rfl⟩
  | .barsetRequest w n count => ⟨.barsetRequest w n count, fun _ => rfl⟩
  | .barrierVerdict w n ok ph wait => ⟨.barrierVerdict w n ok ph wait, fun _ => rfl⟩
  | .barrierRelease job clu n ws => ⟨.barrierRelease job clu n ws, fun _ => rfl⟩
  | .flitArrival f => ⟨.flitArrival f, fun _ => rfl⟩
  | .flitResend f => ⟨.flitResend f, fun _ => rfl⟩
  | .sendAck f dead => ⟨.sendAck f dead, fun _ => rfl⟩
  | .trecvTimeout w stamp => ⟨.trecvTimeout w stamp, fun _ => rfl⟩
  | .hangSample job => ⟨.hangSample job, fun _ => rfl⟩
  | .engineEnqueue op => ⟨.engineEnqueue op, fun _ => rfl⟩
  | .copyChunk job clu id req => ⟨.copyChunk job clu ⟨id, req⟩, fun _ => rfl⟩
  | .copyResolve job clu id => ⟨.copyResolve job clu id, fun _ => rfl⟩
  | .gatherBatch job clu id req => ⟨.gatherBatch job clu ⟨id, req⟩, fun _ => rfl⟩
  | .gatherResolve job clu id => ⟨.gatherResolve job clu id, fun _ => rfl⟩
  | .cancelRequest h => ⟨.cancelRequest h, fun _ => rfl⟩
  | .adoptRequest w d id => ⟨.adoptRequest w d id, fun _ => rfl⟩
  | .adoptReply w d id r => ⟨.adoptReply w d id r, fun _ => rfl⟩
  | .handleCompletion h c flags => ⟨.handleCompletion h c flags, fun _ => rfl⟩
  | .spanArrival a => ⟨.spanArrival a, fun _ => rfl⟩
  | .spanSlotTake job link pid => ⟨.spanSlotTake job link pid, fun _ => rfl⟩
  | .spanPortRead job link pid lead => ⟨.spanPortRead job link pid lead, fun _ => rfl⟩
  | .spanKstep job link pid => ⟨.spanKstep job link pid, fun _ => rfl⟩
  | .spanEmulKstep job link pid => ⟨.spanEmulKstep job link pid, fun _ => rfl⟩
  | .spanPromote job link pid => ⟨.spanPromote job link pid, fun _ => rfl⟩
  | .spanDeliver job link pid req => ⟨.spanDeliver job link ⟨pid, req⟩, fun _ => rfl⟩
  | .spanDoneWord job link pid => ⟨.spanDoneWord job link pid, fun _ => rfl⟩
  | .spanResolve job link pid => ⟨.spanResolve job link pid, fun _ => rfl⟩
  | .spanDeliveryStop job link pid => ⟨.spanDeliveryStop job link pid, fun _ => rfl⟩
  | .pcfgApply w adr blk => ⟨.pcfgApply w adr blk, fun _ => rfl⟩
  | .pplanRun job clu => ⟨.pplanRun job clu, fun _ => rfl⟩
  | .pplanResolve job clu => ⟨.pplanResolve job clu, fun _ => rfl⟩
  | .ddEnqueue e => ⟨.ddEnqueue e, fun _ => rfl⟩
  | .ddExecute job clu => ⟨.ddExecute job clu, fun _ => rfl⟩
  | .ddResolve job clu e c flags => ⟨.ddResolve job clu e c flags, fun _ => rfl⟩
  | .castAccess w r => ⟨.castAccess w r, fun _ => rfl⟩
  | .cueArm t => ⟨.cueArm t, fun _ => rfl⟩
  | .cueCommit t => ⟨.cueCommit t, fun _ => rfl⟩
  | .recordFrameArrival f => ⟨.recordFrameArrival f, fun _ => rfl⟩
  | .frameResend f => ⟨.frameResend f, fun _ => rfl⟩
  | .bindToken t => ⟨.bindToken t, fun _ => rfl⟩
  | .openToken t => ⟨.openToken t, fun _ => rfl⟩
  | .unbindToken u t cue => ⟨.unbindToken u t cue, fun _ => rfl⟩
  | .cueFailReturn t => ⟨.cueFailReturn t, fun _ => rfl⟩
  | .stateTransfer x => ⟨.stateTransfer x, fun _ => rfl⟩
  | .stateResend x => ⟨.stateResend x, fun _ => rfl⟩
  | .redCombine job grp k node src msg => ⟨.redCombine job grp k node ⟨src, msg⟩, fun _ => rfl⟩
  | .redBroadcast job grp k node msg => ⟨.redBroadcast job grp k ⟨node, msg⟩, fun _ => rfl⟩
  | .redResolve job grp k node => ⟨.redResolve job grp k node, fun _ => rfl⟩
  | .vacateResolve h pcl vbase => ⟨.vacateResolve h pcl vbase, fun _ => rfl⟩
  | .resumeResolve h clu pcl vbase => ⟨.resumeResolve h clu pcl vbase, fun _ => rfl⟩
  | .tqackServe pc ent => ⟨.tqackServe pc ent, fun _ => rfl⟩
  | .tqackRefuse pc ent => ⟨.tqackRefuse pc ent, fun _ => rfl⟩
  | .tenantWrite pc v => ⟨.tenantWrite pc v, fun _ => rfl⟩
  | .coreRegWrite pc off v => ⟨.coreRegWrite pc off v, fun _ => rfl⟩
  | .jobLaunch job p => ⟨.jobLaunch job p, fun _ => rfl⟩
  | .waitlimExpiry job => ⟨.waitlimExpiry job, fun _ => rfl⟩
  | .lqtail vf tail => ⟨.lqtail vf tail, fun _ => rfl⟩
  | .jobCompletion job => ⟨.jobCompletion job, fun _ => rfl⟩
  | .bcmdBind => ⟨.bcmdBind, fun _ => rfl⟩
  | .bcmdUnbind => ⟨.bcmdUnbind, fun _ => rfl⟩
  | .peerBindMatch dev peerJob localJob tenant => ⟨.peerBindMatch dev peerJob localJob tenant, fun _ => rfl⟩
  | .peeren v => ⟨.peeren v, fun _ => rfl⟩
  | .pf0RegWrite fn off v => ⟨.pf0RegWrite fn off v, fun _ => rfl⟩
  | .peerForward f => ⟨.peerForward f, fun _ => rfl⟩
  | .attestationReport nonce => ⟨.attestationReport nonce, fun _ => rfl⟩
  | .boot => ⟨.boot, fun _ => rfl⟩
  | .governorSample watts => ⟨.governorSample watts, fun _ => rfl⟩
  | .thermalTrip => ⟨.thermalTrip, fun _ => rfl⟩
  | .jobTermination job status cause => ⟨.jobTermination job status cause, fun _ => rfl⟩
  | .peerBindingDrop dev localJob => ⟨.peerBindingDrop dev localJob, fun _ => rfl⟩

theorem runEvent_answers_next (e : Event) (s : State) : ∃ t, runEvent e s = .next t := by
  obtain ⟨i, hi⟩ := runEvent_is_exec e
  obtain ⟨t, ht⟩ := exec_answers_next i s
  exact ⟨t, (hi s).trans ht⟩

/-! ### Steps and runs of the machine -/

theorem afterNext_next (s : State) (f : State → State) : afterNext (.next s) f = .next (f s) := rfl

/-- The slot of a core is idle, or it executes the instruction that issues and what follows an issue. -/
theorem coreStep_answers_next (pc : Nat) (s : State) : ∃ t, coreStep pc s = .next t := by
  fun_cases coreStep pc s with
  | case1 t _ => exact ⟨t, rfl⟩
  | case2 w x t _ =>
    obtain ⟨u, hu⟩ := exec_answers_next (instrOf x) t
    exact ⟨State.afterIssue t u pc w, by rw [hu, afterNext_next]⟩

/-- A step is a due entry of the agenda (before or after the slots), the slot of a core, or the passage to the next cycle. -/
theorem step_answers_next (s : State) : ∃ t, step s = .next t := by
  fun_cases step s with
  | case1 e t _ => exact runEvent_answers_next e t
  | case2 _ pc _ => exact coreStep_answers_next pc { s with scan := pc + 1 }
  | case3 _ _ e t _ => exact runEvent_answers_next e t
  | case4 _ _ _ => exact ⟨s.nextCycle, rfl⟩

/-- A run whose first step answers `t` goes on from `t`. -/
theorem run_succ_of_step (n : Nat) {s t : State} (h : step s = .next t) :
    Host.Core.run Sys2Proof.core (n + 1) s = Host.Core.run Sys2Proof.core n t := by
  have hcore : Sys2Proof.core.step s = .next t := h
  simp only [Host.Core.run, hcore]

theorem run_answers_next (n : Nat) (s : State) : ∃ t, Host.Core.run Sys2Proof.core n s = .next t := by
  induction n generalizing s with
  | zero => exact ⟨s, rfl⟩
  | succ n ih =>
    obtain ⟨t, ht⟩ := step_answers_next s
    obtain ⟨u, hu⟩ := ih t
    exact ⟨u, (run_succ_of_step n ht).trans hu⟩

/-! ### The obligations -/

/-- Settles O9: each branch of each constructor's meaning answers a next state. -/
theorem neverStops : Obligations.NeverStops := exec_answers_next

/-- Settles O10, by induction on the number of steps: every step answers a next state, from which the rest of the run
goes on. -/
theorem runsAreSafe : Obligations.RunsAreSafe := fun s n => run_answers_next n s

end Sys2Proof.Machine

/-!
PROOFS. The order of the steps of a cycle (log 1) and the memories at reset: obligations O8 and O2.
-/

namespace Sys2Proof.Machine

/-! ### The passage to the next cycle (log 1) -/

/-- The clock and the agenda of a state are those of another. -/
def State.sameClock (s t : State) : Prop := t.cyc = s.cyc ∧ t.agenda = s.agenda

/-- A `syncf` that releases its threads changes threads alone. -/
theorem State.syncfCheck_sameClock (s : State) (w : Tid) (p : Word) : s.sameClock (s.syncfCheck w p) := by
  fun_cases State.syncfCheck s w p with
  | case1 => exact List.foldlRecOn _ _ ⟨rfl, rfl⟩ fun _ h _ _ => h
  | case2 => exact ⟨rfl, rfl⟩

/-- The sweep at the end of a cycle (R110) changes threads alone: it is a row of checks. -/
theorem State.syncfSweep_sameClock (s : State) : s.sameClock s.syncfSweep := by
  refine List.foldlRecOn _ _ ⟨rfl, rfl⟩ fun t h x _ => ?_
  dsimp only
  split
  · split
    · obtain ⟨hc, ha⟩ := State.syncfCheck_sameClock t x.1 ‹_›
      exact ⟨hc.trans h.1, ha.trans h.2⟩
    · exact h
  · exact h

/-- In the next cycle the counter is one higher, every core has its slot again, and the agenda is as it was. -/
theorem State.nextCycle_clock (s : State) : s.nextCycle.cyc = s.cyc + 1 ∧ s.nextCycle.scan = 0 ∧ s.nextCycle.agenda = s.agenda := by
  obtain ⟨hc, ha⟩ := s.syncfSweep_sameClock
  unfold State.nextCycle State.takeSlots
  dsimp only
  split
  · exact ⟨congrArg (· + 1) hc, rfl, ha⟩
  · exact ⟨congrArg (· + 1) hc, rfl, ha⟩

/-- A step that is due before the issue of a cycle is due after it too. -/
theorem State.due_false_of_due_true_none (s : State) (h : s.due true = none) : s.due false = none := by
  fun_cases State.due s false with
  | case1 | case3 => rfl
  | case2 p ps hs hp =>
    have hlate : (p.due < s.cyc || (p.due == s.cyc && (true || decide (p.ev.rank < lateRank)))) = true := by
      simp only [Bool.false_or, Bool.or_eq_true, Bool.and_eq_true] at hp
      simpa using hp.imp_right And.left
    simp only [State.due, hs, if_pos hlate, reduceCtorEq] at h

/-! ### The obligations -/

/-- Settles O8: the three cases of a step that no core's slot decides, and what the passage to the next cycle leaves. -/
theorem stepRunsDueStep : Obligations.StepRunsDueStep := by
  intro s
  refine ⟨fun e t h => ?_, fun e t h hn hl => ?_, fun hl hn => ⟨s.nextCycle, ?_, s.nextCycle_clock⟩⟩
  · simp only [step, h]
  · simp only [step, h, hn, hl]
  · simp only [step, s.due_false_of_due_true_none hl, hn, hl]

/-- Settles O2: no memory lists a byte at reset. -/
theorem resetCanonical : Obligations.ResetCanonical :=
  ⟨Memory.wf_nil, Memory.wf_nil, fun _ h => (List.not_mem_nil h).elim⟩

end Sys2Proof.Machine

/-!
PROOFS. Every step keeps the memories of the machine canonical: obligation O3. There is one rule for each operation on the
state and for each meaning of an instruction, in the order of the model's files.
-/

namespace Sys2Proof.Machine

/-! ### Canonical memories: the reasoning rules

Only the pool, host memory and the scratch of the physical cores matter. A lemma `State.canonical.f` says that the operation
`f` keeps the canonical form, so that the proof for an operation made of others reads as the row of operations it makes. -/

section

-- The rules are many and short. Elaborated side by side, each would hold a thread with a stack of its own, and together they
-- would pass the memory that a check may use; so they are taken one after another.
set_option Elab.async false

variable {s t : State}

/-- Whatever leaves the memories and the physical cores as they are keeps the canonical form. -/
theorem State.canonical.frame (h : s.canonical) (hp : t.pool = s.pool := by rfl) (hh : t.host = s.host := by rfl)
    (hc : t.pcores = s.pcores := by rfl) : t.canonical := by
  unfold State.canonical
  rw [hp, hh, hc]
  exact h

/-- The scratch of a physical core, listed or not. -/
theorem State.canonical.pcore (h : s.canonical) (pc : Nat) : (s.pcore pc).mem.wf := by
  unfold State.pcore Map.getD
  cases hq : Map.get? s.pcores pc with
  | none => exact Memory.wf_nil
  | some q => exact h.2.2 _ (Map.mem_of_get? _ _ _ hq)

theorem State.canonical.modPCore (h : s.canonical) {pc : Nat} {f : PCore → PCore}
    (hf : (s.pcore pc).mem.wf → (f (s.pcore pc)).mem.wf := by exact id) : (s.modPCore pc f).canonical := by
  refine ⟨h.1, h.2.1, fun x hx => ?_⟩
  obtain rfl | hx := Map.mem_set _ _ _ _ hx
  · exact hf (h.pcore pc)
  · exact h.2.2 x hx

/-- A change of every physical core that keeps each scratch canonical. -/
theorem State.canonical.mapPCores (h : s.canonical) {f : Nat × PCore → Nat × PCore}
    (hf : ∀ x, x.2.mem.wf → (f x).2.mem.wf) : ({ s with pcores := s.pcores.map f } : State).canonical := by
  refine ⟨h.1, h.2.1, fun x hx => ?_⟩
  obtain ⟨y, hy, rfl⟩ := List.mem_map.1 hx
  exact hf y (h.2.2 y hy)

theorem State.canonical.setPool (h : s.canonical) {m : Memory} {b : List (Nat × Host.Cell)} (hm : m.wf) :
    ({ s with pool := m, poolBuf := b } : State).canonical := ⟨hm, h.2.1, h.2.2⟩

theorem State.canonical.setHost (h : s.canonical) {m : Memory} (hm : m.wf) : ({ s with host := m } : State).canonical :=
  ⟨h.1, hm, h.2.2⟩

theorem State.canonical.ite (h : s.canonical) (h' : t.canonical) {c : Prop} {_ : Decidable c} :
    (if c then s else t).canonical := by
  split
  · exact h
  · exact h'

/-- The same for operations that answer a state beside a result. -/
theorem State.canonical.iteFst {α : Type} {p q : State × α} (h : p.1.canonical) (h' : q.1.canonical) {c : Prop}
    {_ : Decidable c} : (if c then p else q).1.canonical := by
  split
  · exact h
  · exact h'

theorem State.canonical.foldl (h : s.canonical) {α : Type} {f : State → α → State} {l : List α}
    (hf : ∀ t : State, t.canonical → ∀ x, (f t x).canonical) : (l.foldl f s).canonical :=
  List.foldlRecOn l f h fun t ht x _ => hf t ht x

theorem State.canonical.foldlFst {α β : Type} {p : State × β} (h : p.1.canonical) {f : State × β → α → State × β}
    {l : List α} (hf : ∀ q : State × β, q.1.canonical → ∀ x, (f q x).1.canonical) : (l.foldl f p).1.canonical :=
  List.foldlRecOn (motive := fun q => q.1.canonical) l f h fun q hq x _ => hf q hq x

/-- The next state of an outcome, where there is one, has canonical memories. -/
def nextCanonical (o : Host.Outcome State Fault Refusal) : Prop := ∀ t, o = .next t → t.canonical

theorem State.canonical.next (h : s.canonical) : nextCanonical (.next s) := by
  rintro _ ⟨⟩
  exact h

theorem nextCanonical.ite {o o' : Host.Outcome State Fault Refusal} (h : nextCanonical o) (h' : nextCanonical o') {c : Prop}
    {_ : Decidable c} : nextCanonical (if c then o else o') := by
  split
  · exact h
  · exact h'

/-- The state of a result that is known by an equation. -/
theorem State.canonical.of_eq {α : Type} {p : State × α} {x : α} (h : p.1.canonical) (e : p = (t, x)) : t.canonical := by
  rw [e] at h
  exact h

/-! ### The operations on the state -/

theorem State.canonical.modJob (h : s.canonical) {j f} : (s.modJob j f).canonical :=
  h.frame

theorem State.canonical.modCore (h : s.canonical) {j l f} : (s.modCore j l f).canonical :=
  h.modJob

theorem State.canonical.modClu (h : s.canonical) {j c f} : (s.modClu j c f).canonical :=
  h.modJob

theorem State.canonical.modThread (h : s.canonical) {w f} : (s.modThread w f).canonical :=
  h.modCore

theorem State.canonical.modPClu (h : s.canonical) {pcl f} : (s.modPClu pcl f).canonical :=
  h.frame

theorem State.canonical.atCycle (h : s.canonical) {due e} : (s.atCycle due e).canonical :=
  h.frame

theorem State.canonical.later (h : s.canonical) {d e} : (s.later d e).canonical :=
  h.atCycle

theorem State.canonical.drawn (h : s.canonical) : s.drawn.canonical :=
  h.frame

theorem State.canonical.applyWrite (h : s.canonical) {w x2} : (s.applyWrite w x2).canonical := by
  unfold State.applyWrite
  split
  · exact h.ite (h.modThread.ite h.modCore)
  · exact h.modThread.ite h.modCore
  · exact h.ite h.modThread
  · exact h.ite h.modThread
  · exact h.modThread
  · exact h.ite h.modThread

theorem State.canonical.applyWrites (h : s.canonical) {w ws} : (s.applyWrites w ws).canonical :=
  h.foldl fun _ h _ => h.applyWrite

theorem State.canonical.setFlags (h : s.canonical) {w f} : (s.setFlags w f).canonical :=
  h.ite h.modThread

theorem State.canonical.hold (h : s.canonical) {w id rs} : (s.hold w id rs).canonical :=
  h.modThread

theorem State.canonical.release (h : s.canonical) {w id} : (s.release w id).canonical :=
  h.modThread

theorem State.canonical.land (h : s.canonical) {w lat ws fl} : (s.land w lat ws fl).canonical :=
  h.drawn.modThread.hold.later

theorem State.canonical.openWindow (h : s.canonical) {w id la} : (s.openWindow w id la).canonical :=
  h.modThread

theorem State.canonical.landS (h : s.canonical) {w lat d v} : (s.landS w lat d v).canonical :=
  h.land

theorem State.canonical.landLa (h : s.canonical) {w lat la ws fl} : (s.landLa w lat la ws fl).canonical :=
  h.land.openWindow

theorem State.canonical.landNow (h : s.canonical) {w id} : (s.landNow w id).canonical := by
  unfold State.landNow
  split
  · exact h
  · exact h.modThread.applyWrites.setFlags.release

theorem State.canonical.setPc (h : s.canonical) {w a} : (s.setPc w a).canonical :=
  h.modThread

theorem State.canonical.advance (h : s.canonical) {w} : (s.advance w).canonical :=
  h.setPc

theorem State.canonical.jump (h : s.canonical) {w a} : (s.jump w a).canonical :=
  h.modThread

/-- Under a guard an instruction does what its meaning says, or passes on (R41). -/
theorem State.canonical.guarded (h : s.canonical) {g : Gd} {body : State → State} (hb : (body s).canonical) :
    nextCanonical (s.guarded g body) := (hb.ite h.advance).next

theorem State.canonical.park (h : s.canonical) {w k obj timed c} : (s.park w k obj timed c).canonical :=
  h.modThread

theorem State.canonical.unpark (h : s.canonical) {w} : (s.unpark w).canonical :=
  h.modThread

theorem State.canonical.stallFor (h : s.canonical) {w c} : (s.stallFor w c).canonical :=
  h.modThread

theorem State.canonical.unstall (h : s.canonical) {w} : (s.unstall w).canonical :=
  h.modThread

theorem State.canonical.tookTurn (h : s.canonical) {p u c} : (s.tookTurn p u c).canonical :=
  h.modPClu

theorem State.canonical.grant (h : s.canonical) {w k} : (s.grant w k).canonical :=
  h.modThread

theorem State.canonical.spend (h : s.canonical) {w k} : (s.spend w k).canonical :=
  h.modThread

theorem State.canonical.allocEntry (h : s.canonical) {w slot reg k} : (s.allocEntry w slot reg k).canonical :=
  h.modThread

theorem State.canonical.allocHandle (h : s.canonical) {w slot reg k} : (s.allocHandle w slot reg k).canonical :=
  h.modThread

theorem State.canonical.withHandle (h : s.canonical) {w reg k body}
    (hb : ∀ r t, t.canonical → (body r t).canonical) : (s.withHandle w reg k body).canonical := by
  unfold State.withHandle
  split
  · exact h.park
  · exact hb _ _ h.allocHandle

theorem State.canonical.resolve (h : s.canonical) {d hdl c fl} : (s.resolve d hdl c fl).canonical :=
  h.later

theorem State.canonical.freeEntry (h : s.canonical) {hdl} : (s.freeEntry hdl).canonical := by
  unfold State.freeEntry
  dsimp only
  split
  · exact h.modThread.unpark.ite h.modThread
  · exact h.modThread

theorem State.canonical.landWord (h : s.canonical) {w reg c fl} : (s.landWord w reg c fl).canonical := by
  unfold State.landWord
  dsimp only
  split
  · exact h.modThread.setFlags.unpark.ite h.modThread.setFlags
  · exact h.modThread.setFlags

theorem State.canonical.completeHandle (h : s.canonical) {hdl c fl} : (s.completeHandle hdl c fl).canonical := by
  unfold State.completeHandle
  split
  · exact h
  · split
    · exact h.freeEntry
    · split
      · split
        · exact h.modThread
        · exact h.landWord.freeEntry
      · exact h.freeEntry.ite ((h.landWord.modThread.ite h.landWord).freeEntry)

theorem State.canonical.endJob (h : s.canonical) {j status cause} : (s.endJob j status cause).canonical :=
  h.later

theorem State.canonical.flushSpecial (h : s.canonical) {w} : (s.flushSpecial w).canonical :=
  h.modThread.applyWrites

theorem State.canonical.toService (h : s.canonical) {r} : (s.toService r).canonical :=
  h.frame

theorem State.canonical.suspend (h : s.canonical) {v} : (s.suspend v).canonical :=
  h.modThread

theorem State.canonical.fatalRecord (h : s.canonical) {w c p addr info} : (s.fatalRecord w c p addr info).canonical := by
  unfold State.fatalRecord
  dsimp only
  split
  · exact h.modPCore.endJob
  · exact h.modPCore.toService

theorem State.canonical.trapAt (h : s.canonical) {w c p eaddr einfo} : (s.trapAt w c p eaddr einfo).canonical :=
  (h.flushSpecial.unpark.stallFor.endJob.ite h.flushSpecial.unpark.modThread).ite
    (h.flushSpecial.unpark.modThread.ite h.flushSpecial.unpark.fatalRecord.suspend.modThread)

theorem State.canonical.trap (h : s.canonical) {w c eaddr einfo} : (s.trap w c eaddr einfo).canonical :=
  h.trapAt

theorem State.canonical.machineCheck (h : s.canonical) {w syndrome} : (s.machineCheck w syndrome).canonical :=
  h.fatalRecord.ite h.fatalRecord.trap

theorem State.canonical.trapReturn (h : s.canonical) {w} : (s.trapReturn w).canonical :=
  (h.fatalRecord.suspend.ite h.modThread).ite ((h.trap.ite h.modThread).ite h.trap)

theorem State.canonical.privileged (h : s.canonical) {g : Gd} {body : State → State} (hb : (body s).canonical) :
    nextCanonical (s.privileged g body) := h.guarded (hb.ite h.trap)

/-! ### The mesh and its packets -/

theorem State.canonical.openRoutes (h : s.canonical) {j} : (s.openRoutes j).canonical :=
  h.frame

theorem State.canonical.modRouter (h : s.canonical) {r f} : (s.modRouter r f).canonical :=
  h.frame

theorem State.canonical.setWaiting (h : s.canonical) {r port l} : (s.setWaiting r port l).canonical :=
  h.modRouter

theorem State.canonical.noteBypass (h : s.canonical) {r port beats} : (s.noteBypass r port beats).canonical :=
  h.modRouter.ite (h.modRouter.ite h.modRouter.later)

theorem State.canonical.injectPacket (h : s.canonical) {d p} : (s.injectPacket d p).canonical :=
  h.drawn.frame.later

theorem State.canonical.sendTo (h : s.canonical) {d c own l l' ev beats} : (s.sendTo d c own l l' ev beats).canonical := by
  unfold State.sendTo
  split
  · exact h.injectPacket
  · exact h.later

/-! ### Scratch: locks, guards and words -/

theorem State.canonical.bankSlot (h : s.canonical) {pc a d} : (s.bankSlot pc a d).1.canonical :=
  h.modPCore

theorem State.canonical.bankRun (h : s.canonical) {pc a n d k} : (s.bankRun pc a n d k).1.canonical := by
  induction k generalizing s a n with
  | zero => exact h
  | succ k ih =>
    unfold State.bankRun
    split
    · exact h
    · dsimp only
      split
      · exact h.bankSlot
      · exact ih h.bankSlot

theorem PCore.logGuard_mem (q : PCore) (a : Nat) : (q.logGuard a).mem = q.mem := by
  unfold PCore.logGuard
  split <;> rfl

theorem PCore.counted_mem (q : PCore) (a : Nat) : (q.counted a).mem = q.mem := by
  unfold PCore.counted
  split <;> rfl

/-- A write of a scratch word: after the check bits are looked at, bytes are written one by one. -/
theorem PCore.store_wf {q : PCore} (hq : q.mem.wf) (a n v : Nat) : (q.store a n v).1.mem.wf := by
  unfold PCore.store
  split
  · exact Memory.writeNat_wf _ _ _ _ hq
  · exact Memory.writeNat_wf _ _ _ _ hq
  · refine Memory.writeNat_wf _ _ _ _ ?_
    split
    · exact hq
    · exact Memory.clear_wf _ _ _ hq

theorem State.canonical.noteGuard (h : s.canonical) {j l off} : (s.noteGuard j l off).canonical :=
  (h.modPCore fun hm => by rwa [PCore.logGuard_mem]).ite h

theorem State.canonical.scrLoad (h : s.canonical) {j l off n} : (s.scrLoad j l off n).1.canonical :=
  h.noteGuard.ite (h.modPCore fun hm => by rwa [PCore.logGuard_mem, PCore.counted_mem])

theorem State.canonical.waitmEnd (h : s.canonical) {w d cause} : (s.waitmEnd w d cause).canonical :=
  h.modThread.landS.unpark.advance

theorem State.canonical.waitmLook (h : s.canonical) {w} : (s.waitmLook w).canonical := by
  unfold State.waitmLook
  dsimp only
  split
  · exact h.later
  · exact h

theorem State.canonical.triggerIn (h : s.canonical) {l line w} : (s.triggerIn l line w).canonical :=
  h.modThread.waitmLook

theorem State.canonical.watch (h : s.canonical) {j l off} : (s.watch j l off).canonical :=
  h.foldl fun _ h _ => h.triggerIn

theorem State.canonical.scrStore (h : s.canonical) {j l off n v} : (s.scrStore j l off n v).1.canonical :=
  h.noteGuard.iteFst (h.modPCore fun hm => PCore.store_wf hm _ _ _).watch

theorem State.canonical.ddStore (h : s.canonical) {j l off n v} : (s.ddStore j l off n v).1.canonical :=
  h.noteGuard.iteFst (h.modPCore fun hm => PCore.store_wf hm _ _ _).watch

theorem State.canonical.setFe (h : s.canonical) {j l off full} : (s.setFe j l off full).canonical :=
  h.ite h.modPCore.watch

theorem State.canonical.corrected (h : s.canonical) {j l off} : (s.corrected j l off).canonical := by
  refine h.modPCore fun hm => ?_
  split
  · exact hm
  · exact hm

/-- An atomic reads its word and, when it changes it, writes it. -/
theorem State.canonical.updateWord (h : s.canonical) {j l off n m : Nat} {c : Prop} {_ : Decidable c} :
    (if c then (((s.scrLoad j l off n).1.corrected j l off).scrStore j l off n m).1 else (s.scrLoad j l off n).1).canonical :=
  h.scrLoad.corrected.scrStore.ite h.scrLoad

theorem State.canonical.scrElem (h : s.canonical) {k t size j l e} : (s.scrElem k t size j l e).1.canonical := by
  cases k with
  | load => exact h.scrLoad (n := size)
  | store => exact h.scrStore (n := size) (v := e.val.toNat % 2 ^ (8 * size))
  | take => exact ((h.scrLoad (n := size)).setFe).ite (h.scrLoad (n := size))
  | peek => exact ((h.scrLoad (n := size)).setFe).ite (h.scrLoad (n := size))
  | put => exact h.noteGuard.iteFst (h.scrStore (n := size) (v := e.val.toNat % 2 ^ (8 * size))).setFe
  | putFull => exact h.noteGuard.iteFst (h.scrStore (n := size) (v := e.val.toNat % 2 ^ (8 * size))).setFe
  | fe full => exact h.noteGuard.iteFst h.setFe
  | guard g => exact h.iteFst h.modPCore
  | mon i => exact h
  | amo o => exact h.noteGuard.iteFst h.updateWord
  | cas => exact h.noteGuard.iteFst h.updateWord
  | famo o rm => exact h.noteGuard.iteFst h.updateWord

theorem State.canonical.flushLoc (h : s.canonical) {loc upTo} : (s.flushLoc loc upTo).canonical :=
  h.setPool (List.foldlRecOn _ _ h.1 fun _ hm _ _ => Memory.write_wf _ _ _ hm)

theorem State.canonical.poolStore (h : s.canonical) {a n v} : (s.poolStore a n v).canonical :=
  h.flushLoc.setPool (Memory.writeNat_wf _ _ _ _ h.flushLoc.1)

theorem State.canonical.poolWrite (h : s.canonical) {a bs} : (s.poolWrite a bs).canonical := by
  induction bs generalizing s a with
  | nil => exact h
  | cons b bs ih => exact ih h.poolStore

theorem State.canonical.poolPost (h : s.canonical) {tag a n v} : (s.poolPost tag a n v).canonical :=
  h.frame

theorem State.canonical.poolFlush (h : s.canonical) {tag} : (s.poolFlush tag).canonical :=
  h.foldl fun _ h _ => h.flushLoc

theorem State.canonical.poolElem (h : s.canonical) {k t size posted tag e} : (s.poolElem k t size posted tag e).1.canonical := by
  unfold State.poolElem
  dsimp only
  split
  · exact h.poolPost.ite h.poolStore
  · exact h.poolStore.ite h
  · exact h.poolStore.ite h
  · exact h.poolStore.ite h
  · exact h

/-! ### Translation -/

theorem State.canonical.fillTlb (h : s.canonical) {pc t} : (s.fillTlb pc t).canonical :=
  h.modPCore.modPClu

theorem State.canonical.startWalk (h : s.canonical) {k} : (s.startWalk k).canonical :=
  h.drawn.frame.atCycle

theorem State.canonical.walkFor (h : s.canonical) {w va u} : (s.walkFor w va u).canonical :=
  h.startWalk.stallFor

theorem State.canonical.endWalkStall (h : s.canonical) {w} : (s.endWalkStall w).canonical :=
  h.unstall.ite h

theorem State.canonical.engGo (h : s.canonical) {hdl} : (s.engGo hdl).canonical := by
  unfold State.engGo
  dsimp only
  split
  · exact h.later
  · split
    · exact h.later
    · split
      · exact h.later
      · exact h

theorem State.canonical.modEng (h : s.canonical) {hdl f} : (s.modEng hdl f).canonical :=
  h.modJob

theorem State.canonical.modLeadProd (h : s.canonical) {hdl f} : (s.modLeadProd hdl f).canonical :=
  h.modJob

theorem State.canonical.engFault (h : s.canonical) {hdl va wr c} : (s.engFault hdl va wr c).canonical :=
  h.modEng.modLeadProd

theorem State.canonical.engPermit (h : s.canonical) {pc hdl r sl} : (s.engPermit pc hdl r sl).canonical :=
  h.modEng.modLeadProd.engGo.ite h.modPCore

theorem State.canonical.placeTq (h : s.canonical) {r} : (s.placeTq r).canonical := by
  unfold State.placeTq
  split
  · exact h.modPCore.stallFor.ite h.modPCore
  · exact h.modPCore.toService.unstall.park.ite h.modPCore.toService

theorem State.canonical.freeTq (h : s.canonical) {pc ent} : (s.freeTq pc ent).canonical := by
  unfold State.freeTq
  dsimp only
  split
  · exact h.modPCore
  · exact h.modPCore.modPCore.placeTq

/-! ### Accesses to memory -/

theorem State.canonical.modAcc (h : s.canonical) {aid f} : (s.modAcc aid f).canonical := by
  unfold State.modAcc
  split
  · exact h.frame
  · exact h

theorem State.canonical.modPart (h : s.canonical) {aid p f} : (s.modPart aid p f).canonical :=
  h.modAcc

theorem State.canonical.toBank (h : s.canonical) {aid p d} : (s.toBank aid p d).canonical := by
  unfold State.toBank
  split
  · exact h.later.ite h.bankSlot.atCycle
  · exact h.bankSlot.atCycle
  · exact h

theorem State.canonical.sendPart (h : s.canonical) {aid p} : (s.sendPart aid p).canonical := by
  unfold State.sendPart
  split
  · exact h
  · exact h.drawn.modPart.injectPacket

theorem State.canonical.sendRead (h : s.canonical) {w line sl d} : (s.sendRead w line sl d).canonical :=
  h.drawn.injectPacket

theorem State.canonical.takePermit (h : s.canonical) {pc sl} : (s.takePermit pc sl).canonical :=
  h.modPCore

theorem State.canonical.askPermit (h : s.canonical) {aid p parks} : (s.askPermit aid p parks).canonical := by
  unfold State.askPermit
  split
  · exact h
  · exact h.takePermit.sendPart.ite (h.modPCore.park.ite h.modPCore)

theorem State.canonical.returnPermit (h : s.canonical) {pc sl} : (s.returnPermit pc sl).canonical := by
  unfold State.returnPermit
  dsimp only
  split
  · exact h.modPCore
  · split
    · split
      · split
        · exact h.modPCore.sendPart.unpark.ite h.modPCore.sendPart
        · exact h.modPCore.sendPart
      · exact h.modPCore.sendPart
    · exact h.modPCore.sendRead
    · exact h.modPCore.engPermit

theorem State.canonical.leaveRelaxed (h : s.canonical) {w id} : (s.leaveRelaxed w id).canonical := by
  unfold State.leaveRelaxed
  dsimp only
  split
  · exact h.modThread.unpark
  · exact h.modThread

theorem State.canonical.afterPerform (h : s.canonical) {aid} : (s.afterPerform aid).canonical := by
  unfold State.afterPerform
  split
  · exact h.leaveRelaxed.ite h
  · exact h

theorem State.canonical.finishAccess (h : s.canonical) {aid} : (s.finishAccess aid).canonical := by
  unfold State.finishAccess
  split
  · exact h
  · split
    · exact h
    · dsimp only
      split
      · exact ((h.frame.modThread.release.land.ite h.frame.modThread.release.setFlags).unpark).ite
          (h.frame.modThread.release.land.ite h.frame.modThread.release.setFlags)
      · exact h.frame.modThread.release.land.ite h.frame.modThread.release.setFlags

theorem State.canonical.markGuard (h : s.canonical) {w hits va} : (s.markGuard w hits va).canonical :=
  h.ite h.modThread

theorem State.canonical.faultBlock (h : s.canonical) {aid q c done} : (s.faultBlock aid q c done).canonical :=
  h.modAcc

theorem State.canonical.recordFault (h : s.canonical) {aid p c} : (s.recordFault aid p c).canonical := by
  unfold State.recordFault
  split
  · exact h
  · exact h.modThread.faultBlock.afterPerform.finishAccess.ite h.faultBlock

theorem execStoreFaultRecord_canonical (h : s.canonical) {aid part} : nextCanonical (execStoreFaultRecord aid part s) := by
  unfold execStoreFaultRecord
  split
  · exact h.next
  · split
    · exact (h.ite h.recordFault).next
    · exact h.next

theorem State.canonical.recordHeld (h : s.canonical) {w} : (s.recordHeld w).canonical := by
  unfold State.recordHeld
  dsimp only
  split
  · exact h
  · split
    · exact h.recordFault
    · exact h

theorem State.canonical.postPart (h : s.canonical) {aid p parks} : (s.postPart aid p parks).canonical := by
  unfold State.postPart
  split
  · split
    · exact h
    · dsimp only
      split
      · exact h.askPermit
      · split
        · exact h.modPart.askPermit
        · exact h.startWalk
        · exact h.modPart.later
        · exact h.placeTq
  · exact h

theorem State.canonical.dispatchPart (h : s.canonical) {aid p} : (s.dispatchPart aid p).canonical := by
  unfold State.dispatchPart
  split
  · exact h
  · split
    · exact h.sendTo.ite h.toBank
    · exact h.toBank
    · exact h.postPart.ite h.askPermit
    · exact h.later

theorem State.canonical.beginAccess (h : s.canonical) {w x parts} : (s.beginAccess w x parts).canonical := by
  unfold State.beginAccess
  refine .foldl ?_ fun _ h _ => h.dispatchPart
  split
  · refine .openWindow ?_
    split
    · exact h.drawn.frame.modThread.hold
    · exact h.drawn.frame.modThread
  · split
    · exact h.drawn.frame.modThread.hold
    · exact h.drawn.frame.modThread

theorem State.canonical.access (h : s.canonical) {w x es} : (s.access w x es).canonical := by
  unfold State.access
  split
  · exact h.park
  · split
    · exact h.beginAccess.advance
    · exact h.trap
    · exact h.walkFor
    · exact h.placeTq
    · exact h

theorem State.canonical.writeReg (h : s.canonical) {pc off v} : (s.writeReg pc off v).canonical := by
  unfold State.writeReg
  split
  · exact h.later
  · exact h.later
  · exact h.later

theorem State.canonical.sysRead (h : s.canonical) {home off n} : (s.sysRead home off n).1.canonical := by
  cases home with
  | raw pc => exact h.iteFst (h.modPCore fun hm => by rwa [PCore.logGuard_mem, PCore.counted_mem])
  | _ => exact h

theorem State.canonical.sysWrite (h : s.canonical) {home off n v} : (s.sysWrite home off n v).1.canonical := by
  cases home with
  | raw pc =>
    have hlog : (s.modPCore pc fun q => q.logGuard off).canonical := h.modPCore fun hm => by rwa [PCore.logGuard_mem]
    exact .iteFst hlog (h.iteFst (h.modPCore fun hm => PCore.store_wf hm off n v))
  | coreReg pc => exact h.writeReg
  | _ => exact h

theorem State.canonical.sysElem (h : s.canonical) {k t size home e} : (s.sysElem k t size home e).1.canonical := by
  unfold State.sysElem
  dsimp only
  split
  · split
    · exact h.sysRead.sysWrite
    · exact h.sysRead
  · split
    · exact h.sysWrite
    · exact h.sysRead

theorem State.canonical.armMonitor (h : s.canonical) {w i l off} : (s.armMonitor w i l off).canonical :=
  h.modThread

theorem State.canonical.homeElem (h : s.canonical) {a p hdl e} : (s.homeElem a p hdl e).1.canonical := by
  unfold State.homeElem
  split
  · split
    · exact h.armMonitor
    · exact h.scrElem
  · exact h.poolElem
  · exact h.sysElem

theorem State.canonical.runElems (h : s.canonical) {a p q es} : (s.runElems a p q es).1.canonical := by
  induction es generalizing s q with
  | nil => exact h
  | cons e es ih => exact ih h.homeElem

theorem State.canonical.respond (h : s.canonical) {a p q} : (s.respond a p q).canonical := by
  unfold State.respond
  split
  · exact h.sendTo
  · exact h.drawn.injectPacket
  · exact h.later

theorem State.canonical.runPart (h : s.canonical) {a p q} : (s.runPart a p q).canonical :=
  h.runElems.modPart.modPart.modPart.toBank.ite h.runElems.modPart.afterPerform.respond

theorem State.canonical.dropWaiter (h : s.canonical) {j l x} : (s.dropWaiter j l x).canonical :=
  h.modCore

theorem State.canonical.serveWaiters (h : s.canonical) {j l word n} : (s.serveWaiters j l word n).canonical := by
  induction n generalizing s with
  | zero => exact h
  | succ n ih =>
    unfold State.serveWaiters
    split
    · exact h
    · split
      · exact ih h.dropWaiter
      · exact h.ite (ih h.dropWaiter.runPart)

theorem State.canonical.serveAfter (h : s.canonical) {a l es} : (s.serveAfter a l es).canonical :=
  h.foldl fun _ h _ => h.serveWaiters

theorem State.canonical.feWait (h : s.canonical) {a p l e} : (s.feWait a p l e).canonical :=
  ((h.later.ite h.modCore).park).ite (h.later.ite h.modCore)

theorem State.canonical.performPart (h : s.canonical) {aid p} : (s.performPart aid p).canonical := by
  unfold State.performPart
  split
  · exact h
  · split
    · exact h
    · split
      · exact h.later
      · split
        · split
          · exact h.later
          · split
            · exact h.feWait
            · exact h.runPart.serveAfter
        · exact h.runPart

theorem execAccessResponse_canonical (h : s.canonical) {aid part} : nextCanonical (execAccessResponse aid part s) := by
  unfold execAccessResponse
  split
  · exact h.next
  · exact h.next.ite ((((h.modPart.poolFlush.returnPermit.ite h.modPart).markGuard).finishAccess).next)

theorem State.canonical.deliver (h : s.canonical) {p} : (s.deliver p).canonical := by
  unfold State.deliver
  split
  · exact h.injectPacket
  · dsimp only
    split
    · exact h.atCycle.ite h.toBank
    · exact h.later
    · exact h.later
    · exact h.later
    · exact h.later
    · exact h.atCycle

theorem State.canonical.refuseAt (h : s.canonical) {w} : (s.refuseAt w).canonical :=
  h.unstall.trap.ite h

theorem State.canonical.dropPacket (h : s.canonical) {p} : (s.dropPacket p).canonical := by
  unfold State.dropPacket
  split
  · split
    · exact h
    · split
      · split
        · exact h.ite h.faultBlock.later
        · exact h
      · exact h.frame.release.leaveRelaxed.modThread.trapAt
  · split
    · exact h
    · split
      · split
        · exact h.ite h.faultBlock.later
        · exact h
      · exact h.frame.release.leaveRelaxed.modThread.trapAt
  · exact h.later
  · exact h.modThread.unpark.trap.ite h.modThread
  · exact h.modPClu.foldl fun _ h _ => h.trap.ite h
  · exact h.refuseAt
  · exact h.refuseAt
  · exact h.refuseAt
  · exact h.refuseAt
  · exact h.refuseAt
  · exact h.refuseAt
  · exact h

theorem State.canonical.cross (h : s.canonical) {pid p port} : (s.cross pid p port).canonical :=
  h.frame.later

theorem execPacketForward_canonical (h : s.canonical) {hdl} : nextCanonical (execPacketForward hdl s) := by
  unfold execPacketForward
  split
  · exact h.next
  · refine h.frame.deliver.next.ite (h.frame.setWaiting.dropPacket.next.ite (.ite ?_ ?_))
    · exact h.frame.setWaiting.later.next.ite h.noteBypass.cross.next
    · exact h.setWaiting.cross.next.ite h.setWaiting.later.next

/-! ### Atomic operations -/

theorem State.canonical.atomic (h : s.canonical) {k la rx t d va val cmp} : (s.atomic k la rx t d va val cmp).canonical :=
  h.access

theorem State.canonical.update (h : s.canonical) {k rx t va val} : (s.update k rx t va val).canonical :=
  h.access

/-! ### Scalar results -/

theorem State.canonical.result (h : s.canonical) {lat d v} : (s.result lat d v).canonical :=
  h.landS.advance

theorem State.canonical.alu (h : s.canonical) {lat d a b f} : (s.alu lat d a b f).canonical :=
  h.result

theorem State.canonical.divide (h : s.canonical) {w la d a b f64 f32} : (s.divide w la d a b f64 f32).canonical :=
  h.landLa.advance.ite h.landLa.advance

/-! ### Scalar numbers -/

theorem State.canonical.resultT (h : s.canonical) {lat t d r} : (s.resultT lat t d r).canonical :=
  h.land.advance

theorem State.canonical.float2 (h : s.canonical) {lat t d a b f} : (s.float2 lat t d a b f).canonical :=
  h.resultT

theorem State.canonical.longFloat (h : s.canonical) {la t d r} : (s.longFloat la t d r).canonical :=
  h.landLa.advance

/-! ### Code lines -/

theorem State.canonical.readPool (h : s.canonical) {w line d} : (s.readPool w line d).canonical :=
  h.modPClu.foldl fun _ h _ => h.takePermit.sendRead.ite h.modPCore

theorem State.canonical.enterFetch (h : s.canonical) {w line} : (s.enterFetch w line).canonical := by
  unfold State.enterFetch
  dsimp only
  split
  · exact h.modPClu
  · exact h.modPClu.atCycle.ite h.modPClu.readPool

theorem State.canonical.prefetch (h : s.canonical) {w line} : (s.prefetch w line).canonical := by
  unfold State.prefetch
  split
  · exact h
  · split
    · exact h.enterFetch
    · split
      · exact h.ite h.startWalk
      · exact h

theorem State.canonical.fetchLine (h : s.canonical) {w line} : (s.fetchLine w line).canonical := by
  unfold State.fetchLine
  dsimp only
  split
  · exact h
  · split
    · exact h.trapAt
    · split
      · exact h.enterFetch
      · split
        · exact h.trapAt
        · exact h.placeTq
        · exact h.walkFor

theorem State.canonical.fetchAhead (h : s.canonical) {w} : (s.fetchAhead w).canonical :=
  ((h.ite h.modThread).prefetch).ite (((h.ite h.modThread).fetchLine).ite (h.ite h.modThread))

theorem State.canonical.deliverLine (h : s.canonical) {pcl line} : (s.deliverLine pcl line).canonical := by
  unfold State.deliverLine
  dsimp only
  split
  · exact h.modPClu
  · exact (h.modPClu.modPClu.ite h.modPClu).foldl fun _ h _ => h.modThread

theorem execLineDelivery_canonical (h : s.canonical) {pcl i} : nextCanonical (execLineDelivery pcl i s) := by
  unfold execLineDelivery
  dsimp only
  split
  · split
    · exact h.next
    · exact (h.returnPermit.deliverLine.ite h.returnPermit.modPClu).next
  · split
    · exact h.next
    · exact (h.deliverLine.ite h.readPool).next

theorem State.canonical.probed (h : s.canonical) {w d id v} : (s.probed w d id v).canonical := by
  unfold State.probed
  dsimp only
  split
  · exact h.release.land.openWindow
  · exact h.release.land

theorem execTranslationWalk_canonical (h : s.canonical) {wid} : nextCanonical (execTranslationWalk wid s) := by
  fun_cases execTranslationWalk wid s with
  | case1 => exact h.next
  | case2 => exact h.frame.fillTlb.postPart.next
  | case3 => exact h.frame.fillTlb.engGo.next
  | case4 => exact h.frame.fillTlb.prefetch.next
  | case5 => exact h.frame.fillTlb.probed.next
  | case6 => exact h.frame.fillTlb.endWalkStall.next
  | case7 => exact h.frame.engFault.engGo.next
  | case8 => exact h.frame.next
  | case9 => exact h.frame.probed.next
  | case10 => exact (h.frame.endWalkStall.ite h.frame).placeTq.next

/-! ### Memory instructions -/

theorem State.canonical.loadS (h : s.canonical) {k la rx t d va} : (s.loadS k la rx t d va).canonical :=
  h.access

theorem State.canonical.storeS (h : s.canonical) {k rx t d va} : (s.storeS k rx t d va).canonical :=
  h.access

theorem State.canonical.loadV (h : s.canonical) {la rx t scr cnt d va} : (s.loadV la rx t scr cnt d va).canonical :=
  h.access

theorem State.canonical.storeV (h : s.canonical) {rx t scr cnt d va} : (s.storeV rx t scr cnt d va).canonical :=
  h.access

theorem State.canonical.rangeAccess (h : s.canonical) {k size va len} : (s.rangeAccess k size va len).canonical := by
  unfold State.rangeAccess
  dsimp only
  split
  · exact h.trap
  · exact h.trap.ite (h.trap.ite (h.advance.ite h.access))
  · exact h.trap

theorem execTinv_canonical (h : s.canonical) {g gs a} : nextCanonical (execTinv g gs a s) := by
  unfold execTinv
  refine h.guarded (.advance ?_)
  split
  · exact h.modCore
  · exact h

theorem execXlat_canonical (h : s.canonical) {g la d a imm} : nextCanonical (execXlat g la d a imm s) := by
  unfold execXlat
  refine h.guarded ?_
  dsimp only
  split
  · exact h.landLa.advance
  · exact h.landLa.advance
  · split
    · exact h.landLa.advance
    · exact h.drawn.hold.openWindow.startWalk.advance
  · exact h.landLa.advance

/-! ### Registers and control -/

theorem State.canonical.resultQ (h : s.canonical) {d b} : (s.resultQ d b).canonical :=
  h.land.advance

theorem State.canonical.transfer (h : s.canonical) {target body} (hb : ∀ t, t.canonical → (body t).canonical) :
    (s.transfer target body).canonical := (hb s h).jump.ite h.trap

theorem execCallr_canonical (h : s.canonical) {g d a imm} : nextCanonical (execCallr g d a imm s) :=
  h.guarded (h.transfer (fun _ h => h.landS))

theorem execDbnz_canonical (h : s.canonical) {g d imm} : nextCanonical (execDbnz g d imm s) :=
  h.guarded (h.landS.advance.ite h.landS.jump)

theorem State.canonical.syncfCheck (h : s.canonical) {w p} : (s.syncfCheck w p).canonical :=
  (h.foldl fun _ h _ => h.modThread).ite h

theorem execSyncf_canonical (h : s.canonical) {g imm} : nextCanonical (execSyncf g imm s) :=
  h.guarded (h.advance.ite h.advance.stallFor.later.syncfCheck)

theorem execSyncfRelease_canonical (h : s.canonical) {w stamp} : nextCanonical (execSyncfRelease w stamp s) := by
  unfold execSyncfRelease
  dsimp only
  split
  · exact (h.unstall.ite h).next
  · exact h.next

/-! ### Threads: start and sleep -/

theorem State.canonical.dropResults (h : s.canonical) {w} : (s.dropResults w).canonical :=
  h.frame

theorem State.canonical.takeBinding (h : s.canonical) {w} : (s.takeBinding w).canonical :=
  h.modThread.ite h

theorem State.canonical.startThread (h : s.canonical) {w v hdl e arg} : (s.startThread w v hdl e arg).canonical :=
  h.dropResults.modThread

theorem State.canonical.serveStarters (h : s.canonical) {j l} : (s.serveStarters j l).canonical := by
  refine h.foldl fun _ h _ => ?_
  dsimp only
  split
  · exact h.grant.modCore.unpark
  · exact h

theorem execStart_canonical (h : s.canonical) {g th d a b} : nextCanonical (execStart g th d a b s) := by
  unfold execStart
  refine h.guarded (h.trap.ite (h.result.ite ?_))
  dsimp only
  split
  · exact h.park
  · split
    · exact h.modCore.park
    · exact h.spend.allocHandle.startThread.modThread.advance.prefetch

theorem execSleep_canonical (h : s.canonical) {g a imm} : nextCanonical (execSleep g a imm s) :=
  h.guarded (h.advance.ite h.advance.stallFor.later)

theorem execSleepExpiry_canonical (h : s.canonical) {w stamp} : nextCanonical (execSleepExpiry w stamp s) := by
  unfold execSleepExpiry
  dsimp only
  split
  · exact (h.unstall.ite h).next
  · exact h.next

/-! ### Barriers and monitors -/

theorem execMon_canonical (h : s.canonical) {g mi a imm} : nextCanonical (execMon g mi a imm s) := by
  unfold execMon
  refine h.guarded ?_
  dsimp only
  split
  · exact h.trap
  · exact h.access.ite h.trap
  · exact h.trap

theorem execWaitm_canonical (h : s.canonical) {g mq d a} : nextCanonical (execWaitm g mq d a s) :=
  h.guarded (h.waitmEnd.ite (h.waitmEnd.ite (h.park.ite h.park.later)))

theorem execWaitmTimeout_canonical (h : s.canonical) {w stamp} : nextCanonical (execWaitmTimeout w stamp s) := by
  unfold execWaitmTimeout
  dsimp only
  split
  · exact (h.waitmEnd.ite h).next
  · exact h.next

theorem State.canonical.setCounter (h : s.canonical) {j c n k} : (s.setCounter j c n k).canonical :=
  h.modClu

theorem State.canonical.completePhase (h : s.canonical) {j c n k} : (s.completePhase j c n k).canonical :=
  h.setCounter.later

theorem State.canonical.arrive (h : s.canonical) {w n wait d} : (s.arrive w n wait d).canonical :=
  h.modThread.trap.ite h.stallFor.later

theorem execBarrierArrival_canonical (h : s.canonical) {w n wait d} : nextCanonical (execBarrierArrival w n wait d s) := by
  unfold execBarrierArrival
  dsimp only
  split
  · exact h.later.next
  · refine .next (.later ?_)
    split
    · exact (h.modThread.completePhase.ite h.modThread.setCounter).landS
    · exact h.modThread.completePhase.ite h.modThread.setCounter

theorem execBarrierVerdict_canonical (h : s.canonical) {w n ok ph wait} : nextCanonical (execBarrierVerdict w n ok ph wait s) :=
  h.next.ite (h.unstall.trap.next.ite (h.unstall.park.next.ite h.unstall.advance.next))

theorem State.canonical.releaseOne (h : s.canonical) {j c n w} : (s.releaseOne j c n w).canonical :=
  h.ite h.modThread

theorem State.canonical.resumeBar (h : s.canonical) {n w} : (s.resumeBar n w).canonical := by
  unfold State.resumeBar
  dsimp only
  split
  · exact h.unpark.advance.ite h
  · exact h.unpark.advance.ite h
  · exact h

theorem execBarsetRequest_canonical (h : s.canonical) {w n count} : nextCanonical (execBarsetRequest w n count s) :=
  ((h.modThread.completePhase.ite h.modThread.setCounter).resumeBar).next

theorem execBarrierRelease_canonical (h : s.canonical) {job clu n ws} : nextCanonical (execBarrierRelease job clu n ws s) :=
  (h.foldl fun _ h _ => h.releaseOne.resumeBar).next

/-! ### Messages -/

theorem State.canonical.peerSend (h : s.canonical) {dev m} : (s.peerSend dev m).canonical := by
  unfold State.peerSend
  split
  · exact h.frame
  · exact h

theorem State.canonical.launchFlit (h : s.canonical) {f} : (s.launchFlit f).canonical :=
  h.drawn.later.ite h.sendTo

theorem State.canonical.injectFlit (h : s.canonical) {w dst payload rx ack} : (s.injectFlit w dst payload rx ack).canonical :=
  h.drawn.modThread.ite h.drawn.modThread.launchFlit

theorem execSend_canonical (h : s.canonical) {g rx d a b} : nextCanonical (execSend g rx d a b s) :=
  h.guarded (h.trap.ite (h.trap.ite (h.park.ite (h.park.ite
    (h.injectFlit.advance.ite (h.withHandle (fun _ _ h => h.injectFlit.advance)))))))

theorem State.canonical.flitDone (h : s.canonical) {f} : (s.flitDone f).canonical := by
  have hwait {t : State} (ht : t.canonical) {x : Option Wait} {w : Tid} :
      (match x with | some { kind := .outbox, .. } => t.unpark w | _ => t).canonical := by
    split
    · exact ht.unpark
    · exact ht
  fun_cases State.flitDone s f with
  | case1 => exact h
  | case2 => exact (hwait (h.modThread.leaveRelaxed.ite h.modThread)).modThread.launchFlit
  | case3 => exact hwait (h.modThread.leaveRelaxed.ite h.modThread)
  | case4 => exact hwait (h.modThread.leaveRelaxed.ite h.modThread)

theorem State.canonical.flitAck (h : s.canonical) {f dead} : (s.flitAck f dead).canonical :=
  h.ite (h.peerSend.ite h.sendTo)

theorem State.canonical.enqueueFlit (h : s.canonical) {v f} : (s.enqueueFlit v f).canonical := by
  unfold State.enqueueFlit
  dsimp only
  split
  · split
    · exact h.modThread.modThread.land.unpark.advance
    · exact h.modThread
  · split
    · exact h.modThread.modThread.land.unpark.advance
    · exact h.modThread
  · exact h.modThread.waitmLook
  · exact h.modThread

theorem execFlitArrival_canonical (h : s.canonical) {f} : nextCanonical (execFlitArrival f s) := by
  unfold execFlitArrival
  split
  · exact h.flitAck.next
  · exact (h.peerSend.next.ite h.modThread.sendTo.next).ite
      (h.modThread.flitAck.flitDone.next.ite h.enqueueFlit.flitAck.flitDone.next)

theorem execFlitResend_canonical (h : s.canonical) {f} : nextCanonical (execFlitResend f s) :=
  h.next.ite (h.modThread.next.ite h.launchFlit.next)

theorem execSendAck_canonical (h : s.canonical) {f dead} : nextCanonical (execSendAck f dead s) := by
  unfold execSendAck
  dsimp only
  split
  · exact ((h.flitDone.ite h).resolve).next
  · exact (h.flitDone.ite h).next

theorem execRecv_canonical (h : s.canonical) {g d} : nextCanonical (execRecv g d s) := by
  unfold execRecv
  refine h.guarded ?_
  dsimp only
  split
  · exact h.modThread.landS.advance
  · exact h.park

theorem execTrecv_canonical (h : s.canonical) {g p d a} : nextCanonical (execTrecv g p d a s) := by
  unfold execTrecv
  refine h.guarded ?_
  dsimp only
  split
  · exact h.modThread.land.advance
  · exact h.land.advance.ite h.park.later

theorem execTrecvTimeout_canonical (h : s.canonical) {w stamp} : nextCanonical (execTrecvTimeout w stamp s) := by
  unfold execTrecvTimeout
  dsimp only
  split
  · exact (h.land.unpark.advance.ite h).next
  · exact h.next

/-! ### Handles -/

theorem execHcancel_canonical (h : s.canonical) {g a} : nextCanonical (execHcancel g a s) := by
  unfold execHcancel
  refine h.guarded (h.advance.ite ?_)
  dsimp only
  split
  · exact h.later.advance
  · exact h.advance

theorem execHpass_canonical (h : s.canonical) {g d a} : nextCanonical (execHpass g d a s) :=
  h.guarded (h.modThread.modThread.land.advance.ite (h.withHandle (fun _ _ h => h.modThread.land.advance)))

theorem execAdoptRequest_canonical (h : s.canonical) {w d id} : nextCanonical (execAdoptRequest w d id s) := by
  unfold execAdoptRequest
  dsimp only
  split
  · exact (h.unstall.ite h.later).next
  · split
    · exact h.sendTo.next
    · split
      · exact h.sendTo.next
      · split
        · exact h.freeEntry.sendTo.next
        · exact h.modThread.sendTo.next

theorem execAdoptReply_canonical (h : s.canonical) {w d id r} : nextCanonical (execAdoptReply w d id r s) := by
  unfold execAdoptReply
  split
  · exact h.later.next
  · split
    · exact h.next
    · dsimp only
      split
      · exact h.unstall.modThread.trap.next
      · exact h.unstall.modThread.landS.advance.next
      · split
        · exact h.unstall.modThread.modThread.advance.next.ite h.unstall.modThread.advance.next
        · exact h.unstall.modThread.advance.next

theorem State.canonical.checkDone (h : s.canonical) {j} : (s.checkDone j).canonical :=
  h.later.ite h

theorem State.canonical.wakeExit (h : s.canonical) {j l} : (s.wakeExit j l).canonical := by
  unfold State.wakeExit
  dsimp only
  split
  · exact h.unpark.ite h
  · exact h

theorem State.canonical.redLanded (h : s.canonical) {hdl grp} : (s.redLanded hdl grp).canonical := by
  unfold State.redLanded
  dsimp only
  split
  · exact h.modJob.unpark.ite h.modJob
  · exact h.modJob

theorem execHandleCompletion_canonical (h : s.canonical) {hdl c flags} : nextCanonical (execHandleCompletion hdl c flags s) := by
  unfold execHandleCompletion
  dsimp only
  split
  · exact h.later.next
  · refine .next (.checkDone (.wakeExit (.serveStarters ?_)))
    split
    · split
      · split
        · refine .completeHandle ?_
          split
          · exact h.redLanded
          · exact h
        · refine .sendTo (.modThread ?_)
          split
          · exact h.redLanded
          · exact h
      · refine .completeHandle ?_
        split
        · exact h.redLanded
        · exact h
    · exact h

/-! ### The copy and gather engines -/

theorem State.canonical.scrRead (h : s.canonical) {j l off n} : (s.scrRead j l off n).1.canonical :=
  h.foldlFst (p := (s, [], 0, false)) fun _ h x => h.scrLoad (n := x.2)

theorem State.canonical.scrWrite (h : s.canonical) {j l off bs} : (s.scrWrite j l off bs).1.canonical :=
  h.foldlFst fun _ h _ => h.scrStore

theorem State.canonical.scrWriteBut (h : s.canonical) {j l off bs hide} : (s.scrWriteBut j l off bs hide).1.canonical := by
  refine h.foldlFst (p := (s, 0, false)) fun q h x => ?_
  dsimp only
  split
  · exact h.scrStore
  · exact h.foldlFst (p := (q.1, q.2.1, q.2.2)) fun _ h _ => h.scrStore

theorem State.canonical.atBlock (h : s.canonical) {w l off n body} (hb : ∀ t, t.canonical → (body t).canonical) :
    (s.atBlock w l off n body).canonical := by
  unfold State.atBlock
  split
  · exact hb _ h.spend
  · split
    rename_i t c he
    have ht : t.canonical := h.bankRun.of_eq he
    exact (hb _ ht).ite ht.grant.stallFor.atCycle

theorem State.canonical.readBlock (h : s.canonical) {w va l off n} : (s.readBlock w va l off n).1.canonical :=
  h.scrRead.markGuard.setFlags

theorem State.canonical.modOps (h : s.canonical) {j c cp f} : (s.modOps j c cp f).canonical :=
  h.modClu

theorem State.canonical.modOp (h : s.canonical) {j c cp id f} : (s.modOp j c cp id f).canonical :=
  h.modOps

theorem State.canonical.passPlace (h : s.canonical) {j c tok obj} : (s.passPlace j c tok obj).canonical := by
  unfold State.passPlace
  split
  · exact h.grant.unpark
  · exact h

theorem State.canonical.enqueueEng (h : s.canonical) {w d o} : (s.enqueueEng w d o).canonical :=
  h.park.ite (h.withHandle (fun _ _ h => (h.drawn.spend.later.ite h.drawn.spend.later.modThread).advance))

theorem State.canonical.takeOp (h : s.canonical) {j c cp} : (s.takeOp j c cp).canonical := by
  unfold State.takeOp
  dsimp only
  split
  · exact h
  · split
    · exact h
    · exact h.modClu.modOp.later.passPlace

theorem State.canonical.kick (h : s.canonical) {p cp n} : (s.kick p cp n).canonical := by
  induction n generalizing s with
  | zero => exact h
  | succ n ih =>
    unfold State.kick
    refine h.ite ?_
    split
    · exact h
    · exact ih h.takeOp.tookTurn

theorem State.canonical.kickUnit (h : s.canonical) {j c cp} : (s.kickUnit j c cp).canonical := by
  unfold State.kickUnit
  split
  · exact h.kick
  · exact h

theorem State.canonical.modReq (h : s.canonical) {j c cp id r f} : (s.modReq j c cp id r f).canonical :=
  h.modOp

theorem State.canonical.moveSlot (h : s.canonical) {p cp n} : (s.moveSlot p cp n).1.canonical :=
  h.iteFst h.modPClu

theorem State.canonical.dropPermit (h : s.canonical) {o j c cp r q} : (s.dropPermit o j c cp r q).canonical := by
  unfold State.dropPermit
  split
  · exact h.modReq.returnPermit
  · exact h

/-- The machine that an attempt leaves has canonical memories. -/
def Try.canonical : Try → Prop
  | .going s => s.canonical
  | .bad s _ _ => s.canonical

/-- A wanted request: by where its address lies and, in the pool, by what its translation gives and which permit it holds. -/
theorem State.canonical.sendReq (h : s.canonical) {o j c cp r q} : (s.sendReq o j c cp r q).canonical := by
  have go {t : State} (ht : t.canonical) {d pcl cp n f pkt} :
      Try.canonical (.going (((t.moveSlot pcl cp n).1.modReq j c cp o.id r f).drawn.injectPacket d pkt)) :=
    ht.moveSlot.modReq.drawn.injectPacket
  unfold State.sendReq
  dsimp only
  split
  · split
    · exact h.modReq.later
    · exact h.modReq.moveSlot.sendTo
  · split
    · split
      · exact h
      · exact h.startWalk
    · exact h.dropPermit
    · exact h.dropPermit
    · split
      · exact go h
      · split
        · exact h.dropPermit.later
        · split
          · exact go h.takePermit
          · exact h.modReq.modPCore
  · exact h.dropPermit

theorem State.canonical.performReq (h : s.canonical) {o j c cp r q} : (s.performReq o j c cp r q).canonical := by
  have wrote {t : State} (ht : t.canonical) {kind : EngKind} {pos : Option Nat} {f : Nat → EngOp → EngOp} :
      (match kind, pos with
        | .scat, some p => t.modOp j c cp o.id (f p)
        | _, _ => t).canonical := by
    split
    · exact ht.modOp
    · exact ht
  unfold State.performReq
  dsimp only
  split
  · split
    · exact wrote h.modReq.scrWriteBut.modOp
    · exact h.modReq.scrRead.modOp.modReq
  · split
    · exact wrote (h.modReq.foldl fun _ h _ => h.poolStore)
    · exact h.modReq.modReq

theorem State.canonical.reqTurn (h : s.canonical) {o j c cp r q} : (s.reqTurn o j c cp r q).canonical := by
  unfold State.reqTurn
  dsimp only
  split
  · exact h.later.ite h.bankRun.modReq.atCycle
  · exact h.performReq.drawn.injectPacket
  · exact h.modReq.later.ite h.performReq.sendTo
  · exact h.modReq.dropPermit.later
  · exact h

theorem State.canonical.tryReqs (h : s.canonical) {j c cp id rs} : (s.tryReqs j c cp id rs).canonical := by
  induction rs generalizing s with
  | nil => exact h
  | cons x rs ih =>
    unfold State.tryReqs
    split
    · exact h
    · rename_i o _
      split
      · rename_i q _
        have hs : (s.sendReq o j c cp x.1 q).canonical := h.sendReq
        split
        · exact ih h
        · split
          · rename_i t ht
            rw [ht] at hs
            exact ih hs
          · rename_i t va k ht
            rw [ht] at hs
            exact State.canonical.modReq hs
      · exact ih h

theorem State.canonical.dropWanted (h : s.canonical) {j c cp id f} : (s.dropWanted j c cp id f).canonical := by
  unfold State.dropWanted
  split
  · exact h
  · exact h.foldl fun _ h _ => h.dropPermit

theorem State.canonical.stopOp (h : s.canonical) {j c cp id st} : (s.stopOp j c cp id st).canonical :=
  h.modOp.later.kickUnit

theorem State.canonical.stopBad (h : s.canonical) {o j c cp va k} : (s.stopBad o j c cp va k).canonical :=
  h.stopOp.ite h.modOp.placeTq.kickUnit

theorem State.canonical.finishOp (h : s.canonical) {o j c cp st n} : (s.finishOp o j c cp st n).canonical :=
  h.modOps.resolve

theorem execCancelRequest_canonical (h : s.canonical) {hdl} : nextCanonical (execCancelRequest hdl s) := by
  unfold execCancelRequest
  dsimp only
  split
  · exact h.next
  · exact h.modOp.next.ite (h.next.ite h.finishOp.passPlace.next)

theorem execCopy_canonical (h : s.canonical) {g rx d a b imm} : nextCanonical (execCopy g rx d a b imm s) := by
  unfold execCopy
  refine h.guarded ?_
  dsimp only
  split
  · exact h.trap
  · exact (h.withHandle (fun _ _ h => h.resolve.advance)).ite h.enqueueEng

theorem execCopy2_canonical (h : s.canonical) {g rx d a b imm} : nextCanonical (execCopy2 g rx d a b imm s) := by
  unfold execCopy2
  refine h.guarded (h.trap.ite (h.trap.ite (h.atBlock (fun _ h => ?_))))
  dsimp only
  split
  · exact h.readBlock.trap
  · exact (h.readBlock.withHandle (fun _ _ h => h.resolve.advance)).ite h.readBlock.enqueueEng

theorem State.canonical.copyWork (h : s.canonical) {o j c} : (s.copyWork o j c).canonical := by
  have hgo {t : State} (ht : t.canonical) : (match t.op? j c true o.id with
      | none => t
      | some o =>
        match t.tryReqs j c true o.id o.reqs with
        | .going s => s
        | .bad s va k =>
          (s.modOp j c true o.id fun o => { o with fail := some (va, k) }).later 0 (.copyChunk j c o.id none)).canonical := by
    split
    · exact ht
    · rename_i o _
      have hr : (t.tryReqs j c true o.id o.reqs).canonical := ht.tryReqs
      split
      · rename_i u hu
        rw [hu] at hr
        exact hr
      · rename_i u va k hu
        rw [hu] at hr
        exact (State.canonical.modOp hr).later
  fun_cases State.copyWork s o j c with
  | case1 => exact h
  | case2 => exact h.dropWanted.modOp.stopBad
  | case3 => exact h.modOp.later
  | case4 => exact h
  | case5 => exact h.stopOp
  | case6 => exact h.stopOp
  | case7 => exact hgo h.modOp
  | case8 => exact h.modOp.later
  | case9 => exact hgo h.modOp
  | case10 => exact hgo h

theorem execCopyChunk_canonical (h : s.canonical) {job clu u} : nextCanonical (execCopyChunk job clu u s) := by
  unfold execCopyChunk
  split
  · exact h.next
  · split
    · exact h.next
    · split
      · exact h.copyWork.next
      · split
        · exact h.reqTurn.next
        · exact h.next

theorem execCopyResolve_canonical (h : s.canonical) {job clu id} : nextCanonical (execCopyResolve job clu id s) := by
  unfold execCopyResolve
  split
  · exact h.next
  · split
    · exact h.finishOp.next
    · exact h.next

theorem State.canonical.gather (h : s.canonical) {k rx d a} : (s.gather k rx d a).canonical := by
  unfold State.gather
  dsimp only
  split
  · exact h.trap
  · split
    · exact h.trap
    · split
      · exact h.trap
      · refine h.atBlock (fun _ h => ?_)
        split
        · exact h.readBlock.trap
        · split
          · exact h.readBlock.trap
          · exact h.readBlock.enqueueEng
  · exact h.trap

theorem State.canonical.batchEnd (h : s.canonical) {o j c} : (s.batchEnd o j c).canonical := by
  unfold State.batchEnd
  split
  · exact h.modOp.later
  · exact h.modOp.stopBad

theorem State.canonical.gatherGo (h : s.canonical) {j c id} : (s.gatherGo j c id).canonical := by
  unfold State.gatherGo
  split
  · exact h
  · rename_i o _
    have hr : (s.tryReqs j c false id o.reqs).canonical := h.tryReqs
    split
    · rename_i t ht
      rwa [ht] at hr
    · rename_i t va k ht
      rw [ht] at hr
      exact (State.canonical.dropWanted hr).modOp.later

theorem State.canonical.gatherMove (h : s.canonical) {o j c} : (s.gatherMove o j c).canonical := by
  unfold State.gatherMove
  dsimp only
  split
  · exact h.modOp
  · split
    · exact h.modOp.batchEnd.ite h.modOp.gatherGo
    · exact h.modOp.gatherGo.ite h.modOp.modOp.gatherGo.later

theorem State.canonical.gatherWork (h : s.canonical) {o j c} : (s.gatherWork o j c).canonical := by
  unfold State.gatherWork
  dsimp only
  split
  · exact (h.ite (h.stopOp.ite (h.stopOp.ite h.modOp.gatherGo))).ite (h.modOp.later.ite h.gatherGo)
  · split
    · split
      · exact h.modOp.later
      · exact h.modOp.later
    · split
      · exact h.modOp.later
      · split
        · exact h.ite h.startWalk
        · exact h.modOp.later
  · split
    · exact h.dropWanted.modOp.later
    · exact h.gatherMove

theorem execGatherBatch_canonical (h : s.canonical) {job clu u} : nextCanonical (execGatherBatch job clu u s) := by
  unfold execGatherBatch
  split
  · exact h.next
  · split
    · exact h.next
    · split
      · exact h.gatherWork.next
      · split
        · exact h.reqTurn.next
        · exact h.next

theorem State.canonical.writeStart (h : s.canonical) {o n} : (s.writeStart o n).1.canonical := by
  unfold State.writeStart
  dsimp only
  split
  · exact h.scrWrite
  · exact h

theorem execGatherResolve_canonical (h : s.canonical) {job clu id} : nextCanonical (execGatherResolve job clu id s) := by
  unfold execGatherResolve
  split
  · exact h.next
  · split
    · exact h.next
    · exact (((h.modClu.ite h).finishOp).next).ite ((((h.modClu.ite h).writeStart).finishOp).next)

theorem State.canonical.verdictEng (h : s.canonical) {hdl serve c} : (s.verdictEng hdl serve c).canonical := by
  unfold State.verdictEng
  dsimp only
  split
  · exact h
  · exact h.modOp.later

/-! ### The prompter -/

theorem State.canonical.winRead (h : s.canonical) {j c wo n} : (s.winRead j c wo n).1.canonical :=
  h.foldlFst (p := (s, [], 0, false)) fun _ h x => h.scrLoad (n := x.2)

theorem State.canonical.winWrite (h : s.canonical) {j c wo bs} : (s.winWrite j c wo bs).1.canonical :=
  h.foldlFst fun _ h _ => h.scrStore

theorem execPcfg_canonical (h : s.canonical) {g a} : nextCanonical (execPcfg g a s) := by
  unfold execPcfg
  refine h.guarded ?_
  dsimp only
  split
  · exact h.trap
  · split
    · exact h.trap
    · split
      · exact h.trap
      · refine h.atBlock (fun _ h => ?_)
        split
        · exact h.readBlock.trap
        · exact h.readBlock.later.modThread.advance
  · exact h.trap

theorem execPplan_canonical (h : s.canonical) {g d a b} : nextCanonical (execPplan g d a b s) := by
  unfold execPplan
  refine h.guarded ?_
  dsimp only
  split
  · exact h.trap
  · split
    · exact h.trap
    · exact h.trap.ite (h.trap.ite (h.park.ite (h.withHandle (fun _ _ h => h.spend.modClu.later.modThread.advance))))
    · exact h.trap

theorem State.canonical.runPlan (h : s.canonical) {j c p} : (s.runPlan j c p).1.canonical := by
  unfold State.runPlan
  dsimp only
  split
  · exact h.scrRead.winRead
  · exact h.winRead

theorem State.canonical.writeList (h : s.canonical) {j c p} : (s.writeList j c p).1.canonical :=
  h.foldl fun _ h _ => h.winWrite

theorem State.canonical.modPlan (h : s.canonical) {j c hdl f} : (s.modPlan j c hdl f).canonical :=
  h.modClu

theorem State.canonical.planLater (h : s.canonical) {j c hdl d} : (s.planLater j c hdl d).canonical :=
  h.modPlan.later

theorem State.canonical.kickPlan (h : s.canonical) {j c} : (s.kickPlan j c).canonical := by
  unfold State.kickPlan
  split
  · exact h
  · split
    · exact h
    · split
      · exact h
      · split
        · exact h
        · exact h.runPlan.modPlan.modClu.tookTurn.passPlace.planLater

theorem execPplanResolve_canonical (h : s.canonical) {job clu} : nextCanonical (execPplanResolve job clu s) := by
  unfold execPplanResolve
  split
  · exact h.next
  · exact (h.next.ite h.writeList.modPlan.planLater.next).ite h.modClu.resolve.later.next

theorem execPfetch_canonical (h : s.canonical) {g replay wm d a} : nextCanonical (execPfetch g replay wm d a s) := by
  unfold execPfetch
  refine h.guarded ?_
  dsimp only
  split
  · exact h.trap
  · split
    · split
      · exact h.trap
      · refine h.atBlock (fun _ h => h.winRead.markGuard.setFlags.trap.ite (h.winRead.markGuard.setFlags.trap.ite
          (h.winRead.markGuard.setFlags.trap.ite (h.winRead.markGuard.setFlags.trap.ite ?_))))
        split
        · exact h.winRead.markGuard.setFlags.trap
        · exact h.winRead.markGuard.setFlags.enqueueEng
    · exact h.trap
    · exact h.trap

/-! ### The decision-diagram engine -/

theorem State.canonical.modDde (h : s.canonical) {j c f} : (s.modDde j c f).canonical :=
  h.modClu

/-! ### The decision-diagram engine: its computations -/

/-- The run after a computation, ended or stopped. -/
def ddRunOf {α : Type} : EStateM.Result DdStop DdRun α → DdRun
  | .ok _ r => r
  | .error _ r => r

/-- A computation of the engine keeps the canonical form. -/
def DdKeeps {α : Type} (m : DdM α) : Prop := ∀ r : DdRun, r.s.canonical → (ddRunOf (m r)).s.canonical

section
variable {α β : Type} {m m' : DdM α} {f : α → DdM β}

theorem DdKeeps.pure {a : α} : DdKeeps (pure a) := fun _ h => h

theorem DdKeeps.get : DdKeeps get := fun _ h => h

theorem DdKeeps.stopped {e : DdStop} : DdKeeps (throw e : DdM α) := fun _ h => h

/-- A change of the run's own bookkeeping. -/
theorem DdKeeps.note {g : DdRun → DdRun} (hg : ∀ r : DdRun, (g r).s = r.s := by exact fun _ => rfl) : DdKeeps (modify g) :=
  fun r h => (hg r).symm ▸ h

theorem DdKeeps.modify {g : DdRun → DdRun} (hg : ∀ r : DdRun, r.s.canonical → (g r).s.canonical) : DdKeeps (modify g) := hg

theorem DdKeeps.bind (hm : DdKeeps m) (hf : ∀ a, DdKeeps (f a)) : DdKeeps (m >>= f) := fun r h => by
  change (ddRunOf ((m >>= f).run r)).s.canonical
  rw [EStateM.run_bind]
  have hr : (ddRunOf (m.run r)).s.canonical := hm r h
  generalize m.run r = x at hr
  cases x with
  | ok a r' => exact hf a r' hr
  | error e r' => exact hr

theorem DdKeeps.ite (h : DdKeeps m) (h' : DdKeeps m') {c : Prop} {_ : Decidable c} : DdKeeps (if c then m else m') := by
  split
  · exact h
  · exact h'

/-- A check that may stop the operation, before the rest. -/
theorem DdKeeps.check {c : Prop} {_ : Decidable c} {e : DdStop} {f : Unit → DdM α} (hf : ∀ u, DdKeeps (f u)) :
    DdKeeps (if c then (throw e : DdM Unit) >>= f else f ()) := .ite (.bind .stopped hf) (hf ())

/-- Two branches that join. -/
theorem DdKeeps.join (h : DdKeeps m) (h' : DdKeeps m') {c : Prop} {_ : Decidable c} (hf : ∀ a, DdKeeps (f a)) :
    DdKeeps (if c then m >>= f else m' >>= f) := .ite (h.bind hf) (h'.bind hf)

end

section
variable {k : DdCfg}

theorem ddSpend_keeps {n : Nat} : DdKeeps (ddSpend n) := .note

theorem ddMod_keeps {f : Dde → Dde} : DdKeeps (ddMod f) := .modify fun _ h => h.modDde

theorem ddPort_keeps {p n : Nat} : DdKeeps (ddPort p n) := fun r h =>
  h.scrLoad (j := r.j) (l := (r.s.job r.j).lcnOf r.c (p / 2 ^ 21)) (off := p % 2 ^ 21) (n := n)

theorem ddRead_keeps {p n : Nat} : DdKeeps (ddRead p n) :=
  ddPort_keeps.bind fun _ => .check fun _ => .pure

theorem ddWrite_keeps {p n v : Nat} : DdKeeps (ddWrite p n v) := .modify fun _ h => h.ddStore

theorem ddNode_keeps {n : Nat} : DdKeeps (ddNode k n) := ddRead_keeps.bind fun _ => ddRead_keeps.bind fun _ => .pure

theorem ddPut_keeps {n : Nat} {x : DdNode} : DdKeeps (ddPut k n x) := ddWrite_keeps.bind fun _ => ddWrite_keeps

theorem ddLevel_keeps {n : Nat} : DdKeeps (ddLevel k n) := .ite .pure (ddNode_keeps.bind fun _ => .bind .get fun _ => .pure)

theorem ddCheck_keeps {n : Nat} : DdKeeps (ddCheck k n) :=
  .ite .pure (.check fun _ => ddNode_keeps.bind fun _ => .ite .stopped .pure)

theorem ddInc_keeps {n : Nat} : DdKeeps (ddInc k n) :=
  .ite .pure (ddNode_keeps.bind fun _ => .ite .pure (ddPut_keeps.bind fun _ => .note))

theorem ddFind_keeps {v h l fuel n : Nat} : DdKeeps (ddFind k v h l fuel n) := by
  induction fuel generalizing n with
  | zero => exact .pure
  | succ fuel ih =>
    unfold ddFind
    exact .ite .pure (ddSpend_keeps.bind fun _ => ddNode_keeps.bind fun _ => .ite .pure ih)

theorem ddMk_keeps {v h l : Nat} : DdKeeps (ddMk k v h l) := by
  refine .ite .pure (ddRead_keeps.bind fun _ => ddFind_keeps.bind fun o => ?_)
  cases o with
  | some n => exact .pure
  | none =>
    refine .bind .get fun _ => .check fun _ => ?_
    exact ddNode_keeps.bind fun _ => ddMod_keeps.bind fun _ => ddPut_keeps.bind fun _ => ddWrite_keeps.bind fun _ =>
      ddSpend_keeps.bind fun _ => .bind .note fun _ => ddInc_keeps.bind fun _ => ddInc_keeps.bind fun _ => .pure

theorem ddUnlink_keeps {p n next fuel prev cur : Nat} : DdKeeps (ddUnlink k p n next fuel prev cur) := by
  induction fuel generalizing prev cur with
  | zero => exact .pure
  | succ fuel ih =>
    exact .ite .pure (.ite (.ite ddWrite_keeps (ddNode_keeps.bind fun _ => ddPut_keeps)) (ddNode_keeps.bind fun _ => ih))

theorem ddLook_keeps {key f g h : Nat} : DdKeeps (ddLook k key f g h) :=
  ddPort_keeps.bind fun _ => ddPort_keeps.bind fun _ => ddPort_keeps.bind fun _ => ddPort_keeps.bind fun _ =>
    ddMod_keeps.bind fun _ => .ite (ddSpend_keeps.bind fun _ => .pure) .pure

theorem ddEnter_keeps {key f g h v : Nat} : DdKeeps (ddEnter k key f g h v) :=
  ddWrite_keeps.bind fun _ => ddWrite_keeps.bind fun _ => ddWrite_keeps.bind fun _ => ddWrite_keeps.bind fun _ => .note

theorem ddInvalid_keeps {p : Nat} : DdKeeps (ddInvalid p) :=
  ddWrite_keeps.bind fun _ => ddWrite_keeps.bind fun _ => ddWrite_keeps.bind fun _ => ddWrite_keeps

theorem ddCof_keeps {f m : Nat} : DdKeeps (ddCof k f m) := .ite .pure (ddNode_keeps.bind fun _ => .bind .get fun _ => .pure)

theorem ddAp_keeps {tt fuel f g : Nat} : DdKeeps (ddAp k tt fuel f g) := by
  induction fuel generalizing f g with
  | zero => exact .pure
  | succ fuel ih =>
    refine .ite (ddSpend_keeps.bind fun _ => .pure) (ddLook_keeps.bind fun o => ?_)
    cases o with
    | some r => exact .pure
    | none =>
      exact ddSpend_keeps.bind fun _ => ddLevel_keeps.bind fun _ => ddLevel_keeps.bind fun _ => ddCof_keeps.bind fun _ =>
        ddCof_keeps.bind fun _ => ih.bind fun _ => ih.bind fun _ => .bind .get fun _ => ddMk_keeps.bind fun _ =>
        ddEnter_keeps.bind fun _ => .pure

theorem ddIt_keeps {fuel f g h : Nat} : DdKeeps (ddIt k fuel f g h) := by
  induction fuel generalizing f g h with
  | zero => exact .pure
  | succ fuel ih =>
    refine .ite (ddSpend_keeps.bind fun _ => .pure) (ddLook_keeps.bind fun o => ?_)
    cases o with
    | some r => exact .pure
    | none =>
      exact ddSpend_keeps.bind fun _ => ddLevel_keeps.bind fun _ => ddLevel_keeps.bind fun _ => ddLevel_keeps.bind fun _ =>
        ddCof_keeps.bind fun _ => ddCof_keeps.bind fun _ => ddCof_keeps.bind fun _ => ih.bind fun _ => ih.bind fun _ =>
        .bind .get fun _ => ddMk_keeps.bind fun _ => ddEnter_keeps.bind fun _ => .pure

theorem ddRs_keeps {u fuel f : Nat} {b : Bool} : DdKeeps (ddRs k u b fuel f) := by
  induction fuel generalizing f with
  | zero => exact .pure
  | succ fuel ih =>
    refine ddLevel_keeps.bind fun _ => .bind .get fun _ => .ite (ddSpend_keeps.bind fun _ => .pure) (ddNode_keeps.bind fun _ =>
      .ite (ddSpend_keeps.bind fun _ => .pure) (ddLook_keeps.bind fun o => ?_))
    cases o with
    | some r => exact .pure
    | none =>
      exact ddSpend_keeps.bind fun _ => ih.bind fun _ => ih.bind fun _ => ddMk_keeps.bind fun _ =>
        ddEnter_keeps.bind fun _ => .pure

theorem ddSkip_keeps {lf fuel c : Nat} : DdKeeps (ddSkip k lf fuel c) := by
  induction fuel generalizing c with
  | zero => exact .pure
  | succ fuel ih => exact .ite .pure (ddNode_keeps.bind fun _ => .bind .get fun _ => .ite ih .pure)

theorem ddEx_keeps {fuel f c : Nat} : DdKeeps (ddEx k fuel f c) := by
  induction fuel generalizing f c with
  | zero => exact .pure
  | succ fuel ih =>
    refine ddLevel_keeps.bind fun _ => ddSkip_keeps.bind fun _ => .ite (ddSpend_keeps.bind fun _ => .pure)
      (ddLook_keeps.bind fun o => ?_)
    cases o with
    | some r => exact .pure
    | none =>
      refine ddSpend_keeps.bind fun _ => ddNode_keeps.bind fun _ => ddLevel_keeps.bind fun _ => ?_
      refine .join (ddNode_keeps.bind fun _ => .pure) .pure fun _ => ih.bind fun _ => ih.bind fun _ => ?_
      exact .join ddAp_keeps ddMk_keeps fun _ => ddEnter_keeps.bind fun _ => .pure

theorem ddCube_keeps {fuel c : Nat} : DdKeeps (ddCube k fuel c) := by
  induction fuel generalizing c with
  | zero => exact .stopped
  | succ fuel ih => exact .ite .pure (.check fun _ => ddNode_keeps.bind fun _ => .check fun _ => ih)

theorem ddArith_keeps {r : Nat × FlagBits} : DdKeeps (ddArith r) := .bind .note fun _ => .pure

theorem ddWeight_keeps {q : DdSum} {v : Nat} {one : Bool} : DdKeeps (ddWeight k q v one) :=
  .ite .pure (ddPort_keeps.bind fun _ => .ite (.bind .note fun _ => .pure) .pure)

theorem ddSums_keeps {q : DdSum} {ls : List Nat} : DdKeeps (ddSums k q ls) := by
  induction ls with
  | nil => exact .pure
  | cons l ls ih =>
    exact .bind .get fun _ => ddWeight_keeps.bind fun _ => ddWeight_keeps.bind fun _ => ddArith_keeps.bind fun _ =>
      ih.bind fun _ => .pure

theorem ddLift_keeps {q : DdSum} {x : Nat} {ls : List Nat} : DdKeeps (ddLift q x ls) := by
  induction ls generalizing x with
  | nil => exact .pure
  | cons l ls ih => exact ddArith_keeps.bind fun _ => ih

theorem ddWc_keeps {q : DdSum} {fuel u : Nat} : DdKeeps (ddWc k q fuel u) := by
  induction fuel generalizing u with
  | zero => exact .pure
  | succ fuel ih =>
    refine .ite (ddSpend_keeps.bind fun _ => .pure) (ddNode_keeps.bind fun _ => .bind .get fun _ => .check fun _ =>
      ddLook_keeps.bind fun o => ?_)
    cases o with
    | some r => exact .pure
    | none =>
      exact ddSpend_keeps.bind fun _ => ih.bind fun _ => ih.bind fun _ => .bind .get fun _ =>
        ddWeight_keeps.bind fun _ => ddLevel_keeps.bind fun _ => ddLift_keeps.bind fun _ => ddArith_keeps.bind fun _ =>
        ddWeight_keeps.bind fun _ => ddLevel_keeps.bind fun _ => ddLift_keeps.bind fun _ => ddArith_keeps.bind fun _ =>
        ddArith_keeps.bind fun _ => ddEnter_keeps.bind fun _ => .pure

theorem ddCountOp_keeps {root res : Nat} {weighted : Bool} : DdKeeps (ddCountOp k root res weighted) := by
  refine ddCheck_keeps.bind fun _ => .bind .get fun _ => ddSums_keeps.bind fun _ => ddWc_keeps.bind fun _ =>
    ddLevel_keeps.bind fun _ => ddLift_keeps.bind fun _ => .bind (.modify fun r h => ?_) fun _ => .pure
  extract_lets l off
  cases r.s.closed r.j l off (if weighted then 8 else 16) with
  | true => exact h.noteGuard
  | false =>
    cases weighted with
    | true => exact h.scrStore (n := 8)
    | false => exact (h.scrStore (n := 8)).scrStore (n := 8)

theorem ddLower_keeps {n : Nat} : DdKeeps (ddLower k n) :=
  .ite .pure (ddNode_keeps.bind fun _ => .ite .pure (ddPut_keeps.bind fun _ => .pure))

theorem ddFree_keeps {fuel : Nat} {ns : List Nat} : DdKeeps (ddFree k fuel ns) := by
  induction fuel generalizing ns with
  | zero => exact .pure
  | succ fuel ih =>
    cases ns with
    | nil => exact .pure
    | cons n ns =>
      exact ddNode_keeps.bind fun _ => ddRead_keeps.bind fun _ => ddUnlink_keeps.bind fun _ => ddLower_keeps.bind fun _ =>
        ddLower_keeps.bind fun _ => ddPut_keeps.bind fun _ => ddMod_keeps.bind fun _ => ddSpend_keeps.bind fun _ =>
        ih.bind fun _ => .pure

theorem ddDead_keeps {ns : List Nat} : DdKeeps (ddDead k ns) := by
  induction ns with
  | nil => exact .pure
  | cons n ns ih => exact ddNode_keeps.bind fun _ => ih.bind fun _ => .pure

theorem ddRebuild_keeps {ns : List Nat} {head : Nat} : DdKeeps (ddRebuild k ns head) := by
  induction ns generalizing head with
  | nil => exact .pure
  | cons n ns ih => exact ddNode_keeps.bind fun _ => .ite (ddPut_keeps.bind fun _ => ih) ih

theorem ddInvalidAll_keeps {ps : List Nat} : DdKeeps (ddInvalidAll ps) := by
  induction ps with
  | nil => exact .pure
  | cons p ps ih => exact ddInvalid_keeps.bind fun _ => ih

theorem ddGcOp_keeps : DdKeeps (ddGcOp k) :=
  ddSpend_keeps.bind fun _ => ddDead_keeps.bind fun _ => ddFree_keeps.bind fun _ => ddRebuild_keeps.bind fun _ =>
    ddMod_keeps.bind fun _ => ddInvalidAll_keeps.bind fun _ => .pure

theorem ddUnraise_keeps {ns : List Nat} : DdKeeps (ddUnraise k ns) := by
  induction ns with
  | nil => exact .pure
  | cons n ns ih => exact ddNode_keeps.bind fun _ => ddPut_keeps.bind fun _ => ih

theorem ddUnmake_keeps {ns : List Nat} : DdKeeps (ddUnmake k ns) := by
  induction ns with
  | nil => exact .pure
  | cons n ns ih =>
    exact ddNode_keeps.bind fun _ => ddWrite_keeps.bind fun _ => .bind .get fun _ => ddPut_keeps.bind fun _ =>
      ddMod_keeps.bind fun _ => ddSpend_keeps.bind fun _ => ih

theorem ddUndo_keeps : DdKeeps (ddUndo k) :=
  .bind .get fun _ => ddUnraise_keeps.bind fun _ => ddUnmake_keeps.bind fun _ => ddInvalidAll_keeps

theorem ddResult_keeps {m : DdM Nat} (hm : DdKeeps m) : DdKeeps (ddResult k m) :=
  hm.bind fun _ => ddInc_keeps.bind fun _ => .pure

theorem ddMkOp_keeps {v h l : Nat} : DdKeeps (ddMkOp k v h l) :=
  ddCheck_keeps.bind fun _ => ddCheck_keeps.bind fun _ => .bind .get fun _ => ddLevel_keeps.bind fun _ =>
    ddLevel_keeps.bind fun _ => .check fun _ => ddMk_keeps

theorem ddPerform_keeps {o : DdKind} : DdKeeps (ddPerform k o) := by
  cases o with
  | mk v h l => exact ddResult_keeps ddMkOp_keeps
  | apply tt f g => exact ddResult_keeps (ddCheck_keeps.bind fun _ => ddCheck_keeps.bind fun _ => ddAp_keeps)
  | ite f g h =>
    exact ddResult_keeps (ddCheck_keeps.bind fun _ => ddCheck_keeps.bind fun _ => ddCheck_keeps.bind fun _ => ddIt_keeps)
  | restr f u b => exact ddResult_keeps (ddCheck_keeps.bind fun _ => ddRs_keeps)
  | exist f c =>
    exact ddResult_keeps (ddCheck_keeps.bind fun _ => ddCheck_keeps.bind fun _ => ddCube_keeps.bind fun _ => ddEx_keeps)
  | count r res weighted => exact ddCountOp_keeps
  | gc => exact ddGcOp_keeps
  | _ => exact .pure

theorem ddInit_nodes_keeps {ns : List Nat} : DdKeeps (ddInit.nodes k ns) := by
  induction ns with
  | nil => exact .pure
  | cons n ns ih => exact ddPut_keeps.bind fun _ => ih

theorem ddInit_buckets_keeps {bs : List Nat} : DdKeeps (ddInit.buckets k bs) := by
  induction bs with
  | nil => exact .pure
  | cons b bs ih => exact ddWrite_keeps.bind fun _ => ih

theorem ddInit_keeps : DdKeeps (ddInit k) :=
  ddMod_keeps.bind fun _ => ddPut_keeps.bind fun _ => ddPut_keeps.bind fun _ => ddInit_nodes_keeps.bind fun _ =>
    ddInit_buckets_keeps.bind fun _ => ddInvalidAll_keeps.bind fun _ => ddMod_keeps

theorem ddNamed_keeps {n : Nat} : DdKeeps (ddNamed k n) := by
  refine .check fun _ => ddNode_keeps.bind fun _ => ?_
  exact .check fun _ => .pure

theorem ddCommand_keeps {o : DdKind} : DdKeeps (ddCommand k o) := by
  cases o with
  | ref n => exact ddNamed_keeps.bind fun _ => ddInc_keeps.bind fun _ => .pure
  | deref n => exact ddNamed_keeps.bind fun _ => .ite .pure (.check fun _ => ddPut_keeps.bind fun _ => .pure)
  | node n d => exact .check fun _ => ddNode_keeps
  | _ => exact .pure

end

theorem State.canonical.ddOperation (h : s.canonical) {j c e} : (s.ddOperation j c e).1.canonical := by
  unfold State.ddOperation
  split
  · exact h
  · rename_i k _
    extract_lets undone
    have hu (r : DdRun) (hr : r.s.canonical) : (undone r).s.canonical := by
      have hr := ddUndo_keeps (k := k) r hr
      dsimp only [undone]
      cases hx : ddUndo k r with
      | ok _ r => rw [hx] at hr; exact hr
      | error _ r => rw [hx] at hr; exact hr
    have hm := ddPerform_keeps (k := k) (o := e.kind) { s := s, j := j, c := c } h
    cases hx : ddPerform k e.kind { s := s, j := j, c := c } with
    | ok v r =>
      rw [hx] at hm
      exact hm
    | error x r =>
      rw [hx] at hm
      split
      · cases ‹_ = EStateM.Result.ok _ _›
      · cases ‹_ = EStateM.Result.error _ _›
        exact hu r hm
      · cases ‹_ = EStateM.Result.error _ _›
        exact State.canonical.modDde hm
      · cases ‹_ = EStateM.Result.error _ _›
        exact hu r hm

theorem State.canonical.ddConfigure (h : s.canonical) {j c k} : (s.ddConfigure j c k).canonical := by
  have hm := ddInit_keeps (k := k) { s := s, j := j, c := c } h
  unfold State.ddConfigure
  cases hx : ddInit k { s := s, j := j, c := c } with
  | ok _ r => rw [hx] at hm; exact hm
  | error _ r => rw [hx] at hm; exact hm

theorem State.canonical.ddNodeCommand (h : s.canonical) {j c e k} : (s.ddNodeCommand j c e k).1.canonical := by
  have hm := ddCommand_keeps (k := k) (o := e.kind) { s := s, j := j, c := c } h
  unfold State.ddNodeCommand
  cases hx : ddCommand k e.kind { s := s, j := j, c := c } with
  | ok x r =>
    rw [hx] at hm
    have hg : (match r.hit with
        | some p => r.s.markGuard e.w 1 (w64 (0xA * 2 ^ 60 + p))
        | none => r.s).canonical := by
      cases r.hit with
      | none => exact hm
      | some p => exact State.canonical.markGuard hm
    dsimp only
    split
    · exact hg.land
    · exact hg
  | error x r =>
    rw [hx] at hm
    split
    · cases ‹_ = EStateM.Result.ok _ _›
    · cases ‹_ = EStateM.Result.error _ _›
      exact (State.canonical.modDde hm).setFlags
    · cases ‹_ = EStateM.Result.error _ _›
      exact hm
    · cases ‹_ = EStateM.Result.error _ _›
      exact hm

theorem State.canonical.ddOrder (h : s.canonical) {j c u l} : (s.ddOrder j c u l).1.canonical :=
  h.iteFst (h.iteFst h.modDde)

theorem State.canonical.ddCommandTurn (h : s.canonical) {j c e} : (s.ddCommandTurn j c e).1.canonical := by
  fun_cases State.ddCommandTurn s j c e with
  | case1 => exact h.readBlock.of_eq ‹_›
  | case2 => exact (h.readBlock.of_eq ‹_›).ddConfigure
  | case3 => exact h
  | case4 => exact h.ddOrder
  | case5 => exact h
  | case6 => exact (h.scrStore.of_eq ‹_›).markGuard
  | case7 => exact h.ddNodeCommand

theorem State.canonical.ddTake (h : s.canonical) {j c e rest} : (s.ddTake j c e rest).canonical := by
  unfold State.ddTake
  dsimp only
  split
  · exact h.modDde.passPlace.ddOperation.later
  · exact h.modDde.passPlace.ddCommandTurn.later

theorem State.canonical.kickDde (h : s.canonical) {j c} : (s.kickDde j c).canonical := by
  unfold State.kickDde
  split
  · exact h
  · split
    · exact h
    · split
      · exact h
      · split
        · exact h.tookTurn.ddTake
        · exact h

theorem State.canonical.ddCommandEnd (h : s.canonical) {e c} : (s.ddCommandEnd e c).canonical := by
  unfold State.ddCommandEnd
  dsimp only
  split
  · split
    · exact h.unpark.advance.modThread
    · split
      · exact h.trapAt
      · exact h.trapAt
  · exact h

theorem execDdResolve_canonical (h : s.canonical) {job clu e c flags} : nextCanonical (execDdResolve job clu e c flags s) := by
  unfold execDdResolve
  split
  · exact h.next
  · split
    · exact h.later.next
    · dsimp only
      split
      · exact h.modDde.later.resolve.next
      · exact h.modDde.later.ddCommandEnd.next

theorem State.canonical.ddCommandIssue (h : s.canonical) {kind} : (s.ddCommandIssue kind).canonical :=
  h.park.ite h.spend.later.park

theorem State.canonical.ddOperationIssue (h : s.canonical) {d kind} : (s.ddOperationIssue d kind).canonical :=
  h.park.ite (h.withHandle (fun _ _ h => h.spend.later.modThread.advance))

theorem State.canonical.ddNeeds (h : s.canonical) {g : Gd} {body : State → State} (hb : (body s).canonical) :
    nextCanonical (s.ddNeeds g body) := h.guarded (hb.ite h.trap)

theorem execDdcfg_canonical (h : s.canonical) {g a} : nextCanonical (execDdcfg g a s) := by
  unfold execDdcfg
  refine h.guarded (h.trap.ite ?_)
  split
  · exact h.trap
  · exact h.ddCommandIssue

theorem State.canonical.ddCount (h : s.canonical) {d a weighted} : (s.ddCount d a weighted).canonical :=
  h.trap.ite (h.trap.ite h.ddOperationIssue)

/-! ### The cast -/

theorem State.canonical.modEntry (h : s.canonical) {j i f} : (s.modEntry j i f).canonical :=
  h.modJob

theorem State.canonical.castTrap (h : s.canonical) {w sub stage} : (s.castTrap w sub stage).canonical :=
  h.trap

theorem State.canonical.parkRecord (h : s.canonical) {w} : (s.parkRecord w).canonical :=
  h.park

theorem State.canonical.wakeRecord (h : s.canonical) {w} : (s.wakeRecord w).canonical := by
  unfold State.wakeRecord
  split
  · exact h.unpark
  · exact h

theorem State.canonical.castSend (h : s.canonical) {c w l l' e} : (s.castSend c w l l' e).canonical :=
  h.sendTo

theorem State.canonical.askHome (h : s.canonical) {w e} : (s.askHome w e).canonical :=
  h.stallFor.castSend

theorem State.canonical.answerFrom (h : s.canonical) {w e} : (s.answerFrom w e).canonical :=
  h.castSend

theorem State.canonical.homeDone (h : s.canonical) {w} : (s.homeDone w).canonical :=
  h.unstall.modThread.advance

theorem State.canonical.launchFrame (h : s.canonical) {f} : (s.launchFrame f).canonical :=
  h.castSend

theorem State.canonical.sendFrame (h : s.canonical) {w dst header body own} : (s.sendFrame w dst header body own).canonical :=
  h.drawn.modThread.ite h.drawn.modThread.launchFrame

theorem State.canonical.frameDone (h : s.canonical) {f} : (s.frameDone f).canonical := by
  unfold State.frameDone
  dsimp only
  split
  · exact (((h.modThread.wakeRecord.ite h.modThread).modThread).launchFrame).ite (h.modThread.wakeRecord.ite h.modThread)
  · exact h.modThread.wakeRecord.ite h.modThread

theorem execRecordFrameArrival_canonical (h : s.canonical) {f} : nextCanonical (execRecordFrameArrival f s) :=
  ((h.modThread.wakeRecord.ite h.modThread.wakeRecord.frameDone).next).ite (((h.ite h.modThread).sendTo).next)

theorem execFrameResend_canonical (h : s.canonical) {f} : nextCanonical (execFrameResend f s) :=
  h.launchFrame.next.ite (h.next.ite (h.modThread.next.ite h.launchFrame.next))

theorem execRsend_canonical (h : s.canonical) {g a b} : nextCanonical (execRsend g a b s) := by
  unfold execRsend
  refine h.guarded (h.castTrap.ite (h.castTrap.ite (h.castTrap.ite ?_)))
  dsimp only
  split
  · exact h.trap
  · exact h.parkRecord.ite (h.atBlock (fun _ h => h.readBlock.sendFrame.advance))

theorem execRrecv_canonical (h : s.canonical) {g d a} : nextCanonical (execRrecv g d a s) := by
  unfold execRrecv
  refine h.guarded (h.castTrap.ite ?_)
  dsimp only
  split
  · exact h.parkRecord
  · split
    · exact h.result
    · split
      · exact h.trap
      · exact h.atBlock (fun _ h => h.scrWrite.markGuard.modThread.result)

theorem State.canonical.setGroup (h : s.canonical) {w id blk devs} : (s.setGroup w id blk devs).canonical :=
  h.modJob.modThread

theorem State.canonical.castPerform (h : s.canonical) {w x2} : (s.castPerform w x2).1.canonical := by
  unfold State.castPerform
  split
  · exact h
  · exact h.modEntry
  · exact h.iteFst (((h.foldl fun _ h _ => h.modEntry).ite ((h.foldl fun _ h _ => h.modEntry).modThread)).modEntry)
  · exact h.modEntry.iteFst h
  · exact h.foldl fun _ h _ => h.modEntry
  · exact h.setGroup
  · exact h

theorem execCastAccess_canonical (h : s.canonical) {w r} : nextCanonical (execCastAccess w r s) := by
  unfold execCastAccess
  split
  · exact h.later.next.ite (h.next.ite h.landS.homeDone.next)
  · split
    · exact h.later.next
    · split
      · exact h.next
      · split
        · exact h.land.homeDone.next
        · exact h.homeDone.next
  · exact h.later.next.ite (h.next.ite h.unstall.castTrap.next)
  · exact ((h.unstall.ite h.later).next).ite ((h.castPerform.ite h.castPerform.answerFrom).next)

theorem State.canonical.castLeave (h : s.canonical) {w} : (s.castLeave w).canonical :=
  h.castSend.ite h

theorem State.canonical.armCue (h : s.canonical) {j hdl} : (s.armCue j hdl).1.canonical := by
  unfold State.armCue
  split
  · exact h
  · exact (((h.foldl fun _ h _ => h.modEntry).modEntry).ite (h.foldl fun _ h _ => h.modEntry)).modJob

theorem State.canonical.releaseCue (h : s.canonical) {j hdl} : (s.releaseCue j hdl).canonical :=
  (((h.foldl fun _ h _ => h.modEntry).modEntry).ite (h.foldl fun _ h _ => h.modEntry)).modJob

theorem State.canonical.commitCue (h : s.canonical) {j hdl} : (s.commitCue j hdl).1.canonical := by
  unfold State.commitCue
  refine .releaseCue ?_
  split
  · exact h.modEntry.modEntry
  · exact h.modEntry
  · refine .modEntry ?_
    split
    · exact h.modEntry
    · exact h
  · exact h

theorem State.canonical.tryOpen (h : s.canonical) {v} : (s.tryOpen v).canonical := by
  unfold State.tryOpen
  dsimp only
  split
  · exact h.modThread.castSend.ite h
  · exact h

theorem execBindToken_canonical (h : s.canonical) {t} : nextCanonical (execBindToken t s) :=
  h.later.next.ite h.modThread.tryOpen.wakeRecord.next

theorem execOpenToken_canonical (h : s.canonical) {t} : nextCanonical (execOpenToken t s) :=
  h.later.next.ite (h.later.next.ite h.modThread.wakeRecord.next)

theorem execUnbindToken_canonical (h : s.canonical) {u t cue} : nextCanonical (execUnbindToken u t cue s) :=
  h.later.next.ite (h.later.next.ite (h.modThread.wakeRecord.next.ite h.modThread.wakeRecord.castSend.castSend.next))

theorem State.canonical.forwardCue (h : s.canonical) {w dns hdl} : (s.forwardCue w dns hdl).canonical :=
  h.sendFrame.ite h

theorem State.canonical.cueEnd (h : s.canonical) {t res} : (s.cueEnd t res).canonical := by
  obtain ⟨w, c, d, role, answer, waits⟩ := t
  cases d with
  | none => exact h.homeDone.ite h.modThread.advance
  | some d => exact h.landS.homeDone.ite h.landS.modThread.advance

theorem State.canonical.rebind (h : s.canonical) {w ws} : (s.rebind w ws).canonical :=
  h.land.ite h.applyWrites

theorem State.canonical.failCue (h : s.canonical) {t reason} : (s.failCue t reason).canonical := by
  unfold State.failCue
  dsimp only
  split
  · exact h.castSend.cueEnd
  · exact h.askHome

theorem execCueFailReturn_canonical (h : s.canonical) {t} : nextCanonical (execCueFailReturn t s) := by
  unfold execCueFailReturn
  dsimp only
  split
  · exact h.later.next.ite ((((((h.releaseCue.ite h).drawn).launchFrame).answerFrom).ite
      (((h.releaseCue.ite h).drawn).launchFrame)).next)
  · exact h.later.next.ite (h.next.ite h.cueEnd.next)

theorem State.canonical.leaveStage (h : s.canonical) {t} : (s.leaveStage t).canonical :=
  h.modThread.failCue.ite (h.modThread.forwardCue.rebind.cueEnd.ite h.modThread.forwardCue.askHome)

theorem State.canonical.sendBind (h : s.canonical) {w o ups dns stg opens} : (s.sendBind w o ups dns stg opens).canonical :=
  h.castSend

theorem State.canonical.cueFirst (h : s.canonical) {t} : (s.cueFirst t).canonical := by
  unfold State.cueFirst
  dsimp only
  split
  · exact h.forwardCue.sendBind.rebind.cueEnd.ite h.forwardCue.sendBind.rebind.askHome
  · exact h.forwardCue.sendBind.rebind.cueEnd
  · exact h.forwardCue.rebind.cueEnd

theorem execCueArm_canonical (h : s.canonical) {t} : nextCanonical (execCueArm t s) := by
  unfold execCueArm
  dsimp only
  split
  · exact h.later.next.ite h.armCue.answerFrom.next
  · exact h.later.next.ite (h.next.ite ((((h.modThread.ite h).failCue).next).ite ((h.cueFirst.ite h.leaveStage).next)))

theorem execCueCommit_canonical (h : s.canonical) {t} : nextCanonical (execCueCommit t s) := by
  unfold execCueCommit
  dsimp only
  split
  · exact h.later.next.ite h.commitCue.answerFrom.next
  · split
    · exact h.later.next
    · split
      · exact h.next
      · refine .next (.cueEnd ?_)
        split
        · exact h.rebind.forwardCue
        · exact h.rebind
        · exact h

theorem State.canonical.takeCue (h : s.canonical) {w c d pop} (hp : ∀ t, t.canonical → (pop t).canonical) :
    (s.takeCue w c d pop).canonical := by
  have hs := hp s h
  unfold State.takeCue
  refine h.parkRecord.ite ?_
  dsimp only
  split
  · exact hs.cueEnd
  · exact hs.forwardCue.cueEnd.ite (hs.cueEnd.ite hs.failCue)
  · exact hs.askHome
  · exact hs.leaveStage.ite hs.askHome
  · exact (hs.castSend.ite hs).askHome

theorem execCue_canonical (h : s.canonical) {g a} : nextCanonical (execCue g a s) :=
  h.guarded (h.castTrap.ite (h.castTrap.ite (h.takeCue fun _ h => h)))

theorem execCuetake_canonical (h : s.canonical) {g d a} : nextCanonical (execCuetake g d a s) := by
  unfold execCuetake
  refine h.guarded ?_
  dsimp only
  split
  · exact (h.takeCue (fun _ h => h.modThread)).ite h.castTrap
  · exact h.castTrap

theorem execSthand_canonical (h : s.canonical) {g d a b} : nextCanonical (execSthand g d a b s) := by
  unfold execSthand
  refine h.guarded (h.castTrap.ite (h.castTrap.ite ?_))
  dsimp only
  split
  · exact h.trap
  · exact h.atBlock (fun _ h => h.withHandle (fun _ _ h => h.scrRead.drawn.castSend.advance))

theorem execSttake_canonical (h : s.canonical) {g d a} : nextCanonical (execSttake g d a s) := by
  unfold execSttake
  refine h.guarded (h.castTrap.ite (h.castTrap.ite ?_))
  split
  · exact h.trap
  · exact h.withHandle (fun _ _ h => h.modThread.advance)

theorem State.canonical.sendState (h : s.canonical) {x} : (s.sendState x).canonical := by
  unfold State.sendState
  split
  · exact h.sendTo
  · exact h

theorem State.canonical.landState (h : s.canonical) {x v} : (s.landState x v).canonical := by
  unfold State.landState
  dsimp only
  split
  · exact h.scrWrite.modThread.resolve.later.castSend
  · exact h.sendTo

theorem State.canonical.stateTaken (h : s.canonical) {x v} : (s.stateTaken x v).canonical :=
  h.modThread.tryOpen.ite h

theorem execStateTransfer_canonical (h : s.canonical) {x} : nextCanonical (execStateTransfer x s) := by
  unfold execStateTransfer
  dsimp only
  split
  · exact h.later.next.ite h.answerFrom.next
  · exact h.sendState.next.ite h.modThread.resolve.next
  · split
    · exact (h.later.ite h.landState).next
    · exact h.next
  · split
    · exact h.stateTaken.next
    · exact h.next
  · exact h.modThread.resolve.next

/-! ### Reductions -/

theorem execRedcfg_canonical (h : s.canonical) {g a} : nextCanonical (execRedcfg g a s) := by
  unfold execRedcfg
  refine h.guarded ?_
  dsimp only
  split
  · exact h.trap
  · refine h.atBlock (fun _ h => ?_)
    split
    · exact h.trap
    · exact h.trap
    · exact h.trap.ite (h.trap.ite h.readBlock.drawn.modThread.castSend.advance)
  · exact h.trap

theorem State.canonical.modGroup (h : s.canonical) {j grp f} : (s.modGroup j grp f).canonical :=
  h.modJob

theorem State.canonical.modRed (h : s.canonical) {j grp k f} : (s.modRed j grp k f).canonical :=
  h.modGroup

theorem State.canonical.contribute (h : s.canonical) {grp kind op t rm sat d vals va} :
    (s.contribute grp kind op t rm sat d vals va).canonical := by
  unfold State.contribute
  dsimp only
  split
  · exact h.trap
  · split
    · exact h.trap
    · split
      · exact h.trap
      · exact h.park.ite (h.withHandle (fun _ _ h => h.modGroup.later.modThread.advance))

theorem State.canonical.redSend (h : s.canonical) {d j l l' e vec} : (s.redSend d j l l' e vec).canonical :=
  h.sendTo

theorem State.canonical.redPeer (h : s.canonical) {j grp k g rank down m} : (s.redPeer j grp k g rank down m).canonical := by
  unfold State.redPeer
  dsimp only
  split
  · exact h.peerSend
  · exact h

theorem State.canonical.redDevice (h : s.canonical) {j grp k d} : (s.redDevice j grp k d).canonical := by
  unfold State.redDevice
  split
  · exact h
  · dsimp only
    split
    · exact h
    · exact h.ite (h.modRed.later.ite h.modRed.redPeer)

theorem State.canonical.redNode (h : s.canonical) {j grp k i} : (s.redNode j grp k i).canonical := by
  unfold State.redNode
  dsimp only
  split
  · exact h
  · split
    · exact h
    · exact h.ite (h.modRed.redDevice.ite h.modRed.redSend)

theorem State.canonical.redFromBelow (h : s.canonical) {j grp k m} : (s.redFromBelow j grp k m).canonical := by
  unfold State.redFromBelow
  split
  · exact h
  · exact h.modRed.redDevice.ite h

theorem execRedCombine_canonical (h : s.canonical) {job grp k node i} : nextCanonical (execRedCombine job grp k node i s) := by
  unfold execRedCombine
  split
  · exact h.later.next
  · split
    · exact h.redFromBelow.next
    · exact h.next.ite h.modRed.redNode.next
    · exact h.redNode.next

theorem execRedBroadcast_canonical (h : s.canonical) {job grp k i} : nextCanonical (execRedBroadcast job grp k i s) := by
  unfold execRedBroadcast
  split
  · exact h.later.next
  · split
    · exact h.next
    · split
      · exact h.next
      · exact (((((h.modRed.ite h).foldl fun _ h _ => h.redPeer).ite (h.modRed.ite h)).foldl fun _ h _ => h.redSend).later).next

theorem State.canonical.redNodeDone (h : s.canonical) {j grp k node m} : (s.redNodeDone j grp k node m).canonical :=
  h.modGroup

theorem execRedResolve_canonical (h : s.canonical) {job grp k node} : nextCanonical (execRedResolve job grp k node s) := by
  unfold execRedResolve
  dsimp only
  split
  · exact h.later.next
  · split
    · exact h.next
    · split
      · exact h.next
      · split
        · exact h.scrWrite.resolve.redNodeDone.next
        · exact h.resolve.redNodeDone.next

/-! ### The span unit -/

theorem State.canonical.modLink (h : s.canonical) {j k f} : (s.modLink j k f).canonical :=
  h.modJob

theorem State.canonical.modProd (h : s.canonical) {j k pid f} : (s.modProd j k pid f).canonical :=
  h.modLink

theorem State.canonical.spanTrap (h : s.canonical) {w c link tag sub} : (s.spanTrap w c link tag sub).canonical :=
  h.trap

theorem State.canonical.unbind (h : s.canonical) {w link pid} : (s.unbind w link pid).canonical :=
  h.modThread

theorem State.canonical.partnerRelease (h : s.canonical) {j k pid} : (s.partnerRelease j k pid).canonical := by
  unfold State.partnerRelease
  split
  · exact h.unbind.ite h
  · exact h

theorem State.canonical.portKick (h : s.canonical) {j k lcn} : (s.portKick j k lcn).canonical := by
  unfold State.portKick
  dsimp only
  split
  · exact h
  · split
    · exact h
    · split
      · exact h
      · exact h.modLink.modProd.atCycle

theorem State.canonical.spin (h : s.canonical) {j k} : (s.spin j k).canonical := by
  unfold State.spin
  dsimp only
  split
  · exact h
  · split
    · exact h
    · exact h.modLink.later.ite (h.ite h.modLink.later)

theorem State.canonical.linkGo (h : s.canonical) {j k} : (s.linkGo j k).canonical :=
  h.portKick.portKick.spin

theorem State.canonical.linkKick (h : s.canonical) {j k} : (s.linkKick j k).canonical :=
  h.linkGo.foldl fun _ h _ => h.linkGo

theorem execSpanSlotTake_canonical (h : s.canonical) {job link pid} : nextCanonical (execSpanSlotTake job link pid s) := by
  unfold execSpanSlotTake
  dsimp only
  split
  · exact h.modLink.modProd.linkKick.next.ite h.next
  · exact h.next

theorem State.canonical.dropProd (h : s.canonical) {j k pid} : (s.dropProd j k pid).canonical := by
  unfold State.dropProd
  split
  · exact h
  · dsimp only
    split
    · exact h.modLink.later
    · exact h.modLink

theorem State.canonical.present (h : s.canonical) {lead t dir slot scl keep bop d a b} :
    (s.present lead t dir slot scl keep bop d a b).canonical := by
  unfold State.present
  dsimp only
  split
  · exact h.spanTrap
  · exact h.spanTrap.ite (h.spanTrap.ite (h.spanTrap.ite (h.park.ite h.stallFor.later)))

theorem State.canonical.acceptArr (h : s.canonical) {a pid} : (s.acceptArr a pid).1.canonical :=
  h.allocEntry.modThread.land

theorem State.canonical.withdrawArr (h : s.canonical) {x} : (s.withdrawArr x).canonical :=
  h.modLink.modThread

theorem State.canonical.opened (h : s.canonical) {a} : (s.opened a).canonical :=
  h.modThread.unpark.unstall.advance

theorem State.canonical.pairUp (h : s.canonical) {x a} : (s.pairUp x a).canonical :=
  (((h.acceptArr.opened.opened.foldl fun _ h _ => h.modThread).resolve).resolve).ite h.acceptArr.opened.opened.modLink.later

theorem State.canonical.queueArr (h : s.canonical) {a} : (s.queueArr a).canonical :=
  h.drawn.acceptArr.modLink.unstall.park

theorem execSpanArrival_canonical (h : s.canonical) {a} : nextCanonical (execSpanArrival a s) := by
  unfold execSpanArrival
  dsimp only
  split
  · exact h.next
  · split
    · exact h.queueArr.next
    · split
      · exact h.queueArr.next
      · split
        · exact h.unstall.spanTrap.next
        · exact h.modLink.pairUp.next

theorem execSfeed_canonical (h : s.canonical) {g dir a b imm} : nextCanonical (execSfeed g dir a b imm s) := by
  unfold execSfeed
  refine h.guarded ?_
  dsimp only
  split
  · exact h.spanTrap
  · split
    · exact h.spanTrap
    · split
      · exact h.spanTrap
      · split
        · exact h.spanTrap
        · split
          · exact h.trap
          · split
            · exact h.trap
            · exact h.park.ite h.drawn.modProd.partnerRelease.portKick.modThread.advance

theorem State.canonical.readRow (h : s.canonical) {j l off} : (s.readRow j l off).1.canonical :=
  h.foldlFst (p := (s, 0, false, [])) fun _ h _ => h.scrLoad (n := 8)

theorem State.canonical.wakeFeed (h : s.canonical) {w dir} : (s.wakeFeed w dir).canonical := by
  unfold State.wakeFeed
  split
  · exact h.unpark.ite h
  · exact h

theorem State.canonical.portFree (h : s.canonical) {j k pid lead} : (s.portFree j k pid lead).canonical :=
  h.modLink

theorem State.canonical.portDone (h : s.canonical) {j k pid lead e f fs} : (s.portDone j k pid lead e f fs).canonical :=
  (h.portFree.modProd.wakeFeed.ite h.portFree.modProd).linkKick

theorem State.canonical.portRow (h : s.canonical) {j k pid lead e f} : (s.portRow j k pid lead e f).canonical := by
  unfold State.portRow
  dsimp only
  exact h.readRow.modProd.atCycle

theorem execSpanPortRead_canonical (h : s.canonical) {job link pid lead} :
    nextCanonical (execSpanPortRead job link pid lead s) := by
  fun_cases execSpanPortRead job link pid lead s with
  | case1 => exact h.portFree.linkKick.next
  | case2 => exact h.portFree.linkKick.next
  | case3 => exact h.portDone.next
  | case4 => exact h.portFree.next
  | case5 => exact h.portRow.next
  | case6 _ _ _ _ _ _ _ _ _ _ _ t _ he => exact (h.bankRun.of_eq he).portRow.next
  | case7 _ _ _ _ _ _ _ _ _ _ _ t _ he => exact (h.bankRun.of_eq he).modProd.atCycle.next
  | case8 => exact h.modProd.sendTo.next
  | case9 => exact h.portDone.next

theorem State.canonical.promoteKick (h : s.canonical) {j k pid} : (s.promoteKick j k pid).canonical := by
  unfold State.promoteKick
  split
  · exact h.modProd.later.ite h
  · exact h

theorem execSscale_canonical (h : s.canonical) {g dir a b} : nextCanonical (execSscale g dir a b s) := by
  unfold execSscale
  refine h.guarded ?_
  dsimp only
  split
  · exact h.spanTrap
  · split
    · exact h.spanTrap
    · split
      · exact h.trap
      · split
        · exact h.trap
        · exact h.atBlock (fun _ h => h.scrRead.modProd.partnerRelease.promoteKick.modThread.advance)

theorem State.canonical.resolveParty (h : s.canonical) {p link e st hi} : (s.resolveParty p link e st hi).canonical :=
  h.resolve.ite (h.resolve.setFlags.modThread.ite h.resolve.setFlags)

theorem State.canonical.resolveBoth (h : s.canonical) {j k p ls ps hi} : (s.resolveBoth j k p ls ps hi).canonical :=
  h.unbind.unbind.ite h.unbind.unbind.resolveParty.resolveParty.modProd

theorem State.canonical.dropProdHeld (h : s.canonical) {j k pid} : (s.dropProdHeld j k pid).canonical := by
  unfold State.dropProdHeld
  split
  · refine h.modProd.foldl fun t h x => ?_
    dsimp only
    split
    · exact h.returnPermit
    · exact h.returnPermit
    · exact h.returnPermit
    · exact h
  · exact h

theorem State.canonical.wakeFeeds (h : s.canonical) {p} : (s.wakeFeeds p).canonical :=
  h.wakeFeed.wakeFeed

theorem State.canonical.abortNow (h : s.canonical) {j k pid} : (s.abortNow j k pid).canonical := by
  unfold State.abortNow
  split
  · exact h
  · exact h.dropProdHeld.resolveBoth.dropProd.wakeFeeds.linkKick

theorem State.canonical.abortProd (h : s.canonical) {j k pid} : (s.abortProd j k pid).canonical := by
  unfold State.abortProd
  split
  · split
    · exact h.unbind.unbind.modProd.wakeFeeds
    · exact h
  · exact h.abortNow

theorem execSabort_canonical (h : s.canonical) {g dir slot} : nextCanonical (execSabort g dir slot s) := by
  unfold execSabort
  refine h.guarded ?_
  dsimp only
  split
  · exact h.advance
  · split
    · exact (h.abortProd.ite h).advance
    · exact h.advance

theorem State.canonical.startDelivery (h : s.canonical) {j k p c} : (s.startDelivery j k p c).canonical := by
  unfold State.startDelivery
  dsimp only
  split
  · exact h.modProd.foldl fun _ h _ => h.sendTo
  · exact h.modProd.modProd.later

theorem State.canonical.deliverKick (h : s.canonical) {j k pid} : (s.deliverKick j k pid).canonical := by
  unfold State.deliverKick
  split
  · split
    · exact h.ite (h.startDelivery.ite ((h.modProd.later.ite h.startDelivery).ite h))
    · exact h
  · exact h

theorem execSpanPromote_canonical (h : s.canonical) {job link pid} : nextCanonical (execSpanPromote job link pid s) := by
  unfold execSpanPromote
  split
  · exact h.next
  · split
    · exact h.modProd.next
    · exact h.modLink.modProd.promoteKick.deliverKick.next

theorem State.canonical.endKstep (h : s.canonical) {j k pid} : (s.endKstep j k pid).canonical := by
  unfold State.endKstep
  dsimp only
  split
  · exact h.modLink.linkKick
  · exact h.modLink.abortNow.ite h.modLink.modProd.promoteKick.linkKick

theorem State.canonical.tileAck (h : s.canonical) {j k p l} : (s.tileAck j k p l).canonical :=
  h.sendTo

theorem State.canonical.modDel (h : s.canonical) {j k pid r f} : (s.modDel j k pid r f).canonical :=
  h.modProd

theorem State.canonical.stopDelivery (h : s.canonical) {j k p r q va c} : (s.stopDelivery j k p r q va c).canonical := by
  unfold State.stopDelivery
  refine .later (.modProd ?_)
  split
  · exact h.returnPermit
  · exact h

theorem State.canonical.sendRow (h : s.canonical) {j k p c r q} : (s.sendRow j k p c r q).canonical := by
  unfold State.sendRow
  dsimp only
  split
  · exact h.ite h.startWalk
  · exact h.stopDelivery
  · exact h.stopDelivery
  · exact h.drawn.modDel.injectPacket.later.ite (h.modDel.returnPermit.later.ite
      (h.takePermit.drawn.modDel.injectPacket.later.ite h.modDel.modPCore))

theorem State.canonical.deliverPool (h : s.canonical) {j k p c} : (s.deliverPool j k p c).canonical := by
  unfold State.deliverPool
  dsimp only
  split
  · exact h.ite h.modProd.later
  · split
    · exact h.ite h.modProd.later
    · split
      · exact h
      · split
        · exact h.stopDelivery
        · exact h.sendRow

theorem State.canonical.rowTurn (h : s.canonical) {j k p c r q} : (s.rowTurn j k p c r q).canonical := by
  unfold State.rowTurn
  split
  · exact h.poolWrite.modDel.drawn.injectPacket
  · exact h.modDel.returnPermit.later
  · exact h

theorem State.canonical.writeRow (h : s.canonical) {j k p c r l off} : (s.writeRow j k p c r l off).canonical :=
  h.scrWrite.markGuard.modProd.tileAck.ite h.scrWrite.markGuard.modProd

theorem execSpanDeliver_canonical (h : s.canonical) {job link u} : nextCanonical (execSpanDeliver job link u s) := by
  fun_cases execSpanDeliver job link u s with
  | case4 => exact h.modProd.later.next
  | case5 => exact h.writeRow.next
  | case6 => exact (h.bankRun.of_eq ‹_ = _›).writeRow.next
  | case7 => exact (h.bankRun.of_eq ‹_ = _›).modProd.atCycle.next
  | case9 => exact h.rowTurn.next
  | case11 => exact h.deliverPool.next
  | _ => exact h.next

theorem execSpanDeliveryStop_canonical (h : s.canonical) {job link pid} :
    nextCanonical (execSpanDeliveryStop job link pid s) := by
  unfold execSpanDeliveryStop
  split
  · exact h.next
  · exact h.placeTq.modProd.later.next

theorem State.canonical.writeDone (h : s.canonical) {j k p c} : (s.writeDone j k p c).canonical := by
  unfold State.writeDone
  extract_lets w l shut v
  split
  rename_i t o he
  have ht : t.canonical := h.scrElem.of_eq he
  extract_lets t₁ t₂
  have h₁ : t₁.canonical := (ht.markGuard.modProd).ite ht.serveWaiters
  have h₂ : t₂.canonical := h₁.setFlags.ite h₁
  exact h₂.sendTo

theorem execSpanDoneWord_canonical (h : s.canonical) {job link pid} : nextCanonical (execSpanDoneWord job link pid s) := by
  unfold execSpanDoneWord
  split
  · exact h.next
  · split
    · exact h.next
    · exact h.modProd.sendTo.next.ite (h.modProd.later.next.ite (h.writeDone.next.ite
        (h.bankSlot.writeDone.next.ite h.bankSlot.modProd.atCycle.next)))

theorem execSpanResolve_canonical (h : s.canonical) {job link pid} : nextCanonical (execSpanResolve job link pid s) := by
  unfold execSpanResolve
  split
  · exact h.next
  · split
    · exact h.next
    · exact h.resolveBoth.modProd.next.ite h.resolveBoth.dropProd.linkKick.next

/-- A close that its operands refuse takes a trap. -/
theorem State.canonical.closeRec (h : s.canonical) {u : State} {t rm sat rdl k a b imm} {f : State → State}
    (hf : u.closeRec t rm sat rdl k a b imm = .error f) : (f s).canonical := by
  revert hf
  fun_cases State.closeRec u t rm sat rdl k a b imm with
  | case1 => rintro ⟨⟩; exact h.spanTrap
  | case2 => rintro ⟨⟩
  | case3 => rintro ⟨⟩; exact h.trap
  | case4 => rintro ⟨⟩; exact h.trap
  | case5 => rintro ⟨⟩; exact h.trap
  | case6 => rintro ⟨⟩

theorem execSclose_canonical (h : s.canonical) {g t rm sat dir a b imm} :
    nextCanonical (execSclose g t rm sat dir a b imm s) := by
  unfold execSclose
  refine h.guarded ?_
  dsimp only
  split
  · exact h.spanTrap
  · refine h.spanTrap.ite (h.spanTrap.ite ?_)
    split
    · exact h.closeRec ‹_›
    · exact h.unbind.modProd.deliverKick.modThread.advance

theorem execScloseRdl_canonical (h : s.canonical) {g t rm sat dir slot a b imm} :
    nextCanonical (execScloseRdl g t rm sat dir slot a b imm s) := by
  unfold execScloseRdl
  refine h.guarded ?_
  dsimp only
  split
  · exact h.spanTrap
  · split
    · exact h.closeRec ‹_›
    · exact h.modThread.dropProd.linkKick.advance.ite h.modThread.modProd.deliverKick.advance

theorem execSstat_canonical (h : s.canonical) {g d a} : nextCanonical (execSstat g d a s) := by
  unfold execSstat
  refine h.guarded ?_
  dsimp only
  split
  · exact h.spanTrap
  · exact h.result

theorem State.canonical.abortBound (h : s.canonical) {w} : (s.abortBound w).canonical :=
  h.foldl fun _ h _ => h.abortProd

/-! ### The end of a thread -/

theorem State.canonical.dropAdopted (h : s.canonical) {w} : (s.dropAdopted w).canonical :=
  h.modJob

theorem State.canonical.dropContributions (h : s.canonical) {w} : (s.dropContributions w).canonical :=
  h.modJob

theorem State.canonical.endThread (h : s.canonical) {w v} : (s.endThread w v).canonical := by
  unfold State.endThread
  dsimp only
  split
  · exact (h.abortBound.castLeave.dropAdopted.modThread.dropContributions.modJob.ite
      h.abortBound.castLeave.dropAdopted.modThread.dropContributions).later
  · split
    · exact h.abortBound.castLeave.dropAdopted.modThread.dropContributions.resolve
    · exact h.abortBound.castLeave.dropAdopted.modThread.dropContributions

theorem execExit_canonical (h : s.canonical) {g a} : nextCanonical (execExit g a s) :=
  h.guarded (h.ite (h.trap.ite (h.park.ite h.endThread)))

/-! ### System instructions -/

theorem State.canonical.holdThread (h : s.canonical) {v} : (s.holdThread v).canonical :=
  h.modThread

theorem State.canonical.releaseCore (h : s.canonical) {pc} : (s.releaseCore pc).canonical :=
  (h.foldl fun _ h _ => h.modThread).modPCore

theorem State.canonical.haltCore (h : s.canonical) {w pc} : (s.haltCore w pc).canonical :=
  ((h.foldl fun _ h _ => h.holdThread).modPCore).ite ((((h.foldl fun _ h _ => h.holdThread).modPCore).advance).ite
    (((((h.foldl fun _ h _ => h.holdThread).modPCore).advance).holdThread).ite ((h.foldl fun _ h _ => h.holdThread).modPCore)))

theorem State.canonical.fenceTrap (h : s.canonical) {w} : (s.fenceTrap w).canonical :=
  h.trap.ite (h.modThread.trap.ite (h.modThread.trap.ite h.advance))

theorem State.canonical.intoHold (h : s.canonical) {w d ws} : (s.intoHold w d ws).canonical :=
  h.modThread.result

theorem State.canonical.popTq (h : s.canonical) {w} : (s.popTq w).1.canonical := by
  unfold State.popTq
  split
  · split
    · exact h
    · exact h.frame
  · dsimp only
    split
    · exact h
    · exact h.modPCore

theorem execTqpop_canonical (h : s.canonical) {g w d} : nextCanonical (execTqpop g w d s) :=
  h.privileged (h.popTq.intoHold.ite h.result)

theorem execSfqpop_canonical (h : s.canonical) {g w tr d} : nextCanonical (execSfqpop g w tr d s) := by
  unfold execSfqpop
  refine h.guarded (h.result.ite (.ite ?_ h.result))
  split
  · exact h.intoHold
  · exact h.modThread.intoHold.recordHeld

theorem execSlotwr_canonical (h : s.canonical) {g a b} : nextCanonical (execSlotwr g a b s) := by
  unfold execSlotwr
  refine h.privileged (h.trap.ite ?_)
  split
  · exact h.advance
  · exact h.modPCore.advance

theorem execMapwr_canonical (h : s.canonical) {g a b} : nextCanonical (execMapwr g a b s) :=
  h.privileged (h.trap.ite h.modPClu.advance)

theorem execTsusp_canonical (h : s.canonical) {g a} : nextCanonical (execTsusp g a s) := by
  unfold execTsusp
  refine h.privileged (h.trap.ite ?_)
  dsimp only
  split
  · exact h.advance
  · exact (h.advance.suspend.ite h).ite (h.suspend.advance.ite h.suspend)

theorem execTresm_canonical (h : s.canonical) {g a} : nextCanonical (execTresm g a s) := by
  unfold execTresm
  refine h.privileged (h.trap.ite ?_)
  split
  · exact h.advance
  · exact h.modThread.advance

theorem execHalt_canonical (h : s.canonical) {g a} : nextCanonical (execHalt g a s) := by
  unfold execHalt
  refine h.privileged (h.trap.ite ?_)
  split
  · exact h.advance
  · exact h.haltCore.ite h.releaseCore.advance

theorem State.canonical.invalidate (h : s.canonical) {job pg} : (s.invalidate job pg).canonical :=
  (h.mapPCores (f := fun x => (x.1, { x.2 with tlb := x.2.tlb.filter fun t => !t.touches job pg })) fun _ hx => hx).frame

theorem execTlbinv_canonical (h : s.canonical) {g a b} : nextCanonical (execTlbinv g a b s) :=
  h.privileged (h.trap.ite (h.trap.ite (h.invalidate.ite h.invalidate.advance)))

theorem State.canonical.verdict (h : s.canonical) {r serve} : (s.verdict r serve).canonical := by
  unfold State.verdict
  split
  · exact h
  · split
    · exact h.verdictEng
    · exact h.postPart.ite h.recordFault
    · split
      · exact h.unpark.ite h.trapAt
      · exact h

theorem State.canonical.tqack (h : s.canonical) {pc ent serve} : (s.tqack pc ent serve).canonical := by
  unfold State.tqack
  split
  · exact h
  · exact h.verdict.freeTq

theorem execTenantWrite_canonical (h : s.canonical) {pc v} : nextCanonical (execTenantWrite pc v s) := by
  refine (h.modPCore fun hm => ?_).next
  split
  · exact hm
  · exact Memory.wf_nil

theorem execCoreRegWrite_canonical (h : s.canonical) {pc off v} : nextCanonical (execCoreRegWrite pc off v s) := by
  refine (h.modPCore fun hm => ?_).next
  split <;> exact hm

/-! ### vacate and resume -/

theorem State.canonical.withdrawParts (h : s.canonical) {j ws} : (s.withdrawParts j ws).canonical :=
  h.frame.modJob

theorem State.canonical.withdrawArrivals (h : s.canonical) {j ls} : (s.withdrawArrivals j ls).canonical :=
  h.foldl fun _ h _ => h.withdrawArr.unpark

theorem State.canonical.freezeUnits (h : s.canonical) {j c} : (s.freezeUnits j c).canonical :=
  h.frame.modClu

theorem State.canonical.writeArea (h : s.canonical) {base n f} : (s.writeArea base n f).canonical :=
  h.setPool (Memory.overlay_wf _ _ _ _ h.1)

theorem State.canonical.writeSave (h : s.canonical) {j c pcl e base} : (s.writeSave j c pcl e base).canonical :=
  h.drawn.writeArea

theorem State.canonical.saveCore (h : s.canonical) {j l pc seg ws} : (s.saveCore j l pc seg ws).canonical :=
  (h.frame.modCore).modPCore fun hm => Memory.spliceAt_wf _ _ _ _ hm Memory.wf_nil (by simp)

theorem State.canonical.saveCluster (h : s.canonical) {j p c e base} : (s.saveCluster j p c e base).canonical :=
  h.withdrawParts.writeSave.foldl fun _ h _ => h.saveCore

theorem State.canonical.markVacated (h : s.canonical) {j cs} : (s.markVacated j cs).canonical :=
  h.frame

theorem State.canonical.dropLines (h : s.canonical) {j ls} : (s.dropLines j ls).canonical :=
  h.foldl fun _ h _ => h.modThread

theorem State.canonical.emptyOut (h : s.canonical) {p} : (s.emptyOut p).canonical :=
  h.markVacated.foldl fun _ h _ => h.suspend

theorem execVacate_canonical (h : s.canonical) {g d a} : nextCanonical (execVacate g d a s) :=
  h.privileged (h.trap.ite (h.withHandle (fun _ _ h => h.emptyOut.drawn.later.advance)))

theorem execVacateResolve_canonical (h : s.canonical) {hdl pcl vbase} : nextCanonical (execVacateResolve hdl pcl vbase s) :=
  h.later.next.ite
    (((((h.withdrawArrivals.foldl fun _ h _ => h.freezeUnits).dropLines).foldl fun _ h _ => h.saveCluster).resolve).next)

theorem execResume_canonical (h : s.canonical) {g d a} : nextCanonical (execResume g d a s) := by
  unfold execResume
  refine h.privileged (h.trap.ite ?_)
  split
  · exact h.trap
  · exact h.withHandle (fun _ _ h => h.drawn.later.advance)

theorem State.canonical.placeSaved (h : s.canonical) {pc r popped} : (s.placeSaved pc r popped).canonical := by
  unfold State.placeSaved
  split
  · exact h.modPCore
  · exact h.modPCore

theorem State.canonical.restoreCore (h : s.canonical) {j l pc seg r} : (s.restoreCore j l pc seg r).canonical :=
  (((h.modPCore fun hm => Memory.overlay_wf _ _ _ _ hm).foldl fun _ h _ => h.placeSaved).foldl fun _ h _ => h.later).modCore

theorem State.canonical.restoreCluster (h : s.canonical) {j c e base} : (s.restoreCluster j c e base).canonical :=
  h.drawn.modClu.foldl fun _ h _ => h.restoreCore

theorem State.canonical.goOn (h : s.canonical) {j c ws} : (s.goOn j c ws).canonical :=
  (((((((h.foldl fun _ h _ => h.dispatchPart).kickUnit).foldl fun _ h _ => h.later).kickUnit).foldl fun _ h _ => h.later).later).later).foldl
    fun _ h _ => h.linkKick.foldl fun _ h _ => h.promoteKick.deliverKick

theorem State.canonical.markResident (h : s.canonical) {j c q e} : (s.markResident j c q e).canonical :=
  h.foldl fun _ h _ => h.modPClu

theorem execResumeResolve_canonical (h : s.canonical) {hdl clu pcl vbase} :
    nextCanonical (execResumeResolve hdl clu pcl vbase s) :=
  h.resolve.next.ite ((((h.restoreCluster.markResident.openRoutes.foldl fun _ h _ => h.modThread).goOn).resolve).next)

/-! ### Hangs and the end of a job -/

theorem State.canonical.withdraw (h : s.canonical) {w} : (s.withdraw w).1.canonical := by
  fun_cases State.withdraw s w with
  | case1 => exact h.setCounter.modThread
  | case2 => exact h.frame.release.modThread
  | case3 => exact h.withdrawArr
  | case4 => exact h
  | case5 => exact h.modCore.modThread

theorem State.canonical.raiseHang (h : s.canonical) {j} : (s.raiseHang j).canonical :=
  h.endJob.ite h.withdraw.trapAt

theorem execHangSample_canonical (h : s.canonical) {job} : nextCanonical (execHangSample job s) :=
  h.next.ite (h.later.modJob.next.ite (h.later.modJob.raiseHang.next.ite h.later.modJob.next))

/-! ### Launches -/

theorem State.canonical.modVf (h : s.canonical) {v f} : (s.modVf v f).canonical :=
  h.frame

theorem State.canonical.writeRecord (h : s.canonical) {c} : (s.writeRecord c).1.canonical := by
  have hw {a bs} : ({ s with host := s.host.writeBytes a bs } : State).canonical := h.setHost (Memory.writeBytes_wf _ _ _ h.2.1)
  exact .iteFst (hw.modVf.modJob.ite hw.modVf) h

theorem State.canonical.writeRecords (h : s.canonical) : s.writeRecords.canonical := by
  unfold State.writeRecords
  split
  rename_i t left he
  have ht : t.canonical := .of_eq (h.foldlFst (p := (s, [])) fun _ h _ => h.writeRecord) he
  exact ht.frame

theorem State.canonical.report (h : s.canonical) {c} : (s.report c).canonical :=
  h.frame.writeRecords

theorem State.canonical.considerLaunch (h : s.canonical) : s.considerLaunch.canonical := by
  have hl {t : State} (ht : t.canonical) : (match t.firstFit t.queueOrder with
      | none => t
      | some (id, _) =>
        if t.agenda.any fun p => match p.ev with | .jobLaunch i _ => i == id | _ => false then t
        else t.drawn.later (Config.managerDelay t.seq) (.jobLaunch id (Config.launchPlan t.seq))).canonical := by
    split
    · exact ht
    · exact ht.ite ht.drawn.later
  unfold State.considerLaunch
  refine hl ?_
  split
  · exact h
  · exact h.ite h.later

theorem State.canonical.limitFor (h : s.canonical) {id} : (s.limitFor id).canonical :=
  h.ite h.atCycle

theorem State.canonical.limitWritten (h : s.canonical) {pri} : (s.limitWritten pri).canonical :=
  h.frame.foldl fun _ h _ => h.limitFor

theorem State.canonical.accept (h : s.canonical) {v id image args own} {refuse : Nat → State}
    (hr : ∀ c, (refuse c).canonical) : (s.accept v id image args own refuse).canonical := by
  unfold State.accept
  cases descIn (s.fileAt image) with
  | none => exact hr 1
  | some d => exact (hr 0).ite (h.frame.modVf.limitFor)

/-- The state of a result that an option picks. -/
theorem State.canonical.elim {α : Type} {o : Option α} {f : α → State} (h : s.canonical) (hf : ∀ x, (f x).canonical) :
    (o.elim s f).canonical := by
  cases o with
  | none => exact h
  | some x => exact hf x

theorem State.canonical.post (h : s.canonical) {v entry} : (s.post v entry).canonical :=
  .elim (h.accept fun _ => h.report) fun _ => h.report

theorem State.canonical.postAll (h : s.canonical) {v tail n} : (s.postAll v tail n).canonical := by
  induction n generalizing s with
  | zero => exact h
  | succ n ih => exact h.ite (ih h.post.modVf)

theorem State.canonical.clearTable (h : s.canonical) {a} : (s.clearTable a).canonical :=
  h.poolWrite

theorem State.canonical.mapBelow (h : s.canonical) {va pte n base next} : (s.mapBelow va pte n base next).1.canonical := by
  induction n generalizing s base next with
  | zero => exact h
  | succ n ih => exact .iteFst h.poolStore (.iteFst (ih h) (ih h.clearTable.poolStore))

theorem State.canonical.loadPool (h : s.canonical) {r x frame} : (s.loadPool r x frame).1.canonical :=
  (h.foldl fun _ h _ => h.poolWrite).poolWrite

theorem State.canonical.assignCore (h : s.canonical) {j pc} : (s.assignCore j pc).canonical := by
  refine h.modPCore fun hm => ?_
  dsimp only
  split
  · exact hm
  · exact Memory.wf_nil

/-- The scratch image of a core is laid over an empty memory, section by section. -/
theorem scratchImage_wf (r : Nat → Byte) (l : List Sec) (lcn : Nat) : (scratchImage r l lcn).wf :=
  List.foldlRecOn _ _ Memory.wf_nil fun _ hm _ _ => Memory.overlay_wf _ _ _ _ hm

theorem State.canonical.loadCore (h : s.canonical) {r l j lcn pc} : (s.loadCore r l j lcn pc).canonical :=
  h.assignCore.modPCore fun _ => scratchImage_wf r l lcn

theorem State.canonical.setHandlers (h : s.canonical) {w tvec svec} : (s.setHandlers w tvec svec).canonical :=
  h.modThread

theorem State.canonical.launchThread (h : s.canonical) {w at_ tvec svec ls} : (s.launchThread w at_ tvec svec ls).canonical :=
  h.modThread

theorem State.canonical.launchUnits (h : s.canonical) {r l d j c} : (s.launchUnits r l d j c).canonical :=
  ((h.modClu.ite h).ddConfigure).ite (h.modClu.ite h)

theorem State.canonical.mapPages (h : s.canonical) {root ps n} : (State.mapPages root ps (s, n)).1.canonical :=
  .foldlFst (p := (s, n)) h fun _ h _ => h.mapBelow

theorem State.canonical.loadImage (h : s.canonical) {r l p} : (s.loadImage r l p).1.canonical := by
  unfold State.loadImage
  extract_lets x y
  have hx : x.1.canonical := .foldlFst h fun _ h _ => h.loadPool
  exact hx.clearTable.mapPages

theorem State.canonical.placeJob (h : t.canonical) {j sw p d code ps n} : (s.placeJob t j sw p d code ps n).canonical := by
  unfold State.placeJob
  extract_lets r l at_ s1 b line cores s2 s3 pc0 two s4 s5 tvec s6
  have h2 : s2.canonical := State.canonical.foldl (h.modJob : s1.canonical) fun _ h _ => h.frame
  have h3 : s3.canonical := (h2.foldl fun _ h _ => h.loadCore).openRoutes
  have h4 : s4.canonical := h3.foldl fun _ h _ => h.modPClu
  have h5 : s5.canonical := h4.foldl fun _ h _ => h.launchUnits
  have h6 : s6.canonical := h5.foldl fun _ h _ => h.launchThread.foldl fun _ h _ => h.ite h.setHandlers
  exact h6.frame.atCycle

theorem State.canonical.launch (h : s.canonical) {j sw p} (hl : s.launch j sw p = some t) : t.canonical := by
  unfold State.launch at hl
  obtain ⟨d, -, hl⟩ := Option.bind_eq_some_iff.1 hl
  obtain ⟨code, -, hl⟩ := Option.bind_eq_some_iff.1 hl
  replace hl := (Option.ite_none_right_eq_some.1 hl).2
  exact Option.some.inj hl ▸ h.loadImage.placeJob

theorem execJobLaunch_canonical (h : s.canonical) {job p} : nextCanonical (execJobLaunch job p s) := by
  unfold execJobLaunch
  split
  · split
    · split
      · exact (h.launch ‹_›).considerLaunch.next
      · exact h.drawn.later.next
    · exact h.considerLaunch.next
  · exact h.next

theorem State.canonical.preempt (h : s.canonical) {pri x2} : (s.preempt pri x2).canonical := by
  unfold State.preempt
  split
  · exact h.emptyOut.drawn.later.ite h
  · exact h.ite h.modPClu
  · exact ((h.foldl fun _ h _ => h.assignCore).openRoutes).ite h
  · exact h.drawn.later.ite h

theorem execWaitlimExpiry_canonical (h : s.canonical) {job} : nextCanonical (execWaitlimExpiry job s) :=
  h.preempt.drawn.considerLaunch.later.next.ite (h.considerLaunch.next.ite
    ((((((h.ite h.preempt).drawn).considerLaunch).later).next).ite h.next))

theorem State.canonical.clearJob (h : s.canonical) {j} : (s.clearJob j).canonical :=
  (h.frame.foldl fun _ h _ => h.modPCore fun _ => Memory.wf_nil).modJob

theorem State.canonical.tellDrop (h : s.canonical) {j p} : (s.tellDrop j p).canonical :=
  h.foldl fun _ h _ => h.peerSend

theorem State.canonical.finishJob (h : s.canonical) {j status cause exitv} : (s.finishJob j status cause exitv).canonical := by
  unfold State.finishJob
  extract_lets n t
  have ht : t.canonical := h.tellDrop.clearJob.modJob
  exact ht.report.considerLaunch

theorem execJobCompletion_canonical (h : s.canonical) {job} : nextCanonical (execJobCompletion job s) := by
  unfold execJobCompletion
  dsimp only
  split
  · exact (h.ite h.finishJob).next
  · exact h.next.ite (h.later.next.ite h.finishJob.next)
  · exact h.next

theorem State.canonical.abortHandles (h : s.canonical) {w} : (s.abortHandles w).canonical := by
  refine h.foldl fun t h x => ?_
  dsimp only
  split
  · exact h
  · exact h
  · exact h
  · exact h
  · exact h.ite h.completeHandle

theorem State.canonical.abortProducts (h : s.canonical) {j} : (s.abortProducts j).canonical :=
  h.foldl fun _ h _ => (h.foldl fun _ h _ => h.resolveBoth).foldl fun _ h _ => h.completeHandle

theorem execJobTermination_canonical (h : s.canonical) {job status cause} :
    nextCanonical (execJobTermination job status cause s) :=
  h.next.ite ((((h.modJob.abortProducts.foldl fun _ h _ => h.abortHandles).modJob).later).next)

/-! ### Boot, peers and the host -/

theorem State.canonical.modDev (h : s.canonical) {f} : (s.modDev f).canonical :=
  h.frame

theorem State.canonical.startManagement (h : s.canonical) : s.startManagement.canonical :=
  h.modDev.modJob.foldl fun _ h _ => h.modThread

theorem execBoot_canonical (h : s.canonical) : nextCanonical (execBoot s) :=
  h.modDev.startManagement.drawn.later.next.ite h.modDev.next

theorem execThermalTrip_canonical (h : s.canonical) : nextCanonical (execThermalTrip s) :=
  ((h.foldl fun _ h _ => (h.foldl fun _ h _ => h.holdThread).endJob).foldl fun _ h _ => h.modPCore).next

theorem State.canonical.enablePeers (h : s.canonical) {v} : (s.enablePeers v).canonical :=
  h.modDev

theorem State.canonical.bindCommand (h : s.canonical) : s.bindCommand.canonical := by
  unfold State.bindCommand
  dsimp only
  split
  · exact h.modDev
  · exact h.modDev.peerSend

theorem execPeerBindMatch_canonical (h : s.canonical) {dev peerJob localJob tenant} :
    nextCanonical (execPeerBindMatch dev peerJob localJob tenant s) := by
  unfold execPeerBindMatch
  split
  · exact h.next
  · dsimp only
    split
    · exact h.modDev.next
    · exact h.modDev.next.ite h.modDev.modJob.next

theorem State.canonical.dropBinding (h : s.canonical) {lj dev} : (s.dropBinding lj dev).canonical :=
  h.ite ((h.foldl fun _ h _ => h.resolve).modJob)

theorem State.canonical.unbindCommand (h : s.canonical) : s.unbindCommand.canonical :=
  h.tellDrop.dropBinding.modDev

theorem execPeerForward_canonical (h : s.canonical) {f} : nextCanonical (execPeerForward f s) :=
  (h.later.next.ite (h.peerSend.next.ite h.flitAck.next)).ite (h.peerSend.next.ite h.later.next)

theorem execPf0RegWrite_canonical (h : s.canonical) {fn off v} : nextCanonical (execPf0RegWrite fn off v s) :=
  (h.enablePeers.next.ite (((h.bindCommand.ite (h.unbindCommand.ite h)).next).ite
    ((h.modDev.limitWritten.considerLaunch.ite h.modDev).next))).ite
    (h.next.ite (h.later.next.ite h.modVf.writeRecords.considerLaunch.next))

/-! ### Vector results -/

theorem State.canonical.lanes (h : s.canonical) {lat d m f} : (s.lanes lat d m f).canonical :=
  h.land.advance

theorem State.canonical.lanes0 (h : s.canonical) {lat d m f} : (s.lanes0 lat d m f).canonical :=
  h.lanes

theorem State.canonical.vop (h : s.canonical) {lat op t rm sat km d a b} : (s.vop lat op t rm sat km d a b).canonical :=
  h.lanes

theorem State.canonical.vop1 (h : s.canonical) {lat km d a f} : (s.vop1 lat km d a f).canonical :=
  h.lanes

theorem State.canonical.vbit (h : s.canonical) {km d a b f} : (s.vbit km d a b f).canonical :=
  h.lanes0

theorem State.canonical.transcend (h : s.canonical) {fn la km d a} : (s.transcend fn la km d a).canonical := by
  unfold State.transcend
  extract_lets w pc t id r
  have ht : t.canonical := h.spend
  exact h.park.ite ht.drawn.frame.hold.openWindow.later.advance

theorem execTransRequest_canonical (h : s.canonical) {rid} : nextCanonical (execTransRequest rid s) := by
  unfold execTransRequest
  split
  · exact h.next
  · exact h.frame.atCycle.next

theorem execTransResult_canonical (h : s.canonical) {rid} : nextCanonical (execTransResult rid s) := by
  unfold execTransResult
  split
  · exact h.next
  · refine .next ?_
    split
    · exact ((h.frame.release.land.ite (h.frame.land.ite h.frame)).grant).unpark
    · exact h.frame.release.land.ite (h.frame.land.ite h.frame)

/-! ### The issue logic -/

theorem State.canonical.parkFe (h : s.canonical) {w} (hp : s.parkFe w = some t) : t.canonical := by
  unfold State.parkFe at hp
  split at hp
  · cases hp
  · split at hp
    · cases hp; exact h.park
    · cases hp

theorem State.canonical.awaitOrdinary (h : s.canonical) {w i} : (s.awaitOrdinary w i).canonical := by
  unfold State.awaitOrdinary
  split
  · exact h
  · split
    · exact h.park
    · exact h.parkRecord

theorem State.canonical.raiseFull (h : s.canonical) {w n p} : (s.raiseFull w n p).canonical :=
  h.modThread.trapAt

theorem State.canonical.clearParity (h : s.canonical) {w r} : (s.clearParity w r).canonical :=
  h.modCore.modThread

theorem State.canonical.preIssue (h : s.canonical) {w f} (hp : s.preIssue w f = some t) : t.canonical := by
  revert hp
  fun_cases State.preIssue s w f with
  | case1 => rintro ⟨⟩; exact h
  | case2 => rintro ⟨⟩
  | case3 => rintro ⟨⟩; exact h.awaitOrdinary
  | case4 => rintro ⟨⟩; exact h
  | case5 => rintro ⟨⟩; exact h.modThread.trap
  | case6 => rintro ⟨⟩; exact h.drawn.clearParity.machineCheck
  | case7 => rintro ⟨⟩; exact h.park
  | case8 => rintro ⟨⟩; exact h.raiseFull
  | case9 => rintro ⟨⟩

theorem State.canonical.beforeIssue (h : s.canonical) {w x} (hb : s.beforeIssue w x = some t) : t.canonical := by
  unfold State.beforeIssue at hb
  split at hb
  · exact h.preIssue hb
  · split at hb
    · cases hb; exact h
    · cases hb

theorem State.canonical.endLoading (h : s.canonical) {pc} : (s.endLoading pc).canonical := by
  refine .ite (h.mapPCores fun x hx => ?_) h
  dsimp only
  split
  · exact hx
  · exact hx

theorem State.canonical.afterIssue (h : t.canonical) {pc w} : (s.afterIssue t pc w).canonical :=
  h.modThread.endLoading.fetchAhead

theorem State.canonical.syncfSweep (h : s.canonical) : s.syncfSweep.canonical := by
  refine h.foldl fun t h x => ?_
  dsimp only
  split
  · exact h.syncfCheck.ite h
  · exact h

theorem State.canonical.takeSlots (h : s.canonical) : s.takeSlots.canonical := by
  refine .ite ?_ h
  exact h.mapPCores fun x hx => hx

theorem State.canonical.nextCycle (h : s.canonical) : s.nextCycle.canonical :=
  h.syncfSweep.frame.takeSlots

/-! ### Every instruction and every step of the agenda -/

/-- The steps of the agenda, and a word that is no instruction. -/
theorem exec_canonical_of_no_guard (h : s.canonical) {i : Instr} (hi : i.guard? = none) : nextCanonical (exec i s) := by
  cases i with
  | illegalInstruction => unfold exec; exact h.trap.next
  | resultLands => unfold exec; exact h.landNow.next
  | lineDelivery => exact execLineDelivery_canonical h
  | sleepExpiry => exact execSleepExpiry_canonical h
  | syncfRelease => exact execSyncfRelease_canonical h
  | packetForward => exact execPacketForward_canonical h
  | starvationToken => unfold exec; exact h.modRouter.next
  | remoteAccess | feRetry => unfold exec; exact h.performPart.next
  | accessResponse => exact execAccessResponse_canonical h
  | translationWalk => exact execTranslationWalk_canonical h
  | storeFaultRecord => exact execStoreFaultRecord_canonical h
  | waitmTimeout => exact execWaitmTimeout_canonical h
  | transRequest => exact execTransRequest_canonical h
  | transResult => exact execTransResult_canonical h
  | barrierArrival => exact execBarrierArrival_canonical h
  | barsetRequest => exact execBarsetRequest_canonical h
  | barrierVerdict => exact execBarrierVerdict_canonical h
  | barrierRelease => exact execBarrierRelease_canonical h
  | flitArrival => exact execFlitArrival_canonical h
  | flitResend => exact execFlitResend_canonical h
  | sendAck => exact execSendAck_canonical h
  | trecvTimeout => exact execTrecvTimeout_canonical h
  | hangSample => exact execHangSample_canonical h
  | engineEnqueue => unfold exec; exact h.modThread.modOps.kickUnit.next
  | copyChunk => exact execCopyChunk_canonical h
  | copyResolve => exact execCopyResolve_canonical h
  | gatherBatch => exact execGatherBatch_canonical h
  | gatherResolve => exact execGatherResolve_canonical h
  | cancelRequest => exact execCancelRequest_canonical h
  | adoptRequest => exact execAdoptRequest_canonical h
  | adoptReply => exact execAdoptReply_canonical h
  | handleCompletion => exact execHandleCompletion_canonical h
  | spanArrival => exact execSpanArrival_canonical h
  | spanSlotTake => exact execSpanSlotTake_canonical h
  | spanPortRead => exact execSpanPortRead_canonical h
  | spanKstep | spanEmulKstep => unfold exec; exact h.endKstep.next
  | spanPromote => exact execSpanPromote_canonical h
  | spanDeliver => exact execSpanDeliver_canonical h
  | spanDoneWord => exact execSpanDoneWord_canonical h
  | spanResolve => exact execSpanResolve_canonical h
  | spanDeliveryStop => exact execSpanDeliveryStop_canonical h
  | pcfgApply => unfold exec; exact h.modClu.checkDone.next
  | pplanRun => unfold exec; exact h.kickPlan.next
  | pplanResolve => exact execPplanResolve_canonical h
  | ddEnqueue => unfold exec; exact h.modDde.later.next
  | ddExecute => unfold exec; exact h.kickDde.next
  | ddResolve => exact execDdResolve_canonical h
  | castAccess => exact execCastAccess_canonical h
  | cueArm => exact execCueArm_canonical h
  | cueCommit => exact execCueCommit_canonical h
  | recordFrameArrival => exact execRecordFrameArrival_canonical h
  | frameResend => exact execFrameResend_canonical h
  | bindToken => exact execBindToken_canonical h
  | openToken => exact execOpenToken_canonical h
  | unbindToken => exact execUnbindToken_canonical h
  | cueFailReturn => exact execCueFailReturn_canonical h
  | stateTransfer => exact execStateTransfer_canonical h
  | stateResend => unfold exec; exact h.sendState.next
  | redCombine => exact execRedCombine_canonical h
  | redBroadcast => exact execRedBroadcast_canonical h
  | redResolve => exact execRedResolve_canonical h
  | vacateResolve => exact execVacateResolve_canonical h
  | resumeResolve => exact execResumeResolve_canonical h
  | tqackServe | tqackRefuse => unfold exec; exact h.tqack.next
  | tenantWrite => exact execTenantWrite_canonical h
  | coreRegWrite => exact execCoreRegWrite_canonical h
  | jobLaunch => exact execJobLaunch_canonical h
  | waitlimExpiry => exact execWaitlimExpiry_canonical h
  | lqtail => unfold exec; exact h.next.ite h.postAll.considerLaunch.next
  | jobCompletion => exact execJobCompletion_canonical h
  | bcmdBind => unfold exec; exact h.bindCommand.next
  | bcmdUnbind => unfold exec; exact h.unbindCommand.next
  | peerBindMatch => exact execPeerBindMatch_canonical h
  | peeren => unfold exec; exact h.enablePeers.next
  | pf0RegWrite => exact execPf0RegWrite_canonical h
  | peerForward => exact execPeerForward_canonical h
  | attestationReport => unfold exec; exact h.modDev.next
  | boot => exact execBoot_canonical h
  | governorSample => unfold exec; exact h.modDev.drawn.later.next
  | thermalTrip => exact execThermalTrip_canonical h
  | jobTermination => exact execJobTermination_canonical h
  | peerBindingDrop => unfold exec; exact h.dropBinding.next
  | _ => cases hi

/-- The instructions of threads, each of which stands under a guard. -/
theorem exec_canonical_of_guard (h : s.canonical) {i : Instr} {g : Gd} (hi : i.guard? = some g) : nextCanonical (exec i s) := by
  cases i with
  | nop => unfold exec; exact h.guarded h.advance
  | add | sub | mul | mulh | mulhu | and | or | xor | andn | shl | shr | sar | rol | min | max | minu | maxu | bext | bextu |
    bins =>
    unfold exec; exact h.guarded h.alu
  | div | divu | rem | remu => unfold exec; exact h.guarded h.divide
  | clz | ctz | popc | sel | movi | movhi | sext | bswap | mov | pget | mkadr | slotrd | thrst | fclass | vget | kpopc |
    kmovFromMask | kfirst | mqst | hval | pstat | ddstat =>
    unfold exec; exact h.guarded h.result
  | br => unfold exec; exact h.guarded h.jump
  | jmp => unfold exec; exact h.guarded (h.transfer fun _ h => h)
  | call => unfold exec; exact h.guarded h.landS.jump
  | callr => exact execCallr_canonical h
  | cmp | tst | plog | htest => unfold exec; exact h.guarded h.resultQ
  | pset | tilepos | fcmp | vcmp | vsum | vmaxr | kop | kmovToMask => unfold exec; exact h.guarded h.land.advance
  | dbnz => exact execDbnz_canonical h
  | syncf => exact execSyncf_canonical h
  | start => exact execStart_canonical h
  | exit => exact execExit_canonical h
  | gets => unfold exec; exact h.guarded (h.trap.ite h.result)
  | sets => unfold exec; exact h.guarded (h.trap.ite h.land.advance)
  | sleep => exact execSleep_canonical h
  | cvt => unfold exec; exact h.guarded h.resultT
  | fadd | fsub | fmul | ffma | fmin | fmax => unfold exec; exact h.guarded h.float2
  | fdiv | fsqrt => unfold exec; exact h.guarded h.longFloat
  | vcvt | vabs | vneg | vpopc => unfold exec; exact h.guarded h.vop1
  | vpack | vunpk | vdot4 => unfold exec; exact h.guarded h.lanes
  | vadd | vsub | vmul | vfma | vfms | vmin | vmax | vfmas | vscal => unfold exec; exact h.guarded h.vop
  | vexp2 | vlog2 | vrcp | vrsq => unfold exec; exact h.guarded h.transcend
  | vsel | vmov | vbcast | vput | vperm | vrot | vcomp | vexpd | viota => unfold exec; exact h.guarded h.lanes0
  | vand | vor | vxor | vshl | vshr | vsar => unfold exec; exact h.guarded h.vbit
  | ld | ldf | ldp => unfold exec; exact h.guarded h.loadS
  | st | ste | stf => unfold exec; exact h.guarded h.storeS
  | vld | vlds | vldx => unfold exec; exact h.guarded h.loadV
  | vst | vsts | vstx => unfold exec; exact h.guarded h.storeV
  | fe | guard => unfold exec; exact h.guarded h.rangeAccess
  | tlook => unfold exec; exact h.guarded h.landLa.advance
  | tset => unfold exec; exact h.guarded (h.trap.ite h.modCore.advance)
  | tinv => exact execTinv_canonical h
  | tinvAll => unfold exec; exact h.guarded h.modCore.advance
  | drain => unfold exec; exact h.guarded (h.ite (h.advance.ite h.trap))
  | fence => unfold exec; exact h.guarded (h.ite h.advance)
  | xlat => exact execXlat_canonical h
  | amo | cas | famo => unfold exec; exact h.guarded h.atomic
  | rupd | frupd => unfold exec; exact h.guarded h.update
  | mon => exact execMon_canonical h
  | monc | sround => unfold exec; exact h.guarded h.modThread.advance
  | waitm => exact execWaitm_canonical h
  | bar | bara => unfold exec; exact h.guarded h.arrive
  | barw => unfold exec; exact h.guarded (h.park.ite h.advance)
  | barset => unfold exec; exact h.guarded h.later.advance
  | send => exact execSend_canonical h
  | recv => exact execRecv_canonical h
  | trecv => exact execTrecv_canonical h
  | copy => exact execCopy_canonical h
  | copy2 => exact execCopy2_canonical h
  | gath | scat => unfold exec; exact h.guarded h.gather
  | hcancel => exact execHcancel_canonical h
  | hpass => exact execHpass_canonical h
  | hadopt => unfold exec; exact h.guarded (h.trap.ite h.stallFor.sendTo)
  | sopen | sjoin => unfold exec; exact h.guarded h.present
  | sfeed => exact execSfeed_canonical h
  | sscale => exact execSscale_canonical h
  | sclose => exact execSclose_canonical h
  | scloseRdl => exact execScloseRdl_canonical h
  | sabort => exact execSabort_canonical h
  | sstat => exact execSstat_canonical h
  | pcfg => exact execPcfg_canonical h
  | pplan => exact execPplan_canonical h
  | pfetch => exact execPfetch_canonical h
  | ddcfg => exact execDdcfg_canonical h
  | ddord | ddwset | ddref | dderef | ddnode => unfold exec; exact h.ddNeeds h.ddCommandIssue
  | ddmk | ddrestr => unfold exec; exact h.ddNeeds (h.trap.ite h.ddOperationIssue)
  | ddapply | ddite | ddexist | ddgc => unfold exec; exact h.ddNeeds h.ddOperationIssue
  | ddcount | ddwcount => unfold exec; exact h.ddNeeds h.ddCount
  | rsend => exact execRsend_canonical h
  | rrecv => exact execRrecv_canonical h
  | cbindOffer => unfold exec; exact h.guarded (h.castTrap.ite h.askHome)
  | cbindWithdraw | cget | cset => unfold exec; exact h.guarded h.askHome
  | cue => exact execCue_canonical h
  | cuetake => exact execCuetake_canonical h
  | sthand => exact execSthand_canonical h
  | sttake => exact execSttake_canonical h
  | redcfg => exact execRedcfg_canonical h
  | redv | reds | bcastv => unfold exec; exact h.guarded h.contribute
  | trap => unfold exec; exact h.guarded h.trapAt
  | tfence => unfold exec; exact h.guarded (h.ite h.fenceTrap)
  | rfe => unfold exec; exact h.guarded h.trapReturn
  | brk => unfold exec; exact h.guarded (h.haltCore.ite h.trapAt)
  | tqpop => exact execTqpop_canonical h
  | sfqpop => exact execSfqpop_canonical h
  | tlbinv => exact execTlbinv_canonical h
  | slotwr => exact execSlotwr_canonical h
  | mapwr => exact execMapwr_canonical h
  | vacate => exact execVacate_canonical h
  | resume => exact execResume_canonical h
  | tsusp => exact execTsusp_canonical h
  | tresm => exact execTresm_canonical h
  | halt => exact execHalt_canonical h
  | _ => cases hi

theorem exec_canonical (h : s.canonical) {i : Instr} : nextCanonical (exec i s) := by
  cases hi : i.guard? with
  | none => exact exec_canonical_of_no_guard h hi
  | some g => exact exec_canonical_of_guard h hi

/-! ### The step: what is due, a core's slot, the end of the cycle -/

theorem runEvent_canonical (h : s.canonical) {e : Event} : nextCanonical (runEvent e s) := by
  obtain ⟨i, hi⟩ := runEvent_is_exec e
  exact hi s ▸ exec_canonical h

/-- What the slot of a core leaves is canonical: the state that it idles in, or the one in which an instruction issues. -/
def Slot.canonical : Slot → Prop
  | .idle t => t.canonical
  | .issue _ _ t => t.canonical

theorem State.canonical.slotOf (h : s.canonical) {w} : (s.slotOf w).canonical := by
  unfold State.slotOf
  extract_lets s₁
  have h : s₁.canonical := h.unstall.ite h
  clear_value s₁
  split
  · exact h.parkFe ‹_›
  · split
    · exact h.fetchAhead
    · split
      · exact h.beforeIssue ‹_›
      · exact h.takeBinding.frame

theorem State.canonical.slot (h : s.canonical) {pc} : (s.slot pc).canonical := by
  unfold State.slot
  split
  · exact h
  · exact h.slotOf

theorem coreStep_canonical (h : s.canonical) {pc : Nat} : nextCanonical (coreStep pc s) := by
  have hs : (s.slot pc).canonical := h.slot
  unfold coreStep
  cases hp : s.slot pc with
  | idle t =>
    rw [hp] at hs
    exact State.canonical.next hs
  | issue w x t =>
    rw [hp] at hs
    obtain ⟨u, hu⟩ := exec_answers_next (instrOf x) t
    have ht : u.canonical := exec_canonical hs u hu
    dsimp only
    rw [hu, afterNext_next]
    exact ht.afterIssue.next

theorem State.canonical.due (h : s.canonical) {late e} (hd : s.due late = some (e, t)) : t.canonical := by
  unfold State.due at hd
  split at hd
  · cases hd
  · split at hd
    · cases hd
      exact h.frame
    · cases hd

theorem step_canonical (h : s.canonical) : nextCanonical (step s) := by
  fun_cases step s with
  | case1 e t hd => exact runEvent_canonical (h.due hd)
  | case2 _ pc _ => exact coreStep_canonical h.frame
  | case3 _ _ e t hd => exact runEvent_canonical (h.due hd)
  | case4 _ _ _ => exact h.nextCycle.next

end

/-- Settles O3: a step is a step of the agenda, the slot of a core or the passage to the next cycle, and each is made of
operations that keep the memories canonical. -/
theorem stepKeepsCanonical : Obligations.StepKeepsCanonical := fun _ t h ht => step_canonical h t ht

end Sys2Proof.Machine

/-!
PROOFS. A posted access whose packet a router refuses (R23, log 70): obligation O41.
-/

namespace Sys2Proof.Machine

/-- A part of a store that counts as answered though it has not been performed. -/
def answeredPart : Part := { home := .scratch 39, elems := [], returned := true }

/-- The posted store of that part. -/
def answeredStore : Access :=
  { id := 7, own := ⟨1, 0, 0⟩, pc := 0x10000, kind := .store, t := .n64, size := 8, vec := false, rx := false, lat := 16,
    posted := true, dst := none, fseq := 0, parts := [(0, answeredPart)] }

/-- Its packet, at router 0 and bound east along the row. -/
def refusedPacket : Packet :=
  { chan := .req, src := 0, at_ := 0, dst := 39, tenant := 1, entry := true, own := ⟨1, 0, 0⟩, payload := .remoteAccess 7 0 }

/-- The machine at reset, whose routers let nothing on, with the store and its packet. -/
def refusingState : State := { State.reset with packets := [(4, refusedPacket)], accs := [(7, answeredStore)] }

theorem refusingState_linkOpen : refusingState.linkOpen refusedPacket 0 2 = false := by decide

/-- The router drops the packet. -/
theorem exec_refusingState :
    exec (.packetForward ⟨4, false⟩) refusingState =
      .next (({ refusingState with packets := [] }.setWaiting 0 2 []).dropPacket refusedPacket) := rfl

/-- The fault takes back that the part was answered. -/
theorem dropPacket_refusedPacket_returned :
    ((({ refusingState with packets := [] }.setWaiting 0 2 []).dropPacket refusedPacket).part? 7 0).map
      (fun x : Access × Part => x.2.returned) = some false := by decide

/-- Refutes O41: the statement says that a posted part that faults at a closed link keeps all but its fault, in every state;
but the model also clears its `returned`. In `refusingState` the part counts as answered before the fault and not after it. -/
theorem not_packetsMove : ¬ Obligations.PacketsMove := by
  unfold Obligations.PacketsMove
  rintro ⟨hforward, -, -⟩
  have hclosed := ((hforward refusingState 4 false refusedPacket rfl).2 (by decide) (by decide) (by decide) (by decide)).1
  obtain ⟨t, ht, -, -, haccess, -⟩ := hclosed refusingState_linkOpen
  obtain ⟨⟨x', hpart⟩, -⟩ := (haccess 7 0 answeredStore (.inl rfl) rfl).1 rfl answeredPart rfl rfl rfl
  have hreturned := dropPacket_refusedPacket_returned
  rw [exec_refusingState] at ht
  rw [Host.Outcome.next.inj ht, hpart] at hreturned
  simp [answeredPart] at hreturned

end Sys2Proof.Machine

/-!
PROOFS. What a guard and a missing privilege do to every instruction (R41, R48), and what the computing instructions leave
unchanged (R92): obligations O11, O12, O13 and O14.
-/

namespace Sys2Proof.Machine

/-! ### The guard (R41) -/

theorem State.rdQ_eq_true_iff (s : State) (w : Tid) (q : QReg) :
    s.rdQ w q = true ↔ q = 0 ∨ (s.thread w).q.getLsbD q.toNat = true := by
  simp [State.rdQ]

/-- The guard is the predicate, negated when GN = 1. -/
theorem State.guardOn_eq_true_iff (s : State) (w : Tid) (g : Gd) :
    s.guardOn w g = true ↔ (s.rdQ w g.gp = true ↔ g.gn = false) := by
  unfold State.guardOn
  cases s.rdQ w g.gp <;> cases g.gn <;> decide

/-- Settles O12: the guard is the XOR of the predicate, read with q0 as 1, and GN. -/
theorem guardReads : Obligations.GuardReads := by
  intro s w gn gp
  refine ⟨?_, ?_⟩
  · rw [State.guardOn_eq_true_iff, State.rdQ_eq_true_iff]
  · rw [State.guardOn_eq_true_iff, State.rdQ_eq_true_iff]
    simp

/-- Settles O11: every instruction with a guard is a meaning under it, which is passed over when the guard does not hold. -/
theorem guardedOff : Obligations.GuardedOff := by
  intro i g s hg hoff
  obtain ⟨f, hf⟩ := exec_guarded i g s hg
  rw [hf, State.guarded_off s g f hoff]
  rfl

/-! ### Privilege (R48, R371) -/

/-- The meaning of a privileged instruction stands under the check of PSTATE. -/
theorem exec_privileged (i : Instr) (g : Gd) (s : State) (hp : i.privileged = true) (hg : i.guard? = some g) :
    ∃ f, exec i s = s.privileged g f := by
  cases i with
  | tqpop | tlbinv | slotwr | mapwr | vacate | resume | tsusp | tresm | halt =>
    cases hg
    simp only [exec, execTqpop, execTlbinv, execSlotwr, execMapwr, execVacate, execResume, execTsusp, execTresm, execHalt]
    exact ⟨_, rfl⟩
  | _ => cases hp

/-- Settles O13: the check of PSTATE comes before everything else that a privileged instruction, or a `gets` or `sets` of a
system register, does. -/
theorem privilegedTraps : Obligations.PrivilegedTraps := by
  intro s g hon hpriv
  refine ⟨fun i hp hg => ?_, fun d imm hn => ⟨?_, ?_⟩⟩
  · obtain ⟨f, hf⟩ := exec_privileged i g s hp hg
    rw [hf, State.privileged_denied s g f hon hpriv]
    rfl
  · simp only [exec, execGets, State.guarded_on s g _ hon, hn, hpriv, decide_true, Bool.not_false, Bool.and_self, if_true,
      State.trap]
  · simp only [exec, execSets, State.guarded_on s g _ hon, hn, hpriv, decide_true, Bool.not_false, Bool.and_self, if_true,
      State.trap]

/-! ### Computing instructions (R92, R106)

One rule for each shape that the meanings share. -/

section

variable (s : State)

theorem State.result_onlyMoves (lat : Nat) (d : SReg) (v : Word) : s.onlyMoves (s.result lat d v) s.cur :=
  s.land_advance_onlyMoves _ _ _ _

theorem State.alu_onlyMoves (lat : Nat) (d a : SReg) (b : Src) (f : Word → Word → Word) :
    s.onlyMoves (s.alu lat d a b f) s.cur := s.result_onlyMoves _ _ _

theorem State.divide_onlyMoves (w : Bool) (la : BitVec 4) (d a : SReg) (b : Src)
    (f64 : Word → Word → Word × FlagBits) (f32 : BitVec 32 → BitVec 32 → BitVec 32 × FlagBits) :
    s.onlyMoves (s.divide w la d a b f64 f32) s.cur := by
  unfold State.divide
  cases w with
  | false => exact s.landLa_advance_onlyMoves _ _ _ _ _
  | true => exact s.landLa_advance_onlyMoves _ _ _ _ _

theorem State.resultQ_onlyMoves (d : QReg) (b : Bool) : s.onlyMoves (s.resultQ d b) s.cur :=
  s.land_advance_onlyMoves _ _ _ _

theorem State.resultT_onlyMoves (lat : Nat) (t : Ty) (d : SReg) (r : Nat × FlagBits) :
    s.onlyMoves (s.resultT lat t d r) s.cur := s.land_advance_onlyMoves _ _ _ _

theorem State.float2_onlyMoves (lat : Nat) (t : Ty) (d a b : SReg) (f : Nat → Nat → Nat × FlagBits) :
    s.onlyMoves (s.float2 lat t d a b f) s.cur := s.resultT_onlyMoves _ _ _ _

theorem State.longFloat_onlyMoves (la : BitVec 4) (t : Ty) (d : SReg) (r : Nat × FlagBits) :
    s.onlyMoves (s.longFloat la t d r) s.cur := s.landLa_advance_onlyMoves _ _ _ _ _

theorem State.lanes_onlyMoves (lat : Nat) (d : VReg) (m : Mask) (f : Fin 64 → Lane × FlagBits) :
    s.onlyMoves (s.lanes lat d m f) s.cur := s.land_advance_onlyMoves _ _ _ _

theorem State.lanes0_onlyMoves (lat : Nat) (d : VReg) (m : Mask) (f : Fin 64 → Lane) :
    s.onlyMoves (s.lanes0 lat d m f) s.cur := s.lanes_onlyMoves _ _ _ _

theorem State.vop_onlyMoves (lat : Nat) (op : LaneOp) (t : Ty) (rm : Rm) (sat : Bool) (km : KReg) (d a : VReg) (b : Vec) :
    s.onlyMoves (s.vop lat op t rm sat km d a b) s.cur := s.lanes_onlyMoves _ _ _ _

theorem State.vop1_onlyMoves (lat : Nat) (km : KReg) (d a : VReg) (f : Lane → Lane × FlagBits) :
    s.onlyMoves (s.vop1 lat km d a f) s.cur := s.lanes_onlyMoves _ _ _ _

theorem State.vbit_onlyMoves (km : KReg) (d a : VReg) (b : VSrc) (f : Lane → Lane → Lane) :
    s.onlyMoves (s.vbit km d a b f) s.cur := s.lanes0_onlyMoves _ _ _ _

/-- A linked transfer (R106). -/
theorem State.land_jump_onlyMoves (lat : Nat) (ws : List RegWrite) (fl : FlagBits) (a : Word) :
    s.onlyMoves ((s.land s.cur lat ws fl).jump s.cur a) s.cur :=
  (s.land_onlyMoves _ _ _ _).andThen (State.jump_onlyMoves _ _ _)

/-- `dbnz` counts down, and passes on or transfers. -/
theorem State.countDown_onlyMoves (d : SReg) (v a : Word) (c : Prop) [Decidable c] :
    s.onlyMoves (if c then (s.landS s.cur 8 d v).advance s.cur else (s.landS s.cur 8 d v).jump s.cur a) s.cur := by
  split
  · exact s.land_advance_onlyMoves _ _ _ _
  · exact s.land_jump_onlyMoves _ _ _ _

/-- What an instruction leaves under its guard: its effect, or the passage to the next instruction (R41). -/
theorem State.onlyMoves.orPasses {t : State} (h : s.onlyMoves t s.cur) {c : Prop} [Decidable c] :
    s.onlyMoves (if c then t else s.advance s.cur) s.cur := by
  split
  · exact h
  · exact s.advance_onlyMoves s.cur

end

/-- A computing instruction moves its thread on and queues results, and changes nothing else. -/
theorem exec_computes_onlyMoves (i : Instr) (s : State) (h : i.computes = true) :
    ∃ t, exec i s = .next t ∧ s.onlyMoves t s.cur := by
  cases i with
  | nop => exact ⟨_, rfl, (s.advance_onlyMoves _).orPasses⟩
  | add | sub | mul | mulh | mulhu | and | or | xor | andn | shl | shr | sar | rol | min | max | minu | maxu | bext | bextu |
    bins => exact ⟨_, rfl, (s.alu_onlyMoves _ _ _ _ _).orPasses⟩
  | div | divu | rem | remu => exact ⟨_, rfl, (s.divide_onlyMoves _ _ _ _ _ _ _).orPasses⟩
  | clz | ctz | popc | sel | movi | movhi | sext | bswap | mov | pget | mkadr | slotrd | thrst | fclass | vget | kpopc |
    kmovFromMask | kfirst => exact ⟨_, rfl, (s.result_onlyMoves _ _ _).orPasses⟩
  | br => exact ⟨_, rfl, (s.jump_onlyMoves _ _).orPasses⟩
  | call => exact ⟨_, rfl, (s.land_jump_onlyMoves _ _ _ _).orPasses⟩
  | dbnz => exact ⟨_, rfl, (s.countDown_onlyMoves _ _ _ _).orPasses⟩
  | cmp | tst | plog => exact ⟨_, rfl, (s.resultQ_onlyMoves _ _).orPasses⟩
  | pset | tilepos | fcmp | vcmp | vsum | vmaxr | kop | kmovToMask =>
    exact ⟨_, rfl, (s.land_advance_onlyMoves _ _ _ _).orPasses⟩
  | cvt => exact ⟨_, rfl, (s.resultT_onlyMoves _ _ _ _).orPasses⟩
  | fadd | fsub | fmul | ffma | fmin | fmax => exact ⟨_, rfl, (s.float2_onlyMoves _ _ _ _ _ _).orPasses⟩
  | fdiv | fsqrt => exact ⟨_, rfl, (s.longFloat_onlyMoves _ _ _ _).orPasses⟩
  | vadd | vsub | vmul | vfma | vfms | vmin | vmax | vfmas | vscal =>
    exact ⟨_, rfl, (s.vop_onlyMoves _ _ _ _ _ _ _ _ _).orPasses⟩
  | vcvt | vabs | vneg | vpopc => exact ⟨_, rfl, (s.vop1_onlyMoves _ _ _ _ _).orPasses⟩
  | vand | vor | vxor | vshl | vshr | vsar => exact ⟨_, rfl, (s.vbit_onlyMoves _ _ _ _ _).orPasses⟩
  | vpack | vunpk | vdot4 => exact ⟨_, rfl, (s.lanes_onlyMoves _ _ _ _).orPasses⟩
  | vsel | vmov | vbcast | vput | vperm | vrot | vcomp | vexpd | viota =>
    exact ⟨_, rfl, (s.lanes0_onlyMoves _ _ _ _).orPasses⟩
  | tlook => exact ⟨_, rfl, (s.landLa_advance_onlyMoves _ _ _ _ _).orPasses⟩
  | _ => cases h

/-- Where a logical cluster is placed, or was before a vacate saved it, stands in the physical clusters and cores, and in what
each logical core holds beside its threads. -/
theorem State.onlyMoves.seat {s t : State} {w : Tid} (h : s.onlyMoves t w) (j c : Nat) : t.seat j c = s.seat j c := by
  have hlcn := h.jobField (fun b => b.lcnOf c 0) (fun _ => rfl) j
  have hsaved := h.coreField (fun q => q.saved) (fun _ => rfl) j
  unfold State.seat State.pcore
  rw [h.pclus, h.pcores, hlcn, hsaved]

/-- Every special register is a field that no move on touches. -/
theorem State.onlyMoves.spRead {s t : State} {w : Tid} (h : s.onlyMoves t w) (v : Tid) (n : Nat) : t.spRead v n = s.spRead v n := by
  have hthread := h.field Thread.bare (fun _ => rfl) v
  have hjob := h.jobs v.job
  simp only [Thread.bare, Thread.mk.injEq] at hthread
  simp only [Job.bare, Job.mk.injEq] at hjob
  simp only [State.spRead, State.seg, State.foldG, h.seat, h.cyc, Job.cluOf, Job.memOf, Job.xOf, Job.yOf, hthread, hjob]

/-- Settles O14: a computing instruction only moves its thread on, which no register, byte, flag or special register shows. -/
theorem computeFrame : Obligations.ComputeFrame := by
  intro i s hi
  obtain ⟨t, ht, hmoves⟩ := exec_computes_onlyMoves i s hi
  exact ⟨t, ht, hmoves, hmoves.sameRegs, hmoves.sameBytes, hmoves.field (fun x => x.flags) (fun _ => rfl) s.cur, hmoves.spRead⟩

end Sys2Proof.Machine

/-!
PROOFS. The slot of a core whose thread executes an instruction (R28, R41 to R43, R93): obligation O7.
-/

namespace Sys2Proof.Machine

/-- The instruction word at a PC within the code bytes of a line that the thread holds. -/
theorem State.fetched_of_line (s : State) (w : Tid) (l : CodeLine) (hl : (s.thread w).line? (s.lineOf w) = some l)
    (hlo : l.lo ≤ (s.pcOf w - l.addr).toNat) (hhi : (s.pcOf w - l.addr).toNat + 12 ≤ l.hi) :
    s.fetched w = some (l.word (s.pcOf w)) := by
  simp only [State.fetched, hl, Option.bind_some, CodeLine.word?, hlo, hhi, decide_true, Bool.and_self, if_true]

/-- Before a word that decodes executes, what holds it back and the traps found at issue are looked at. -/
theorem State.beforeIssue_of_decode (s : State) (w : Tid) {x : BitVec 96} {i : Instr} (h : decode x = .ok i) :
    s.beforeIssue w x = s.preIssue w (Fields.ofWord x) := by
  simp [State.beforeIssue, h]

theorem instrOf_of_decode {x : BitVec 96} {i : Instr} (h : decode x = .ok i) : instrOf x = i := by
  simp [instrOf, h]

/-- A running thread that is not parked on an FE word executes the word that it holds once nothing holds that word back. -/
theorem State.slotOf_issue (s : State) (w : Tid) (x : BitVec 96) (hstall : (s.thread w).stall = none)
    (hfe : s.parkFe w = none) (hx : s.fetched w = some x) (hbefore : s.beforeIssue w x = none) :
    s.slotOf w = .issue w x { (s.takeBinding w) with cur := w } := by
  simp [State.slotOf, hstall, hfe, hx, hbefore]

/-- The slot of a core in which a thread executes a word. -/
theorem coreStep_issue (pc : Nat) (s t : State) (w : Tid) (x : BitVec 96) (h : s.slot pc = .issue w x t) :
    coreStep pc s = afterNext (exec (instrOf x) t) fun u => State.afterIssue t u pc w := by
  simp [coreStep, h]

/-- Settles O7: the slot's thread executes the word at its PC, which decodes to the instruction. -/
theorem stepRunsDecoded : Obligations.StepRunsDecoded := by
  intro s pc w l i u x hdue hcore hturn hstall hfe hline hlo hhi hdecode hpre v
  have hword : u.fetched w = some x := u.fetched_of_line w l hline hlo hhi
  have hbefore : u.beforeIssue w x = none := (u.beforeIssue_of_decode w hdecode).trans hpre
  have hslot : u.slot pc = .issue w x v := by
    simp only [State.slot, hturn]
    exact u.slotOf_issue w x hstall hfe hword hbefore
  calc step s
      = coreStep pc u := by simp only [step, hdue, hcore, u]
    _ = afterNext (exec (instrOf x) v) fun t => State.afterIssue v t pc w := coreStep_issue pc u v w x hslot
    _ = afterNext (exec i v) fun t => State.afterIssue v t pc w := by rw [instrOf_of_decode hdecode]

/-! ### Words of the manual -/

/-- Settles O6: each word, decoded. -/
theorem decodeWords : Obligations.DecodeWords := by
  unfold Obligations.DecodeWords
  and_intros
  all_goals rfl

end Sys2Proof.Machine

/-!
PROOFS. The instruction word (R33 to R51): what a legal word holds is what the encoder writes, opcode by opcode.
-/

namespace Sys2Proof

/-! ### Codes of the operand types (R35 to R37) -/

@[simp] theorem Ty.ofCode_code (t : Ty) : Ty.ofCode t.code = t := by cases t <;> rfl
@[simp] theorem Rm.ofCode_code (m : Rm) : Rm.ofCode m.code = m := by cases m <;> rfl
@[simp] theorem Wd.ofCode_code (x : Wd) : Wd.ofCode x.code = x := by cases x <;> rfl
@[simp] theorem ICond.ofCode_code (x : ICond) : ICond.ofCode x.code = x := by cases x <;> rfl
@[simp] theorem FCond.ofCode_code (x : FCond) : FCond.ofCode x.code = x := by cases x <;> rfl
@[simp] theorem AdrForm.ofCode_code (x : AdrForm) : AdrForm.ofCode x.code = x := by cases x <;> rfl
@[simp] theorem Scope.ofCode_code (x : Scope) : Scope.ofCode x.code = x := by cases x <;> rfl
@[simp] theorem AmoOp.ofCode_code (x : AmoOp) : AmoOp.ofCode x.code = x := by cases x <;> rfl
@[simp] theorem FOp.ofCode_code (x : FOp) : FOp.ofCode x.code = x := by cases x <;> rfl
@[simp] theorem Dir.ofCode_code (x : Dir) : Dir.ofCode x.code = x := by cases x <;> rfl

@[simp] theorem Ty.code_ofCode : ∀ c, (Ty.ofCode c).code = c := by decide
@[simp] theorem FCond.code_ofCode : ∀ c, (FCond.ofCode c).code = c := by decide
@[simp] theorem Dir.code_ofCode : ∀ c, (Dir.ofCode c).code = c := by decide

theorem Ty.ofCode_beq (c : BitVec 4) (t : Ty) : (Ty.ofCode c == t) = (c == t.code) := by
  revert c
  cases t <;> decide

theorem Rm.ofCode_beq_rne : ∀ c, (Rm.ofCode c == .rne) = (c == 0) := by decide

/-! ### Operand fields (R38, R40) -/

/-- The code that the encoder writes for the register that the decoder reads from an operand field. -/
def Kind.canon : Kind → BitVec 7 → BitVec 7
  | .no, _ => 0
  | .s, c | .sT, c | .s2, c | .s3, c => c
  | .v, c => vCode (vOf c)
  | .q, c | .qd, c | .k, c | .kd, c => (0 : BitVec 4) ++ c.extractLsb' 0 3
  | .h, c | .h0, c => (0 : BitVec 1) ++ c.extractLsb' 0 6

/-- What a kind asks of a register beyond its bank. -/
def Kind.admits : Kind → Bool → BitVec 7 → Bool
  | .sT, pair, c => !pair || pairOk c
  | .s2, _, c => pairOk c
  | .s3, _, c => tripleOk c
  | .qd, _, c | .kd, _, c => c.extractLsb' 0 3 != 0
  | .h, _, c => c.extractLsb' 0 6 != 0
  | _, _, _ => true

/-- A code is accepted (R38, R40, R51) when the encoder gives it back and its kind admits the register. -/
theorem Kind.ok_eq_canon (x : Kind) (pair : Bool) (c : BitVec 7) :
    ((x != .no || c == 0) && x.ok pair c) = (x.canon c == c && x.admits pair c) := by
  cases x
  all_goals
    cases pair
    all_goals
      revert c
      decide

/-! ### The word of a row (R35, R49) -/

/-- T as the encoder writes it: 0 where the row has no T, the code of f32 where it has only f32. -/
def TSet.canon : TSet → BitVec 4 → BitVec 4
  | .none, _ => 0
  | .f32, _ => 0xC
  | _, t => (Ty.ofCode t).code

/-- The type of a row that leaves a choice is in its set. -/
def TSet.admits : TSet → BitVec 4 → Bool
  | .none, _ | .f32, _ => true
  | x, t => x.has (Ty.ofCode t)

theorem TSet.has_eq_canon (x : TSet) (t : BitVec 4) :
    ((x != .none || t == 0) && x.has (Ty.ofCode t)) = (x.canon t == t && x.admits t) := by
  revert t
  cases x <;> decide

/-- The fields that the encoder writes for the instruction that the decoder builds from `f` under a row, with `fn` as FN. -/
def Row.canon (r : Row) (f : Fields) (fn : BitVec 12) : Fields where
  opc := f.opc
  la := if r.mL then f.la else 0
  gn := f.gn
  gp := f.gp
  rx := r.mX && f.rx
  rsv := false
  md := if r.mW then (0 : BitVec 1) ++ BitVec.ofBool (f.md.getLsbD 0) else 0
  d := r.d.canon f.d
  a := r.a.canon f.a
  b := if r.mI && f.i then 0 else r.b.canon f.b
  i := r.mI && f.i
  t := r.t.canon f.t
  rm := if r.mM then (Rm.ofCode f.rm).code else 0
  sat := r.mS && f.sat
  fn := fn
  imm := if r.imm == .used || (r.mI && f.i) then f.imm else 0

/-- What R51 asks of the operands, types and modes of a word beyond the fields that a row leaves empty. -/
def Row.holds (r : Row) (f : Fields) : Bool :=
  r.d.admits (pairD f) f.d && (r.a.admits (pairA f) f.a && ((r.b.admits (pairA f) f.b || (r.mI && f.i)) && (r.t.admits f.t &&
    ((if f.opc = 0x0C0 ∨ f.opc = 0x0CB then r.t.has (Ty.ofCode (f.fn.extractLsb' 0 4)) else true) && rmSatOk f))))

theorem Fields.eq_iff (f g : Fields) : f = g ↔ f.opc = g.opc ∧ f.la = g.la ∧ f.gn = g.gn ∧ f.gp = g.gp ∧ f.rx = g.rx ∧
    f.rsv = g.rsv ∧ f.md = g.md ∧ f.d = g.d ∧ f.a = g.a ∧ f.b = g.b ∧ f.i = g.i ∧ f.t = g.t ∧ f.rm = g.rm ∧
    f.sat = g.sat ∧ f.fn = g.fn ∧ f.imm = g.imm := by
  cases f
  cases g
  simp

theorem md_eq_canon (w : Bool) (md : BitVec 2) :
    ((w || md == 0) && !md.getLsbD 1) = ((if w then (0 : BitVec 1) ++ BitVec.ofBool (md.getLsbD 0) else 0) == md) := by
  revert md
  cases w <;> decide

theorem rm_eq_canon (m : Bool) (rm : BitVec 3) :
    ((m || rm == 0) && (!m || decide (rm.toNat < 5))) = ((if m then (Rm.ofCode rm).code else 0) == rm) := by
  revert rm
  cases m <;> decide

theorem bi_eq_canon (x : Kind) (pair mI i : Bool) (b : BitVec 7) :
    (((x != .no || b == 0) && (!i || b == 0)) && ((mI || !i) && (i || x.ok pair b))) =
      (((if mI && i then 0 else x.canon b) == b) && ((mI && i) == i && (x.admits pair b || (mI && i)))) := by
  have h := Kind.ok_eq_canon x pair b
  cases i with
  | false => simpa using h
  | true =>
    cases mI with
    | false => simp
    | true => rw [show (true && true) = true from rfl, if_pos rfl, BEq.comm (a := 0)]; cases hb : b == 0 <;> simp

theorem imm_eq_canon (k : ImmKind) (mI i : Bool) (imm : BitVec 32) (h : (mI && i) = i) :
    (k != .no || i || imm == 0) = ((if k == .used || (mI && i) then imm else 0) == imm) := by
  rw [h]
  cases k <;> cases i <;> simp [BEq.comm (a := imm)]

theorem gate_eq_canon (m x : Bool) : (m || !x) = ((m && x) == x) := by cases m <;> cases x <;> rfl

theorem la_eq_canon (m : Bool) (la : BitVec 4) : (m || la == 0) = ((if m then la else 0) == la) := by
  cases m <;> simp [BEq.comm (a := la)]

/-- Cases 2 to 13 of R51 split into the fields that a row leaves empty, FN, the guard, and the rest. -/
theorem Row.legal_eq (r : Row) (f : Fields) :
    (rsvOk r f && opndOk r f) = true ↔
      r.canon f f.fn = f ∧ fnOk f = true ∧ Gd.ok ⟨f.gn, f.gp⟩ = true ∧ r.holds f = true := by
  have hsplit : (rsvOk r f && opndOk r f) =
      (((r.d != .no || f.d == 0) && r.d.ok (pairD f) f.d) && (((r.a != .no || f.a == 0) && r.a.ok (pairA f) f.a) &&
      ((((r.b != .no || f.b == 0) && (!f.i || f.b == 0)) && ((r.mI || !f.i) && (f.i || r.b.ok (pairA f) f.b))) &&
      ((r.imm != .no || f.i || f.imm == 0) && (((r.t != .none || f.t == 0) && r.t.has (Ty.ofCode f.t)) &&
      (((r.mW || f.md == 0) && !f.md.getLsbD 1) && (((r.mM || f.rm == 0) && (!r.mM || decide (f.rm.toNat < 5))) &&
      ((r.mL || f.la == 0) && ((r.mX || !f.rx) && ((r.mS || !f.sat) && (!f.rsv && (fnOk f && (!(f.gn && f.gp == 0) &&
      ((if f.opc = 0x0C0 ∨ f.opc = 0x0CB then r.t.has (Ty.ofCode (f.fn.extractLsb' 0 4)) else true) && rmSatOk f)))))))))))))) := by
    unfold rsvOk opndOk
    ac_rfl
  rw [hsplit, Kind.ok_eq_canon, Kind.ok_eq_canon, bi_eq_canon, TSet.has_eq_canon, md_eq_canon, rm_eq_canon, la_eq_canon,
    gate_eq_canon r.mX, gate_eq_canon r.mS]
  by_cases hi : (r.mI && f.i) = f.i
  · rw [imm_eq_canon _ _ _ _ hi]
    simp only [Row.canon, Fields.eq_iff, Row.holds, Gd.ok, Bool.and_eq_true, beq_iff_eq, true_and, hi, Bool.not_eq_true',
      @eq_comm _ false]
    tauto
  · simp only [Row.canon, Fields.eq_iff, Bool.and_eq_true, beq_iff_eq, hi, false_and, and_false]

/-- A word under a row is legal (R51) exactly when what it decodes to, `i`, passes the check `w` of its class and encodes to
that word. -/
def Row.encodes (r : Row) (f : Fields) (i : Instr) (w : Bool) : Prop :=
  (rsvOk r f && opndOk r f) = true ↔ w = true ∧ encodeFields i = some f

/-- So it is when the encoder writes the fields of the row with `fn` as FN, case 9 of R51 asks that FN be `fn` and a condition
`c` beside, and the check of the class asks for `c`, the guard and what the row asks. -/
theorem Row.encodes_of_cond {r : Row} {f : Fields} {i : Instr} {w c : Bool} {fn : BitVec 12}
    (henc : encodeFields i = some (r.canon f fn)) (hfn : fnOk f = true ↔ fn = f.fn ∧ c = true)
    (hw : w = (r.holds f && (c && Gd.ok ⟨f.gn, f.gp⟩))) : r.encodes f i w := by
  have hcanon : r.canon f fn = f ↔ r.canon f f.fn = f ∧ fn = f.fn := by
    simp only [Fields.eq_iff, Row.canon]
    tauto
  rw [Row.encodes, Row.legal_eq, henc, hw, hfn, Option.some.injEq, hcanon]
  simp only [Bool.and_eq_true]
  tauto

/-- The same where FN has no condition beside. -/
theorem Row.encodes_of_fn {r : Row} {f : Fields} {i : Instr} {w : Bool} {fn : BitVec 12}
    (henc : encodeFields i = some (r.canon f fn)) (hfn : fnOk f = true ↔ fn = f.fn)
    (hw : w = (r.holds f && Gd.ok ⟨f.gn, f.gp⟩)) : r.encodes f i w :=
  Row.encodes_of_cond (c := true) henc (by simp only [hfn, and_true]) hw

theorem opc_eq_of_toNat {w n : Nat} {x : BitVec w} (h : x.toNat = n) : x = BitVec.ofNat w n := by
  subst h
  simp

/-! ### FN (case 9 of R51)

Each lemma takes the condition of `fnOk` for one layout of FN to the equation that the encoder's FN is that of the word. -/

theorem Wd.code_ofCode_iff : ∀ c : BitVec 2, (c.toNat != 3) = true ↔ (Wd.ofCode c).code = c := by decide
theorem AdrForm.code_ofCode_iff : ∀ c : BitVec 2, (c.toNat != 3) = true ↔ (AdrForm.ofCode c).code = c := by decide
theorem FOp.code_ofCode_iff : ∀ c : BitVec 2, (c.toNat != 3) = true ↔ (FOp.ofCode c).code = c := by decide
theorem ICond.code_ofCode_iff : ∀ c : BitVec 4, decide (c.toNat < 10) = true ↔ (ICond.ofCode c).code = c := by decide
theorem Scope.code_ofCode_iff : ∀ c : BitVec 3, decide (c.toNat < 5) = true ↔ (Scope.ofCode c).code = c := by decide
theorem AmoOp.code_ofCode_iff : ∀ c : BitVec 4, decide (c.toNat < 9) = true ↔ (AmoOp.ofCode c).code = c := by decide

/-- `rupd` takes every operation but the exchange (R193). -/
theorem AmoOp.code_ofCode_iff_of_ne_swap : ∀ c : BitVec 4,
    decide (c.toNat < 8) = true ↔ (AmoOp.ofCode c).code = c ∧ (AmoOp.ofCode c != .swap) = true := by decide

/-- Two values of FN are equal when their bits are. -/
theorem fn_eq_iff (x y : BitVec 12) : x = y ↔
    x.getLsbD 0 = y.getLsbD 0 ∧ x.getLsbD 1 = y.getLsbD 1 ∧ x.getLsbD 2 = y.getLsbD 2 ∧ x.getLsbD 3 = y.getLsbD 3 ∧
    x.getLsbD 4 = y.getLsbD 4 ∧ x.getLsbD 5 = y.getLsbD 5 ∧ x.getLsbD 6 = y.getLsbD 6 ∧ x.getLsbD 7 = y.getLsbD 7 ∧
    x.getLsbD 8 = y.getLsbD 8 ∧ x.getLsbD 9 = y.getLsbD 9 ∧ x.getLsbD 10 = y.getLsbD 10 ∧ x.getLsbD 11 = y.getLsbD 11 := by
  refine ⟨fun h => by simp [h], fun h => BitVec.eq_of_getLsbD_eq fun i hi => ?_⟩
  interval_cases i <;> simp only [h]

theorem fn_empty (fn : BitVec 12) : (fn == 0) = true ↔ 0 = fn := by
  rw [beq_iff_eq, eq_comm]

/-- FN holds one field of `n` bits from bit 0 up. -/
theorem fn_low (m n : Nat) (x : BitVec (m + n)) :
    (x &&& (BitVec.allOnes m ++ 0#n) == 0) = true ↔ 0#m ++ x.extractLsb' 0 n = x := by
  have hbit (i : Nat) (hi : i < m + n) :
      ((x &&& (BitVec.allOnes m ++ 0#n)).getLsbD i = (0 : BitVec (m + n)).getLsbD i) ↔
        ((0#m ++ x.extractLsb' 0 n).getLsbD i = x.getLsbD i) := by
    by_cases h : i < n
    · simp [BitVec.getLsbD_append, h]
    · have hm : i - n < m := by omega
      simp [BitVec.getLsbD_append, h, hm, @eq_comm _ false]
  rw [beq_iff_eq]
  exact ⟨fun h => BitVec.eq_of_getLsbD_eq fun i hi => (hbit i hi).1 (by rw [h]),
    fun h => BitVec.eq_of_getLsbD_eq fun i hi => (hbit i hi).2 (by rw [h])⟩

/-- The field of `fn_low` is what the encoder put there. -/
theorem fn_low_eq (m n : Nat) (x : BitVec (m + n)) (y : BitVec n) :
    0#m ++ y = x ↔ 0#m ++ x.extractLsb' 0 n = x ∧ y = x.extractLsb' 0 n := by
  constructor
  · rintro rfl
    rw [extract_low _ _ _ _ (by omega), extract_all]
    exact ⟨rfl, rfl⟩
  · rintro ⟨h, rfl⟩
    exact h

/-- … a code that does not use all its values. -/
theorem fn_low_code (m n : Nat) (x : BitVec (m + n)) {y : BitVec n} {p : Bool} (hp : p = true ↔ y = x.extractLsb' 0 n) :
    ((x &&& (BitVec.allOnes m ++ 0#n) == 0) && p) = true ↔ 0#m ++ y = x := by
  rw [Bool.and_eq_true, fn_low, hp, ← fn_low_eq]

/-- … with a condition on it. -/
theorem fn_low_cond (m n : Nat) (x : BitVec (m + n)) (c : Bool) :
    ((x &&& (BitVec.allOnes m ++ 0#n) == 0) && c) = true ↔ 0#m ++ x.extractLsb' 0 n = x ∧ c = true := by
  rw [Bool.and_eq_true, fn_low]

theorem toNat_beq_zero {n : Nat} (x : BitVec n) : (x.toNat == 0) = (x == 0) := by
  rw [Bool.eq_iff_iff, beq_iff_eq, beq_iff_eq]
  exact ⟨fun h => BitVec.eq_of_toNat_eq (by simpa using h), fun h => by simp [h]⟩

theorem toNat_bne_zero {n : Nat} (x : BitVec n) : (x.toNat != 0) = (x != 0) := by
  rw [bne, bne, toNat_beq_zero]

theorem extract_eq_zero_iff {w : Nat} (x : BitVec w) (k n : Nat) :
    x.extractLsb' k n = 0 ↔ ∀ i, i < n → x.getLsbD (k + i) = false := by
  refine ⟨fun h i hi => ?_, fun h => BitVec.eq_of_getLsbD_eq fun i hi => ?_⟩
  · have hbit := congrArg (BitVec.getLsbD · i) h
    simpa [BitVec.getLsbD_extractLsb', hi] using hbit
  · simp [BitVec.getLsbD_extractLsb', h i hi]

theorem low3_eq_zero (fn : BitVec 12) :
    fn.extractLsb' 0 3 = 0 ↔ fn.getLsbD 0 = false ∧ fn.getLsbD 1 = false ∧ fn.getLsbD 2 = false := by
  rw [extract_eq_zero_iff]
  refine ⟨fun h => ⟨h 0 (by decide), h 1 (by decide), h 2 (by decide)⟩, fun ⟨hzero, hone, htwo⟩ i hi => ?_⟩
  interval_cases i <;> assumption

/-- `bext`, `bextu`, `bins`: position and length fill FN (R101). -/
theorem fn_field (fn : BitVec 12) :
    true = true ↔ ((0 : BitVec 6) ++ fn.extractLsb' 0 6) ||| (fn.extractLsb' 6 6 ++ (0 : BitVec 6)) = fn := by
  rw [fn_eq_iff]
  simp only [BitVec.getLsbD_append, BitVec.getLsbD_extractLsb', BitVec.getLsbD_or]
  simp [-BitVec.getLsbD_eq_getElem]

/-- `pset` names q1 to q7 (R105). -/
theorem fn_predicates (fn : BitVec 12) :
    (fn &&& 0xF01 == 0) = true ↔ (0 : BitVec 4) ++ fn.extractLsb' 1 7 ++ (0 : BitVec 1) = fn := by
  rw [beq_iff_eq, fn_eq_iff, fn_eq_iff]
  simp only [BitVec.getLsbD_append, BitVec.getLsbD_extractLsb', BitVec.getLsbD_and]
  simp [-BitVec.getLsbD_eq_getElem, @eq_comm _ false]

/-- `start` says twice whether it names a thread (R119). -/
theorem fn_thread (fn : BitVec 12) :
    (fn &&& 0xFE0 == 0 && (fn.getLsbD 4 == ((fn.extractLsb' 0 4).toNat != 0))) = true ↔
      (0 : BitVec 7) ++ BitVec.ofBool (fn.extractLsb' 0 4 != 0) ++ fn.extractLsb' 0 4 = fn := by
  rw [toNat_bne_zero, Bool.and_eq_true, beq_iff_eq, beq_iff_eq, fn_eq_iff, fn_eq_iff]
  generalize (fn.extractLsb' 0 4 != 0) = named
  simp only [BitVec.getLsbD_append, BitVec.getLsbD_extractLsb', BitVec.getLsbD_and]
  simp [-BitVec.getLsbD_eq_getElem, @eq_comm _ false]
  tauto

/-- A lane mask and a condition (R170). -/
theorem fn_mask_cond (fn : BitVec 12) (c : Bool) :
    (fn &&& 0xFC0 == 0 && c) = true ↔
      ((0 : BitVec 9) ++ fn.extractLsb' 0 3) ||| ((0 : BitVec 6) ++ fn.extractLsb' 3 3 ++ (0 : BitVec 3)) = fn ∧ c = true := by
  rw [Bool.and_eq_true, beq_iff_eq, fn_eq_iff, fn_eq_iff]
  simp only [BitVec.getLsbD_append, BitVec.getLsbD_extractLsb', BitVec.getLsbD_and, BitVec.getLsbD_or]
  simp [-BitVec.getLsbD_eq_getElem, @eq_comm _ false]

/-- An index and its shift, or neither (R46, R184). -/
theorem fn_index (fn : BitVec 12) (i : Bool) (b : SReg) :
    (fn &&& 0xFF8 == 0 && (!i || (fn.extractLsb' 0 3).toNat == 0)) = true ↔
      (if i then Idx.none else Idx.reg b (fn.extractLsb' 0 3)).shift = fn := by
  cases i with
  | false => simpa [Idx.shift] using fn_low 9 3 fn
  | true =>
    rw [toNat_beq_zero, Bool.not_true, Bool.false_or]
    exact fn_low_code 9 3 fn (y := 0) (by rw [beq_iff_eq, eq_comm])

/-- A lane count alone (R184). -/
theorem fn_count (fn : BitVec 12) (c : Bool) :
    (fn &&& 0x00F == 0 && c) = true ↔ fn.extractLsb' 4 8 ++ (0 : BitVec 4) = fn ∧ c = true := by
  rw [Bool.and_eq_true, beq_iff_eq, fn_eq_iff, fn_eq_iff]
  simp only [BitVec.getLsbD_append, BitVec.getLsbD_extractLsb', BitVec.getLsbD_and]
  simp [-BitVec.getLsbD_eq_getElem, @eq_comm _ false]

/-- A lane count and a shift (R184). -/
theorem fn_count_shift (fn : BitVec 12) :
    (fn &&& 0x008 == 0) = true ↔ (fn.extractLsb' 4 8 ++ (0 : BitVec 4)) ||| ((0 : BitVec 9) ++ fn.extractLsb' 0 3) = fn := by
  rw [beq_iff_eq, fn_eq_iff, fn_eq_iff]
  simp only [BitVec.getLsbD_append, BitVec.getLsbD_extractLsb', BitVec.getLsbD_and, BitVec.getLsbD_or]
  simp [-BitVec.getLsbD_eq_getElem, @eq_comm _ false]

theorem fn_count_index (fn : BitVec 12) (i : Bool) (b : SReg) :
    (fn &&& 0x008 == 0 && decide (1 ≤ (fn.extractLsb' 4 8).toNat) && decide ((fn.extractLsb' 4 8).toNat ≤ 64) &&
        (!i || (fn.extractLsb' 0 3).toNat == 0)) = true ↔
      (fn.extractLsb' 4 8 ++ (0 : BitVec 4)) ||| (if i then Idx.none else Idx.reg b (fn.extractLsb' 0 3)).shift = fn ∧
        cntOk (fn.extractLsb' 4 8) = true := by
  have hassoc (m p q r : Bool) : ((m && p && q) && r) = true ↔ (m && r) = true ∧ (p && q) = true := by
    cases m <;> cases r <;> simp
  rw [hassoc, cntOk]
  refine and_congr_left fun _ => ?_
  cases i with
  | false => simpa [Idx.shift] using fn_count_shift fn
  | true =>
    have hlow : (fn &&& 0x008 == 0 && fn.extractLsb' 0 3 == 0) = true ↔ (fn &&& 0x00F == 0 && true) = true := by
      simp only [Bool.and_eq_true, beq_iff_eq, low3_eq_zero, fn_eq_iff, BitVec.getLsbD_and]
      simp [-BitVec.getLsbD_eq_getElem]
      tauto
    rw [toNat_beq_zero, Bool.not_true, Bool.false_or, hlow, fn_count, and_iff_left rfl, if_pos rfl, Idx.shift]
    simp

/-- A direction and a slot (R266). -/
theorem fn_dir_slot (fn : BitVec 12) :
    (fn &&& 0xFF0 == 0) = true ↔
      ((0 : BitVec 10) ++ fn.extractLsb' 0 2) ||| ((0 : BitVec 8) ++ fn.extractLsb' 2 2 ++ (0 : BitVec 2)) = fn := by
  rw [beq_iff_eq, fn_eq_iff, fn_eq_iff]
  simp only [BitVec.getLsbD_append, BitVec.getLsbD_extractLsb', BitVec.getLsbD_and, BitVec.getLsbD_or]
  simp [-BitVec.getLsbD_eq_getElem, @eq_comm _ false]

/-- `sopen` (R266): direction, slot and three marks. -/
theorem fn_open (fn : BitVec 12) (p q : Bool) :
    (fn &&& 0xF80 == 0 && p && q) = true ↔
      ((0 : BitVec 10) ++ fn.extractLsb' 0 2) ||| ((0 : BitVec 8) ++ fn.extractLsb' 2 2 ++ (0 : BitVec 2)) |||
        ((0 : BitVec 7) ++ BitVec.ofBool (fn.getLsbD 4) ++ (0 : BitVec 4)) |||
        ((0 : BitVec 6) ++ BitVec.ofBool (fn.getLsbD 5) ++ (0 : BitVec 5)) |||
        ((0 : BitVec 5) ++ BitVec.ofBool (fn.getLsbD 6) ++ (0 : BitVec 6)) = fn ∧ (p && q) = true := by
  rw [Bool.and_assoc, Bool.and_eq_true, beq_iff_eq, fn_eq_iff, fn_eq_iff]
  simp only [BitVec.getLsbD_append, BitVec.getLsbD_extractLsb', BitVec.getLsbD_and, BitVec.getLsbD_or]
  simp [-BitVec.getLsbD_eq_getElem, @eq_comm _ false]

/-- `sjoin` (R266): direction and one mark. -/
theorem fn_join (fn : BitVec 12) (p : Bool) :
    (fn &&& 0xFEC == 0 && p) = true ↔
      ((0 : BitVec 10) ++ fn.extractLsb' 0 2) ||| ((0 : BitVec 7) ++ BitVec.ofBool (fn.getLsbD 4) ++ (0 : BitVec 4)) = fn ∧
        p = true := by
  rw [Bool.and_eq_true, beq_iff_eq, fn_eq_iff, fn_eq_iff]
  simp only [BitVec.getLsbD_append, BitVec.getLsbD_extractLsb', BitVec.getLsbD_and, BitVec.getLsbD_or]
  simp [-BitVec.getLsbD_eq_getElem, @eq_comm _ false]

/-- `sclose` without `rdl` names no slot (R266). -/
theorem fn_close (fn : BitVec 12) (h : fn.getLsbD 4 = false) :
    (fn &&& 0xFE0 == 0 && (fn.getLsbD 4 || (fn.extractLsb' 2 2).toNat == 0)) = true ↔
      (0 : BitVec 10) ++ fn.extractLsb' 0 2 = fn := by
  have hslot : fn.extractLsb' 2 2 = 0 ↔ fn.getLsbD 2 = false ∧ fn.getLsbD 3 = false := by
    rw [extract_eq_zero_iff]
    refine ⟨fun h => ⟨h 0 (by decide), h 1 (by decide)⟩, fun ⟨htwo, hthree⟩ i hi => ?_⟩
    interval_cases i <;> assumption
  rw [h, Bool.false_or, toNat_beq_zero, Bool.and_eq_true, beq_iff_eq, beq_iff_eq, hslot, fn_eq_iff, fn_eq_iff]
  simp only [BitVec.getLsbD_append, BitVec.getLsbD_extractLsb', BitVec.getLsbD_and]
  simp [-BitVec.getLsbD_eq_getElem, @eq_comm _ false, h]
  tauto

/-- `sclose` with `rdl` names one (R266). -/
theorem fn_close_rdl (fn : BitVec 12) (h : fn.getLsbD 4 = true) :
    (fn &&& 0xFE0 == 0 && (fn.getLsbD 4 || (fn.extractLsb' 2 2).toNat == 0)) = true ↔
      ((0 : BitVec 10) ++ fn.extractLsb' 0 2) ||| ((0 : BitVec 8) ++ fn.extractLsb' 2 2 ++ (0 : BitVec 2)) ||| 0x010 = fn := by
  rw [h, Bool.true_or, Bool.and_true, beq_iff_eq, fn_eq_iff, fn_eq_iff]
  simp only [BitVec.getLsbD_append, BitVec.getLsbD_extractLsb', BitVec.getLsbD_and, BitVec.getLsbD_or]
  simp [-BitVec.getLsbD_eq_getElem, @eq_comm _ false, h]

/-- `pfetch`: the list and the windows named (R302). -/
theorem fn_fetch (fn : BitVec 12) :
    (fn &&& 0xFF8 == 0 && (fn.extractLsb' 1 2).toNat != 0) = true ↔
      ((0 : BitVec 11) ++ BitVec.ofBool (fn.getLsbD 0)) ||| ((0 : BitVec 9) ++ fn.extractLsb' 1 2 ++ (0 : BitVec 1)) = fn ∧
        (fn.extractLsb' 1 2 != 0) = true := by
  rw [toNat_bne_zero, Bool.and_eq_true, beq_iff_eq, fn_eq_iff, fn_eq_iff]
  simp only [BitVec.getLsbD_append, BitVec.getLsbD_extractLsb', BitVec.getLsbD_and, BitVec.getLsbD_or]
  simp [-BitVec.getLsbD_eq_getElem, @eq_comm _ false]

/-- A reduction: group and operation (R357). -/
theorem fn_reduce (fn : BitVec 12) :
    (fn &&& 0xFE0 == 0 && (fn.extractLsb' 3 2).toNat != 3) = true ↔
      ((0 : BitVec 9) ++ fn.extractLsb' 0 3) ||| ((0 : BitVec 7) ++ (FOp.ofCode (fn.extractLsb' 3 2)).code ++ (0 : BitVec 3)) =
        fn := by
  rw [Bool.and_eq_true, FOp.code_ofCode_iff]
  generalize (FOp.ofCode (fn.extractLsb' 3 2)).code = op
  have hmask : (fn &&& 0xFE0 == 0) = true ↔
      ((0 : BitVec 9) ++ fn.extractLsb' 0 3) ||| ((0 : BitVec 7) ++ fn.extractLsb' 3 2 ++ (0 : BitVec 3)) = fn := by
    rw [beq_iff_eq, fn_eq_iff, fn_eq_iff]
    simp only [BitVec.getLsbD_append, BitVec.getLsbD_extractLsb', BitVec.getLsbD_and, BitVec.getLsbD_or]
    simp [-BitVec.getLsbD_eq_getElem, @eq_comm _ false]
  constructor
  · rintro ⟨hlow, rfl⟩
    exact hmask.1 hlow
  · intro h
    have hop : op = fn.extractLsb' 3 2 := by
      rw [← h]
      simp (disch := decide) only [BitVec.extractLsb'_or, extract_high, extract_low]
      simp
    subst hop
    exact ⟨hmask.2 h, rfl⟩

/-- `sfqpop`: a word and `tr` (R378). -/
theorem fn_record (fn : BitVec 12) :
    (fn &&& 0xFF8 == 0) = true ↔
      ((0 : BitVec 10) ++ fn.extractLsb' 0 2) ||| ((0 : BitVec 9) ++ BitVec.ofBool (fn.getLsbD 2) ++ (0 : BitVec 2)) = fn := by
  rw [beq_iff_eq, fn_eq_iff, fn_eq_iff]
  simp only [BitVec.getLsbD_append, BitVec.getLsbD_extractLsb', BitVec.getLsbD_and, BitVec.getLsbD_or]
  simp [-BitVec.getLsbD_eq_getElem, @eq_comm _ false]

/-! ### The checks of a class (R38, R47, R50) -/

theorem starOk_ofCode (t : BitVec 4) (r : SReg) : starOk (Ty.ofCode t) r = (!(t == 0xE) || pairOk r) := by
  rw [starOk, bne, Ty.ofCode_beq]
  rfl

theorem rmOk_ofCode (rm : BitVec 3) (p : Bool) : rmOk (Rm.ofCode rm) p = (rm == 0 || p) := by
  rw [rmOk, Rm.ofCode_beq_rne]

section

variable (g x y z u v : Bool)

theorem check_one : (g && x) = ((x && true) && g) := by
  cases g <;> simp
theorem check_two : (g && x && y) = ((x && (y && true)) && g) := by
  cases g <;> simp

end

/-! ### Class by class -/

theorem encodes_scalar (f : Fields) (r : Row) (h : rowsScalar f.opc.toNat = some r) :
    r.encodes f (buildScalar f) (wfScalar (buildScalar f)) := by
  obtain ⟨opc, la, gn, gp, rx, rsv, md, d, a, b, i, t, rm, sat, fn, imm⟩ := f
  unfold rowsScalar at h
  split at h
  all_goals cases h
  all_goals
    rename_i hopc
    obtain rfl := opc_eq_of_toNat hopc
  case h_26 => exact Row.encodes_of_fn (by cases i <;> rfl) (fn_low 9 3 _) rfl -- `sel`
  case h_29 | h_30 | h_31 => -- `bext`, `bextu`, `bins`
    exact Row.encodes_of_fn (by cases i <;> rfl) (fn_field _) rfl
  case h_32 => exact Row.encodes_of_fn rfl (fn_low_code 10 2 _ (Wd.code_ofCode_iff _)) rfl -- `sext`
  all_goals exact Row.encodes_of_fn (by cases i <;> rfl) (fn_empty _) rfl

theorem encodes_control (f : Fields) (r : Row) (h : rowsControl f.opc.toNat = some r) :
    r.encodes f (buildControl f) (wfControl (buildControl f)) := by
  obtain ⟨opc, la, gn, gp, rx, rsv, md, d, a, b, i, t, rm, sat, fn, imm⟩ := f
  unfold rowsControl at h
  split at h
  all_goals cases h
  all_goals
    rename_i hopc
    obtain rfl := opc_eq_of_toNat hopc
  case h_5 => -- `cmp`
    exact Row.encodes_of_fn (by cases i <;> rfl) (fn_low_code 8 4 _ (ICond.code_ofCode_iff _)) (check_one _ _)
  case h_6 => -- `tst`
    exact Row.encodes_of_fn (by cases i <;> rfl) (by rw [ofBool_bit]; exact fn_low 11 1 _) (check_one _ _)
  case h_7 => exact Row.encodes_of_fn rfl (fn_low 8 4 _) (check_one _ _) -- `plog`
  case h_8 => exact Row.encodes_of_fn rfl (fn_predicates _) rfl -- `pset`
  all_goals exact Row.encodes_of_fn rfl (fn_empty _) rfl

theorem encodes_thread (f : Fields) (r : Row) (h : rowsThread f.opc.toNat = some r) :
    r.encodes f (buildThread f) (wfThread (buildThread f)) := by
  obtain ⟨opc, la, gn, gp, rx, rsv, md, d, a, b, i, t, rm, sat, fn, imm⟩ := f
  unfold rowsThread at h
  split at h
  all_goals cases h
  all_goals
    rename_i hopc
    obtain rfl := opc_eq_of_toNat hopc
  case h_1 => exact Row.encodes_of_fn (by cases i <;> rfl) (fn_thread _) (check_one _ _) -- `start`
  case h_5 => exact Row.encodes_of_fn rfl (fn_empty _) (check_one _ _) -- `tilepos`
  case h_7 => -- `mkadr`
    exact Row.encodes_of_fn (by cases i <;> rfl) (fn_low_code 10 2 _ (AdrForm.code_ofCode_iff _)) rfl
  all_goals exact Row.encodes_of_fn rfl (fn_empty _) rfl

/-- T and the limits of R50 on RM and SAT. -/
theorem check_modes (g x p q sat : Bool) (rm : BitVec 3) :
    (g && x && rmOk (Rm.ofCode rm) p && satOk sat q) = ((x && (true && ((rm == 0 || p) && (!sat || q)))) && g) := by
  rw [rmOk_ofCode, satOk]
  cases g <;> simp [Bool.and_assoc]

/-- Two types and the limits of R50 on RM and SAT. -/
theorem check_conversion (g x y p q sat : Bool) (rm : BitVec 3) :
    (g && x && y && rmOk (Rm.ofCode rm) p && satOk sat q) = ((x && (y && ((rm == 0 || p) && (!sat || q)))) && g) := by
  rw [rmOk_ofCode, satOk]
  cases g <;> simp [Bool.and_assoc]

theorem check_pair (g x : Bool) (t : BitVec 4) (a : SReg) :
    (g && x && starOk (Ty.ofCode t) a) = (((!(t == 0xE) || pairOk a) && (x && true)) && g) := by
  rw [starOk_ofCode]
  cases g <;> simp [Bool.and_comm]

theorem check_pairs_of_compare (g x y : Bool) (t : BitVec 4) (a b : SReg) :
    (g && x && y && starOk (Ty.ofCode t) a && starOk (Ty.ofCode t) b) =
      ((y && ((!(t == 0xE) || pairOk a) && (((!(t == 0xE) || pairOk b) || false) && (x && true)))) && g) := by
  rw [starOk_ofCode, starOk_ofCode, Bool.or_false, Bool.and_true]
  ac_rfl

theorem check_pairs (g x : Bool) (t : BitVec 4) (d a b : SReg) :
    (g && x && starOk (Ty.ofCode t) d && starOk (Ty.ofCode t) a && starOk (Ty.ofCode t) b) =
      (((!(t == 0xE) || pairOk d) && ((!(t == 0xE) || pairOk a) && (((!(t == 0xE) || pairOk b) || false) && (x && true)))) && g) := by
  rw [starOk_ofCode t d, check_pairs_of_compare]

/-- `cvt` reads a pair when its source type is a80 (R49). -/
theorem check_cvt (g x y p q sat : Bool) (t src : BitVec 4) (rm : BitVec 3) (d a : SReg) :
    (g && x && y && starOk (Ty.ofCode t) d && starOk (Ty.ofCode src) a && rmOk (Rm.ofCode rm) p && satOk sat q) =
      (((!(t == 0xE) || pairOk d) && ((!(src.toNat == 0xE) || pairOk a) && (x && (y && ((rm == 0 || p) && (!sat || q)))))) && g) := by
  have hsrc : (src == 0xE) = (src.toNat == 0xE) := by
    revert src
    decide
  rw [starOk_ofCode, starOk_ofCode, rmOk_ofCode, satOk, hsrc]
  ac_rfl

/-- `vunpk` takes the upper parts of narrow types of 8 bits alone (R147). -/
theorem check_unpack (g : Bool) (t : BitVec 4) (fn : BitVec 12) :
    (g && TSet.has .narrow (Ty.ofCode t) && (!(fn.extractLsb' 0 2).getLsbD 1 || (Ty.ofCode t).width == 8)) =
      ((TSet.has .narrow (Ty.ofCode t) && true) &&
        (!(fn.getLsbD 1 && (t == 2 || t == 3 || t == 0xA || t == 0xB)) && g)) := by
  have hupper : (fn.extractLsb' 0 2).getLsbD 1 = fn.getLsbD 1 := by
    simp [BitVec.getLsbD_extractLsb', -BitVec.getLsbD_eq_getElem]
  rw [hupper]
  generalize fn.getLsbD 1 = upper
  revert t
  cases g <;> cases upper <;> decide

theorem encodes_number (f : Fields) (r : Row) (h : rowsNumber f.opc.toNat = some r) :
    r.encodes f (buildNumber f) (wfNumber (buildNumber f)) := by
  obtain ⟨opc, la, gn, gp, rx, rsv, md, d, a, b, i, t, rm, sat, fn, imm⟩ := f
  unfold rowsNumber at h
  split at h
  all_goals cases h
  all_goals
    rename_i hopc
    obtain rfl := opc_eq_of_toNat hopc
  case h_1 => -- `cvt`
    exact Row.encodes_of_fn rfl (by rw [Ty.code_ofCode]; exact fn_low 8 4 _) (check_cvt _ _ _ _ _ _ _ _ _ _ _)
  case h_2 | h_3 | h_4 | h_5 | h_8 | h_9 => -- `fadd`, `fsub`, `fmul`, `ffma`, `fmin`, `fmax`
    exact Row.encodes_of_fn rfl (fn_empty _) (check_pairs _ _ _ _ _ _)
  case h_6 | h_7 => exact Row.encodes_of_fn rfl (fn_empty _) (check_one _ _) -- `fdiv`, `fsqrt`
  case h_10 => -- `fcmp`
    exact Row.encodes_of_fn rfl (by rw [FCond.code_ofCode]; exact fn_low 9 3 _) (check_pairs_of_compare _ _ _ _ _ _)
  case h_11 => exact Row.encodes_of_fn rfl (fn_empty _) (check_pair _ _ _ _) -- `fclass`
  case h_12 => -- `vcvt`
    exact Row.encodes_of_fn rfl (by rw [Ty.code_ofCode]; exact fn_low 8 4 _) (check_conversion _ _ _ _ _ _ _)
  case h_13 => exact Row.encodes_of_fn rfl (fn_empty _) (check_modes _ _ _ _ _ _) -- `vpack`
  case h_14 => exact Row.encodes_of_cond rfl (fn_low_cond 10 2 _ _) (check_unpack _ _ _) -- `vunpk`

/-- The lane forms take RM for f32 and SAT for the rest (R50). -/
theorem check_lane (g x sat : Bool) (t : BitVec 4) (rm : BitVec 3) :
    (g && x && rmOk (Rm.ofCode rm) (Ty.ofCode t == .f32) && satOk sat (Ty.ofCode t != .f32)) =
      ((x && (true && ((rm == 0 || t == 0xC) && (!sat || t != 0xC)))) && g) := by
  rw [bne, Ty.ofCode_beq]
  exact check_modes _ _ _ _ _ _

/-- `vabs` and `vneg` take SAT for i32 (R50), the other type of their row being f32. -/
theorem check_sat (g sat : Bool) (t : BitVec 4) :
    (g && TSet.has .vs (Ty.ofCode t) && satOk sat (Ty.ofCode t == .i32)) =
      ((TSet.has .vs (Ty.ofCode t) && (true && (!sat || t != 0xC))) && g) := by
  revert t
  cases g <;> cases sat <;> decide

/-- `vcmp` takes the conditions on NaN for f32 alone (log 64). -/
theorem check_vcmp (g x y : Bool) (t : BitVec 4) (cnd : BitVec 3) :
    (g && x && y && ((FCond.ofCode cnd != .un && FCond.ofCode cnd != .ord) || Ty.ofCode t == .f32)) =
      ((y && (x && true)) && (!(decide (6 ≤ cnd.toNat) && t != 0xC) && g)) := by
  have hcnd : (FCond.ofCode cnd != .un && FCond.ofCode cnd != .ord) = !decide (6 ≤ cnd.toNat) := by
    revert cnd
    decide
  have htype : (t == Ty.code .f32) = !(t != 0xC) := (Bool.not_not _).symm
  rw [hcnd, Ty.ofCode_beq, htype, Bool.not_and, Bool.and_true]
  ac_rfl

theorem encodes_lane (f : Fields) (r : Row) (h : rowsLane f.opc.toNat = some r) :
    r.encodes f (buildLane f) (wfLane (buildLane f)) := by
  obtain ⟨opc, la, gn, gp, rx, rsv, md, d, a, b, i, t, rm, sat, fn, imm⟩ := f
  unfold rowsLane at h
  split at h
  all_goals cases h
  all_goals
    rename_i hopc
    obtain rfl := opc_eq_of_toNat hopc
  case h_1 | h_2 | h_3 | h_4 | h_5 | h_24 | h_26 | h_27 => -- those that round
    exact Row.encodes_of_fn (by cases i <;> rfl) (fn_low 9 3 _) (check_lane _ _ _ _ _)
  case h_6 | h_7 | h_23 | h_25 => -- `vmin`, `vmax`, `vdot4`, `vmaxr`
    exact Row.encodes_of_fn (by cases i <;> rfl) (fn_low 9 3 _) (check_one _ _)
  case h_8 | h_9 => -- `vabs`, `vneg`
    exact Row.encodes_of_fn rfl (fn_low 9 3 _) (check_sat _ _ _)
  case h_14 => -- `vcmp`
    exact Row.encodes_of_cond (by cases i <;> rfl) (by rw [FCond.code_ofCode]; exact fn_mask_cond _ _) (check_vcmp _ _ _ _ _)
  all_goals exact Row.encodes_of_fn (by cases i <;> rfl) (fn_low 9 3 _) rfl

theorem encodes_laneData (f : Fields) (r : Row) (h : rowsLaneData f.opc.toNat = some r) :
    r.encodes f (buildLaneData f) (wfLaneData (buildLaneData f)) := by
  obtain ⟨opc, la, gn, gp, rx, rsv, md, d, a, b, i, t, rm, sat, fn, imm⟩ := f
  unfold rowsLaneData at h
  split at h
  all_goals cases h
  all_goals
    rename_i hopc
    obtain rfl := opc_eq_of_toNat hopc
  case h_3 => -- `vget`
    exact Row.encodes_of_fn (by cases i <;> rfl) (by rw [ofBool_bit]; exact fn_low 11 1 _) rfl
  case h_4 | h_11 | h_12 => -- `vput`, `kpopc`, `kfirst`
    exact Row.encodes_of_fn (by cases i <;> rfl) (fn_empty _) rfl
  case h_10 => exact Row.encodes_of_fn rfl (fn_low 8 4 _) (check_one _ _) -- `kop`
  all_goals exact Row.encodes_of_fn (by cases i <;> rfl) (fn_low 9 3 _) rfl

/-- The row of `kmov`, by MD (R45, R49). -/
def kmovRow (md : BitVec 2) : Option Row :=
  if md = 0 then some { d := .kd, a := .s, b := .no, imm := .no, t := .none, mW := true }
  else some { d := .s, a := .k, b := .no, imm := .no, t := .none, mW := true }

theorem buildLaneData_kmov (f : Fields) (hopc : f.opc = 0x14B) :
    buildLaneData f =
      if f.md.getLsbD 0 then .kmovFromMask ⟨f.gn, f.gp⟩ f.d (f.a.extractLsb' 0 3)
      else .kmovToMask ⟨f.gn, f.gp⟩ (f.d.extractLsb' 0 3) f.a := by
  rw [buildLaneData, hopc]
  rfl

theorem buildLaneData_kmov_to_mask {f : Fields} (hopc : f.opc = 0x14B) (hmd : f.md.getLsbD 0 = false) :
    buildLaneData f = .kmovToMask ⟨f.gn, f.gp⟩ (f.d.extractLsb' 0 3) f.a := by
  rw [buildLaneData_kmov f hopc, hmd, if_neg Bool.false_ne_true]

theorem buildLaneData_kmov_from_mask {f : Fields} (hopc : f.opc = 0x14B) (hmd : f.md.getLsbD 0 = true) :
    buildLaneData f = .kmovFromMask ⟨f.gn, f.gp⟩ f.d (f.a.extractLsb' 0 3) := by
  rw [buildLaneData_kmov f hopc, hmd, if_pos rfl]

/-- The direction of `kmov` is MD (R45): 0 to a mask, 1 from a mask, and the encoder writes no other. -/
theorem encodes_kmov (f : Fields) (r : Row) (hopc : f.opc = 0x14B) (h : kmovRow f.md = some r) :
    r.encodes f (buildLaneData f) (wfLaneData (buildLaneData f)) := by
  obtain ⟨opc, la, gn, gp, rx, rsv, md, d, a, b, i, t, rm, sat, fn, imm⟩ := f
  obtain rfl : opc = 0x14B := hopc
  dsimp only at h
  have hmd : md = 0 ∨ md = 1 ∨ md = 2 ∨ md = 3 := by
    clear h
    revert md
    decide
  obtain rfl | rfl | rfl | rfl := hmd
  · rw [buildLaneData_kmov_to_mask rfl (by dsimp only; rfl)]
    cases h
    exact Row.encodes_of_fn (by dsimp only [Row.canon]; rfl) (fn_empty _) (check_one _ _)
  · rw [buildLaneData_kmov_from_mask rfl (by dsimp only; rfl)]
    cases h
    exact Row.encodes_of_fn (by dsimp only [Row.canon]; rfl) (fn_empty _) rfl
  · rw [buildLaneData_kmov_to_mask rfl (by dsimp only; rfl)]
    refine iff_of_false (by simp [rsvOk]) fun ⟨_, henc⟩ => ?_
    have hmd : some (0 : BitVec 2) = some 2 := congrArg (Option.map Fields.md) henc
    cases hmd
  · rw [buildLaneData_kmov_from_mask rfl (by dsimp only; rfl)]
    refine iff_of_false (by simp [rsvOk]) fun ⟨_, henc⟩ => ?_
    have hmd : some (1 : BitVec 2) = some 3 := congrArg (Option.map Fields.md) henc
    cases hmd

theorem check_lanes (g x c : Bool) : (g && x && c) = ((x && true) && (c && g)) := by
  rw [Bool.and_true]
  ac_rfl

theorem check_cond (g c : Bool) : (g && c) = (true && (c && g)) := Bool.and_comm _ _

theorem fn_lane_count (fn : BitVec 12) :
    (fn &&& 0x00F == 0 && decide (1 ≤ (fn.extractLsb' 4 8).toNat) && decide ((fn.extractLsb' 4 8).toNat ≤ 64)) = true ↔
      fn.extractLsb' 4 8 ++ (0 : BitVec 4) = fn ∧ cntOk (fn.extractLsb' 4 8) = true := by
  rw [Bool.and_assoc]
  exact fn_count fn _

theorem fn_shift_lane_count (fn : BitVec 12) :
    (fn &&& 0x008 == 0 && decide (1 ≤ (fn.extractLsb' 4 8).toNat) && decide ((fn.extractLsb' 4 8).toNat ≤ 64)) = true ↔
      ((0 : BitVec 9) ++ fn.extractLsb' 0 3) ||| (fn.extractLsb' 4 8 ++ (0 : BitVec 4)) = fn ∧
        cntOk (fn.extractLsb' 4 8) = true := by
  rw [Bool.and_assoc, Bool.and_eq_true, fn_count_shift, BitVec.or_comm]
  rfl

/-- `tinv` of one granule (R201). -/
theorem fn_granule (fn : BitVec 12) (p c : Bool) (h : fn.getLsbD 5 = false) :
    (fn &&& 0xFC0 == 0 && (if fn.getLsbD 5 then p else c)) = true ↔ (0 : BitVec 7) ++ fn.extractLsb' 0 5 = fn ∧ c = true := by
  rw [h, if_neg Bool.false_ne_true, Bool.and_eq_true, beq_iff_eq, fn_eq_iff, fn_eq_iff]
  simp only [BitVec.getLsbD_append, BitVec.getLsbD_extractLsb', BitVec.getLsbD_and]
  simp [-BitVec.getLsbD_eq_getElem, @eq_comm _ false, h]

/-- `tinv` of the whole table: no granule and no address (R201). -/
theorem fn_whole (fn : BitVec 12) (p c : Bool) (h : fn.getLsbD 5 = true) :
    (fn &&& 0xFC0 == 0 && (if fn.getLsbD 5 then (fn.extractLsb' 0 5).toNat == 0 && p else c)) = true ↔
      0x020 = fn ∧ p = true := by
  have hlow : fn.extractLsb' 0 5 = 0 ↔ fn.getLsbD 0 = false ∧ fn.getLsbD 1 = false ∧ fn.getLsbD 2 = false ∧
      fn.getLsbD 3 = false ∧ fn.getLsbD 4 = false := by
    rw [extract_eq_zero_iff]
    refine ⟨fun h => ⟨h 0 (by decide), h 1 (by decide), h 2 (by decide), h 3 (by decide), h 4 (by decide)⟩, ?_⟩
    rintro ⟨hzero, hone, htwo, hthree, hfour⟩ i hi
    interval_cases i <;> assumption
  rw [h, if_pos rfl, toNat_beq_zero, Bool.and_eq_true, Bool.and_eq_true, beq_iff_eq, beq_iff_eq, hlow, fn_eq_iff, fn_eq_iff]
  simp only [BitVec.getLsbD_and]
  simp [-BitVec.getLsbD_eq_getElem, @eq_comm _ false, h]
  tauto

theorem buildMemory_tinv {f : Fields} (hopc : f.opc = 0x18F) (hwhole : f.fn.getLsbD 5 = false) :
    buildMemory f = .tinv ⟨f.gn, f.gp⟩ (f.fn.extractLsb' 0 5) f.a := by
  rw [buildMemory, hopc]
  exact if_neg (by rw [hwhole]; exact Bool.false_ne_true)

theorem buildMemory_tinvAll {f : Fields} (hopc : f.opc = 0x18F) (hwhole : f.fn.getLsbD 5 = true) :
    buildMemory f = .tinvAll ⟨f.gn, f.gp⟩ := by
  rw [buildMemory, hopc]
  exact if_pos hwhole

/-- `tinv` (R201): of the whole table when FN[5] is set, and then A is 0 too. -/
theorem encodes_tinv (f : Fields) (r : Row) (hopc : f.opc = 0x18F) (h : rowsMemory 0x18F = some r) :
    r.encodes f (buildMemory f) (wfMemory (buildMemory f)) := by
  cases h
  cases hwhole : f.fn.getLsbD 5 with
  | false =>
    rw [buildMemory_tinv hopc hwhole]
    obtain ⟨opc, la, gn, gp, rx, rsv, md, d, a, b, i, t, rm, sat, fn, imm⟩ := f
    obtain rfl : opc = BitVec.ofNat 10 0x18F := hopc
    exact Row.encodes_of_cond rfl (fn_granule _ _ _ hwhole) (check_cond _ _)
  | true =>
    rw [buildMemory_tinvAll hopc hwhole]
    obtain ⟨opc, la, gn, gp, rx, rsv, md, d, a, b, i, t, rm, sat, fn, imm⟩ := f
    obtain rfl : opc = BitVec.ofNat 10 0x18F := hopc
    by_cases ha : a = 0
    · subst ha
      exact Row.encodes_of_cond (c := (0 : BitVec 7) == 0) rfl (fn_whole _ _ _ hwhole) rfl
    · refine iff_of_false (fun hlegal => ?_) fun ⟨_, henc⟩ => ?_
      · obtain ⟨-, hfn, -⟩ := (Row.legal_eq _ _).1 hlegal
        exact ha (beq_iff_eq.1 ((fn_whole _ _ _ hwhole).1 hfn).2)
      · exact ha (Option.some.inj (congrArg (Option.map Fields.a) henc)).symm

theorem encodes_memory (f : Fields) (r : Row) (h : rowsMemory f.opc.toNat = some r) :
    r.encodes f (buildMemory f) (wfMemory (buildMemory f)) := by
  obtain ⟨opc, la, gn, gp, rx, rsv, md, d, a, b, i, t, rm, sat, fn, imm⟩ := f
  unfold rowsMemory at h
  split at h
  case h_16 hopc => exact encodes_tinv _ _ (opc_eq_of_toNat hopc) h
  all_goals cases h
  all_goals
    rename_i hopc
    obtain rfl := opc_eq_of_toNat hopc
  case h_1 | h_2 | h_9 | h_10 | h_11 | h_12 => -- a register and an address with an index
    exact Row.encodes_of_fn (fn := (if i then Idx.none else Idx.reg b (fn.extractLsb' 0 3)).shift) (by cases i <;> rfl)
      (fn_index _ _ _) (check_one _ _)
  case h_3 | h_4 => -- `vld`, `vst`
    exact Row.encodes_of_cond
      (fn := (fn.extractLsb' 4 8 ++ (0 : BitVec 4)) ||| (if i then Idx.none else Idx.reg b (fn.extractLsb' 0 3)).shift)
      (by cases i <;> rfl) (fn_count_index _ _ _) (check_lanes _ _ _)
  case h_5 | h_6 => -- `vlds`, `vsts`
    exact Row.encodes_of_cond rfl (fn_lane_count _) (check_lanes _ _ _)
  case h_7 | h_8 => -- `vldx`, `vstx`
    exact Row.encodes_of_cond rfl (fn_shift_lane_count _) (check_lanes _ _ _)
  case h_13 | h_17 => -- `fe`, `guard`
    exact Row.encodes_of_fn rfl (by rw [ofBool_bit]; exact fn_low 11 1 _) rfl
  case h_14 | h_15 => -- `tlook`, `tset`
    exact Row.encodes_of_cond rfl (fn_low_cond 7 5 _ _) (check_cond _ _)
  case h_19 => -- `fence`
    exact Row.encodes_of_fn rfl (fn_low_code 9 3 _ (Scope.code_ofCode_iff _)) rfl
  all_goals exact Row.encodes_of_fn rfl (fn_empty _) rfl -- `drain`, `xlat`

/-- `rupd` takes no exchange (R193). -/
theorem fn_update (fn : BitVec 12) :
    (fn &&& 0xFF0 == 0 && decide ((fn.extractLsb' 0 4).toNat < 8)) = true ↔
      (0 : BitVec 8) ++ (AmoOp.ofCode (fn.extractLsb' 0 4)).code = fn ∧ (AmoOp.ofCode (fn.extractLsb' 0 4) != .swap) = true := by
  rw [Bool.and_eq_true, AmoOp.code_ofCode_iff_of_ne_swap, ← and_assoc]
  exact and_congr_left' ((and_congr_left' (fn_low 8 4 fn)).trans (fn_low_eq 8 4 fn _).symm)

/-- `trecv` names a predicate other than q0 (R224). -/
theorem fn_predicate (fn : BitVec 12) :
    (fn &&& 0xFF8 == 0 && (fn.extractLsb' 0 3).toNat != 0) = true ↔
      (0 : BitVec 9) ++ fn.extractLsb' 0 3 = fn ∧ (fn.extractLsb' 0 3 != 0) = true := by
  rw [toNat_bne_zero]
  exact fn_low_cond 9 3 fn _

/-- A mark alone, its value known. -/
theorem fn_bit (fn : BitVec 12) {v : Bool} (h : fn.getLsbD 0 = v) :
    (fn &&& 0xFFE == 0) = true ↔ (0 : BitVec 11) ++ BitVec.ofBool v = fn := by
  rw [← h, ofBool_bit]
  exact fn_low 11 1 fn

/-- Reductions take RM for f32 and f64 (R50). -/
theorem check_reduce (g x y : Bool) (t : BitVec 4) (rm : BitVec 3) :
    (g && x && y && rmOk (Rm.ofCode rm) (Ty.ofCode t == .f32 || Ty.ofCode t == .f64)) =
      ((y && (x && (rm == 0 || t == 0xC || t == 0xD))) && g) := by
  rw [rmOk_ofCode, Ty.ofCode_beq, Ty.ofCode_beq, ← Bool.or_assoc]
  ac_rfl

/-- A product takes no RM for i32 and a80 and no SAT for a80 (R50). -/
theorem check_close (g x sat : Bool) (t : BitVec 4) (rm : BitVec 3) :
    (g && x && rmOk (Rm.ofCode rm) (Ty.ofCode t != .i32 && Ty.ofCode t != .a80) && satOk sat (Ty.ofCode t != .a80)) =
      ((x && (true && ((rm == 0 || t != 4 && t != 0xE) && (!sat || t != 0xE)))) && g) := by
  rw [bne, bne, Ty.ofCode_beq, Ty.ofCode_beq]
  exact check_modes _ _ _ _ _ _

theorem check_join (g x y scl : Bool) (t : BitVec 4) :
    (g && x && y && (!scl || Ty.ofCode t == .e4m3 || Ty.ofCode t == .e5m2)) =
      ((y && (x && true)) && ((!scl || t == 8 || t == 9) && g)) := by
  rw [Ty.ofCode_beq, Ty.ofCode_beq, Bool.and_true]
  ac_rfl

theorem check_open (g x y scl bop : Bool) (t : BitVec 4) :
    (g && x && y && (!scl || Ty.ofCode t == .e4m3 || Ty.ofCode t == .e5m2) && (!bop || Ty.ofCode t == .b1)) =
      ((y && (x && true)) && (((!scl || t == 8 || t == 9) && (!bop || t == 0xF)) && g)) := by
  rw [check_join, Ty.ofCode_beq]
  ac_rfl

theorem encodes_atomic (f : Fields) (r : Row) (h : rowsAtomic f.opc.toNat = some r) :
    r.encodes f (buildAtomic f) (wfAtomic (buildAtomic f)) := by
  obtain ⟨opc, la, gn, gp, rx, rsv, md, d, a, b, i, t, rm, sat, fn, imm⟩ := f
  unfold rowsAtomic at h
  split at h
  all_goals cases h
  all_goals
    rename_i hopc
    obtain rfl := opc_eq_of_toNat hopc
  case h_1 => exact Row.encodes_of_fn rfl (fn_low_code 8 4 _ (AmoOp.code_ofCode_iff _)) (check_one _ _) -- `amo`
  case h_2 => exact Row.encodes_of_fn rfl (fn_empty _) (check_one _ _) -- `cas`
  case h_3 | h_5 => -- `famo`, `frupd`
    exact Row.encodes_of_fn rfl (fn_low_code 10 2 _ (FOp.code_ofCode_iff _)) (check_one _ _)
  case h_4 => exact Row.encodes_of_cond rfl (fn_update _) (check_lanes _ _ _) -- `rupd`

theorem encodes_sync (f : Fields) (r : Row) (h : rowsSync f.opc.toNat = some r) :
    r.encodes f (buildSync f) (wfSync (buildSync f)) := by
  obtain ⟨opc, la, gn, gp, rx, rsv, md, d, a, b, i, t, rm, sat, fn, imm⟩ := f
  unfold rowsSync at h
  split at h
  all_goals cases h
  all_goals
    rename_i hopc
    obtain rfl := opc_eq_of_toNat hopc
  case h_1 => exact Row.encodes_of_fn rfl (fn_low 10 2 _) rfl -- `mon`
  case h_3 | h_11 => exact Row.encodes_of_fn rfl (by rw [ofBool_bit]; exact fn_low 11 1 _) rfl -- `waitm`, `mqst`
  case h_4 | h_5 | h_6 | h_7 => exact Row.encodes_of_fn rfl (fn_low 8 4 _) rfl -- the barriers
  case h_10 => exact Row.encodes_of_cond rfl (fn_predicate _) (check_cond _ _) -- `trecv`
  all_goals exact Row.encodes_of_fn (by cases i <;> rfl) (fn_empty _) rfl

theorem encodes_engine (f : Fields) (r : Row) (h : rowsEngine f.opc.toNat = some r) :
    r.encodes f (buildEngine f) (wfEngine (buildEngine f)) := by
  obtain ⟨opc, la, gn, gp, rx, rsv, md, d, a, b, i, t, rm, sat, fn, imm⟩ := f
  unfold rowsEngine at h
  split at h
  all_goals cases h
  all_goals
    rename_i hopc
    obtain rfl := opc_eq_of_toNat hopc
  case h_5 => exact Row.encodes_of_fn rfl (fn_low 10 2 _) (check_one _ _) -- `hval`
  case h_6 => exact Row.encodes_of_fn rfl (fn_empty _) (check_two _ _ _) -- `htest`
  all_goals exact Row.encodes_of_fn rfl (fn_empty _) (check_one _ _)

theorem encodes_prompter (f : Fields) (r : Row) (h : rowsPrompter f.opc.toNat = some r) :
    r.encodes f (buildPrompter f) (wfPrompter (buildPrompter f)) := by
  obtain ⟨opc, la, gn, gp, rx, rsv, md, d, a, b, i, t, rm, sat, fn, imm⟩ := f
  unfold rowsPrompter at h
  split at h
  all_goals cases h
  all_goals
    rename_i hopc
    obtain rfl := opc_eq_of_toNat hopc
  case h_2 => exact Row.encodes_of_fn rfl (fn_empty _) (check_one _ _) -- `pplan`
  case h_3 => exact Row.encodes_of_cond rfl (fn_fetch _) (check_lanes _ _ _) -- `pfetch`
  all_goals exact Row.encodes_of_fn rfl (fn_empty _) rfl

theorem encodes_dd (f : Fields) (r : Row) (h : rowsDd f.opc.toNat = some r) :
    r.encodes f (buildDd f) (wfDd (buildDd f)) := by
  obtain ⟨opc, la, gn, gp, rx, rsv, md, d, a, b, i, t, rm, sat, fn, imm⟩ := f
  unfold rowsDd at h
  split at h
  all_goals cases h
  all_goals
    rename_i hopc
    obtain rfl := opc_eq_of_toNat hopc
  case h_5 => exact Row.encodes_of_fn rfl (fn_low 8 4 _) (check_one _ _) -- `ddapply`
  case h_6 => exact Row.encodes_of_fn rfl (fn_empty _) (check_two _ _ _) -- `ddite`
  case h_4 | h_7 | h_8 | h_9 | h_10 | h_13 | h_14 => -- the other commands, and `ddnode`
    exact Row.encodes_of_fn rfl (fn_empty _) (check_one _ _)
  all_goals exact Row.encodes_of_fn rfl (fn_empty _) rfl

theorem encodes_reduce (f : Fields) (r : Row) (h : rowsReduce f.opc.toNat = some r) :
    r.encodes f (buildReduce f) (wfReduce (buildReduce f)) := by
  obtain ⟨opc, la, gn, gp, rx, rsv, md, d, a, b, i, t, rm, sat, fn, imm⟩ := f
  unfold rowsReduce at h
  split at h
  all_goals cases h
  all_goals
    rename_i hopc
    obtain rfl := opc_eq_of_toNat hopc
  case h_1 => exact Row.encodes_of_fn rfl (fn_empty _) rfl -- `redcfg`
  case h_2 | h_3 => exact Row.encodes_of_fn rfl (fn_reduce _) (check_reduce _ _ _ _ _) -- `redv`, `reds`
  case h_4 => exact Row.encodes_of_fn rfl (fn_low 9 3 _) (check_one _ _) -- `bcastv`

theorem encodes_system (f : Fields) (r : Row) (h : rowsSystem f.opc.toNat = some r) :
    r.encodes f (buildSystem f) (wfSystem (buildSystem f)) := by
  obtain ⟨opc, la, gn, gp, rx, rsv, md, d, a, b, i, t, rm, sat, fn, imm⟩ := f
  unfold rowsSystem at h
  split at h
  all_goals cases h
  all_goals
    rename_i hopc
    obtain rfl := opc_eq_of_toNat hopc
  case h_5 => exact Row.encodes_of_fn rfl (fn_low 10 2 _) rfl -- `tqpop`
  case h_6 => exact Row.encodes_of_fn rfl (fn_record _) rfl -- `sfqpop`
  case h_10 | h_11 => exact Row.encodes_of_fn rfl (fn_empty _) (check_one _ _) -- `vacate`, `resume`
  all_goals exact Row.encodes_of_fn rfl (fn_empty _) rfl

theorem buildCast_offer {f : Fields} (hopc : f.opc = 0x342) (hbit : f.fn.getLsbD 0 = false) :
    buildCast f = .cbindOffer ⟨f.gn, f.gp⟩ f.a f.b := by
  rw [buildCast, hopc]
  exact if_neg (by rw [hbit]; exact Bool.false_ne_true)

theorem buildCast_withdraw {f : Fields} (hopc : f.opc = 0x342) (hbit : f.fn.getLsbD 0 = true) :
    buildCast f = .cbindWithdraw ⟨f.gn, f.gp⟩ f.a f.b := by
  rw [buildCast, hopc]
  exact if_pos hbit

/-- `cbind` offers when FN[0] is clear and withdraws when it is set (R344). -/
theorem encodes_cbind (f : Fields) (r : Row) (hopc : f.opc = 0x342) (h : rowsCast 0x342 = some r) :
    r.encodes f (buildCast f) (wfCast (buildCast f)) := by
  cases h
  cases hbit : f.fn.getLsbD 0 with
  | false =>
    rw [buildCast_offer hopc hbit]
    obtain ⟨opc, la, gn, gp, rx, rsv, md, d, a, b, i, t, rm, sat, fn, imm⟩ := f
    obtain rfl : opc = BitVec.ofNat 10 0x342 := hopc
    exact Row.encodes_of_fn rfl (fn_bit fn hbit) rfl
  | true =>
    rw [buildCast_withdraw hopc hbit]
    obtain ⟨opc, la, gn, gp, rx, rsv, md, d, a, b, i, t, rm, sat, fn, imm⟩ := f
    obtain rfl : opc = BitVec.ofNat 10 0x342 := hopc
    exact Row.encodes_of_fn rfl (fn_bit fn hbit) rfl

theorem encodes_cast (f : Fields) (r : Row) (h : rowsCast f.opc.toNat = some r) :
    r.encodes f (buildCast f) (wfCast (buildCast f)) := by
  obtain ⟨opc, la, gn, gp, rx, rsv, md, d, a, b, i, t, rm, sat, fn, imm⟩ := f
  unfold rowsCast at h
  split at h
  case h_3 hopc => exact encodes_cbind _ _ (opc_eq_of_toNat hopc) h
  all_goals cases h
  all_goals
    rename_i hopc
    obtain rfl := opc_eq_of_toNat hopc
  case h_8 | h_9 => exact Row.encodes_of_fn rfl (fn_empty _) (check_one _ _) -- `sthand`, `sttake`
  all_goals exact Row.encodes_of_fn rfl (fn_empty _) rfl

theorem buildSpan_sclose {f : Fields} (hopc : f.opc = 0x284) (hbit : f.fn.getLsbD 4 = false) :
    buildSpan f = .sclose ⟨f.gn, f.gp⟩ (Ty.ofCode f.t) (Rm.ofCode f.rm) f.sat (Dir.ofCode (f.fn.extractLsb' 0 2)) f.a f.b
      f.imm := by
  rw [buildSpan, hopc]
  exact if_neg (by rw [hbit]; exact Bool.false_ne_true)

theorem buildSpan_scloseRdl {f : Fields} (hopc : f.opc = 0x284) (hbit : f.fn.getLsbD 4 = true) :
    buildSpan f = .scloseRdl ⟨f.gn, f.gp⟩ (Ty.ofCode f.t) (Rm.ofCode f.rm) f.sat (Dir.ofCode (f.fn.extractLsb' 0 2))
      (f.fn.extractLsb' 2 2) f.a f.b f.imm := by
  rw [buildSpan, hopc]
  exact if_pos hbit

/-- FN[4] of `sclose` is `rdl`, which redelivers a held slot (R266). -/
theorem encodes_sclose (f : Fields) (r : Row) (hopc : f.opc = 0x284) (h : rowsSpan 0x284 = some r) :
    r.encodes f (buildSpan f) (wfSpan (buildSpan f)) := by
  cases h
  cases hbit : f.fn.getLsbD 4 with
  | false =>
    rw [buildSpan_sclose hopc hbit]
    obtain ⟨opc, la, gn, gp, rx, rsv, md, d, a, b, i, t, rm, sat, fn, imm⟩ := f
    obtain rfl : opc = BitVec.ofNat 10 0x284 := hopc
    exact Row.encodes_of_fn rfl (by rw [Dir.code_ofCode]; exact fn_close fn hbit) (check_close _ _ _ _ _)
  | true =>
    rw [buildSpan_scloseRdl hopc hbit]
    obtain ⟨opc, la, gn, gp, rx, rsv, md, d, a, b, i, t, rm, sat, fn, imm⟩ := f
    obtain rfl : opc = BitVec.ofNat 10 0x284 := hopc
    exact Row.encodes_of_fn rfl (by rw [Dir.code_ofCode]; exact fn_close_rdl fn hbit) (check_close _ _ _ _ _)

theorem encodes_span (f : Fields) (r : Row) (h : rowsSpan f.opc.toNat = some r) :
    r.encodes f (buildSpan f) (wfSpan (buildSpan f)) := by
  obtain ⟨opc, la, gn, gp, rx, rsv, md, d, a, b, i, t, rm, sat, fn, imm⟩ := f
  unfold rowsSpan at h
  split at h
  case h_5 hopc => exact encodes_sclose _ _ (opc_eq_of_toNat hopc) h
  all_goals cases h
  all_goals
    rename_i hopc
    obtain rfl := opc_eq_of_toNat hopc
  case h_1 => -- `sopen`
    exact Row.encodes_of_cond rfl (by rw [Dir.code_ofCode]; exact fn_open _ _ _) (check_open _ _ _ _ _ _)
  case h_2 => -- `sjoin`
    exact Row.encodes_of_cond rfl (by rw [Dir.code_ofCode]; exact fn_join _ _) (check_join _ _ _ _ _)
  case h_3 | h_4 => exact Row.encodes_of_fn rfl (by rw [Dir.code_ofCode]; exact fn_low 10 2 _) rfl -- `sfeed`, `sscale`
  case h_6 => exact Row.encodes_of_fn rfl (by rw [Dir.code_ofCode]; exact fn_dir_slot _) rfl -- `sabort`
  all_goals exact Row.encodes_of_fn rfl (fn_empty _) rfl

/-! ### What the encoder writes is read back -/

@[simp] theorem vOf_vCode : ∀ r : VReg, vOf (vCode r) = r := by decide

@[simp] theorem Src.ofFields (b : Src) : (if b.isImm = true then .imm b.immField else .reg b.code) = b := by
  cases b <;> rfl

@[simp] theorem VSrc.ofFields (b : VSrc) : (if b.isImm = true then .imm b.immField else .reg (vOf b.code)) = b := by
  cases b with
  | reg r => exact congrArg VSrc.reg (vOf_vCode r)
  | imm v => rfl

@[simp] theorem Idx.ofFields (x : Idx) :
    (if x.isNone = true then .none else .reg x.code (x.shift.extractLsb' 0 3)) = x := by
  cases x with
  | none => rfl
  | reg r sh => exact congrArg (Idx.reg r) ((extract_low _ _ _ _ (by decide)).trans (extract_all sh))

@[simp] theorem Idx.extract_count_shift (x : Idx) : x.shift.extractLsb' 4 8 = 0 := by
  cases x with
  | none => rfl
  | reg r sh => exact (extract_high (0 : BitVec 9) sh 4 8 (by decide)).trans (by decide)

@[simp] theorem ofBool_getLsbD_zero (v : Bool) : (BitVec.ofBool v).getLsbD 0 = v := by cases v <;> rfl

@[simp] theorem md_of_width (w : Bool) : (0#1 ++ BitVec.ofBool w : BitVec 2).getLsbD 0 = w := by cases w <;> rfl

/-! ### The sixteen classes together -/

/-- The rows of a class, as `rowOf` chooses them. -/
def rowOfClass : Nat → Fields → Option Row
  | 0, f => rowsScalar f.opc.toNat
  | 1, f => rowsControl f.opc.toNat
  | 2, f => rowsThread f.opc.toNat
  | 3, f => rowsNumber f.opc.toNat
  | 4, f => rowsLane f.opc.toNat
  | 5, f => if f.opc.toNat = 0x14B then kmovRow f.md else rowsLaneData f.opc.toNat
  | 6, f => rowsMemory f.opc.toNat
  | 7, f => rowsAtomic f.opc.toNat
  | 8, f => rowsSync f.opc.toNat
  | 9, f => rowsEngine f.opc.toNat
  | 10, f => rowsSpan f.opc.toNat
  | 11, f => rowsPrompter f.opc.toNat
  | 12, f => rowsDd f.opc.toNat
  | 13, f => rowsCast f.opc.toNat
  | 14, f => rowsReduce f.opc.toNat
  | _, f => rowsSystem f.opc.toNat

/-- The decoder of a class, as `build` chooses it. -/
def buildOfClass : Nat → Fields → Instr
  | 0 => buildScalar
  | 1 => buildControl
  | 2 => buildThread
  | 3 => buildNumber
  | 4 => buildLane
  | 5 => buildLaneData
  | 6 => buildMemory
  | 7 => buildAtomic
  | 8 => buildSync
  | 9 => buildEngine
  | 10 => buildSpan
  | 11 => buildPrompter
  | 12 => buildDd
  | 13 => buildCast
  | 14 => buildReduce
  | _ => buildSystem

/-- The checks of a class. -/
def wfOfClass : Nat → Instr → Bool
  | 0 => wfScalar
  | 1 => wfControl
  | 2 => wfThread
  | 3 => wfNumber
  | 4 => wfLane
  | 5 => wfLaneData
  | 6 => wfMemory
  | 7 => wfAtomic
  | 8 => wfSync
  | 9 => wfEngine
  | 10 => wfSpan
  | 11 => wfPrompter
  | 12 => wfDd
  | 13 => wfCast
  | 14 => wfReduce
  | _ => wfSystem

theorem rowOf_eq_class (f : Fields) : rowOf f = rowOfClass (f.opc.toNat / 64) f := by
  unfold rowOf
  generalize f.opc.toNat / 64 = c
  match c with
  | 0 | 1 | 2 | 3 | 4 | 5 | 6 | 7 | 8 | 9 | 10 | 11 | 12 | 13 | 14 | _ + 15 => rfl

theorem build_eq_class (f : Fields) : build f = buildOfClass (f.opc.toNat / 64) f := by
  unfold build
  generalize f.opc.toNat / 64 = c
  match c with
  | 0 | 1 | 2 | 3 | 4 | 5 | 6 | 7 | 8 | 9 | 10 | 11 | 12 | 13 | 14 | _ + 15 => rfl

theorem wellFormed_of_class (c : Nat) {i : Instr} (h : wfOfClass c i = true) : i.wellFormed = true := by
  unfold wfOfClass at h
  split at h
  all_goals simp only [Instr.wellFormed, h, Bool.true_or, Bool.or_true]

/-- A well-formed instruction passes the checks of a class. -/
theorem exists_class_of_wellFormed {i : Instr} (h : i.wellFormed = true) : ∃ c ≤ 15, wfOfClass c i = true := by
  simp only [Instr.wellFormed, Bool.or_eq_true] at h
  obtain (((((((((((((((h | h) | h) | h) | h) | h) | h) | h) | h) | h) | h) | h) | h) | h) | h) | h) := h
  · exact ⟨0, by decide, h⟩
  · exact ⟨1, by decide, h⟩
  · exact ⟨2, by decide, h⟩
  · exact ⟨3, by decide, h⟩
  · exact ⟨4, by decide, h⟩
  · exact ⟨5, by decide, h⟩
  · exact ⟨6, by decide, h⟩
  · exact ⟨7, by decide, h⟩
  · exact ⟨8, by decide, h⟩
  · exact ⟨9, by decide, h⟩
  · exact ⟨10, by decide, h⟩
  · exact ⟨11, by decide, h⟩
  · exact ⟨12, by decide, h⟩
  · exact ⟨13, by decide, h⟩
  · exact ⟨14, by decide, h⟩
  · exact ⟨15, by decide, h⟩

/-- A word under a row of a class is legal exactly when its instruction passes the class's checks and encodes to it. -/
theorem encodes_class (c : Nat) (f : Fields) (r : Row) (h : rowOfClass c f = some r) :
    r.encodes f (buildOfClass c f) (wfOfClass c (buildOfClass c f)) := by
  unfold rowOfClass at h
  split at h
  case h_1 => exact encodes_scalar f r h
  case h_2 => exact encodes_control f r h
  case h_3 => exact encodes_thread f r h
  case h_4 => exact encodes_number f r h
  case h_5 => exact encodes_lane f r h
  case h_6 =>
    split at h
    · exact encodes_kmov f r (opc_eq_of_toNat ‹_›) h
    · exact encodes_laneData f r h
  case h_7 => exact encodes_memory f r h
  case h_8 => exact encodes_atomic f r h
  case h_9 => exact encodes_sync f r h
  case h_10 => exact encodes_engine f r h
  case h_11 => exact encodes_span f r h
  case h_12 => exact encodes_prompter f r h
  case h_13 => exact encodes_dd f r h
  case h_14 => exact encodes_cast f r h
  case h_15 => exact encodes_reduce f r h
  case h_16 =>
    simp only [buildOfClass, wfOfClass]
    exact encodes_system f r h

/-- The encoder has fields for `i`, of a row of class `c`, and the decoder makes `i` of them. -/
def Instr.HasFields (i : Instr) (c : Nat) : Prop :=
  ∃ f r, encodeFields i = some f ∧ f.opc.toNat / 64 = c ∧ rowOfClass c f = some r ∧ buildOfClass c f = i

theorem hasFields_scalar {i : Instr} (h : wfScalar i = true) : i.HasFields 0 := by
  unfold wfScalar at h
  split at h
  case h_35 => cases h
  all_goals
    refine ⟨_, _, rfl, by simp, rfl, ?_⟩
    simp (disch := decide) [buildOfClass, buildScalar, extract_low, extract_high, bit_low, -Nat.reduceAdd,
      -BitVec.getLsbD_eq_getElem]

theorem hasFields_control {i : Instr} (h : wfControl i = true) : i.HasFields 1 := by
  unfold wfControl at h
  split at h
  case h_12 => cases h
  all_goals
    refine ⟨_, _, rfl, by simp, rfl, ?_⟩
    simp (disch := decide) [buildOfClass, buildControl, extract_low, extract_high, bit_low, -Nat.reduceAdd,
      -BitVec.getLsbD_eq_getElem]

theorem hasFields_thread {i : Instr} (h : wfThread i = true) : i.HasFields 2 := by
  unfold wfThread at h
  split at h
  case h_10 => cases h
  all_goals
    refine ⟨_, _, rfl, by simp, rfl, ?_⟩
    simp (disch := decide) [buildOfClass, buildThread, extract_low, -Nat.reduceAdd, -BitVec.getLsbD_eq_getElem]

theorem hasFields_number {i : Instr} (h : wfNumber i = true) : i.HasFields 3 := by
  unfold wfNumber at h
  split at h
  case h_15 => cases h
  all_goals
    refine ⟨_, _, rfl, by simp, rfl, ?_⟩
    simp (disch := decide) [buildOfClass, buildNumber, extract_low, -Nat.reduceAdd, -BitVec.getLsbD_eq_getElem]

theorem hasFields_lane {i : Instr} (h : wfLane i = true) : i.HasFields 4 := by
  unfold wfLane at h
  split at h
  case h_28 => cases h
  all_goals
    refine ⟨_, _, rfl, by simp, rfl, ?_⟩
    simp (disch := decide) [buildOfClass, buildLane, extract_low, extract_high, -Nat.reduceAdd,
      -BitVec.getLsbD_eq_getElem]

theorem hasFields_laneData {i : Instr} (h : wfLaneData i = true) : i.HasFields 5 := by
  unfold wfLaneData at h
  split at h
  case h_15 => cases h
  all_goals
    refine ⟨_, _, rfl, by simp, rfl, ?_⟩
    simp (disch := decide) [buildOfClass, buildLaneData, extract_low, bit_low, -Nat.reduceAdd,
      -BitVec.getLsbD_eq_getElem]

theorem hasFields_memory {i : Instr} (h : wfMemory i = true) : i.HasFields 6 := by
  unfold wfMemory at h
  split at h
  case h_22 => cases h
  all_goals
    refine ⟨_, _, rfl, by simp, rfl, ?_⟩
    simp (disch := decide) [buildOfClass, buildMemory, extract_low, extract_high, bit_low, bit_high,
      BitVec.extractLsb'_or, -Nat.reduceAdd, -BitVec.getLsbD_eq_getElem]

theorem hasFields_atomic {i : Instr} (h : wfAtomic i = true) : i.HasFields 7 := by
  unfold wfAtomic at h
  split at h
  case h_6 => cases h
  all_goals
    refine ⟨_, _, rfl, by simp, rfl, ?_⟩
    simp (disch := decide) [buildOfClass, buildAtomic, extract_low, -Nat.reduceAdd, -BitVec.getLsbD_eq_getElem]

theorem hasFields_sync {i : Instr} (h : wfSync i = true) : i.HasFields 8 := by
  unfold wfSync at h
  split at h
  case h_12 => cases h
  all_goals
    refine ⟨_, _, rfl, by simp, rfl, ?_⟩
    simp (disch := decide) [buildOfClass, buildSync, extract_low, bit_low, -Nat.reduceAdd, -BitVec.getLsbD_eq_getElem]

theorem hasFields_engine {i : Instr} (h : wfEngine i = true) : i.HasFields 9 := by
  unfold wfEngine at h
  split at h
  case h_10 => cases h
  all_goals
    refine ⟨_, _, rfl, by simp, rfl, ?_⟩
    simp (disch := decide) [buildOfClass, buildEngine, extract_low, -Nat.reduceAdd, -BitVec.getLsbD_eq_getElem]

/-- FN of `sclose` with `rdl` is read back. -/
theorem rdl_fields (dir slot : BitVec 2) :
    (((0 : BitVec 10) ++ dir) ||| ((0 : BitVec 8) ++ slot ++ (0 : BitVec 2)) ||| 0x010 : BitVec 12).getLsbD 4 = true ∧
    (((0 : BitVec 10) ++ dir) ||| ((0 : BitVec 8) ++ slot ++ (0 : BitVec 2)) ||| 0x010 : BitVec 12).extractLsb' 0 2 = dir ∧
    (((0 : BitVec 10) ++ dir) ||| ((0 : BitVec 8) ++ slot ++ (0 : BitVec 2)) ||| 0x010 : BitVec 12).extractLsb' 2 2 = slot := by
  revert dir slot
  decide

theorem hasFields_span {i : Instr} (h : wfSpan i = true) : i.HasFields 10 := by
  unfold wfSpan at h
  split at h
  case h_10 => cases h
  case h_6 =>
    rename_i g t rm sat dir slot a b imm
    obtain ⟨hrdl, hdir, hslot⟩ := rdl_fields dir.code slot
    refine ⟨_, _, rfl, by simp, rfl, ?_⟩
    simp only [buildOfClass]
    refine Eq.trans (buildSpan_scloseRdl (by rfl) (by exact hrdl)) ?_
    simp only [hdir, hslot, Dir.ofCode_code, Ty.ofCode_code, Rm.ofCode_code]
  all_goals
    refine ⟨_, _, rfl, by simp, rfl, ?_⟩
    simp (disch := decide) [buildOfClass, buildSpan, extract_low, extract_high, bit_low, bit_high,
      BitVec.extractLsb'_or, BitVec.getLsbD_or, -Nat.reduceAdd, -BitVec.getLsbD_eq_getElem]

theorem hasFields_prompter {i : Instr} (h : wfPrompter i = true) : i.HasFields 11 := by
  unfold wfPrompter at h
  split at h
  case h_5 => cases h
  all_goals
    refine ⟨_, _, rfl, by simp, rfl, ?_⟩
    simp (disch := decide) [buildOfClass, buildPrompter, extract_low, extract_high, bit_low, -Nat.reduceAdd,
      -BitVec.getLsbD_eq_getElem]

theorem hasFields_dd {i : Instr} (h : wfDd i = true) : i.HasFields 12 := by
  unfold wfDd at h
  split at h
  case h_16 => cases h
  all_goals
    refine ⟨_, _, rfl, by simp, rfl, ?_⟩
    simp (disch := decide) [buildOfClass, buildDd, extract_low, -Nat.reduceAdd, -BitVec.getLsbD_eq_getElem]

theorem hasFields_cast {i : Instr} (h : wfCast i = true) : i.HasFields 13 := by
  unfold wfCast at h
  split at h
  case h_11 => cases h
  all_goals
    refine ⟨_, _, rfl, by simp, rfl, ?_⟩
    simp (disch := decide) [buildOfClass, buildCast, extract_low, -Nat.reduceAdd, -BitVec.getLsbD_eq_getElem]

theorem hasFields_reduce {i : Instr} (h : wfReduce i = true) : i.HasFields 14 := by
  unfold wfReduce at h
  split at h
  case h_5 => cases h
  all_goals
    refine ⟨_, _, rfl, by simp, rfl, ?_⟩
    simp (disch := decide) [buildOfClass, buildReduce, extract_low, extract_high, -Nat.reduceAdd,
      -BitVec.getLsbD_eq_getElem]

theorem hasFields_system {i : Instr} (h : wfSystem i = true) : i.HasFields 15 := by
  unfold wfSystem at h
  split at h
  case h_15 => cases h
  all_goals
    refine ⟨_, _, rfl, by simp, rfl, ?_⟩
    simp (disch := decide) [buildOfClass, buildSystem, extract_low, bit_low, bit_high, -Nat.reduceAdd,
      -BitVec.getLsbD_eq_getElem]

/-- A well-formed instruction has fields in a class whose checks it passes. -/
theorem hasFields_of_class {c : Nat} {i : Instr} (hc : c ≤ 15) (h : wfOfClass c i = true) : i.HasFields c := by
  match c with
  | 0 => exact hasFields_scalar h
  | 1 => exact hasFields_control h
  | 2 => exact hasFields_thread h
  | 3 => exact hasFields_number h
  | 4 => exact hasFields_lane h
  | 5 => exact hasFields_laneData h
  | 6 => exact hasFields_memory h
  | 7 => exact hasFields_atomic h
  | 8 => exact hasFields_sync h
  | 9 => exact hasFields_engine h
  | 10 => exact hasFields_span h
  | 11 => exact hasFields_prompter h
  | 12 => exact hasFields_dd h
  | 13 => exact hasFields_cast h
  | 14 => exact hasFields_reduce h
  | 15 => exact hasFields_system h

/-! ### Decoding and encoding -/

theorem decodeFields_eq_ok_iff {f : Fields} {i : Instr} :
    decodeFields f = .ok i ↔ ∃ r, rowOf f = some r ∧ (rsvOk r f && opndOk r f) = true ∧ build f = i := by
  unfold decodeFields
  cases rowOf f with
  | none => simp
  | some r => cases hrsv : rsvOk r f <;> cases hopnd : opndOk r f <;> simp [hrsv, hopnd]

/-- Settles O4: an instruction of a class has fields there (`hasFields_of_class`), and by `encodes_class` they make a legal word,
since it passes the checks of the class and encodes to them. -/
theorem encodeDecodes : Obligations.EncodeDecodes := by
  unfold Obligations.EncodeDecodes
  intro i hwf
  obtain ⟨c, hc, hclass⟩ := exists_class_of_wellFormed hwf
  obtain ⟨f, r, henc, rfl, hrow, hbuild⟩ := hasFields_of_class hc hclass
  have hlegal := encodes_class _ f r hrow
  rw [hbuild] at hlegal
  refine ⟨f.toWord, by rw [encode, henc, Option.map_some], ?_⟩
  rw [decode, Fields.ofWord_toWord, decodeFields_eq_ok_iff]
  exact ⟨r, (rowOf_eq_class f).trans hrow, hlegal.2 ⟨hclass, henc⟩, (build_eq_class f).trans hbuild⟩

/-- Settles O5: by `encodes_class` the fields of a word that decodes are those of its instruction, which passes the checks of its
class. -/
theorem decodeIsInjective : Obligations.DecodeIsInjective := by
  unfold Obligations.DecodeIsInjective
  intro w i hdec
  obtain ⟨r, hrow, hlegal, hbuild⟩ := decodeFields_eq_ok_iff.1 hdec
  rw [rowOf_eq_class] at hrow
  rw [build_eq_class] at hbuild
  obtain ⟨hclass, henc⟩ := (encodes_class _ _ r hrow).1 hlegal
  rw [hbuild] at hclass henc
  exact ⟨wellFormed_of_class _ hclass, by rw [encode, henc, Option.map_some, Fields.toWord_ofWord]⟩

end Sys2Proof

/-!
PROOFS. A launch in a state whose map of jobs lists one identifier twice: obligation O59 fails there.

The stage manager places an entry of the queue (`State.queueOrder` goes through the whole list of jobs), and launches the job
that a lookup of its identifier gives, which is the first entry of the list. Where an identifier is listed twice these are two
jobs, and nothing has compared the region of the one that is launched with the device. In a region of more than 40 columns two
logical cores get one physical core, whose scratch cannot hold the images of both. The machine's own updates (`Map.set`) keep the
keys of a map distinct; the statement is about every state, and would need that as a hypothesis.
-/

namespace Sys2Proof.Machine

/-- An image at address 0 of host memory: an empty code section, one byte of scratch for logical core 40, and a descriptor of
zeros at offset 0 (R75, R80). -/
def imageOfCore40 : Memory := [(24, 4), (116, 1), (164, 4), (166, 40), (176, 24), (184, 1), (212, 7)]

/-- Job 1 is listed twice, with a region of 44 by 4 cores and with one of 4 by 2. A window of the pool puts the addresses from
2^30 up to 2^31 in slice 0 (R392). -/
def twiceListed : State :=
  { jobs := [(1, { w := 44, h := 4 }), (1, {})], host := imageOfCore40
    dev := { win0 := [(0, 0x40800000)], win1 := [(0, 1)] } }

/-- The stage manager's choices for it: its one table in that window, and no further pages (log 3). -/
def planInWindow : LaunchPlan := { frames := 2 ^ 30, tables := 2 ^ 30, extra := [], svec := 0, start := 0 }

/-- The code section of the image. -/
def codeOfCore40 : Sec := { name := 0, type := 1, lcn := 0, addr := 0, off := 0, size := 0, align := 0, link := 0, ent := 0 }

/-- The section that holds its descriptor. -/
def descOfCore40 : Sec := { codeOfCore40 with type := 7 }

/-- The first entry is too wide for the device; the second fits at its south-west corner. -/
theorem twiceListed_firstFit : twiceListed.firstFit twiceListed.queueOrder = some (1, 0) := by decide +kernel

theorem twiceListed_planOk :
    let x := twiceListed.loadImage (twiceListed.fileAt 0) (readSecs (twiceListed.fileAt 0)) planInWindow
    twiceListed.planOk 1 planInWindow x.2.1 x.2.2 = true := by decide +kernel

/-- The byte of core 40 is in its scratch image alone. -/
theorem scratchImage_core40_ne_core88 :
    scratchImage (twiceListed.fileAt 0) (readSecs (twiceListed.fileAt 0)) 40 ≠
      scratchImage (twiceListed.fileAt 0) (readSecs (twiceListed.fileAt 0)) 88 := by decide +kernel

/-- The physical core on which a launch of job 1 at the south-west corner puts a logical core. -/
def launchedOn (n : Nat) : Nat :=
  let b := twiceListed.job 1
  pcOf (b.pclFor 0 (b.cluOf n)) (b.memOf n)

/-- Logical cores 40 and 88 are both member 0 of physical cluster 10: the first row of clusters runs into the second. -/
theorem launchedOn_core40_eq_core88 : launchedOn 40 = launchedOn 88 := by decide

/-- Refutes O59: in `twiceListed` the second entry of job 1 fits, and the launch is of the first. The statement gives the one
physical core of its logical cores 40 and 88 the scratch images of both, which differ. -/
theorem not_jobsFromOutside : ¬ Obligations.JobsFromOutside := by
  unfold Obligations.JobsFromOutside
  intro h
  obtain ⟨-, hlaunch, -⟩ := h
  obtain ⟨-, -, -, hplaced⟩ := hlaunch twiceListed 1 0 planInWindow descOfCore40 codeOfCore40
  obtain ⟨u, -, -, -, -, hcores⟩ := hplaced twiceListed_firstFit twiceListed_planOk (by decide) (by decide +kernel)
    (by decide +kernel) (by decide) (by decide) (by decide) (by decide)
  have himage (n : Nat) (hn : n < 44 * 4) : (u.pcore (launchedOn n)).mem =
      scratchImage (twiceListed.fileAt 0) (readSecs (twiceListed.fileAt 0)) n := by
    obtain ⟨-, -, -, -, -, -, -, -, -, -, -, -, -, -, -, -, hmaps⟩ := hcores n hn
    obtain ⟨hmem, -, -⟩ := hmaps (by decide +kernel)
    exact hmem
  have h40 := himage 40 (by decide)
  rw [launchedOn_core40_eq_core88, himage 88 (by decide)] at h40
  exact scratchImage_core40_ne_core88 h40.symm

end Sys2Proof.Machine

/-!
PROOFS. The scalar instructions (R96 to R107): the values that they give, and where their transfers go. Obligations O15 to O19
and O22.
-/

namespace Sys2Proof.Machine

/-! ### The shapes that the meanings share -/

section

variable {s : State} {g : Gd}

/-- An instruction whose guard holds answers the state of its meaning. -/
theorem State.exec_of_guardOn (hon : s.guardOn s.cur g = true) {i : Instr} {t u : State}
    (hi : exec i s = .next (if s.guardOn s.cur g then t else s.advance s.cur)) (ht : t = u) : exec i s = .next u := by
  rw [hi, if_pos hon, ht]

/-- One whose meaning is a scalar result gives that result and nothing else. -/
theorem State.yields_of_result (hon : s.guardOn s.cur g = true) {i : Instr} {lat : Nat} {d : SReg} {v r : Word}
    (hi : exec i s = .next (if s.guardOn s.cur g then s.result lat d v else s.advance s.cur)) (hv : v = r) :
    s.yields i lat [.s d r] 0 := State.exec_of_guardOn hon hi (congrArg (s.result lat d) hv)

/-- The same of one predicate. -/
theorem State.yields_of_resultQ (hon : s.guardOn s.cur g = true) {i : Instr} {d : QReg} {v r : Bool}
    (hi : exec i s = .next (if s.guardOn s.cur g then s.resultQ d v else s.advance s.cur)) (hv : v = r) :
    s.yields i 8 [.q d r] 0 := State.exec_of_guardOn hon hi (congrArg (s.resultQ d) hv)

variable {d a : SReg} {b : Src} {r : Word} {r' : BitVec 32}

/-- The two forms of a two-operand instruction, on 64 bits and on bits [31:0] (R45, R96). -/
theorem State.yields_alu (hon : s.guardOn s.cur g = true) {i : Bool → Instr} {lat : Nat} {f64 : Word → Word → Word}
    {f32 : BitVec 32 → BitVec 32 → BitVec 32} (hi : ∀ w, exec (i w) s = s.guarded g fun s => s.alu lat d a b (opW w f64 f32))
    (h64 : f64 (s.rd s.cur a) (s.src s.cur b) = r)
    (h32 : f32 ((s.rd s.cur a).extractLsb' 0 32) ((s.src s.cur b).extractLsb' 0 32) = r') :
    s.yields (i false) lat [.s d r] 0 ∧ s.yields (i true) lat [.s d (r'.signExtend 64)] 0 :=
  ⟨State.yields_of_result hon (hi false) h64, State.yields_of_result hon (hi true) (congrArg (BitVec.signExtend 64) h32)⟩

/-- The two forms of a division (R97): 44 cycles on 64 bits, 28 on bits [31:0]. -/
theorem State.yields_divide (hon : s.guardOn s.cur g = true) {i : Bool → Instr} {la : BitVec 4}
    {f64 : Word → Word → Word × FlagBits} {f32 : BitVec 32 → BitVec 32 → BitVec 32 × FlagBits} {f f' : FlagBits}
    (hi : ∀ w, exec (i w) s = s.guarded g fun s => s.divide w la d a b f64 f32)
    (h64 : f64 (s.rd s.cur a) (s.src s.cur b) = (r, f))
    (h32 : f32 ((s.rd s.cur a).extractLsb' 0 32) ((s.src s.cur b).extractLsb' 0 32) = (r', f')) :
    s.yieldsLa (i false) 44 la [.s d r] f ∧ s.yieldsLa (i true) 28 la [.s d (r'.signExtend 64)] f' := by
  have hwide : s.divide false la d a b f64 f32 = (s.landLa s.cur 44 la [.s d r] f).advance s.cur := by
    simp only [State.divide, h64]
    rfl
  have hnarrow : s.divide true la d a b f64 f32 = (s.landLa s.cur 28 la [.s d (r'.signExtend 64)] f').advance s.cur := by
    rw [← BitVec.setWidth_eq_extractLsb' (by decide), ← BitVec.setWidth_eq_extractLsb' (by decide)] at h32
    simp only [State.divide, BitVec.truncate, h32]
    rfl
  exact ⟨by rw [State.yieldsLa, hi, State.guarded_on s g _ hon, hwide],
    by rw [State.yieldsLa, hi, State.guarded_on s g _ hon, hnarrow]⟩

/-- The two forms of a count (R98), neither of them sign-extended. -/
theorem State.yields_count (hon : s.guardOn s.cur g = true) {i : Bool → Instr} {f : {n : Nat} → BitVec n → Nat}
    (hi : ∀ w, exec (i w) s = s.guarded g fun s =>
      s.result 8 d (opW1 w (fun x => w64 (f x)) (fun x => w64 (f x)) (s.rd s.cur a))) :
    s.yields (i false) 8 [.s d (BitVec.ofNat 64 (f (s.rd s.cur a)))] 0 ∧
      s.yields (i true) 8 [.s d (BitVec.ofNat 64 (f ((s.rd s.cur a).extractLsb' 0 32)))] 0 :=
  ⟨State.yields_of_result hon (hi false) rfl, State.yields_of_result hon (hi true) rfl⟩

end

/-! ### The operations of R96 as its pseudocode writes them -/

theorem emod_mul_self_ediv (z : Int) {m : Int} (hm : 0 < m) : z % (m * m) / m = z / m % m := by
  rw [Int.emod_def, Int.emod_def, mul_assoc, sub_eq_add_neg, ← mul_neg, Int.add_mul_ediv_left _ _ hm.ne',
    Int.ediv_ediv_of_nonneg hm.le, sub_eq_add_neg]

/-- The upper half of the low 2n bits of an integer. -/
theorem extractHigh_ofInt (n : Nat) (z : Int) : (BitVec.ofInt (n + n) z).extractLsb' n n = BitVec.ofInt n (z / 2 ^ n) := by
  apply BitVec.eq_of_toNat_eq
  have hpos : (0 : Int) < 2 ^ n := by positivity
  have hnonneg := Int.emod_nonneg z (mul_pos hpos hpos).ne'
  rw [BitVec.extractLsb'_toNat, BitVec.toNat_ofInt, BitVec.toNat_ofInt, Nat.shiftRight_eq_div_pow]
  zify
  rw [pow_add, Int.toNat_of_nonneg hnonneg, emod_mul_self_ediv _ hpos, Int.emod_emod,
    Int.toNat_of_nonneg (Int.emod_nonneg _ hpos.ne')]

theorem extractLow_toNat {n : Nat} (x : BitVec n) (k : Nat) : (x.extractLsb' 0 k).toNat = x.toNat % 2 ^ k := by
  rw [BitVec.extractLsb'_toNat, Nat.shiftRight_zero]

/-- A choice by `<` is one by `≤` where both sides give the same when the two are equal. -/
theorem ite_lt_eq_ite_le {α β : Type} [LinearOrder β] {u v : β} {x y : α} (h : u = v → x = y) :
    (if u < v then x else y) = if u ≤ v then x else y := by
  rcases lt_trichotomy u v with hlt | heq | hgt
  · rw [if_pos hlt, if_pos hlt.le]
  · rw [if_neg heq.not_lt, if_pos heq.le, h heq]
  · rw [if_neg hgt.not_gt, if_neg hgt.not_ge]

section

variable {n : Nat} (x y : BitVec n)

theorem mulHiS_eq : mulHiS x y = (x.signExtend (n + n) * y.signExtend (n + n)).extractLsb' n n := by
  rw [BitVec.signExtend, BitVec.signExtend, ← BitVec.ofInt_mul, extractHigh_ofInt, mulHiS]

theorem mulHiU_eq : mulHiU x y = (x.zeroExtend (n + n) * y.zeroExtend (n + n)).extractLsb' n n := by
  apply BitVec.eq_of_toNat_eq
  have hlt : x.toNat * y.toNat < 2 ^ (n + n) := by
    rw [pow_add]
    exact Nat.mul_lt_mul'' x.isLt y.isLt
  rw [BitVec.extractLsb'_toNat, BitVec.toNat_mul, BitVec.toNat_setWidth_of_le (Nat.le_add_left n n),
    BitVec.toNat_setWidth_of_le (Nat.le_add_left n n), Nat.mod_eq_of_lt hlt, Nat.shiftRight_eq_div_pow, mulHiU, BitVec.toNat_ofNat]

theorem rolOp_eq : rolOp x y = (x <<< (y.toNat % n)) ||| (x >>> (n - y.toNat % n)) := by
  rw [rolOp, BitVec.rotateLeft_def, Nat.mod_mod]

theorem minS_eq : minS x y = if x.toInt ≤ y.toInt then x else y := by
  simp only [minS, BitVec.slt_iff_toInt_lt]
  exact ite_lt_eq_ite_le BitVec.toInt_inj.1

theorem maxS_eq : maxS x y = if x.toInt ≤ y.toInt then y else x := by
  simp only [maxS, BitVec.slt_iff_toInt_lt]
  exact ite_lt_eq_ite_le fun h => (BitVec.toInt_inj.1 h).symm

theorem minU_eq : minU x y = if x.toNat ≤ y.toNat then x else y := by
  simp only [minU, BitVec.ult_iff_toNat_lt]
  exact ite_lt_eq_ite_le BitVec.eq_of_toNat_eq

theorem maxU_eq : maxU x y = if x.toNat ≤ y.toNat then y else x := by
  simp only [maxU, BitVec.ult_iff_toNat_lt]
  exact ite_lt_eq_ite_le fun h => (BitVec.eq_of_toNat_eq h).symm

end

/-- Settles O15: each meaning is one result, whose value is the operation on the operands. -/
theorem scalarArithmetic : Obligations.ScalarArithmetic := by
  intro s g d a b hon x y n p q m gives
  have hn : y.toNat % 64 = n := (extractLow_toNat y 6).symm
  have hm : q.toNat % 32 = m := by
    rw [extractLow_toNat, Nat.mod_mod_of_dvd _ (by decide)]
    exact (extractLow_toNat y 5).symm
  refine ⟨?_, ?_, ?_, ?_, ?_, ?_, ?_, ?_, ?_, ?_, ?_, ?_, ?_, ?_, ?_, ?_, ?_⟩
  · exact State.yields_alu hon (i := (.add g · d a b)) (fun _ => rfl) rfl rfl
  · exact State.yields_alu hon (i := (.sub g · d a b)) (fun _ => rfl) rfl rfl
  · exact State.yields_alu hon (i := (.mul g · d a b)) (fun _ => rfl) rfl rfl
  · exact State.yields_alu hon (i := (.mulh g · d a b)) (fun _ => rfl) (mulHiS_eq x y) (mulHiS_eq p q)
  · exact State.yields_alu hon (i := (.mulhu g · d a b)) (fun _ => rfl) (mulHiU_eq x y) (mulHiU_eq p q)
  · exact State.yields_alu hon (i := (.shl g · d a b)) (fun _ => rfl) (congrArg (x <<< ·) hn) (congrArg (p <<< ·) hm)
  · exact State.yields_alu hon (i := (.shr g · d a b)) (fun _ => rfl) (congrArg (x >>> ·) hn) (congrArg (p >>> ·) hm)
  · exact State.yields_alu hon (i := (.sar g · d a b)) (fun _ => rfl) (congrArg x.sshiftRight hn) (congrArg p.sshiftRight hm)
  · exact State.yields_alu hon (i := (.rol g · d a b)) (fun _ => rfl) (hn ▸ rolOp_eq x y) (hm ▸ rolOp_eq p q)
  · exact State.yields_alu hon (i := (.min g · d a b)) (fun _ => rfl) (minS_eq x y) (minS_eq p q)
  · exact State.yields_alu hon (i := (.max g · d a b)) (fun _ => rfl) (maxS_eq x y) (maxS_eq p q)
  · exact State.yields_alu hon (i := (.minu g · d a b)) (fun _ => rfl) (minU_eq x y) (minU_eq p q)
  · exact State.yields_alu hon (i := (.maxu g · d a b)) (fun _ => rfl) (maxU_eq x y) (maxU_eq p q)
  · exact State.yields_of_result hon (i := .and g d a b) rfl rfl
  · exact State.yields_of_result hon (i := .or g d a b) rfl rfl
  · exact State.yields_of_result hon (i := .xor g d a b) rfl rfl
  · exact State.yields_of_result hon (i := .andn g d a b) rfl rfl

/-! ### Division (R97) -/

theorem ofInt_sub (n : Nat) (u v : Int) : BitVec.ofInt n (u - v) = BitVec.ofInt n u - BitVec.ofInt n v := by
  rw [sub_eq_add_neg, BitVec.ofInt_add, BitVec.ofInt_neg, BitVec.sub_eq_add_neg]

section

variable {n : Nat} (x y : BitVec n)

theorem eq_minVal_iff (hn : 0 < n) : x = minVal n ↔ x.toInt = -2 ^ (n - 1) := by
  have hmin : (minVal n).toInt = -2 ^ (n - 1) :=
    BitVec.toInt_ofInt_eq_self hn le_rfl (neg_lt_self (by positivity) |>.trans_le le_rfl)
  rw [← hmin, BitVec.toInt_inj]

theorem eq_allOnes_iff (hn : 0 < n) : y = BitVec.allOnes n ↔ y.toInt = -1 := by
  rw [← BitVec.toInt_inj, BitVec.toInt_allOnes, if_pos hn]

/-- The remainder of a truncated division. -/
theorem ofInt_tmod : BitVec.ofInt n (x.toInt.tmod y.toInt) = x - y * BitVec.ofInt n (x.toInt.tdiv y.toInt) := by
  rw [Int.tmod_def, ofInt_sub, BitVec.ofInt_mul, BitVec.ofInt_toInt, BitVec.ofInt_toInt]

theorem divOp_eq (hn : 0 < n) : divOp x y =
    (if y = 0 then -1 else if x.toInt = -2 ^ (n - 1) ∧ y.toInt = -1 then x else BitVec.ofInt n (x.toInt.tdiv y.toInt),
      if y = 0 then fDZ else if x.toInt = -2 ^ (n - 1) ∧ y.toInt = -1 then fOF else 0) := by
  have hovf : x = minVal n ∧ y = BitVec.allOnes n ↔ x.toInt = -2 ^ (n - 1) ∧ y.toInt = -1 :=
    and_congr (eq_minVal_iff x hn) (eq_allOnes_iff y hn)
  unfold divOp
  by_cases hy : y = 0
  · simp only [if_pos hy, ← BitVec.neg_one_eq_allOnes]
    rfl
  · simp only [if_neg hy, ← hovf]
    split
    next h => rw [h.1]
    next => rfl

theorem divuOp_eq : divuOp x y = (if y = 0 then -1 else x / y, if y = 0 then fDZ else 0) := by
  unfold divuOp
  split
  · rw [← BitVec.neg_one_eq_allOnes]
    rfl
  · rw [← BitVec.toNat_udiv, BitVec.ofNat_toNat, BitVec.setWidth_eq]

/-- The overflow case of R97 needs no word of its own here: the truncated remainder of a division by -1 is 0. -/
theorem remOp_eq (hn : 0 < n) : remOp x y =
    (if y = 0 then x else x - y * BitVec.ofInt n (x.toInt.tdiv y.toInt), if y = 0 then fDZ else 0) := by
  unfold remOp
  split
  · rfl
  · rw [← ofInt_tmod]
    split
    next h =>
      obtain ⟨-, hones⟩ := h
      rw [(eq_allOnes_iff y hn).1 hones, Int.tmod_neg, Int.tmod_one]
      rfl
    next => rfl

theorem remuOp_eq : remuOp x y = (if y = 0 then x else x % y, if y = 0 then fDZ else 0) := by
  unfold remuOp
  split
  · rfl
  · rw [← BitVec.toNat_umod, BitVec.ofNat_toNat, BitVec.setWidth_eq]

end

/-- Settles O16: the four operations of R97, on 64 bits and on 32. -/
theorem division : Obligations.Division := by
  intro s g la d a b hon x y p q gives ovf ovf'
  refine ⟨?_, ?_, ?_, ?_⟩
  · exact State.yields_divide hon (i := (.div g · la d a b)) (fun _ => rfl) (divOp_eq x y (by decide)) (divOp_eq p q (by decide))
  · exact State.yields_divide hon (i := (.divu g · la d a b)) (fun _ => rfl) (divuOp_eq x y) (divuOp_eq p q)
  · exact State.yields_divide hon (i := (.rem g · la d a b)) (fun _ => rfl) (remOp_eq x y (by decide)) (remOp_eq p q (by decide))
  · exact State.yields_divide hon (i := (.remu g · la d a b)) (fun _ => rfl) (remuOp_eq x y) (remuOp_eq p q)

/-! ### Counts (R98) -/

theorem lt_two_pow_bitLen (m : Nat) : m < 2 ^ bitLen m := by
  unfold bitLen
  split
  · subst_vars
    decide
  · exact Nat.lt_log2_self

theorem bitLen_le_of_lt {m n : Nat} (h : m < 2 ^ n) : bitLen m ≤ n := by
  unfold bitLen
  split
  · exact Nat.zero_le n
  · exact (Nat.log2_lt ‹_›).2 h

/-- The top bit of a positive number is one. -/
theorem testBit_bitLen_pred {m : Nat} (h : 0 < bitLen m) : m.testBit (bitLen m - 1) = true := by
  unfold bitLen at h ⊢
  split at h
  · exact absurd h (lt_irrefl 0)
  · rw [if_neg ‹_›]
    exact Nat.testBit_log2 ‹_›

section

variable {n : Nat} (v : BitVec n)

theorem clzOp_spec :
    clzOp v ≤ n ∧ (∀ i, i < clzOp v → v.getMsbD i = false) ∧ (clzOp v < n → v.getMsbD (clzOp v) = true) := by
  have hle : bitLen v.toNat ≤ n := bitLen_le_of_lt v.isLt
  unfold clzOp
  refine ⟨Nat.sub_le _ _, fun i hi => ?_, fun hlt => ?_⟩
  · rw [BitVec.getMsbD_eq_getLsbD, ← BitVec.testBit_toNat, Nat.testBit_lt_two_pow, Bool.and_false]
    exact (lt_two_pow_bitLen _).trans_le (Nat.pow_le_pow_right (by decide) (by omega))
  · have htop : n - 1 - (n - bitLen v.toNat) = bitLen v.toNat - 1 := by omega
    rw [BitVec.getMsbD_eq_getLsbD, ← BitVec.testBit_toNat, htop, testBit_bitLen_pred (by omega), decide_eq_true hlt]
    rfl

theorem ctzOp_spec :
    ctzOp v ≤ n ∧ (∀ i, i < ctzOp v → v.getLsbD i = false) ∧ (ctzOp v < n → v.getLsbD (ctzOp v) = true) := by
  unfold ctzOp
  cases hfind : (List.range n).find? fun i => v.getLsbD i with
  | none =>
    rw [List.find?_range_eq_none] at hfind
    exact ⟨le_rfl, fun i hi => by simpa using hfind i hi, fun h => absurd h (lt_irrefl n)⟩
  | some k =>
    obtain ⟨hone, hk, hzero⟩ := List.find?_range_eq_some.1 hfind
    exact ⟨(List.mem_range.1 hk).le, fun i hi => by simpa using hzero i hi, fun _ => hone⟩

theorem popOp_spec : popOp v ≤ n ∧ popOp v = (List.finRange n).countP fun (i : Fin n) => v.getLsbD i.val := by
  refine ⟨(List.length_filter_le _ _).trans_eq List.length_range, ?_⟩
  rw [popOp, ← List.countP_eq_length_filter, ← List.map_coe_finRange_eq_range, List.countP_map]
  rfl

end

/-! ### Bytes in reverse order (R98) -/

theorem leBytes_length (k v : Nat) : (leBytes k v).length = k := by
  induction k generalizing v with
  | zero => rfl
  | succ k ih => rw [leBytes, List.length_cons, ih]

/-- Byte i of the bytes of a number is its bits from 8i on. -/
theorem leBytes_getElem? (k v i : Nat) (h : i < k) : (leBytes k v)[i]? = some (BitVec.ofNat 8 (v >>> (8 * i))) := by
  induction k generalizing v i with
  | zero => omega
  | succ k ih =>
    cases i with
    | zero => rfl
    | succ i =>
      rw [leBytes, List.getElem?_cons_succ, ih _ _ (by omega), Nat.mul_succ, Nat.add_comm, Nat.shiftRight_add,
        Nat.shiftRight_eq_div_pow v 8]

/-- Bits 8i on of the value of a list of bytes are byte i. -/
theorem leNat_testBit (bs : List Byte) (i j : Nat) (hj : j < 8) : (leNat bs).testBit (8 * i + j) = (bs[i]?.getD 0).getLsbD j := by
  induction bs generalizing i with
  | nil => simp [leNat]
  | cons b bs ih =>
    rw [leNat, Nat.add_comm, show 256 = 2 ^ 8 from rfl, Nat.testBit_two_pow_mul_add _ b.isLt]
    cases i with
    | zero => rw [if_pos (by omega), BitVec.testBit_toNat, Nat.mul_zero, Nat.zero_add]; rfl
    | succ i => rw [if_neg (by omega), show 8 * (i + 1) + j - 8 = 8 * i + j by omega, ih]; rfl

theorem revBytes_testBit (k : Nat) (x : Word) (i j : Nat) (hi : i < k) (hj : j < 8) :
    (revBytes k x).testBit (8 * i + j) = x.getLsbD (8 * (k - 1 - i) + j) := by
  rw [revBytes, leNat_testBit _ _ _ hj, List.getElem?_reverse (by rwa [leBytes_length]), leBytes_length,
    leBytes_getElem? _ _ _ (by omega)]
  rw [Option.getD_some, BitVec.getLsbD_ofNat, decide_eq_true hj, Bool.true_and, Nat.testBit_shiftRight, BitVec.testBit_toNat]

/-- So the bytes of a word of 8·k bits are those of the operand in reverse order. -/
theorem revBytes_byte {n k : Nat} (x : Word) {r z : BitVec n} (hr : ∀ m, m < 8 * k → r.getLsbD m = (revBytes k x).testBit m)
    (hz : ∀ m, m < 8 * k → z.getLsbD m = x.getLsbD m) (i : Nat) (hi : i < k) :
    r.extractLsb' (8 * i) 8 = z.extractLsb' (8 * (k - 1 - i)) 8 := by
  apply BitVec.eq_of_getLsbD_eq
  intro j hj
  rw [BitVec.getLsbD_extractLsb', BitVec.getLsbD_extractLsb', hr _ (by omega), hz _ (by omega), revBytes_testBit k x i j hi hj]

/-- Settles O17: the counts by `clzOp_spec`, `ctzOp_spec` and `popOp_spec`, `bswap` byte by byte, and the copies as they stand. -/
theorem countsAndMoves : Obligations.CountsAndMoves := by
  intro s g d a hon x p count
  refine ⟨?_, ?_, ?_, ?_, ?_, ?_, ?_, ?_, ?_⟩
  · obtain ⟨hwide, hnarrow⟩ := State.yields_count hon (i := (.clz g · d a)) (fun _ => rfl)
    exact ⟨⟨_, hwide, clzOp_spec x⟩, ⟨_, hnarrow, clzOp_spec p⟩⟩
  · obtain ⟨hwide, hnarrow⟩ := State.yields_count hon (i := (.ctz g · d a)) (fun _ => rfl)
    exact ⟨⟨_, hwide, ctzOp_spec x⟩, ⟨_, hnarrow, ctzOp_spec p⟩⟩
  · obtain ⟨hwide, hnarrow⟩ := State.yields_count hon (i := (.popc g · d a)) (fun _ => rfl)
    exact ⟨⟨_, hwide, popOp_spec x⟩, ⟨_, hnarrow, popOp_spec p⟩⟩
  · refine ⟨w64 (revBytes 8 x), State.yields_of_result hon (i := .bswap g false d a) rfl rfl,
      revBytes_byte x (fun m hm => ?_) fun m hm => rfl⟩
    rw [BitVec.getLsbD_ofNat, decide_eq_true (by omega), Bool.true_and]
  · refine ⟨(w64 (revBytes 4 x)).truncate 32, State.yields_of_result hon (i := .bswap g true d a) rfl rfl,
      revBytes_byte x (fun m hm => ?_) fun m hm => ?_⟩
    · rw [BitVec.getLsbD_setWidth, BitVec.getLsbD_ofNat, decide_eq_true (by omega), decide_eq_true (by omega)]
      rfl
    · simp [p, BitVec.getLsbD_extractLsb', hm, -BitVec.getLsbD_eq_getElem]
  · exact State.yields_of_result hon (i := .mov g d a) rfl rfl
  · exact State.yields_of_result hon (i := .sext g .w8 d a) rfl rfl
  · exact State.yields_of_result hon (i := .sext g .w16 d a) rfl rfl
  · exact State.yields_of_result hon (i := .sext g .w32 d a) rfl rfl

/-! ### Fields (R101) -/

/-- The mask of a field is its low ones. -/
theorem fieldMask_getLsbD (len : BitVec 6) (i : Nat) : (fieldMask len).getLsbD i = decide (i < len.toNat + 1) := by
  unfold fieldMask
  split
  next h => subst h; rw [BitVec.getLsbD_allOnes]; rfl
  next h =>
    have hlt : len.toNat + 1 < 64 := by
      have := len.isLt
      have : len.toNat ≠ 63 := fun hc => h (BitVec.eq_of_toNat_eq hc)
      omega
    have hpow : 2 ^ (len.toNat + 1) < 2 ^ 64 := Nat.pow_lt_pow_right (by decide) hlt
    have hone : ((1 <<< (len.toNat + 1) : Nat) : Word).toNat = 2 ^ (len.toNat + 1) := by
      rw [BitVec.natCast_eq_ofNat, BitVec.toNat_ofNat, Nat.one_shiftLeft, Nat.mod_eq_of_lt hpow]
    have hle : (1 : Word) ≤ ((1 <<< (len.toNat + 1) : Nat) : Word) := by
      rw [BitVec.le_def, hone]
      exact Nat.one_le_two_pow
    rw [← BitVec.testBit_toNat, BitVec.toNat_sub_of_le hle, hone]
    exact Nat.testBit_two_pow_sub_one _ _

section

variable (pos len : BitVec 6) (x y : Word) (i : Nat)

theorem extractU_getLsbD :
    (extractU pos len x y).getLsbD i = (decide (i < len.toNat + 1) && x.getLsbD (fieldPos pos y + i)) := by
  rw [extractU, BitVec.getLsbD_and, BitVec.getLsbD_ushiftRight, fieldMask_getLsbD len i, Bool.and_comm]

theorem extractS_getLsbD (hi : i < 64) :
    (extractS pos len x y).getLsbD i =
      if i < len.toNat + 1 then x.getLsbD (fieldPos pos y + i) else x.getLsbD (fieldPos pos y + len.toNat) := by
  have htop := extractU_getLsbD pos len x y len.toNat
  rw [decide_eq_true (Nat.lt_succ_self _), Bool.true_and] at htop
  have hbit := extractU_getLsbD pos len x y i
  have hmask := fieldMask_getLsbD len i
  simp only [extractS, htop]
  by_cases hlen : i < len.toNat + 1
  · rw [decide_eq_true hlen] at hbit hmask
    rw [if_pos hlen]
    split
    · rw [BitVec.getLsbD_or, BitVec.getLsbD_not, hbit, hmask]; simp
    · rw [hbit]; rfl
  · rw [decide_eq_false hlen] at hbit hmask
    rw [if_neg hlen]
    split
    next h => rw [BitVec.getLsbD_or, BitVec.getLsbD_not, hbit, hmask, h, decide_eq_true hi]; rfl
    next h => rw [hbit, Bool.not_eq_true _ |>.mp h]; rfl

theorem insertField_getLsbD (hi : i < 64) :
    (insertField pos len x y).getLsbD i =
      if pos.toNat ≤ i ∧ i < pos.toNat + (len.toNat + 1) then y.getLsbD (i - pos.toNat) else x.getLsbD i := by
  have hmask := fieldMask_getLsbD len (i - pos.toNat)
  rw [insertField, BitVec.getLsbD_or, BitVec.getLsbD_and, BitVec.getLsbD_not, BitVec.getLsbD_shiftLeft, BitVec.getLsbD_shiftLeft,
    BitVec.getLsbD_and, hmask, decide_eq_true hi]
  by_cases hlow : i < pos.toNat
  · simp [hlow, -BitVec.getLsbD_eq_getElem]
  · by_cases hhigh : i - pos.toNat < len.toNat + 1
    · have hin : pos.toNat ≤ i ∧ i < pos.toNat + (len.toNat + 1) := by omega
      rw [decide_eq_true hhigh, decide_eq_false hlow, if_pos hin]
      simp
    · have hout : ¬(pos.toNat ≤ i ∧ i < pos.toNat + (len.toNat + 1)) := by omega
      rw [decide_eq_false hhigh, if_neg hout]
      simp

end

/-- Settles O18: one result each, the fields by their bits. -/
theorem selectionAndFields : Obligations.SelectionAndFields := by
  intro s g d a b imm p pos len hon x y n k
  refine ⟨?_, ?_, ?_, ⟨_, ?_, fun i _ => extractU_getLsbD pos len x y i⟩, ⟨_, ?_, extractS_getLsbD pos len x y⟩,
    ⟨_, ?_, insertField_getLsbD pos len x y⟩⟩
  · exact State.yields_of_result hon (i := .sel g p d a b) rfl rfl
  · exact State.yields_of_result hon (i := .movi g d imm) rfl rfl
  · exact State.yields_of_result hon (i := .movhi g d a imm) rfl rfl
  · exact State.yields_of_result hon (i := .bextu g pos len d a b) rfl rfl
  · exact State.yields_of_result hon (i := .bext g pos len d a b) rfl rfl
  · exact State.yields_of_result hon (i := .bins g pos len d a b) rfl rfl

/-! ### Predicates (R102 to R105) -/

/-- The predicates that `pset` names, in ascending order, each with its bit. -/
def psetWrites (qm : BitVec 7) (v : Word) : List RegWrite :=
  ((List.range 7).filter fun i => qm.getLsbD i).map fun i => .q (BitVec.ofNat 3 (i + 1)) (v.getLsbD (i + 1))

theorem State.yields_pset {s : State} {g : Gd} (hon : s.guardOn s.cur g = true) (qm : BitVec 7) (a : SReg) :
    s.yields (.pset g qm a) 8 (psetWrites qm (s.rd s.cur a)) 0 := by
  simp only [State.yields, exec, execPset, State.guarded_on s g _ hon, psetWrites]

theorem mem_psetWrites (qm : BitVec 7) (v : Word) (wr : RegWrite) :
    wr ∈ psetWrites qm v ↔ ∃ i : Nat, 1 ≤ i ∧ i ≤ 7 ∧ qm.getLsbD (i - 1) = true ∧ wr = .q (BitVec.ofNat 3 i) (v.getLsbD i) := by
  simp only [psetWrites, List.mem_map, List.mem_filter, List.mem_range]
  constructor
  · rintro ⟨i, ⟨hi, hq⟩, rfl⟩
    exact ⟨i + 1, by omega, by omega, hq, rfl⟩
  · rintro ⟨i, hlo, hhi, hq, rfl⟩
    obtain ⟨j, rfl⟩ := Nat.exists_eq_add_of_le' hlo
    exact ⟨j, ⟨by omega, hq⟩, rfl⟩

/-- `pget` reads the predicates as they are read, q0 as one. -/
theorem State.predicates_getLsbD (s : State) (w : Tid) (i : Nat) (hi : i < 64) :
    (s.thread w).predicates.getLsbD i = (decide (i < 8) && s.rdQ w (BitVec.ofNat 3 i)) := by
  rw [Thread.predicates, BitVec.zeroExtend, BitVec.getLsbD_setWidth, BitVec.getLsbD_or, decide_eq_true hi, Bool.true_and, State.rdQ]
  by_cases h : i < 8
  · interval_cases i <;> simp
  · simp [h, BitVec.getLsbD_of_ge _ i (Nat.le_of_not_lt h), -BitVec.getLsbD_eq_getElem]

/-- Settles O19: the conditions of R102 one by one, the truth table of `plog` entry by entry, and the predicates by their bits. -/
theorem predicates : Obligations.Predicates := by
  intro s g c d e a b tt p q qm hon x y holds
  have hholds {n : Nat} (u v : BitVec n) : ICond.holds c u v = holds u v := by
    rw [Bool.eq_iff_iff]
    cases c <;> simp [holds, ICond.holds, BitVec.slt_eq_decide, BitVec.ult_eq_decide]
  refine ⟨?_, ?_, ?_, ⟨_, State.yields_pset hon qm a, mem_psetWrites qm x⟩, ⟨_, ?_, s.predicates_getLsbD s.cur⟩⟩
  · exact State.yields_of_resultQ hon (i := .cmp g false c d a b) rfl (hholds x y)
  · exact State.yields_of_resultQ hon (i := .cmp g true c d a b) rfl (hholds _ _)
  · refine State.yields_of_resultQ hon (i := .plog g tt d p q) rfl ?_
    unfold table
    cases s.rdQ s.cur p <;> cases s.rdQ s.cur q <;> rfl
  · exact State.yields_of_result hon (i := .pget g e) rfl rfl

/-! ### Transfers (R106) -/

/-- A transfer to a valid address goes there. -/
theorem State.transfer_of_valid {s : State} {t : Word} (f : State → State) (h : (t - s.cbase s.cur).toInt % 12 = 0) :
    s.transfer t f = (f s).jump s.cur t := if_pos (beq_iff_eq.2 h)

/-- One to any other traps at the instruction, with nothing else done (R34). -/
theorem State.transfer_of_invalid {s : State} {t : Word} (f : State → State) (h : (t - s.cbase s.cur).toInt % 12 ≠ 0) :
    s.transfer t f = s.trapAt s.cur .pcAlign (s.pcOf s.cur) t 0 := if_neg fun hvalid => h (beq_iff_eq.1 hvalid)

/-- Settles O22: the target of `br`, `call` and `dbnz` is always an address, that of `jmp` and `callr` is looked at first. -/
theorem transfers : Obligations.Transfers := by
  intro s g d a imm hon w p dest t n go
  refine ⟨?_, ?_, fun hn => ?_, fun hn => ?_, fun ht => ⟨?_, ?_⟩, fun ht => ⟨?_, ?_⟩⟩
  · exact State.exec_of_guardOn hon (i := .br g imm) rfl rfl
  · exact State.exec_of_guardOn hon (i := .call g d imm) rfl rfl
  · exact State.exec_of_guardOn hon (i := .dbnz g d imm) rfl (if_neg hn)
  · exact State.exec_of_guardOn hon (i := .dbnz g d imm) rfl ((if_pos hn).trans (congrArg (s.result 8 d) hn))
  · exact State.exec_of_guardOn hon (i := .jmp g a imm) rfl (State.transfer_of_valid _ ht)
  · exact State.exec_of_guardOn hon (i := .callr g d a imm) rfl (State.transfer_of_valid _ ht)
  · exact State.exec_of_guardOn hon (i := .jmp g a imm) rfl (State.transfer_of_invalid _ ht)
  · exact State.exec_of_guardOn hon (i := .callr g d a imm) rfl (State.transfer_of_invalid _ ht)

end Sys2Proof.Machine

/-!
PROOFS. The words of `nop` and of `tst` (R103, R107): obligations O20 and O21.
-/

namespace Sys2Proof

/-- A word decodes to an instruction exactly when the instruction is well formed and its fields are those of the word. -/
theorem decode_eq_ok_iff (w : BitVec 96) (i : Instr) :
    decode w = .ok i ↔ i.wellFormed = true ∧ encodeFields i = some (Fields.ofWord w) := by
  constructor
  · intro hdec
    obtain ⟨hwf, henc⟩ := decodeIsInjective w i hdec
    obtain ⟨f, hf, rfl⟩ := Option.map_eq_some_iff.1 henc
    exact ⟨hwf, by rw [hf, Fields.ofWord_toWord]⟩
  · rintro ⟨hwf, henc⟩
    obtain ⟨w', henc', hdec⟩ := encodeDecodes i hwf
    rw [encode, henc, Option.map_some, Fields.toWord_ofWord, Option.some.injEq] at henc'
    rwa [henc']

/-- So, where its encoding is known, exactly when the word has these fields. -/
theorem decode_eq_ok_iff_of_encodeFields (w : BitVec 96) {i : Instr} {f : Fields} (henc : encodeFields i = some f) :
    decode w = .ok i ↔ i.wellFormed = true ∧ Fields.ofWord w = f := by
  rw [decode_eq_ok_iff, henc, Option.some.injEq, eq_comm (a := f)]

theorem wellFormed_nop (g : Gd) : (Instr.nop g).wellFormed = g.ok := by
  simp [Instr.wellFormed, wfScalar, wfControl, wfThread, wfNumber, wfLane, wfLaneData, wfMemory, wfAtomic, wfSync, wfEngine,
    wfSpan, wfPrompter, wfDd, wfCast, wfReduce, wfSystem]

theorem wellFormed_tst (g : Gd) (z : Bool) (d : QReg) (a : SReg) (b : Src) :
    (Instr.tst g z d a b).wellFormed = (g.ok && d != 0) := by
  simp [Instr.wellFormed, wfScalar, wfControl, wfThread, wfNumber, wfLane, wfLaneData, wfMemory, wfAtomic, wfSync, wfEngine,
    wfSpan, wfPrompter, wfDd, wfCast, wfReduce, wfSystem]

theorem Gd.ok_iff (g : Gd) : g.ok = true ↔ ¬(g.gn = true ∧ g.gp = 0) := by
  rw [Gd.ok, Bool.not_eq_true', ← Bool.not_eq_true, Bool.and_eq_true, beq_iff_eq]

/-- Settles O20: `decode_eq_ok_iff` for `tst`, and its one result under either sense. -/
theorem testBits : Obligations.TestBits := by
  refine ⟨fun w g z d a b => ?_, fun s g d a b hon => ⟨?_, ?_⟩⟩
  · rw [decode_eq_ok_iff_of_encodeFields w rfl, wellFormed_tst, Bool.and_eq_true, Gd.ok_iff, bne_iff_ne, and_comm (a := ¬_),
      and_assoc]
    refine and_congr_right fun _ => and_congr_right fun _ => ?_
    cases b <;> cases z <;> exact Iff.rfl
  · refine Machine.State.yields_of_resultQ hon (i := .tst g false d a b) rfl ?_
    simp [bne, Bool.beq_eq_decide_eq]
  · refine Machine.State.yields_of_resultQ hon (i := .tst g true d a b) rfl ?_
    simp [bne, Bool.beq_eq_decide_eq]

/-- Settles O21: `decode_eq_ok_iff` for `nop`, whose meaning is the passage to the next instruction under its guard or not. -/
theorem nopHasNoEffect : Obligations.NopHasNoEffect := by
  refine ⟨fun w g => ?_, fun s g => ?_⟩
  · rw [decode_eq_ok_iff_of_encodeFields w rfl, wellFormed_nop, Gd.ok_iff]
  · exact congrArg Host.Outcome.next (ite_self _)

end Sys2Proof

/-!
PROOFS. The landing of a result (R92): what each of its writes changes, what the writes in order come to, and what every register
holds afterwards. Obligation O40.
-/

namespace Sys2Proof.Machine

/-! ### One write, in the thread and in its core -/

/-- The identity that a write gives register r is that of a live entry bound to r (R232). -/
def identityFits (hs : Map HEntry) (r : HReg) (x : Word) : Bool :=
  (hs.get? (x.toNat % 32)).any fun e => e.reg = r && e.seq = x.toNat / 2 ^ 32 % 65536

/-- What a write changes in the thread. -/
def Thread.written (cyc : Nat) (t : Thread) : RegWrite → Thread
  | .s r x =>
    if r = 0 then t
    else if r.toNat < 64 then { t with x := t.x.set r.toNat x, ddFull := t.ddFull.del r.toNat }
    else t
  | .v r x m => if r.toNat < 16 then { t with v := t.v.set r.toNat ((t.v.getD r.toNat (Vec.splat 0)).merge x m) } else t
  | .q r b => if r = 0 then t else { t with q := if b then t.q ||| (1#8 <<< r.toNat) else t.q &&& ~~~(1#8 <<< r.toNat) }
  | .k r m => if r = 0 then t else { t with k := t.k.set r.toNat m }
  | .sp n x => t.spWrite cyc n x
  | .h r x =>
    if r = 0 then t
    else if identityFits t.handles r x then
      { t with x := t.x.set r.toNat x, ddFull := t.ddFull.del r.toNat, pend := t.pend ||| (1#64 <<< r.toNat) }
    else t

/-- What a write changes in the core: the y and w registers (R91, R159). -/
def LCore.written (c : LCore) : RegWrite → LCore
  | .s r x => if 64 ≤ r.toNat then { c with y := c.y.set (r.toNat - 64) x } else c
  | .v r x m =>
    if 16 ≤ r.toNat then { c with w := c.w.set (r.toNat - 16) ((c.w.getD (r.toNat - 16) (Vec.splat 0)).merge x m) } else c
  | _ => c

/-- From `s` to `t` thread `w` changes by `f` and the registers of its core by `g`; every other thread and core, the jobs, the
memories, the agenda and the clock stay. -/
structure State.changes (s t : State) (w : Tid) (f : Thread → Thread) (g : LCore → LCore) : Prop where
  self : t.thread w = f (s.thread w)
  others : ∀ v, v ≠ w → t.thread v = s.thread v
  core : (t.core w.job w.lcn).bare = g (s.core w.job w.lcn).bare
  cores : ∀ j l, (j, l) ≠ (w.job, w.lcn) → (t.core j l).bare = (s.core j l).bare
  jobs : ∀ j, (t.job j).bare = (s.job j).bare
  pcores : t.pcores = s.pcores
  pclus : t.pclus = s.pclus
  pool : t.pool = s.pool
  host : t.host = s.host
  agenda : t.agenda = s.agenda
  cyc : t.cyc = s.cyc

theorem State.changes.refl (s : State) (w : Tid) : s.changes s w id id where
  self := rfl
  others := fun _ _ => rfl
  core := rfl
  cores := fun _ _ _ => rfl
  jobs := fun _ => rfl
  pcores := rfl
  pclus := rfl
  pool := rfl
  host := rfl
  agenda := rfl
  cyc := rfl

theorem State.changes.andThen {s t u : State} {w : Tid} {f f' : Thread → Thread} {g g' : LCore → LCore}
    (h : s.changes t w f g) (k : t.changes u w f' g') : s.changes u w (f' ∘ f) (g' ∘ g) where
  self := k.self.trans (congrArg f' h.self)
  others := fun v hv => (k.others v hv).trans (h.others v hv)
  core := k.core.trans (congrArg g' h.core)
  cores := fun j l hc => (k.cores j l hc).trans (h.cores j l hc)
  jobs := fun j => (k.jobs j).trans (h.jobs j)
  pcores := k.pcores.trans h.pcores
  pclus := k.pclus.trans h.pclus
  pool := k.pool.trans h.pool
  host := k.host.trans h.host
  agenda := k.agenda.trans h.agenda
  cyc := k.cyc.trans h.cyc

theorem State.changes.ofModThread (s : State) (w : Tid) (f : Thread → Thread) : s.changes (s.modThread w f) w f id where
  self := s.modThread_thread_self w f
  others := fun v hv => s.modThread_thread_ne w v f hv
  core := s.modThread_core_bare w f _ _
  cores := fun j l _ => s.modThread_core_bare w f j l
  jobs := fun j => s.modThread_job_bare w f j
  pcores := rfl
  pclus := rfl
  pool := rfl
  host := rfl
  agenda := rfl
  cyc := rfl

/-- A change of a thread that is left out under a condition. -/
theorem State.changes.ofModThread_unless (s : State) (w : Tid) (c : Prop) [Decidable c] (f : Thread → Thread) :
    s.changes (if c then s else s.modThread w f) w (fun t => if c then t else f t) id := by
  split
  · exact State.changes.refl s w
  · exact State.changes.ofModThread s w f

/-- A change of a core's registers leaves its threads. -/
theorem State.modCore_thread (s : State) (j l : Nat) (g : LCore → LCore) (hg : ∀ c, (g c).threads = c.threads) (v : Tid) :
    (s.modCore j l g).thread v = s.thread v := by
  by_cases hc : (v.job, v.lcn) = (j, l)
  · obtain ⟨rfl, rfl⟩ := Prod.mk.inj hc
    rw [State.thread, State.modCore_core_self, hg, State.thread]
  · rw [State.thread, State.modCore_core_ne _ _ _ _ _ _ hc, State.thread]

theorem State.modCore_job_bare (s : State) (j l : Nat) (g : LCore → LCore) (i : Nat) :
    ((s.modCore j l g).job i).bare = (s.job i).bare := by
  by_cases h : i = j
  · subst h
    simp [State.modCore, Job.bare]
  · simp [State.modCore, State.modJob_job_ne _ _ _ _ h]

theorem State.changes.ofModCore (s : State) (w : Tid) (g : LCore → LCore) (hg : ∀ c, (g c).threads = c.threads)
    (hbare : ∀ c, (g c).bare = g c.bare) : s.changes (s.modCore w.job w.lcn g) w id g where
  self := s.modCore_thread _ _ g hg w
  others := fun v _ => s.modCore_thread _ _ g hg v
  core := (congrArg LCore.bare (s.modCore_core_self _ _ g)).trans (hbare _)
  cores := fun j l hc => congrArg LCore.bare (s.modCore_core_ne _ _ j l g hc)
  jobs := s.modCore_job_bare _ _ g
  pcores := rfl
  pclus := rfl
  pool := rfl
  host := rfl
  agenda := rfl
  cyc := rfl

/-- The same change under other names. -/
theorem State.changes.congr {s t : State} {w : Tid} {f f' : Thread → Thread} {g g' : LCore → LCore} (h : s.changes t w f g)
    (hf : f (s.thread w) = f' (s.thread w)) (hg : ∀ c, g c = g' c) : s.changes t w f' g' :=
  { h with self := h.self.trans hf, core := h.core.trans (hg _) }

section

variable {s t : State} {w : Tid} {f : Thread → Thread} {g : LCore → LCore} {α : Type}

/-- A field of a job apart from its cores. -/
theorem State.changes.jobField (h : s.changes t w f g) (F : Job → α) (hF : ∀ b, F b = F b.bare) (j : Nat) : F (t.job j) = F (s.job j) := by
  rw [hF (t.job j), h.jobs, ← hF]

/-- A field of another core apart from its threads. -/
theorem State.changes.coreField (h : s.changes t w f g) (F : LCore → α) (hF : ∀ c, F c = F c.bare) {j l : Nat}
    (hc : (j, l) ≠ (w.job, w.lcn)) : F (t.core j l) = F (s.core j l) := by
  rw [hF (t.core j l), h.cores j l hc, ← hF]

end

/-- A write changes its thread or the registers of its core, each as said above. -/
theorem State.applyWrite_changes (s : State) (w : Tid) (y : RegWrite) :
    s.changes (s.applyWrite w y) w (fun t => t.written s.cyc y) (fun c => c.written y) := by
  cases y with
  | s r x =>
    simp only [State.applyWrite, Thread.written, LCore.written]
    by_cases hr : r = 0
    · subst hr
      exact State.changes.refl s w
    · simp only [if_neg hr]
      by_cases hlt : r.toNat < 64
      · simp only [if_pos hlt, if_neg (Nat.not_le_of_lt hlt)]
        exact State.changes.ofModThread s w _
      · simp only [if_neg hlt, if_pos (Nat.le_of_not_lt hlt)]
        exact State.changes.ofModCore s w _ (fun _ => rfl) fun _ => rfl
  | v r x m =>
    simp only [State.applyWrite, Thread.written, LCore.written]
    by_cases hlt : r.toNat < 16
    · simp only [if_pos hlt, if_neg (Nat.not_le_of_lt hlt)]
      exact State.changes.ofModThread s w _
    · simp only [if_neg hlt, if_pos (Nat.le_of_not_lt hlt)]
      exact State.changes.ofModCore s w _ (fun _ => rfl) fun _ => rfl
  | q r b =>
    simp only [State.applyWrite, Thread.written]
    exact State.changes.ofModThread_unless s w _ _
  | k r m =>
    simp only [State.applyWrite, Thread.written]
    exact State.changes.ofModThread_unless s w _ _
  | sp n x => exact State.changes.ofModThread s w fun t => t.spWrite s.cyc n x
  | h r x =>
    simp only [State.applyWrite, Thread.written]
    refine (State.changes.ofModThread_unless s w _ _).congr (congrArg (ite _ _) ?_) fun _ => rfl
    cases he : (s.thread w).handles.get? (x.toNat % 32) with
    | none => simp only [identityFits, he, Option.any_none, Bool.false_eq_true, if_false]
    | some e => simp only [identityFits, he, Option.any_some]

/-- Writes in order, each on what those before it left. -/
theorem State.applyWrites_changes (s : State) (w : Tid) (ws : List RegWrite) :
    s.changes (s.applyWrites w ws) w (fun t => ws.foldl (Thread.written s.cyc) t) (fun c => ws.foldl LCore.written c) := by
  induction ws generalizing s with
  | nil => exact State.changes.refl s w
  | cons y ws ih =>
    have hone := s.applyWrite_changes w y
    have hrest := ih (s.applyWrite w y)
    rw [hone.cyc] at hrest
    exact hone.andThen hrest

/-! ### The whole landing -/

/-- Sticky flags as they land (R138). -/
def Thread.flagged (cyc : Nat) (fl : FlagBits) (t : Thread) : Thread :=
  { t with
    flags := t.flags ||| fl
    flagsAt := if fl = 0 then t.flagsAt else (cyc, fl ||| (if t.flagsAt.1 = cyc then t.flagsAt.2 else 0)) }

theorem State.setFlags_changes (s : State) (w : Tid) (fl : FlagBits) :
    s.changes (s.setFlags w fl) w (Thread.flagged s.cyc fl) id := by
  unfold State.setFlags
  split
  next h => exact (State.changes.refl s w).congr (by simp [Thread.flagged, h]) fun _ => rfl
  next h => exact (State.changes.ofModThread s w _).congr (by simp only [Thread.flagged, if_neg h]) fun _ => rfl

/-- The result queued as `id` is no longer on its way. -/
def Thread.taken (id : Nat) (t : Thread) : Thread := { t with landings := t.landings.filter fun l => l.id != id }

/-- Its registers are not held, and its lookahead window is gone (R42, R93). -/
def Thread.released (id : Nat) (t : Thread) : Thread :=
  { t with busy := t.busy.filter fun p => p.1 != id, window := t.window.filter fun p => p.1 != id }

/-- A thread after the landing of the result `l`, which is queued as `id`. -/
def Thread.landed (cyc id : Nat) (l : Landing) (t : Thread) : Thread :=
  ((l.writes.foldl (Thread.written cyc) (t.taken id)).flagged cyc l.flags).released id

theorem State.landNow_changes (s : State) (w : Tid) (id : Nat) (l : Landing)
    (hl : (s.thread w).landings.find? (fun l => l.id == id) = some l) :
    s.changes (s.landNow w id) w (Thread.landed s.cyc id l) (fun c => l.writes.foldl LCore.written c) := by
  simp only [State.landNow, hl]
  have htaken := State.changes.ofModThread s w (Thread.taken id)
  have hwritten := State.applyWrites_changes (s.modThread w (Thread.taken id)) w l.writes
  have hflagged := State.setFlags_changes ((s.modThread w (Thread.taken id)).applyWrites w l.writes) w l.flags
  rw [hwritten.cyc] at hflagged
  exact ((htaken.andThen hwritten).andThen hflagged).andThen (State.changes.ofModThread _ w (Thread.released id))

/-! ### Writes in order: what one of them writes, and what none of them names -/

/-- What no write of a list changes is as it was. -/
theorem foldl_keeps {α β : Type} {step : β → RegWrite → β} (f : β → α) {ws : List RegWrite}
    (h : ∀ b, ∀ y ∈ ws, f (step b y) = f b) (b : β) : f (ws.foldl step b) = f b :=
  List.foldlRecOn (motive := fun u => f u = f b) ws step rfl fun u hu y hy => (h u y hy).trans hu

/-- What one write of a list changes, and no write of another register does, is as that one write leaves it. -/
theorem foldl_writes {α β : Type} {step : β → RegWrite → β} (f : β → α) {g : α → α} {ws : List RegWrite} {x : RegWrite}
    (hx : x ∈ ws) (hnd : (ws.map RegWrite.ref).Nodup) (hself : ∀ b, f (step b x) = g (f b))
    (hother : ∀ b y, y.ref ≠ x.ref → f (step b y) = f b) (b : β) : f (ws.foldl step b) = g (f b) := by
  obtain ⟨before, after, rfl⟩ := List.append_of_mem hx
  rw [List.map_append, List.map_cons, List.nodup_middle, List.nodup_cons, ← List.map_append] at hnd
  obtain ⟨hnot, -⟩ := hnd
  have hne : ∀ y ∈ before ++ after, y.ref ≠ x.ref := fun y hy he => hnot (he ▸ List.mem_map_of_mem hy)
  rw [List.foldl_append, List.foldl_cons,
    foldl_keeps f (fun b y hy => hother b y (hne y (List.mem_append_right _ hy))), hself,
    foldl_keeps f (fun b y hy => hother b y (hne y (List.mem_append_left _ hy)))]

/-! ### Registers of a thread -/

section

variable (t : Thread) (cyc : Nat)

/-- Field by field what the landing of a `sets` writes (R116, R138, R368). -/
theorem Thread.spWrite_eq (n : Nat) (v : Word) : t.spWrite cyc n v =
    { t with
      flags := if n = 0x006 then v.truncate 7 ||| (if t.flagsAt.1 = cyc then t.flagsAt.2 else 0) else t.flags
      reported := if n = 0x006 then t.reported &&& v.truncate 7 else t.reported
      ten := if n = 0x007 then v.truncate 7 else t.ten
      geom0 := if n = 0x009 then v else t.geom0
      geom1 := if n = 0x00A then v.truncate 48 else t.geom1
      dns := if n = 0x00C then v else t.dns
      ups := if n = 0x00D then v else t.ups
      stg := if n = 0x00E then v else t.stg
      mdrop := if n = 0x012 then v.truncate 32 else t.mdrop
      epc := if n = 0x800 then v else t.epc
      ecause := if n = 0x801 then v &&& 0x1FF else t.ecause
      eaddr := if n = 0x802 then v else t.eaddr
      einfo := if n = 0x803 then v else t.einfo
      tvec := if n = 0x804 then v else t.tvec
      svec := if n = 0x805 then v else t.svec
      pstate := if n = 0x806 then v.truncate 4 else t.pstate
      vbase := if n = 0x807 then v &&& 0x000FFFFFFFFF0000 else t.vbase
      jepc := if n = 0x808 then v else t.jepc
      jcause := if n = 0x809 then v &&& 0xFF else t.jcause
      jaddr := if n = 0x80A then v else t.jaddr
      jinfo := if n = 0x80B then v else t.jinfo } := by
  unfold Thread.spWrite
  split
  case h_21 => simp_all
  all_goals rfl

/-- A thread without its registers and predicates. -/
def Thread.sansRegs : Thread := { t with x := [], ddFull := [], pend := 0, v := [], q := 0, k := [] }

/-- A write of a register or predicate changes nothing else. -/
theorem Thread.written_sansRegs (y : RegWrite) (h : ∀ n x, y ≠ .sp n x) : (t.written cyc y).sansRegs = t.sansRegs := by
  fun_cases Thread.written cyc t y with
  | case10 n x => exact absurd rfl (h n x)
  | _ => rfl

/-- So what depends on neither is kept by every write that is of no special register or keeps it there. -/
theorem Thread.written_keeps {α : Type} (f : Thread → α) (hregs : ∀ t, f t.sansRegs = f t) (y : RegWrite)
    (hsp : ∀ n x, y = .sp n x → f (t.spWrite cyc n x) = f t) : f (t.written cyc y) = f t := by
  by_cases h : ∃ n x, y = .sp n x
  · obtain ⟨n, x, rfl⟩ := h
    exact hsp n x rfl
  · rw [← hregs, t.written_sansRegs cyc y fun n x hy => h ⟨n, x, hy⟩, hregs]

/-- Another scalar register keeps its value. -/
theorem Thread.written_x (y : RegWrite) (r : SReg) (h : y.ref ≠ .s r) :
    (t.written cyc y).x.getD r.toNat 0 = t.x.getD r.toNat 0 := by
  fun_cases Thread.written cyc t y with
  | case2 r' x _ _ => exact Map.getD_set_ne _ _ _ _ _ fun he => h (congrArg RegRef.s (BitVec.eq_of_toNat_eq he.symm))
  | case12 r' x _ _ =>
    have hwide : (r'.zeroExtend 7).toNat = r'.toNat := BitVec.toNat_setWidth_of_le (by decide)
    exact Map.getD_set_ne _ _ _ _ _ fun he => h (congrArg RegRef.s (BitVec.eq_of_toNat_eq (hwide.trans he.symm)))
  | case10 n x => rw [Thread.spWrite_eq]
  | _ => rfl

theorem Thread.written_x_self (r : SReg) (v : Word) (hr : r ≠ 0) (hlt : r.toNat < 64) :
    (t.written cyc (.s r v)).x.getD r.toNat 0 = v := by
  simp only [Thread.written, if_neg hr, if_pos hlt, Map.getD_set_self]

/-- Another vector register keeps its lanes. -/
theorem Thread.written_v (y : RegWrite) (r : VReg) (h : y.ref ≠ .v r) :
    (t.written cyc y).v.getD r.toNat (Vec.splat 0) = t.v.getD r.toNat (Vec.splat 0) := by
  fun_cases Thread.written cyc t y with
  | case4 r' x m _ => exact Map.getD_set_ne _ _ _ _ _ fun he => h (congrArg RegRef.v (BitVec.eq_of_toNat_eq he.symm))
  | case10 n x => rw [Thread.spWrite_eq]
  | _ => rfl

theorem Thread.written_v_self (r : VReg) (v : Vec) (m : Mask) (hlt : r.toNat < 16) :
    (t.written cyc (.v r v m)).v.getD r.toNat (Vec.splat 0) = (t.v.getD r.toNat (Vec.splat 0)).merge v m := by
  simp only [Thread.written, if_pos hlt, Map.getD_set_self]

/-- One bit set or cleared among the predicates. -/
theorem getLsbD_setBit (q : BitVec 8) (i j : Nat) (b : Bool) (hj : j < 8) :
    (if b then q ||| (1#8 <<< i) else q &&& ~~~(1#8 <<< i)).getLsbD j = if j = i then b else q.getLsbD j := by
  have hone : (1#8 <<< i).getLsbD j = decide (j = i) := by
    rw [BitVec.getLsbD_shiftLeft, BitVec.getLsbD_one, decide_eq_true hj, Bool.true_and]
    by_cases h : j = i <;> simp [h]
    omega
  cases b with
  | true =>
    rw [if_pos rfl, BitVec.getLsbD_or, hone]
    by_cases h : j = i <;> simp [h]
  | false =>
    rw [if_neg Bool.false_ne_true, BitVec.getLsbD_and, BitVec.getLsbD_not, hone, decide_eq_true hj]
    by_cases h : j = i <;> simp [h]

/-- Another predicate keeps its value. -/
theorem Thread.written_q (y : RegWrite) (r : QReg) (h : y.ref ≠ .q r) :
    (t.written cyc y).q.getLsbD r.toNat = t.q.getLsbD r.toNat := by
  fun_cases Thread.written cyc t y with
  | case7 r' b _ =>
    rw [getLsbD_setBit _ _ _ _ r.isLt, if_neg fun he => h (congrArg RegRef.q (BitVec.eq_of_toNat_eq he.symm))]
  | case10 n x => rw [Thread.spWrite_eq]
  | _ => rfl

theorem Thread.written_q_self (r : QReg) (b : Bool) (hr : r ≠ 0) : (t.written cyc (.q r b)).q.getLsbD r.toNat = b := by
  simp only [Thread.written, if_neg hr]
  rw [getLsbD_setBit _ _ _ _ r.isLt, if_pos rfl]

/-- Another mask keeps its value. -/
theorem Thread.written_k (y : RegWrite) (r : KReg) (h : y.ref ≠ .k r) :
    (t.written cyc y).k.getD r.toNat 0 = t.k.getD r.toNat 0 := by
  fun_cases Thread.written cyc t y with
  | case9 r' m _ => exact Map.getD_set_ne _ _ _ _ _ fun he => h (congrArg RegRef.k (BitVec.eq_of_toNat_eq he.symm))
  | case10 n x => rw [Thread.spWrite_eq]
  | _ => rfl

theorem Thread.written_k_self (r : KReg) (m : Mask) (hr : r ≠ 0) : (t.written cyc (.k r m)).k.getD r.toNat 0 = m := by
  simp only [Thread.written, if_neg hr, Map.getD_set_self]

/-- The PEND tag of another register stays (R232). -/
theorem Thread.written_pend (y : RegWrite) (r : HReg) (h : y.ref ≠ .s (r.zeroExtend 7)) :
    (t.written cyc y).pend.getLsbD r.toNat = t.pend.getLsbD r.toNat := by
  fun_cases Thread.written cyc t y with
  | case12 r' x _ _ =>
    have hne : r.toNat ≠ r'.toNat := fun he => h (by rw [RegWrite.ref, BitVec.eq_of_toNat_eq he])
    have hr : r.toNat < 64 := r.isLt
    rw [BitVec.getLsbD_or, BitVec.getLsbD_shiftLeft, BitVec.getLsbD_one, decide_eq_true hr]
    by_cases hlt : r.toNat < r'.toNat
    · simp [hlt]
    · simp [show ¬(r.toNat - r'.toNat = 0) by omega]
  | case10 n x => rw [Thread.spWrite_eq]
  | _ => rfl

/-- Only the identity of a handle makes a register pending. -/
theorem Thread.written_pend_of_ne (y : RegWrite) (h : ∀ r v, y ≠ .h r v) : (t.written cyc y).pend = t.pend := by
  fun_cases Thread.written cyc t y with
  | case12 r x _ _ => exact absurd rfl (h r x)
  | case10 n x => rw [Thread.spWrite_eq]
  | _ => rfl

/-- The identity of a live entry makes its register pending. -/
theorem Thread.written_h_self (r : HReg) (v : Word) (hr : r ≠ 0) (hfits : identityFits t.handles r v = true) :
    (t.written cyc (.h r v)).x.getD r.toNat 0 = v ∧ (t.written cyc (.h r v)).pend.getLsbD r.toNat = true := by
  simp only [Thread.written, if_neg hr, if_pos hfits, Map.getD_set_self, true_and]
  have hlt : r.toNat < 64 := r.isLt
  rw [BitVec.getLsbD_or, BitVec.getLsbD_shiftLeft, decide_eq_true hlt]
  simp

end

/-! ### Registers of a core -/

/-- Another y register keeps its value. -/
theorem LCore.written_y (c : LCore) (y : RegWrite) (r : SReg) (hr : 64 ≤ r.toNat) (h : y.ref ≠ .s r) :
    (c.written y).y.getD (r.toNat - 64) 0 = c.y.getD (r.toNat - 64) 0 := by
  fun_cases LCore.written c y with
  | case1 r' x _ =>
    have hne : r.toNat ≠ r'.toNat := fun he => h (by rw [RegWrite.ref, BitVec.eq_of_toNat_eq he])
    exact Map.getD_set_ne _ _ _ _ _ (by omega)
  | _ => rfl

theorem LCore.written_y_self (c : LCore) (r : SReg) (v : Word) (hr : 64 ≤ r.toNat) :
    (c.written (.s r v)).y.getD (r.toNat - 64) 0 = v := by
  simp only [LCore.written, if_pos hr, Map.getD_set_self]

/-- Another w register keeps its lanes. -/
theorem LCore.written_w (c : LCore) (y : RegWrite) (r : VReg) (hr : 16 ≤ r.toNat) (h : y.ref ≠ .v r) :
    (c.written y).w.getD (r.toNat - 16) (Vec.splat 0) = c.w.getD (r.toNat - 16) (Vec.splat 0) := by
  fun_cases LCore.written c y with
  | case3 r' x m _ =>
    have hne : r.toNat ≠ r'.toNat := fun he => h (by rw [RegWrite.ref, BitVec.eq_of_toNat_eq he])
    exact Map.getD_set_ne _ _ _ _ _ (by omega)
  | _ => rfl

theorem LCore.written_w_self (c : LCore) (r : VReg) (v : Vec) (m : Mask) (hr : 16 ≤ r.toNat) :
    (c.written (.v r v m)).w.getD (r.toNat - 16) (Vec.splat 0) = (c.w.getD (r.toNat - 16) (Vec.splat 0)).merge v m := by
  simp only [LCore.written, if_pos hr, Map.getD_set_self]

/-- What a vacate saved of a core stands apart from its registers. -/
theorem LCore.written_saved (c : LCore) (y : RegWrite) : (c.written y).saved = c.saved := by
  fun_cases LCore.written c y with
  | _ => rfl

/-! ### Special registers of a thread -/

/-- A thread without what a landing changes beside its special registers. -/
def Thread.outside (t : Thread) : Thread :=
  { t.sansRegs with flags := 0, flagsAt := (0, 0), landings := [], busy := [], window := [] }

/-- The field `f` is special register `k`, which a landed `sets` of `v` gives `val v`. -/
structure Thread.IsSpecial {α : Type} (f : Thread → α) (k : Nat) (val : Word → α) : Prop where
  outside : ∀ t, f t.outside = f t
  spWrite : ∀ t cyc n v, f (t.spWrite cyc n v) = if n = k then val v else f t

section

variable {α : Type} {f : Thread → α} {k : Nat} {val : Word → α} (t : Thread) (cyc id : Nat) (l : Landing)

/-- Of such a field a landing shows the writes alone. -/
theorem Thread.landed_outside (hf : ∀ t, f t.outside = f t) :
    f (t.landed cyc id l) = f (l.writes.foldl (Thread.written cyc) (t.taken id)) :=
  (hf (t.landed cyc id l)).symm.trans (hf (l.writes.foldl (Thread.written cyc) (t.taken id)))

theorem Thread.landed_keeps (hf : ∀ t, f t.outside = f t)
    (hsp : ∀ n x, .sp n x ∈ l.writes → ∀ t, f (t.spWrite cyc n x) = f t) : f (t.landed cyc id l) = f t := by
  rw [t.landed_outside cyc id l hf, foldl_keeps f fun u y hy => u.written_keeps cyc f (fun t => (hf _).symm.trans (hf t)) y
    fun n x he => hsp n x (he ▸ hy) u]
  exact (hf _).symm.trans (hf t)

theorem Thread.IsSpecial.landed (hf : Thread.IsSpecial f k val) {v : Word} (hv : .sp k v ∈ l.writes)
    (hnd : (l.writes.map RegWrite.ref).Nodup) : f (t.landed cyc id l) = val v := by
  rw [t.landed_outside cyc id l hf.outside]
  refine foldl_writes f (g := fun _ => val v) hv hnd (fun u => (hf.spWrite u cyc k v).trans (if_pos rfl)) (fun u y hy => ?_) _
  refine u.written_keeps cyc f (fun t => (hf.outside _).symm.trans (hf.outside t)) y fun n x he => ?_
  subst he
  exact (hf.spWrite u cyc n x).trans (if_neg fun hn => hy (congrArg RegRef.sp hn))

theorem Thread.IsSpecial.landed_of_notMem (hf : Thread.IsSpecial f k val) (hk : .sp k ∉ l.writes.map RegWrite.ref) :
    f (t.landed cyc id l) = f t :=
  t.landed_keeps cyc id l hf.outside fun n x hx u =>
    (hf.spWrite u cyc n x).trans (if_neg fun hn => hk (by rw [← hn]; exact List.mem_map_of_mem (f := RegWrite.ref) hx))

end

theorem ten_isSpecial : Thread.IsSpecial Thread.ten 0x007 (·.truncate 7) :=
  ⟨fun _ => rfl, fun t c n v => congrArg Thread.ten (t.spWrite_eq c n v)⟩
theorem geom0_isSpecial : Thread.IsSpecial Thread.geom0 0x009 id :=
  ⟨fun _ => rfl, fun t c n v => congrArg Thread.geom0 (t.spWrite_eq c n v)⟩
theorem geom1_isSpecial : Thread.IsSpecial Thread.geom1 0x00A (·.truncate 48) :=
  ⟨fun _ => rfl, fun t c n v => congrArg Thread.geom1 (t.spWrite_eq c n v)⟩
theorem dns_isSpecial : Thread.IsSpecial Thread.dns 0x00C id :=
  ⟨fun _ => rfl, fun t c n v => congrArg Thread.dns (t.spWrite_eq c n v)⟩
theorem ups_isSpecial : Thread.IsSpecial Thread.ups 0x00D id :=
  ⟨fun _ => rfl, fun t c n v => congrArg Thread.ups (t.spWrite_eq c n v)⟩
theorem stg_isSpecial : Thread.IsSpecial Thread.stg 0x00E id :=
  ⟨fun _ => rfl, fun t c n v => congrArg Thread.stg (t.spWrite_eq c n v)⟩
theorem mdrop_isSpecial : Thread.IsSpecial Thread.mdrop 0x012 (·.truncate 32) :=
  ⟨fun _ => rfl, fun t c n v => congrArg Thread.mdrop (t.spWrite_eq c n v)⟩
theorem epc_isSpecial : Thread.IsSpecial Thread.epc 0x800 id :=
  ⟨fun _ => rfl, fun t c n v => congrArg Thread.epc (t.spWrite_eq c n v)⟩
theorem ecause_isSpecial : Thread.IsSpecial Thread.ecause 0x801 (· &&& 0x1FF) :=
  ⟨fun _ => rfl, fun t c n v => congrArg Thread.ecause (t.spWrite_eq c n v)⟩
theorem eaddr_isSpecial : Thread.IsSpecial Thread.eaddr 0x802 id :=
  ⟨fun _ => rfl, fun t c n v => congrArg Thread.eaddr (t.spWrite_eq c n v)⟩
theorem einfo_isSpecial : Thread.IsSpecial Thread.einfo 0x803 id :=
  ⟨fun _ => rfl, fun t c n v => congrArg Thread.einfo (t.spWrite_eq c n v)⟩
theorem tvec_isSpecial : Thread.IsSpecial Thread.tvec 0x804 id :=
  ⟨fun _ => rfl, fun t c n v => congrArg Thread.tvec (t.spWrite_eq c n v)⟩
theorem svec_isSpecial : Thread.IsSpecial Thread.svec 0x805 id :=
  ⟨fun _ => rfl, fun t c n v => congrArg Thread.svec (t.spWrite_eq c n v)⟩
theorem pstate_isSpecial : Thread.IsSpecial Thread.pstate 0x806 (·.truncate 4) :=
  ⟨fun _ => rfl, fun t c n v => congrArg Thread.pstate (t.spWrite_eq c n v)⟩
theorem vbase_isSpecial : Thread.IsSpecial Thread.vbase 0x807 (· &&& 0x000FFFFFFFFF0000) :=
  ⟨fun _ => rfl, fun t c n v => congrArg Thread.vbase (t.spWrite_eq c n v)⟩
theorem jepc_isSpecial : Thread.IsSpecial Thread.jepc 0x808 id :=
  ⟨fun _ => rfl, fun t c n v => congrArg Thread.jepc (t.spWrite_eq c n v)⟩
theorem jcause_isSpecial : Thread.IsSpecial Thread.jcause 0x809 (· &&& 0xFF) :=
  ⟨fun _ => rfl, fun t c n v => congrArg Thread.jcause (t.spWrite_eq c n v)⟩
theorem jaddr_isSpecial : Thread.IsSpecial Thread.jaddr 0x80A id :=
  ⟨fun _ => rfl, fun t c n v => congrArg Thread.jaddr (t.spWrite_eq c n v)⟩
theorem jinfo_isSpecial : Thread.IsSpecial Thread.jinfo 0x80B id :=
  ⟨fun _ => rfl, fun t c n v => congrArg Thread.jinfo (t.spWrite_eq c n v)⟩

/-- The special registers that no `sets` changes: those that show the thread, its place, its job and its queues, and the numbers
that name none (R116, R367, R368). -/
abbrev readOnlySp (n : Nat) : Prop :=
  n ∈ [0x000, 0x001, 0x002, 0x003, 0x004, 0x005, 0x008, 0x00B, 0x00F, 0x010, 0x011] ∨ (0x012 < n ∧ n < 0x800) ∨ 0x80B < n

section

variable (t : Thread) (cyc id : Nat) (l : Landing)

/-- FLAGS and what stands beside it. -/
def Thread.status (t : Thread) : FlagBits × FlagBits × Nat × FlagBits := (t.flags, t.reported, t.flagsAt)

/-- What a landed `sets` of FLAGS makes of them (R138, R139). -/
def statusWritten (cyc : Nat) (v : Word) : FlagBits × FlagBits × Nat × FlagBits → FlagBits × FlagBits × Nat × FlagBits
  | (_, rep, at_) => (v.truncate 7 ||| (if at_.1 = cyc then at_.2 else 0), rep &&& v.truncate 7, at_)

theorem Thread.written_status (y : RegWrite) (h : y.ref ≠ .sp 0x006) : (t.written cyc y).status = t.status := by
  refine t.written_keeps cyc Thread.status (fun _ => rfl) y fun n x he => ?_
  have hn : n ≠ 0x006 := fun hn => h (by rw [he, hn]; rfl)
  rw [Thread.spWrite_eq, Thread.status, if_neg hn, if_neg hn, Thread.status]

/-- The result is on its way no more; the others are. -/
theorem Thread.landed_landings : (t.landed cyc id l).landings = t.landings.filter fun x => x.id != id :=
  foldl_keeps Thread.landings (fun u y _ =>
    u.written_keeps cyc Thread.landings (fun _ => rfl) y fun n x _ => by rw [u.spWrite_eq]) _

theorem Thread.landed_status_of_mem {v : Word} (hv : .sp 0x006 v ∈ l.writes) (hnd : (l.writes.map RegWrite.ref).Nodup) :
    (t.landed cyc id l).flags = (v.truncate 7 ||| (if t.flagsAt.1 = cyc then t.flagsAt.2 else 0) ||| l.flags) ∧
      (t.landed cyc id l).reported = (t.reported &&& v.truncate 7) := by
  have h := foldl_writes Thread.status (g := statusWritten cyc v) hv hnd
    (fun u => congrArg Thread.status (u.spWrite_eq cyc 0x006 v)) (fun u y hy => u.written_status cyc y hy) (t.taken id)
  obtain ⟨hflags, hrest⟩ := Prod.mk.inj h
  exact ⟨congrArg (· ||| l.flags) hflags, (Prod.mk.inj hrest).1⟩

theorem Thread.landed_status_of_notMem (hnot : ∀ v, .sp 0x006 v ∉ l.writes) :
    (t.landed cyc id l).flags = (t.flags ||| l.flags) ∧ (t.landed cyc id l).reported = t.reported := by
  have h := foldl_keeps Thread.status (fun u y hy => u.written_status cyc y fun hr => by
    cases y with
    | sp n v => exact hnot v (by cases hr; exact hy)
    | _ => cases hr) (t.taken id)
  obtain ⟨hflags, hrest⟩ := Prod.mk.inj h
  exact ⟨congrArg (· ||| l.flags) hflags, (Prod.mk.inj hrest).1⟩

end

/-! ### What a landing shows in the state -/

section

variable {s : State} {w : Tid} {id : Nat} {l : Landing} (hl : (s.thread w).landings.find? (fun l => l.id == id) = some l)

include hl

/-- What no register, special register or result on its way is a part of stays. -/
theorem State.landNow_outside {α : Type} (f : Thread → α) (hf : ∀ t, f t.outside = f t)
    (hsp : ∀ t c n x, f (Thread.spWrite t c n x) = f t) : f ((s.landNow w id).thread w) = f (s.thread w) :=
  (congrArg f (s.landNow_changes w id l hl).self).trans (Thread.landed_keeps _ _ _ _ hf fun n x _ t => hsp t s.cyc n x)

/-- So does a special register that the result does not write. -/
theorem State.landNow_special_keeps {α : Type} {f : Thread → α} {k : Nat} {val : Word → α} (hf : Thread.IsSpecial f k val)
    (hk : .sp k ∉ l.writes.map RegWrite.ref) : f ((s.landNow w id).thread w) = f (s.thread w) :=
  (congrArg f (s.landNow_changes w id l hl).self).trans (hf.landed_of_notMem _ _ _ _ hk)

theorem State.landNow_saved (j i : Nat) : ((s.landNow w id).core j i).saved = (s.core j i).saved := by
  have hc := s.landNow_changes w id l hl
  by_cases h : (j, i) = (w.job, w.lcn)
  · obtain ⟨rfl, rfl⟩ := Prod.mk.inj h
    exact (congrArg LCore.saved hc.core).trans (foldl_keeps LCore.saved (fun c y _ => c.written_saved y) _)
  · exact hc.coreField LCore.saved (fun _ => rfl) h

theorem State.landNow_seat (j c : Nat) : (s.landNow w id).seat j c = s.seat j c := by
  have hc := s.landNow_changes w id l hl
  have hlcn := hc.jobField (fun b => b.lcnOf c 0) (fun _ => rfl) j
  unfold State.seat State.pcore
  simp only [hc.pclus, hc.pcores, hlcn, State.landNow_saved hl]

/-- A special register that the result does not write reads as before, but for FLAGS, which gains the result's flags. -/
theorem State.landNow_spRead (n : Nat) (hn : n ≠ 0x006) (h : ¬readOnlySp n → .sp n ∉ l.writes.map RegWrite.ref) :
    (s.landNow w id).spRead w n = s.spRead w n := by
  have hc := s.landNow_changes w id l hl
  have hjob := hc.jobs w.job
  simp only [Job.bare, Job.mk.injEq] at hjob
  unfold State.spRead
  split
  case h_8 => exact congrArg (BitVec.zeroExtend 64) (State.landNow_special_keeps hl ten_isSpecial (h (by decide)))
  case h_10 => exact State.landNow_special_keeps hl geom0_isSpecial (h (by decide))
  case h_11 => exact congrArg (BitVec.zeroExtend 64) (State.landNow_special_keeps hl geom1_isSpecial (h (by decide)))
  case h_13 => exact State.landNow_special_keeps hl dns_isSpecial (h (by decide))
  case h_14 => exact State.landNow_special_keeps hl ups_isSpecial (h (by decide))
  case h_15 => exact State.landNow_special_keeps hl stg_isSpecial (h (by decide))
  case h_19 => exact congrArg (BitVec.zeroExtend 64) (State.landNow_special_keeps hl mdrop_isSpecial (h (by decide)))
  case h_20 => exact State.landNow_special_keeps hl epc_isSpecial (h (by decide))
  case h_21 => exact State.landNow_special_keeps hl ecause_isSpecial (h (by decide))
  case h_22 => exact State.landNow_special_keeps hl eaddr_isSpecial (h (by decide))
  case h_23 => exact State.landNow_special_keeps hl einfo_isSpecial (h (by decide))
  case h_24 => exact State.landNow_special_keeps hl tvec_isSpecial (h (by decide))
  case h_25 => exact State.landNow_special_keeps hl svec_isSpecial (h (by decide))
  case h_26 => exact congrArg (BitVec.zeroExtend 64) (State.landNow_special_keeps hl pstate_isSpecial (h (by decide)))
  case h_27 => exact State.landNow_special_keeps hl vbase_isSpecial (h (by decide))
  case h_28 => exact State.landNow_special_keeps hl jepc_isSpecial (h (by decide))
  case h_29 => exact State.landNow_special_keeps hl jcause_isSpecial (h (by decide))
  case h_30 => exact State.landNow_special_keeps hl jaddr_isSpecial (h (by decide))
  case h_31 => exact State.landNow_special_keeps hl jinfo_isSpecial (h (by decide))
  case h_7 => exact absurd rfl hn -- FLAGS
  case h_9 => -- ORD
    exact congrArg (BitVec.zeroExtend 64) (State.landNow_outside hl (fun t => t.ordRound ++ t.ordLink) (fun _ => rfl)
      fun t c n x => by rw [t.spWrite_eq])
  case h_17 => -- MQS
    exact congrArg mqStatus (State.landNow_outside hl (fun t => t.mq.length) (fun _ => rfl) fun t c n x => by rw [t.spWrite_eq])
  case h_18 => -- SLOG
    exact State.landNow_outside hl Thread.slog (fun _ => rfl) fun t c n x => by rw [t.spWrite_eq]
  all_goals simp only [State.seg, State.foldG, State.landNow_seat hl, hc.cyc, Job.cluOf, Job.memOf, Job.xOf, Job.yOf, hjob]

end

/-! ### Registers after a landing -/

/-- The field `f` of a thread is register `x`: the writes of a landing alone change it, and of these only one of `x`. -/
structure Thread.IsRegister {α : Type} (f : Thread → α) (x : RegRef) : Prop where
  landed : ∀ t cyc id l, f (Thread.landed cyc id l t) = f (l.writes.foldl (Thread.written cyc) (t.taken id))
  taken : ∀ t id, f (Thread.taken id t) = f t
  written : ∀ t cyc y, y.ref ≠ x → f (Thread.written cyc t y) = f t

/-- The field `f` of a core is register `x`. -/
structure LCore.IsRegister {α : Type} (f : LCore → α) (x : RegRef) : Prop where
  bare : ∀ c, f c = f c.bare
  written : ∀ c y, y.ref ≠ x → f (LCore.written c y) = f c

theorem x_isRegister (r : SReg) : Thread.IsRegister (fun t => t.x.getD r.toNat 0) (.s r) :=
  ⟨fun _ _ _ _ => rfl, fun _ _ => rfl, fun t cyc y => t.written_x cyc y r⟩
theorem v_isRegister (r : VReg) : Thread.IsRegister (fun t => t.v.getD r.toNat (Vec.splat 0)) (.v r) :=
  ⟨fun _ _ _ _ => rfl, fun _ _ => rfl, fun t cyc y => t.written_v cyc y r⟩
theorem q_isRegister (r : QReg) : Thread.IsRegister (fun t => t.q.getLsbD r.toNat) (.q r) :=
  ⟨fun _ _ _ _ => rfl, fun _ _ => rfl, fun t cyc y => t.written_q cyc y r⟩
theorem k_isRegister (r : KReg) : Thread.IsRegister (fun t => t.k.getD r.toNat 0) (.k r) :=
  ⟨fun _ _ _ _ => rfl, fun _ _ => rfl, fun t cyc y => t.written_k cyc y r⟩
theorem y_isRegister {r : SReg} (hr : 64 ≤ r.toNat) : LCore.IsRegister (fun c => c.y.getD (r.toNat - 64) 0) (.s r) :=
  ⟨fun _ => rfl, fun c y => c.written_y y r hr⟩
theorem w_isRegister {r : VReg} (hr : 16 ≤ r.toNat) : LCore.IsRegister (fun c => c.w.getD (r.toNat - 16) (Vec.splat 0)) (.v r) :=
  ⟨fun _ => rfl, fun c y => c.written_w y r hr⟩

/-- The lanes that a mask names (R161). -/
theorem merge_getElem (old x : Vec) (m : Mask) (i : Fin 64) : (old.merge x m)[i] = if m.getLsbD i then x[i] else old[i] :=
  Vec.getElem_ofFn _ i

/-! #### The register of a handle (R232) -/

/-- The handle table, and what a thread shows of a register that can hold a handle. -/
def Thread.handleView (r : HReg) (t : Thread) : Map HEntry × Word × Bool :=
  (t.handles, t.x.getD r.toNat 0, t.pend.getLsbD r.toNat)

/-- What an identity makes of them. -/
def identityWritten (r : HReg) (v : Word) (p : Map HEntry × Word × Bool) : Map HEntry × Word × Bool :=
  if identityFits p.1 r v then (p.1, v, true) else p

theorem zeroExtend_toNat (r : HReg) : (r.zeroExtend 7).toNat = r.toNat := BitVec.toNat_setWidth_of_le (by decide)

theorem Thread.written_handles (t : Thread) (cyc : Nat) (y : RegWrite) : (t.written cyc y).handles = t.handles :=
  t.written_keeps cyc Thread.handles (fun _ => rfl) y fun n x _ => by rw [t.spWrite_eq]

theorem handleView_isRegister (r : HReg) : Thread.IsRegister (Thread.handleView r) (.s (r.zeroExtend 7)) where
  landed := fun _ _ _ _ => rfl
  taken := fun _ _ => rfl
  written := fun t cyc y hy => by
    have hx := t.written_x cyc y _ hy
    rw [zeroExtend_toNat] at hx
    rw [Thread.handleView, t.written_handles, hx, t.written_pend cyc y r hy, Thread.handleView]

theorem Thread.written_handleView (t : Thread) (cyc : Nat) {r : HReg} (v : Word) (hr : r ≠ 0) :
    (t.written cyc (.h r v)).handleView r = identityWritten r v (t.handleView r) := by
  rw [Thread.handleView, t.written_handles, identityWritten]
  split
  next hfits =>
    obtain ⟨hx, hp⟩ := t.written_h_self cyc r v hr hfits
    rw [hx, hp, Thread.handleView]
  next hfits => simp only [Thread.written, if_neg hr, Thread.handleView] at hfits ⊢; rw [if_neg hfits]

section

variable {s : State} {w : Tid} {id : Nat} {l : Landing} (hl : (s.thread w).landings.find? (fun l => l.id == id) = some l)
  {α : Type} {x : RegRef}

include hl

theorem State.landNow_thread_keeps {f : Thread → α} (hf : Thread.IsRegister f x) {v : Tid}
    (h : x ∉ l.writes.map RegWrite.ref ∨ v ≠ w) : f ((s.landNow w id).thread v) = f (s.thread v) := by
  have hc := s.landNow_changes w id l hl
  by_cases hv : v = w
  · subst hv
    have hx := h.resolve_right (· rfl)
    rw [hc.self, hf.landed, foldl_keeps f (fun t y hy => hf.written t _ y fun he => hx (he ▸ List.mem_map_of_mem hy)), hf.taken]
  · rw [hc.others v hv]

theorem State.landNow_core_keeps {f : LCore → α} (hf : LCore.IsRegister f x) {v : Tid}
    (h : x ∉ l.writes.map RegWrite.ref ∨ ¬(v.job = w.job ∧ v.lcn = w.lcn)) :
    f ((s.landNow w id).core v.job v.lcn) = f (s.core v.job v.lcn) := by
  have hc := s.landNow_changes w id l hl
  by_cases hv : v.job = w.job ∧ v.lcn = w.lcn
  · have hx := h.resolve_right (not_not_intro hv)
    rw [hv.1, hv.2, hf.bare, hc.core, foldl_keeps f (fun c y hy => hf.written c y fun he => hx (he ▸ List.mem_map_of_mem hy)),
      ← hf.bare]
  · exact hc.coreField f hf.bare fun he => hv (Prod.mk.inj he)

variable (hnd : (l.writes.map RegWrite.ref).Nodup) {y : RegWrite} (hy : y ∈ l.writes)

include hnd hy

theorem State.landNow_thread_written {f : Thread → α} (hf : Thread.IsRegister f y.ref) {g : α → α}
    (hg : ∀ t cyc, f (Thread.written cyc t y) = g (f t)) : f ((s.landNow w id).thread w) = g (f (s.thread w)) := by
  rw [(s.landNow_changes w id l hl).self, hf.landed, foldl_writes f hy hnd (fun t => hg t _) (fun t z => hf.written t _ z),
    hf.taken]

theorem State.landNow_core_written {f : LCore → α} (hf : LCore.IsRegister f y.ref) {g : α → α}
    (hg : ∀ c, f (LCore.written c y) = g (f c)) {u : Tid} (hjob : u.job = w.job) (hlcn : u.lcn = w.lcn) :
    f ((s.landNow w id).core u.job u.lcn) = g (f (s.core u.job u.lcn)) := by
  rw [hjob, hlcn, hf.bare, (s.landNow_changes w id l hl).core, foldl_writes f hy hnd hg hf.written, ← hf.bare]

end

section

variable {s : State} {w : Tid} {id : Nat} {l : Landing} (hl : (s.thread w).landings.find? (fun l => l.id == id) = some l)

include hl

/-! #### What stays -/

theorem State.landNow_rd_keeps {v : Tid} {r : SReg}
    (h : .s r ∉ l.writes.map RegWrite.ref ∨ (v ≠ w ∧ r.toNat < 64) ∨ ¬(v.job = w.job ∧ v.lcn = w.lcn)) :
    (s.landNow w id).rd v r = s.rd v r := by
  by_cases hlt : r.toNat < 64
  · have hown := State.landNow_thread_keeps hl (x_isRegister r) (v := v)
      (h.imp_right fun h => h.elim And.left fun hcore he => hcore (he ▸ ⟨rfl, rfl⟩))
    simp only [State.rd, if_pos hlt, hown]
  · have hshared := State.landNow_core_keeps hl (y_isRegister (Nat.le_of_not_lt hlt)) (v := v)
      (h.imp_right fun h => h.resolve_left fun hthread => hlt hthread.2)
    simp only [State.rd, if_neg hlt, hshared]

theorem State.landNow_rdV_keeps {v : Tid} {r : VReg}
    (h : .v r ∉ l.writes.map RegWrite.ref ∨ (v ≠ w ∧ r.toNat < 16) ∨ ¬(v.job = w.job ∧ v.lcn = w.lcn)) :
    (s.landNow w id).rdV v r = s.rdV v r := by
  by_cases hlt : r.toNat < 16
  · have hown := State.landNow_thread_keeps hl (v_isRegister r) (v := v)
      (h.imp_right fun h => h.elim And.left fun hcore he => hcore (he ▸ ⟨rfl, rfl⟩))
    simp only [State.rdV, if_pos hlt, hown]
  · have hshared := State.landNow_core_keeps hl (w_isRegister (Nat.le_of_not_lt hlt)) (v := v)
      (h.imp_right fun h => h.resolve_left fun hthread => hlt hthread.2)
    simp only [State.rdV, if_neg hlt, hshared]

theorem State.landNow_rdQ_keeps {v : Tid} {r : QReg} (h : .q r ∉ l.writes.map RegWrite.ref ∨ v ≠ w) :
    (s.landNow w id).rdQ v r = s.rdQ v r := by
  rw [State.rdQ, State.rdQ, State.landNow_thread_keeps hl (q_isRegister r) h]

theorem State.landNow_rdK_keeps {v : Tid} {r : KReg} (h : .k r ∉ l.writes.map RegWrite.ref ∨ v ≠ w) :
    (s.landNow w id).rdK v r = s.rdK v r := by
  rw [State.rdK, State.rdK, State.landNow_thread_keeps hl (k_isRegister r) h]

/-- Without the identity of a handle no register becomes pending. -/
theorem State.landNow_pend_keeps (h : ∀ r v, .h r v ∉ l.writes) : ((s.landNow w id).thread w).pend = (s.thread w).pend := by
  rw [(s.landNow_changes w id l hl).self]
  exact foldl_keeps Thread.pend (fun t y hy => t.written_pend_of_ne s.cyc y fun r v he => h r v (he ▸ hy)) _

/-! #### What is written -/

variable (hnd : (l.writes.map RegWrite.ref).Nodup)

include hnd

theorem State.landNow_rd_shared {u : Tid} (hjob : u.job = w.job) (hlcn : u.lcn = w.lcn) {r : SReg} {v : Word}
    (hv : .s r v ∈ l.writes) (hr : 64 ≤ r.toNat) : (s.landNow w id).rd u r = v := by
  have hne : r ≠ 0 := fun he => absurd hr (by rw [he]; decide)
  have hshared := State.landNow_core_written hl hnd hv (y_isRegister hr) (g := fun _ => v) (fun c => c.written_y_self r v hr)
    hjob hlcn
  simp only [State.rd, if_neg hne, if_neg (Nat.not_lt.2 hr), hshared]

/-- x0 is never written (R39). -/
theorem State.landNow_rd_written {r : SReg} {v : Word} (hv : .s r v ∈ l.writes) :
    (s.landNow w id).rd w r = if r = 0 then 0 else v := by
  by_cases hr : r = 0
  · rw [State.rd, if_pos hr, if_pos hr]
  rw [if_neg hr]
  by_cases hlt : r.toNat < 64
  · have hown := State.landNow_thread_written hl hnd hv (x_isRegister r) (g := fun _ => v)
      fun t cyc => t.written_x_self cyc r v hr hlt
    simp only [State.rd, if_neg hr, if_pos hlt, hown]
  · exact State.landNow_rd_shared hl hnd rfl rfl hv (Nat.le_of_not_lt hlt)

theorem State.landNow_rdV_shared {u : Tid} (hjob : u.job = w.job) (hlcn : u.lcn = w.lcn) {r : VReg} {v : Vec} {m : Mask}
    (hv : .v r v m ∈ l.writes) (hr : 16 ≤ r.toNat) : (s.landNow w id).rdV u r = (s.rdV u r).merge v m := by
  have hshared := State.landNow_core_written hl hnd hv (w_isRegister hr) (g := fun old => old.merge v m)
    (fun c => c.written_w_self r v m hr) hjob hlcn
  simp only [State.rdV, if_neg (Nat.not_lt.2 hr), hshared]

theorem State.landNow_rdV_written {r : VReg} {v : Vec} {m : Mask} (hv : .v r v m ∈ l.writes) :
    (s.landNow w id).rdV w r = (s.rdV w r).merge v m := by
  by_cases hlt : r.toNat < 16
  · have hown := State.landNow_thread_written hl hnd hv (v_isRegister r) (g := fun old => old.merge v m)
      fun t cyc => t.written_v_self cyc r v m hlt
    simp only [State.rdV, if_pos hlt, hown]
  · exact State.landNow_rdV_shared hl hnd rfl rfl hv (Nat.le_of_not_lt hlt)

theorem State.landNow_rdQ_written {r : QReg} {b : Bool} (hb : .q r b ∈ l.writes) :
    (s.landNow w id).rdQ w r = if r = 0 then true else b := by
  by_cases hr : r = 0
  · rw [State.rdQ, if_pos hr, beq_iff_eq.2 hr, Bool.true_or]
  · rw [State.rdQ, if_neg hr, beq_eq_false_iff_ne.2 hr, Bool.false_or]
    exact State.landNow_thread_written hl hnd hb (q_isRegister r) (g := fun _ => b) fun t cyc => t.written_q_self cyc r b hr

theorem State.landNow_rdK_written {r : KReg} {m : Mask} (hm : .k r m ∈ l.writes) :
    (s.landNow w id).rdK w r = if r = 0 then BitVec.allOnes 64 else m := by
  by_cases hr : r = 0
  · rw [State.rdK, if_pos hr, if_pos hr]
  · rw [State.rdK, if_neg hr, if_neg hr]
    exact State.landNow_thread_written hl hnd hm (k_isRegister r) (g := fun _ => m) fun t cyc => t.written_k_self cyc r m hr

theorem State.landNow_special {α : Type} {f : Thread → α} {k : Nat} {val : Word → α} (hf : Thread.IsSpecial f k val)
    {v : Word} (hv : .sp k v ∈ l.writes) : f ((s.landNow w id).thread w) = val v :=
  (congrArg f (s.landNow_changes w id l hl).self).trans (hf.landed _ _ _ _ hv hnd)

/-- The identity of a live entry stands in its register, which is pending (R232). -/
theorem State.landNow_handle {r : HReg} {v : Word} {e : HEntry} (hv : .h r v ∈ l.writes) (hr : r ≠ 0)
    (he : (s.thread w).handles.get? (v.toNat % 32) = some e) (hreg : e.reg = r) (hseq : e.seq = v.toNat / 2 ^ 32 % 65536) :
    (s.landNow w id).rd w (r.zeroExtend 7) = v ∧ (s.landNow w id).pending w r = true := by
  have hview := State.landNow_thread_written hl hnd hv (handleView_isRegister r) fun t cyc => t.written_handleView cyc v hr
  have hfits : identityFits ((s.thread w).handleView r).1 r v = true := by
    simp only [identityFits, Thread.handleView, he, Option.any_some, hreg, hseq, decide_true, Bool.and_self]
  rw [identityWritten, if_pos hfits] at hview
  obtain ⟨-, hrest⟩ := Prod.mk.inj hview
  obtain ⟨hx, hp⟩ := Prod.mk.inj hrest
  have hne : r.zeroExtend 7 ≠ 0 := fun h0 => hr (BitVec.eq_of_toNat_eq (by rw [← zeroExtend_toNat, h0]; rfl))
  refine ⟨?_, hp⟩
  rw [State.rd, if_neg hne, zeroExtend_toNat, if_pos r.isLt, hx]

end

/-! ### The obligation -/

/-- A mask of n ones keeps bits [n-1:0]. -/
theorem and_low_ones (n : Nat) (v : Word) : v &&& BitVec.ofNat 64 (2 ^ n - 1) = (v.extractLsb' 0 n).zeroExtend 64 := by
  apply BitVec.eq_of_getLsbD_eq
  intro i hi
  rw [BitVec.getLsbD_and, BitVec.getLsbD_ofNat, Nat.testBit_two_pow_sub_one, BitVec.zeroExtend, BitVec.getLsbD_setWidth,
    BitVec.getLsbD_extractLsb', decide_eq_true hi, Nat.zero_add, Bool.true_and, Bool.true_and, Bool.and_comm]

/-- Settles O40: each register that the result names is as its one write leaves it, and what it does not name is as before. -/
theorem resultLands : Obligations.ResultLands := by
  intro s w id
  refine ⟨fun hnone => congrArg _ (s.landNow_stale w id (List.find?_eq_none.2 fun l h => by simpa using hnone l h)),
    fun l hl hnd => ⟨s.landNow w id, rfl, ?_⟩⟩
  have hc := s.landNow_changes w id l hl
  have special {α : Type} {f : Thread → α} {k : Nat} {val : Word → α} (hf : Thread.IsSpecial f k val) (v : Word)
      (hv : .sp k v ∈ l.writes) : f ((s.landNow w id).thread w) = val v := State.landNow_special hl hnd hf hv
  refine ⟨fun r v => State.landNow_rd_written hl hnd, fun r v m hv i => ?_, fun r b => State.landNow_rdQ_written hl hnd,
    fun r m => State.landNow_rdK_written hl hnd, fun v hv => ?_, fun hnot => ?_,
    special ten_isSpecial, special geom0_isSpecial, special geom1_isSpecial, special mdrop_isSpecial, special epc_isSpecial,
    fun v hv => (special ecause_isSpecial v hv).trans (and_low_ones 9 v), special eaddr_isSpecial, special einfo_isSpecial,
    special tvec_isSpecial, special svec_isSpecial, special vbase_isSpecial, special jepc_isSpecial,
    fun v hv => (special jcause_isSpecial v hv).trans (and_low_ones 8 v), special jaddr_isSpecial, special jinfo_isSpecial,
    fun n hn => ?_, special pstate_isSpecial,
    fun u hjob hlcn => ⟨fun r v hv hr => State.landNow_rd_shared hl hnd hjob hlcn hv hr, fun r v m hv hr i => ?_⟩,
    fun v r => State.landNow_rd_keeps hl, fun v r => State.landNow_rdV_keeps hl, fun v q => State.landNow_rdQ_keeps hl,
    fun v k => State.landNow_rdK_keeps hl, fun n hn hne => State.landNow_spRead hl n hne fun _ => hn, hc.others,
    State.landNow_outside hl Thread.pc (fun _ => rfl) fun t c n x => by rw [t.spWrite_eq], State.landNow_pend_keeps hl,
    fun r v e hv hr he hreg hseq => State.landNow_handle hl hnd hv hr he hreg hseq, fun x hx => ?_, fun x hx => ?_, fun x hx => ?_,
    hc.pool, hc.host, hc.pcores, hc.agenda, hc.cyc⟩
  · rw [State.landNow_rdV_written hl hnd hv, merge_getElem]
  · rw [hc.self]
    exact Thread.landed_status_of_mem _ _ _ _ hv hnd
  · rw [hc.self]
    exact Thread.landed_status_of_notMem _ _ _ _ hnot
  · exact State.landNow_spRead hl n (by rintro rfl; exact absurd hn (by decide)) fun h => absurd hn h
  · rw [State.landNow_rdV_shared hl hnd hjob hlcn hv hr, merge_getElem]
  · rw [hc.self, Thread.landed_landings, List.mem_filter] at hx
    simpa using hx.2
  · rw [hc.self] at hx
    simpa using (List.mem_filter.1 hx).2
  · rw [hc.self] at hx
    simpa using (List.mem_filter.1 hx).2

end Sys2Proof.Machine

/-!
PROOFS. The special registers (R116, R118): obligation O23.
-/

namespace Sys2Proof.Machine

/-- The bits of MQS above the count, in their order (R226). -/
theorem mqStatus_eq (n : Nat) : mqStatus n = w64 (n + (if n = 16 then 32 else 0) + (if n = 0 then 64 else 0)) :=
  congrArg w64 (by omega)

/-- Settles O23: `spRead` gives every number its fields as the rules list them; MQS alone it adds up in another order. -/
theorem specialRegisters : Obligations.SpecialRegisters := by
  intro s g d a imm hon w t b n x y mq hpriv
  have hopen : ¬(decide (0x800 ≤ n) && !t.priv) = true := by
    rw [Bool.and_eq_true, decide_eq_true_iff, Bool.not_eq_true']
    rintro ⟨hn, hp⟩
    exact hpriv.elim (fun h => absurd hn (Nat.not_le_of_lt h)) fun h => Bool.false_ne_true (hp.symm.trans h)
  refine ⟨State.exec_of_guardOn hon (i := .gets g d imm) rfl ((if_neg hopen).trans (congrArg (s.result 8 d) ?_)),
    State.exec_of_guardOn hon (i := .sets g a imm) rfl ((if_neg hopen).trans ?_)⟩
  · unfold State.spRead
    simp only [mqStatus_eq]
    rfl
  · simp only [Bool.and_eq_true, decide_eq_true_iff]
    rfl

end Sys2Proof.Machine

/-!
PROOFS. The waits of `sleep` and `syncf`, their bounds, and what ends a `syncf` before its bound (R110, R125): obligation O25.
-/

namespace Sys2Proof.Machine

/-! ### Registers under a change of one thread -/

/-- A change of a thread that leaves its registers leaves every register. -/
theorem State.sameRegs.ofModThread (s : State) (w : Tid) (f : Thread → Thread) (hx : (f (s.thread w)).x = (s.thread w).x)
    (hv : (f (s.thread w)).v = (s.thread w).v) (hq : (f (s.thread w)).q = (s.thread w).q)
    (hk : (f (s.thread w)).k = (s.thread w).k) :
    s.sameRegs (s.modThread w f) := by
  intro u
  by_cases hu : u = w
  · subst hu
    simp only [State.rd, State.rdV, State.rdQ, State.rdK, State.modThread_thread_self, State.modThread_core_y,
      State.modThread_core_w, hx, hv, hq, hk, implies_true, and_self]
  · simp only [State.rd, State.rdV, State.rdQ, State.rdK, State.modThread_thread_ne _ _ _ _ hu, State.modThread_core_y,
      State.modThread_core_w, implies_true, and_self]

theorem State.sameRegs.trans {s t u : State} (h : s.sameRegs t) (k : t.sameRegs u) : s.sameRegs u := by
  intro v
  obtain ⟨hx, hv, hq, hk⟩ := h v
  obtain ⟨kx, kv, kq, kk⟩ := k v
  exact ⟨fun r => (kx r).trans (hx r), fun r => (kv r).trans (hv r), fun r => (kq r).trans (hq r), fun r => (kk r).trans (hk r)⟩

/-! ### A stall, and its end -/

/-- A stall changes no register. -/
theorem State.stallFor_sameRegs (s : State) (w : Tid) (c : Stall) : s.sameRegs (s.stallFor w c) :=
  State.sameRegs.ofModThread s w _ rfl rfl rfl rfl

theorem State.stallFor_thread (s : State) (w : Tid) (c : Stall) :
    (s.stallFor w c).thread w = { s.thread w with stall := some c, stamp := (s.thread w).stamp + 1 } :=
  s.modThread_thread_self w _

/-- The stall takes the stamp after the thread's own; the passage to the next instruction takes none (log 7). -/
theorem State.advance_stallFor_stamp (s : State) (w : Tid) (c : Stall) :
    (((s.advance w).stallFor w c).thread w).stamp = (s.thread w).stamp + 1 := by
  rw [State.stallFor_thread, State.advance_thread]

/-- The state that a `sleep` of `n` cycles leaves. -/
def State.slept (s : State) (w : Tid) (n : Nat) : State :=
  ((s.advance w).stallFor w (.sleep (s.cyc + n))).later n (.sleepExpiry w ((s.thread w).stamp + 1))

theorem State.slept_thread (s : State) (w : Tid) (n : Nat) : (s.slept w n).thread w =
    { s.thread w with pc := (s.thread w).pc + 12, stall := some (.sleep (s.cyc + n)), stamp := (s.thread w).stamp + 1 } := by
  rw [State.slept, State.later_thread, State.stallFor_thread, State.advance_thread]

theorem State.slept_sameRegs (s : State) (w : Tid) (n : Nat) : s.sameRegs (s.slept w n) :=
  (s.advance_onlyMoves w).sameRegs.trans ((s.advance w).stallFor_sameRegs w _)

/-- A thread that sleeps does not issue. -/
theorem Thread.ready_of_sleep (t : Thread) (cyc c : Nat) (h : t.stall = some (.sleep c)) : t.ready cyc = false := by
  rw [Thread.ready, h, Bool.and_false]

/-! ### The release of a `syncf` (R110, log 57) -/

section

variable (s : State) (w : Tid) (p : Word)

theorem Thread.atSyncf_eq_true_iff (t : Thread) : t.atSyncf p = true ↔ ∃ c, t.stall = some (.syncf p c) := by
  unfold Thread.atSyncf
  split
  next a c h => simp [h]
  next h => simp only [Bool.false_eq_true, false_iff, not_exists]; exact fun c hc => h _ _ hc

/-- The threads that a release looks at. -/
theorem State.mem_peers_iff (x : Tid × Thread) : x ∈ s.peers w ↔
    x ∈ s.threadsOf w.job ∧ x.1.thr = w.thr ∧ (s.job w.job).cluOf x.1.lcn = (s.job w.job).cluOf w.lcn ∧
      x.2.isLive s.cyc = true ∧ x.2.st ≠ .parked ∧ x.2.held = false ∧ x.2.susp = false := by
  simp only [State.peers, List.mem_filter, Bool.and_eq_true, beq_iff_eq, bne_iff_ne, Bool.not_eq_true', and_assoc]

/-- A thread whose wait at a `syncf` the others end: it may issue in the next cycle. -/
def Thread.syncfEnded (cyc : Nat) (t : Thread) : Thread := { t with stall := none, readyAt := max t.readyAt (cyc + 1) }

/-- Ends the waits of a list of threads. -/
def State.endSyncfs (ps : List (Tid × Thread)) : State :=
  ps.foldl (fun s x => s.modThread x.1 (Thread.syncfEnded s.cyc)) s

theorem State.syncfCheck_eq :
    s.syncfCheck w p = if (s.peers w).all fun x => x.2.atSyncf p then s.endSyncfs (s.peers w) else s := rfl

/-- A thread that the list names twice is not changed twice. -/
theorem Thread.syncfEnded_syncfEnded (cyc : Nat) (t : Thread) : (t.syncfEnded cyc).syncfEnded cyc = t.syncfEnded cyc := by
  simp only [Thread.syncfEnded, max_assoc, max_self]

/-- The threads that the list names, and no other, end their waits. -/
theorem State.endSyncfs_thread (ps : List (Tid × Thread)) (y : Tid) :
    (s.endSyncfs ps).thread y = if y ∈ ps.map Prod.fst then (s.thread y).syncfEnded s.cyc else s.thread y := by
  induction ps generalizing s with
  | nil => rfl
  | cons z zs ih =>
    have hrest : (s.endSyncfs (z :: zs)).thread y = _ := ih (s.modThread z.1 (Thread.syncfEnded s.cyc))
    rw [hrest, State.modThread_cyc]
    simp only [List.map_cons, List.mem_cons]
    by_cases hy : y = z.1
    · subst hy
      simp only [State.modThread_thread_self, Thread.syncfEnded_syncfEnded, ite_self, true_or, if_true]
    · simp only [State.modThread_thread_ne _ _ _ _ hy, hy, false_or]

/-- When every thread that a release looks at waits at its address, each of them ends its wait, and no other does. -/
theorem State.syncfCheck_thread_of_all (h : ∀ x ∈ s.peers w, x.2.atSyncf p = true) (y : Tid) :
    (s.syncfCheck w p).thread y =
      if y ∈ (s.peers w).map Prod.fst then (s.thread y).syncfEnded s.cyc else s.thread y := by
  rw [State.syncfCheck_eq, if_pos (List.all_eq_true.2 h), State.endSyncfs_thread]

/-- When one of them does not, nothing changes. -/
theorem State.syncfCheck_of_not_all {x : Tid × Thread} (hx : x ∈ s.peers w) (h : ¬x.2.atSyncf p = true) :
    s.syncfCheck w p = s := by
  rw [State.syncfCheck_eq, if_neg fun hall => h (List.all_eq_true.1 hall x hx)]

end

/-! ### The obligation -/

section

variable {s : State} {g : Gd} (hon : s.guardOn s.cur g = true)

include hon

/-- A `sleep` of no cycles is a `nop`. -/
theorem State.exec_sleep_zero (a : SReg) (imm : BitVec 32) (h : (s.rd s.cur a + imm.zeroExtend 64).toNat = 0) :
    exec (.sleep g a imm) s = .next (s.advance s.cur) :=
  State.exec_of_guardOn hon (i := .sleep g a imm) rfl (if_pos h)

/-- Any other stalls the thread at the next instruction, and puts the end of the stall on the agenda. -/
theorem State.exec_sleep_pos (a : SReg) (imm : BitVec 32) (h : (s.rd s.cur a + imm.zeroExtend 64).toNat ≠ 0) :
    exec (.sleep g a imm) s = .next (s.slept s.cur (s.rd s.cur a + imm.zeroExtend 64).toNat) :=
  State.exec_of_guardOn hon (i := .sleep g a imm) rfl ((if_neg h).trans (congrArg (State.later _ _)
    (congrArg (Event.sleepExpiry s.cur) (s.advance_stallFor_stamp s.cur _))))

/-- A `syncf` of no cycles is a `nop`. -/
theorem State.exec_syncf_zero (imm : BitVec 32) (h : min imm.toNat 65535 = 0) :
    exec (.syncf g imm) s = .next (s.advance s.cur) :=
  State.exec_of_guardOn hon (i := .syncf g imm) rfl (if_pos h)

/-- Any other stalls the thread, whose own wait may be the last that its cluster lacked (log 57). -/
theorem State.exec_syncf_pos (imm : BitVec 32) (h : min imm.toNat 65535 ≠ 0) :
    exec (.syncf g imm) s = .next
      ((((s.advance s.cur).stallFor s.cur (.syncf (s.pcOf s.cur) (s.cyc + min imm.toNat 65535))).later (min imm.toNat 65535)
        (.syncfRelease s.cur ((s.thread s.cur).stamp + 1))).syncfCheck s.cur (s.pcOf s.cur)) :=
  State.exec_of_guardOn hon (i := .syncf g imm) rfl ((if_neg h).trans (congrArg (State.syncfCheck · _ _)
    (congrArg (State.later _ _) (congrArg (Event.syncfRelease s.cur) (s.advance_stallFor_stamp s.cur _)))))

end

/-- Settles O25: a wait of no cycles is a `nop`; any other stalls the thread at the next instruction, and its bound stands on the
agenda. What ends a `syncf` before its bound is said of `syncfCheck`. -/
theorem waits : Obligations.Waits := by
  intro s g a imm hon w n k p u
  refine ⟨State.exec_sleep_zero hon a imm, fun hn => ⟨s.slept w n, State.exec_sleep_pos hon a imm hn, ?_⟩, fun v stamp => ?_,
    State.exec_syncf_zero hon imm, State.exec_syncf_pos hon imm, fun v q => ?_, fun v stamp => ?_⟩
  · have hth := s.slept_thread w n
    have hstall := congrArg Thread.stall hth
    refine ⟨congrArg Thread.pc hth, hstall, Thread.ready_of_sleep _ _ _ hstall, ?_, s.slept_sameRegs w n,
      ⟨fun _ => rfl, fun _ => rfl, fun _ _ => rfl⟩⟩
    rw [congrArg Thread.stamp hth]
    exact (mem_insertPending _ _ _).2 (.inl rfl)
  · simp only [exec, execSleepExpiry, Bool.or_eq_true, decide_eq_true_iff]
    rfl
  · intro member waits r
    refine ⟨fun hall => ?_, fun ⟨x, hx, hnot⟩ => ?_⟩
    · have hth := s.syncfCheck_thread_of_all v q fun x hx =>
        (Thread.atSyncf_eq_true_iff q x.2).2 (hall x ((s.mem_peers_iff v x).1 hx))
      refine ⟨fun x hx => ?_, fun y hy => ?_⟩
      · rw [hth, if_pos (List.mem_map_of_mem ((s.mem_peers_iff v x).2 hx))]
        exact ⟨rfl, le_max_right _ _⟩
      · refine (hth y).trans (if_neg fun hmem => ?_)
        obtain ⟨x, hx, rfl⟩ := List.mem_map.1 hmem
        exact hy x ((s.mem_peers_iff v x).1 hx) rfl
    · exact s.syncfCheck_of_not_all v q ((s.mem_peers_iff v x).2 hx) fun h => hnot ((Thread.atSyncf_eq_true_iff q x.2).1 h)
  · simp only [exec, execSyncfRelease, Bool.or_eq_true, decide_eq_true_iff]
    rfl

end Sys2Proof.Machine

/-!
PROOFS. What `tilepos`, `mkadr`, `slotrd` and `thrst` report (R123, R124, R126, R127): obligation O24.
-/

namespace Sys2Proof.Machine

/-! ### Fields of a word -/

/-- Bits of a word as a number are the bits as a field. -/
theorem bitsOf_eq_toNat (a : Word) (lo n : Nat) : bitsOf a lo n = (a.extractLsb' lo n).toNat := by
  rw [bitsOf, BitVec.extractLsb'_toNat, Nat.shiftRight_eq_div_pow]

/-- The low bits of a field are a field. -/
theorem bitsOf_mod (a : Word) (lo : Nat) {n m : Nat} (h : m ≤ n) : bitsOf a lo n % 2 ^ m = (a.extractLsb' lo m).toNat := by
  rw [← bitsOf_eq_toNat, bitsOf, bitsOf, Nat.mod_mod_of_dvd _ (Nat.pow_dvd_pow 2 h)]

/-- A field as a signed number. -/
theorem bitsInt_toNat {n : Nat} (v : BitVec n) : bitsInt n v.toNat = v.toInt := by
  rw [bitsInt, Nat.mod_eq_of_lt v.isLt, BitVec.toInt_eq_msb_cond, BitVec.msb_eq_getLsbD_last, BitVec.getLsbD,
    Int.emod_eq_of_lt (Int.natCast_nonneg _) (mod_cast v.isLt)]
  push_cast
  rfl

theorem toNat_append_eq_add {m n : Nat} (x : BitVec m) (y : BitVec n) : (x ++ y).toNat = x.toNat * 2 ^ n + y.toNat := by
  rw [BitVec.toNat_append, ← Nat.shiftLeft_add_eq_or_of_lt y.isLt, Nat.shiftLeft_eq]

/-! ### `mkadr` (R124)

An address is the OR of the word of its form, of the offset and of bit 45. Each is written as the same row of fields, 0 where
another one stands. -/

theorem form_or_offset_or_flag (h : BitVec 18) (f : BitVec 1) (m : BitVec 24) (o : BitVec 21) :
    (h ++ 0#1 ++ m ++ 0#21) ||| (0#18 ++ 0#1 ++ 0#24 ++ o) ||| (0#18 ++ f ++ 0#24 ++ 0#21) = h ++ f ++ m ++ o := by
  simp only [BitVec.or_append, BitVec.or_zero, BitVec.zero_or]

theorem offset_eq_append (off : Word) :
    (off.truncate 21 |>.zeroExtend 64) = (0#18 ++ 0#1 ++ 0#24 ++ off.extractLsb' 0 21 : Word) := by
  apply BitVec.eq_of_toNat_eq
  simp only [toNat_append_eq_add, BitVec.truncate, BitVec.zeroExtend, BitVec.toNat_setWidth, BitVec.extractLsb'_toNat,
    BitVec.toNat_ofNat]
  omega

theorem flag_eq_append (fits : Bool) :
    (if fits then 0 else w64 (2 ^ 45)) = (0#18 ++ BitVec.ofBool (!fits) ++ 0#24 ++ 0#21 : Word) := by
  cases fits <;> rfl

/-- The forms that name a core by coordinates. -/
theorem coordinates_eq_append (k : BitVec 4) (x y : BitVec 6) :
    w64 (k.toNat * 2 ^ 60 + x.toNat * 2 ^ 52 + y.toNat * 2 ^ 46) = (k ++ 0#2 ++ x ++ y ++ 0#1 ++ 0#24 ++ 0#21 : Word) := by
  apply BitVec.eq_of_toNat_eq
  simp only [toNat_append_eq_add, BitVec.toNat_ofNat]
  omega

/-- The form that names a member of the cluster. -/
theorem member_eq_append (k : BitVec 4) (x : BitVec 3) :
    w64 (k.toNat * 2 ^ 60 + x.toNat * 2 ^ 21) = (k ++ 0#14 ++ 0#1 ++ (0#21 ++ x) ++ 0#21 : Word) := by
  apply BitVec.eq_of_toNat_eq
  simp only [toNat_append_eq_add, BitVec.toNat_ofNat]
  omega

theorem append_zeros_append (h : BitVec 19) (x : BitVec 3) (o : BitVec 21) : h ++ (0#21 ++ x) ++ o = h ++ 0#21 ++ x ++ o := by
  apply BitVec.eq_of_toNat_eq
  simp only [toNat_append_eq_add]
  omega

section

variable (x off : Word)

/-- The fields of the form, bit 45 when a value does not fit, and the offset's low bits. -/
theorem or_eq_address {h : BitVec 18} {m : BitVec 24} {form : Nat} (hform : w64 form = (h ++ 0#1 ++ m ++ 0#21 : Word))
    (fits : Bool) :
    w64 form ||| (off.truncate 21 |>.zeroExtend 64) ||| (if fits then 0 else w64 (2 ^ 45)) =
      h ++ BitVec.ofBool (!fits) ++ m ++ off.extractLsb' 0 21 := by
  rw [hform, offset_eq_append, flag_eq_append, form_or_offset_or_flag]

theorem makeAddress_abs : makeAddress .abs x off =
    0x8#4 ++ 0#2 ++ x.extractLsb' 0 6 ++ x.extractLsb' 16 6 ++
      BitVec.ofBool (!decide (x.extractLsb' 0 16 < 64 ∧ x.extractLsb' 16 16 < 64 ∧ off < 0x200000)) ++ 0#24 ++
      off.extractLsb' 0 21 := by
  have hform := coordinates_eq_append 0x8#4 (x.extractLsb' 0 6) (x.extractLsb' 16 6)
  rw [← bitsOf_mod x 0 (n := 16) (by decide), ← bitsOf_mod x 16 (n := 16) (by decide)] at hform
  refine (or_eq_address off hform ((decide _ && decide _) && off.ult 0x200000)).trans ?_
  simp only [Bool.decide_and, ← Bool.and_assoc, bitsOf_eq_toNat]
  rfl

theorem makeAddress_rel : makeAddress .rel x off =
    0x9#4 ++ 0#2 ++ x.extractLsb' 0 6 ++ x.extractLsb' 16 6 ++
      BitVec.ofBool (!decide ((-32 ≤ (x.extractLsb' 0 16).toInt ∧ (x.extractLsb' 0 16).toInt ≤ 31) ∧
        (-32 ≤ (x.extractLsb' 16 16).toInt ∧ (x.extractLsb' 16 16).toInt ≤ 31) ∧ off < 0x200000)) ++ 0#24 ++
      off.extractLsb' 0 21 := by
  have hform := coordinates_eq_append 0x9#4 (x.extractLsb' 0 6) (x.extractLsb' 16 6)
  rw [← bitsOf_mod x 0 (n := 16) (by decide), ← bitsOf_mod x 16 (n := 16) (by decide)] at hform
  refine (or_eq_address off hform ((decide _ && decide _) && off.ult 0x200000)).trans ?_
  simp only [Bool.decide_and, ← Bool.and_assoc, bitsOf_eq_toNat, bitsInt_toNat]
  rfl

theorem makeAddress_win : makeAddress .win x off =
    0xA#4 ++ 0#14 ++ BitVec.ofBool (!decide (x.extractLsb' 0 16 < 8 ∧ off < 0x200000)) ++ 0#21 ++ x.extractLsb' 0 3 ++
      off.extractLsb' 0 21 := by
  have hform := member_eq_append 0xA#4 (x.extractLsb' 0 3)
  rw [← bitsOf_mod x 0 (n := 16) (by decide)] at hform
  refine (or_eq_address off hform (decide (bitsOf x 0 16 < 8) && off.ult 0x200000)).trans ?_
  rw [Bool.decide_and, bitsOf_eq_toNat, append_zeros_append]
  rfl

end

/-! ### `tilepos` (R123) -/

/-- The columns of tiles: C0 where it is given, and otherwise as many as the matrix has, and at least one. -/
theorem columns_eq (c n : Nat) :
    (if (if c = 0 then (n + 31) / 32 else c) = 0 then 1 else if c = 0 then (n + 31) / 32 else c) =
      if c ≠ 0 then c else if n = 0 then 1 else (n + 31) / 32 := by
  by_cases hc : c = 0
  · simp only [hc, if_true, ne_eq, not_true_eq_false, if_false, show (n + 31) / 32 = 0 ↔ n = 0 by omega]
  · simp only [hc, if_false, ne_eq, not_false_eq_true, if_true]

theorem tileOf_eq (g0 : Word) (g1 : BitVec 48) (l : Nat) :
    tileOf g0 g1 l =
      let m := g0.toNat % 2 ^ 32
      let n := g0.toNat / 2 ^ 32
      let c0 := (g1.extractLsb' 32 16).toNat
      let c := if c0 ≠ 0 then c0 else if n = 0 then 1 else (n + 31) / 32
      (w64 (32 * (l / c)), w64 (32 * (l % c)),
        w64 ((if 32 * (l / c) < m then min 32 (m - 32 * (l / c)) else 0) +
          256 * if 32 * (l % c) < n then min 32 (n - 32 * (l % c)) else 0)) := by
  have hm : bitsOf g0 0 32 = g0.toNat % 2 ^ 32 := by rw [bitsOf, Nat.pow_zero, Nat.div_one]
  have hn : bitsOf g0 32 32 = g0.toNat / 2 ^ 32 := by
    rw [bitsOf, Nat.mod_eq_of_lt]
    have := g0.isLt
    omega
  simp only [tileOf, hm, hn, columns_eq, Nat.mul_comm _ 256]

/-! ### `slotrd` (R126) -/

section

variable (s : State) (w : Tid) (e : Nat)

theorem State.slotView_empty (h : ((s.pcore (s.phys w.job w.lcn)).slot e).getLsbD 4 = false) : s.slotView w e = 0 := by
  simp only [State.slotView, h, Bool.not_false, if_true]

theorem State.slotView_carried (h : ((s.pcore (s.phys w.job w.lcn)).slot e).getLsbD 4 = true) {u : Tid}
    (hu : s.carried (s.phys w.job w.lcn) (((s.pcore (s.phys w.job w.lcn)).slot e).toNat % 16) = some u) :
    s.slotView w e = if u.lcn = w.lcn then w64 (16 + u.thr) else 0x30 := by
  simp only [State.slotView, h, hu, Bool.not_true, Bool.false_eq_true, if_false]

end

/-! ### `thrst` (R127) -/

section

variable (t : Thread) (cyc : Nat)

theorem Thread.report_of_free (h : t.isLive cyc = false) : t.report cyc = w64 (t.gen.toNat * 2 ^ 16) := by
  simp [Thread.report, Thread.code, h]

variable (hlive : t.isLive cyc = true)

include hlive

theorem Thread.report_of_parked {q : Wait} (hp : t.st = .parked) (hq : t.wait = some q) : t.report cyc =
    w64 (2 + (if t.held then 8 else 0) + (if t.susp then 16 else 0) + q.kind.code * 256 + t.gen.toNat * 2 ^ 16) := by
  simp [Thread.report, Thread.code, hlive, hp, hq]

variable (hp : t.st ≠ .parked)

include hp

theorem Thread.report_of_running (hh : t.held = false) (hs : t.susp = false) : t.report cyc = w64 (1 + t.gen.toNat * 2 ^ 16) := by
  simp [Thread.report, Thread.code, hlive, hp, hh, hs]

theorem Thread.report_of_held (hh : t.held = true) (hs : t.susp = false) : t.report cyc = w64 (3 + 8 + t.gen.toNat * 2 ^ 16) := by
  simp [Thread.report, Thread.code, hlive, hp, hh, hs]

theorem Thread.report_of_suspended (hs : t.susp = true) :
    t.report cyc = w64 (4 + (if t.held then 8 else 0) + 16 + t.gen.toNat * 2 ^ 16) := by
  simp [Thread.report, Thread.code, hlive, hp, hs]

end

/-! ### The obligation -/

/-- Settles O24: each of them is one result, whose value is said above. -/
theorem threadReports : Obligations.ThreadReports := by
  intro s g d a b imm hon w t x o m n c0 c row col mv nv fits6 off
  refine ⟨?_, State.yields_of_result hon (i := .mkadr g .abs d a b) rfl (makeAddress_abs x o),
    State.yields_of_result hon (i := .mkadr g .rel d a b) rfl (makeAddress_rel x o),
    State.yields_of_result hon (i := .mkadr g .win d a b) rfl (makeAddress_win x o),
    ⟨s.slotView w (imm.toNat % 32), State.yields_of_result hon (i := .slotrd g d imm) rfl rfl, s.slotView_empty w _,
      fun u he hu => s.slotView_carried w _ he hu⟩, ?_⟩
  · refine State.exec_of_guardOn hon (i := .tilepos g d) rfl ?_
    simp only [tileOf_eq]
    rfl
  · intro k u
    refine ⟨_, State.yields_of_result hon (i := .thrst g d a) rfl rfl, fun hk => if_pos hk, ?_⟩
    have hthr (hk : k < (s.job w.job).t) : (if (s.job w.job).t ≤ k then 0 else u.report s.cyc) = u.report s.cyc :=
      if_neg (Nat.not_le_of_lt hk)
    exact ⟨fun hk hfree => (hthr hk).trans (u.report_of_free _ hfree),
      fun hk hlive q hp hq => (hthr hk).trans (u.report_of_parked _ hlive hp hq),
      fun hk hlive hp hh hs => (hthr hk).trans (u.report_of_running _ hlive hp hh hs),
      fun hk hlive hp hh hs => (hthr hk).trans (u.report_of_held _ hlive hp hh hs),
      fun hk hlive hp hs => (hthr hk).trans (u.report_of_suspended _ hlive hp hs)⟩

end Sys2Proof.Machine

/-!
PROOFS. The end of a thread (R121): obligation O27.
-/

namespace Sys2Proof.Machine

/-! ### The clock

The 8 cycles of an ending thread are counted from the `exit`, and only the passage to the next cycle moves the clock (log 1): what
an ending thread gives up is given up in its own cycle. -/

section

variable (s : State)

theorem State.foldl_cyc {α : Type} {f : State → α → State} (l : List α)
    (hf : ∀ (t : State) (x : α), (f t x).cyc = t.cyc) :
    (l.foldl f s).cyc = s.cyc :=
  List.foldlRecOn (motive := fun t => t.cyc = s.cyc) l f rfl fun t ht x _ => (hf t x).trans ht

@[simp] theorem State.ite_cyc {c : Prop} [Decidable c] (t u : State) : (if c then t else u).cyc = if c then t.cyc else u.cyc :=
  apply_ite State.cyc c t u

@[simp] theorem State.unpark_cyc (w : Tid) : (s.unpark w).cyc = s.cyc := rfl
@[simp] theorem State.injectPacket_cyc (d : Nat) (p : Packet) : (s.injectPacket d p).cyc = s.cyc := rfl
@[simp] theorem State.sendRead_cyc (w : Tid) (line : Word) (sl d : Nat) : (s.sendRead w line sl d).cyc = s.cyc := rfl
@[simp] theorem State.modProd_cyc (j k pid : Nat) (f : Product → Product) : (s.modProd j k pid f).cyc = s.cyc := rfl
@[simp] theorem State.modLink_cyc (j k : Nat) (f : SpanLink → SpanLink) : (s.modLink j k f).cyc = s.cyc := rfl
@[simp] theorem State.unbind_cyc (w : Tid) (k pid : Nat) : (s.unbind w k pid).cyc = s.cyc := rfl

@[simp] theorem State.setFlags_cyc (w : Tid) (f : FlagBits) : (s.setFlags w f).cyc = s.cyc := by
  simp only [State.setFlags, State.ite_cyc, State.modThread_cyc, ite_self]

theorem State.sendTo_cyc (d : Nat) (c : Chan) (own : Tid) (l l' : Nat) (ev : Event) (beats : Nat) :
    (s.sendTo d c own l l' ev beats).cyc = s.cyc := by
  unfold State.sendTo
  split
  · rfl
  · rfl

@[simp] theorem State.castLeave_cyc (w : Tid) : (s.castLeave w).cyc = s.cyc := by
  simp only [State.castLeave, State.castSend, State.ite_cyc, State.sendTo_cyc, ite_self]

/-! #### Permits -/

theorem State.modAcc_cyc (aid : Nat) (f : Access → Access) : (s.modAcc aid f).cyc = s.cyc := by
  unfold State.modAcc
  split
  · rfl
  · rfl

@[simp] theorem State.sendPart_cyc (aid p : Nat) : (s.sendPart aid p).cyc = s.cyc := by
  unfold State.sendPart
  split
  · rfl
  · rw [State.injectPacket_cyc, State.modPart, State.modAcc_cyc, State.drawn_cyc]

@[simp] theorem State.engGo_cyc (h : HRef) : (s.engGo h).cyc = s.cyc := by
  unfold State.engGo
  dsimp only
  split
  · rfl
  · split
    · rfl
    · split
      · rfl
      · rfl

theorem State.engPermit_cyc (pc : Nat) (h : HRef) (r sl : Nat) : (s.engPermit pc h r sl).cyc = s.cyc := by
  simp only [State.engPermit, State.ite_cyc, State.engGo_cyc, State.modPCore_cyc]
  exact ite_self _

@[simp] theorem State.returnPermit_cyc (pc sl : Nat) : (s.returnPermit pc sl).cyc = s.cyc := by
  unfold State.returnPermit
  dsimp only
  split
  · rfl
  · split
    · split
      · split
        · simp only [State.ite_cyc, State.unpark_cyc, State.sendPart_cyc, State.modPCore_cyc, ite_self]
        · rw [State.sendPart_cyc, State.modPCore_cyc]
      · rw [State.sendPart_cyc, State.modPCore_cyc]
    · rfl
    · rw [State.engPermit_cyc, State.modPCore_cyc]

/-! #### Products -/

theorem State.wakeFeed_cyc (w : Tid) (dir : Dir) : (s.wakeFeed w dir).cyc = s.cyc := by
  unfold State.wakeFeed
  split
  · simp only [State.ite_cyc, State.unpark_cyc, ite_self]
  · rfl

@[simp] theorem State.wakeFeeds_cyc (p : Product) : (s.wakeFeeds p).cyc = s.cyc := by
  rw [State.wakeFeeds, State.wakeFeed_cyc, State.wakeFeed_cyc]

@[simp] theorem State.portKick_cyc (j k lcn : Nat) : (s.portKick j k lcn).cyc = s.cyc := by
  unfold State.portKick
  dsimp only
  split
  · rfl
  · split
    · rfl
    · split
      · rfl
      · rfl

@[simp] theorem State.spin_cyc (j k : Nat) : (s.spin j k).cyc = s.cyc := by
  unfold State.spin
  dsimp only
  split
  · rfl
  · split
    · rfl
    · simp only [State.ite_cyc, State.later_cyc, State.modLink_cyc, ite_self]

theorem State.linkGo_cyc (j k : Nat) : (s.linkGo j k).cyc = s.cyc := by
  simp only [State.linkGo, State.spin_cyc, State.portKick_cyc]

@[simp] theorem State.linkKick_cyc (j k : Nat) : (s.linkKick j k).cyc = s.cyc :=
  (State.foldl_cyc _ _ fun t _ => t.linkGo_cyc j _).trans (s.linkGo_cyc j k)

@[simp] theorem State.dropProd_cyc (j k pid : Nat) : (s.dropProd j k pid).cyc = s.cyc := by
  unfold State.dropProd
  split
  · rfl
  · dsimp only
    split
    · rfl
    · rfl

theorem State.resolveParty_cyc (p : Product) (k : Nat) (e : SpanEnd) (st hi : Nat) : (s.resolveParty p k e st hi).cyc = s.cyc := by
  unfold State.resolveParty
  dsimp only
  split
  · rfl
  · simp only [State.ite_cyc, State.modThread_cyc, State.setFlags_cyc, ite_self]
    rfl

@[simp] theorem State.resolveBoth_cyc (j k : Nat) (p : Product) (ls ps hi : Nat) : (s.resolveBoth j k p ls ps hi).cyc = s.cyc := by
  simp only [State.resolveBoth, State.ite_cyc, State.modProd_cyc, State.resolveParty_cyc, State.unbind_cyc, ite_self]

@[simp] theorem State.dropProdHeld_cyc (j k pid : Nat) : (s.dropProdHeld j k pid).cyc = s.cyc := by
  unfold State.dropProdHeld
  split
  · refine (State.foldl_cyc _ _ fun t x => ?_).trans (s.modProd_cyc j k pid _)
    dsimp only
    split
    · exact t.returnPermit_cyc _ _
    · exact t.returnPermit_cyc _ _
    · exact t.returnPermit_cyc _ _
    · rfl
  · rfl

theorem State.abortNow_cyc (j k pid : Nat) : (s.abortNow j k pid).cyc = s.cyc := by
  unfold State.abortNow
  split
  · rfl
  · simp only [State.linkKick_cyc, State.wakeFeeds_cyc, State.dropProd_cyc, State.resolveBoth_cyc, State.dropProdHeld_cyc]

theorem State.abortProd_cyc (j k pid : Nat) : (s.abortProd j k pid).cyc = s.cyc := by
  unfold State.abortProd
  split
  · split
    · simp only [State.wakeFeeds_cyc, State.modProd_cyc, State.unbind_cyc]
    · rfl
  · exact s.abortNow_cyc j k pid

@[simp] theorem State.abortBound_cyc (w : Tid) : (s.abortBound w).cyc = s.cyc :=
  State.foldl_cyc _ _ fun t _ => t.abortProd_cyc _ _ _

end

/-! ### The end of a thread -/

/-- An `exit` that neither traps nor waits ends the thread with the value of its register. -/
theorem State.exec_exit {s : State} {g : Gd} (hon : s.guardOn s.cur g = true) (a : SReg) (hdrained : s.undrained s.cur = false)
    (haccs : ∀ x ∈ s.accs, x.2.own ≠ s.cur) (hsfq : (s.thread s.cur).sfq = [])
    (hhelpers : s.cur.thr = 0 → s.helpersLive s.cur.job s.cur.lcn = false) :
    exec (.exit g a) s = .next (s.endThread s.cur (s.rd s.cur a)) := by
  have hbusy : ¬(s.undrained s.cur || s.accs.any fun x => x.2.own == s.cur) = true := by
    simpa [hdrained] using haccs
  have hfaults : ¬(!(s.thread s.cur).sfq.isEmpty) = true := by simp [hsfq]
  have hlive : ¬(decide (s.cur.thr = 0) && s.helpersLive s.cur.job s.cur.lcn) = true := by simpa using hhelpers
  exact State.exec_of_guardOn hon (i := .exit g a) rfl ((if_neg hbusy).trans ((if_neg hfaults).trans (if_neg hlive)))

/-- A change of a job that leaves its cores leaves its threads. -/
theorem State.modJob_thread (s : State) (j : Nat) (f : Job → Job) (hf : ∀ b, (f b).cores = b.cores) (v : Tid) :
    (s.modJob j f).thread v = s.thread v := by
  by_cases hj : v.job = j
  · subst hj
    simp only [State.thread, State.core, State.modJob_job_self, hf]
  · simp only [State.thread, State.core, State.modJob_job_ne _ _ _ _ hj]

section

variable (s : State) (w : Tid) (v : Word)

/-- An ending thread has given up what others hold for it: its products, its places in the cast, and what it has adopted. -/
def State.detached : State := ((s.abortBound w).castLeave w).dropAdopted w

/-- The thread itself has ended, and its contributions no longer count. What is left is what its end tells others. -/
def State.ended : State := ((s.detached w).modThread w fun t => t.ended s.cyc).dropContributions w

theorem State.ended_thread : (s.ended w).thread w = ((s.detached w).thread w).ended s.cyc := by
  refine (State.modJob_thread _ _ _ ?_ w).trans (State.modThread_thread_self _ w _)
  exact fun _ => rfl

theorem State.ended_cyc : (s.ended w).cyc = s.cyc := by
  rw [State.ended, State.dropContributions, State.modJob_cyc, State.modThread_cyc, State.detached, State.dropAdopted,
    State.modJob_cyc, State.castLeave_cyc, State.abortBound_cyc]

/-- Thread 0 has the job looked at 8 cycles on; that of core 0 gives it its exit value first. -/
theorem State.endThread_zero (h : w.thr = 0) : s.endThread w v =
    (if w.lcn = 0 then (s.ended w).modJob w.job fun b => { b with exitv := v } else s.ended w).later 8 (.jobCompletion w.job) := by
  simp only [State.endThread, if_pos h]
  rfl

/-- A helper resolves the handle of its starter 8 cycles on. -/
theorem State.endThread_helper (h : w.thr ≠ 0) {r : HRef} (hr : (s.thread w).starter = some r) :
    s.endThread w v = (s.ended w).resolve 8 r (v <<< 8) 0 := by
  simp only [State.endThread, if_neg h, hr]
  rfl

theorem State.endThread_alone (h : w.thr ≠ 0) (hr : (s.thread w).starter = none) : s.endThread w v = s.ended w := by
  simp only [State.endThread, if_neg h, hr]
  rfl

/-- What the end tells others changes neither the thread nor the clock. -/
theorem State.endThread_thread :
    (s.endThread w v).thread w = ((s.detached w).thread w).ended s.cyc ∧ (s.endThread w v).cyc = s.cyc := by
  obtain ⟨hth, hcyc⟩ : (s.endThread w v).thread w = (s.ended w).thread w ∧ (s.endThread w v).cyc = (s.ended w).cyc := by
    by_cases h : w.thr = 0
    · rw [State.endThread_zero s w v h, State.later_thread, State.later_cyc]
      split
      · refine ⟨State.modJob_thread _ _ _ ?_ w, State.modJob_cyc _ _ _⟩
        exact fun _ => rfl
      · exact ⟨rfl, rfl⟩
    · cases hr : (s.thread w).starter with
      | none => rw [State.endThread_alone s w v h hr]; exact ⟨rfl, rfl⟩
      | some r =>
        rw [State.endThread_helper s w v h hr, State.resolve]
        exact ⟨State.later_thread _ _ _ _, State.later_cyc _ _ _⟩
  exact ⟨hth.trans (s.ended_thread w), hcyc.trans (s.ended_cyc w)⟩

end

/-- Settles O27: `endThread`, which `exit` reaches when nothing holds it back, ends the thread and tells the job or the starter. -/
theorem endsAThread : Obligations.EndsAThread := by
  intro s g a hon w hdrained haccs hsfq hhelpers
  refine ⟨s.endThread w (s.rd w a), State.exec_exit hon a hdrained haccs hsfq hhelpers, ?_, fun h => ?_, fun h hl => ?_,
    fun r h hr => ?_⟩
  · obtain ⟨hth, hcyc⟩ := s.endThread_thread w (s.rd w a)
    rw [hth, hcyc]
    exact ⟨rfl, rfl, rfl, rfl, rfl, rfl, rfl, rfl, rfl, fun e he => (List.mem_filter.1 he).2⟩
  · rw [State.endThread_zero s w _ h]
    exact (mem_insertPending _ _ _).2 (.inl rfl)
  · rw [State.endThread_zero s w _ h, if_pos hl, State.later_job, State.modJob_job_self]
  · rw [State.endThread_helper s w _ h hr]
    exact (mem_insertPending _ _ _).2 (.inl rfl)

end Sys2Proof.Machine

/-!
PROOFS. The start of a helper (R119, R120, R122): obligation O26.
-/

namespace Sys2Proof.Machine

/-! ### Asking for a code line (R108) -/

/-- From `s` to `t` nothing of a job changes, and no byte of the pool, of host memory and of any scratch. -/
structure State.keepsJobs (s t : State) : Prop where
  jobs : t.jobs = s.jobs
  pool : t.pool = s.pool
  host : t.host = s.host
  scratch : ∀ pc, (t.pcore pc).mem = (s.pcore pc).mem

/-- Whatever leaves the jobs, the memories and the physical cores as they are. -/
theorem State.keepsJobs.frame {s t : State} (hj : t.jobs = s.jobs := by rfl) (hp : t.pool = s.pool := by rfl)
    (hh : t.host = s.host := by rfl) (hc : t.pcores = s.pcores := by rfl) : s.keepsJobs t :=
  ⟨hj, hp, hh, fun pc => by rw [State.pcore, hc, State.pcore]⟩

theorem State.keepsJobs.refl (s : State) : s.keepsJobs s := .frame

theorem State.keepsJobs.trans {s t u : State} (h : s.keepsJobs t) (k : t.keepsJobs u) : s.keepsJobs u :=
  ⟨k.jobs.trans h.jobs, k.pool.trans h.pool, k.host.trans h.host, fun pc => (k.scratch pc).trans (h.scratch pc)⟩

theorem State.keepsJobs.thread {s t : State} (h : s.keepsJobs t) (w : Tid) : t.thread w = s.thread w := by
  simp only [State.thread, State.core, State.job, h.jobs]

theorem State.keepsJobs.sameBytes {s t : State} (h : s.keepsJobs t) : s.sameBytes t :=
  ⟨fun a => by rw [h.pool], fun a => by rw [h.host], fun pc a => by rw [h.scratch]⟩

theorem State.modThread_sameBytes (s : State) (w : Tid) (f : Thread → Thread) : s.sameBytes (s.modThread w f) :=
  ⟨fun _ => rfl, fun _ => rfl, fun _ _ => rfl⟩

theorem State.sameBytes.trans {s t u : State} (h : s.sameBytes t) (k : t.sameBytes u) : s.sameBytes u := by
  obtain ⟨hpool, hhost, hscratch⟩ := h
  obtain ⟨kpool, khost, kscratch⟩ := k
  exact ⟨fun x => (kpool x).trans (hpool x), fun x => (khost x).trans (hhost x),
    fun pc x => (kscratch pc x).trans (hscratch pc x)⟩

section

variable (s : State)

/-- A change of a physical core that leaves its scratch. -/
theorem State.modPCore_keepsJobs (pc : Nat) (f : PCore → PCore) (hf : ∀ q, (f q).mem = q.mem) :
    s.keepsJobs (s.modPCore pc f) where
  jobs := rfl
  pool := rfl
  host := rfl
  scratch := fun i => by
    by_cases hi : i = pc
    · subst hi
      rw [State.modPCore_pcore_self, hf]
    · rw [State.modPCore_pcore_ne _ _ _ _ hi]

theorem State.takePermit_keepsJobs (pc sl : Nat) : s.keepsJobs (s.takePermit pc sl) :=
  s.modPCore_keepsJobs pc _ fun _ => rfl

theorem State.readPool_keepsJobs (w : Tid) (line : Word) (d : Nat) : s.keepsJobs (s.readPool w line d) := by
  refine List.foldlRecOn (motive := s.keepsJobs) _ _ .frame fun t ht sl _ => ht.trans ?_
  split
  · exact (t.takePermit_keepsJobs _ sl).trans .frame
  · exact t.modPCore_keepsJobs _ _ fun _ => rfl

theorem State.enterFetch_keepsJobs (w : Tid) (line : Word) : s.keepsJobs (s.enterFetch w line) := by
  unfold State.enterFetch
  dsimp only
  split
  · exact .frame
  · split
    · exact .frame
    · exact State.keepsJobs.trans .frame (State.readPool_keepsJobs _ w line _)

/-- A request for a code line changes no thread and no byte. -/
theorem State.prefetch_keepsJobs (w : Tid) (line : Word) : s.keepsJobs (s.prefetch w line) := by
  unfold State.prefetch
  split
  · exact .refl s
  · split
    · exact s.enterFetch_keepsJobs w line
    · split
      · split
        · exact .refl s
        · exact .frame
      · exact .refl s

end

/-! ### The starter and its helper -/

/-- A register of the thread's own, apart from x0. -/
theorem State.rd_own (s : State) (w : Tid) {r : SReg} (hr : r ≠ 0) (hlt : r.toNat < 64) :
    s.rd w r = (s.thread w).x.getD r.toNat 0 := by
  rw [State.rd, if_neg hr, if_pos hlt]

/-- The register of a handle operand is one of the thread's own. -/
theorem State.rdH_eq (s : State) (w : Tid) {d : HReg} (hd : d ≠ 0) : s.rdH w d = (s.thread w).x.getD d.toNat 0 := by
  have hnat : ((0 : BitVec 1) ++ d).toNat = d.toNat :=
    (toNat_append_eq_add (0 : BitVec 1) d).trans (by simp)
  have hne : (0 : BitVec 1) ++ d ≠ 0 := fun h => hd (BitVec.eq_of_toNat_eq (by rw [← hnat, h]; rfl))
  rw [State.rdH, State.rd_own s w hne (hnat ▸ d.isLt), hnat]

/-- As a life begins, every register of the thread's own but x1 is 0 (R120). -/
theorem getD_argument_ne {r : SReg} (h : r ≠ 1) (v : Word) : (Map.set ([] : Map Word) 1 v).getD r.toNat 0 = 0 :=
  Map.getD_set_ne _ _ _ _ _ fun he => h (BitVec.eq_of_toNat_eq he)

/-- … and every predicate but q0 (R120). -/
theorem predicates_of_one : ∀ q : QReg, q ≠ 0 → (1 : BitVec 8).getLsbD q.toNat = false := by decide

section

variable (s : State) (w : Tid) (d : HReg) (a : SReg) (b : Src) (i n : Nat)

/-- The starter gives back the token of the thread that is kept for it, and takes a handle entry. -/
def State.allotted : State := (s.spend w (freedToken n)).allocHandle w i d .start

/-- The helper has started its new life. -/
def State.launched : State :=
  (s.allotted w d i n).startThread w { w with thr := n } (s.nextHandle w i) (s.rd w a) (s.src w b)

/-- The starter has passed on, its next access waiting for the helper. The helper's first line is not yet asked for. -/
def State.started : State :=
  ((s.launched w d a b i n).modThread w fun t => { t with accAt := max t.accAt (s.cyc + 9) }).advance w

/-- The helper's new life (R120). -/
def State.helper : Thread :=
  let v : Tid := { w with thr := n }
  let o := s.thread w
  { (s.allotted w d i n).freshThread v (s.rd w a) (s.src w b) (nextGen (s.thread v).gen) (s.thread v) with
    ten := o.ten, geom0 := o.geom0, geom1 := o.geom1, tvec := o.tvec, svec := o.svec, turnsAt := s.cyc + 8,
    starter := some (s.nextHandle w i) }

theorem State.allotted_thread : (s.allotted w d i n).thread w =
    { s.thread w with
      grants := (s.thread w).grants.erase (freedToken n)
      handles := (s.thread w).handles.set i { seq := (s.thread w).hseq, kind := .start, reg := d, pc := (s.thread w).pc }
      hseq := ((s.thread w).hseq + 1) % 65536
      x := if d = 0 then (s.thread w).x else (s.thread w).x.set d.toNat (HRef.word ⟨w, i, (s.thread w).hseq⟩)
      ddFull := if d = 0 then (s.thread w).ddFull else (s.thread w).ddFull.del d.toNat
      pend := if d = 0 then (s.thread w).pend else (s.thread w).pend ||| (1#64 <<< d.toNat) } := by
  rw [State.allotted, State.allocHandle, State.modThread_thread_self, State.spend, State.modThread_thread_self]

theorem State.allotted_thread_ne {v : Tid} (hv : v ≠ w) : (s.allotted w d i n).thread v = s.thread v := by
  rw [State.allotted, State.allocHandle, State.modThread_thread_ne _ _ _ _ hv, State.spend, State.modThread_thread_ne _ _ _ _ hv]

/-- The accesses and probes of an earlier life stand in no thread and no memory. -/
theorem State.dropResults_thread (v u : Tid) : (s.dropResults v).thread u = s.thread u := rfl

theorem State.dropResults_sameBytes (v : Tid) : s.sameBytes (s.dropResults v) := ⟨fun _ => rfl, fun _ => rfl, fun _ _ => rfl⟩

theorem State.started_sameBytes : s.sameBytes (s.started w d a b i n) := by
  have hallotted : s.sameBytes (s.allotted w d i n) := (s.modThread_sameBytes w _).trans (State.modThread_sameBytes _ w _)
  have hlaunched : s.sameBytes (s.launched w d a b i n) :=
    (hallotted.trans (State.dropResults_sameBytes _ _)).trans (State.modThread_sameBytes _ _ _)
  exact (hlaunched.trans (State.modThread_sameBytes _ w _)).trans (State.modThread_sameBytes _ w _)

variable {n} (hn : n ≠ w.thr)

include hn

theorem helper_ne_starter : ({ w with thr := n } : Tid) ≠ w := fun he => hn (congrArg Tid.thr he)

theorem State.started_thread_helper : (s.started w d a b i n).thread { w with thr := n } = s.helper w d a b i n := by
  have hne := helper_ne_starter w hn
  rw [State.started, State.advance, State.setPc, State.modThread_thread_ne _ _ _ _ hne, State.modThread_thread_ne _ _ _ _ hne,
    State.launched, State.startThread, State.modThread_thread_self, State.allotted_thread, State.allotted_thread_ne _ _ _ _ _ hne]
  rfl

theorem State.started_thread_starter : (s.started w d a b i n).thread w =
    { (s.allotted w d i n).thread w with accAt := max (s.thread w).accAt (s.cyc + 9), pc := (s.thread w).pc + 12 } := by
  have hne := helper_ne_starter w hn
  rw [State.started, State.advance_thread, State.modThread_thread_self, State.launched, State.startThread,
    State.modThread_thread_ne _ _ _ _ hne.symm, State.dropResults_thread, State.allotted_thread]

end

/-- A `start` that finds a valid entry address, a free handle entry and a free helper starts it. -/
theorem State.exec_start {s : State} {g : Gd} (hon : s.guardOn s.cur g = true) {th : BitVec 4} (d : HReg) {a : SReg} (b : Src)
    {i n : Nat} (hpc : (s.rd s.cur a - s.cbase s.cur).toInt % 12 = 0) (hth : th = 0 ∨ th.toNat < (s.job s.cur.job).t)
    (hslot : (s.thread s.cur).freeSlot = some i) (hn : s.chosen s.cur th.toNat = some n) :
    exec (.start g th d a b) s = .next ((s.started s.cur d a b i n).prefetch { s.cur with thr := n }
      ((s.launched s.cur d a b i n).lineOf { s.cur with thr := n })) := by
  have hvalid : validPc (s.cbase s.cur) (s.rd s.cur a) = true := beq_iff_eq.2 hpc
  have hnumber : (th != 0 && decide ((s.job s.cur.job).t ≤ th.toNat)) = false := by
    rw [Bool.and_eq_false_iff, bne_eq_false_iff_eq, decide_eq_false_iff_not, not_le]
    exact hth
  refine State.exec_of_guardOn hon (i := .start g th d a b) rfl ?_
  simp only [hvalid, hnumber, hslot, hn, Bool.not_true, Bool.false_eq_true, if_false]
  rfl

/-- Settles O26: the request for the helper's first line leaves both threads as the `start` made them. -/
theorem startsAHelper : Obligations.StartsAHelper := by
  intro s g th d a b i n hon w v o old hpc hth hslot hchosen hn hd
  refine ⟨_, State.exec_start hon d b hpc hth hslot hchosen, ?_⟩
  have hkeeps := (s.started w d a b i n).prefetch_keepsJobs v ((s.launched w d a b i n).lineOf v)
  have hv := (hkeeps.thread v).trans (s.started_thread_helper w d a b i hn)
  have hw := (hkeeps.thread w).trans (s.started_thread_starter w d a b i hn)
  generalize (s.started w d a b i n).prefetch v ((s.launched w d a b i n).lineOf v) = t at *
  refine ⟨?_, ?_, ?_, ?_, ?_, (s.started_sameBytes w d a b i n).trans hkeeps.sameBytes⟩
  · intro h
    have hh : h = s.helper w d a b i n := hv
    rw [hh]
    refine ⟨rfl, rfl, rfl, ?_, fun r hr hlt => ?_, fun r hlt => ?_, fun q hq => ?_, fun k hk => ?_, rfl, rfl, rfl, rfl, rfl,
      rfl, rfl, rfl, rfl, rfl, rfl, rfl, rfl, rfl, rfl, rfl, rfl⟩
    · rw [State.rd_own t v (by decide) (by decide), hv]
      exact Map.getD_set_self _ 1 _ _
    · by_cases h0 : r = 0
      · rw [State.rd, if_pos h0]
      · rw [State.rd_own t v h0 hlt, hv]
        exact getD_argument_ne hr _
    · rw [State.rdV, if_pos hlt, hv]
      rfl
    · rw [State.rdQ, hv, beq_false_of_ne hq]
      exact predicates_of_one q hq
    · rw [State.rdK, if_neg hk, hv]
      rfl
  · rw [State.rdH_eq t w hd, hw, State.allotted_thread]
    dsimp only
    rw [if_neg hd, Map.getD_set_self]
  · rw [State.pending, hw, State.allotted_thread]
    dsimp only
    rw [if_neg hd, BitVec.getLsbD_or, BitVec.getLsbD_shiftLeft, decide_eq_true d.isLt]
    simp
  · exact congrArg Thread.pc hw
  · rw [hw]
    exact le_max_right _ _

end Sys2Proof.Machine

/-!
PROOFS. Rounding (R135, R136). A real number lies between two neighbours of the set that it is rounded into; `roundAt` computes
the two from its argument and picks one. Obligation O28.
-/

namespace Sys2Proof

/-! ### Real magnitudes -/

/-- A magnitude with a sign. -/
def withSign (neg : Bool) (v : ℝ) : ℝ := if neg then -v else v

@[simp] theorem withSign_false (v : ℝ) : withSign false v = v := rfl

@[simp] theorem withSign_true (v : ℝ) : withSign true v = -v := rfl

theorem withSign_eq_mul (neg : Bool) (v : ℝ) : withSign neg v = (if neg then -1 else 1) * v := by
  cases neg <;> simp

@[simp] theorem abs_withSign (neg : Bool) (v : ℝ) : |withSign neg v| = |v| := by
  cases neg <;> simp

@[simp] theorem withSign_inj (neg : Bool) (v u : ℝ) : withSign neg v = withSign neg u ↔ v = u := by
  cases neg <;> simp

theorem withSign_neg_iff {v : ℝ} (hv : 0 < v) (neg : Bool) : withSign neg v < 0 ↔ neg = true := by
  cases neg <;> simp [hv, hv.le]

/-- The real number m·2^q. -/
noncomputable def scaled (m : ℕ) (q : ℤ) : ℝ := m * (2 : ℝ) ^ q

theorem scaled_nonneg (m : ℕ) (q : ℤ) : 0 ≤ scaled m q := by
  unfold scaled
  positivity

theorem two_zpow_pos (q : ℤ) : (0 : ℝ) < 2 ^ q := by positivity

theorem scaled_mul_two_pow (m k : ℕ) (q : ℤ) : scaled (m * 2 ^ k) q = scaled m (q + k) := by
  unfold scaled
  rw [zpow_add₀ two_ne_zero, zpow_natCast]
  push_cast
  ring

theorem scaled_shift (m : ℕ) {q q' : ℤ} (h : q' ≤ q) : scaled (m * 2 ^ (q - q').toNat) q' = scaled m q := by
  rw [scaled_mul_two_pow, Int.toNat_of_nonneg (sub_nonneg.2 h), add_sub_cancel]

theorem scaled_le_scaled_iff {m n : ℕ} {q : ℤ} : scaled m q ≤ scaled n q ↔ m ≤ n := by
  unfold scaled
  rw [mul_le_mul_iff_left₀ (two_zpow_pos q), Nat.cast_le]

theorem scaled_lt_scaled_iff {m n : ℕ} {q : ℤ} : scaled m q < scaled n q ↔ m < n := by
  rw [← not_le, scaled_le_scaled_iff, not_le]

theorem scaled_pos_iff {m : ℕ} {q : ℤ} : 0 < scaled m q ↔ 0 < m := by
  unfold scaled
  rw [mul_pos_iff_of_pos_right (two_zpow_pos q), Nat.cast_pos]

theorem scaled_two_pow (k : ℕ) (q : ℤ) : scaled (2 ^ k) q = (2 : ℝ) ^ (q + k) := by
  rw [← one_mul (2 ^ k), scaled_mul_two_pow, scaled, Nat.cast_one, one_mul]

theorem scaled_le_of_le (m : ℕ) {q q' : ℤ} (h : q ≤ q') : scaled m q ≤ scaled m q' :=
  mul_le_mul_of_nonneg_left (zpow_le_zpow_right₀ one_le_two h) m.cast_nonneg

theorem scaledLe_iff (m : ℕ) (q : ℤ) (n : ℕ) (r : ℤ) : scaledLe m q n r = true ↔ scaled m q ≤ scaled n r := by
  rw [scaledLe, decide_eq_true_eq, ← scaled_shift m (min_le_left q r), ← scaled_shift n (min_le_right q r),
    scaled_le_scaled_iff]

/-! ### The number of bits -/

theorem bitLen_pos {m : ℕ} (hm : m ≠ 0) : 0 < bitLen m := by
  rw [bitLen, if_neg hm]
  exact Nat.succ_pos _

theorem two_pow_bitLen_le {m : ℕ} (hm : m ≠ 0) : 2 ^ (bitLen m - 1) ≤ m := by
  rw [bitLen, if_neg hm]
  exact Nat.log2_self_le hm

theorem lt_bitLen_iff {m n : ℕ} : n < bitLen m ↔ 2 ^ n ≤ m := by
  constructor
  · intro h
    have hm : m ≠ 0 := by
      rintro rfl
      exact absurd h (Nat.not_lt_zero n)
    exact (Nat.pow_le_pow_right two_pos (Nat.le_sub_one_of_lt h)).trans (two_pow_bitLen_le hm)
  · intro h
    by_contra hle
    exact absurd ((Machine.lt_two_pow_bitLen m).trans_le (Nat.pow_le_pow_right two_pos (not_lt.1 hle))) h.not_gt

/-! ### Two neighbours of a set of real numbers -/

/-- v lies between the neighbours lo and hi of a set that holds the opposite of each of its numbers. -/
structure Neighbours (S : ℝ → Prop) (lo hi v : ℝ) : Prop where
  lo_mem : S lo
  hi_mem : S hi
  neg_mem : ∀ z, S z → S (-z)
  gap : ∀ z, S z → z ≤ lo ∨ hi ≤ z
  nonneg : 0 ≤ lo
  le : lo ≤ v
  lt : v < hi

/-- The mode that rounds −v to −r where the given one rounds v to r. -/
def mirror : Rm → Rm
  | .rup => .rdn
  | .rdn => .rup
  | rm => rm

theorem roundsUp_negative (rm : Rm) (low : Bool) (cmp : Ordering) (exact : Bool) :
    roundsUp rm true low cmp exact = roundsUp (mirror rm) false low cmp exact := by
  cases rm <;> simp [roundsUp, mirror]

theorem RoundsIn.neg {S : ℝ → Prop} (hS : ∀ z, S z → S (-z)) {rm : Rm} {v r : ℝ} (h : RoundsIn S (mirror rm) v r) :
    RoundsIn S rm (-v) (-r) := by
  have hflip (z : ℝ) : |-r - -v| = |r - v| ∧ |z - -v| = |-z - v| ∧ |-r - z| = |r - -z| := by
    refine ⟨?_, ?_, ?_⟩ <;> rw [← abs_neg] <;> ring_nf
  obtain ⟨hr, h⟩ := h
  refine ⟨hS r hr, ?_⟩
  cases rm with
  | rtz =>
    obtain ⟨hsign, hle, hmax⟩ := h
    exact ⟨by rwa [neg_mul_neg], by rwa [abs_neg, abs_neg], by simpa only [abs_neg] using hmax⟩
  | rup => exact ⟨neg_le_neg h.1, fun z hz hle => neg_le.1 (h.2 _ (hS z hz) (neg_le.1 hle))⟩
  | rdn => exact ⟨neg_le_neg h.1, fun z hz hle => le_neg.1 (h.2 _ (hS z hz) (le_neg.1 hle))⟩
  | rne =>
    refine ⟨fun z hz => ?_, fun z hz hne htie => ?_⟩
    · rw [(hflip z).1, (hflip z).2.1]
      exact h.1 _ (hS z hz)
    · rw [(hflip z).1, (hflip z).2.1] at htie
      obtain ⟨n, hn⟩ := h.2 _ (hS z hz) (fun he => hne (neg_eq_iff_eq_neg.1 he)) htie
      refine ⟨-n, ?_⟩
      rw [(hflip z).2.2, Int.cast_neg, neg_mul, ← hn]
  | rna =>
    refine ⟨fun z hz => ?_, fun z hz htie => ?_⟩
    · rw [(hflip z).1, (hflip z).2.1]
      exact h.1 _ (hS z hz)
    · rw [(hflip z).1, (hflip z).2.1] at htie
      simpa only [abs_neg] using h.2 _ (hS z hz) htie

/-- A number of the set rounds to itself. -/
theorem RoundsIn.of_mem {S : ℝ → Prop} {v : ℝ} (hv : S v) (rm : Rm) : RoundsIn S rm v v := by
  refine ⟨hv, ?_⟩
  cases rm with
  | rtz => exact ⟨mul_self_nonneg v, le_rfl, fun _ _ h => h⟩
  | rup | rdn => exact ⟨le_rfl, fun _ _ h => h⟩
  | rne =>
    refine ⟨fun z _ => by simp, fun z _ hne htie => absurd ?_ hne⟩
    rwa [sub_self, abs_zero, abs_eq_zero, sub_eq_zero] at htie
  | rna =>
    refine ⟨fun z _ => by simp, fun z _ htie => ?_⟩
    rw [sub_self, abs_zero, abs_eq_zero, sub_eq_zero] at htie
    rw [htie]

/-- And to nothing else. -/
theorem RoundsIn.eq_of_mem {S : ℝ → Prop} {rm : Rm} {v r : ℝ} (h : RoundsIn S rm v r) (hv : S v) : r = v := by
  obtain ⟨hr, h⟩ := h
  cases rm with
  | rtz =>
    obtain ⟨hsign, hle, hmax⟩ := h
    rcases abs_eq_abs.1 (le_antisymm hle (hmax v hv le_rfl)) with heq | heq
    · exact heq
    · have hzero : v = 0 := by
        rw [heq] at hsign
        nlinarith [mul_self_nonneg v, mul_self_eq_zero (a := v)]
      rw [heq, hzero, neg_zero]
  | rup => exact le_antisymm (h.2 v hv le_rfl) h.1
  | rdn => exact le_antisymm h.1 (h.2 v hv le_rfl)
  | rne | rna =>
    have := h.1 v hv
    rwa [sub_self, abs_zero, abs_nonpos_iff, sub_eq_zero] at this

section

variable {S : ℝ → Prop} {lo hi v : ℝ} (h : Neighbours S lo hi v)

include h

/-- Of the numbers of the set, the two neighbours are the nearest below and above. -/
theorem Neighbours.dist {z : ℝ} (hz : S z) : (z ≤ lo ∧ v - lo ≤ |z - v|) ∨ (hi ≤ z ∧ hi - v ≤ |z - v|) := by
  rcases h.gap z hz with hle | hle
  · refine .inl ⟨hle, ?_⟩
    rw [abs_sub_comm]
    exact (sub_le_sub_left hle v).trans (le_abs_self _)
  · exact .inr ⟨hle, (sub_le_sub_right hle v).trans (le_abs_self _)⟩

theorem Neighbours.dist_lo : |lo - v| = v - lo := by
  rw [abs_sub_comm, abs_of_nonneg (sub_nonneg.2 h.le)]

theorem Neighbours.dist_hi : |hi - v| = hi - v := abs_of_pos (sub_pos.2 h.lt)

theorem Neighbours.lo_lt_hi : lo < hi := h.le.trans_lt h.lt

/-- The lower neighbour is the number of the set below v, and the number toward zero. -/
theorem Neighbours.roundsIn_down : RoundsIn S .rdn v lo :=
  ⟨h.lo_mem, h.le, fun z hz hle => (h.gap z hz).resolve_right fun hhi => absurd (hhi.trans hle) h.lt.not_ge⟩

theorem Neighbours.roundsIn_toZero : RoundsIn S .rtz v lo := by
  have hv : 0 ≤ v := h.nonneg.trans h.le
  refine ⟨h.lo_mem, mul_nonneg h.nonneg hv, by rw [abs_of_nonneg h.nonneg, abs_of_nonneg hv]; exact h.le, ?_⟩
  intro z hz hle
  rw [abs_of_nonneg h.nonneg]
  have habs : S |z| := by
    rcases abs_choice z with he | he <;> rw [he]
    · exact hz
    · exact h.neg_mem z hz
  rw [abs_of_nonneg hv] at hle
  exact (h.gap _ habs).resolve_right fun hhi => absurd (hhi.trans hle) h.lt.not_ge

/-- The upper neighbour is the number of the set above v, unless v is the lower one. -/
theorem Neighbours.roundsIn_up (hne : v ≠ lo) : RoundsIn S .rup v hi :=
  ⟨h.hi_mem, h.lt.le, fun z hz hle => (h.gap z hz).resolve_left fun hlo => hne (le_antisymm (hle.trans hlo) h.le)⟩

/-- The lower neighbour is the nearest number of the set when v is in the lower half, and at the midpoint when it is even. -/
theorem Neighbours.roundsIn_near_lo (hle : v - lo ≤ hi - v) (heven : v - lo = hi - v → ∃ n : ℤ, lo = n * (2 * (hi - lo))) :
    RoundsIn S .rne v lo := by
  refine ⟨h.lo_mem, fun z hz => ?_, fun z hz hne htie => ?_⟩
  · rw [h.dist_lo]
    exact (h.dist hz).elim (·.2) fun hd => hle.trans hd.2
  · rw [h.dist_lo] at htie
    rcases h.dist hz with ⟨hz', -⟩ | ⟨hz', hd⟩
    · refine absurd ?_ hne
      rw [abs_sub_comm, abs_of_nonneg (sub_nonneg.2 (hz'.trans h.le))] at htie
      linarith
    · rw [abs_of_nonneg (sub_nonneg.2 (h.lt.le.trans hz'))] at htie
      obtain ⟨n, hn⟩ := heven (by linarith)
      have hzhi : z = hi := by linarith
      refine ⟨n, ?_⟩
      rw [hzhi, abs_sub_comm, abs_of_pos (sub_pos.2 h.lo_lt_hi)]
      exact hn

theorem Neighbours.roundsIn_near_hi (hle : hi - v ≤ v - lo) (heven : v - lo = hi - v → ∃ n : ℤ, hi = n * (2 * (hi - lo))) :
    RoundsIn S .rne v hi := by
  refine ⟨h.hi_mem, fun z hz => ?_, fun z hz hne htie => ?_⟩
  · rw [h.dist_hi]
    exact (h.dist hz).elim (fun hd => hle.trans hd.2) (·.2)
  · rw [h.dist_hi] at htie
    rcases h.dist hz with ⟨hz', hd⟩ | ⟨hz', -⟩
    · rw [abs_sub_comm, abs_of_nonneg (sub_nonneg.2 (hz'.trans h.le))] at htie
      obtain ⟨n, hn⟩ := heven (by linarith)
      have hzlo : z = lo := by linarith
      refine ⟨n, ?_⟩
      rw [hzlo, abs_of_pos (sub_pos.2 h.lo_lt_hi)]
      exact hn
    · refine absurd ?_ hne
      rw [abs_of_nonneg (sub_nonneg.2 (h.lt.le.trans hz'))] at htie
      linarith

/-- With ties away from zero the lower neighbour is taken only below the midpoint. -/
theorem Neighbours.roundsIn_away_lo (hlt : v - lo < hi - v) : RoundsIn S .rna v lo := by
  refine ⟨h.lo_mem, (h.roundsIn_near_lo hlt.le fun he => absurd he hlt.ne).2.1, fun z hz htie => ?_⟩
  rw [h.dist_lo] at htie
  rcases h.dist hz with ⟨hz', -⟩ | ⟨-, hd⟩
  · rw [abs_sub_comm, abs_of_nonneg (sub_nonneg.2 (hz'.trans h.le))] at htie
    rw [show z = lo by linarith]
  · linarith

theorem Neighbours.roundsIn_away_hi (hle : hi - v ≤ v - lo) : RoundsIn S .rna v hi := by
  have hnear (z : ℝ) (hz : S z) : |hi - v| ≤ |z - v| := by
    rw [h.dist_hi]
    exact (h.dist hz).elim (fun hd => hle.trans hd.2) (·.2)
  refine ⟨h.hi_mem, hnear, fun z hz htie => ?_⟩
  rw [h.dist_hi] at htie
  have hlo := h.nonneg
  have hlt := h.lt
  have hzv := abs_le.1 htie.le
  rw [abs_of_nonneg (hlo.trans h.lo_lt_hi.le), abs_le]
  constructor <;> linarith [h.le]

/-- The choice of `roundsUp` between the neighbours is R37's. -/
theorem Neighbours.roundsIn_positive (rm : Rm) {low exact : Bool} {cmp : Ordering} (hexact : exact = true ↔ v = lo)
    (hcmp : cmp.Compares (v - lo) (hi - v))
    (heven : ∃ n : ℤ, (if low = true then hi else lo) = n * (2 * (hi - lo))) :
    RoundsIn S rm v (if roundsUp rm false low cmp exact = true then hi else lo) := by
  cases rm with
  | rtz => exact h.roundsIn_toZero
  | rdn => simpa [roundsUp] using h.roundsIn_down
  | rup =>
    cases exact with
    | true =>
      simp only [roundsUp, Bool.not_true, Bool.false_and, Bool.false_eq_true, if_false]
      rw [hexact.1 rfl]
      exact .of_mem h.lo_mem _
    | false => simpa [roundsUp] using h.roundsIn_up fun he => Bool.noConfusion (hexact.2 he)
  | rne =>
    cases cmp with
    | lt => simpa [roundsUp] using h.roundsIn_near_lo hcmp.le fun he => absurd he hcmp.ne
    | gt => simpa [roundsUp] using h.roundsIn_near_hi hcmp.le fun he => absurd he hcmp.ne'
    | eq =>
      cases low with
      | true => simpa [roundsUp] using h.roundsIn_near_hi hcmp.ge fun _ => heven
      | false => simpa [roundsUp] using h.roundsIn_near_lo hcmp.le fun _ => heven
  | rna =>
    cases cmp with
    | lt => simpa [roundsUp] using h.roundsIn_away_lo hcmp
    | gt => simpa [roundsUp] using h.roundsIn_away_hi hcmp.le
    | eq => simpa [roundsUp] using h.roundsIn_away_hi hcmp.ge

/-- The same under a sign. -/
theorem Neighbours.roundsIn (rm : Rm) (neg : Bool) {low exact : Bool} {cmp : Ordering} (hexact : exact = true ↔ v = lo)
    (hcmp : cmp.Compares (v - lo) (hi - v))
    (heven : ∃ n : ℤ, (if low = true then hi else lo) = n * (2 * (hi - lo))) :
    RoundsIn S rm (withSign neg v) (withSign neg (if roundsUp rm neg low cmp exact = true then hi else lo)) := by
  cases neg with
  | false => exact h.roundsIn_positive rm hexact hcmp heven
  | true =>
    rw [roundsUp_negative]
    exact (h.roundsIn_positive (mirror rm) hexact hcmp heven).neg h.neg_mem

end

/-! ### `roundAt` -/

/-- The magnitude v that a natural m, an exponent q and a sticky bit stand for: m·2^q, or a number strictly between it and
(m + 1)·2^q. -/
structure StandsFor (m : ℕ) (q : ℤ) (sticky : Bool) (v : ℝ) : Prop where
  exact : sticky = false → v = scaled m q
  inexact : sticky = true → scaled m q < v ∧ v < scaled (m + 1) q

section

variable {m : ℕ} {q : ℤ} {sticky : Bool} {v : ℝ} (h : StandsFor m q sticky v)

include h

theorem StandsFor.le : scaled m q ≤ v := by
  cases sticky with
  | false => exact (h.exact rfl).ge
  | true => exact (h.inexact rfl).1.le

theorem StandsFor.lt : v < scaled (m + 1) q := by
  cases sticky with
  | false => exact (h.exact rfl).trans_lt (scaled_lt_scaled_iff.2 m.lt_succ_self)
  | true => exact (h.inexact rfl).2

/-- v lies below a multiple of 2^q exactly when m does. -/
theorem StandsFor.lt_iff (n : ℕ) : v < scaled n q ↔ m < n :=
  ⟨fun hlt => scaled_lt_scaled_iff.1 (h.le.trans_lt hlt), fun hlt => h.lt.trans_le (scaled_le_scaled_iff.2 hlt)⟩

theorem StandsFor.eq_iff (n : ℕ) : v = scaled n q ↔ m = n ∧ sticky = false := by
  cases sticky with
  | false =>
    rw [h.exact rfl]
    exact ⟨fun he => ⟨le_antisymm (scaled_le_scaled_iff.1 he.le) (scaled_le_scaled_iff.1 he.ge), rfl⟩, fun he => by rw [he.1]⟩
  | true =>
    refine ⟨fun he => ?_, fun he => Bool.noConfusion he.2⟩
    obtain ⟨hlo, hhi⟩ := h.inexact rfl
    rw [he, scaled_lt_scaled_iff] at hlo hhi
    omega

end

/-- The dropped part of m, its low j + 1 bits and the sticky fraction, against a half. -/
def dropped (m j : ℕ) (sticky : Bool) : Ordering :=
  if m % 2 ^ (j + 1) < 2 ^ j then .lt else if m % 2 ^ (j + 1) > 2 ^ j || sticky then .gt else .eq

theorem dropped_exact {m j : ℕ} {sticky : Bool} (h : (m % 2 ^ (j + 1) == 0 && !sticky) = true) : dropped m j sticky = .lt := by
  rw [Bool.and_eq_true, beq_iff_eq] at h
  rw [dropped, if_pos (by rw [h.1]; positivity)]

/-- An exact result is not rounded up. -/
theorem roundsUp_exact (rm : Rm) (neg low : Bool) : roundsUp rm neg low .lt true = false := by
  cases rm <;> simp [roundsUp]

/-- `roundAt` to a larger unit. -/
theorem roundAt_drop (rm : Rm) (neg : Bool) (m : ℕ) (q : ℤ) (sticky : Bool) (j : ℕ) :
    roundAt rm neg m q sticky (q + (j + 1 : ℕ)) =
      (if roundsUp rm neg (m / 2 ^ (j + 1) % 2 == 1) (dropped m j sticky) (m % 2 ^ (j + 1) == 0 && !sticky) then
        m / 2 ^ (j + 1) + 1 else m / 2 ^ (j + 1), m % 2 ^ (j + 1) == 0 && !sticky) := by
  have hk : (q + (j + 1 : ℕ) - q).toNat = j + 1 := by omega
  rw [roundAt, if_neg (by omega), hk]
  rfl

section

variable {m : ℕ} {q : ℤ} {sticky : Bool} {v : ℝ} (h : StandsFor m q sticky v) (j : ℕ)

include h

/-- The kept bits of m are the multiple of the larger unit below v. -/
theorem StandsFor.kept_le : scaled (m / 2 ^ (j + 1)) (q + (j + 1 : ℕ)) ≤ v := by
  rw [← scaled_mul_two_pow]
  exact (scaled_le_scaled_iff.2 (Nat.div_mul_le_self _ _)).trans h.le

theorem StandsFor.lt_kept_succ : v < scaled (m / 2 ^ (j + 1) + 1) (q + (j + 1 : ℕ)) := by
  rw [← scaled_mul_two_pow, h.lt_iff, mul_comm]
  exact Nat.lt_mul_div_succ m (by positivity)

theorem StandsFor.eq_kept_iff :
    (m % 2 ^ (j + 1) == 0 && !sticky) = true ↔ v = scaled (m / 2 ^ (j + 1)) (q + (j + 1 : ℕ)) := by
  have hm := Nat.div_add_mod' m (2 ^ (j + 1))
  rw [← scaled_mul_two_pow, h.eq_iff, Bool.and_eq_true, beq_iff_eq, Bool.not_eq_true']
  exact and_congr_left' (by omega)

/-- The dropped part compares v with the midpoint. -/
theorem StandsFor.dropped_compares :
    let lo := scaled (m / 2 ^ (j + 1)) (q + (j + 1 : ℕ))
    let hi := scaled (m / 2 ^ (j + 1) + 1) (q + (j + 1 : ℕ))
    (dropped m j sticky).Compares (v - lo) (hi - v) := by
  intro lo hi
  have hm := Nat.div_add_mod' m (2 ^ (j + 1))
  have hmid : lo + hi = 2 * scaled (m / 2 ^ (j + 1) * 2 ^ (j + 1) + 2 ^ j) q := by
    simp only [lo, hi, ← scaled_mul_two_pow, scaled]
    push_cast
    ring
  have hbelow := h.lt_iff (m / 2 ^ (j + 1) * 2 ^ (j + 1) + 2 ^ j)
  have hat := h.eq_iff (m / 2 ^ (j + 1) * 2 ^ (j + 1) + 2 ^ j)
  rw [dropped]
  split_ifs with hd hd'
  · have := hbelow.2 (by omega)
    rw [Ordering.Compares]
    linarith
  · have hge := not_lt.1 (hbelow.not.2 (by omega))
    have hne : v ≠ scaled (m / 2 ^ (j + 1) * 2 ^ (j + 1) + 2 ^ j) q := by
      rw [Ne, hat]
      rintro ⟨he, rfl⟩
      rw [Bool.or_false, decide_eq_true_eq] at hd'
      omega
    have := lt_of_le_of_ne hge hne.symm
    rw [Ordering.Compares]
    linarith
  · rw [Bool.or_eq_true, decide_eq_true_eq, not_or, Bool.not_eq_true] at hd'
    have := hat.2 ⟨by omega, hd'.2⟩
    rw [Ordering.Compares]
    linarith

end

/-- Of two successive multiples of a unit, the one that roundsUp counts as even is. -/
theorem even_neighbour (r : ℕ) (q : ℤ) :
    ∃ n : ℤ, (if (r % 2 == 1) = true then scaled (r + 1) q else scaled r q) = n * (2 * (scaled (r + 1) q - scaled r q)) := by
  have hunit : scaled (r + 1) q - scaled r q = 2 ^ q := by
    simp only [scaled]
    push_cast
    ring
  rw [hunit]
  rcases Nat.even_or_odd' r with ⟨n, rfl | rfl⟩ <;> [refine ⟨n, ?_⟩; refine ⟨n + 1, ?_⟩] <;>
  · simp [scaled, Nat.add_mod]
    ring

/-- What `roundAt` does with a magnitude v: it rounds v into every set in which the multiples of 2^q' around v are neighbours, it
says whether v is the result, and the result is one of the two multiples. A sticky argument is cut. -/
structure RoundedAt (rm : Rm) (neg : Bool) (q' : ℤ) (v : ℝ) (r : ℕ × Bool) : Prop where
  roundsIn {S : ℝ → Prop} :
    (∀ n : ℕ, scaled n q' ≤ v → v < scaled (n + 1) q' → Neighbours S (scaled n q') (scaled (n + 1) q') v) →
    RoundsIn S rm (withSign neg v) (withSign neg (scaled r.1 q'))
  exact_iff : r.2 = true ↔ v = scaled r.1 q'
  multiple : ∃ n : ℕ, scaled n q' ≤ v ∧ v < scaled (n + 1) q' ∧ (r.1 = n ∨ r.1 = n + 1)

theorem StandsFor.roundAt {m : ℕ} {q q' : ℤ} {sticky : Bool} {v : ℝ} (h : StandsFor m q sticky v)
    (hq : sticky = true → q < q') (rm : Rm) (neg : Bool) : RoundedAt rm neg q' v (roundAt rm neg m q sticky q') := by
  by_cases hle : q' ≤ q
  · have hs : sticky = false := by
      rw [← Bool.not_eq_true]
      exact fun hs => (hq hs).not_ge hle
    have hv : v = scaled (m * 2 ^ (q - q').toNat) q' := by rw [scaled_shift m hle, h.exact hs]
    have hlt : v < scaled (m * 2 ^ (q - q').toNat + 1) q' := hv.trans_lt (scaled_lt_scaled_iff.2 (Nat.lt_succ_self _))
    rw [Sys2Proof.roundAt, if_pos hle, hs]
    refine ⟨fun hS => ?_, by simpa using hv, _, hv.ge, hlt, .inl rfl⟩
    have hnb := hS _ hv.ge hlt
    rw [← hv] at hnb ⊢
    cases neg with
    | false => exact .of_mem hnb.lo_mem rm
    | true => exact .of_mem (hnb.neg_mem _ hnb.lo_mem) rm
  · obtain ⟨j, rfl⟩ : ∃ j : ℕ, q' = q + (j + 1 : ℕ) := ⟨(q' - q).toNat - 1, by omega⟩
    have hex := h.eq_kept_iff j
    have hpick := h.kept_le j
    have hlt := h.lt_kept_succ j
    rw [roundAt_drop]
    refine ⟨fun hS => ?_, ?_, _, hpick, hlt, ?_⟩
    · have := (hS _ hpick hlt).roundsIn rm neg hex (h.dropped_compares j) (even_neighbour _ _)
      rwa [← apply_ite (scaled · _)] at this
    · constructor
      · intro (he : (m % 2 ^ (j + 1) == 0 && !sticky) = true)
        rw [dropped_exact he, he, roundsUp_exact]
        exact hex.1 he
      · intro he
        dsimp only at he
        split at he
        · exact absurd he hlt.ne
        · exact hex.2 he
    · exact (ite_eq_or_eq _ _ _).symm

/-! ### The numbers of a grid, and those of a significand with an exponent of any size -/

/-- The multiples of 2^q. -/
def IsMultiple (q : ℤ) (z : ℝ) : Prop := ∃ n : ℤ, z = n * (2 : ℝ) ^ q

/-- The numbers whose significand has p bits. -/
def HasBits (p : ℕ) (z : ℝ) : Prop := ∃ n k : ℤ, |n| < 2 ^ p ∧ z = n * (2 : ℝ) ^ k

theorem scaled_isMultiple (n : ℕ) (q : ℤ) : IsMultiple q (scaled n q) := ⟨n, by rw [scaled, Int.cast_natCast]⟩

theorem IsMultiple.neg {q : ℤ} {z : ℝ} (h : IsMultiple q z) : IsMultiple q (-z) := by
  obtain ⟨n, rfl⟩ := h
  exact ⟨-n, by push_cast; ring⟩

theorem IsMultiple.gap {q : ℤ} {z : ℝ} (h : IsMultiple q z) (n : ℕ) : z ≤ scaled n q ∨ scaled (n + 1) q ≤ z := by
  obtain ⟨a, rfl⟩ := h
  rcases Int.lt_or_le (n : ℤ) a with hlt | hle
  · refine .inr ?_
    rw [scaled, mul_le_mul_iff_left₀ (two_zpow_pos q)]
    exact_mod_cast hlt
  · refine .inl ?_
    rw [scaled, mul_le_mul_iff_left₀ (two_zpow_pos q)]
    exact_mod_cast hle

theorem neighbours_isMultiple {n : ℕ} {q : ℤ} {v : ℝ} (hlo : scaled n q ≤ v) (hhi : v < scaled (n + 1) q) :
    Neighbours (IsMultiple q) (scaled n q) (scaled (n + 1) q) v where
  lo_mem := scaled_isMultiple n q
  hi_mem := scaled_isMultiple (n + 1) q
  neg_mem _ hz := hz.neg
  gap _ hz := hz.gap n
  nonneg := scaled_nonneg n q
  le := hlo
  lt := hhi

theorem scaled_hasBits {p n : ℕ} (hn : n < 2 ^ p) (q : ℤ) : HasBits p (scaled n q) := by
  refine ⟨n, q, ?_, by rw [scaled, Int.cast_natCast]⟩
  rw [Nat.abs_cast]
  exact_mod_cast hn

theorem two_pow_hasBits {p : ℕ} (hp : 0 < p) (q : ℤ) : HasBits p (scaled (2 ^ p) q) := by
  rw [scaled_two_pow, ← one_mul ((2 : ℝ) ^ (q + p)), ← Nat.cast_one]
  exact scaled_hasBits (Nat.one_lt_two_pow hp.ne') _

theorem HasBits.neg {p : ℕ} {z : ℝ} (h : HasBits p z) : HasBits p (-z) := by
  obtain ⟨n, k, hn, rfl⟩ := h
  exact ⟨-n, k, by rwa [abs_neg], by push_cast; ring⟩

/-- A number whose unit is smaller than 2^q lies below the numbers that fill p bits in units of 2^q. -/
theorem HasBits.isMultiple_or_lt {p : ℕ} (hp : 0 < p) {z : ℝ} (h : HasBits p z) (q : ℤ) :
    IsMultiple q z ∨ z < scaled (2 ^ (p - 1)) q := by
  obtain ⟨n, k, hn, rfl⟩ := h
  rcases Int.lt_or_le k q with hlt | hle
  · refine .inr ?_
    have hz : (n : ℝ) * 2 ^ k < 2 ^ p * 2 ^ k := by
      rw [mul_lt_mul_iff_left₀ (two_zpow_pos k)]
      exact_mod_cast (le_abs_self n).trans_lt hn
    refine hz.trans_le ?_
    rw [scaled_two_pow, ← zpow_natCast, ← zpow_add₀ two_ne_zero]
    exact zpow_le_zpow_right₀ one_le_two (by omega)
  · refine .inl ⟨n * 2 ^ (k - q).toNat, ?_⟩
    have hk : k = ((k - q).toNat : ℤ) + q := by omega
    push_cast
    rw [mul_assoc, ← zpow_natCast, ← zpow_add₀ two_ne_zero, ← hk]

theorem neighbours_hasBits {p n : ℕ} {q : ℤ} {v : ℝ} (hp : 0 < p) (hfull : 2 ^ (p - 1) ≤ n) (hn : n < 2 ^ p)
    (hlo : scaled n q ≤ v) (hhi : v < scaled (n + 1) q) :
    Neighbours (HasBits p) (scaled n q) (scaled (n + 1) q) v where
  lo_mem := scaled_hasBits hn q
  hi_mem := by
    rcases (Nat.succ_le_of_lt hn).lt_or_eq with hlt | heq
    · exact scaled_hasBits hlt q
    · rw [show n + 1 = 2 ^ p from heq]
      exact two_pow_hasBits hp q
  neg_mem _ hz := hz.neg
  gap z hz := (hz.isMultiple_or_lt hp q).elim (·.gap n) fun hlt => .inl (hlt.le.trans (scaled_le_scaled_iff.2 hfull))
  nonneg := scaled_nonneg n q
  le := hlo
  lt := hhi

/-! ### Rounding to a significand of p bits -/

/-- The significand of p bits and its exponent that `Ty.round` finds first, with whether it is exact. -/
def roundBits (p : ℕ) (rm : Rm) (neg : Bool) (m : ℕ) (q : ℤ) (sticky : Bool) : (ℕ × ℤ) × Bool :=
  let qu := q + (bitLen m : ℤ) - p
  let r := roundAt rm neg m q sticky qu
  (if bitLen r.1 > p then (r.1 / 2, qu + 1) else (r.1, qu), r.2)

theorem Ty.round_eq (t : Ty) (rm : Rm) (sat neg : Bool) {m : ℕ} (hm : m ≠ 0) (q : ℤ) (sticky : Bool) :
    t.round rm sat neg m q sticky =
      let r := roundBits t.prec rm neg m q sticky
      if !scaledLe r.1.1 r.1.2 t.maxFinite.1 t.maxFinite.2 then t.overflow rm sat neg
      else if r.1.2 < t.minQ then
        let r' := roundAt rm neg m q sticky t.minQ
        (t.finBits neg r'.1 t.minQ, flagIf (!r'.2) (fUF ||| fNX))
      else (t.finBits neg r.1.1 r.1.2, flagIf (!r.2) fNX) := by
  rw [Ty.round, if_neg (by simp [hm])]
  rfl

/-- The significand fills its p bits, and is v rounded as if the exponent were unbounded. -/
structure RoundedBits (p : ℕ) (rm : Rm) (neg : Bool) (v : ℝ) (r : (ℕ × ℤ) × Bool) : Prop where
  full : 2 ^ (p - 1) ≤ r.1.1
  lt : r.1.1 < 2 ^ p
  roundsIn : RoundsIn (HasBits p) rm (withSign neg v) (withSign neg (scaled r.1.1 r.1.2))
  exact_iff : r.2 = true ↔ v = scaled r.1.1 r.1.2
  below : v < scaled (2 ^ p) r.1.2

theorem StandsFor.roundBits {p m : ℕ} {q : ℤ} {sticky : Bool} {v : ℝ} (h : StandsFor m q sticky v) (hp : 0 < p) (hm : m ≠ 0)
    (hsticky : sticky = true → 2 ^ (p + 1) ≤ m) (rm : Rm) (neg : Bool) :
    RoundedBits p rm neg v (roundBits p rm neg m q sticky) := by
  have hbits : sticky = true → p + 1 < bitLen m := fun hs => lt_bitLen_iff.2 (hsticky hs)
  have hpos := bitLen_pos hm
  have hcut := h.roundAt (q' := q + (bitLen m : ℤ) - p) (fun hs => by have := hbits hs; omega) rm neg
  rw [Sys2Proof.roundBits]
  generalize hqu : q + (bitLen m : ℤ) - p = qu at hcut ⊢
  have hlow : scaled (2 ^ (p - 1)) qu ≤ v := by
    refine le_trans ?_ ((scaled_le_scaled_iff.2 (two_pow_bitLen_le hm)).trans h.le)
    rw [scaled_two_pow, scaled_two_pow]
    exact zpow_le_zpow_right₀ one_le_two (by omega)
  have hhigh : v < scaled (2 ^ p) qu := by
    refine (h.lt.trans_le (scaled_le_scaled_iff.2 (Machine.lt_two_pow_bitLen m))).trans_le ?_
    rw [scaled_two_pow, scaled_two_pow]
    exact zpow_le_zpow_right₀ one_le_two (by omega)
  have hrange {n : ℕ} (hlo : scaled n qu ≤ v) (hhi : v < scaled (n + 1) qu) : 2 ^ (p - 1) ≤ n ∧ n < 2 ^ p :=
    ⟨Nat.le_of_lt_succ (scaled_lt_scaled_iff.1 (hlow.trans_lt hhi)), scaled_lt_scaled_iff.1 (hlo.trans_lt hhigh)⟩
  have hround := hcut.roundsIn fun n hlo hhi => neighbours_hasBits hp (hrange hlo hhi).1 (hrange hlo hhi).2 hlo hhi
  have hexact := hcut.exact_iff
  obtain ⟨n, hlo, hhi, hn⟩ := hcut.multiple
  obtain ⟨hfull, hlt⟩ := hrange hlo hhi
  generalize Sys2Proof.roundAt rm neg m q sticky qu = r at hround hexact hn ⊢
  split_ifs with hover
  · have htop : r.1 = 2 ^ p := by
      have := lt_bitLen_iff.1 hover
      omega
    have hhalf : r.1 / 2 = 2 ^ (p - 1) := by
      rw [htop, Nat.div_eq_of_eq_mul_right two_pos]
      rw [← pow_succ', Nat.sub_add_cancel hp]
    have hsame : scaled (r.1 / 2) (qu + 1) = scaled r.1 qu := by
      rw [hhalf, htop, scaled_two_pow, scaled_two_pow]
      congr 1
      omega
    refine ⟨hhalf.ge, hhalf.trans_lt (Nat.pow_lt_pow_right one_lt_two (by omega)), ?_, ?_, 
      hhigh.trans_le (scaled_le_of_le _ (by omega : qu ≤ qu + 1))⟩
    · rwa [hsame]
    · rwa [hsame]
  · have hfit : r.1 < 2 ^ p := not_le.1 (lt_bitLen_iff.not.1 hover)
    exact ⟨show 2 ^ (p - 1) ≤ r.1 by omega, hfit, hround, hexact, hhigh⟩

/-! ### The floating formats (R130, R131) -/

section

variable {t : Ty} (ht : t.isFloat = true)

include ht

theorem Ty.prec_gt_two : 2 < t.prec := by
  revert ht
  cases t <;> decide

/-- A sign, an exponent, and a fraction without the leading bit. -/
theorem Ty.width_eq (ha : t ≠ .a80) : t.width - 1 = t.expBits + (t.prec - 1) := by
  revert ht ha
  cases t <;> decide

theorem Ty.width_pos : 0 < t.width := by
  revert ht
  cases t <;> decide

/-- The smallest normal number is the unit of the subnormals with the leading bit of a significand. -/
theorem Ty.smallest_normal : t.minQ + (t.prec - 1 : ℕ) = 1 - (t.bias : ℤ) := by
  revert ht
  cases t <;> decide

theorem Ty.signBit_lt (neg : Bool) : t.signBit neg < 2 ^ t.width := by
  rw [Ty.signBit]
  split
  · exact Nat.pow_lt_pow_right one_lt_two (by have := Ty.width_pos ht; omega)
  · positivity

theorem Ty.canonNan_lt : t.canonNan < 2 ^ t.width := by
  revert ht
  cases t <;> decide

theorem Ty.infBits_lt (neg : Bool) : t.infBits neg < 2 ^ t.width := by
  revert ht
  cases t <;> cases neg <;> decide

theorem Ty.maxBits_lt (neg : Bool) : t.maxBits neg < 2 ^ t.width := by
  revert ht
  cases t <;> cases neg <;> decide

/-- The largest finite values of R131. -/
theorem Ty.value_maxBits (neg : Bool) : t.value (t.maxBits neg) = .fin neg t.maxFinite.1 t.maxFinite.2 := by
  revert ht
  cases t <;> cases neg <;> decide

/-- The infinities of R131. -/
theorem Ty.value_infBits (he : t ≠ .e4m3) (neg : Bool) : t.value (t.infBits neg) = .inf neg := by
  revert ht he
  cases t <;> cases neg <;> decide

end

/-! ### The fields of a pattern -/

section

variable {a b e f : ℕ} (he : e < 2 ^ a) (hf : f < 2 ^ b) (neg : Bool)

include hf

theorem fields_mod : ((if neg then 2 ^ (a + b) else 0) + e * 2 ^ b + f) % 2 ^ b = f := by
  have hsign : 2 ^ b ∣ if neg then 2 ^ (a + b) else 0 := by
    split
    · exact pow_dvd_pow 2 (Nat.le_add_left b a)
    · exact dvd_zero _
  rw [Nat.add_mod, Nat.mod_eq_zero_of_dvd (dvd_add hsign (dvd_mul_left _ _)), zero_add, Nat.mod_mod, Nat.mod_eq_of_lt hf]

theorem fields_div : ((if neg then 2 ^ (a + b) else 0) + e * 2 ^ b + f) / 2 ^ b = (if neg then 2 ^ a else 0) + e := by
  have hsign : (if neg then 2 ^ (a + b) else 0) = (if neg then 2 ^ a else 0) * 2 ^ b := by
    split
    · exact pow_add 2 a b
    · exact (zero_mul _).symm
  rw [hsign, ← add_mul, mul_comm, Nat.mul_add_div (by positivity), Nat.div_eq_of_lt hf, add_zero]

include he

theorem fields_exponent : ((if neg then 2 ^ (a + b) else 0) + e * 2 ^ b + f) / 2 ^ b % 2 ^ a = e := by
  rw [fields_div hf]
  cases neg <;> simp [Nat.mod_eq_of_lt he]

theorem fields_sign : ((if neg then 2 ^ (a + b) else 0) + e * 2 ^ b + f).testBit (a + b) = neg := by
  rw [← Nat.testBit_div_two_pow, fields_div hf]
  cases neg <;> simp [Nat.testBit_lt_two_pow he, Nat.testBit_two_pow_add_eq]

theorem fields_lt : (if neg then 2 ^ (a + b) else 0) + e * 2 ^ b + f < 2 ^ (a + b + 1) := by
  have hlow : e * 2 ^ b + f < 2 ^ (a + b) := by
    rw [pow_add]
    exact (Nat.add_lt_add_left hf _).trans_le (by rw [← Nat.succ_mul]; exact Nat.mul_le_mul_right _ he)
  rw [pow_succ]
  split <;> omega

end

/-! ### The finite patterns -/

section

variable {t : Ty} (ht : t.isFloat = true) (ha : t ≠ .a80) {e f : ℕ} (hf : f < 2 ^ (t.prec - 1)) (neg : Bool)

include ht ha hf

theorem Ty.value_subnormal : t.value (t.signBit neg + f) = .fin neg f t.minQ := by
  have hpos : (0 : ℕ) < 2 ^ t.expBits := by positivity
  have hmod := fields_mod (a := t.expBits) (e := 0) hf neg
  have hexp := fields_exponent hpos hf neg
  have hsign := fields_sign hpos hf neg
  have hmax : 0 ≠ 2 ^ t.expBits - 1 := by
    revert ht
    cases t <;> decide
  rw [← Ty.width_eq ht ha, zero_mul, add_zero, ← Ty.signBit] at hmod hexp hsign
  unfold Ty.value
  split
  · exact absurd rfl ha
  · simp [hmod, hexp, hsign, hmax]

theorem Ty.fields_lt_width (he : e < 2 ^ t.expBits) : t.signBit neg + e * 2 ^ (t.prec - 1) + f < 2 ^ t.width := by
  have hlt := fields_lt he hf neg
  rwa [← Ty.width_eq ht ha, ← Ty.signBit, Nat.sub_add_cancel (Ty.width_pos ht)] at hlt

/-- Of the exponent field of all ones, e4m3 has seven numbers, and the other formats none. -/
theorem Ty.value_normal (he : 1 ≤ e) (htop : if t = .e4m3 then e < 2 ^ t.expBits ∧ ¬(e = 15 ∧ f = 7) else e < 2 ^ t.expBits - 1) :
    t.value (t.signBit neg + e * 2 ^ (t.prec - 1) + f) = .fin neg (f + 2 ^ (t.prec - 1)) (t.minQ + e - 1) := by
  have hlt : e < 2 ^ t.expBits := by
    split at htop
    · exact htop.1
    · omega
  have hmod := fields_mod (a := t.expBits) (e := e) hf neg
  have hexp := fields_exponent hlt hf neg
  have hsign := fields_sign hlt hf neg
  rw [← Ty.width_eq ht ha, ← Ty.signBit] at hmod hexp hsign
  unfold Ty.value
  split
  · exact absurd rfl ha
  · simp only [hmod, hexp, hsign]
    have h0 : e ≠ 0 := Nat.one_le_iff_ne_zero.1 he
    by_cases h4 : t = .e4m3
    · rw [if_pos h4] at htop
      have hmax : ¬(e = 2 ^ t.expBits - 1 ∧ f = 7) := by
        rw [h4]
        exact htop.2
      rw [if_pos h4, if_neg hmax, if_neg h0]
    · rw [if_neg h4] at htop
      rw [if_neg h4, if_neg htop.ne, if_neg h0]

end

/-- Every a80 pattern whose exponent field is not all ones has a value, canonical or not (R132). -/
theorem value_a80 {e f : ℕ} (he : e < 0x7FFF) (hf : f < 2 ^ 64) (neg : Bool) :
    Ty.a80.value (Ty.a80.signBit neg + e * 2 ^ 64 + f) = .fin neg f ((max e 1 : ℕ) - 16446 : ℤ) := by
  have hmod := fields_mod (a := 15) (e := e) hf neg
  have hexp := fields_exponent (a := 15) (he.trans (by decide)) hf neg
  have hsign := fields_sign (a := 15) (he.trans (by decide)) hf neg
  have hbit : Ty.a80.signBit neg = if neg then 2 ^ (15 + 64) else 0 := rfl
  rw [← hbit] at hmod hexp hsign
  simp only [Ty.value, hmod, hexp, hsign, if_neg he.ne]

section

variable {t : Ty} (ht : t.isFloat = true)

include ht

theorem Ty.maxFinite_lt : t.maxFinite.1 < 2 ^ t.prec := by
  revert ht
  cases t <;> decide

/-- The largest exponent field of a finite pattern. -/
theorem Ty.maxFinite_exponent : t.maxFinite.2 - t.minQ + 1 = if t = .e4m3 then 15 else 2 ^ t.expBits - 2 := by
  revert ht
  cases t <;> decide

/-- A number with a full significand is finite when its exponent is below that of the largest one, or at it and its significand
is not larger. -/
theorem Ty.exponent_le {m : ℕ} {q : ℤ} (hfull : 2 ^ (t.prec - 1) ≤ m)
    (hmost : scaled m q ≤ scaled t.maxFinite.1 t.maxFinite.2) : q < t.maxFinite.2 ∨ q = t.maxFinite.2 ∧ m ≤ t.maxFinite.1 := by
  rcases lt_trichotomy q t.maxFinite.2 with hlt | heq | hgt
  · exact .inl hlt
  · rw [heq, scaled_le_scaled_iff] at hmost
    exact .inr ⟨heq, hmost⟩
  · have hp := Ty.prec_gt_two ht
    have hbig : scaled (2 ^ t.prec) t.maxFinite.2 ≤ scaled m q := by
      refine le_trans ?_ (scaled_le_scaled_iff.2 hfull)
      rw [scaled_two_pow, scaled_two_pow]
      exact zpow_le_zpow_right₀ one_le_two (by omega)
    exact absurd (scaled_lt_scaled_iff.2 (Ty.maxFinite_lt ht)) (hbig.trans hmost).not_gt

/-- So its exponent field is that of a number, and in e4m3 not that of the NaN. -/
theorem Ty.exponentField_finite {m : ℕ} {q : ℤ} (hfull : 2 ^ (t.prec - 1) ≤ m) (hge : t.minQ ≤ q)
    (hmost : scaled m q ≤ scaled t.maxFinite.1 t.maxFinite.2) :
    if t = .e4m3 then
      (q - t.minQ).toNat + 1 < 2 ^ t.expBits ∧ ¬((q - t.minQ).toNat + 1 = 15 ∧ m - 2 ^ (t.prec - 1) = 7)
    else (q - t.minQ).toNat + 1 < 2 ^ t.expBits - 1 := by
  have htop := Ty.exponent_le ht hfull hmost
  by_cases h4 : t = .e4m3
  · subst h4
    have hmin : Ty.e4m3.minQ = -9 := rfl
    have htop' : q < 5 ∨ q = 5 ∧ m ≤ 14 := htop
    rw [if_pos rfl, hmin, show 2 ^ Ty.e4m3.expBits = 16 from rfl, show 2 ^ (Ty.e4m3.prec - 1) = 8 from rfl]
    omega
  · have hmax := Ty.maxFinite_exponent ht
    have hcast : ((2 ^ t.expBits : ℕ) : ℤ) = 2 ^ t.expBits := by push_cast; rfl
    rw [if_neg h4] at hmax ⊢
    omega

end

/-- A significand and an exponent whose number is in the range of a format, with the least exponent when the leading bit is not
set. -/
structure Ty.Encodes (t : Ty) (m : ℕ) (q : ℤ) : Prop where
  lt : m < 2 ^ t.prec
  full : m < 2 ^ (t.prec - 1) → q = t.minQ
  ge : t.minQ ≤ q
  le : scaled m q ≤ scaled t.maxFinite.1 t.maxFinite.2

/-- R132: the leading bit of an a80 pattern agrees with its exponent. -/
def Ty.Canonical (t : Ty) (r : ℕ) : Prop := t = .a80 → (r.testBit 63 = true ↔ r / 2 ^ 64 % 2 ^ 15 ≠ 0)

theorem finBits_a80 (neg : Bool) (m : ℕ) (q : ℤ) :
    Ty.a80.finBits neg m q = Ty.a80.signBit neg + (if m < 2 ^ 63 then 0 else (q + 16445).toNat + 1) * 2 ^ 64 + m := by
  unfold Ty.finBits
  have hmin : q - Ty.a80.minQ = q + 16445 := sub_neg_eq_add q 16445
  have hprec : Ty.a80.prec - 1 = 63 := rfl
  rw [hmin, hprec]
  by_cases hm : m < 2 ^ 63
  · rw [if_pos hm, if_pos hm, zero_mul, add_zero]
  · rw [if_neg hm, if_neg hm]

theorem Ty.a80_encodes {m : ℕ} {q : ℤ} (h : Ty.a80.Encodes m q) (neg : Bool) :
    Ty.a80.value (Ty.a80.finBits neg m q) = .fin neg m q ∧ Ty.a80.finBits neg m q < 2 ^ 80 ∧
      Ty.a80.Canonical (Ty.a80.finBits neg m q) := by
  obtain ⟨hlt, hfull, hge, hle⟩ := h
  have hmin : Ty.a80.minQ = -16445 := rfl
  have hprec : Ty.a80.prec = 64 := rfl
  rw [hprec] at hlt hfull
  rw [hmin] at hfull hge
  rw [finBits_a80]
  generalize he : (if m < 2 ^ 63 then 0 else (q + 16445).toNat + 1) = e
  have htop : e < 0x7FFF := by
    rw [← he]
    split
    · decide
    · have htop' : q < 16320 ∨ q = 16320 ∧ m ≤ 2 ^ 64 - 1 := Ty.exponent_le (t := .a80) rfl (not_lt.1 ‹_›) hle
      omega
  refine ⟨?_, fields_lt (a := 15) (htop.trans (by decide)) hlt neg, fun _ => ?_⟩
  · rw [value_a80 htop hlt]
    congr 1
    rw [← he]
    split <;> omega
  · have hexp : (Ty.a80.signBit neg + e * 2 ^ 64 + m) / 2 ^ 64 % 2 ^ 15 = e :=
      fields_exponent (a := 15) (htop.trans (by decide)) hlt neg
    have hlow : (Ty.a80.signBit neg + e * 2 ^ 64 + m) % 2 ^ 64 = m := fields_mod (a := 15) hlt neg
    have hbit := Nat.testBit_mod_two_pow (Ty.a80.signBit neg + e * 2 ^ 64 + m) 64 63
    rw [hlow, decide_eq_true (by decide), Bool.true_and, Nat.testBit_eq_decide_div_mod_eq] at hbit
    rw [hexp, ← hbit, decide_eq_true_eq, ← he]
    split <;> omega

/-- `finBits` is the encoding of the numbers that a format has. -/
theorem Ty.encodes {t : Ty} (ht : t.isFloat = true) {m : ℕ} {q : ℤ} (h : t.Encodes m q) (neg : Bool) :
    t.value (t.finBits neg m q) = .fin neg m q ∧ t.finBits neg m q < 2 ^ t.width ∧ t.Canonical (t.finBits neg m q) := by
  by_cases ha : t = .a80
  · subst ha
    exact Ty.a80_encodes h neg
  obtain ⟨hlt, hfull, hge, hle⟩ := h
  by_cases hm : m < 2 ^ (t.prec - 1)
  · have hbits : t.finBits neg m q = t.signBit neg + m := by
      unfold Ty.finBits
      rw [if_pos hm]
    have hw := Ty.fields_lt_width ht ha hm neg (e := 0) (by positivity)
    rw [zero_mul, add_zero] at hw
    rw [hbits, Ty.value_subnormal ht ha hm, hfull hm]
    exact ⟨rfl, hw, fun h => absurd h ha⟩
  · have hp := Ty.prec_gt_two ht
    have hf : m - 2 ^ (t.prec - 1) < 2 ^ (t.prec - 1) := by
      have : 2 ^ t.prec = 2 ^ (t.prec - 1) * 2 := by rw [← pow_succ, Nat.sub_add_cancel (by omega)]
      omega
    have hbits : t.finBits neg m q =
        t.signBit neg + ((q - t.minQ).toNat + 1) * 2 ^ (t.prec - 1) + (m - 2 ^ (t.prec - 1)) := by
      unfold Ty.finBits
      rw [if_neg hm]
      split
      · exact absurd rfl ha
      · rfl
    have he := Ty.exponentField_finite ht (not_lt.1 hm) hge hle
    rw [hbits, Ty.value_normal ht ha hf neg (by omega) he]
    refine ⟨?_, Ty.fields_lt_width ht ha hf neg ?_, fun h => absurd h ha⟩
    · congr 1
      · omega
      · push_cast
        omega
    · split at he
      · exact he.1
      · omega

/-! ### Rounding into a format -/

theorem FVal.is_fin (neg : Bool) (m : ℕ) (q : ℤ) (v : ℝ) : (FVal.fin neg m q).Is v ↔ v = withSign neg (scaled m q) := by
  rw [withSign_eq_mul, scaled, ← mul_assoc]
  rfl

/-- The modes under which an overflow becomes an infinity (R136). -/
def toInf (rm : Rm) (neg : Bool) : Bool :=
  match rm with
  | .rne | .rna => true
  | .rtz => false
  | .rup => !neg
  | .rdn => neg

theorem Ty.overflow_eq (t : Ty) (rm : Rm) (neg : Bool) :
    t.overflow rm false neg = (if toInf rm neg then t.infBits neg else t.maxBits neg, fOF ||| fNX) := by
  cases rm <;> rfl

section

variable {t : Ty} (ht : t.isFloat = true)

include ht

theorem Ty.overflow_lt (rm : Rm) (sat neg : Bool) : (t.overflow rm sat neg).1 < 2 ^ t.width := by
  cases sat with
  | true => exact Ty.maxBits_lt ht neg
  | false =>
    rw [Ty.overflow_eq]
    split
    · exact Ty.infBits_lt ht neg
    · exact Ty.maxBits_lt ht neg

/-- What R136, or R143 with SAT, puts for an overflowing number. -/
theorem Ty.overflow_value {rm : Rm} {sat neg : Bool} {v : ℝ} {P : Prop} (hv : v < 0 ↔ neg = true) (hP : P ↔ toInf rm neg = true) :
    let x := t.overflow rm sat neg
    let most := scaled t.maxFinite.1 t.maxFinite.2
    x.2 = (if sat then fSAT ||| fNX else fOF ||| fNX) ∧
      (sat = false → P → if t = .e4m3 then x.1 = 0x7F else ∃ neg, t.value x.1 = .inf neg ∧ (neg = true ↔ v < 0)) ∧
      (sat = true ∨ ¬P → (t.value x.1).Is (if v < 0 then -most else most)) := by
  intro x most
  have hmost : (t.value (t.maxBits neg)).Is (if v < 0 then -most else most) := by
    rw [Ty.value_maxBits ht, FVal.is_fin, withSign]
    simp only [hv, most]
  cases sat with
  | true => exact ⟨rfl, fun h => Bool.noConfusion h, fun _ => hmost⟩
  | false =>
    have hx : x = t.overflow rm false neg := rfl
    rw [Ty.overflow_eq] at hx
    rw [hx, hP]
    refine ⟨rfl, fun _ hinf => ?_, fun hfin => ?_⟩
    · simp only [hinf, if_true]
      split
      · subst t
        rfl
      · exact ⟨neg, Ty.value_infBits ht ‹_› neg, hv.symm⟩
    · have hfin' := hfin.resolve_left Bool.noConfusion
      simp only [hfin']
      exact hmost

end

theorem flagIf_of_iff {ex : Bool} {P : Prop} (h : ex = true ↔ P) (f : FlagBits) :
    (P → flagIf (!ex) f = 0) ∧ (¬P → flagIf (!ex) f = f) := by
  cases ex <;> simp_all [flagIf]

/-- The smallest normal number of a format. -/
theorem scaled_smallest_normal {t : Ty} (ht : t.isFloat = true) :
    scaled (2 ^ (t.prec - 1)) t.minQ = (2 : ℝ) ^ (1 - (t.bias : ℤ)) := by
  rw [scaled_two_pow, Ty.smallest_normal ht]

theorem scaled_smallest_normal_le {t : Ty} (ht : t.isFloat = true) :
    scaled (2 ^ (t.prec - 1)) t.minQ ≤ scaled t.maxFinite.1 t.maxFinite.2 := by
  have hfits : 2 ^ (t.prec - 1) ≤ t.maxFinite.1 ∧ t.minQ ≤ t.maxFinite.2 := by
    revert ht
    cases t <;> decide
  exact (scaled_le_scaled_iff.2 hfits.1).trans (scaled_le_of_le _ hfits.2)

/-! The three outcomes of R135 and R136, from the number rounded as if the exponent were unbounded. -/

section

variable {t : Ty} (ht : t.isFloat = true) {rm : Rm} {neg : Bool} {v : ℝ} (hv : 0 < v) {r : (ℕ × ℤ) × Bool}
  (hr : RoundedBits t.prec rm neg v r) (sat : Bool)

theorem abs_withSign_scaled (neg : Bool) (m : ℕ) (q : ℤ) : |withSign neg (scaled m q)| = scaled m q := by
  rw [abs_withSign, abs_of_nonneg (scaled_nonneg _ _)]

include ht hv hr

theorem RoundedBits.rounds_overflow (hover : scaled t.maxFinite.1 t.maxFinite.2 < scaled r.1.1 r.1.2) :
    t.Rounds rm sat (withSign neg v) (t.overflow rm sat neg).1 (t.overflow rm sat neg).2 := by
  refine ⟨Ty.overflow_lt ht rm sat neg, _, hr.roundsIn, fun _ => ?_, fun hle => ?_⟩
  · refine Ty.overflow_value ht (withSign_neg_iff hv neg) ?_
    cases rm <;> cases neg <;> simp [toInf, hv, hv.le]
  · rw [abs_withSign_scaled] at hle
    exact absurd hle hover.not_ge

theorem RoundedBits.rounds_normal (hfits : scaled r.1.1 r.1.2 ≤ scaled t.maxFinite.1 t.maxFinite.2) (hnormal : t.minQ ≤ r.1.2) :
    t.Rounds rm sat (withSign neg v) (t.finBits neg r.1.1 r.1.2) (flagIf (!r.2) fNX) := by
  obtain ⟨hval, hlt, hcan⟩ := Ty.encodes ht ⟨hr.lt, fun hlt => absurd hr.full hlt.not_ge, hnormal, hfits⟩ neg
  have hu : (2 : ℝ) ^ (1 - (t.bias : ℤ)) ≤ scaled r.1.1 r.1.2 := by
    rw [← scaled_smallest_normal ht]
    exact (scaled_le_scaled_iff.2 hr.full).trans (scaled_le_of_le _ hnormal)
  refine ⟨hlt, _, hr.roundsIn, fun hgt => ?_, fun _ =>
    ⟨⟨_, _, _, hval, (withSign_neg_iff hv neg).symm⟩, hcan, fun _ => ⟨by rw [hval, FVal.is_fin], ?_⟩, fun hsmall => ?_⟩⟩
  · rw [abs_withSign_scaled] at hgt
    exact absurd hfits hgt.not_ge
  · simp only [Ne, withSign_inj]
    exact flagIf_of_iff (hr.exact_iff.trans eq_comm) _
  · rw [abs_withSign_scaled] at hsmall
    exact absurd hu hsmall.not_ge

theorem RoundedBits.rounds_tiny (hfits : scaled r.1.1 r.1.2 ≤ scaled t.maxFinite.1 t.maxFinite.2) (htiny : r.1.2 < t.minQ)
    {r' : ℕ × Bool} (hround : RoundsIn (IsMultiple t.minQ) rm (withSign neg v) (withSign neg (scaled r'.1 t.minQ)))
    (hexact : r'.2 = true ↔ v = scaled r'.1 t.minQ) (henc : t.Encodes r'.1 t.minQ) :
    t.Rounds rm sat (withSign neg v) (t.finBits neg r'.1 t.minQ) (flagIf (!r'.2) (fUF ||| fNX)) := by
  obtain ⟨hval, hlt, hcan⟩ := Ty.encodes ht henc neg
  have hp := Ty.prec_gt_two ht
  have hu : scaled r.1.1 r.1.2 < 2 ^ (1 - (t.bias : ℤ)) := by
    refine (scaled_lt_scaled_iff.2 hr.lt).trans_le ?_
    rw [scaled_two_pow, ← Ty.smallest_normal ht]
    exact zpow_le_zpow_right₀ one_le_two (by omega)
  refine ⟨hlt, _, hr.roundsIn, fun hgt => ?_, fun _ =>
    ⟨⟨_, _, _, hval, (withSign_neg_iff hv neg).symm⟩, hcan, fun hge => ?_, fun _ => ⟨_, hround, by rw [hval, FVal.is_fin], ?_⟩⟩⟩
  · rw [abs_withSign_scaled] at hgt
    exact absurd hfits hgt.not_ge
  · rw [abs_withSign_scaled] at hge
    exact absurd hu hge.not_gt
  · simp only [Ne, withSign_inj]
    exact flagIf_of_iff (hexact.trans eq_comm) _

end

section

variable {t : Ty} (ht : t.isFloat = true) {m : ℕ} {q : ℤ} {sticky : Bool} {v : ℝ} (h : StandsFor m q sticky v) (rm : Rm) (neg : Bool)

include ht h

/-- Below the smallest normal number `roundAt` rounds to the subnormal grid, and gives the format a number to encode. -/
theorem StandsFor.roundSubnormal (hq : sticky = true → q < t.minQ) (htiny : v < scaled (2 ^ (t.prec - 1)) t.minQ) :
    let r := Sys2Proof.roundAt rm neg m q sticky t.minQ
    RoundsIn (IsMultiple t.minQ) rm (withSign neg v) (withSign neg (scaled r.1 t.minQ)) ∧
      (r.2 = true ↔ v = scaled r.1 t.minQ) ∧ t.Encodes r.1 t.minQ := by
  have hr := h.roundAt hq rm neg
  generalize Sys2Proof.roundAt rm neg m q sticky t.minQ = r at hr
  obtain ⟨n, hlo, -, hn⟩ := hr.multiple
  have hlt : n < 2 ^ (t.prec - 1) := scaled_lt_scaled_iff.1 (hlo.trans_lt htiny)
  have hle : r.1 ≤ 2 ^ (t.prec - 1) := by
    rcases hn with hn | hn <;> omega
  refine ⟨hr.roundsIn fun n hlo hhi => neighbours_isMultiple hlo hhi, hr.exact_iff, ?_, fun _ => rfl, le_rfl, ?_⟩
  · exact hle.trans_lt (Nat.pow_lt_pow_right one_lt_two (by have := Ty.prec_gt_two ht; omega))
  · exact (scaled_le_scaled_iff.2 hle).trans (scaled_smallest_normal_le ht)

/-- `Ty.round` rounds the number that its arguments stand for. -/
theorem StandsFor.rounds (hv : 0 < v) (hsticky : sticky = true → 2 ^ (t.prec + 1) ≤ m) (sat : Bool) :
    t.Rounds rm sat (withSign neg v) (t.round rm sat neg m q sticky).1 (t.round rm sat neg m q sticky).2 := by
  have hp := Ty.prec_gt_two ht
  have hm : m ≠ 0 := by
    rintro rfl
    cases sticky with
    | false => simp [h.exact rfl, scaled] at hv
    | true => exact absurd (hsticky rfl) (by simp)
  have hr := h.roundBits (by omega) hm hsticky rm neg
  rw [Ty.round_eq t rm sat neg hm]
  generalize Sys2Proof.roundBits t.prec rm neg m q sticky = r at hr
  dsimp only
  split_ifs with hover htiny <;> rw [Bool.not_eq_true'] at hover
  · rw [← Bool.not_eq_true, scaledLe_iff, not_le] at hover
    exact hr.rounds_overflow ht hv sat hover
  · rw [Bool.not_eq_false, scaledLe_iff] at hover
    have hbelow : v < scaled (2 ^ (t.prec - 1)) t.minQ := by
      refine hr.below.trans_le ?_
      rw [scaled_two_pow, scaled_two_pow]
      exact zpow_le_zpow_right₀ one_le_two (by omega)
    have hsub : sticky = true → q < t.minQ := fun hs => by
      have hlow := ((scaled_le_scaled_iff.2 (hsticky hs)).trans h.le).trans_lt hr.below
      rw [scaled_two_pow, scaled_two_pow, zpow_lt_zpow_iff_right₀ one_lt_two] at hlow
      omega
    obtain ⟨hround, hexact, henc⟩ := h.roundSubnormal ht rm neg hsub hbelow
    exact hr.rounds_tiny ht hv sat hover htiny hround hexact henc
  · rw [Bool.not_eq_false, scaledLe_iff] at hover
    exact hr.rounds_normal ht hv sat hover (not_lt.1 htiny)

end

/-- Settles O28: v is the magnitude that the arguments of the rounding stand for. -/
theorem roundingIsCorrect : Obligations.RoundingIsCorrect := by
  intro t rm sat neg sticky m q v ht hv hexact hbetween
  have h : StandsFor m q sticky v := by
    refine ⟨hexact, fun hs => ?_⟩
    obtain ⟨hlo, hhi, -⟩ := hbetween hs
    refine ⟨hlo, ?_⟩
    rwa [scaled, Nat.cast_succ]
  exact h.rounds ht rm neg hv (fun hs => (hbetween hs).2.2) sat

end Sys2Proof

/-!
PROOFS. Scalar float arithmetic (R149): the exact result of an operation, rounded once, and the special cases. Obligations O29 and
O30.
-/

namespace Sys2Proof

/-! ### Values as real numbers -/

theorem FVal.Is.exists_fin {x : FVal} {v : ℝ} (h : x.Is v) : ∃ neg m q, x = .fin neg m q ∧ v = withSign neg (scaled m q) := by
  cases x with
  | fin neg m q => exact ⟨neg, m, q, rfl, (FVal.is_fin neg m q v).1 h⟩
  | nan | inf => exact h.elim

@[simp] theorem withSign_eq_zero (neg : Bool) (v : ℝ) : withSign neg v = 0 ↔ v = 0 := by
  cases neg <;> simp

@[simp] theorem scaled_eq_zero (m : ℕ) (q : ℤ) : scaled m q = 0 ↔ m = 0 := by
  simp [scaled, (two_zpow_pos q).ne']

@[simp] theorem scaled_zero (q : ℤ) : scaled 0 q = 0 := by simp

@[simp] theorem withSign_zero (neg : Bool) : withSign neg 0 = 0 := by simp

theorem scaled_mul_scaled (m n : ℕ) (q r : ℤ) : scaled m q * scaled n r = scaled (m * n) (q + r) := by
  simp only [scaled, zpow_add₀ (two_ne_zero : (2 : ℝ) ≠ 0), Nat.cast_mul]
  ring

theorem withSign_mul_withSign (a b : Bool) (u v : ℝ) : withSign a u * withSign b v = withSign (a != b) (u * v) := by
  cases a <;> cases b <;> simp

theorem withSign_abs {v : ℝ} {neg : Bool} (h : neg = true ↔ v < 0) : withSign neg |v| = v := by
  cases neg with
  | true => rw [withSign_true, abs_of_neg (h.1 rfl), neg_neg]
  | false =>
    have : ¬v < 0 := fun hv => Bool.noConfusion (h.2 hv)
    rw [withSign_false, abs_of_nonneg (not_lt.1 this)]

/-- The real number of a dyadic. -/
noncomputable def Dy.real (d : Dy) : ℝ := d.n * (2 : ℝ) ^ d.q

theorem FVal.Is.dy_real {x : FVal} {v : ℝ} (h : x.Is v) : x.dy.real = v := by
  obtain ⟨neg, m, q, rfl, rfl⟩ := h.exists_fin
  cases neg <;> simp [FVal.dy, Dy.real, scaled]

theorem Dy.real_shift (n : ℤ) {q q' : ℤ} (h : q' ≤ q) :
    ((n * 2 ^ (q - q').toNat : ℤ) : ℝ) * 2 ^ q' = n * (2 : ℝ) ^ q := by
  have hq : q = ((q - q').toNat : ℤ) + q' := by omega
  rw [Int.cast_mul, Int.cast_pow, Int.cast_ofNat, mul_assoc, ← zpow_natCast, ← zpow_add₀ two_ne_zero, ← hq]

theorem Dy.add_real (a b : Dy) : (a.add b).real = a.real + b.real := by
  rw [Dy.real, Dy.add, Int.cast_add, add_mul, Dy.real_shift _ (min_le_left _ _), Dy.real_shift _ (min_le_right _ _)]
  rfl

theorem Dy.real_eq_zero_iff (d : Dy) : d.real = 0 ↔ d.n = 0 := by
  simp [Dy.real, (two_zpow_pos d.q).ne']

theorem Dy.real_neg_iff (d : Dy) : d.real < 0 ↔ d.n < 0 := by
  rw [← not_le, ← not_le, Dy.real, mul_nonneg_iff_of_pos_right (two_zpow_pos d.q), Int.cast_nonneg_iff]

/-- An exact argument stands for its number. -/
theorem standsFor_scaled (m : ℕ) (q : ℤ) : StandsFor m q false (scaled m q) := ⟨fun _ => rfl, fun h => Bool.noConfusion h⟩

section

variable {t : Ty} (ht : t.isFloat = true) (rm : Rm) (sat : Bool)

theorem Ty.round_zero (t : Ty) (rm : Rm) (sat neg : Bool) (q : ℤ) : t.round rm sat neg 0 q false = (t.signBit neg, 0) := rfl

include ht

/-- A finite value other than zero, rounded. -/
theorem Ty.round_rounds (neg : Bool) {m : ℕ} (q : ℤ) (hm : m ≠ 0) :
    t.Rounds rm sat (withSign neg (scaled m q)) (t.round rm sat neg m q false).1 (t.round rm sat neg m q false).2 :=
  (standsFor_scaled m q).rounds ht rm neg (scaled_pos_iff.2 (Nat.pos_of_ne_zero hm)) Bool.noConfusion sat

/-- A dyadic other than zero, rounded. -/
theorem Ty.roundDy_rounds (zeroNeg : Bool) {d : Dy} {v : ℝ} (hd : d.real = v) (hv : v ≠ 0) :
    t.Rounds rm sat v (t.roundDy rm sat zeroNeg d).1 (t.roundDy rm sat zeroNeg d).2 := by
  subst hd
  have hn : d.n ≠ 0 := (Dy.real_eq_zero_iff d).not.1 hv
  have habs : withSign (d.n < 0) (scaled d.n.natAbs d.q) = d.real := by
    have : scaled d.n.natAbs d.q = |d.real| := by
      rw [Dy.real, abs_mul, abs_of_pos (two_zpow_pos d.q), scaled, Nat.cast_natAbs, Int.cast_abs]
    rw [this, withSign_abs]
    rw [decide_eq_true_eq, Dy.real_neg_iff]
  have hround := Ty.round_rounds ht rm sat (d.n < 0) d.q (Int.natAbs_ne_zero.2 hn)
  rw [habs] at hround
  rw [Ty.roundDy, if_neg hn]
  exact hround

end

theorem Ty.roundDy_zero (t : Ty) (rm : Rm) (sat zeroNeg : Bool) {d : Dy} (hd : d.real = 0) :
    t.roundDy rm sat zeroNeg d = (t.signBit zeroNeg, 0) := by
  rw [Ty.roundDy, if_pos ((Dy.real_eq_zero_iff d).1 hd)]

/-! ### Sums, products and their sum (R149) -/

theorem FVal.Is.negate {x : FVal} {v : ℝ} (h : x.Is v) : x.negate.Is (-v) := by
  obtain ⟨neg, m, q, rfl, rfl⟩ := h.exists_fin
  rw [FVal.negate, FVal.is_fin]
  cases neg <;> simp

/-- The sign of an exact zero sum. -/
def zeroSumNeg (rm : Rm) (x y : FVal) : Bool := if x.isZero ∧ y.isZero ∧ x.neg = y.neg then x.neg else rm == .rdn

theorem FVal.Is.isZero_iff {x : FVal} {v : ℝ} (h : x.Is v) : x.isZero = true ↔ v = 0 := by
  obtain ⟨neg, m, q, rfl, rfl⟩ := h.exists_fin
  cases m <;> simp [FVal.isZero]

theorem FVal.Is.not_nan {x : FVal} {v : ℝ} (h : x.Is v) : x.isNan = false := by
  obtain ⟨neg, m, q, rfl, -⟩ := h.exists_fin
  rfl

theorem Ty.addV_finite (t : Ty) (rm : Rm) {x y : FVal} {u v : ℝ} (hx : x.Is u) (hy : y.Is v) :
    t.addV rm x y = t.roundDy rm false (zeroSumNeg rm x y) (x.dy.add y.dy) := by
  obtain ⟨a, m, q, rfl, -⟩ := hx.exists_fin
  obtain ⟨b, n, r, rfl, -⟩ := hy.exists_fin
  have hzero (neg : Bool) (k : ℕ) (e : ℤ) : (FVal.fin neg k e).isZero = true ↔ k = 0 := by cases k <;> simp [FVal.isZero]
  simp only [Ty.addV, FVal.isNan, Bool.or_self, Bool.false_eq_true, if_false, zeroSumNeg, hzero, FVal.neg]

theorem FVal.Is.mul {x y : FVal} {u v : ℝ} (hx : x.Is u) (hy : y.Is v) : (x.mul y).1.Is (u * v) ∧ (x.mul y).2 = 0 := by
  obtain ⟨a, m, q, rfl, rfl⟩ := hx.exists_fin
  obtain ⟨b, n, r, rfl, rfl⟩ := hy.exists_fin
  refine ⟨?_, rfl⟩
  rw [withSign_mul_withSign, scaled_mul_scaled]
  exact (FVal.is_fin _ _ _ _).2 rfl

theorem Ty.fmaV_finite (t : Ty) (rm : Rm) {x y z : FVal} {u v : ℝ} (hx : x.Is u) (hy : y.Is v)
    (hz : z.isNan = false) : t.fmaV rm x y z = t.addV rm (x.mul y).1 z := by
  simp [Ty.fmaV, hx.not_nan, hy.not_nan, hz, (hx.mul hy).1.not_nan]

section

variable {t : Ty} (ht : t.isFloat = true) (rm : Rm) {x y : FVal} {u v : ℝ} (hx : x.Is u) (hy : y.Is v)

include ht hx

/-- A value rounded. -/
theorem Ty.roundV_rounds (hu : u ≠ 0) : t.Rounds rm false u (t.roundV rm x).1 (t.roundV rm x).2 := by
  obtain ⟨a, m, q, rfl, rfl⟩ := hx.exists_fin
  exact Ty.round_rounds ht rm false a q (by simpa using hu)

include hy

theorem Ty.addV_rounds (hne : u + v ≠ 0) : t.Rounds rm false (u + v) (t.addV rm x y).1 (t.addV rm x y).2 := by
  rw [Ty.addV_finite t rm hx hy]
  exact Ty.roundDy_rounds ht rm false _ (by rw [Dy.add_real, hx.dy_real, hy.dy_real]) hne

theorem Ty.fmaV_rounds {z : FVal} {w : ℝ} (hz : z.Is w) (hne : u * v + w ≠ 0) :
    t.Rounds rm false (u * v + w) (t.fmaV rm x y z).1 (t.fmaV rm x y z).2 := by
  rw [Ty.fmaV_finite t rm hx hy hz.not_nan]
  exact Ty.addV_rounds ht rm (hx.mul hy).1 hz hne

end

/-! ### Quotients (R149) -/

theorem scaled_exponent_zero (m : ℕ) : scaled m 0 = m := by rw [scaled, zpow_zero, mul_one]

/-- A unit may be moved out of the magnitude that is stood for. -/
theorem StandsFor.scale {m : ℕ} {sticky : Bool} {x : ℝ} (h : StandsFor m 0 sticky x) (q : ℤ) :
    StandsFor m q sticky (x * 2 ^ q) := by
  have hunit (n : ℕ) : scaled n 0 * 2 ^ q = scaled n q := by rw [scaled_exponent_zero, scaled]
  refine ⟨fun hs => by rw [h.exact hs, hunit], fun hs => ?_⟩
  rw [← hunit, ← hunit, mul_lt_mul_iff_left₀ (two_zpow_pos q), mul_lt_mul_iff_left₀ (two_zpow_pos q)]
  exact h.inexact hs

/-- A natural quotient with its remainder stands for the rational one. -/
theorem div_standsFor (a : ℕ) {b : ℕ} (hb : b ≠ 0) : StandsFor (a / b) 0 (a % b != 0) (a / b : ℝ) := by
  have hpos : (0 : ℝ) < b := by exact_mod_cast Nat.pos_of_ne_zero hb
  have hab : (a / b : ℕ) * (b : ℝ) + (a % b : ℕ) = a := by exact_mod_cast Nat.div_add_mod' a b
  have hlt : ((a % b : ℕ) : ℝ) < b := by exact_mod_cast Nat.mod_lt a (Nat.pos_of_ne_zero hb)
  refine ⟨fun hs => ?_, fun hs => ?_⟩ <;> simp only [scaled_exponent_zero]
  · rw [bne_eq_false_iff_eq] at hs
    rw [hs, Nat.cast_zero, add_zero] at hab
    exact (eq_div_of_mul_eq hpos.ne' hab).symm
  · have hrem : (0 : ℝ) < (a % b : ℕ) := by exact_mod_cast Nat.pos_of_ne_zero (bne_iff_ne.1 hs)
    rw [lt_div_iff₀ hpos, div_lt_iff₀ hpos]
    push_cast at hab hrem hlt ⊢
    constructor <;> linarith

/-- A truncated quotient of m·2^q by n·2^r stands for it. -/
theorem divApprox_standsFor (p m : ℕ) (q : ℤ) {n : ℕ} (hn : n ≠ 0) (r : ℤ) :
    StandsFor (divApprox p m q n r).1 (divApprox p m q n r).2.1 (divApprox p m q n r).2.2 (scaled m q / scaled n r) := by
  have h := (div_standsFor (m * 2 ^ (p + 3 + bitLen n - bitLen m)) hn).scale (q - r - (p + 3 + bitLen n - bitLen m : ℕ))
  have hv : scaled m q / scaled n r = (m * 2 ^ (p + 3 + bitLen n - bitLen m) : ℕ) / (n : ℝ) *
      2 ^ (q - r - (p + 3 + bitLen n - bitLen m : ℕ)) := by
    have h2 : (2 : ℝ) ≠ 0 := two_ne_zero
    rw [scaled, scaled, sub_sub, zpow_sub₀ h2, zpow_add₀ h2, zpow_natCast]
    push_cast
    field_simp
  rw [hv]
  exact h

/-- It has two bits more than a format of p bits. -/
theorem le_divApprox (p : ℕ) {m n : ℕ} (hm : m ≠ 0) (hn : n ≠ 0) (q r : ℤ) : 2 ^ (p + 1) ≤ (divApprox p m q n r).1 := by
  have hnum : 2 ^ (p + 1) * 2 ^ bitLen n ≤ m * 2 ^ (p + 3 + bitLen n - bitLen m) := by
    refine le_trans ?_ (Nat.mul_le_mul_right _ (two_pow_bitLen_le hm))
    rw [← pow_add, ← pow_add]
    have := bitLen_pos hm
    exact Nat.pow_le_pow_right two_pos (by omega)
  rw [divApprox, Nat.le_div_iff_mul_le (Nat.pos_of_ne_zero hn)]
  exact (Nat.mul_le_mul_left _ (Machine.lt_two_pow_bitLen n).le).trans hnum

/-- The meaning of a quotient of finite values other than zero. -/
theorem fDiv_finite (t : Ty) (rm : Rm) {a b : ℕ} {neg neg' : Bool} {m n : ℕ} {q r : ℤ} (ha : t.value a = .fin neg m q)
    (hb : t.value b = .fin neg' n r) (hm : m ≠ 0) (hn : n ≠ 0) :
    fDiv t rm a b = t.round rm false (neg != neg') (divApprox t.prec m q n r).1 (divApprox t.prec m q n r).2.1
      (divApprox t.prec m q n r).2.2 := by
  simp only [fDiv, ha, hb, FVal.isNan, Bool.or_self, Bool.false_eq_true, if_false, if_neg hm, if_neg hn, FVal.neg]

theorem withSign_div_withSign (a b : Bool) (u v : ℝ) : withSign a u / withSign b v = withSign (a != b) (u / v) := by
  cases a <;> cases b <;> simp [neg_div, div_neg]

theorem fDiv_rounds {t : Ty} (ht : t.isFloat = true) (rm : Rm) {a b : ℕ} {u v : ℝ} (ha : (t.value a).Is u)
    (hb : (t.value b).Is v) (hu : u ≠ 0) (hv : v ≠ 0) : t.Rounds rm false (u / v) (fDiv t rm a b).1 (fDiv t rm a b).2 := by
  obtain ⟨neg, m, q, hx, rfl⟩ := ha.exists_fin
  obtain ⟨neg', n, r, hy, rfl⟩ := hb.exists_fin
  simp only [Ne, withSign_eq_zero, scaled_eq_zero] at hu hv
  rw [fDiv_finite t rm hx hy hu hv, withSign_div_withSign]
  have hpos {k : ℕ} (hk : k ≠ 0) (e : ℤ) : 0 < scaled k e := scaled_pos_iff.2 (Nat.pos_of_ne_zero hk)
  exact (divApprox_standsFor t.prec m q hv r).rounds ht rm _ (div_pos (hpos hu q) (hpos hv r))
    (fun _ => le_divApprox t.prec hu hv q r) false

/-! ### Square roots (R149) -/

/-- The search keeps the root below r + 2^k. -/
theorem isqrtFrom_spec (n : ℕ) : ∀ k r : ℕ, r * r ≤ n → n < (r + 2 ^ k) * (r + 2 ^ k) →
    isqrtFrom n k r * isqrtFrom n k r ≤ n ∧ n < (isqrtFrom n k r + 1) * (isqrtFrom n k r + 1)
  | 0, r, hlo, hhi => ⟨hlo, hhi⟩
  | k + 1, r, hlo, hhi => by
    rw [isqrtFrom]
    split
    · refine isqrtFrom_spec n k _ ‹_› ?_
      rwa [add_assoc, ← two_mul, ← pow_succ']
    · exact isqrtFrom_spec n k r hlo (not_le.1 ‹_›)

theorem isqrt_eq_sqrt (n : ℕ) : isqrt n = n.sqrt := by
  have hn : n < (0 + 2 ^ (bitLen n / 2 + 1)) * (0 + 2 ^ (bitLen n / 2 + 1)) := by
    rw [zero_add, ← pow_add]
    exact (Machine.lt_two_pow_bitLen n).trans_le (Nat.pow_le_pow_right two_pos (by omega))
  obtain ⟨hlo, hhi⟩ := isqrtFrom_spec n _ 0 (Nat.zero_le n) hn
  exact Nat.eq_sqrt.2 ⟨hlo, hhi⟩

/-- The natural root with the test for a square stands for the real root. -/
theorem isqrt_standsFor (n : ℕ) : StandsFor (isqrt n) 0 (isqrt n * isqrt n != n) (Real.sqrt n) := by
  rw [isqrt_eq_sqrt]
  refine ⟨fun hs => ?_, fun hs => ?_⟩ <;> simp only [scaled_exponent_zero]
  · rw [bne_eq_false_iff_eq] at hs
    rw [← Real.sqrt_mul_self (Nat.cast_nonneg n.sqrt), ← Nat.cast_mul, hs]
  · have hlt : n.sqrt * n.sqrt < n := lt_of_le_of_ne n.sqrt_le (bne_iff_ne.1 hs)
    have hhi : n < (n.sqrt + 1) * (n.sqrt + 1) := n.lt_succ_sqrt
    rw [Real.lt_sqrt (Nat.cast_nonneg _), Real.sqrt_lt' (by positivity), sq, sq]
    exact ⟨by exact_mod_cast hlt, by exact_mod_cast hhi⟩

/-- The number of bits that `fSqrt` appends to a significand, so that the exponent is even. -/
def rootShift (p : ℕ) (q : ℤ) : ℕ := if (q - (2 * (p + 3) : ℕ)) % 2 = 0 then 2 * (p + 3) else 2 * (p + 3) + 1

/-- The meaning of the root of a finite value above zero. -/
theorem fSqrt_finite (t : Ty) (rm : Rm) {a m : ℕ} {q : ℤ} (ha : t.value a = .fin false m q) (hm : m ≠ 0) :
    fSqrt t rm a =
      let n := m * 2 ^ rootShift t.prec q
      t.round rm false false (isqrt n) ((q - rootShift t.prec q) / 2) (isqrt n * isqrt n != n) := by
  simp only [fSqrt, ha, if_neg hm, Bool.false_eq_true, if_false, rootShift]

/-- An even exponent leaves the root of the significand. -/
theorem sqrt_scaled (m k : ℕ) {q : ℤ} (heven : 2 * ((q - k) / 2) = q - k) :
    Real.sqrt (scaled m q) = Real.sqrt (m * 2 ^ k : ℕ) * 2 ^ ((q - k) / 2) := by
  have hsq : scaled m q = (m * 2 ^ k : ℕ) * ((2 : ℝ) ^ ((q - k) / 2)) ^ 2 := by
    rw [scaled, ← zpow_natCast ((2 : ℝ) ^ ((q - k) / 2)), ← zpow_mul, Nat.cast_mul, Nat.cast_pow, mul_assoc,
      Nat.cast_ofNat, ← zpow_natCast (2 : ℝ), ← zpow_add₀ two_ne_zero]
    congr 2
    push_cast
    omega
  rw [hsq, Real.sqrt_mul (Nat.cast_nonneg _), Real.sqrt_sq (two_zpow_pos _).le]

theorem fSqrt_rounds {t : Ty} (ht : t.isFloat = true) (rm : Rm) {a : ℕ} {v : ℝ} (ha : (t.value a).Is v) (hv : 0 < v) :
    t.Rounds rm false (Real.sqrt v) (fSqrt t rm a).1 (fSqrt t rm a).2 := by
  obtain ⟨neg, m, q, hx, rfl⟩ := ha.exists_fin
  cases neg with
  | true => exact absurd hv (not_lt.2 (neg_nonpos.2 (scaled_nonneg m q)))
  | false =>
    have hm : 0 < m := scaled_pos_iff.1 hv
    have hshift : 2 * (t.prec + 1) ≤ rootShift t.prec q ∧ 2 * ((q - rootShift t.prec q) / 2) = q - rootShift t.prec q := by
      rw [rootShift]
      split <;> omega
    rw [fSqrt_finite t rm hx hm.ne', withSign_false]
    generalize rootShift t.prec q = k at hshift
    obtain ⟨hk, heven⟩ := hshift
    have hroot := sqrt_scaled m k heven
    rw [hroot]
    refine ((isqrt_standsFor _).scale _).rounds ht rm false (hroot ▸ Real.sqrt_pos.2 hv) (fun _ => ?_) false
    rw [isqrt_eq_sqrt, Nat.le_sqrt, ← pow_add]
    exact (Nat.pow_le_pow_right two_pos (by omega)).trans (Nat.le_mul_of_pos_left _ hm)

/-! ### The instructions -/

open Machine

theorem Ty.Rounds.lt {t : Ty} {rm : Rm} {sat : Bool} {v : ℝ} {r : ℕ} {f : FlagBits} (h : t.Rounds rm sat v r f) : r < 2 ^ t.width :=
  h.1

/-- A floating pattern is written as it is (R129). -/
theorem writesT_float {t : Ty} (ht : t.isFloat = true) (d : SReg) {r : ℕ} (hr : r < 2 ^ t.width) :
    writesT t d r = floatWrites t d r := by
  rw [writesT, floatWrites]
  split
  · have hhigh : r / 2 ^ 64 % 2 ^ 16 = r / 2 ^ 64 := by
      subst t
      have hr : r < 2 ^ 80 := hr
      omega
    rw [hhigh]
  · have hsigned : t.signed = false := by
      revert ht
      cases t <;> decide
    rw [Ty.extend, hsigned, if_neg Bool.false_ne_true, Nat.mod_eq_of_lt hr]

section

variable {s : State} {g : Gd} (hon : s.guardOn s.cur g = true) {t : Ty} (ht : t.isFloat = true) {i : Instr} {d : SReg}
  {x : ℕ × FlagBits} {r : ℕ} {f : FlagBits}

include hon ht

/-- An instruction whose meaning is a floating result of type t yields it. -/
theorem yields_float {lat : ℕ}
    (hi : exec i s = .next (if s.guardOn s.cur g then s.resultT lat t d x else s.advance s.cur)) (hx : x = (r, f))
    (hr : r < 2 ^ t.width) : s.yields i lat (floatWrites t d r) f := by
  refine State.exec_of_guardOn hon hi ?_
  rw [State.resultT, hx, writesT_float ht d hr]

/-- The same of one that takes LA. -/
theorem yieldsLa_float {la : BitVec 4}
    (hi : exec i s = .next (if s.guardOn s.cur g then s.longFloat la t d x else s.advance s.cur)) (hx : x = (r, f))
    (hr : r < 2 ^ t.width) : s.yieldsLa i (if t = .f64 then 40 else 24) la (floatWrites t d r) f := by
  refine State.exec_of_guardOn hon hi ?_
  rw [State.longFloat, hx, writesT_float ht d hr]

/-- A rounded result. -/
theorem yields_rounded {lat : ℕ} {rm : Rm} {sat : Bool} {v : ℝ} (hx : t.Rounds rm sat v x.1 x.2)
    (hi : exec i s = .next (if s.guardOn s.cur g then s.resultT lat t d x else s.advance s.cur)) :
    ∃ r f, s.yields i lat (floatWrites t d r) f ∧ t.Rounds rm sat v r f :=
  ⟨_, _, yields_float hon ht hi rfl hx.lt, hx⟩

theorem yieldsLa_rounded {la : BitVec 4} {rm : Rm} {sat : Bool} {v : ℝ} (hx : t.Rounds rm sat v x.1 x.2)
    (hi : exec i s = .next (if s.guardOn s.cur g then s.longFloat la t d x else s.advance s.cur)) :
    ∃ r f, s.yieldsLa i (if t = .f64 then 40 else 24) la (floatWrites t d r) f ∧ t.Rounds rm sat v r f :=
  ⟨_, _, yieldsLa_float hon ht hi rfl hx.lt, hx⟩

end

/-- The types of FA are floating types. -/
theorem isFloat_of_scalar {t : Ty} (h : t = .f32 ∨ t = .f64 ∨ t = .a80) : t.isFloat = true := by
  rcases h with rfl | rfl | rfl <;> rfl

theorem fMul_finite (t : Ty) (rm : Rm) {a b : ℕ} {u v : ℝ} (ha : (t.value a).Is u) (hb : (t.value b).Is v) :
    fMul t rm a b = t.roundV rm ((t.value a).mul (t.value b)).1 := by
  simp [fMul, (ha.mul hb).2]

/-- Settles O29: each meaning is the exact result of its operands' values, rounded by `Ty.round`. -/
theorem floatArithmetic : Obligations.FloatArithmetic := by
  intro s g t rm la d a b hon hfa lat long p q ha
  have ht := isFloat_of_scalar hfa
  refine ⟨fun hb => ⟨fun hne => ?_, fun hne => ?_, fun hne => ?_, fun c hc hne => ?_, fun _ hp hq => ?_⟩, fun _ hp => ?_⟩
  · exact yields_rounded hon ht (x := fAdd t rm _ _) (Ty.addV_rounds ht rm ha hb hne) rfl
  · have hround := Ty.addV_rounds ht rm ha hb.negate (by rwa [← sub_eq_add_neg])
    rw [← sub_eq_add_neg] at hround
    exact yields_rounded hon ht (x := fSub t rm _ _) hround rfl
  · have hround := Ty.roundV_rounds ht rm (ha.mul hb).1 hne
    rw [← fMul_finite t rm ha hb] at hround
    exact yields_rounded hon ht hround rfl
  · exact yields_rounded hon ht (x := fFma t rm _ _ _) (Ty.fmaV_rounds ht rm ha hb hc hne) rfl
  · exact yieldsLa_rounded hon ht (fDiv_rounds ht rm ha hb hp hq) rfl
  · exact yieldsLa_rounded hon ht (fSqrt_rounds ht rm ha hp) rfl

/-! ### NaNs, infinities and zeros (R149) -/

theorem FVal.isNan_iff (x : FVal) : x.isNan = true ↔ ∃ h, x = .nan h := by
  cases x <;> simp [FVal.isNan]

theorem FVal.sigFlag_eq (x : FVal) : x.sigFlag = if x = .nan true then fIV else 0 := by
  cases x with
  | nan h => cases h <;> rfl
  | inf | fin => rfl

/-- IV is set when an operand is a signalling NaN. -/
theorem FVal.sigFlag_or (x y : FVal) : x.sigFlag ||| y.sigFlag = if x = .nan true ∨ y = .nan true then fIV else 0 := by
  rw [sigFlag_eq, sigFlag_eq]
  by_cases hx : x = .nan true <;> by_cases hy : y = .nan true <;> simp [hx, hy]

theorem FVal.sigFlag_or₃ (x y z : FVal) :
    x.sigFlag ||| y.sigFlag ||| z.sigFlag = if x = .nan true ∨ y = .nan true ∨ z = .nan true then fIV else 0 := by
  rw [sigFlag_or, sigFlag_eq]
  simp only [← or_assoc]
  by_cases hxy : x = .nan true ∨ y = .nan true <;> by_cases hz : z = .nan true <;> simp [hxy, hz]

@[simp] theorem FVal.isNan_negate (x : FVal) : x.negate.isNan = x.isNan := by cases x <;> rfl

@[simp] theorem FVal.sigFlag_negate (x : FVal) : x.negate.sigFlag = x.sigFlag := by cases x <;> rfl

theorem FVal.Is.neg_negate {x : FVal} {v : ℝ} (h : x.Is v) : x.negate.neg = !x.neg := by
  obtain ⟨neg, m, q, rfl, -⟩ := h.exists_fin
  rfl

theorem FVal.isZero_iff_is (x : FVal) : x.isZero = true ↔ x.Is 0 := by
  refine ⟨fun h => ?_, fun h => h.isZero_iff.2 rfl⟩
  unfold FVal.isZero at h
  split at h
  · exact (FVal.is_fin _ _ _ _).2 (by simp)
  · exact Bool.noConfusion h

section

variable (t : Ty) (rm : Rm) {x y z : FVal} {a b : ℕ}

theorem Ty.addV_nan (h : x.isNan = true ∨ y.isNan = true) : t.addV rm x y = (t.canonNan, x.sigFlag ||| y.sigFlag) := by
  simp only [Ty.addV, Bool.or_eq_true, if_pos h, Ty.nanR]

theorem fMul_nan (h : (t.value a).isNan = true ∨ (t.value b).isNan = true) :
    fMul t rm a b = (t.canonNan, (t.value a).sigFlag ||| (t.value b).sigFlag) := by
  rw [fMul, FVal.mul, if_pos (by rwa [Bool.or_eq_true])]
  simp [Ty.roundV, Ty.nanR]

theorem fDiv_nan (h : (t.value a).isNan = true ∨ (t.value b).isNan = true) :
    fDiv t rm a b = (t.canonNan, (t.value a).sigFlag ||| (t.value b).sigFlag) := by
  simp only [fDiv, Bool.or_eq_true, if_pos h, Ty.nanR]

theorem Ty.fmaV_nan (h : x.isNan = true ∨ y.isNan = true ∨ z.isNan = true) :
    t.fmaV rm x y z = (t.canonNan, x.sigFlag ||| y.sigFlag ||| z.sigFlag) := by
  rw [Ty.fmaV, if_pos (by rwa [Bool.or_eq_true, Bool.or_eq_true, or_assoc])]
  rfl

/-- An infinity stays in a sum with a number. -/
theorem Ty.addV_inf_left (n : Bool) {v : ℝ} (hy : y.Is v) : t.addV rm (.inf n) y = (t.infBits n, 0) := by
  obtain ⟨neg, m, q, rfl, -⟩ := hy.exists_fin
  rfl

theorem Ty.addV_inf_right (n : Bool) {v : ℝ} (hx : x.Is v) : t.addV rm x (.inf n) = (t.infBits n, 0) := by
  obtain ⟨neg, m, q, rfl, -⟩ := hx.exists_fin
  rfl

theorem Ty.addV_inf_inf (m n : Bool) :
    t.addV rm (.inf m) (.inf n) = (if m = n then t.infBits m else t.canonNan, if m = n then 0 else fIV) := by
  cases m <;> cases n <;> rfl

/-- An infinity and a value that is not a NaN: only the opposite infinity makes the sum invalid. -/
theorem Ty.addV_inf (n : Bool) (hy : y.isNan = false) :
    t.addV rm (.inf n) y = if y = .inf (!n) then (t.canonNan, fIV) else (t.infBits n, 0) := by
  cases y with
  | nan => exact absurd hy (by simp [FVal.isNan])
  | inf b => cases n <;> cases b <;> rfl
  | fin => rfl

/-- A product with an infinity. -/
theorem FVal.mul_inf (hx : x.isNan = false) (hy : y.isNan = false) (h : (∃ m, x = .inf m) ∨ ∃ n, y = .inf n) :
    x.mul y = if x.isZero || y.isZero then (.nan false, fIV) else (.inf (x.neg != y.neg), 0) := by
  have hnan : ¬(x.isNan || y.isNan) = true := by rw [hx, hy]; exact Bool.false_ne_true
  rw [FVal.mul, if_neg hnan]
  dsimp only
  split
  · rcases h with ⟨m, h⟩ | ⟨n, h⟩ <;> exact FVal.noConfusion h
  · rfl

theorem fMul_inf_inf {m n : Bool} (ha : t.value a = .inf m) (hb : t.value b = .inf n) :
    fMul t rm a b = (t.infBits (m != n), 0) := by
  simp [fMul, ha, hb, FVal.mul, FVal.isNan, FVal.isZero, FVal.neg, Ty.roundV]

theorem fMul_inf_left {m : Bool} {v : ℝ} (ha : t.value a = .inf m) (hb : (t.value b).Is v) :
    fMul t rm a b = if v = 0 then (t.canonNan, fIV) else (t.infBits ((t.value a).neg != (t.value b).neg), 0) := by
  have hz : (t.value a).isZero = false := by rw [ha]; rfl
  rw [fMul, FVal.mul_inf (by rw [ha]; rfl) hb.not_nan (.inl ⟨m, ha⟩), hz, Bool.false_or]
  simp only [hb.isZero_iff]
  split_ifs <;> simp [Ty.roundV, Ty.nanR]

theorem fMul_inf_right {n : Bool} {u : ℝ} (ha : (t.value a).Is u) (hb : t.value b = .inf n) :
    fMul t rm a b = if u = 0 then (t.canonNan, fIV) else (t.infBits ((t.value a).neg != (t.value b).neg), 0) := by
  have hz : (t.value b).isZero = false := by rw [hb]; rfl
  rw [fMul, FVal.mul_inf ha.not_nan (by rw [hb]; rfl) (.inr ⟨n, hb⟩), hz, Bool.or_false]
  simp only [ha.isZero_iff]
  split_ifs <;> simp [Ty.roundV, Ty.nanR]

/-- The sign of an exact zero sum (R149). -/
theorem Ty.addV_zero {u v : ℝ} (hx : x.Is u) (hy : y.Is v) (h : u + v = 0) :
    t.addV rm x y = (t.signBit (if x.neg = y.neg then x.neg else decide (rm = .rdn)), 0) := by
  rw [Ty.addV_finite t rm hx hy, Ty.roundDy_zero t rm false _ (by rw [Dy.add_real, hx.dy_real, hy.dy_real, h]), zeroSumNeg]
  have hrdn : (rm == .rdn) = decide (rm = .rdn) := by cases rm <;> rfl
  have hzero (he : x.neg = y.neg) : x.isZero = true ∧ y.isZero = true := by
    rw [hx.isZero_iff, hy.isZero_iff]
    obtain ⟨a, m, q, rfl, rfl⟩ := hx.exists_fin
    obtain ⟨b, n, r, rfl, rfl⟩ := hy.exists_fin
    obtain rfl : a = b := he
    have hsum : withSign a (scaled m q + scaled n r) = 0 := by
      rw [← h]
      cases a <;> simp [add_comm]
    rw [withSign_eq_zero, add_eq_zero_iff_of_nonneg (scaled_nonneg m q) (scaled_nonneg n r)] at hsum
    simp [hsum]
  by_cases he : x.neg = y.neg
  · rw [if_pos he, if_pos ⟨(hzero he).1, (hzero he).2, he⟩]
  · rw [if_neg he, if_neg (fun hc => he hc.2.2), hrdn]

theorem fMul_zero {u v : ℝ} (ha : (t.value a).Is u) (hb : (t.value b).Is v) (h : u * v = 0) :
    fMul t rm a b = (t.signBit ((t.value a).neg != (t.value b).neg), 0) := by
  obtain ⟨neg, m, q, hx, rfl⟩ := ha.exists_fin
  obtain ⟨neg', n, r, hy, rfl⟩ := hb.exists_fin
  have hmn : m * n = 0 := by simpa [mul_eq_zero] using h
  rw [fMul_finite t rm ha hb, hx, hy]
  simp only [FVal.mul, FVal.isNan, Bool.or_self, Bool.false_eq_true, if_false, Ty.roundV, hmn, Ty.round_zero]

/-! ### Division and roots (R149) -/

theorem fDiv_inf_inf {m n : Bool} (ha : t.value a = .inf m) (hb : t.value b = .inf n) : fDiv t rm a b = (t.canonNan, fIV) := by
  simp [fDiv, ha, hb, FVal.isNan, Ty.nanR]

theorem fDiv_inf_left {m : Bool} {v : ℝ} (ha : t.value a = .inf m) (hb : (t.value b).Is v) :
    fDiv t rm a b = (t.infBits ((t.value a).neg != (t.value b).neg), 0) := by
  obtain ⟨neg, n, r, hb, -⟩ := hb.exists_fin
  simp [fDiv, ha, hb, FVal.isNan]

theorem fDiv_inf_right {n : Bool} {u : ℝ} (ha : (t.value a).Is u) (hb : t.value b = .inf n) :
    fDiv t rm a b = (t.signBit ((t.value a).neg != (t.value b).neg), 0) := by
  obtain ⟨neg, m, q, ha, -⟩ := ha.exists_fin
  simp [fDiv, ha, hb, FVal.isNan]

theorem fDiv_by_zero {u v : ℝ} (ha : (t.value a).Is u) (hb : (t.value b).Is v) (hv : v = 0) :
    fDiv t rm a b = if u = 0 then (t.canonNan, fIV) else (t.infBits ((t.value a).neg != (t.value b).neg), fDZ) := by
  obtain ⟨neg, m, q, hx, rfl⟩ := ha.exists_fin
  obtain ⟨neg', n, r, hy, rfl⟩ := hb.exists_fin
  simp only [withSign_eq_zero, scaled_eq_zero] at hv ⊢
  simp only [fDiv, hx, hy, FVal.isNan, FVal.neg, hv, Bool.or_self, Bool.false_eq_true, if_false, if_true, Ty.nanR]

theorem fDiv_zero {u v : ℝ} (ha : (t.value a).Is u) (hb : (t.value b).Is v) (hv : v ≠ 0) (hu : u = 0) :
    fDiv t rm a b = (t.signBit ((t.value a).neg != (t.value b).neg), 0) := by
  obtain ⟨neg, m, q, hx, rfl⟩ := ha.exists_fin
  obtain ⟨neg', n, r, hy, rfl⟩ := hb.exists_fin
  simp only [withSign_eq_zero, scaled_eq_zero, Ne] at hu hv
  simp [fDiv, hx, hy, FVal.isNan, FVal.neg, hu, hv]

theorem fSqrt_nan {h : Bool} (ha : t.value a = .nan h) : fSqrt t rm a = (t.canonNan, if h then fIV else 0) := by
  simp [fSqrt, ha, Ty.nanR, flagIf]

theorem fSqrt_inf {m : Bool} (ha : t.value a = .inf m) :
    fSqrt t rm a = if m then (t.canonNan, fIV) else (t.infBits false, 0) := by
  simp [fSqrt, ha, Ty.nanR]

theorem fSqrt_zero {u : ℝ} (ha : (t.value a).Is u) (hu : u = 0) : fSqrt t rm a = (t.signBit (t.value a).neg, 0) := by
  obtain ⟨neg, m, q, hx, rfl⟩ := ha.exists_fin
  simp only [withSign_eq_zero, scaled_eq_zero] at hu
  simp [fSqrt, hx, hu, FVal.neg]

theorem fSqrt_negative {u : ℝ} (ha : (t.value a).Is u) (hu : u < 0) : fSqrt t rm a = (t.canonNan, fIV) := by
  obtain ⟨neg, m, q, hx, rfl⟩ := ha.exists_fin
  cases neg with
  | false => exact absurd hu (scaled_nonneg m q).not_gt
  | true =>
    have hm : m ≠ 0 := by
      rintro rfl
      simp at hu
    simp [fSqrt, hx, hm, Ty.nanR]

/-! ### The fused product and sum (R149) -/

theorem FVal.Is.mul_neg {u v : ℝ} (hx : x.Is u) (hy : y.Is v) : (x.mul y).1.neg = (x.neg != y.neg) := by
  obtain ⟨a, m, q, rfl, -⟩ := hx.exists_fin
  obtain ⟨b, n, r, rfl, -⟩ := hy.exists_fin
  rfl

theorem Ty.fmaV_zero {u v w : ℝ} (hx : x.Is u) (hy : y.Is v) (hz : z.Is w) (h : u * v + w = 0) :
    t.fmaV rm x y z = (t.signBit (if (x.neg != y.neg) = z.neg then (x.neg != y.neg) else decide (rm = .rdn)), 0) := by
  rw [Ty.fmaV_finite t rm hx hy hz.not_nan, Ty.addV_zero t rm (hx.mul hy).1 hz h, hx.mul_neg hy]

theorem Ty.fmaV_addend_inf {u v : ℝ} (hx : x.Is u) (hy : y.Is v) {k : Bool} : t.fmaV rm x y (.inf k) = (t.infBits k, 0) := by
  rw [Ty.fmaV_finite t rm hx hy rfl, Ty.addV_inf_right t rm k (hx.mul hy).1]

/-- A product with an infinity, and an addend that is not a NaN. -/
theorem Ty.fmaV_inf (hx : x.isNan = false) (hy : y.isNan = false) (hz : z.isNan = false)
    (h : (∃ m, x = .inf m) ∨ ∃ n, y = .inf n) :
    t.fmaV rm x y z = if x.isZero || y.isZero then (t.canonNan, fIV) else t.addV rm (.inf (x.neg != y.neg)) z := by
  rw [Ty.fmaV, hx, hy, hz, FVal.mul_inf hx hy h]
  by_cases h0 : (x.isZero || y.isZero) = true
  · rw [if_pos h0, if_pos h0]
    rfl
  · rw [if_neg h0, if_neg h0]
    rfl

end

theorem ite_lt {n a b : ℕ} {p : Prop} [Decidable p] (ha : a < n) (hb : b < n) : (if p then a else b) < n := by
  split <;> assumption

/-- Settles O30, a special case of the meanings at a time. -/
theorem floatSpecialCases : Obligations.FloatSpecialCases := by
  intro s g t rm la d a b hon hfa lat long x y z top nan zero inf short fma div sqrt add sub mul signals sgn
  have ht := isFloat_of_scalar hfa
  have hnan : nan = t.canonNan := by rcases hfa with rfl | rfl | rfl <;> rfl
  have hinf : inf = t.infBits := funext fun n => by rcases hfa with rfl | rfl | rfl <;> rfl
  have hzero : zero = t.signBit := rfl
  have hadd {r f} (hx : t.addV rm x y = (r, f)) (hr : r < 2 ^ t.width) : add r f :=
    yields_float hon ht (x := fAdd t rm _ _) rfl hx hr
  have hsub {r f} (hx : t.addV rm x y.negate = (r, f)) (hr : r < 2 ^ t.width) : sub r f :=
    yields_float hon ht (x := fSub t rm _ _) rfl hx hr
  have hmul {r f} (hx : fMul t rm (s.operand s.cur t a) (s.operand s.cur t b) = (r, f)) (hr : r < 2 ^ t.width) : mul r f :=
    yields_float hon ht rfl hx hr
  have hfma {r f} (hx : t.fmaV rm x y z = (r, f)) (hr : r < 2 ^ t.width) : fma r f :=
    yields_float hon ht (x := fFma t rm _ _ _) rfl hx hr
  have hdiv {r f} (hx : fDiv t rm (s.operand s.cur t a) (s.operand s.cur t b) = (r, f)) (hr : r < 2 ^ t.width) : div r f :=
    fun _ => yieldsLa_float hon ht rfl hx hr
  have hsqrt {r f} (hx : fSqrt t rm (s.operand s.cur t a) = (r, f)) (hr : r < 2 ^ t.width) : sqrt r f :=
    fun _ => yieldsLa_float hon ht rfl hx hr
  clear_value nan zero inf short fma div sqrt add sub mul
  subst hnan hinf hzero
  have hnan := Ty.canonNan_lt ht
  have hinf := Ty.infBits_lt ht
  have hzero := Ty.signBit_lt ht
  have hsig := FVal.sigFlag_or x y
  have hfmaNan (h : x.isNan = true ∨ y.isNan = true ∨ z.isNan = true) :
      fma t.canonNan (if x = .nan true ∨ y = .nan true ∨ z = .nan true then fIV else 0) :=
    hfma (by rw [Ty.fmaV_nan t rm h, FVal.sigFlag_or₃]) hnan
  have hzeros : (x.isZero || y.isZero) = true ↔ x.Is 0 ∨ y.Is 0 := by
    rw [Bool.or_eq_true, FVal.isZero_iff_is, FVal.isZero_iff_is]
  refine ⟨fun h => ⟨fun hs => ?_, fun hs => ?_⟩, hfmaNan, fun h hx => ?_, fun m n hx hy => ?_, fun m q hx hy => ?_,
    fun n p hy hx => ?_, fun p q hx hy => ⟨fun he => ?_, fun he => ?_, fun he => ?_, fun he => ?_, fun hq hp => ?_,
      fun c hz he => ?_, fun k hz => ?_⟩, fun ⟨hx, hy, hz, h⟩ => ⟨fun h0 => ?_, fun h0 => ?_⟩, fun m hx => ?_,
    fun p hx => ⟨fun hp => ?_, fun hp => ?_⟩⟩
  · rw [if_pos hs] at hsig
    refine ⟨hadd (by rw [Ty.addV_nan t rm h, hsig]) hnan,
      hsub (by rw [Ty.addV_nan t rm (by rwa [FVal.isNan_negate]), FVal.sigFlag_negate, hsig]) hnan,
      hmul (by rw [fMul_nan t rm h, hsig]) hnan, hdiv (by rw [fDiv_nan t rm h, hsig]) hnan, ?_⟩
    have := hfmaNan (h.imp_right .inl)
    rwa [if_pos (hs.imp_right .inl)] at this
  · rw [if_neg hs] at hsig
    exact ⟨hadd (by rw [Ty.addV_nan t rm h, hsig]) hnan,
      hsub (by rw [Ty.addV_nan t rm (by rwa [FVal.isNan_negate]), FVal.sigFlag_negate, hsig]) hnan,
      hmul (by rw [fMul_nan t rm h, hsig]) hnan, hdiv (by rw [fDiv_nan t rm h, hsig]) hnan⟩
  · exact hsqrt (fSqrt_nan t rm hx) hnan
  · refine ⟨hadd (by rw [hx, hy, Ty.addV_inf_inf]) (ite_lt (hinf m) hnan), hsub ?_ (ite_lt (hinf m) hnan),
      hmul (fMul_inf_inf t rm hx hy) (hinf _), hdiv (fDiv_inf_inf t rm hx hy) hnan⟩
    rw [hx, hy]
    cases m <;> cases n <;> rfl
  · have hprod := fMul_inf_left t rm hx hy
    exact ⟨hadd (by rw [hx, Ty.addV_inf_left t rm m hy]) (hinf m),
      hsub (by rw [hx, Ty.addV_inf_left t rm m hy.negate]) (hinf m),
      fun h0 => hmul (hprod.trans (if_pos h0)) hnan, fun h0 => hmul (hprod.trans (if_neg h0)) (hinf _),
      hdiv (fDiv_inf_left t rm hx hy) (hinf _)⟩
  · have hprod := fMul_inf_right t rm hx hy
    exact ⟨hadd (by rw [hy, Ty.addV_inf_right t rm n hx]) (hinf n),
      hsub (by rw [hy]; exact Ty.addV_inf_right t rm (!n) hx) (hinf _),
      fun h0 => hmul (hprod.trans (if_pos h0)) hnan, fun h0 => hmul (hprod.trans (if_neg h0)) (hinf _),
      hdiv (fDiv_inf_right t rm hx hy) (hzero _)⟩
  · exact hadd (Ty.addV_zero t rm hx hy he) (hzero _)
  · refine hsub ((Ty.addV_zero t rm hx hy.negate (by rwa [← sub_eq_add_neg])).trans ?_) (hzero _)
    simp only [hy.neg_negate, Bool.eq_not]
  · exact hmul (fMul_zero t rm hx hy he) (hzero _)
  · refine hdiv ((fDiv_by_zero t rm hx hy he).trans ?_) (ite_lt hnan (hinf _))
    split <;> rfl
  · exact hdiv (fDiv_zero t rm hx hy hq hp) (hzero _)
  · exact hfma (Ty.fmaV_zero t rm hx hy hz he) (hzero _)
  · exact hfma (by rw [hz, Ty.fmaV_addend_inf t rm hx hy]) (hinf k)
  · exact hfma ((Ty.fmaV_inf t rm hx hy hz h).trans (if_pos (hzeros.2 h0))) hnan
  · have hsum := (Ty.fmaV_inf t rm hx hy hz h).trans (if_neg (hzeros.not.2 h0))
    refine hfma ((hsum.trans (Ty.addV_inf t rm sgn hz)).trans ?_) (ite_lt hnan (hinf _))
    split <;> rfl
  · refine hsqrt ((fSqrt_inf t rm hx).trans ?_) (ite_lt hnan (hinf _))
    split <;> rfl
  · exact hsqrt (fSqrt_zero t rm hx hp) (hzero _)
  · exact hsqrt (fSqrt_negative t rm hx hp) hnan

end Sys2Proof

/-!
PROOFS. Comparison, minimum and maximum, and class (R150 to R152): obligation O31.
-/

namespace Sys2Proof

/-! ### The order of values -/

theorem Dy.lt_iff (a b : Dy) : a.lt b = true ↔ a.real < b.real := by
  have ha := Dy.real_shift a.n (min_le_left a.q b.q)
  have hb := Dy.real_shift b.n (min_le_right a.q b.q)
  rw [Dy.real, Dy.real, ← ha, ← hb, mul_lt_mul_iff_left₀ (two_zpow_pos _), Int.cast_lt, Dy.lt, decide_eq_true_eq]

theorem Dy.eqv_iff (a b : Dy) : a.eqv b = true ↔ a.real = b.real := by
  have ha := Dy.real_shift a.n (min_le_left a.q b.q)
  have hb := Dy.real_shift b.n (min_le_right a.q b.q)
  rw [Dy.real, Dy.real, ← ha, ← hb, mul_left_inj' (two_zpow_pos _).ne', Int.cast_inj, Dy.eqv, decide_eq_true_eq]

/-- The extended real number of a value that is not a NaN. -/
theorem FVal.At.eq_coe {neg : Bool} {m : ℕ} {q : ℤ} {u : EReal} (h : (FVal.fin neg m q).At u) :
    u = ((FVal.fin neg m q).dy.real : EReal) := by
  have his : (FVal.fin neg m q).Is ((if neg then -1 else 1) * (m : ℝ) * (2 : ℝ) ^ q) := rfl
  rw [his.dy_real]
  exact h

theorem FVal.At.not_nan {x : FVal} {u : EReal} (h : x.At u) : x.isNan = false := by
  cases x with
  | nan => exact h.elim
  | inf | fin => rfl

theorem FVal.At.sigFlag {x : FVal} {u : EReal} (h : x.At u) : x.sigFlag = 0 := by
  cases x with
  | nan => exact h.elim
  | inf | fin => rfl

section

variable {x y : FVal} {u v : EReal} (hx : x.At u) (hy : y.At v)

include hx hy

theorem FVal.lt_iff : x.lt y = true ↔ u < v := by
  cases x with
  | nan => exact hx.elim
  | inf a =>
    obtain rfl : u = if a then ⊥ else ⊤ := hx
    cases y with
    | nan => exact hy.elim
    | inf b =>
      obtain rfl : v = if b then ⊥ else ⊤ := hy
      cases a <;> cases b <;> simp [FVal.lt]
    | fin =>
      rw [hy.eq_coe]
      cases a <;> simp [FVal.lt]
  | fin =>
    rw [hx.eq_coe]
    cases y with
    | nan => exact hy.elim
    | inf b =>
      obtain rfl : v = if b then ⊥ else ⊤ := hy
      cases b <;> simp [FVal.lt]
    | fin =>
      rw [hy.eq_coe, EReal.coe_lt_coe_iff, ← Dy.lt_iff]
      rfl

theorem FVal.eqv_iff : x.eqv y = true ↔ u = v := by
  cases x with
  | nan => exact hx.elim
  | inf a =>
    obtain rfl : u = if a then ⊥ else ⊤ := hx
    cases y with
    | nan => exact hy.elim
    | inf b =>
      obtain rfl : v = if b then ⊥ else ⊤ := hy
      cases a <;> cases b <;> simp [FVal.eqv]
    | fin =>
      rw [hy.eq_coe]
      cases a <;> simp [FVal.eqv]
  | fin =>
    rw [hx.eq_coe]
    cases y with
    | nan => exact hy.elim
    | inf b =>
      obtain rfl : v = if b then ⊥ else ⊤ := hy
      cases b <;> simp [FVal.eqv]
    | fin =>
      rw [hy.eq_coe, EReal.coe_eq_coe_iff, ← Dy.eqv_iff]
      rfl

end

/-! ### Comparison (R151) -/

/-- The conditions that an unordered pair makes invalid. -/
def FCond.ordered : FCond → Bool
  | .lt | .le | .gt | .ge => true
  | _ => false

section

variable (t : Ty) (c : FCond) {a b : ℕ}

theorem fCmp_nan (h : (t.value a).isNan = true ∨ (t.value b).isNan = true) :
    fCmp t c a b = (decide (c = .ne ∨ c = .un),
      if c.ordered then fIV else if t.value a = .nan true ∨ t.value b = .nan true then fIV else 0) := by
  have hun : ((t.value a).isNan || (t.value b).isNan) = true := by rwa [Bool.or_eq_true]
  simp only [fCmp, hun, FVal.sigFlag_or, flagIf]
  cases c <;> rfl

/-- What a condition says of two extended real numbers. -/
def FCond.Holds (c : FCond) (u v : EReal) : Prop :=
  match c with
  | .eq => u = v | .ne => u ≠ v | .lt => u < v | .le => u ≤ v | .gt => v < u | .ge => v ≤ u | .un => False | .ord => True

theorem fCmp_ordered {u v : EReal} (ha : (t.value a).At u) (hb : (t.value b).At v) :
    ((fCmp t c a b).1 = true ↔ c.Holds u v) ∧ (fCmp t c a b).2 = 0 := by
  have hun : ((t.value a).isNan || (t.value b).isNan) = false := by rw [ha.not_nan, hb.not_nan]; rfl
  have hlt := FVal.lt_iff ha hb
  have hgt := FVal.lt_iff hb ha
  have heq := FVal.eqv_iff ha hb
  have hsig : (t.value a).sigFlag ||| (t.value b).sigFlag = 0 := by
    rw [ha.sigFlag, hb.sigFlag]
    rfl
  have hge : v ≤ u ↔ v < u ∨ u = v := by rw [le_iff_lt_or_eq, eq_comm]
  have hne : (t.value a).eqv (t.value b) = false ↔ u ≠ v := by rw [Ne, ← heq, Bool.not_eq_true]
  simp only [fCmp, hun, hsig, flagIf]
  cases c <;> simp [FCond.Holds, hlt, hgt, heq, hne, hge, le_iff_lt_or_eq (a := u)]

end

/-! ### Values that a format has (R130, R132) -/

/-- The numbers of a format have p bits, and lie on its subnormal grid within its range. -/
structure Ty.Has (t : Ty) (m : ℕ) (q : ℤ) : Prop where
  lt : m < 2 ^ t.prec
  ge : t.minQ ≤ q
  le : scaled m q ≤ scaled t.maxFinite.1 t.maxFinite.2

/-- Below the last exponent every significand is in range, and at it those up to the largest one. -/
theorem Ty.has_of_exponent {t : Ty} (ht : t.isFloat = true) {m : ℕ} {q : ℤ} (hm : m < 2 ^ t.prec) (hge : t.minQ ≤ q)
    (hq : q < t.maxFinite.2 ∨ q = t.maxFinite.2 ∧ m ≤ t.maxFinite.1) : t.Has m q := by
  refine ⟨hm, hge, ?_⟩
  rcases hq with hlt | ⟨rfl, hle⟩
  · have hfull : 2 ^ (t.prec - 1) ≤ t.maxFinite.1 := by
      revert ht
      cases t <;> decide
    have hp := Ty.prec_gt_two ht
    refine (scaled_le_scaled_iff.2 hm.le).trans (le_trans ?_ (scaled_le_scaled_iff.2 hfull))
    rw [scaled_two_pow, scaled_two_pow]
    exact zpow_le_zpow_right₀ one_le_two (by omega)
  · exact scaled_le_scaled_iff.2 hle

theorem has_of_value_a80 {bits m : ℕ} {q : ℤ} {neg : Bool} (h : Ty.a80.value bits = .fin neg m q) : Ty.a80.Has m q := by
  simp only [Ty.value] at h
  split_ifs at h with he
  cases h
  have hm : bits % 2 ^ 64 < 2 ^ 64 := Nat.mod_lt _ (by positivity)
  refine Ty.has_of_exponent rfl hm (show (-16445 : ℤ) ≤ _ by omega) ?_
  have hmax : Ty.a80.maxFinite = (2 ^ 64 - 1, 16320) := rfl
  rw [hmax]
  omega

theorem has_of_value_e4m3 {bits m : ℕ} {q : ℤ} {neg : Bool} (h : Ty.e4m3.value bits = .fin neg m q) : Ty.e4m3.Has m q := by
  have hmax : Ty.e4m3.maxFinite = (14, 5) := rfl
  have hmin : Ty.e4m3.minQ = -9 := rfl
  have hprec : Ty.e4m3.prec = 4 := rfl
  have hbits : Ty.e4m3.expBits = 4 := rfl
  simp only [Ty.value, hprec, hbits, hmin, if_true] at h
  split_ifs at h with htop h0 <;> cases h
  · refine Ty.has_of_exponent rfl ?_ ?_ ?_ <;> simp only [hmax, hmin, hprec] <;> omega
  · refine Ty.has_of_exponent rfl ?_ ?_ ?_ <;> simp only [hmax, hmin, hprec] <;> omega

/-- Every finite pattern has a value that its format has. -/
theorem Ty.has_of_value {t : Ty} (ht : t.isFloat = true) {bits m : ℕ} {q : ℤ} {neg : Bool} (h : t.value bits = .fin neg m q) :
    t.Has m q := by
  by_cases ha : t = .a80
  · subst ha
    exact has_of_value_a80 h
  by_cases h4 : t = .e4m3
  · subst h4
    exact has_of_value_e4m3 h
  have hmod : bits % 2 ^ (t.prec - 1) < 2 ^ (t.prec - 1) := Nat.mod_lt _ (by positivity)
  have hexp : bits / 2 ^ (t.prec - 1) % 2 ^ t.expBits < 2 ^ t.expBits := Nat.mod_lt _ (by positivity)
  have hp : 2 ^ t.prec = 2 ^ (t.prec - 1) * 2 := by
    rw [← pow_succ, Nat.sub_add_cancel (by have := Ty.prec_gt_two ht; omega)]
  have hmost : t.maxFinite.1 = 2 ^ t.prec - 1 := by
    revert ht ha h4
    cases t <;> decide
  have hlast := Ty.maxFinite_exponent ht
  have hwide : 4 ≤ 2 ^ t.expBits := by
    revert ht
    cases t <;> decide
  have hcast : ((2 ^ t.expBits : ℕ) : ℤ) = 2 ^ t.expBits := by push_cast; rfl
  rw [if_neg h4] at hlast
  unfold Ty.value at h
  split at h
  · exact absurd rfl ha
  simp only [if_neg h4] at h
  generalize bits % 2 ^ (t.prec - 1) = f at *
  generalize bits / 2 ^ (t.prec - 1) % 2 ^ t.expBits = e at *
  split_ifs at h with htop hf h0 <;> cases h
  · exact Ty.has_of_exponent ht (by omega) le_rfl (by omega)
  · exact Ty.has_of_exponent ht (by omega) (by omega) (by omega)

/-- A number that a format has is rounded to itself, with no flag (R135). -/
theorem Ty.Rounds.exact {t : Ty} {rm : Rm} {sat neg : Bool} {m r : ℕ} {q : ℤ} {f : FlagBits}
    (h : t.Rounds rm sat (withSign neg (scaled m q)) r f) (hm : t.Has m q) :
    (t.value r).Is (withSign neg (scaled m q)) ∧ (∃ n p, t.value r = .fin (decide (withSign neg (scaled m q) < 0)) n p) ∧
      t.Canonical r ∧ f = 0 := by
  obtain ⟨-, u, hround, -, hfinite⟩ := h
  have hbits : HasBits t.prec (withSign neg (scaled m q)) := by
    cases neg with
    | false => exact scaled_hasBits hm.lt q
    | true => exact (scaled_hasBits hm.lt q).neg
  have hgrid : IsMultiple t.minQ (withSign neg (scaled m q)) := by
    rw [← scaled_shift m hm.ge]
    cases neg with
    | false => exact scaled_isMultiple _ _
    | true => exact (scaled_isMultiple _ _).neg
  rw [hround.eq_of_mem hbits] at hfinite
  obtain ⟨⟨neg', n, p, hval, hneg⟩, hcan, hnormal, hsub⟩ := hfinite (by
    rw [abs_withSign, abs_of_nonneg (scaled_nonneg _ _)]
    exact hm.le)
  have hsign : neg' = decide (withSign neg (scaled m q) < 0) := by
    rw [Bool.eq_iff_iff, hneg, decide_eq_true_eq]
  refine (lt_or_ge |withSign neg (scaled m q)| (2 ^ (1 - (t.bias : ℤ)))).elim (fun hlt => ?_) fun hge => ?_
  · obtain ⟨y, hy, his, hexact, -⟩ := hsub hlt
    have hyv := hy.eq_of_mem hgrid
    exact ⟨hyv ▸ his, ⟨n, p, hsign ▸ hval⟩, hcan, hexact hyv⟩
  · obtain ⟨his, hexact, -⟩ := hnormal hge
    exact ⟨his, ⟨n, p, hsign ▸ hval⟩, hcan, hexact rfl⟩

/-- A zero of a format, with its sign. -/
theorem Ty.signBit_encodes {t : Ty} (ht : t.isFloat = true) (neg : Bool) :
    t.value (t.signBit neg) = .fin neg 0 t.minQ ∧ t.signBit neg < 2 ^ t.width ∧ t.Canonical (t.signBit neg) := by
  have hbits : t.finBits neg 0 t.minQ = t.signBit neg := by
    unfold Ty.finBits
    rw [if_pos (by positivity), add_zero]
  have henc : t.Encodes 0 t.minQ := ⟨by positivity, fun _ => rfl, le_rfl, by rw [scaled_zero]; exact scaled_nonneg _ _⟩
  rw [← hbits]
  exact Ty.encodes ht henc neg

/-- A value that a format has is rounded to itself, and a zero keeps its sign. -/
theorem Ty.round_exact {t : Ty} (ht : t.isFloat = true) (rm : Rm) (sat neg : Bool) {m : ℕ} {q : ℤ} (hm : t.Has m q) :
    let x := t.round rm sat neg m q false
    (t.value x.1).Is (withSign neg (scaled m q)) ∧ (t.value x.1).neg = neg ∧ t.Canonical x.1 ∧ x.2 = 0 ∧ x.1 < 2 ^ t.width := by
  rcases Nat.eq_zero_or_pos m with rfl | hpos
  · obtain ⟨hval, hlt, hcan⟩ := Ty.signBit_encodes ht neg
    rw [Ty.round_zero]
    dsimp only
    rw [hval, FVal.is_fin]
    exact ⟨by simp, rfl, hcan, rfl, hlt⟩
  · have hround := Ty.round_rounds ht rm sat neg q hpos.ne'
    obtain ⟨his, ⟨n, p, hval⟩, hcan, hf⟩ := hround.exact hm
    refine ⟨his, ?_, hcan, hf, hround.lt⟩
    rw [hval, FVal.neg, Bool.eq_iff_iff, decide_eq_true_eq, withSign_neg_iff (scaled_pos_iff.2 hpos)]

/-! ### Minimum, maximum and class (R150, R152) -/

open Machine

/-- What `fmin` and `fmax` write for an operand (R150). -/
theorem Ty.canonical_spec {t : Ty} (ht : t.isFloat = true) {o : ℕ} (ho : o < 2 ^ t.width) :
    t.canonical o < 2 ^ t.width ∧ (t ≠ .a80 → t.canonical o = o) ∧
      (t = .a80 → (∀ h, t.value o = .inf h → t.value (t.canonical o) = .inf h) ∧
        ∀ v, (t.value o).Is v → (t.value (t.canonical o)).Is v ∧ (t.value (t.canonical o)).neg = (t.value o).neg ∧
          t.Canonical (t.canonical o)) := by
  by_cases ha : t = .a80
  · subst ha
    by_cases hfin : ∃ neg m q, Ty.a80.value o = .fin neg m q
    · obtain ⟨neg, m, q, hval⟩ := hfin
      have hcan : Ty.a80.canonical o = (Ty.a80.round .rne false neg m q false).1 := by simp only [Ty.canonical, hval]
      obtain ⟨his, hneg, hc, -, hlt⟩ := Ty.round_exact ht .rne false neg (Ty.has_of_value ht hval)
      rw [hcan, hval]
      refine ⟨hlt, fun h => absurd rfl h, fun _ => ⟨fun h hi => FVal.noConfusion hi, fun v hv => ?_⟩⟩
      rw [FVal.is_fin] at hv
      exact ⟨hv ▸ his, hneg, hc⟩
    · have hcan : Ty.a80.canonical o = o := by
        unfold Ty.canonical
        split
        · exact absurd ⟨_, _, _, ‹_›⟩ hfin
        · rfl
      rw [hcan]
      refine ⟨ho, fun _ => rfl, fun _ => ⟨fun _ h => h, fun v hv => ?_⟩⟩
      obtain ⟨neg, m, q, hval, -⟩ := hv.exists_fin
      exact absurd ⟨neg, m, q, hval⟩ hfin
  · have hcan : t.canonical o = o := by
      unfold Ty.canonical
      split
      · exact absurd rfl ha
      · rfl
    exact ⟨hcan.symm ▸ ho, fun _ => hcan, fun h => absurd h ha⟩

theorem fMinMax_nan (t : Ty) (mx : Bool) {a b : ℕ} (ha : (t.value a).isNan = true) (hb : (t.value b).isNan = true) :
    fMinMax t mx a b = (t.canonNan, (t.value a).sigFlag ||| (t.value b).sigFlag) := by
  simp [fMinMax, ha, hb]

theorem fMinMax_nan_left (t : Ty) (mx : Bool) {a b : ℕ} (ha : (t.value a).isNan = true) (hb : (t.value b).isNan = false) :
    fMinMax t mx a b = (t.canonical b, (t.value a).sigFlag ||| (t.value b).sigFlag) := by
  simp [fMinMax, ha, hb]

theorem fMinMax_nan_right (t : Ty) (mx : Bool) {a b : ℕ} (ha : (t.value a).isNan = false) (hb : (t.value b).isNan = true) :
    fMinMax t mx a b = (t.canonical a, (t.value a).sigFlag ||| (t.value b).sigFlag) := by
  simp [fMinMax, ha, hb]

/-- Of two values that are not NaNs the smaller is the first when it is below the second, −0 being below +0. -/
theorem fMinMax_ordered (t : Ty) (mx : Bool) {a b : ℕ} {u v : EReal} (ha : (t.value a).At u) (hb : (t.value b).At v)
    (below : Bool) (h : below = true ↔ u < v ∨ u = v ∧ (t.value a).neg = true ∧ (t.value b).neg = false) :
    fMinMax t mx a b = (t.canonical (if below != mx then a else b), 0) := by
  have hless : ((t.value a).lt (t.value b) || ((t.value a).eqv (t.value b) && (t.value a).neg && !(t.value b).neg)) = below := by
    rw [Bool.eq_iff_iff, h, Bool.or_eq_true, Bool.and_eq_true, Bool.and_eq_true, FVal.lt_iff ha hb, FVal.eqv_iff ha hb,
      Bool.not_eq_true', and_assoc]
  simp only [fMinMax, ha.not_nan, hb.not_nan, ha.sigFlag, hb.sigFlag, hless]
  rfl

/-- The bit of a class (R152). -/
def classBit (t : Ty) (x : FVal) : ℕ :=
  match x with
  | .nan h => if h then 8 else 9
  | .inf h => if h then 0 else 7
  | .fin neg m q =>
    if m = 0 then (if neg then 3 else 4)
    else if scaledLe (2 ^ (t.prec - 1)) t.minQ m q then (if neg then 1 else 6)
    else (if neg then 2 else 5)

theorem fClass_eq (t : Ty) (a : ℕ) : fClass t a = 2 ^ classBit t (t.value a) := by
  unfold fClass classBit
  cases t.value a <;> simp only [apply_ite (2 ^ · : ℕ → ℕ)]

theorem classBit_finite {t : Ty} (ht : t.isFloat = true) {x : FVal} {v : ℝ} (hx : x.Is v) :
    let normal := (2 : ℝ) ^ (1 - (t.bias : ℤ)) ≤ |v|
    (v = 0 → classBit t x = if x.neg then 3 else 4) ∧ (normal → classBit t x = if x.neg then 1 else 6) ∧
      (v ≠ 0 → ¬normal → classBit t x = if x.neg then 2 else 5) := by
  obtain ⟨neg, m, q, rfl, rfl⟩ := hx.exists_fin
  have hnormal : scaledLe (2 ^ (t.prec - 1)) t.minQ m q = true ↔ (2 : ℝ) ^ (1 - (t.bias : ℤ)) ≤ |withSign neg (scaled m q)| := by
    rw [scaledLe_iff, scaled_smallest_normal ht, abs_withSign, abs_of_nonneg (scaled_nonneg _ _)]
  have hsmallest : m = 0 → ¬(2 : ℝ) ^ (1 - (t.bias : ℤ)) ≤ |withSign neg (scaled m q)| := by
    rintro rfl
    simp [two_zpow_pos]
  have hneg : (FVal.fin neg m q).neg = neg := rfl
  rw [hneg]
  intro normal
  refine ⟨fun h0 => ?_, fun hn => ?_, fun h0 hn => ?_⟩
  · simp only [withSign_eq_zero, scaled_eq_zero] at h0
    simp [classBit, h0]
  · have h0 : m ≠ 0 := fun h0 => hsmallest h0 hn
    simp [classBit, h0, hnormal.2 hn]
  · simp only [withSign_eq_zero, scaled_eq_zero, Ne] at h0
    simp [classBit, h0, hnormal.not.2 hn]

theorem operand_lt (s : State) (w : Tid) {t : Ty} (ht : t.isFloat = true) (r : SReg) : s.operand w t r < 2 ^ t.width := by
  rw [State.operand]
  split
  · subst t
    have hlo := (s.rd w r).isLt
    change _ < 2 ^ 80
    omega
  · exact Nat.mod_lt _ (by positivity)

/-- The operand that `fmin` and `fmax` pick, as it is written. -/
theorem yields_canonical {s : State} {g : Gd} (hon : s.guardOn s.cur g = true) {t : Ty} (ht : t.isFloat = true) {i : Instr}
    {d : SReg} {lat o : ℕ} {x : ℕ × FlagBits} {f : FlagBits} (ho : o < 2 ^ t.width)
    (hi : exec i s = .next (if s.guardOn s.cur g then s.resultT lat t d x else s.advance s.cur)) (hx : x = (t.canonical o, f)) :
    ∃ r, s.yields i lat (floatWrites t d r) f ∧ (t ≠ .a80 → r = o) ∧
      (t = .a80 → r < 2 ^ 80 ∧ (∀ h, t.value o = .inf h → t.value r = .inf h) ∧
        ∀ v, (t.value o).Is v → (t.value r).Is v ∧ (t.value r).neg = (t.value o).neg ∧
          (r.testBit 63 = true ↔ r / 2 ^ 64 % 2 ^ 15 ≠ 0)) := by
  obtain ⟨hlt, hsame, hvalue⟩ := Ty.canonical_spec ht ho
  refine ⟨_, yields_float hon ht hi hx hlt, hsame, fun ha => ?_⟩
  obtain ⟨hinf, hfin⟩ := hvalue ha
  refine ⟨?_, hinf, fun v hv => ?_⟩
  · subst ha
    exact hlt
  · obtain ⟨his, hneg, hcan⟩ := hfin v hv
    exact ⟨his, hneg, hcan ha⟩

/-- Settles O31: the order of the values is that of the numbers they stand for, and an operand is written by `Ty.canonical`. -/
theorem floatComparisons : Obligations.FloatComparisons := by
  intro s g t c k d a b hon hfa lat p q x y sig ordered writes picks
  have ht := isFloat_of_scalar hfa
  have hcmp {r f} (h : fCmp t c p q = (r, f)) : s.yields (.fcmp g t c k a b) lat [.q k r] f := by
    have hstate : (s.land s.cur (latT t) [.q k (fCmp t c p q).1] (fCmp t c p q).2).advance s.cur =
        (s.land s.cur lat [.q k r] f).advance s.cur := by
      rw [h]
      rfl
    exact State.exec_of_guardOn hon rfl hstate
  have hwrite (mx : Bool) {r f} (h : fMinMax t mx p q = (r, f)) (hr : r < 2 ^ t.width) : writes mx r f := by
    cases mx <;> exact yields_float hon ht rfl h hr
  have hpick (mx : Bool) {o f} (h : fMinMax t mx p q = (t.canonical o, f)) (ho : o < 2 ^ t.width) : picks mx o f := by
    cases mx <;> exact yields_canonical hon ht ho rfl h
  have hsig : x.sigFlag ||| y.sigFlag = sig := FVal.sigFlag_or x y
  have hp := operand_lt s s.cur ht a
  have hq := operand_lt s s.cur ht b
  have hordered : ordered ↔ c.ordered = true := by cases c <;> simp [ordered, FCond.ordered]
  refine ⟨fun h => ⟨fun ho => hcmp ?_, fun ho => hcmp ?_⟩, fun u v hu hv => ⟨(fCmp t c p q).1, hcmp ?_, ?_⟩,
    fun mx hx hy => hwrite mx ?_ ?_, fun mx => ⟨fun hx hy => hpick mx ?_ hq, fun hy hx => hpick mx ?_ hp⟩, fun u v hu hv => ?_,
    classBit t x, State.yields_of_result hon rfl ?_, fun h hx => ?_, fun h hx => ?_, fun v hv => classBit_finite ht hv⟩
  · refine (fCmp_nan t c h).trans ?_
    rw [if_pos (hordered.1 ho)]
    have hne : decide (c = .ne ∨ c = .un) = false := by
      rw [decide_eq_false_iff_not]
      rintro (rfl | rfl) <;> exact ho
    rw [hne]
  · refine (fCmp_nan t c h).trans ?_
    rw [if_neg (hordered.not.1 ho)]
  · exact Prod.ext rfl (fCmp_ordered t c hu hv).2
  · exact (fCmp_ordered t c hu hv).1
  · exact (fMinMax_nan t mx hx hy).trans (by rw [← hsig]; rcases hfa with rfl | rfl | rfl <;> rfl)
  · rcases hfa with rfl | rfl | rfl <;> decide
  · exact (fMinMax_nan_left t mx hx hy).trans (by rw [← hsig])
  · exact (fMinMax_nan_right t mx hx hy).trans (by rw [← hsig])
  · intro below
    have hmin (mx z : Bool) (hz : z = true ↔ below) := fMinMax_ordered t mx hu hv z hz
    exact ⟨fun h => ⟨hpick false (hmin false true (by simpa)) hp, hpick true (hmin true true (by simpa)) hq⟩,
      fun h => ⟨hpick false (hmin false false (by simpa)) hq, hpick true (hmin true false (by simpa)) hp⟩⟩
  · exact congrArg (BitVec.ofNat 64) (fClass_eq t p)
  · rw [hx]
    rfl
  · rw [hx]
    rfl

end Sys2Proof

/-!
PROOFS. Conversions (R141 to R143) of scalars and lanes (R144 to R147): obligations O32 and O36.
-/

namespace Sys2Proof

/-! ### Integer patterns (R134) -/

theorem testBit_top {k y : ℕ} (h : y < 2 ^ (k + 1)) : y.testBit k = decide (2 ^ k ≤ y) := by
  rw [Nat.testBit_eq_decide_div_mod_eq, Bool.eq_iff_iff, decide_eq_true_eq, decide_eq_true_eq]
  have hpow : 2 ^ (k + 1) = 2 ^ k * 2 := pow_succ 2 k
  have hdiv : y / 2 ^ k < 2 := Nat.div_lt_of_lt_mul (by omega)
  rw [Nat.mod_eq_of_lt hdiv, ← Nat.one_le_div_iff (by positivity)]
  omega

section

variable {t : Ty} (ht : t.isInt = true)

include ht

theorem Ty.int_width_pos : 0 < t.width := by
  revert ht
  cases t <;> decide

theorem Ty.int_not_float : t.isFloat = false := by
  revert ht
  cases t <;> decide

/-- An integer pattern as the statement and as the model read it. -/
theorem Ty.reads_eq_intValue (x : ℕ) : t.reads x = t.intValue x := by
  have hlt : x % 2 ^ t.width < 2 ^ (t.width - 1 + 1) := by
    rw [Nat.sub_add_cancel (Ty.int_width_pos ht)]
    exact Nat.mod_lt _ (by positivity)
  rw [Ty.reads, Ty.intValue, bitsInt, testBit_top hlt]
  by_cases hs : t.signed = true
  · simp only [hs, true_and, if_true, decide_eq_true_eq]
    push_cast
    rfl
  · simp only [hs]
    push_cast
    rfl

/-- The register value of an integer pattern is its value (R129). -/
theorem Ty.extend_int (x : ℕ) : t.extend x = BitVec.ofInt 64 (t.reads x) := by
  rw [Ty.reads_eq_intValue ht, Ty.extend, Ty.intValue]
  split
  · rfl
  · rw [BitVec.ofInt_natCast]

theorem Ty.extendLane_int (x : ℕ) : t.extendLane x = BitVec.ofInt 32 (t.reads x) := by
  rw [Ty.reads_eq_intValue ht, Ty.extendLane, Ty.intValue]
  split
  · rfl
  · rw [BitVec.ofInt_natCast]

end

theorem intBits_lt (w : ℕ) (v : ℤ) : intBits w v < 2 ^ w := by
  rw [intBits, Int.toNat_lt_of_ne_zero (by positivity)]
  exact_mod_cast Int.emod_lt_of_pos v (by positivity)

theorem intBits_cast (w : ℕ) (v : ℤ) : (intBits w v : ℤ) = v % 2 ^ w := by
  rw [intBits, Int.toNat_of_nonneg (Int.emod_nonneg _ (by positivity))]

theorem Ty.inRange_iff (t : Ty) (v : ℤ) : t.inRange v ↔ t.intMin ≤ v ∧ v ≤ t.intMax := by
  rw [Ty.inRange, Ty.intMin, Ty.intMax]
  split
  · rw [Int.le_sub_one_iff]
  · rw [Int.le_sub_one_iff]

/-- An integer in the range of a type is read back from its pattern. -/
theorem Ty.reads_intBits {t : Ty} (ht : t.isInt = true) {v : ℤ} (hv : t.inRange v) : t.reads (intBits t.width v) = v := by
  have hpow : (2 : ℤ) ^ t.width = 2 ^ (t.width - 1) * 2 := by rw [← pow_succ, Nat.sub_add_cancel (Ty.int_width_pos ht)]
  have hhalf : (0 : ℤ) < 2 ^ (t.width - 1) := by positivity
  have hcond : 2 ^ (t.width - 1) ≤ intBits t.width v ↔ (2 : ℤ) ^ (t.width - 1) ≤ v % 2 ^ t.width := by
    rw [← intBits_cast]
    exact_mod_cast Iff.rfl
  rw [Ty.inRange] at hv
  rw [Ty.reads, Nat.mod_eq_of_lt (intBits_lt _ _), intBits_cast, Int.emod_emod]
  simp only [hcond]
  rcases le_or_gt 0 v with hpos | hneg
  · have hmod : v % 2 ^ t.width = v := Int.emod_eq_of_lt hpos (by split at hv <;> omega)
    rw [hmod, if_neg]
    rintro ⟨hs, hle⟩
    rw [if_pos hs] at hv
    exact absurd hv.2 hle.not_gt
  · have hs : t.signed = true := by
      by_contra hs
      rw [if_neg hs] at hv
      omega
    rw [if_pos hs] at hv
    have hmod : v % 2 ^ t.width = v + 2 ^ t.width := by
      rw [← Int.add_emod_right]
      exact Int.emod_eq_of_lt (by omega) (by omega)
    rw [hmod, if_pos ⟨hs, by omega⟩, add_sub_cancel_right]

/-- The bounds of an integer type are in its range. -/
theorem Ty.inRange_bound (t : Ty) (neg : Bool) : t.inRange (if neg then t.intMin else t.intMax) := by
  rw [Ty.inRange_iff, Ty.intMin, Ty.intMax]
  have hhalf : (0 : ℤ) < 2 ^ (t.width - 1) := by positivity
  have hfull : (0 : ℤ) < 2 ^ t.width := by positivity
  cases neg <;> split <;> constructor <;> simp <;> omega

theorem Ty.inRange_zero (t : Ty) : t.inRange 0 := by
  rw [Ty.inRange]
  split <;> constructor <;> simp

/-- `intResult` on an integer in range, and out of it (R141). -/
theorem Ty.intResult_spec {t : Ty} (ht : t.isInt = true) (sat : Bool) (v : ℤ) :
    let x := t.intResult sat v
    x.1 < 2 ^ t.width ∧ (t.inRange v → t.reads x.1 = v ∧ x.2 = 0) ∧
      (¬t.inRange v → sat = false → (x.1 : ℤ) = v % 2 ^ t.width ∧ x.2 = 0) ∧
      (¬t.inRange v → sat = true → x.2 = fSAT ∧ t.reads x.1 = if v < 0 then t.intMin else t.intMax) := by
  cases sat with
  | false => exact ⟨intBits_lt _ _, fun hv => ⟨Ty.reads_intBits ht hv, rfl⟩, fun _ _ => ⟨intBits_cast _ _, rfl⟩,
      fun _ h => Bool.noConfusion h⟩
  | true =>
    refine ⟨intBits_lt _ _, fun hv => ?_, fun _ h => Bool.noConfusion h, fun hv _ => ?_⟩
    · obtain ⟨hlo, hhi⟩ := (t.inRange_iff v).1 hv
      have hx : t.intResult true v = (intBits t.width v, 0) := by
        simp only [Ty.intResult, clampInt, if_true, if_neg hlo.not_gt, if_neg hhi.not_gt]
      rw [hx]
      exact ⟨Ty.reads_intBits ht hv, rfl⟩
    · obtain ⟨hmin, hmax⟩ := (t.inRange_iff 0).1 t.inRange_zero
      rw [Ty.inRange_iff, not_and_or, not_le, not_le] at hv
      have hx : t.intResult true v = (intBits t.width (if v < 0 then t.intMin else t.intMax), fSAT) := by
        rcases hv with hlo | hhi
        · simp only [Ty.intResult, clampInt, if_true, if_pos hlo, if_pos (hlo.trans_le hmin)]
        · have hnlo : ¬v < t.intMin := by omega
          have hn0 : ¬v < 0 := by omega
          simp only [Ty.intResult, clampInt, if_true, if_neg hnlo, if_pos hhi, if_neg hn0]
      rw [hx]
      refine ⟨rfl, Ty.reads_intBits ht ?_⟩
      have := t.inRange_bound (decide (v < 0))
      simpa using this

/-! ### Conversion to an integer (R142) -/

/-- The result for a number out of range, or an infinity (R142). -/
def outOfRange (t : Ty) (sat neg : Bool) : ℕ × FlagBits :=
  if sat then (intBits t.width (if neg then t.intMin else t.intMax), fSAT ||| fNX) else (2 ^ (t.width - 1), fIV)

theorem outOfRange_spec {t : Ty} (ht : t.isInt = true) (sat neg : Bool) :
    let x := outOfRange t sat neg
    x.1 < 2 ^ t.width ∧ (sat = false → x.1 = 2 ^ (t.width - 1) ∧ x.2 = fIV) ∧
      (sat = true → x.2 = (fSAT ||| fNX) ∧ t.reads x.1 = if neg then t.intMin else t.intMax) := by
  cases sat with
  | false =>
    have hw := Ty.int_width_pos ht
    exact ⟨Nat.pow_lt_pow_right one_lt_two (by omega), fun _ => ⟨rfl, rfl⟩, fun h => Bool.noConfusion h⟩
  | true => exact ⟨intBits_lt _ _, fun h => Bool.noConfusion h, fun _ => ⟨rfl, Ty.reads_intBits ht (t.inRange_bound neg)⟩⟩

theorem convToInt_inf (t : Ty) (rm : Rm) (sat neg : Bool) : convToInt t rm sat (.inf neg) = outOfRange t sat neg := rfl

/-- The integer that a finite value is rounded to. -/
def roundedInt (rm : Rm) (neg : Bool) (m : ℕ) (q : ℤ) : ℤ :=
  if neg then -((roundAt rm neg m q false 0).1 : ℤ) else (roundAt rm neg m q false 0).1

section

variable (t : Ty) (rm : Rm) (sat neg : Bool) (m : ℕ) (q : ℤ)

theorem convToInt_inRange (h : t.inRange (roundedInt rm neg m q)) :
    convToInt t rm sat (.fin neg m q) = (intBits t.width (roundedInt rm neg m q), flagIf (!(roundAt rm neg m q false 0).2) fNX) :=
  if_pos ((t.inRange_iff _).1 h)

theorem convToInt_not_inRange (h : ¬t.inRange (roundedInt rm neg m q)) :
    convToInt t rm sat (.fin neg m q) = outOfRange t sat neg :=
  if_neg ((t.inRange_iff _).not.1 h)

/-- The integers as the multiples of one. -/
theorem isMultiple_zero : IsMultiple 0 = fun z : ℝ => ∃ n : ℤ, z = n := by
  funext z
  simp [IsMultiple]

theorem roundedInt_spec :
    RoundsIn (fun z => ∃ n : ℤ, z = n) rm (withSign neg (scaled m q)) (roundedInt rm neg m q) ∧
      ((roundAt rm neg m q false 0).2 = true ↔ (roundedInt rm neg m q : ℝ) = withSign neg (scaled m q)) := by
  have hround := (standsFor_scaled m q).roundAt (q' := 0) Bool.noConfusion rm neg
  rw [roundedInt]
  generalize roundAt rm neg m q false 0 = r at hround
  have hy : (((if neg then -(r.1 : ℤ) else r.1) : ℤ) : ℝ) = withSign neg (scaled r.1 0) := by
    rw [scaled_exponent_zero]
    cases neg <;> simp
  rw [hy, ← isMultiple_zero, hround.exact_iff, withSign_inj, eq_comm]
  exact ⟨hround.roundsIn fun n hlo hhi => neighbours_isMultiple hlo hhi, Iff.rfl⟩

end

/-- The rounded integer is out of range only if the value is not zero, and then its sign bit is its sign. -/
theorem neg_of_not_inRange (t : Ty) (rm : Rm) {neg : Bool} {m : ℕ} {q : ℤ} (h : ¬t.inRange (roundedInt rm neg m q)) :
    withSign neg (scaled m q) < 0 ↔ neg = true := by
  refine withSign_neg_iff (scaled_pos_iff.2 (Nat.pos_of_ne_zero ?_)) neg
  rintro rfl
  have hzero := (roundedInt_spec rm neg 0 q).1.eq_of_mem ⟨0, by simp⟩
  rw [scaled_zero, withSign_zero, Int.cast_eq_zero] at hzero
  exact h (hzero ▸ t.inRange_zero)

theorem convToInt_spec {t : Ty} (ht : t.isInt = true) (rm : Rm) (sat : Bool) {x : FVal} {v : ℝ} (hx : x.Is v) :
    let c := convToInt t rm sat x
    c.1 < 2 ^ t.width ∧ ∃ y : ℤ, RoundsIn (fun z => ∃ n : ℤ, z = n) rm v y ∧
      (t.inRange y → t.reads c.1 = y ∧ ((y : ℝ) = v → c.2 = 0) ∧ ((y : ℝ) ≠ v → c.2 = fNX)) ∧
      (¬t.inRange y → sat = false → c.1 = 2 ^ (t.width - 1) ∧ c.2 = fIV) ∧
      (¬t.inRange y → sat = true → c.2 = (fSAT ||| fNX) ∧ t.reads c.1 = if v < 0 then t.intMin else t.intMax) := by
  obtain ⟨neg, m, q, rfl, rfl⟩ := hx.exists_fin
  obtain ⟨hround, hexact⟩ := roundedInt_spec rm neg m q
  by_cases hr : t.inRange (roundedInt rm neg m q)
  · rw [convToInt_inRange t rm sat neg m q hr]
    exact ⟨intBits_lt _ _, _, hround, fun _ => ⟨Ty.reads_intBits ht hr, flagIf_of_iff hexact _⟩, fun h => absurd hr h,
      fun h => absurd hr h⟩
  · obtain ⟨hlt, hplain, hsat⟩ := outOfRange_spec ht sat neg
    rw [convToInt_not_inRange t rm sat neg m q hr]
    simp only [neg_of_not_inRange t rm hr]
    exact ⟨hlt, _, hround, fun h => absurd h hr, fun _ => hplain, fun _ => hsat⟩

theorem convToInt_lt {t : Ty} (ht : t.isInt = true) (rm : Rm) (sat : Bool) (x : FVal) :
    (convToInt t rm sat x).1 < 2 ^ t.width := by
  cases x with
  | nan => exact Nat.two_pow_pos _
  | inf n => exact (outOfRange_spec ht sat n).1
  | fin neg m q => exact (convToInt_spec ht rm sat ((FVal.is_fin neg m q _).2 rfl)).1

/-! ### Conversion to a float (R141, R143) -/

theorem convToFloat_nan (t : Ty) (rm : Rm) (sat h : Bool) :
    convToFloat t rm sat (.nan h) = (t.canonNan, if h then fIV else 0) := rfl

section

variable {t : Ty} (ht : t.isFloat = true) (rm : Rm) (sat : Bool)

include ht

theorem Ty.round_lt (neg : Bool) (m : ℕ) (q : ℤ) : (t.round rm sat neg m q false).1 < 2 ^ t.width := by
  rcases Nat.eq_zero_or_pos m with rfl | hpos
  · exact Ty.signBit_lt ht neg
  · exact (Ty.round_rounds ht rm sat neg q hpos.ne').lt

theorem convToFloat_lt (x : FVal) : (convToFloat t rm sat x).1 < 2 ^ t.width := by
  cases x with
  | nan => exact Ty.canonNan_lt ht
  | inf n =>
    rw [convToFloat]
    split_ifs with hs h4
    · exact Ty.maxBits_lt ht n
    · subst h4
      decide
    · exact Ty.infBits_lt ht n
  | fin => exact Ty.round_lt ht rm sat _ _ _

theorem convToFloat_inf (n : Bool) :
    let c := convToFloat t rm sat (.inf n)
    (sat = false → if t = .e4m3 then c.1 = 0x7F ∧ c.2 = fIV else t.value c.1 = .inf n ∧ c.2 = 0) ∧
      (sat = true → c.2 = (fSAT ||| fNX) ∧
        (t.value c.1).Is ((if n then -1 else 1) * (t.maxFinite.1 : ℝ) * (2 : ℝ) ^ t.maxFinite.2)) := by
  cases sat with
  | true => exact ⟨fun h => Bool.noConfusion h, fun _ => ⟨rfl, by simp only [convToFloat, if_true, Ty.value_maxBits ht]; rfl⟩⟩
  | false =>
    refine ⟨fun _ => ?_, fun h => Bool.noConfusion h⟩
    simp only [convToFloat, Bool.false_eq_true, if_false]
    split_ifs with h4
    · exact ⟨rfl, rfl⟩
    · exact ⟨Ty.value_infBits ht h4 n, rfl⟩

theorem convToFloat_rounds {x : FVal} {v : ℝ} (hx : x.Is v) (hv : v ≠ 0) :
    t.Rounds rm sat v (convToFloat t rm sat x).1 (convToFloat t rm sat x).2 := by
  obtain ⟨neg, m, q, rfl, rfl⟩ := hx.exists_fin
  exact Ty.round_rounds ht rm sat neg q (by simpa using hv)

theorem convToFloat_zero {x : FVal} (hx : x.Is 0) :
    let c := convToFloat t rm sat x
    (t.value c.1).Is 0 ∧ (t.value c.1).neg = x.neg ∧ c.2 = 0 := by
  obtain ⟨neg, m, q, rfl, hm⟩ := hx.exists_fin
  obtain rfl : m = 0 := by simpa using hm.symm
  have hc : convToFloat t rm sat (.fin neg 0 q) = (t.signBit neg, 0) := rfl
  rw [hc]
  dsimp only
  rw [(Ty.signBit_encodes ht neg).1, FVal.is_fin]
  exact ⟨by simp, rfl, rfl⟩

end

theorem FVal.ofInt_is (v : ℤ) : (FVal.ofInt v).Is (v : ℝ) := by
  rw [FVal.ofInt, FVal.is_fin, scaled_exponent_zero, Nat.cast_natAbs, Int.cast_abs, withSign_abs]
  rw [decide_eq_true_eq, Int.cast_lt_zero]

/-! ### conv (R141) -/

section

variable {t src : Ty} (rm : Rm) (sat : Bool) (bits : ℕ)

theorem conv_same_int (ht : t.isInt = true) : conv t t rm sat bits = (bits % 2 ^ t.width, 0) := by
  rw [conv, if_pos rfl, if_neg (by rw [Ty.int_not_float ht]; exact Bool.false_ne_true)]

theorem conv_same_nan (ht : t.isFloat = true) {h : Bool} (hx : t.value bits = .nan h) :
    conv t t rm sat bits = (t.canonNan, if h then fIV else 0) := by
  rw [conv, if_pos rfl, if_pos ht, hx]
  rfl

theorem conv_same_float (ht : t.isFloat = true) (hx : (t.value bits).isNan = false) :
    conv t t rm sat bits = (t.canonical (bits % 2 ^ t.width), 0) := by
  rw [conv, if_pos rfl, if_pos ht]
  split
  · rw [‹t.value bits = _›] at hx
    exact Bool.noConfusion hx
  · rfl

theorem conv_int_int (hne : t ≠ src) (hs : src.isInt = true) (ht : t.isInt = true) :
    conv t src rm sat bits = t.intResult sat (src.reads bits) := by
  rw [conv, if_neg hne, if_pos hs, if_pos ht, Ty.reads_eq_intValue hs]

theorem float_ne_int (ht : t.isFloat = true) (hs : src.isInt = true) : t ≠ src := by
  rintro rfl
  rw [Ty.int_not_float hs] at ht
  exact Bool.noConfusion ht

theorem Ty.float_not_int (ht : t.isFloat = true) : ¬t.isInt = true := fun hi => float_ne_int ht hi rfl

theorem conv_int_float (hs : src.isInt = true) (ht : t.isFloat = true) :
    conv t src rm sat bits = convToFloat t rm sat (.ofInt (src.reads bits)) := by
  rw [conv, if_neg (float_ne_int ht hs), if_pos hs, if_neg (Ty.float_not_int ht), Ty.reads_eq_intValue hs]

theorem conv_float_int (hs : src.isFloat = true) (ht : t.isInt = true) :
    conv t src rm sat bits = convToInt t rm sat (src.value bits) := by
  rw [conv, if_neg (float_ne_int hs ht).symm, if_neg (Ty.float_not_int hs), if_pos ht]

theorem conv_float_float (hne : t ≠ src) (hs : src.isFloat = true) (ht : t.isFloat = true) :
    conv t src rm sat bits = convToFloat t rm sat (src.value bits) := by
  rw [conv, if_neg hne, if_neg (Ty.float_not_int hs), if_neg (Ty.float_not_int ht)]

theorem conv_lt (ht : t.isInt = true ∨ t.isFloat = true) (hs : src.isInt = true ∨ src.isFloat = true) :
    (conv t src rm sat bits).1 < 2 ^ t.width := by
  by_cases hne : t = src
  · subst hne
    rcases ht with ht | ht
    · rw [conv_same_int rm sat bits ht]
      exact Nat.mod_lt _ (by positivity)
    · cases hx : (t.value bits).isNan with
      | true =>
        obtain ⟨h, hx⟩ := (FVal.isNan_iff _).1 hx
        rw [conv_same_nan rm sat bits ht hx]
        exact Ty.canonNan_lt ht
      | false =>
        rw [conv_same_float rm sat bits ht hx]
        exact (Ty.canonical_spec ht (Nat.mod_lt _ (by positivity))).1
  · rcases hs with hs | hs <;> rcases ht with ht | ht
    · rw [conv_int_int rm sat bits hne hs ht]
      exact (Ty.intResult_spec ht sat _).1
    · rw [conv_int_float rm sat bits hs ht]
      exact convToFloat_lt ht rm sat _
    · rw [conv_float_int rm sat bits hs ht]
      exact convToInt_lt ht rm sat _
    · rw [conv_float_float rm sat bits hne hs ht]
      exact convToFloat_lt ht rm sat _

end

open Machine

/-! ### `cvt` (R140) -/

/-- Every type but b1 is an integer or a floating type. -/
theorem int_or_float {t : Ty} (h : t ≠ .b1) : t.isInt = true ∨ t.isFloat = true := by
  revert h
  cases t <;> decide

theorem writesT_int {t : Ty} (ht : t.isInt = true) (d : SReg) (r : ℕ) : writesT t d r = [.s d (BitVec.ofInt 64 (t.reads r))] := by
  have ha : t ≠ .a80 := by
    rintro rfl
    exact Bool.noConfusion ht
  rw [writesT, if_neg ha, Ty.extend_int ht]

theorem yields_typed {s : State} {g : Gd} (hon : s.guardOn s.cur g = true) {t : Ty} (ht : t.isInt = true ∨ t.isFloat = true)
    {i : Instr} {d : SReg} {lat : ℕ} {x : ℕ × FlagBits}
    (hi : exec i s = .next (if s.guardOn s.cur g then s.resultT lat t d x else s.advance s.cur)) (hx : x.1 < 2 ^ t.width) :
    s.yields i lat (if t.isInt = true then [.s d (BitVec.ofInt 64 (t.reads x.1))] else floatWrites t d x.1) x.2 := by
  rcases ht with ht | ht
  · rw [if_pos ht, ← writesT_int ht]
    exact State.exec_of_guardOn hon hi rfl
  · rw [if_neg (Ty.float_not_int ht)]
    exact yields_float hon ht hi rfl hx

theorem operand_lt_of_ne {s : State} {w : Tid} {t : Ty} (ha : t ≠ .a80) (r : SReg) : s.operand w t r < 2 ^ t.width := by
  rw [State.operand, if_neg ha]
  exact Nat.mod_lt _ (by positivity)

/-- An operand of the same floating type that is not a NaN is written as it is, or for a80 in canonical form (R141). -/
theorem conv_same_spec {t : Ty} (ht : t.isFloat = true) (rm : Rm) (sat : Bool) {p : ℕ} (hp : p < 2 ^ t.width)
    (hx : (t.value p).isNan = false) : conv t t rm sat p = (t.canonical p, 0) := by
  rw [conv_same_float rm sat p ht hx, Nat.mod_eq_of_lt hp]

/-- A zero of any type becomes the zero of its sign, an integer 0 becoming +0 (R141). -/
theorem conv_zero {t src : Ty} (hf : t.isFloat = true) (rm : Rm) (sat : Bool) {p : ℕ}
    (hp : src.isFloat = true → p < 2 ^ src.width)
    (h : src.isInt = true ∧ src.reads p = 0 ∨ src.isFloat = true ∧ (src.value p).Is 0) :
    let c := conv t src rm sat p
    (t.value c.1).Is 0 ∧ (t.value c.1).neg = (src.isFloat && (src.value p).neg) ∧ c.2 = 0 := by
  rcases h with ⟨hsi, h0⟩ | ⟨hsf, hx⟩
  · rw [conv_int_float rm sat p hsi hf, h0, Ty.int_not_float hsi]
    exact convToFloat_zero hf rm sat (by simpa using FVal.ofInt_is 0)
  · rw [hsf, Bool.true_and]
    by_cases he : t = src
    · subst he
      rw [conv_same_spec hf rm sat (hp hf) hx.not_nan]
      obtain ⟨-, hsame, hvalue⟩ := Ty.canonical_spec hf (hp hf)
      by_cases ha : t = .a80
      · obtain ⟨his, hneg, -⟩ := (hvalue ha).2 0 hx
        exact ⟨his, hneg, rfl⟩
      · rw [hsame ha]
        exact ⟨hx, rfl, rfl⟩
    · rw [conv_float_float rm sat p he hsf hf]
      exact convToFloat_zero hf rm sat hx

/-- Settles O32, a class of pairs of types at a time. -/
theorem conversions : Obligations.Conversions := by
  intro s g t src rm sat d a hon ht1 hs1 p x
  have ht := int_or_float ht1
  have hs := int_or_float hs1
  have hlt := conv_lt rm sat p ht hs
  have hp (hf : src.isFloat = true) : p < 2 ^ src.width := operand_lt s s.cur hf a
  refine ⟨(conv t src rm sat p).1, (conv t src rm sat p).2, hlt, yields_typed hon ht rfl hlt, ?_⟩
  refine ⟨fun he hi => ?_, fun he hf hx ha => ?_, fun he ha v hv => ?_, fun he ha n hx => ?_, fun hf h0 => conv_zero hf rm sat hp h0,
    fun hsf h hx => ⟨fun hi => ?_, fun hf => ?_⟩, fun hne hsi hi => ?_, fun hsi hf hv => ?_, fun hne hsf hf v hv hv0 => ?_,
    fun hsf hi n hx => ?_, fun hne hsf hf n hx => ?_, fun hsf hi v hv => ?_⟩
  · subst he
    have ha : t ≠ .a80 := (float_ne_int rfl hi).symm
    rw [conv_same_int rm sat p hi]
    exact ⟨Nat.mod_eq_of_lt (operand_lt_of_ne ha a), rfl⟩
  · subst he
    rw [conv_same_spec hf rm sat (hp hf) hx]
    exact ⟨(Ty.canonical_spec hf (hp hf)).2.1 ha, rfl⟩
  · subst he
    have hf : t.isFloat = true := ha ▸ rfl
    rw [conv_same_spec hf rm sat (hp hf) hv.not_nan]
    obtain ⟨his, hneg, hcan⟩ := ((Ty.canonical_spec hf (hp hf)).2.2 ha).2 v hv
    exact ⟨his, hneg, rfl, hcan ha⟩
  · subst he
    have hf : t.isFloat = true := ha ▸ rfl
    have hx' : t.value p = .inf n := hx
    rw [conv_same_spec hf rm sat (hp hf) (by rw [hx']; rfl)]
    exact ⟨((Ty.canonical_spec hf (hp hf)).2.2 ha).1 n hx, rfl⟩
  · have hx' : src.value p = .nan h := hx
    rw [conv_float_int rm sat p hsf hi, hx']
    exact ⟨rfl, rfl⟩
  · have hx' : src.value p = .nan h := hx
    by_cases he : t = src
    · subst he
      rw [conv_same_nan rm sat p hf hx]
      exact ⟨rfl, rfl⟩
    · rw [conv_float_float rm sat p he hsf hf, hx', convToFloat_nan]
      exact ⟨rfl, rfl⟩
  · rw [conv_int_int rm sat p hne hsi hi]
    exact (Ty.intResult_spec hi sat _).2
  · rw [conv_int_float rm sat p hsi hf]
    exact convToFloat_rounds hf rm sat (FVal.ofInt_is _) (Int.cast_ne_zero.2 hv)
  · rw [conv_float_float rm sat p hne hsf hf]
    exact convToFloat_rounds hf rm sat hv hv0
  · have hx' : src.value p = .inf n := hx
    rw [conv_float_int rm sat p hsf hi, hx', convToInt_inf]
    exact (outOfRange_spec hi sat n).2
  · have hx' : src.value p = .inf n := hx
    rw [conv_float_float rm sat p hne hsf hf, hx']
    exact convToFloat_inf hf rm sat n
  · rw [conv_float_int rm sat p hsf hi]
    exact (convToInt_spec hi rm sat hv).2

/-! ### Lane results (R144) -/

/-- The OR of the flags of the lanes under a mask. -/
theorem getLsbD_foldl_or {α : Type} (p : α → Bool) (f : α → FlagBits) (b : ℕ) : ∀ (l : List α) (z : FlagBits),
    (l.foldl (fun x i => if p i then x ||| f i else x) z).getLsbD b = true ↔
      z.getLsbD b = true ∨ ∃ i ∈ l, p i = true ∧ (f i).getLsbD b = true
  | [], z => by simp
  | i :: l, z => by
    rw [List.foldl_cons, getLsbD_foldl_or p f b l]
    cases hp : p i <;> simp [hp, or_assoc]

/-- A vector result of lanes is one whose lanes and flags are those of the lane function. -/
theorem yieldsLanes_of_lanes {s : State} {g : Gd} (hon : s.guardOn s.cur g = true) {i : Instr} {lat : ℕ} {d : VReg} {m : Mask}
    {f : Fin 64 → Lane × FlagBits} {P : Fin 64 → Lane → FlagBits → Prop}
    (hi : exec i s = .next (if s.guardOn s.cur g then s.lanes lat d m f else s.advance s.cur))
    (hP : ∀ i : Fin 64, m.getLsbD i = true → P i (f i).1 (f i).2) : s.yieldsLanes i lat d m P := by
  refine ⟨_, fun i => (f i).2, _, State.exec_of_guardOn hon hi rfl, fun i hm => ?_, fun b => ?_⟩
  · simpa [Vec.ofFn] using hP i hm
  · simp [getLsbD_foldl_or]

theorem Machine.State.yieldsLanes.imp {s : State} {i : Instr} {lat : ℕ} {d : VReg} {m : Mask}
    {P Q : Fin 64 → Lane → FlagBits → Prop} (h : s.yieldsLanes i lat d m P) (hPQ : ∀ i r f, P i r f → Q i r f) :
    s.yieldsLanes i lat d m Q := by
  obtain ⟨out, fs, fl, hyields, hlanes, hflags⟩ := h
  exact ⟨out, fs, fl, hyields, fun i hi => hPQ _ _ _ (hlanes i hi), hflags⟩

theorem getLsbD_allOnes (i : Fin 64) : (BitVec.allOnes 64).getLsbD i = true := by
  rw [BitVec.getLsbD_allOnes, decide_eq_true i.isLt]

/-! ### `vcvt` (R145) -/

/-- A lane of the register holds the pattern with its sign copies or zeros above it (R129). -/
theorem Ty.extendLane_eq {t : Ty} (ht : t.isInt = true ∨ t.isFloat = true) {r : ℕ} (hr : r < 2 ^ t.width) :
    t.extendLane r = if t.isInt = true then BitVec.ofInt 32 (t.reads r) else BitVec.ofNat 32 r := by
  rcases ht with ht | ht
  · rw [if_pos ht, Ty.extendLane_int ht]
  · have hsigned : t.signed = false := by
      revert ht
      cases t <;> decide
    rw [if_neg (Ty.float_not_int ht), Ty.extendLane, hsigned, if_neg Bool.false_ne_true, Nat.mod_eq_of_lt hr]

theorem lane_int_or_float {t : Ty} (h : TSet.lane.has t = true) : t.isInt = true ∨ t.isFloat = true := by
  revert h
  cases t <;> decide

theorem narrow_int_or_float {t : Ty} (h : TSet.narrow.has t = true) : t.isInt = true ∨ t.isFloat = true := by
  revert h
  cases t <;> decide

theorem rdK_zero (s : State) (w : Tid) : s.rdK w 0 = BitVec.allOnes 64 := if_pos rfl

theorem vcvt_yields {s : State} {g : Gd} (hon : s.guardOn s.cur g = true) {t src : Ty} (rm : Rm) (sat : Bool) (d a : VReg)
    (ht : TSet.lane.has t = true) (hs : TSet.lane.has src = true) :
    let x := s.rdV s.cur a
    s.yieldsLanes (.vcvt g t rm sat src d a) 8 d (BitVec.allOnes 64) fun i r f =>
      let c := conv t src rm sat (x[i].toNat % 2 ^ src.width)
      r = (if t.isInt = true then BitVec.ofInt 32 (t.reads c.1) else BitVec.ofNat 32 c.1) ∧ f = c.2 := by
  intro x
  rw [← rdK_zero s s.cur]
  refine yieldsLanes_of_lanes hon rfl fun i _ => ?_
  have hlt := conv_lt rm sat (x[i].toNat % 2 ^ src.width) (lane_int_or_float ht) (lane_int_or_float hs)
  exact ⟨Ty.extendLane_eq (lane_int_or_float ht) hlt, rfl⟩

/-! ### `vpack` (R146) -/

/-- Elements of w bits packed into a lane, the first lowest, with the OR of their flags. -/
def packed (w : ℕ) (g : ℕ → ℕ × FlagBits) (n : ℕ) : Lane × FlagBits :=
  (List.range n).foldl (fun (r : Lane × FlagBits) k => (r.1 ||| (BitVec.ofNat 32 (g k).1 <<< (w * k)), r.2 ||| (g k).2)) (0, 0)

theorem packed_succ (w : ℕ) (g : ℕ → ℕ × FlagBits) (n : ℕ) :
    packed w g (n + 1) =
      ((packed w g n).1 ||| (BitVec.ofNat 32 (g n).1 <<< (w * n)), (packed w g n).2 ||| (g n).2) := by
  rw [packed, List.range_succ, List.foldl_append]
  rfl

theorem packed_flags (w : ℕ) (g : ℕ → ℕ × FlagBits) (b n : ℕ) :
    (packed w g n).2.getLsbD b = true ↔ ∃ k < n, (g k).2.getLsbD b = true := by
  induction n with
  | zero => simp [packed]
  | succ n ih =>
    rw [packed_succ, BitVec.getLsbD_or, Bool.or_eq_true, ih]
    simp only [Nat.lt_succ_iff_lt_or_eq, or_and_right, exists_or, exists_eq_left]

theorem ofNat_shiftLeft (w x k : ℕ) : BitVec.ofNat w x <<< k = BitVec.ofNat w (2 ^ k * x) := by
  apply BitVec.eq_of_toNat_eq
  simp [Nat.shiftLeft_eq, mul_comm]

/-- The lane is the number with the elements as its digits. -/
theorem packed_digits {w : ℕ} {g : ℕ → ℕ × FlagBits} (hg : ∀ k, (g k).1 < 2 ^ w) (n : ℕ) :
    (packed w g n).1 = BitVec.ofNat 32 (∑ k ∈ Finset.range n, 2 ^ (w * k) * (g k).1) ∧
      ∑ k ∈ Finset.range n, 2 ^ (w * k) * (g k).1 < 2 ^ (w * n) := by
  induction n with
  | zero => exact ⟨rfl, by simp⟩
  | succ n ih =>
    obtain ⟨hval, hlt⟩ := ih
    rw [packed_succ, Finset.sum_range_succ]
    constructor
    · rw [hval, ofNat_shiftLeft, ← BitVec.ofNat_or, Nat.or_comm, ← Nat.two_pow_add_eq_or_of_lt hlt, add_comm]
    · have hdigit : 2 ^ (w * n) * (g n).1 + 2 ^ (w * n) ≤ 2 ^ (w * (n + 1)) := by
        rw [Nat.mul_succ, pow_add, ← Nat.mul_succ]
        exact Nat.mul_le_mul_left _ (hg n)
      omega

/-- Element e of the 128 that `vpack` converts, as the statement writes it. -/
theorem packElem_eq (t : Ty) (rm : Rm) (sat : Bool) (x y : Vec) {e : ℕ} (he : e < 128) :
    packElem t rm sat x y e =
      conv t (packSrc t) rm sat (if h : e < 64 then x[e].toNat else if h : e - 64 < 64 then y[e - 64].toNat else 0) := by
  rw [packElem]
  by_cases h : e < 64
  · simp only [dif_pos h]
  · have hmod : e % 64 = e - 64 := by omega
    simp only [dif_neg h, dif_pos (show e - 64 < 64 by omega), hmod]

theorem packSrc_int_or_float (t : Ty) : (packSrc t).isInt = true ∨ (packSrc t).isFloat = true := by
  rw [packSrc]
  split_ifs <;> decide

/-- One lane of `vpack`. -/
def packLane (t : Ty) (rm : Rm) (sat : Bool) (x y : Vec) (i : ℕ) : Lane × FlagBits :=
  if 4 / t.bytes * i < 128 then packed (8 * t.bytes) (fun k => packElem t rm sat x y (4 / t.bytes * i + k)) (4 / t.bytes)
  else (0, 0)

/-- The elements of a 16-bit type fill all lanes, those of an 8-bit type the first 32 (R146). -/
theorem packLane_of_width {t : Ty} (ht : TSet.narrow.has t = true) (rm : Rm) (sat : Bool) (x y : Vec) (i : Fin 64) :
    let elem := packElem t rm sat x y
    (t.width = 16 → (packLane t rm sat x y i).1 = BitVec.ofNat 32 ((elem (2 * i)).1 + 2 ^ 16 * (elem (2 * i + 1)).1)) ∧
      (t.width = 8 → (packLane t rm sat x y i).1 = if i.val < 32 then
        BitVec.ofNat 32 ((elem (4 * i)).1 + 2 ^ 8 * (elem (4 * i + 1)).1 + 2 ^ 16 * (elem (4 * i + 2)).1 +
          2 ^ 24 * (elem (4 * i + 3)).1) else 0) := by
  intro elem
  have hlt (e : ℕ) : (elem e).1 < 2 ^ t.width := conv_lt rm sat _ (narrow_int_or_float ht) (packSrc_int_or_float t)
  constructor
  · intro hw
    have hb : t.bytes = 2 := by rw [Ty.bytes, hw]
    rw [hw] at hlt
    have hi : 4 / 2 * i.val < 128 := by omega
    rw [packLane, hb, if_pos hi, (packed_digits (fun k => hlt (4 / 2 * i + k)) _).1]
    simp [Finset.sum_range_succ, elem]
  · intro hw
    have hb : t.bytes = 1 := by rw [Ty.bytes, hw]
    rw [hw] at hlt
    rw [packLane, hb]
    by_cases hi : i.val < 32
    · rw [if_pos (by omega), if_pos hi, (packed_digits (fun k => hlt (4 / 1 * i + k)) _).1]
      simp [Finset.sum_range_succ, elem]
    · rw [if_neg (by omega), if_neg hi]

/-- Every element's flags are those of some lane. -/
theorem packLane_flags {t : Ty} (ht : TSet.narrow.has t = true) (rm : Rm) (sat : Bool) (x y : Vec) (b : ℕ) :
    (∃ i : Fin 64, (packLane t rm sat x y i).2.getLsbD b = true) ↔
      ∃ e, e < 128 ∧ (packElem t rm sat x y e).2.getLsbD b = true := by
  have hn : 4 / t.bytes = 2 ∨ 4 / t.bytes = 4 := by
    revert ht
    cases t <;> decide
  generalize hk : 4 / t.bytes = n at hn
  simp only [packLane, hk]
  constructor
  · rintro ⟨i, hi⟩
    split at hi
    · obtain ⟨k, hk, hbit⟩ := (packed_flags _ _ _ _).1 hi
      exact ⟨n * i + k, by rcases hn with rfl | rfl <;> omega, hbit⟩
    · simp at hi
  · rintro ⟨e, he, hbit⟩
    refine ⟨⟨e / n, by rcases hn with rfl | rfl <;> omega⟩, ?_⟩
    dsimp only
    rw [if_pos (by rcases hn with rfl | rfl <;> omega), packed_flags]
    exact ⟨e % n, by rcases hn with rfl | rfl <;> omega, by rwa [Nat.div_add_mod]⟩

theorem vpack_yields {s : State} {g : Gd} (hon : s.guardOn s.cur g = true) {t : Ty} (rm : Rm) (sat : Bool) (d a b : VReg) :
    s.yieldsLanes (.vpack g t rm sat d a b) 8 d (BitVec.allOnes 64) fun i r f =>
      (r, f) = packLane t rm sat (s.rdV s.cur a) (s.rdV s.cur b) i :=
  yieldsLanes_of_lanes hon rfl fun _ _ => rfl

/-! ### `vunpk` (R147) -/

theorem Ty.inRange_reads {t : Ty} (ht : t.isInt = true) (x : ℕ) : t.inRange (t.reads x) := by
  have hpow : (2 : ℤ) ^ t.width = 2 ^ (t.width - 1) * 2 := by rw [← pow_succ, Nat.sub_add_cancel (Ty.int_width_pos ht)]
  have hcond : 2 ^ (t.width - 1) ≤ x % 2 ^ t.width ↔ (2 : ℤ) ^ (t.width - 1) ≤ (x : ℤ) % 2 ^ t.width := by
    exact_mod_cast Iff.rfl
  have hnonneg := Int.emod_nonneg (x : ℤ) (show (2 : ℤ) ^ t.width ≠ 0 by positivity)
  have hlt := Int.emod_lt_of_pos (x : ℤ) (show (0 : ℤ) < 2 ^ t.width by positivity)
  rw [Ty.inRange, Ty.reads]
  simp only [hcond]
  by_cases hs : t.signed = true
  · rw [if_pos hs]
    split
    · omega
    · rename_i hc
      have : ¬(2 : ℤ) ^ (t.width - 1) ≤ (x : ℤ) % 2 ^ t.width := fun h => hc ⟨hs, h⟩
      omega
  · rw [if_neg hs, if_neg fun h => hs h.1]
    exact ⟨hnonneg, hlt⟩

theorem ofNat_intBits (w : ℕ) (v : ℤ) : BitVec.ofNat w (intBits w v) = BitVec.ofInt w v := by
  apply BitVec.eq_of_toNat_eq
  rw [BitVec.toNat_ofNat, BitVec.toNat_ofInt, Nat.mod_eq_of_lt (intBits_lt w v), intBits, Nat.cast_pow, Nat.cast_ofNat]

theorem narrow_width {t : Ty} (h : TSet.narrow.has t = true) : t.width = 8 ∧ t.bytes = 1 ∨ t.width = 16 ∧ t.bytes = 2 := by
  revert h
  cases t <;> decide

/-- A narrow integer is widened exactly. -/
theorem unpack_int {t : Ty} (hn : TSet.narrow.has t = true) (hi : t.isInt = true) (p : ℕ) :
    let c := conv (packSrc t) t .rne false p
    (if t.signed = true then (BitVec.ofNat 32 c.1).toInt else ((BitVec.ofNat 32 c.1).toNat : ℤ)) = t.reads p ∧ c.2 = 0 := by
  have hsrc : packSrc t ≠ t ∧ (packSrc t).isInt = true ∧ (packSrc t).width = 32 := by
    revert hn hi
    cases t <;> decide
  obtain ⟨hne, hsi, hw⟩ := hsrc
  have hrange := Ty.inRange_reads hi p
  have hc : conv (packSrc t) t .rne false p = (intBits 32 (t.reads p), 0) := by
    rw [conv_int_int .rne false p hne hi hsi, ← hw]
    rfl
  rw [hc]
  dsimp only
  rw [ofNat_intBits]
  refine ⟨?_, rfl⟩
  rw [Ty.inRange] at hrange
  obtain ⟨hlo, hhi⟩ : (if t.signed = true then -2 ^ 31 else 0) ≤ t.reads p ∧
      t.reads p < (if t.signed = true then 2 ^ 31 else 2 ^ 32) := by
    rcases narrow_width hn with ⟨hw, -⟩ | ⟨hw, -⟩ <;> rw [hw] at hrange <;> split_ifs at hrange ⊢ <;> omega
  split_ifs at hlo hhi ⊢
  · exact BitVec.toInt_ofInt_eq_self (by decide) hlo hhi
  · rw [BitVec.toNat_ofInt, Int.toNat_of_nonneg (Int.emod_nonneg _ (by decide))]
    exact Int.emod_eq_of_lt hlo hhi

/-- The formats of NARROW lie within f32. -/
theorem narrow_has_f32 {t : Ty} (hn : TSet.narrow.has t = true) (hf : t.isFloat = true) {m : ℕ} {q : ℤ} (h : t.Has m q) :
    Ty.f32.Has m q := by
  have hcover : t.prec ≤ 24 ∧ Ty.f32.minQ ≤ t.minQ ∧ finiteCovers .f32 t = true := by
    revert hn hf
    cases t <;> decide
  obtain ⟨hprec, hmin, hmost⟩ := hcover
  rw [finiteCovers, scaledLe_iff] at hmost
  exact ⟨h.lt.trans_le (Nat.pow_le_pow_right two_pos hprec), hmin.trans h.ge, h.le.trans hmost⟩

/-- A narrow float is widened exactly. -/
theorem unpack_float {t : Ty} (hn : TSet.narrow.has t = true) (hf : t.isFloat = true) (p : ℕ) :
    let c := conv (packSrc t) t .rne false p
    let r : Lane := BitVec.ofNat 32 c.1
    (∀ h, t.value p = .nan h → r = 0x7FC00000 ∧ c.2 = if h then fIV else 0) ∧
      (∀ n, t.value p = .inf n → Ty.f32.value r.toNat = .inf n ∧ c.2 = 0) ∧
      (∀ v, (t.value p).Is v → (Ty.f32.value r.toNat).Is v ∧ c.2 = 0) := by
  have hsrc : packSrc t = .f32 := by rw [packSrc, if_pos hf]
  have hne : Ty.f32 ≠ t := by
    rintro rfl
    exact Bool.noConfusion hn
  rw [hsrc, conv_float_float .rne false p hne hf rfl]
  intro c r
  have hr : r.toNat = c.1 := by
    have hlt : c.1 < 2 ^ 32 := convToFloat_lt (t := .f32) rfl .rne false _
    rw [BitVec.toNat_ofNat, Nat.mod_eq_of_lt hlt]
  rw [hr]
  refine ⟨fun h hx => ?_, fun n hx => ?_, fun v hv => ?_⟩
  · simp only [r, c, hx, convToFloat_nan]
    exact ⟨rfl, trivial⟩
  · simp only [c, hx]
    exact (convToFloat_inf (t := .f32) rfl .rne false n).1 rfl
  · obtain ⟨neg, m, q, hx, rfl⟩ := hv.exists_fin
    obtain ⟨his, -, -, hflag, -⟩ :=
      Ty.round_exact (t := .f32) rfl .rne false neg (narrow_has_f32 hn hf (Ty.has_of_value hf hx))
    simp only [c, hx]
    exact ⟨his, hflag⟩

theorem vunpk_yields {s : State} {g : Gd} (hon : s.guardOn s.cur g = true) {t : Ty} (ht : TSet.narrow.has t = true)
    (part : BitVec 2) (d a : VReg) :
    let x := s.rdV s.cur a
    s.yieldsLanes (.vunpk g t part d a) 8 d (BitVec.allOnes 64) fun i r f =>
      let e := 64 * part.toNat + i.val
      let p := x[e * t.width / 32 % 64].toNat / 2 ^ (e * t.width % 32) % 2 ^ t.width
      (r, f) = (BitVec.ofNat 32 (conv (packSrc t) t .rne false p).1, (conv (packSrc t) t .rne false p).2) := by
  intro x
  refine yieldsLanes_of_lanes hon rfl fun i _ => ?_
  have hbyte (e : ℕ) : e * 8 / 32 = e / 4 ∧ e * 8 % 32 = 8 * (e % 4) := by omega
  have hhalf (e : ℕ) : e * 16 / 32 = e / 2 ∧ e * 16 % 32 = 16 * (e % 2) := by omega
  rcases narrow_width ht with ⟨hw, hb⟩ | ⟨hw, hb⟩
  · simp only [hw, hb, (hbyte _).1, (hbyte _).2]
    rfl
  · simp only [hw, hb, (hhalf _).1, (hhalf _).2]
    rfl

/-- Settles O36: each lane is a conversion, or for `vpack` the number whose digits are two or four of them. -/
theorem laneConversions : Obligations.LaneConversions := by
  intro s g t src rm sat part d a b hon x y all wide
  refine ⟨fun ht hs => vcvt_yields hon rm sat d a ht hs, fun ht => ?_⟩
  intro elem
  refine ⟨?_, fun _ => (vunpk_yields hon ht part d a).imp fun i r f h => ?_⟩
  · obtain ⟨out, fs, fl, hyields, hlanes, hflags⟩ := vpack_yields hon (t := t) rm sat d a b
    have helem {e : ℕ} (he : e < 128) : elem e = packElem t rm sat x y e := (packElem_eq t rm sat x y he).symm
    have hlane (i : Fin 64) : (out[i], fs i) = packLane t rm sat x y i := hlanes i (getLsbD_allOnes i)
    have hout (i : Fin 64) : out[i] = (packLane t rm sat x y i).1 := congrArg Prod.fst (hlane i)
    have hfs (i : Fin 64) : fs i = (packLane t rm sat x y i).2 := congrArg Prod.snd (hlane i)
    refine ⟨out, fl, hyields, fun hw i => ?_, fun hw i => ?_, fun j => ?_⟩
    · rw [hout, (packLane_of_width ht rm sat x y i).1 hw, helem (by omega), helem (by omega)]
    · rw [hout, (packLane_of_width ht rm sat x y i).2 hw]
      split
      · rw [helem (by omega), helem (by omega), helem (by omega), helem (by omega)]
      · rfl
    · rw [hflags]
      simp only [getLsbD_allOnes, true_and, hfs]
      rw [packLane_flags ht]
      exact exists_congr fun e => and_congr_right fun he => by rw [helem he]
  · obtain ⟨rfl, rfl⟩ := Prod.mk.inj h
    exact ⟨fun hi => unpack_int ht hi _, fun hfl => unpack_float ht hfl _⟩

end Sys2Proof

/-!
PROOFS. Lane-wise arithmetic and bit operations (R165 to R169): obligations O33, O34 and O35.
-/

namespace Sys2Proof

open Machine

/-! ### Lanes -/

@[simp] theorem Vec.getElem_splat (x : Lane) (i : Fin 64) : (Vec.splat x)[i] = x := by
  simp [Vec.splat]

/-- The lanes of a result that sets no flag. -/
theorem yieldsPlain_of_lanes0 {s : State} {g : Gd} (hon : s.guardOn s.cur g = true) {i : Instr} {lat : ℕ} {d : VReg} {m : Mask}
    {f r : Fin 64 → Lane} (hi : exec i s = .next (if s.guardOn s.cur g then s.lanes0 lat d m f else s.advance s.cur))
    (hf : ∀ i, f i = r i) : s.yieldsPlain i lat d m r := by
  obtain ⟨out, fs, fl, hyields, hlanes, hflags⟩ :=
    yieldsLanes_of_lanes hon (P := fun i x e => x = r i ∧ e = 0) hi fun i _ => ⟨hf i, rfl⟩
  have hbit (b : ℕ) : (0 : FlagBits).getLsbD b = false := BitVec.getLsbD_zero
  have hzero : fl = 0 := by
    refine BitVec.eq_of_getLsbD_eq fun b _ => ?_
    rw [hbit, Bool.eq_false_iff]
    intro hb
    obtain ⟨i, hm, hone⟩ := (hflags b).1 hb
    rw [(hlanes i hm).2, hbit] at hone
    exact Bool.noConfusion hone
  exact ⟨out, hzero ▸ hyields, fun i hm => (hlanes i hm).1⟩

/-! ### Integer lanes (R134, R165) -/

/-- The low w bits of a natural as two's complement. -/
theorem bitsInt_eq_toInt (w n : ℕ) : bitsInt w n = (BitVec.ofNat w n).toInt := by
  rw [bitsInt, BitVec.toInt_eq_msb_cond, BitVec.msb_eq_getLsbD_last, ← BitVec.testBit_toNat, BitVec.toNat_ofNat]
  push_cast
  rfl

/-- A lane read as i32 or n32. -/
theorem intValue_lane {t : Ty} (ht : t = .i32 ∨ t = .n32) (l : Lane) :
    t.intValue l.toNat = if t = .i32 then l.toInt else (l.toNat : ℤ) := by
  rcases ht with rfl | rfl
  · exact (bitsInt_eq_toInt 32 l.toNat).trans (by rw [BitVec.ofNat_toNat, BitVec.setWidth_eq]; rfl)
  · exact congrArg Nat.cast (Nat.mod_eq_of_lt l.isLt)

theorem lane_intBits (v : ℤ) (f : FlagBits) : lane (intBits 32 v, f) = (BitVec.ofInt 32 v, f) :=
  congrArg (·, f) (ofNat_intBits 32 v)

/-- A clamp below, above and within its range. -/
theorem clampInt_spec {lo hi v : ℤ} (h : lo ≤ hi) :
    (v < lo → clampInt lo hi v = (lo, fSAT)) ∧ (hi < v → clampInt lo hi v = (hi, fSAT)) ∧
      (lo ≤ v → v ≤ hi → clampInt lo hi v = (v, 0)) := by
  unfold clampInt
  refine ⟨fun hv => if_pos hv, fun hv => ?_, fun hlo hhi => ?_⟩
  · rw [if_neg (h.trans hv.le).not_gt, if_pos hv]
  · rw [if_neg hlo.not_gt, if_neg hhi.not_gt]

/-- An exact integer as i32 or n32 is one of the lanes that R165 allows. -/
theorem laneOfInt_intResult {t : Ty} (ht : t = .i32 ∨ t = .n32) (sat : Bool) (e : ℤ) :
    laneOfInt (decide (t = .i32)) sat e (lane (t.intResult sat e)).1 (lane (t.intResult sat e)).2 := by
  cases sat with
  | false =>
    have hr : lane (t.intResult false e) = (BitVec.ofInt 32 e, 0) := by
      rcases ht with rfl | rfl <;> exact lane_intBits e 0
    rw [hr]
    exact ⟨fun _ => ⟨rfl, rfl⟩, Bool.noConfusion⟩
  | true =>
    have hr : lane (t.intResult true e) =
        (BitVec.ofInt 32 (clampInt t.intMin t.intMax e).1, (clampInt t.intMin t.intMax e).2) := by
      rcases ht with rfl | rfl <;> exact lane_intBits _ _
    have hle : t.intMin ≤ t.intMax := by rcases ht with rfl | rfl <;> decide
    have hmin : (if decide (t = .i32) = true then -2 ^ 31 else 0 : ℤ) = t.intMin := by rcases ht with rfl | rfl <;> rfl
    have hmax : (if decide (t = .i32) = true then 2 ^ 31 - 1 else 2 ^ 32 - 1 : ℤ) = t.intMax := by
      rcases ht with rfl | rfl <;> rfl
    obtain ⟨hlow, hhigh, hin⟩ := clampInt_spec (v := e) hle
    rw [hr, laneOfInt, hmin, hmax]
    refine ⟨Bool.noConfusion, fun _ => ⟨fun h => ?_, fun h => ?_, fun hlo hhi => ?_⟩⟩
    · rw [hlow h]
      exact ⟨rfl, rfl⟩
    · rw [hhigh h]
      exact ⟨rfl, rfl⟩
    · rw [hin hlo hhi]
      exact ⟨rfl, rfl⟩

/-! ### Lane arithmetic (R165 to R167) -/

/-- The exact integer of an operation of R165. -/
def laneOpInt (op : LaneOp) (x y z : ℤ) : ℤ :=
  match op with
  | .add => x + y
  | .sub => x - y
  | .mul => x * y
  | .fma => x * y + z
  | .fms => x * y - z
  | .min => min x y
  | .max => max x y

theorem laneOp_int {t : Ty} (ht : t ≠ .f32) (op : LaneOp) (rm : Rm) (sat : Bool) (a b d : Lane) :
    laneOp op t rm sat a b d =
      lane (t.intResult sat (laneOpInt op (t.intValue a.toNat) (t.intValue b.toNat) (t.intValue d.toNat))) := by
  unfold laneOp
  rw [if_neg ht]
  cases op <;> rfl

theorem lane_int_of_ne {t : Ty} (ht : t = .i32 ∨ t = .n32 ∨ t = .f32) (hne : t ≠ .f32) : t = .i32 ∨ t = .n32 := by
  rcases ht with h | h | h
  · exact .inl h
  · exact .inr h
  · exact absurd h hne

/-- A lane operation gives the lanes of a float operation on f32, and those of an exact integer on i32 and n32. -/
theorem vop_yields {s : State} {g : Gd} (hon : s.guardOn s.cur g = true) {t : Ty} (ht : t = .i32 ∨ t = .n32 ∨ t = .f32) {i : Instr}
    {lat : ℕ} {op : LaneOp} {rm : Rm} {sat : Bool} {km : KReg} {d a : VReg} {b : Vec} {e : Fin 64 → ℤ}
    {f : Fin 64 → ℕ × FlagBits}
    (hi : exec i s = .next (if s.guardOn s.cur g then s.vop lat op t rm sat km d a b else s.advance s.cur))
    (hfloat : ∀ i : Fin 64, laneOp op .f32 rm sat (s.rdV s.cur a)[i] b[i] (s.rdV s.cur d)[i] = lane (f i))
    (hint : let int (l : Lane) : ℤ := if t = .i32 then l.toInt else l.toNat
      ∀ i : Fin 64, laneOpInt op (int (s.rdV s.cur a)[i]) (int b[i]) (int (s.rdV s.cur d)[i]) = e i) :
    s.yieldsLanes i lat d (s.rdK s.cur km) fun i r fl =>
      (t = .f32 → r = BitVec.ofNat 32 (f i).1 ∧ fl = (f i).2) ∧ (t ≠ .f32 → laneOfInt (decide (t = .i32)) sat (e i) r fl) := by
  refine yieldsLanes_of_lanes hon hi fun i _ => ⟨?_, fun hne => ?_⟩
  · rintro rfl
    rw [hfloat i]
    exact ⟨rfl, rfl⟩
  · have ht' := lane_int_of_ne ht hne
    rw [laneOp_int hne, intValue_lane ht', intValue_lane ht', intValue_lane ht', hint i]
    exact laneOfInt_intResult ht' sat (e i)

/-- A sign operation on f32: a NaN becomes the canonical one (R167). -/
theorem signOp_float (sat neg : Bool) (a : Lane) :
    (∀ h, Ty.f32.value a.toNat = .nan h → signOp .f32 sat neg a = (0x7FC00000, if h then fIV else 0)) ∧
      ((Ty.f32.value a.toNat).isNan = false →
        signOp .f32 sat neg a = (if neg then a ^^^ 0x80000000 else a &&& 0x7FFFFFFF, 0)) := by
  unfold signOp
  rw [if_pos rfl]
  cases Ty.f32.value a.toNat with
  | nan h => exact ⟨fun h' he => by cases he; rfl, fun hn => Bool.noConfusion hn⟩
  | inf | fin => exact ⟨fun h he => FVal.noConfusion he, fun _ => rfl⟩

theorem signOp_int {t : Ty} (ht : t ≠ .f32) (sat neg : Bool) (a : Lane) :
    signOp t sat neg a = lane (t.intResult sat (if neg then -t.intValue a.toNat else |t.intValue a.toNat|)) := by
  have habs (x : ℤ) : (if x < 0 then -x else x) = |x| := by
    split
    · exact (abs_of_neg ‹_›).symm
    · exact (abs_of_nonneg (not_lt.1 ‹_›)).symm
  rw [signOp, if_neg ht]
  simp only [habs]

/-- `vabs` and `vneg`: the bits of a number on f32, and an exact integer on i32. -/
theorem sign_yields {s : State} {g : Gd} (hon : s.guardOn s.cur g = true) {t : Ty} (ht : t = .i32 ∨ t = .n32 ∨ t = .f32)
    {i : Instr} {sat : Bool} (neg : Bool) {km : KReg} {d a : VReg} {e : ℤ → ℤ} {bit : Lane → Lane}
    (hi : exec i s = .next (if s.guardOn s.cur g then s.vop1 8 km d a (signOp t sat neg) else s.advance s.cur))
    (hbit : ∀ l, (if neg then l ^^^ 0x80000000 else l &&& 0x7FFFFFFF) = bit l) (he : ∀ x, (if neg then -x else |x|) = e x) :
    let x := s.rdV s.cur a
    s.yieldsLanes i 8 d (s.rdK s.cur km) fun i r fl =>
      (t = .f32 → (∀ h, Ty.f32.value x[i].toNat = .nan h → r = 0x7FC00000 ∧ fl = if h then fIV else 0) ∧
        ((Ty.f32.value x[i].toNat).isNan = false → r = bit x[i] ∧ fl = 0)) ∧
      (t ≠ .f32 → laneOfInt (decide (t = .i32)) sat (e (if t = .i32 then x[i].toInt else x[i].toNat)) r fl) := by
  refine yieldsLanes_of_lanes hon hi fun i _ => ⟨?_, fun hne => ?_⟩
  · rintro rfl
    obtain ⟨hnan, hnum⟩ := signOp_float sat neg (s.rdV s.cur a)[i]
    refine ⟨fun h hx => ?_, fun hx => ?_⟩
    · rw [hnan h hx]
      exact ⟨rfl, rfl⟩
    · rw [hnum hx, hbit]
      exact ⟨rfl, rfl⟩
  · have ht' := lane_int_of_ne ht hne
    rw [signOp_int hne, he, intValue_lane ht']
    exact laneOfInt_intResult ht' sat _

/-- Settles O33: each instruction is one operation of R165 on its lanes, or one sign operation of R167. -/
theorem laneArithmetic : Obligations.LaneArithmetic := by
  intro s g t rm sat km d a b c hon ht x y z k m int gives signs
  have hk (i : Fin 64) : (Vec.splat ((s.src s.cur c).truncate 32))[i] = k :=
    (Vec.getElem_splat _ i).trans (BitVec.setWidth_eq_extractLsb' (by decide))
  refine ⟨?_, ?_, ?_, ?_, ?_, ?_, ?_, ?_, ?_, fun _ => ⟨?_, ?_⟩⟩
  · exact vop_yields hon ht (op := .add) rfl (fun _ => rfl) fun _ => rfl
  · exact vop_yields hon ht (op := .sub) rfl (fun _ => rfl) fun _ => rfl
  · exact vop_yields hon ht (op := .mul) rfl (fun _ => rfl) fun _ => rfl
  · exact vop_yields hon ht (op := .fma) rfl (fun _ => rfl) fun _ => rfl
  · exact vop_yields hon ht (op := .fms) rfl (fun _ => rfl) fun _ => rfl
  · exact vop_yields hon ht (op := .min) rfl (fun _ => rfl) fun _ => rfl
  · exact vop_yields hon ht (op := .max) rfl (fun _ => rfl) fun _ => rfl
  · exact vop_yields hon ht (op := .fma) rfl (fun i => by rw [hk i]; rfl) fun i => by rw [hk i]; rfl
  · exact vop_yields hon ht (op := .mul) rfl (fun i => by rw [hk i]; rfl) fun i => by rw [hk i]; rfl
  · exact sign_yields hon ht false rfl (fun _ => rfl) fun _ => rfl
  · exact sign_yields hon ht true rfl (fun _ => rfl) fun _ => rfl

/-! ### Bit operations (R168) -/

/-- Settles O34: each bit operation is one function of the lanes, the shifts modulo 32. -/
theorem laneBits : Obligations.LaneBits := by
  intro s g km d a b hon x y m n
  have hn (i : Fin 64) : y[i].toNat % 32 = n i := (extractLow_toNat y[i] 5).symm
  refine ⟨?_, ?_, ?_, ?_, ?_, ?_, fun i => popOp x[i], ?_, fun i => popOp_spec x[i]⟩
  · exact yieldsPlain_of_lanes0 hon rfl fun _ => rfl
  · exact yieldsPlain_of_lanes0 hon rfl fun _ => rfl
  · exact yieldsPlain_of_lanes0 hon rfl fun _ => rfl
  · exact yieldsPlain_of_lanes0 hon rfl fun i => congrArg (x[i] <<< ·) (hn i)
  · exact yieldsPlain_of_lanes0 hon rfl fun i => congrArg (x[i] >>> ·) (hn i)
  · exact yieldsPlain_of_lanes0 hon rfl fun i => congrArg x[i].sshiftRight (hn i)
  · exact yieldsPlain_of_lanes0 hon rfl fun _ => rfl

/-! ### `vdot4` (R169) -/

/-- Byte j of a lane, read as i8 or n8. -/
theorem intValue_byte {t : Ty} (ht : t = .i8 ∨ t = .n8) (l : Lane) (j : ℕ) :
    t.intValue (l.toNat / 256 ^ j) = if t = .i8 then (l.extractLsb' (8 * j) 8).toInt else ((l.extractLsb' (8 * j) 8).toNat : ℤ) := by
  have hbyte : BitVec.ofNat 8 (l.toNat / 256 ^ j) = l.extractLsb' (8 * j) 8 := by
    rw [BitVec.extractLsb', Nat.shiftRight_eq_div_pow, pow_mul, show 2 ^ 8 = 256 from rfl]
  rw [← hbyte]
  rcases ht with rfl | rfl
  · exact bitsInt_eq_toInt 8 _
  · rfl

/-- Settles O35: the accumulator type of the lane is i32 for i8 and n32 for n8. -/
theorem byteDot : Obligations.ByteDot := by
  intro s g t sat km d a b hon ht x z y byte
  refine yieldsLanes_of_lanes hon rfl fun i _ => ?_
  have hy : (s.vsrc s.cur b)[i] = y i := by
    cases b with
    | reg r => rfl
    | imm v => exact Vec.getElem_splat v i
  have hacc : ∃ acc : Ty, (acc = .i32 ∨ acc = .n32) ∧ (if t.signed then Ty.i32 else Ty.n32) = acc ∧ (acc = .i32 ↔ t = .i8) := by
    rcases ht with rfl | rfl
    · exact ⟨.i32, .inl rfl, rfl, by decide⟩
    · exact ⟨.n32, .inr rfl, rfl, by decide⟩
  obtain ⟨acc, hint, hif, hiff⟩ := hacc
  have hspec := fun e => laneOfInt_intResult hint sat e
  simp only [dot4, hif, hy, intValue_byte ht, intValue_lane hint, hiff] at hspec ⊢
  exact hspec _

end Sys2Proof

/-!
PROOFS. Vector comparison, moves of lanes, and masks (R170, R175 to R178): obligation O37.
-/

namespace Sys2Proof

open Machine

/-! ### `vcmp` (R170) -/

/-- One lane of a comparison, added to the mask and the flags of the lanes before it. -/
def cmpStep (m : Mask) (c : Fin 64 → Bool × FlagBits) (r : Mask × FlagBits) (i : Fin 64) : Mask × FlagBits :=
  if m.getLsbD i then (if (c i).1 then r.1 ||| (1#64 <<< i.val) else r.1, r.2 ||| (c i).2) else r

section

variable (m : Mask) (c : Fin 64 → Bool × FlagBits)

theorem cmpStep_mask (r : Mask × FlagBits) (i j : Fin 64) :
    (cmpStep m c r i).1.getLsbD j = true ↔ r.1.getLsbD j = true ∨ j = i ∧ m.getLsbD i = true ∧ (c i).1 = true := by
  have hone : (1#64 <<< i.val).getLsbD j = true ↔ j = i := by
    rw [BitVec.getLsbD_shiftLeft, BitVec.getLsbD_one, Fin.ext_iff]
    simp
    omega
  unfold cmpStep
  cases m.getLsbD i with
  | false => simp
  | true =>
    cases (c i).1 with
    | false => simp
    | true => simp only [if_true, BitVec.getLsbD_or, Bool.or_eq_true, hone, and_true]

theorem cmpStep_flags (r : Mask × FlagBits) (i : Fin 64) (b : ℕ) :
    (cmpStep m c r i).2.getLsbD b = true ↔ r.2.getLsbD b = true ∨ m.getLsbD i = true ∧ (c i).2.getLsbD b = true := by
  unfold cmpStep
  cases m.getLsbD i <;> simp

/-- The mask and the flags of a comparison, after some of the lanes. -/
theorem cmpFold_mask (j : Fin 64) (l : List (Fin 64)) (r : Mask × FlagBits) :
    (l.foldl (cmpStep m c) r).1.getLsbD j = true ↔
      r.1.getLsbD j = true ∨ j ∈ l ∧ m.getLsbD j = true ∧ (c j).1 = true := by
  induction l generalizing r with
  | nil => simp
  | cons i l ih =>
    rw [List.foldl_cons, ih, cmpStep_mask, List.mem_cons, or_assoc, or_and_right]
    have hself : j = i ∧ m.getLsbD i = true ∧ (c i).1 = true ↔ j = i ∧ m.getLsbD j = true ∧ (c j).1 = true :=
      and_congr_right fun h => by rw [h]
    rw [hself]

theorem cmpFold_flags (b : ℕ) (l : List (Fin 64)) (r : Mask × FlagBits) :
    (l.foldl (cmpStep m c) r).2.getLsbD b = true ↔
      r.2.getLsbD b = true ∨ ∃ i ∈ l, m.getLsbD i = true ∧ (c i).2.getLsbD b = true := by
  induction l generalizing r with
  | nil => simp
  | cons i l ih => simp only [List.foldl_cons, ih, cmpStep_flags, or_assoc, List.exists_mem_cons_iff]

end

/-- A condition on integers, as R170 lists them. -/
theorem FCond.int_eq (c : FCond) (p q : ℤ) :
    FCond.int c p q = match c with
      | .eq => decide (p = q) | .ne => decide (p ≠ q) | .lt => decide (p < q) | .le => decide (p ≤ q)
      | .gt => decide (q < p) | .ge => decide (q ≤ p) | .un => false | .ord => true := by
  cases c with
  | ne =>
    rw [FCond.int, Bool.eq_iff_iff]
    simp
  | _ => rfl

theorem laneCmp_int {t : Ty} (ht : t = .i32 ∨ t = .n32) (c : FCond) (a b : Lane) :
    laneCmp t c a b = (FCond.int c (if t = .i32 then a.toInt else a.toNat) (if t = .i32 then b.toInt else b.toNat), 0) := by
  have hne : t ≠ .f32 := by rcases ht with rfl | rfl <;> decide
  rw [laneCmp, if_neg hne, intValue_lane ht, intValue_lane ht]

/-- The meaning of `vcmp` is the fold of `cmpStep` over the lanes. -/
theorem exec_vcmp (s : State) (g : Gd) (t : Ty) (km : BitVec 3) (c : FCond) (k : KReg) (a : VReg) (v : VSrc) :
    let r := (List.finRange 64).foldl
      (cmpStep (s.rdK s.cur km) fun i : Fin 64 => laneCmp t c (s.rdV s.cur a)[i] (s.vsrc s.cur v)[i]) (0, 0)
    exec (.vcmp g t km c k a v) s =
      .next (if s.guardOn s.cur g then (s.land s.cur 8 [.k k r.1] r.2).advance s.cur else s.advance s.cur) := rfl

/-- `vcmp` gives the mask of the lanes that take part and meet the condition. -/
theorem vcmp_yields {s : State} {g : Gd} (hon : s.guardOn s.cur g = true) {t : Ty} {c : FCond} {km : BitVec 3} (k : KReg) {a : VReg}
    {v : VSrc} {cmp : Fin 64 → Bool × FlagBits} (hcmp : ∀ i : Fin 64, laneCmp t c (s.rdV s.cur a)[i] (s.vsrc s.cur v)[i] = cmp i) :
    ∃ (r : Mask) (fl : FlagBits), s.yields (.vcmp g t km c k a v) 8 [.k k r] fl ∧
      (∀ i : Fin 64, r.getLsbD i = ((s.rdK s.cur km).getLsbD i && (cmp i).1)) ∧
      ∀ b : ℕ, fl.getLsbD b = true ↔ ∃ i : Fin 64, (s.rdK s.cur km).getLsbD i = true ∧ (cmp i).2.getLsbD b = true := by
  refine ⟨_, _, State.exec_of_guardOn hon (exec_vcmp s g t km c k a v) rfl, fun i => ?_, fun b => ?_⟩
  · rw [Bool.eq_iff_iff, Bool.and_eq_true, cmpFold_mask, hcmp]
    simp [-BitVec.getLsbD_eq_getElem]
  · rw [cmpFold_flags]
    simp only [hcmp]
    simp [-BitVec.getLsbD_eq_getElem]

/-! ### Ranks of selected lanes (R177) -/

/-- The selected lanes below lane i, counted among all 64. -/
theorem rank_eq_countP (m : Mask) {i : ℕ} (hi : i ≤ 64) :
    rank m i = (List.finRange 64).countP fun (j : Fin 64) => decide (j.val < i) && m.getLsbD j.val := by
  have hsplit : List.range 64 = List.range i ++ (List.range (64 - i)).map (i + ·) := by
    rw [← List.range_add, Nat.add_sub_cancel' hi]
  have hall : (List.finRange 64).countP (fun (j : Fin 64) => decide (j.val < i) && m.getLsbD j.val) =
      (List.range 64).countP fun j => decide (j < i) && m.getLsbD j := by
    rw [← List.map_coe_finRange_eq_range, List.countP_map]
    rfl
  have hhigh : ((List.range (64 - i)).map (i + ·)).countP (fun j => decide (j < i) && m.getLsbD j) = 0 := by
    rw [List.countP_eq_zero]
    simp
  rw [hall, hsplit, List.countP_append, hhigh, add_zero, rank, ← List.countP_eq_length_filter]
  exact List.countP_congr fun j hj => by simp [List.mem_range.1 hj]

/-- In the list of the naturals below n with a property, i stands after those below i. -/
theorem getElem?_filter_range (p : ℕ → Bool) {i n : ℕ} (hi : i < n) (hp : p i = true) :
    ((List.range n).filter p)[((List.range i).filter p).length]? = some i := by
  have hsplit : List.range n = List.range i ++ i :: (List.range (n - i - 1)).map fun k => i + (k + 1) := by
    have hn : n = i + (n - i - 1 + 1) := by omega
    conv_lhs => rw [hn, List.range_add, List.range_succ_eq_map, List.map_cons, List.map_map]
    rfl
  rw [hsplit, List.filter_append, List.getElem?_append_right le_rfl, Nat.sub_self, List.filter_cons_of_pos hp]
  rfl

/-- Lane i of `vcomp`: the lane that was selected as the i-th, or 0. -/
def compLane (x : Vec) (m : Mask) (i : ℕ) : Lane := (((List.range 64).filter fun j => m.getLsbD j)[i]?).elim 0 (Vec.at x)

theorem compLane_rank (x : Vec) {m : Mask} (i : Fin 64) (hm : m.getLsbD i = true) : compLane x m (rank m i) = x[i] := by
  rw [compLane, rank, getElem?_filter_range _ i.isLt hm, Option.elim_some, Vec.at]
  simp only [Nat.mod_eq_of_lt i.isLt]
  rfl

theorem compLane_high (x : Vec) (m : Mask) {i : ℕ} (hi : rank m 64 ≤ i) : compLane x m i = 0 := by
  rw [compLane, List.getElem?_eq_none hi, Option.elim_none]

theorem vcomp_yields {s : State} {g : Gd} (hon : s.guardOn s.cur g = true) (km : BitVec 3) (d a : VReg) :
    s.yieldsPlain (.vcomp g km d a) 8 d (BitVec.allOnes 64) fun i => compLane (s.rdV s.cur a) (s.rdK s.cur km) i := by
  refine yieldsPlain_of_lanes0 hon rfl fun i => ?_
  unfold compLane
  cases ((List.range 64).filter fun j => (s.rdK s.cur km).getLsbD j)[i.val]? <;> rfl

/-- With every lane written, the lanes of a result are the lanes of its vector. -/
theorem Machine.State.yieldsPlain.all {s : State} {i : Instr} {lat : ℕ} {d : VReg} {f : Fin 64 → Lane}
    (h : s.yieldsPlain i lat d (BitVec.allOnes 64) f) :
    ∃ out : Vec, s.yields i lat [.v d out (BitVec.allOnes 64)] 0 ∧ ∀ i : Fin 64, out[i] = f i := by
  obtain ⟨out, hyields, hlanes⟩ := h
  exact ⟨out, hyields, fun i => hlanes i (getLsbD_allOnes i)⟩

/-! ### Masks (R178) -/

theorem maskTable_getLsbD (tt : BitVec 4) (a b : Mask) {i : ℕ} (hi : i < 64) :
    (maskTable tt a b).getLsbD i = tt.getLsbD ((if a.getLsbD i then 2 else 0) + if b.getLsbD i then 1 else 0) := by
  have hrow (c : Bool) (v : Mask) : (if c = true then v else 0).getLsbD i = (c && v.getLsbD i) := by
    cases c
    · exact BitVec.getLsbD_zero
    · rfl
  simp only [maskTable, BitVec.getLsbD_or, hrow, BitVec.getLsbD_and, BitVec.getLsbD_not, decide_eq_true hi, Bool.true_and]
  cases a.getLsbD i <;> cases b.getLsbD i <;> simp

/-- Settles O37: one result each, the packed lanes by their ranks and the masks by their bits. -/
theorem lanesAndMasks : Obligations.LanesAndMasks := by
  intro s g t c xs tt km d a b v e f o k l n hon x y z m all low j rank'
  have hlow : (s.rd s.cur f).truncate 32 = low := BitVec.setWidth_eq_extractLsb' (by decide)
  have hrank {i : ℕ} (hi : i ≤ 64) : rank m i = rank' i := rank_eq_countP m hi
  have hlane (i : Fin 64) : rank m i = rank' i := hrank i.isLt.le
  refine ⟨fun ht => ?_, ?_, ?_, ?_, ?_, ?_, ?_, ?_, ?_, ?_, ?_, ?_, ?_, ?_, ?_, ?_⟩
  · intro cmp
    have hcmp (i : Fin 64) : laneCmp t c x[i] z[i] = cmp i := by
      by_cases h : t = .f32
      · simp only [laneCmp, cmp, if_pos h]
      · rw [laneCmp_int (lane_int_of_ne ht h), FCond.int_eq]
        simp only [cmp, if_neg h] <;> rfl
    exact vcmp_yields hon k hcmp
  · exact yieldsPlain_of_lanes0 hon rfl fun _ => rfl
  · exact yieldsPlain_of_lanes0 hon rfl fun _ => rfl
  · exact yieldsPlain_of_lanes0 hon rfl fun _ => hlow
  · exact ⟨_, fun _ => rfl, State.yields_of_result hon rfl rfl⟩
  · exact yieldsPlain_of_lanes0 hon rfl fun _ => hlow
  · exact yieldsPlain_of_lanes0 hon rfl fun _ => rfl
  · exact yieldsPlain_of_lanes0 hon rfl fun _ => rfl
  · obtain ⟨out, hyields, hout⟩ := (vcomp_yields hon km d a).all
    refine ⟨out, hyields, fun i h hm => ?_, fun i hi => ?_⟩
    · rw [← compLane_rank x i hm, hlane]
      exact hout ⟨_, h⟩
    · rw [← hrank le_rfl] at hi
      exact (hout i).trans (compLane_high x m hi)
  · refine (yieldsPlain_of_lanes0 hon rfl fun i => ?_).all
    exact congrArg (fun r => if m.getLsbD i then Vec.at x r else 0) (hlane i)
  · exact yieldsPlain_of_lanes0 hon rfl fun i => congrArg (BitVec.ofNat 32) (hlane i)
  · exact ⟨_, State.exec_of_guardOn hon rfl rfl, fun i hi => maskTable_getLsbD tt _ _ hi⟩
  · exact State.yields_of_result hon rfl (congrArg w64 (popOp_spec _).2)
  · exact State.exec_of_guardOn hon rfl rfl
  · exact State.yields_of_result hon rfl rfl
  · exact ⟨_, State.yields_of_result hon rfl rfl, ctzOp_spec _⟩

end Sys2Proof

/-!
PROOFS. Reductions across lanes (R171): the lists of the model's levels are the nodes of the tree. Obligation O38.
-/

namespace Sys2Proof

open Machine

/-! ### The tree of R171 -/

/-- Node i of level n: its operands combined, or the one of them that is there. -/
def treeNode {α : Type} (op : α → α → α) (leaf : ℕ → Option α) : ℕ → ℕ → Option α
  | 0, i => leaf i
  | n + 1, i => Option.merge op (treeNode op leaf n (2 * i)) (treeNode op leaf n (2 * i + 1))

/-- The lane of a leaf, where the mask names it. -/
def laneLeaf {α : Type} (x : Vec) (m : Mask) (f : Lane → α) (i : ℕ) : Option α :=
  if h : i < 64 then (if m.getLsbD i then some (f x[i]) else none) else none

section

variable {α : Type} (op : α → α → α)

theorem treeLevel_cons_cons (a b : Option α) (l : List (Option α)) :
    treeLevel op (a :: b :: l) = Option.merge op a b :: treeLevel op l := by
  cases a <;> cases b <;> rfl

/-- One level halves a list of even length. -/
theorem treeLevel_range (n : ℕ) (f : ℕ → Option α) :
    treeLevel op ((List.range (2 * n)).map f) = (List.range n).map fun i => Option.merge op (f (2 * i)) (f (2 * i + 1)) := by
  induction n generalizing f with
  | zero => rfl
  | succ n ih =>
    have htwo : (List.range (2 * (n + 1))).map f = f 0 :: f 1 :: (List.range (2 * n)).map fun i => f (i + 2) := by
      rw [Nat.mul_succ, List.range_succ_eq_map, List.range_succ_eq_map]
      simp [Function.comp_def]
    rw [htwo, treeLevel_cons_cons, ih, List.range_succ_eq_map, List.map_cons, List.map_map]
    rfl

theorem repeat_treeLevel (leaf : ℕ → Option α) (k n : ℕ) :
    Nat.repeat (treeLevel op) k ((List.range (2 ^ k * n)).map leaf) = (List.range n).map (treeNode op leaf k) := by
  induction k generalizing n with
  | zero => rw [pow_zero, one_mul]; rfl
  | succ k ih =>
    rw [pow_succ, mul_assoc, Nat.repeat, ih, treeLevel_range]
    rfl

theorem active_eq (x : Vec) (m : Mask) (f : Lane → α) : active x m f = (List.range 64).map (laneLeaf x m f) := by
  rw [active, ← List.map_coe_finRange_eq_range, List.map_map]
  refine List.map_congr_left fun i _ => ?_
  rw [Function.comp_apply, laneLeaf, dif_pos i.isLt]
  rfl

/-- The model's reduction is the root of the tree. -/
theorem tree_active (x : Vec) (m : Mask) (f : Lane → α) : tree op (active x m f) = treeNode op (laneLeaf x m f) 6 0 := by
  have h := repeat_treeLevel op (laneLeaf x m f) 6 1
  rw [tree, active_eq]
  exact congrArg (·.headD none) h

end

/-! ### Sums and maxima of integers -/

theorem getD_merge_add (a b : Option ℤ) : (Option.merge (· + ·) a b).getD 0 = a.getD 0 + b.getD 0 := by
  cases a <;> cases b <;> simp

/-- A node of the exact sum is the sum of the leaves below it. -/
theorem treeNode_add (leaf : ℕ → Option ℤ) (n i : ℕ) :
    (treeNode (· + ·) leaf n i).getD 0 = ∑ j ∈ Finset.range (2 ^ n), (leaf (2 ^ n * i + j)).getD 0 := by
  induction n generalizing i with
  | zero => simp [treeNode]
  | succ n ih =>
    rw [treeNode, getD_merge_add, ih, ih, pow_succ, mul_two, Finset.sum_range_add]
    congr 1
    · exact Finset.sum_congr rfl fun j _ => by congr 2; ring
    · exact Finset.sum_congr rfl fun j _ => by congr 2; ring

/-- The leaves below a node are those below its two operands. -/
theorem div_two_pow_succ_eq_iff (j n i : ℕ) : j / 2 ^ (n + 1) = i ↔ j / 2 ^ n = 2 * i ∨ j / 2 ^ n = 2 * i + 1 := by
  rw [pow_succ, ← Nat.div_div_eq_div_mul]
  omega

section

variable {leaf : ℕ → Option ℤ} {n i : ℕ}

/-- A node of the maximum is one of the leaves below it. -/
theorem treeNode_max_mem {v : ℤ} (h : treeNode max leaf n i = some v) : ∃ j, j / 2 ^ n = i ∧ leaf j = some v := by
  induction n generalizing i with
  | zero => exact ⟨i, by simp, h⟩
  | succ n ih =>
    have hpart : treeNode max leaf n (2 * i) = some v ∨ treeNode max leaf n (2 * i + 1) = some v := by
      rw [treeNode] at h
      cases hl : treeNode max leaf n (2 * i) <;> cases hr : treeNode max leaf n (2 * i + 1) <;> rw [hl, hr] at h <;>
        simp only [Option.merge, Option.some.injEq, reduceCtorEq] at h ⊢ <;> omega
    rcases hpart with h | h
    · obtain ⟨j, hj, hleaf⟩ := ih h
      exact ⟨j, (div_two_pow_succ_eq_iff j n i).2 (.inl hj), hleaf⟩
    · obtain ⟨j, hj, hleaf⟩ := ih h
      exact ⟨j, (div_two_pow_succ_eq_iff j n i).2 (.inr hj), hleaf⟩

/-- And not below any of them. -/
theorem le_treeNode_max {j : ℕ} {u : ℤ} (hj : j / 2 ^ n = i) (hu : leaf j = some u) :
    ∃ v, treeNode max leaf n i = some v ∧ u ≤ v := by
  induction n generalizing i with
  | zero => exact ⟨u, by rw [← hj, pow_zero, Nat.div_one, treeNode, hu], le_rfl⟩
  | succ n ih =>
    rw [treeNode]
    rcases (div_two_pow_succ_eq_iff j n i).1 hj with hj | hj
    · obtain ⟨v, hv, hle⟩ := ih hj
      rw [hv]
      cases treeNode max leaf n (2 * i + 1) with
      | none => exact ⟨v, rfl, hle⟩
      | some w => exact ⟨max v w, rfl, hle.trans (le_max_left v w)⟩
    · obtain ⟨v, hv, hle⟩ := ih hj
      rw [hv]
      cases treeNode max leaf n (2 * i) with
      | none => exact ⟨v, rfl, hle⟩
      | some w => exact ⟨max w v, rfl, hle.trans (le_max_right w v)⟩

end

theorem laneLeaf_eq_some {α : Type} {x : Vec} {m : Mask} {f : Lane → α} {j : ℕ} {v : α} :
    laneLeaf x m f j = some v ↔ ∃ i : Fin 64, i.val = j ∧ m.getLsbD i = true ∧ f x[i] = v := by
  unfold laneLeaf
  constructor
  · intro h
    split_ifs at h with hj hm
    exact ⟨⟨j, hj⟩, rfl, hm, Option.some.inj h⟩
  · rintro ⟨i, rfl, hm, hv⟩
    rw [dif_pos i.isLt, if_pos hm]
    exact congrArg some hv

/-! ### Results on i32 and n32 -/

/-- The register value of a 32-bit integer pattern (R129). -/
theorem extend_lane {t : Ty} (ht : t = .i32 ∨ t = .n32) (p : ℕ) :
    t.extend p = if t = .i32 then (BitVec.ofNat 32 p).signExtend 64 else (BitVec.ofNat 32 p).zeroExtend 64 := by
  rcases ht with rfl | rfl
  · exact congrArg (BitVec.ofInt 64) (bitsInt_eq_toInt 32 p)
  · apply BitVec.eq_of_toNat_eq
    have hlt : p % 2 ^ 32 < 2 ^ 64 := (Nat.mod_lt p (by decide)).trans (by decide)
    change (BitVec.ofNat 64 (p % 2 ^ 32)).toNat = ((BitVec.ofNat 32 p).setWidth 64).toNat
    rw [BitVec.toNat_ofNat, BitVec.toNat_setWidth, BitVec.toNat_ofNat]

/-- The exact sum of the lanes that take part. -/
theorem sumLanes_int {t : Ty} (ht : t = .i32 ∨ t = .n32) (rm : Rm) (sat : Bool) (x : Vec) (m : Mask) :
    sumLanes t rm sat x m =
      t.intResult sat (∑ i : Fin 64, if m.getLsbD i then (if t = .i32 then x[i].toInt else (x[i].toNat : ℤ)) else 0) := by
  have hne : t ≠ .f32 := by rcases ht with rfl | rfl <;> decide
  rw [sumLanes, if_neg hne, tree_active, treeNode_add, Finset.sum_range]
  congr 1
  refine Finset.sum_congr rfl fun i _ => ?_
  rw [laneLeaf, dif_pos (show 2 ^ 6 * 0 + i.val < 64 by omega)]
  simp only [mul_zero, zero_add, ← intValue_lane ht]
  cases m.getLsbD i <;> rfl

theorem maxLanes_int {t : Ty} (ht : t = .i32 ∨ t = .n32) (x : Vec) (m : Mask) :
    maxLanes t x m = (intBits 32 ((treeNode max (laneLeaf x m fun a => t.intValue a.toNat) 6 0).getD t.intMin), 0) := by
  have hne : t ≠ .f32 := by rcases ht with rfl | rfl <;> decide
  have hmax : (fun l r : ℤ => if l ≤ r then r else l) = max := by
    funext l r
    exact (max_def l r).symm
  rw [maxLanes, if_neg hne, hmax, tree_active]
  cases treeNode max (laneLeaf x m fun a => t.intValue a.toNat) 6 0 <;> rfl

/-- The lane of the largest value: the type's least when no lane takes part, else that of a lane. -/
theorem maxLanes_int_spec {t : Ty} (ht : t = .i32 ∨ t = .n32) (x : Vec) (m : Mask) :
    let int (l : Lane) : ℤ := if t = .i32 then l.toInt else l.toNat
    let r : Lane := BitVec.ofNat 32 (maxLanes t x m).1
    (m = 0 → r = if t = .i32 then 0x80000000 else 0) ∧
      (m ≠ 0 → (∃ i : Fin 64, m.getLsbD i = true ∧ r = x[i]) ∧ ∀ i : Fin 64, m.getLsbD i = true → int x[i] ≤ int r) := by
  intro int r
  have hr : r = BitVec.ofInt 32 ((treeNode max (laneLeaf x m fun a => t.intValue a.toNat) 6 0).getD t.intMin) := by
    rw [← ofNat_intBits]
    exact congrArg (BitVec.ofNat 32 ·.1) (maxLanes_int ht x m)
  have hof (l : Lane) : BitVec.ofInt 32 (int l) = l := by
    rcases ht with rfl | rfl
    · exact BitVec.ofInt_toInt
    · exact (BitVec.ofInt_natCast 32 l.toNat).trans (BitVec.ofNat_toNat 32 l |>.trans (BitVec.setWidth_eq l))
  have hleaf : (fun a : Lane => t.intValue a.toNat) = int := funext (intValue_lane ht)
  rw [hleaf] at hr
  refine ⟨fun hm => ?_, fun hm => ?_⟩
  · have hnone : treeNode max (laneLeaf x m int) 6 0 = none := by
      refine Option.eq_none_iff_forall_ne_some.2 fun v hv => ?_
      obtain ⟨j, -, hj⟩ := treeNode_max_mem hv
      obtain ⟨i, -, hbit, -⟩ := laneLeaf_eq_some.1 hj
      rw [hm] at hbit
      exact Bool.noConfusion (BitVec.getLsbD_zero.symm.trans hbit)
    rw [hr, hnone]
    rcases ht with rfl | rfl <;> rfl
  · have hbelow (i : Fin 64) (hi : m.getLsbD i = true) :=
      le_treeNode_max (n := 6) (i := 0) (Nat.div_eq_of_lt i.isLt) (laneLeaf_eq_some (f := int) (x := x).2 ⟨i, rfl, hi, rfl⟩)
    obtain ⟨i₀, hi₀⟩ : ∃ i : Fin 64, m.getLsbD i = true := by
      by_contra hno
      refine hm (BitVec.eq_of_getLsbD_eq fun i hi => ?_)
      rw [Bool.eq_false_iff.2 fun h => hno ⟨⟨i, hi⟩, h⟩]
      exact BitVec.getLsbD_zero.symm
    obtain ⟨v, hv, -⟩ := hbelow i₀ hi₀
    obtain ⟨j, -, hj⟩ := treeNode_max_mem hv
    obtain ⟨k, -, hk, rfl⟩ := laneLeaf_eq_some.1 hj
    rw [hv, Option.getD_some, hof] at hr
    refine ⟨⟨k, hk, hr⟩, fun i hi => ?_⟩
    obtain ⟨u, hu, hle⟩ := hbelow i hi
    rw [hv, Option.some.injEq] at hu
    rwa [hr, hu]

/-! ### Results on f32 -/

theorem Ty.addV_lt {t : Ty} (ht : t.isFloat = true) (rm : Rm) (x y : FVal) : (t.addV rm x y).1 < 2 ^ t.width := by
  have hround (z : Bool) (d : Dy) : (t.roundDy rm false z d).1 < 2 ^ t.width := by
    rw [Ty.roundDy]
    split
    · exact Ty.signBit_lt ht z
    · exact Ty.round_lt ht rm false _ _ _
  cases x with
  | nan h => exact Ty.canonNan_lt ht
  | inf a =>
    cases y with
    | nan h => exact Ty.canonNan_lt ht
    | inf b =>
      rw [Ty.addV_inf_inf]
      split
      · exact Ty.infBits_lt ht a
      · exact Ty.canonNan_lt ht
    | fin b n r => exact Ty.infBits_lt ht a
  | fin a m q =>
    cases y with
    | nan h => exact Ty.canonNan_lt ht
    | inf b => exact Ty.infBits_lt ht b
    | fin b n r => exact hround _ _

theorem fMinMax_lt {t : Ty} (ht : t.isFloat = true) (mx : Bool) {a b : ℕ} (ha : a < 2 ^ t.width) (hb : b < 2 ^ t.width) :
    (fMinMax t mx a b).1 < 2 ^ t.width := by
  unfold fMinMax
  dsimp only
  split_ifs
  · exact Ty.canonNan_lt ht
  · exact (Ty.canonical_spec ht hb).1
  all_goals exact (Ty.canonical_spec ht (by assumption)).1

/-- The node of the statement is that of a tree on patterns with flags. -/
theorem sumNode_eq (op : ℕ → ℕ → ℕ × FlagBits) (leaf : ℕ → Option ℕ) (n i : ℕ) :
    sumNode op leaf n i =
      treeNode (fun l r : ℕ × FlagBits => ((op l.1 r.1).1, l.2 ||| r.2 ||| (op l.1 r.1).2)) (fun i => (leaf i).map fun v => (v, 0))
        n i := by
  induction n generalizing i with
  | zero => rfl
  | succ n ih =>
    rw [sumNode, treeNode, ← ih, ← ih]
    cases sumNode op leaf n (2 * i) <;> cases sumNode op leaf n (2 * i + 1) <;> rfl

/-- Its pattern is one of 32 bits. -/
theorem sumNode_lt {op : ℕ → ℕ → ℕ × FlagBits} {leaf : ℕ → Option ℕ} {b : ℕ} (hop : ∀ u v, u < b → v < b → (op u v).1 < b)
    (hleaf : ∀ i v, leaf i = some v → v < b) (n i : ℕ) {r : ℕ × FlagBits} (h : sumNode op leaf n i = some r) : r.1 < b := by
  induction n generalizing i r with
  | zero =>
    obtain ⟨v, hv, rfl⟩ := Option.map_eq_some_iff.1 h
    exact hleaf i v hv
  | succ n ih =>
    rw [sumNode] at h
    split at h
    · exact ih _ h
    · exact ih _ h
    · obtain rfl := Option.some.inj h
      exact hop _ _ (ih _ ‹_›) (ih _ ‹_›)

/-- The reductions of f32 patterns under a mask. -/
theorem tree_float (op : ℕ → ℕ → ℕ × FlagBits) (x : Vec) (m : Mask) :
    tree (fun l r : ℕ × FlagBits => ((op l.1 r.1).1, l.2 ||| r.2 ||| (op l.1 r.1).2)) (active x m fun a => (a.toNat, 0)) =
      sumNode op (laneLeaf x m BitVec.toNat) 6 0 := by
  rw [tree_active, sumNode_eq]
  congr 1
  funext i
  unfold laneLeaf
  split_ifs <;> rfl

theorem extend_f32 {p : ℕ} (h : p < 2 ^ 32) : Ty.f32.extend p = BitVec.ofNat 64 p :=
  congrArg (BitVec.ofNat 64) (Nat.mod_eq_of_lt h)

/-- The root of a tree of f32 patterns has 32 bits. -/
theorem sumNode_getD_lt {op : ℕ → ℕ → ℕ × FlagBits} (hop : ∀ u v, u < 2 ^ 32 → v < 2 ^ 32 → (op u v).1 < 2 ^ 32) (x : Vec) (m : Mask)
    {dflt : ℕ × FlagBits} (hdflt : dflt.1 < 2 ^ 32) :
    ((sumNode op (laneLeaf x m BitVec.toNat) 6 0).getD dflt).1 < 2 ^ 32 := by
  cases h : sumNode op (laneLeaf x m BitVec.toNat) 6 0 with
  | none => exact hdflt
  | some r =>
    refine sumNode_lt hop (fun i v hv => ?_) 6 0 h
    obtain ⟨k, -, -, rfl⟩ := laneLeaf_eq_some.1 hv
    exact BitVec.isLt _

theorem sumLanes_f32 (rm : Rm) (sat : Bool) (x : Vec) (m : Mask) :
    sumLanes .f32 rm sat x m = (sumNode (fAdd .f32 rm) (laneLeaf x m BitVec.toNat) 6 0).getD (0, 0) := by
  rw [sumLanes, if_pos rfl]
  exact congrArg (·.getD (0, 0)) (tree_float (fAdd .f32 rm) x m)

theorem maxLanes_f32 (x : Vec) (m : Mask) :
    maxLanes .f32 x m = (sumNode (fMinMax .f32 true) (laneLeaf x m BitVec.toNat) 6 0).getD (0x7FC00000, 0) := by
  rw [maxLanes, if_pos rfl]
  exact congrArg (·.getD (0x7FC00000, 0)) (tree_float (fMinMax .f32 true) x m)

theorem sumLanes_f32_lt (rm : Rm) (sat : Bool) (x : Vec) (m : Mask) : (sumLanes .f32 rm sat x m).1 < 2 ^ 32 := by
  rw [sumLanes_f32]
  exact sumNode_getD_lt (fun _ _ _ _ => Ty.addV_lt (t := .f32) rfl rm _ _) x m (by decide)

theorem maxLanes_f32_lt (x : Vec) (m : Mask) : (maxLanes .f32 x m).1 < 2 ^ 32 := by
  rw [maxLanes_f32]
  exact sumNode_getD_lt (fun _ _ hu hv => fMinMax_lt (t := .f32) rfl true hu hv) x m (by decide)

/-! ### The instructions -/

theorem exec_vsum (s : State) (g : Gd) (t : Ty) (rm : Rm) (sat : Bool) (km : BitVec 3) (d : SReg) (a : VReg) :
    let p := sumLanes t rm sat (s.rdV s.cur a) (s.rdK s.cur km)
    exec (.vsum g t rm sat km d a) s =
      .next (if s.guardOn s.cur g then (s.land s.cur 16 [.s d (t.extend p.1)] p.2).advance s.cur else s.advance s.cur) := rfl

theorem exec_vmaxr (s : State) (g : Gd) (t : Ty) (km : BitVec 3) (d : SReg) (a : VReg) :
    let p := maxLanes t (s.rdV s.cur a) (s.rdK s.cur km)
    exec (.vmaxr g t km d a) s =
      .next (if s.guardOn s.cur g then (s.land s.cur 16 [.s d (t.extend p.1)] p.2).advance s.cur else s.advance s.cur) := rfl

section

variable {s : State} {g : Gd} (hon : s.guardOn s.cur g = true) (rm : Rm) (sat : Bool) (km : BitVec 3) (d : SReg) (a : VReg)

include hon

theorem vsum_yields_f32 :
    let p := (sumNode (fAdd .f32 rm) (laneLeaf (s.rdV s.cur a) (s.rdK s.cur km) BitVec.toNat) 6 0).getD (0, 0)
    s.yields (.vsum g .f32 rm sat km d a) 16 [.s d (BitVec.ofNat 64 p.1)] p.2 := by
  rw [← sumLanes_f32 rm sat]
  intro p
  rw [← extend_f32 (sumLanes_f32_lt rm sat _ _), State.yields, exec_vsum, if_pos hon]

theorem vmaxr_yields_f32 :
    let p := (sumNode (fMinMax .f32 true) (laneLeaf (s.rdV s.cur a) (s.rdK s.cur km) BitVec.toNat) 6 0).getD (0x7FC00000, 0)
    s.yields (.vmaxr g .f32 km d a) 16 [.s d (BitVec.ofNat 64 p.1)] p.2 := by
  rw [← maxLanes_f32]
  intro p
  rw [← extend_f32 (maxLanes_f32_lt _ _), State.yields, exec_vmaxr, if_pos hon]

variable {t : Ty} (ht : t = .i32 ∨ t = .n32)

include ht

theorem vsum_yields_int :
    let p := sumLanes t rm sat (s.rdV s.cur a) (s.rdK s.cur km)
    let r : Lane := BitVec.ofNat 32 p.1
    s.yields (.vsum g t rm sat km d a) 16 [.s d (if t = .i32 then r.signExtend 64 else r.zeroExtend 64)] p.2 := by
  intro p r
  rw [← extend_lane ht, State.yields, exec_vsum, if_pos hon]

theorem vmaxr_yields_int :
    let r : Lane := BitVec.ofNat 32 (maxLanes t (s.rdV s.cur a) (s.rdK s.cur km)).1
    s.yields (.vmaxr g t km d a) 16 [.s d (if t = .i32 then r.signExtend 64 else r.zeroExtend 64)] 0 := by
  intro r
  rw [← extend_lane ht, State.yields, exec_vmaxr, if_pos hon, congrArg Prod.snd (maxLanes_int ht _ _)]

end

/-- Settles O38: the model's levels are the tree, whose integer nodes are exact. -/
theorem laneReductions : Obligations.LaneReductions := by
  intro s g rm sat km d a hon x m leaf sum top
  refine ⟨vsum_yields_f32 hon rm sat km d a, vmaxr_yields_f32 hon km d a, ?_⟩
  intro t ht int ext
  refine ⟨⟨_, _, vsum_yields_int hon rm sat km d a ht, ?_⟩, _, vmaxr_yields_int hon km d a ht, maxLanes_int_spec ht x m⟩
  rw [sumLanes_int ht]
  exact laneOfInt_intResult ht sat _

end Sys2Proof

/-!
PROOFS. The functions of the transcendental units on one lane (R172): the special values, the exact cases of 2^a and log₂ a, and
1/a and 1/√a as roundings of the exact quotient and root. Part of obligation O39.
-/

namespace Sys2Proof

open Machine

/-! ### Patterns of f32 -/

theorem toNat_lane {p : ℕ} (h : p < 2 ^ 32) : (BitVec.ofNat 32 p : Lane).toNat = p := by
  rw [BitVec.toNat_ofNat, Nat.mod_eq_of_lt h]

/-- +∞ has one pattern. -/
theorem eq_of_value_inf {p : ℕ} (hp : p < 2 ^ 32) (h : Ty.f32.value p = .inf false) : p = 0x7F800000 := by
  have hprec : Ty.f32.prec - 1 = 23 := rfl
  have hexp : Ty.f32.expBits = 8 := rfl
  have hwidth : Ty.f32.width - 1 = 31 := rfl
  simp only [Ty.value, hprec, hexp, hwidth, reduceCtorEq, if_false] at h
  split_ifs at h with he hf h0
  have hsign : p.testBit 31 = false := FVal.inf.inj h
  rw [testBit_top hp, decide_eq_false_iff_not] at hsign
  omega

/-- A finite f32 has a significand of 24 bits, and is less than 2^128. -/
theorem f32_has {p m : ℕ} {q : ℤ} {neg : Bool} (h : Ty.f32.value p = .fin neg m q) :
    m < 2 ^ 24 ∧ -149 ≤ q ∧ scaled m q < 2 ^ (128 : ℤ) := by
  obtain ⟨hlt, hge, hle⟩ := Ty.has_of_value (t := .f32) rfl h
  refine ⟨hlt, hge, hle.trans_lt ?_⟩
  exact (scaled_lt_scaled_iff.2 (show 2 ^ 24 - 1 < 2 ^ 24 by decide)).trans_eq (scaled_two_pow 24 104)

/-- The powers of 2 of f32, subnormals included, are rounded to themselves. -/
theorem round_two_pow {n : ℤ} (hlo : -149 ≤ n) (hhi : n ≤ 127) :
    let x := Ty.f32.round .rne false false 1 n false
    (Ty.f32.value x.1).Is ((2 : ℝ) ^ n) ∧ x.2 = 0 ∧ x.1 < 2 ^ 32 := by
  have hmost : scaled 1 n ≤ scaled (2 ^ 24 - 1) 104 := by
    calc scaled 1 n ≤ scaled 1 127 := scaled_le_of_le 1 hhi
      _ = scaled (2 ^ 23) 104 := by rw [scaled_two_pow, scaled, Nat.cast_one, one_mul]; norm_num
      _ ≤ scaled (2 ^ 24 - 1) 104 := scaled_le_scaled_iff.2 (by decide)
  obtain ⟨his, -, -, hflags, hlt⟩ := Ty.round_exact (t := .f32) rfl .rne false false (m := 1) (q := n) ⟨by decide, hlo, hmost⟩
  rw [withSign_false, scaled, Nat.cast_one, one_mul] at his
  exact ⟨his, hflags, hlt⟩

/-- An integer of at most 24 bits is rounded to itself. -/
theorem roundDy_int {n : ℤ} (hn : n.natAbs < 2 ^ 24) :
    let x := Ty.f32.roundDy .rne false false ⟨n, 0⟩
    (Ty.f32.value x.1).Is (n : ℝ) ∧ x.2 = 0 ∧ x.1 < 2 ^ 32 := by
  have hhas : Ty.f32.Has n.natAbs 0 := Ty.has_of_exponent rfl hn (by decide) (.inl (by decide))
  obtain ⟨his, -, -, hflags, hlt⟩ := Ty.round_exact (t := .f32) rfl .rne false (decide (n < 0)) hhas
  rw [← (FVal.is_fin _ _ _ _).1 (FVal.ofInt_is n)] at his
  by_cases h0 : n = 0
  · subst h0
    exact ⟨his, rfl, by decide⟩
  · rw [Ty.roundDy, if_neg h0]
    exact ⟨his, hflags, hlt⟩

/-- A magnitude of at least 2^128 overflows to +∞ (R136). -/
theorem StandsFor.round_overflow {m : ℕ} {q : ℤ} {sticky : Bool} {v : ℝ} (h : StandsFor m q sticky v)
    (hsticky : sticky = true → 2 ^ 25 ≤ m) (hv : (2 : ℝ) ^ (128 : ℤ) ≤ v) :
    Ty.f32.round .rne false false m q sticky = (0x7F800000, fOF ||| fNX) := by
  obtain ⟨hlt, u, hround, hover, -⟩ := h.rounds (t := .f32) rfl .rne false ((two_zpow_pos 128).trans_le hv) hsticky false
  generalize Ty.f32.round .rne false false m q sticky = r at hlt hover
  obtain ⟨-, hnear, -⟩ := hround
  have hgrid := hnear (2 ^ (128 : ℤ)) ⟨1, 128, by decide, by simp⟩
  have hu : (2 : ℝ) ^ (128 : ℤ) ≤ u := by
    rw [withSign_false] at hgrid
    rw [abs_of_nonpos (sub_nonpos.2 hv)] at hgrid
    linarith [neg_abs_le (u - v)]
  have hmost : scaled (2 ^ 24 - 1) 104 < |u| := by
    refine lt_of_lt_of_le ?_ (hu.trans (le_abs_self u))
    exact (scaled_lt_scaled_iff.2 (show 2 ^ 24 - 1 < 2 ^ 24 by decide)).trans_eq (scaled_two_pow 24 104)
  obtain ⟨hflags, hinf, -⟩ := hover hmost
  obtain ⟨neg, hval, hneg⟩ := hinf rfl trivial
  have hpos : neg = false := by
    rw [Bool.eq_false_iff, Ne, hneg, withSign_false, not_lt]
    exact (two_zpow_pos 128).le.trans hv
  rw [hpos] at hval
  exact Prod.ext (eq_of_value_inf hlt hval) hflags

/-! ### `vexp2` -/

section

variable {a : ℕ}

theorem fExp2_nan {h : Bool} (hx : Ty.f32.value a = .nan h) : fExp2 a = (0x7FC00000, if h then fIV else 0) := by
  rw [fExp2, hx]
  rfl

theorem fExp2_inf {neg : Bool} (hx : Ty.f32.value a = .inf neg) : fExp2 a = (if neg then 0 else 0x7F800000, 0) := by
  rw [fExp2, hx]
  cases neg <;> rfl

theorem fExp2_zero (hx : (Ty.f32.value a).Is 0) : fExp2 a = (0x3F800000, 0) := by
  obtain ⟨neg, m, q, hx, hm⟩ := hx.exists_fin
  obtain rfl : m = 0 := by simpa using hm.symm
  simp only [fExp2, hx, if_true]

/-- From 256 up the result overflows, and from −256 down it vanishes. -/
theorem fExp2_large {m : ℕ} {q : ℤ} (hx : Ty.f32.value a = .fin false m q) (hm : 256 ≤ scaled m q) :
    fExp2 a = (0x7F800000, fOF ||| fNX) := by
  have h0 : m ≠ 0 := by
    rintro rfl
    norm_num at hm
  have hle : scaledLe 256 0 m q = true := by
    rw [scaledLe_iff, scaled_exponent_zero]
    exact_mod_cast hm
  simp only [fExp2, hx, if_neg h0, hle, if_true]
  rfl

/-- The integer that a finite value below 256 holds, with its sign. -/
def signedNat (neg : Bool) (m : ℕ) : ℤ := if neg then -(m : ℤ) else m

/-- A value that is an integer in its exponent. -/
theorem fExp2_exponent {neg : Bool} {m : ℕ} {q : ℤ} (hx : Ty.f32.value a = .fin neg m q) (h0 : m ≠ 0) (hm : scaled m q < 256)
    (hq : 0 ≤ q) : fExp2 a = Ty.f32.round .rne false false 1 (signedNat neg m * 2 ^ q.toNat) false := by
  have hle : scaledLe 256 0 m q = false := by
    rw [← Bool.not_eq_true, scaledLe_iff, scaled_exponent_zero, not_le]
    exact_mod_cast hm
  simp only [fExp2, hx, if_neg h0, hle, ge_iff_le, hq, if_true]
  rfl

/-- The bounds of 2^a between which a value with a fraction is bracketed. -/
def exp2Bracket (n : ℤ) (k p : ℕ) : Bool × ℕ × ℕ × ℤ :=
  let b := exp2Bounds p ((n % 2 ^ k).toNat * 2 ^ p / 2 ^ k)
  (false, b.1, b.2, n / 2 ^ k - p)

theorem fExp2_fraction {neg : Bool} {m k : ℕ} (hx : Ty.f32.value a = .fin neg m (-(k : ℤ))) (h0 : m ≠ 0)
    (hm : scaled m (-(k : ℤ)) < 256) (hk : k ≠ 0) :
    fExp2 a =
      if signedNat neg m % 2 ^ k = 0 then Ty.f32.round .rne false false 1 (signedNat neg m / 2 ^ k) false
      else bracketRound (exp2Bracket (signedNat neg m) k) [192, 384, 768] := by
  have hle : scaledLe 256 0 m (-(k : ℤ)) = false := by
    rw [← Bool.not_eq_true, scaledLe_iff, scaled_exponent_zero, not_le]
    exact_mod_cast hm
  have hq : ¬(0 : ℤ) ≤ -k := by omega
  have hfrac : (signedNat neg m % 2 ^ k).toNat = 0 ↔ signedNat neg m % 2 ^ k = 0 := by
    have := Int.emod_nonneg (signedNat neg m) (show (2 : ℤ) ^ k ≠ 0 by positivity)
    omega
  have hn : (if neg = true then -(m : ℤ) else m) = signedNat neg m := rfl
  have hbracket : (fun p => match exp2Bounds p ((signedNat neg m % 2 ^ k).toNat * 2 ^ p / 2 ^ k) with
      | (lo, hi) => (false, lo, hi, signedNat neg m / 2 ^ k - (p : ℤ))) = exp2Bracket (signedNat neg m) k := rfl
  simp only [fExp2, hx, if_neg h0, hle, Bool.false_eq_true, ge_iff_le, hq, if_false, neg_neg, Int.toNat_natCast, hn, hfrac]
  rw [hbracket]

end

theorem signedNat_cast (neg : Bool) (m : ℕ) : (signedNat neg m : ℝ) = withSign neg m := by
  cases neg <;> simp [signedNat]

/-- 2^a of an integer a is the power of 2 whose exponent is a. -/
theorem fExp2_int {a : ℕ} {n : ℤ} (hx : (Ty.f32.value a).Is n) (hlo : -149 ≤ n) (hhi : n ≤ 127) :
    fExp2 a = Ty.f32.round .rne false false 1 n false := by
  by_cases hn : n = 0
  · subst hn
    rw [Int.cast_zero] at hx
    rw [fExp2_zero hx]
    decide
  obtain ⟨neg, m, q, hx, hv⟩ := hx.exists_fin
  have h0 : m ≠ 0 := by
    rintro rfl
    exact hn (by simpa using hv)
  have hsmall : scaled m q < 256 := by
    have habs : |(n : ℝ)| = scaled m q := by rw [hv, abs_withSign_scaled]
    rw [← habs, abs_lt]
    constructor
    · exact_mod_cast show (-256 : ℤ) < n by omega
    · exact_mod_cast show n < (256 : ℤ) by omega
  rcases le_or_gt 0 q with hq | hq
  · rw [fExp2_exponent hx h0 hsmall hq]
    congr 1
    have hreal : ((signedNat neg m * 2 ^ q.toNat : ℤ) : ℝ) = n := by
      rw [hv, Int.cast_mul, signedNat_cast]
      have hpow : ((2 ^ q.toNat : ℤ) : ℝ) = 2 ^ q := by
        rw [Int.cast_pow, Int.cast_ofNat, ← zpow_natCast, Int.toNat_of_nonneg hq]
      rw [hpow, scaled]
      cases neg <;> simp
    exact_mod_cast hreal
  · obtain ⟨k, rfl⟩ : ∃ k : ℕ, q = -(k : ℤ) := ⟨q.natAbs, by omega⟩
    have hwhole : signedNat neg m = n * 2 ^ k := by
      have hreal : (signedNat neg m : ℝ) = n * 2 ^ k := by
        rw [hv, signedNat_cast, scaled, zpow_neg, zpow_natCast]
        cases neg <;> simp
      exact_mod_cast hreal
    rw [fExp2_fraction hx h0 hsmall (by omega), hwhole, if_pos (Int.mul_emod_left n (2 ^ k)),
      Int.mul_ediv_cancel n (by positivity)]

/-! #### Overflow -/

theorem le_expSum (p y n k term acc : ℕ) : acc ≤ expSum p y n k term acc := by
  induction n generalizing k term acc with
  | zero => exact le_rfl
  | succ n ih => exact (Nat.le_add_right acc term).trans (ih _ _ _)

/-- Of the bounds of 2^f, f at least 0, the lower one is at least 1. -/
theorem le_exp2Bounds (p f : ℕ) : 2 ^ p ≤ (exp2Bounds p f).1 := by
  have hterms : 64 + p / 4 = 63 + p / 4 + 1 := by omega
  rw [exp2Bounds]
  simp only [hterms, expSum, zero_add]
  exact le_expSum _ _ _ _ _ _

/-- A number strictly between two neighbours of a grid. -/
theorem standsFor_middle (m : ℕ) (q : ℤ) : StandsFor m q true (scaled (2 * m + 1) (q - 1)) := by
  have hgrid (n : ℕ) : scaled n q = scaled (n * 2 ^ 1) (q - 1) := by
    rw [scaled_mul_two_pow, Nat.cast_one, sub_add_cancel]
  refine ⟨Bool.noConfusion, fun _ => ?_⟩
  rw [hgrid m, hgrid (m + 1), scaled_lt_scaled_iff, scaled_lt_scaled_iff]
  omega

/-- A bracket whose lower bound rounds to one result at every precision gives that result. -/
theorem bracketRound_eq {f : ℕ → Bool × ℕ × ℕ × ℤ} {r : ℕ × FlagBits} {ps : List ℕ} (hne : ps ≠ [])
    (h : ∀ p ∈ ps, Ty.f32.round .rne false (f p).1 (f p).2.1 (f p).2.2.2 true = r) : bracketRound f ps = r := by
  induction ps with
  | nil => exact absurd rfl hne
  | cons p ps ih =>
    rw [bracketRound]
    dsimp only
    rw [h p List.mem_cons_self]
    split
    · rfl
    · rename_i hlast
      exact ih (fun hnil => hlast (by simp [hnil])) fun p' hp' => h p' (List.mem_cons_of_mem _ hp')

/-- With an integer part of 128 or more, every lower bound overflows. -/
theorem exp2Bracket_overflow {n : ℤ} {k p : ℕ} (hp : 25 ≤ p) (hn : 128 ≤ n / 2 ^ k) :
    Ty.f32.round .rne false (exp2Bracket n k p).1 (exp2Bracket n k p).2.1 (exp2Bracket n k p).2.2.2 true =
      (0x7F800000, fOF ||| fNX) := by
  have hlow : 2 ^ p ≤ (exp2Bracket n k p).2.1 := le_exp2Bounds p _
  have hstands := standsFor_middle (exp2Bracket n k p).2.1 (n / 2 ^ k - p)
  refine hstands.round_overflow (fun _ => (Nat.pow_le_pow_right two_pos hp).trans hlow) ?_
  calc (2 : ℝ) ^ (128 : ℤ) ≤ 2 ^ (n / 2 ^ k) := zpow_le_zpow_right₀ one_le_two hn
    _ = scaled (2 ^ p) (n / 2 ^ k - p) := by rw [scaled_two_pow, sub_add_cancel]
    _ ≤ scaled (exp2Bracket n k p).2.1 (n / 2 ^ k - p) := scaled_le_scaled_iff.2 hlow
    _ ≤ _ := hstands.le

/-- From 128 up the result overflows. -/
theorem fExp2_overflow {a : ℕ} {v : ℝ} (hx : (Ty.f32.value a).Is v) (hv : 128 ≤ v) : fExp2 a = (0x7F800000, fOF ||| fNX) := by
  obtain ⟨neg, m, q, hval, rfl⟩ := hx.exists_fin
  cases neg with
  | true =>
    rw [withSign_true] at hv
    linarith [scaled_nonneg m q]
  | false =>
    rw [withSign_false] at hv
    rcases le_or_gt 256 (scaled m q) with hbig | hsmall
    · exact fExp2_large hval hbig
    have h0 : m ≠ 0 := by
      rintro rfl
      norm_num at hv
    have hsingle {n : ℤ} (hn : 128 ≤ n) : Ty.f32.round .rne false false 1 n false = (0x7F800000, fOF ||| fNX) := by
      refine (standsFor_scaled 1 n).round_overflow Bool.noConfusion ?_
      rw [scaled, Nat.cast_one, one_mul]
      exact zpow_le_zpow_right₀ one_le_two hn
    rcases le_or_gt 0 q with hq | hq
    · rw [fExp2_exponent hval h0 hsmall hq]
      refine hsingle ?_
      rw [scaled, ← Int.toNat_of_nonneg hq, zpow_natCast] at hv
      change (128 : ℤ) ≤ m * 2 ^ q.toNat
      exact_mod_cast hv
    · obtain ⟨k, rfl⟩ : ∃ k : ℕ, q = -(k : ℤ) := ⟨q.natAbs, by omega⟩
      have hint : 128 ≤ signedNat false m / 2 ^ k := by
        rw [Int.le_ediv_iff_mul_le (by positivity)]
        rw [scaled, zpow_neg, zpow_natCast, ← div_eq_mul_inv, le_div_iff₀ (by positivity)] at hv
        change (128 : ℤ) * 2 ^ k ≤ m
        exact_mod_cast hv
      rw [fExp2_fraction hval h0 hsmall (by omega)]
      split
      · exact hsingle hint
      · refine bracketRound_eq (List.cons_ne_nil _ _) fun p hp => exp2Bracket_overflow ?_ hint
        simp only [List.mem_cons, List.not_mem_nil, or_false] at hp
        omega

/-! ### `vlog2` -/

section

variable {a : ℕ}

theorem fLog2_nan {h : Bool} (hx : Ty.f32.value a = .nan h) : fLog2 a = (0x7FC00000, if h then fIV else 0) := by
  rw [fLog2, hx]
  rfl

theorem fLog2_inf {neg : Bool} (hx : Ty.f32.value a = .inf neg) :
    fLog2 a = if neg then (0x7FC00000, fIV) else (0x7F800000, 0) := by
  rw [fLog2, hx]
  cases neg <;> rfl

theorem fLog2_zero (hx : (Ty.f32.value a).Is 0) : fLog2 a = (0xFF800000, fDZ) := by
  obtain ⟨neg, m, q, hx, hm⟩ := hx.exists_fin
  obtain rfl : m = 0 := by simpa using hm.symm
  simp only [fLog2, hx, if_true]
  rfl

/-- A negative finite value has its sign bit set and is not zero. -/
theorem FVal.Is.of_neg {x : FVal} {v : ℝ} (hx : x.Is v) (hv : v < 0) : ∃ m q, x = .fin true m q ∧ m ≠ 0 := by
  obtain ⟨neg, m, q, rfl, rfl⟩ := hx.exists_fin
  cases neg with
  | false => exact absurd hv (scaled_nonneg m q).not_gt
  | true =>
    refine ⟨m, q, rfl, ?_⟩
    rintro rfl
    simp at hv

/-- A positive one has neither. -/
theorem FVal.Is.of_pos {x : FVal} {v : ℝ} (hx : x.Is v) (hv : 0 < v) : ∃ m q, x = .fin false m q ∧ m ≠ 0 ∧ v = scaled m q := by
  obtain ⟨neg, m, q, rfl, rfl⟩ := hx.exists_fin
  cases neg with
  | true => exact absurd hv (neg_nonpos.2 (scaled_nonneg m q)).not_gt
  | false => exact ⟨m, q, rfl, (scaled_pos_iff.1 hv).ne', rfl⟩

theorem fLog2_negative {v : ℝ} (hx : (Ty.f32.value a).Is v) (hv : v < 0) : fLog2 a = (0x7FC00000, fIV) := by
  obtain ⟨m, q, hx, hm⟩ := hx.of_neg hv
  simp only [fLog2, hx, if_neg hm, if_true]
  rfl

/-- A power of 2 among the naturals times powers of 2. -/
theorem eq_two_pow_of_scaled {m : ℕ} {q n : ℤ} (h : (2 : ℝ) ^ n = scaled m q) : m = 2 ^ m.log2 ∧ q + m.log2 = n := by
  have hm : (m : ℝ) = 2 ^ (n - q) := by
    rw [zpow_sub₀ two_ne_zero, h, scaled, mul_div_cancel_right₀ _ (two_zpow_pos q).ne']
  have hnonneg : 0 ≤ n - q := by
    have hone : (1 : ℝ) ≤ m := by
      have : 0 < m := scaled_pos_iff.1 (h ▸ two_zpow_pos n)
      exact_mod_cast this
    rw [hm] at hone
    by_contra hlt
    exact absurd hone (not_le.2 (zpow_lt_one_of_neg₀ one_lt_two (not_le.1 hlt)))
  obtain ⟨k, hk⟩ := Int.eq_ofNat_of_zero_le hnonneg
  have hpow : m = 2 ^ k := by
    rw [hk, zpow_natCast] at hm
    exact_mod_cast hm
  rw [hpow, Nat.log2_two_pow]
  exact ⟨rfl, by omega⟩

/-- log₂ of a power of 2 is its exponent. -/
theorem fLog2_two_pow {n : ℤ} (hx : (Ty.f32.value a).Is ((2 : ℝ) ^ n)) :
    fLog2 a = Ty.f32.roundDy .rne false false ⟨n, 0⟩ ∧ n.natAbs < 2 ^ 24 := by
  obtain ⟨m, q, hx, h0, hv⟩ := hx.of_pos (two_zpow_pos n)
  obtain ⟨hm, hn⟩ := eq_two_pow_of_scaled hv
  obtain ⟨-, hge, hlt⟩ := f32_has hx
  have hhigh : n < 128 := by rwa [← hv, zpow_lt_zpow_iff_right₀ one_lt_two] at hlt
  refine ⟨?_, by omega⟩
  simp only [fLog2, hx, if_neg h0, Bool.false_eq_true, if_false, if_pos hm, hn]

end

/-! ### `vrcp` -/

theorem f32_one : (Ty.f32.value 0x3F800000).Is 1 := by
  have hone : Ty.f32.value 0x3F800000 = .fin false (2 ^ 23) (-23) := by decide
  rw [hone, FVal.is_fin, withSign_false, scaled_two_pow]
  norm_num

theorem f32_one_sign : (Ty.f32.value 0x3F800000).neg = false ∧ (Ty.f32.value 0x3F800000).sigFlag = 0 := by decide

section

variable {a : ℕ}

theorem fRcp_nan {h : Bool} (hx : Ty.f32.value a = .nan h) : fRcp a = (0x7FC00000, if h then fIV else 0) := by
  rw [fRcp, fDiv_nan .f32 .rne (.inr (by rw [hx]; rfl)), f32_one_sign.2, hx]
  cases h <;> rfl

theorem fRcp_inf {n : Bool} (hx : Ty.f32.value a = .inf n) : fRcp a = (Ty.f32.signBit n, 0) := by
  rw [fRcp, fDiv_inf_right .f32 .rne f32_one hx, f32_one_sign.1, hx, FVal.neg, Bool.false_bne]

theorem fRcp_zero (hx : (Ty.f32.value a).Is 0) : fRcp a = (Ty.f32.infBits (Ty.f32.value a).neg, fDZ) := by
  rw [fRcp, fDiv_by_zero .f32 .rne f32_one hx rfl, if_neg one_ne_zero, f32_one_sign.1, Bool.false_bne]

theorem fRcp_rounds {v : ℝ} (hx : (Ty.f32.value a).Is v) (hv : v ≠ 0) :
    Ty.f32.Rounds .rne false (1 / v) (fRcp a).1 (fRcp a).2 :=
  fDiv_rounds (t := .f32) rfl .rne f32_one hx one_ne_zero hv

end

/-! ### `vrsq` -/

/-- The natural root of a quotient, with the test for an exact one, stands for the real root of the quotient. -/
theorem sqrt_div_standsFor (n : ℕ) {m : ℕ} (hm : m ≠ 0) :
    StandsFor (isqrt (n / m)) 0 (isqrt (n / m) * isqrt (n / m) * m != n) (Real.sqrt (n / m)) := by
  have hpos : (0 : ℝ) < m := by exact_mod_cast Nat.pos_of_ne_zero hm
  rw [isqrt_eq_sqrt]
  have hle : (n / m).sqrt * (n / m).sqrt * m ≤ n := (Nat.le_div_iff_mul_le (Nat.pos_of_ne_zero hm)).1 (n / m).sqrt_le
  have hlt : n < ((n / m).sqrt + 1) * ((n / m).sqrt + 1) * m :=
    (Nat.div_lt_iff_lt_mul (Nat.pos_of_ne_zero hm)).1 (n / m).lt_succ_sqrt
  generalize (n / m).sqrt = r at hle hlt
  refine ⟨fun hs => ?_, fun hs => ?_⟩ <;> simp only [scaled_exponent_zero]
  · rw [bne_eq_false_iff_eq] at hs
    have hquot : (n : ℝ) / m = r * r := by
      rw [div_eq_iff hpos.ne', ← hs]
      push_cast
      rfl
    rw [hquot, Real.sqrt_mul_self (Nat.cast_nonneg r)]
  · have hstrict : r * r * m < n := lt_of_le_of_ne hle (bne_iff_ne.1 hs)
    rw [Real.lt_sqrt (Nat.cast_nonneg _), Real.sqrt_lt' (by positivity), lt_div_iff₀ hpos, div_lt_iff₀ hpos, sq, sq]
    exact ⟨by exact_mod_cast hstrict, by exact_mod_cast hlt⟩

/-- An even exponent leaves the root of a quotient by the significand. -/
theorem one_div_sqrt_scaled {m : ℕ} (hm : m ≠ 0) (k h : ℤ) :
    1 / Real.sqrt (scaled m (2 * h)) = Real.sqrt ((2 : ℝ) ^ (2 * k) / m) * 2 ^ (-h - k) := by
  have hsq (e : ℤ) : (2 : ℝ) ^ (2 * e) = ((2 : ℝ) ^ e) ^ 2 := by rw [← zpow_natCast, ← zpow_mul, mul_comm]; rfl
  have hroot : 0 < Real.sqrt m := Real.sqrt_pos.2 (by exact_mod_cast Nat.pos_of_ne_zero hm)
  rw [scaled, hsq, hsq, Real.sqrt_mul (Nat.cast_nonneg m), Real.sqrt_sq (two_zpow_pos h).le, Real.sqrt_div (sq_nonneg _),
    Real.sqrt_sq (two_zpow_pos k).le, zpow_sub₀ two_ne_zero, zpow_neg]
  have h1 := two_zpow_pos h
  have h2 := two_zpow_pos k
  field_simp

section

variable {a : ℕ}

theorem fRsq_nan {h : Bool} (hx : Ty.f32.value a = .nan h) : fRsq a = (0x7FC00000, if h then fIV else 0) := by
  rw [fRsq, hx]
  rfl

theorem fRsq_inf {neg : Bool} (hx : Ty.f32.value a = .inf neg) : fRsq a = if neg then (0x7FC00000, fIV) else (0, 0) := by
  rw [fRsq, hx]
  cases neg <;> rfl

theorem fRsq_zero (hx : (Ty.f32.value a).Is 0) : fRsq a = (Ty.f32.infBits (Ty.f32.value a).neg, fDZ) := by
  obtain ⟨neg, m, q, hx, hm⟩ := hx.exists_fin
  obtain rfl : m = 0 := by simpa using hm.symm
  simp only [fRsq, hx, if_true]
  rfl

theorem fRsq_negative {v : ℝ} (hx : (Ty.f32.value a).Is v) (hv : v < 0) : fRsq a = (0x7FC00000, fIV) := by
  obtain ⟨m, q, hx, hm⟩ := hx.of_neg hv
  simp only [fRsq, hx, if_neg hm, if_true]
  rfl

/-- The significand and half of the exponent, once the exponent is made even. -/
theorem fRsq_finite {m : ℕ} {q : ℤ} (hx : Ty.f32.value a = .fin false m q) (hm : m ≠ 0) (hlt : m < 2 ^ 24) :
    ∃ (n : ℕ) (h : ℤ), n ≠ 0 ∧ n < 2 ^ 25 ∧ scaled m q = scaled n (2 * h) ∧
      fRsq a = Ty.f32.round .rne false false (isqrt (2 ^ 128 / n)) (-h - 64)
        (isqrt (2 ^ 128 / n) * isqrt (2 ^ 128 / n) * n != 2 ^ 128) := by
  by_cases heven : q % 2 = 0
  · refine ⟨m, q / 2, hm, by omega, by congr 1; omega, ?_⟩
    simp only [fRsq, hx, if_neg hm, heven, Bool.false_eq_true, if_false, if_true]
  · refine ⟨2 * m, (q - 1) / 2, by omega, by omega, ?_, ?_⟩
    · rw [show 2 * ((q - 1) / 2) = q - 1 by omega, mul_comm, ← pow_one 2, scaled_mul_two_pow, Nat.cast_one, sub_add_cancel]
    · simp only [fRsq, hx, if_neg hm, heven, Bool.false_eq_true, if_false]

theorem fRsq_rounds {v : ℝ} (hx : (Ty.f32.value a).Is v) (hv : 0 < v) :
    Ty.f32.Rounds .rne false (1 / Real.sqrt v) (fRsq a).1 (fRsq a).2 := by
  obtain ⟨m, q, hval, hm, rfl⟩ := hx.of_pos hv
  obtain ⟨n, h, hn, hlt, hscaled, hround⟩ := fRsq_finite hval hm (f32_has hval).1
  have hroot := one_div_sqrt_scaled hn 64 h
  have hcast : ((2 ^ 128 : ℕ) : ℝ) = (2 : ℝ) ^ (2 * 64 : ℤ) := by norm_num
  rw [← hcast] at hroot
  have hstands := (sqrt_div_standsFor (2 ^ 128) hn).scale (-h - 64)
  rw [← hroot, ← hscaled] at hstands
  rw [hround]
  refine hstands.rounds (t := .f32) rfl .rne false (one_div_pos.2 (Real.sqrt_pos.2 hv)) (fun _ => ?_) false
  rw [isqrt_eq_sqrt, Nat.le_sqrt, Nat.le_div_iff_mul_le (Nat.pos_of_ne_zero hn)]
  calc 2 ^ 25 * 2 ^ 25 * n ≤ 2 ^ 25 * 2 ^ 25 * 2 ^ 25 := Nat.mul_le_mul_left _ hlt.le
    _ ≤ 2 ^ 128 := by norm_num

end

/-! ### One lane of a request -/

section

variable (a : Lane)

/-- The sign bit of a lane with the sign of a value. -/
theorem ofNat_signBit (neg : Bool) : (BitVec.ofNat 32 (Ty.f32.signBit neg) : Lane) = if neg then 0x80000000 else 0 := by
  cases neg <;> rfl

theorem ofNat_infBits (neg : Bool) :
    (BitVec.ofNat 32 (Ty.f32.infBits neg) : Lane) = (if neg then 0x80000000 else 0) ||| 0x7F800000 := by
  cases neg <;> decide

theorem lane_eq {r : ℕ × FlagBits} {p : ℕ} {f : FlagBits} (h : r = (p, f)) : (lane r).1 = BitVec.ofNat 32 p ∧ (lane r).2 = f := by
  subst h
  exact ⟨rfl, rfl⟩

/-- A NaN gives the canonical one in every function. -/
theorem transFn_nan (fn : ℕ) {h : Bool} (hx : Ty.f32.value a.toNat = .nan h) :
    (transFn fn a).1 = 0x7FC00000 ∧ (transFn fn a).2 = if h then fIV else 0 := by
  unfold transFn
  split
  · exact lane_eq (fExp2_nan hx)
  · exact lane_eq (fLog2_nan hx)
  · exact lane_eq (fRcp_nan hx)
  · exact lane_eq (fRsq_nan hx)

theorem transFn_exp2 :
    let x := Ty.f32.value a.toNat
    let y := (transFn 0 a).1
    let f := (transFn 0 a).2
    (x = .inf false → y = 0x7F800000 ∧ f = 0) ∧ (x = .inf true → y = 0 ∧ f = 0) ∧
      (∀ n : ℤ, x.Is n → -149 ≤ n → n ≤ 127 → (Ty.f32.value y.toNat).Is ((2 : ℝ) ^ n) ∧ f = 0) ∧
      (∀ v, x.Is v → 128 ≤ v → y = 0x7F800000 ∧ f = (fOF ||| fNX)) := by
  refine ⟨fun hx => lane_eq (fExp2_inf hx), fun hx => lane_eq (fExp2_inf hx), fun n hx hlo hhi => ?_,
    fun v hx hv => lane_eq (fExp2_overflow hx hv)⟩
  obtain ⟨his, hflags, hlt⟩ := round_two_pow hlo hhi
  have hout : transFn 0 a = lane (Ty.f32.round .rne false false 1 n false) := congrArg lane (fExp2_int hx hlo hhi)
  rw [hout, lane, toNat_lane hlt]
  exact ⟨his, hflags⟩

theorem transFn_log2 :
    let x := Ty.f32.value a.toNat
    let y := (transFn 1 a).1
    let f := (transFn 1 a).2
    (x = .inf false → y = 0x7F800000 ∧ f = 0) ∧ (x = .inf true → y = 0x7FC00000 ∧ f = fIV) ∧
      (x.Is 0 → y = 0xFF800000 ∧ f = fDZ) ∧ (∀ v, x.Is v → v < 0 → y = 0x7FC00000 ∧ f = fIV) ∧
      (∀ n : ℤ, x.Is ((2 : ℝ) ^ n) → (Ty.f32.value y.toNat).Is n ∧ f = 0) := by
  refine ⟨fun hx => lane_eq (fLog2_inf hx), fun hx => lane_eq (fLog2_inf hx), fun hx => lane_eq (fLog2_zero hx),
    fun v hx hv => lane_eq (fLog2_negative hx hv), fun n hx => ?_⟩
  obtain ⟨hlog, hn⟩ := fLog2_two_pow hx
  obtain ⟨his, hflags, hlt⟩ := roundDy_int hn
  have hout : transFn 1 a = lane (Ty.f32.roundDy .rne false false ⟨n, 0⟩) := congrArg lane hlog
  rw [hout, lane, toNat_lane hlt]
  exact ⟨his, hflags⟩

theorem transFn_rcp :
    let x := Ty.f32.value a.toNat
    let y := (transFn 2 a).1
    let f := (transFn 2 a).2
    let sign : Lane := if x.neg then 0x80000000 else 0
    (∀ n, x = .inf n → y = sign ∧ f = 0) ∧ (x.Is 0 → y = sign ||| 0x7F800000 ∧ f = fDZ) ∧
      (∀ v, x.Is v → v ≠ 0 → Ty.f32.Rounds .rne false (1 / v) y.toNat f) := by
  refine ⟨fun n hx => ?_, fun hx => ?_, fun v hx hv => ?_⟩
  · rw [hx, FVal.neg, ← ofNat_signBit]
    exact lane_eq (fRcp_inf hx)
  · rw [← ofNat_infBits]
    exact lane_eq (fRcp_zero hx)
  · have hround := fRcp_rounds hx hv
    rwa [← toNat_lane hround.lt] at hround

theorem transFn_rsq :
    let x := Ty.f32.value a.toNat
    let y := (transFn 3 a).1
    let f := (transFn 3 a).2
    let sign : Lane := if x.neg then 0x80000000 else 0
    (x = .inf false → y = 0 ∧ f = 0) ∧ (x = .inf true → y = 0x7FC00000 ∧ f = fIV) ∧
      (x.Is 0 → y = sign ||| 0x7F800000 ∧ f = fDZ) ∧ (∀ v, x.Is v → v < 0 → y = 0x7FC00000 ∧ f = fIV) ∧
      (∀ v, x.Is v → 0 < v → Ty.f32.Rounds .rne false (1 / Real.sqrt v) y.toNat f) := by
  refine ⟨fun hx => lane_eq (fRsq_inf hx), fun hx => lane_eq (fRsq_inf hx), fun hx => ?_, fun v hx hv => lane_eq (fRsq_negative hx hv),
    fun v hx hv => ?_⟩
  · rw [← ofNat_infBits]
    exact lane_eq (fRsq_zero hx)
  · have hround := fRsq_rounds hx hv
    rwa [← toNat_lane hround.lt] at hround

end

end Sys2Proof

/-!
PROOFS. Requests to the transcendental units (R14, R173, R174): an instruction queues its request or parks, the unit takes one in 4
cycles, and the result lands. Obligation O39.
-/

namespace Sys2Proof

open Machine

/-! ### Queueing a request -/

section

variable {s : State} {w : Tid} {k : ℕ}

/-- A thread without a token of a kind has none to give back. -/
theorem spend_onlyMoves (h : s.granted w k = false) : s.onlyMoves (s.spend w k) w := by
  have hnone : k ∉ (s.thread w).grants := by
    intro hmem
    rw [State.granted, List.contains_iff_mem.2 hmem] at h
    exact Bool.noConfusion h
  refine State.onlyMoves.ofModThread s w _ ?_
  rw [List.erase_of_not_mem hnone]

end

/-- The request that an instruction queues (R173). -/
def newRequest (s : State) (fn : ℕ) (km : KReg) (d a : VReg) : TransReq :=
  { own := s.cur, pcore := s.phys s.cur.job s.cur.lcn, fn := fn, d := d, src := s.rdV s.cur a, mask := s.rdK s.cur km, due := s.cyc + 1 }

/-- The state in which a request is queued under the name that the draw gives it. -/
def queued (s : State) (la : BitVec 4) (r : TransReq) (held : List RegRef) : State :=
  ((({ s.drawn with transReqs := s.transReqs.set s.seq r }.hold r.own s.seq held).openWindow r.own s.seq la).later 1
    (.transRequest s.seq)).advance r.own

section

variable (s : State) (la : BitVec 4) (r : TransReq) (held : List RegRef)

theorem queued_transReqs : (queued s la r held).transReqs.get? s.seq = some r := Map.get?_set_self _ _ _

theorem queued_agenda : ⟨s.cyc + 1, .transRequest s.seq⟩ ∈ (queued s la r held).agenda :=
  (mem_insertPending _ _ _).2 (.inl rfl)

theorem queued_thread :
    ((queued s la r held).thread r.own) =
      { s.thread r.own with
        pc := (s.thread r.own).pc + 12
        busy := (s.thread r.own).busy ++ (held.filter fun x => !x.fixed).map fun x => (s.seq, x)
        window := (s.thread r.own).window ++ [(s.seq, la.toNat)] } := by
  rw [queued, State.advance_thread, State.later_thread, State.openWindow, State.modThread_thread_self, State.hold,
    State.modThread_thread_self]
  rfl

/-- But for the request, queueing changes only what is on its way. -/
theorem queued_onlyMoves : s.onlyMoves { queued s la r held with transReqs := s.transReqs } r.own := by
  have hmoves : s.onlyMoves (((s.drawn.hold r.own s.seq held).openWindow r.own s.seq la).later 1 (.transRequest s.seq)) r.own :=
    (((State.onlyMoves.ofDrawn s r.own).andThen (State.onlyMoves.ofModThread _ r.own _ rfl)).andThen
      (State.onlyMoves.ofModThread _ r.own _ rfl)).andThen (State.onlyMoves.ofLater _ r.own _ _)
  exact hmoves.andThen (State.advance_onlyMoves _ r.own)

end

section

variable {s : State} {fn : ℕ} {la : BitVec 4} {km : KReg} {d a : VReg} (hg : s.granted s.cur 110 = false)

include hg

/-- With 8 requests outstanding the thread parks on the queue of its unit (R174). -/
theorem transcend_full (h : 8 ≤ s.transLoad s.cur (s.phys s.cur.job s.cur.lcn)) :
    s.transcend fn la km d a = s.park s.cur .engq 5 false .reissue := by
  simp only [State.transcend, hg, decide_eq_true h]
  rfl

/-- With fewer the request is queued, and its destination held with FLAGS if it sets any (R42). -/
theorem transcend_free (h : s.transLoad s.cur (s.phys s.cur.job s.cur.lcn) < 8) :
    ∃ held, s.transcend fn la km d a = queued (s.spend s.cur 110) la (newRequest s fn km d a) (.v d :: held) := by
  have hsame := (spend_onlyMoves hg).sameRegs s.cur
  obtain ⟨-, hv, -, hk⟩ := hsame
  refine ⟨if (newRequest s fn km d a).out.2 = 0 then [] else [.sp 0x006], ?_⟩
  simp only [State.transcend, hg, decide_eq_false (not_le.2 h), hv, hk]
  rfl

/-- What an instruction of R172 does with fewer than 8 requests outstanding. -/
theorem transcend_spec (h : s.transLoad s.cur (s.phys s.cur.job s.cur.lcn) < 8) :
    let w := s.cur
    let t := s.transcend fn la km d a
    t.transReqs.get? s.seq = some (newRequest s fn km d a) ∧ (s.seq, .v d) ∈ (t.thread w).busy ∧
      ⟨s.cyc + 1, .transRequest s.seq⟩ ∈ t.agenda ∧ t.pcOf w = s.pcOf w + 12 ∧ s.onlyMoves { t with transReqs := s.transReqs } w := by
  obtain ⟨held, ht⟩ := transcend_free (fn := fn) (la := la) (km := km) (d := d) (a := a) hg h
  have hspend := spend_onlyMoves hg
  have hthread := queued_thread (s.spend s.cur 110) la (newRequest s fn km d a) (.v d :: held)
  have hown : (newRequest s fn km d a).own = s.cur := rfl
  rw [hown] at hthread
  intro w t
  have ht' : t = _ := ht
  rw [ht']
  refine ⟨queued_transReqs _ la _ _, ?_, queued_agenda _ la _ _, ?_, hspend.andThen (queued_onlyMoves _ la (newRequest s fn km d a) _)⟩
  · rw [hthread]
    exact List.mem_append_right _ List.mem_cons_self
  · rw [State.pcOf, hthread, State.spend, State.modThread_thread_self]
    rfl

end

/-! ### Threads that are listed -/

/-- The maps of a state have an entry for a thread. -/
def Listed (s : State) (w : Tid) : Prop :=
  ∃ c x, (s.job w.job).cores.get? w.lcn = some c ∧ c.threads.get? w.thr = some x

section

variable {s : State} {w : Tid}

/-- A thread that holds a register is listed: one that is not reads as a thread at reset. -/
theorem listed_of_busy {p : ℕ × RegRef} (h : p ∈ (s.thread w).busy) : Listed s w := by
  unfold State.thread State.core at h
  cases hc : (s.job w.job).cores.get? w.lcn with
  | none =>
    rw [Map.getD, Map.getD, hc] at h
    exact absurd h List.not_mem_nil
  | some c =>
    cases hx : c.threads.get? w.thr with
    | none =>
      rw [Map.getD, Map.getD, hc, Option.getD_some, hx] at h
      exact absurd h List.not_mem_nil
    | some x => exact ⟨c, x, hc, hx⟩

theorem listed_modThread (f : Thread → Thread) : Listed (s.modThread w f) w := by
  refine ⟨{ s.core w.job w.lcn with threads := (s.core w.job w.lcn).threads.set w.thr (f (s.thread w)) }, f (s.thread w), ?_,
    Map.get?_set_self _ _ _⟩
  simp only [State.modThread, State.modCore, State.modJob_job_self, Map.get?_set_self]
  rfl

theorem mem_threadsOf {j : ℕ} {v : Tid} {x : Thread} :
    (v, x) ∈ s.threadsOf j ↔ ∃ c, (v.lcn, c) ∈ (s.job j).cores ∧ (v.thr, x) ∈ c.threads ∧ v.job = j := by
  simp only [State.threadsOf, List.mem_flatMap, List.mem_map, Prod.exists, Prod.mk.injEq]
  constructor
  · rintro ⟨l, c, hc, n, y, hx, rfl, rfl⟩
    exact ⟨c, hc, hx, rfl⟩
  · rintro ⟨c, hc, hx, rfl⟩
    exact ⟨v.lcn, c, hc, v.thr, x, hx, rfl, rfl⟩

theorem Listed.mem (h : Listed s w) : (w, s.thread w) ∈ s.threadsOf w.job := by
  obtain ⟨c, x, hc, hx⟩ := h
  have hthread : s.thread w = x := by rw [State.thread, State.core, Map.getD, Map.getD, hc, Option.getD_some, hx, Option.getD_some]
  rw [hthread]
  exact mem_threadsOf.2 ⟨c, Map.mem_of_get? _ _ _ hc, Map.mem_of_get? _ _ _ hx, rfl⟩

/-- A change of a listed thread leaves the others of its job, and lists it as changed. -/
theorem mem_threadsOf_modThread (h : Listed s w) {f : Thread → Thread} {v : Tid} {x : Thread}
    (hv : (v, x) ∈ (s.modThread w f).threadsOf w.job) : (v, x) ∈ s.threadsOf w.job ∨ v = w ∧ x = f (s.thread w) := by
  obtain ⟨c', hc', hx, hjob⟩ := mem_threadsOf.1 hv
  obtain ⟨c, y, hc, hy⟩ := h
  have hcore : s.core w.job w.lcn = c := by rw [State.core, Map.getD, hc, Option.getD_some]
  have hcores : ((s.modThread w f).job w.job).cores =
      (s.job w.job).cores.set w.lcn { c with threads := c.threads.set w.thr (f (s.thread w)) } := by
    rw [State.thread, hcore]
    simp only [State.modThread, State.modCore, State.modJob_job_self, ← hcore]
    rfl
  rw [hcores] at hc'
  rcases Map.mem_set _ _ _ _ hc' with he | hold
  · obtain ⟨hl, rfl⟩ := Prod.mk.inj he
    rcases Map.mem_set _ _ _ _ hx with he | hold
    · obtain ⟨hthr, rfl⟩ := Prod.mk.inj he
      refine .inr ⟨?_, rfl⟩
      cases v
      cases w
      simp_all
    · exact .inl (mem_threadsOf.2 ⟨c, hl ▸ Map.mem_of_get? _ _ _ hc, hold, hjob⟩)
  · exact .inl (mem_threadsOf.2 ⟨c', hold, hx, hjob⟩)

/-! ### Threads that wait -/

/-- Every thread that the later state lists as parked was so listed in the earlier one, with its wait. -/
def SameWaits (j : ℕ) (s t : State) : Prop :=
  ∀ v x, (v, x) ∈ t.threadsOf j → ∃ y, (v, y) ∈ s.threadsOf j ∧ y.st = x.st ∧ y.wait = x.wait

theorem SameWaits.trans {j : ℕ} {s t u : State} (h : SameWaits j s t) (k : SameWaits j t u) : SameWaits j s u := by
  intro v x hx
  obtain ⟨y, hy, hst, hwait⟩ := k v x hx
  obtain ⟨z, hz, hst', hwait'⟩ := h v y hy
  exact ⟨z, hz, hst'.trans hst, hwait'.trans hwait⟩

theorem sameWaits_modThread (h : Listed s w) {f : Thread → Thread} (hf : ∀ x : Thread, (f x).st = x.st ∧ (f x).wait = x.wait) :
    SameWaits w.job s (s.modThread w f) := by
  intro v x hx
  rcases mem_threadsOf_modThread h hx with hold | ⟨rfl, rfl⟩
  · exact ⟨x, hold, rfl, rfl⟩
  · exact ⟨s.thread v, h.mem, (hf _).1.symm, (hf _).2.symm⟩

theorem insertBy_ne_nil {α : Type} (k : α → ℕ) (x : α) (l : List α) : insertBy k x l ≠ [] := by
  cases l with
  | nil => exact List.cons_ne_nil _ _
  | cons y ys =>
    rw [insertBy]
    split <;> exact List.cons_ne_nil _ _

theorem sortBy_eq_nil_iff {α : Type} (k : α → ℕ) (l : List α) : sortBy k l = [] ↔ l = [] := by
  refine ⟨fun h => ?_, fun h => by rw [h]; rfl⟩
  cases hl : l.reverse with
  | nil => exact List.reverse_eq_nil_iff.1 hl
  | cons x ys =>
    rw [sortBy, ← List.reverse_reverse l, hl, List.reverse_cons, List.foldl_append] at h
    exact absurd h (insertBy_ne_nil _ _ _)

/-- Nobody waits under a condition when no parked thread's wait meets it. -/
theorem waiters_eq_nil_iff {j : ℕ} {p : Tid → Wait → Bool} :
    s.waiters j p = [] ↔ ∀ v x, (v, x) ∈ s.threadsOf j → x.st = .parked → ∀ y, x.wait = some y → p v y = false := by
  rw [State.waiters, List.map_eq_nil_iff, sortBy_eq_nil_iff, List.filterMap_eq_nil_iff]
  constructor
  · intro h v x hx hst y hy
    have := h _ hx
    simp only [hst, hy] at this
    simpa using this
  · rintro h ⟨v, x⟩ hx
    dsimp only
    split
    · rename_i y hst hy
      rw [h v x hx hst y hy]
      rfl
    · rfl

theorem SameWaits.waiters_nil {j : ℕ} {s t : State} (h : SameWaits j s t) {p p' : Tid → Wait → Bool} (hp : ∀ v y, p' v y = p v y)
    (hnil : s.waiters j p = []) : t.waiters j p' = [] := by
  refine waiters_eq_nil_iff.2 fun v x hx hst y hy => ?_
  obtain ⟨z, hz, hst', hwait⟩ := h v x hx
  rw [hp]
  exact waiters_eq_nil_iff.1 hnil v z hz (hst'.trans hst) y (hwait.trans hy)

/-! ### The landing of a result -/

/-- A result that is queued leaves who waits for what. -/
theorem sameWaits_land (h : Listed s w) (lat : ℕ) (ws : List RegWrite) (fl : FlagBits) :
    SameWaits w.job s (s.land w lat ws fl) := by
  have hdrawn : SameWaits w.job s s.drawn := fun _ x hx => ⟨x, hx, rfl, rfl⟩
  have hlater (t : State) (n : ℕ) (e : Event) : SameWaits w.job t (t.later n e) := fun _ x hx => ⟨x, hx, rfl, rfl⟩
  unfold State.land State.hold
  refine ((hdrawn.trans (sameWaits_modThread ?_ ?_)).trans (sameWaits_modThread (listed_modThread _) ?_)).trans (hlater _ _ _)
  · exact h
  · exact fun _ => ⟨rfl, rfl⟩
  · exact fun _ => ⟨rfl, rfl⟩

/-- So does a release with a landing. -/
theorem sameWaits_release_land (h : Listed s w) (id lat : ℕ) (ws : List RegWrite) (fl : FlagBits) :
    SameWaits w.job s ((s.release w id).land w lat ws fl) := by
  have hrelease : SameWaits w.job s (s.release w id) := sameWaits_modThread h fun _ => ⟨rfl, rfl⟩
  have hlisted : Listed (s.release w id) w := listed_modThread _
  exact hrelease.trans (sameWaits_land hlisted lat ws fl)

@[simp] theorem modThread_phys? (s : State) (w : Tid) (f : Thread → Thread) (j l : ℕ) : (s.modThread w f).phys? j l = s.phys? j l := by
  simp [State.phys?, Job.cluOf, Job.memOf, Job.xOf, Job.yOf]

theorem release_land_phys? (id lat : ℕ) (ws : List RegWrite) (fl : FlagBits) (j l : ℕ) :
    ((s.release w id).land w lat ws fl).phys? j l = s.phys? j l := by
  have hlater (t : State) (n : ℕ) (e : Event) : (t.later n e).phys? j l = t.phys? j l := rfl
  have hdrawn (t : State) : t.drawn.phys? j l = t.phys? j l := rfl
  rw [State.land, hlater, State.hold, modThread_phys?, modThread_phys?, hdrawn, State.release, modThread_phys?]

end

/-- The result of a request whose thread still holds its destination lands under the mask; no thread waits for the place. -/
theorem exec_transResult {s : State} {rid : ℕ} {r : TransReq} (hr : s.transReqs.get? rid = some r)
    (hbusy : ∃ x, (rid, x) ∈ (s.thread r.own).busy)
    (hnil : (s.waiters r.own.job fun v x => s.phys? r.own.job v.lcn == some r.pcore && x.kind == .engq && x.obj == 5) = []) :
    exec (.transResult rid) s =
      .next (({ s with transReqs := s.transReqs.del rid }.release r.own rid).land r.own 0 [.v r.d r.out.1 r.mask] r.out.2) := by
  obtain ⟨x, hx⟩ := hbusy
  have hlive : ((s.thread r.own).busy.any fun p => p.1 == rid) = true := List.any_eq_true.2 ⟨_, hx, beq_self_eq_true rid⟩
  let u : State := { s with transReqs := s.transReqs.del rid }
  have hlive' : ((u.thread r.own).busy.any fun p => p.1 == rid) = true := hlive
  have hnil' : (u.waiters r.own.job fun v x => u.phys? r.own.job v.lcn == some r.pcore && x.kind == .engq && x.obj == 5) = [] := hnil
  have hwaiters := (sameWaits_release_land (s := u) (listed_of_busy hx) rid 0 [.v r.d r.out.1 r.mask] r.out.2).waiters_nil
    (p' := fun v x => ((u.release r.own rid).land r.own 0 [.v r.d r.out.1 r.mask] r.out.2).phys? r.own.job v.lcn == some r.pcore &&
      x.kind == .engq && x.obj == 5)
    (fun v y => by rw [release_land_phys?]) hnil'
  simp only [exec, execTransResult, hr]
  rw [if_pos hlive']
  exact congrArg Host.Outcome.next (by rw [show transObj = 5 from rfl, hwaiters])

/-- The lanes of a result, and the flags of those that are written. -/
theorem out_lanes (r : TransReq) (i : Fin 64) : r.out.1[i] = (transFn r.fn r.src[i]).1 := by
  simp [TransReq.out, Vec.ofFn]

theorem out_flags (r : TransReq) (b : ℕ) :
    r.out.2.getLsbD b = true ↔ ∃ i : Fin 64, r.mask.getLsbD i = true ∧ (transFn r.fn r.src[i]).2.getLsbD b = true := by
  simp [TransReq.out, getLsbD_foldl_or]

/-- Settles O39: the request, its turn, and the lanes of `transFn`. -/
theorem transcendentals : Obligations.Transcendentals := by
  refine ⟨fun s g la km d a hon hg => ?_, fun s rid r hr => ?_, fun s rid r hr hbusy hnil => ?_⟩
  · intro w pc does
    have hdoes {i : Instr} {fn : ℕ}
        (hi : exec i s = .next (if s.guardOn s.cur g then s.transcend fn la km d a else s.advance s.cur)) : does i fn :=
      ⟨fun h => ⟨_, State.exec_of_guardOn hon hi rfl, transcend_spec hg h⟩,
        fun h => State.exec_of_guardOn hon hi (transcend_full hg h)⟩
    exact ⟨hdoes rfl, hdoes rfl, hdoes rfl, hdoes rfl⟩
  · simp only [exec, execTransRequest, hr]
    rfl
  · refine ⟨r.out.1, fun i => (transFn r.fn r.src[i]).2, r.out.2, exec_transResult hr hbusy hnil, out_flags r, fun i => ?_⟩
    rw [out_lanes]
    refine ⟨fun h hx => transFn_nan r.src[i] r.fn hx, ?_, ?_, ?_, ?_⟩ <;> intro hfn <;> rw [hfn]
    · exact transFn_exp2 r.src[i]
    · exact transFn_log2 r.src[i]
    · exact transFn_rcp r.src[i]
    · exact transFn_rsq r.src[i]

end Sys2Proof

/-!
PROOFS. Where an address leads: obligation O42 fails in its clause on the core registers.

R379 lists the offsets 0x000, 0x008 and so on up to 0x038, and a value that is not listed raises ADDR. So says the model
(`regListed`); the statement asks whether offset div 8 is one of 0 to 7, which also holds of the seven offsets after each of
these.
-/

namespace Sys2Proof.Machine

/-- The machine at reset but for one thread, which has privilege. -/
def privilegedState : State := { State.reset with jobs := [(0, { cores := [(0, { threads := [(0, { pstate := 1 })] })] })] }

/-- Space 0xF, layout 0x1, core 0, offset 4: inside PTROOT, and no offset of the list. -/
def insidePtroot : Word := 0xF100000000000004

theorem place_insidePtroot : privilegedState.place ⟨0, 0, 0⟩ insidePtroot = none := by decide

/-- Refutes O42: of a core register's offset the statement looks at offset div 8 alone, so it takes offset 4 for a place. In the
model offset 4 is none. -/
theorem not_addressChecks : ¬ Obligations.AddressChecks := by
  unfold Obligations.AddressChecks
  intro h
  obtain ⟨-, -, -, -, -, hsystem, -⟩ := h privilegedState ⟨0, 0, 0⟩ insidePtroot
  obtain ⟨-, hregister, -⟩ := hsystem (by decide) (by decide)
  have hplace := hregister (by decide)
  rw [place_insidePtroot, if_pos (by decide)] at hplace
  exact Option.some_ne_none _ hplace.symm

end Sys2Proof.Machine

/-!
PROOFS. An access at its home, in a state whose map of physical clusters lists one cluster twice: obligation O44 fails there.

`State.seat`, by which the statement knows the own physical core, goes through the whole list of clusters; `State.routed?`, by
which a router translates a destination, looks its cluster up by number and so reads the first entry. Where a cluster is listed
twice the two can differ, and the response of an access within one core then leaves for another. The machine's own updates
(`Map.set`) keep the keys of a map distinct; the statement is about every state, and would need that as a hypothesis.
-/

namespace Sys2Proof.Machine

/-- The first word of a scratch, as the element of an access. -/
def firstWord : Elem := { idx := 0, va := 0x8000000000000000, at_ := 0, val := 0, cmp := 0 }

/-- A part that reads it in the scratch of core 0. -/
def ownRead : Part := { home := .scratch 0, elems := [firstWord] }

/-- A load of a thread of core 0 with that part alone. -/
def ownLoad : Access :=
  { id := 7, own := ⟨1, 0, 0⟩, pc := 0x10000, kind := .load, t := .n64, size := 8, vec := false, rx := false, lat := 12,
    posted := false, dst := some (.s 1), fseq := 0, parts := [(0, ownRead)] }

/-- The load under way in a state that lists physical cluster 0 twice: the copy of the map table that is listed first names
cluster 1 for logical cluster 0, the second one names cluster 0 itself. -/
def clusterTwice : State :=
  { State.reset with
    jobs := [(1, {})]
    pcores := [(0, { jobreg := 1 })]
    pclus := [(0, { map := [(0, mapEntry 1 0 0)] }), (0, { map := [(0, mapEntry 0 0 0)] })]
    accs := [(7, ownLoad)] }

theorem clusterTwice_canonical : clusterTwice.canonical := by
  refine ⟨Memory.wf_nil, Memory.wf_nil, fun x hx => ?_⟩
  rw [List.mem_singleton.1 hx]
  exact Memory.wf_nil

theorem clusterTwice_open : clusterTwice.closed 1 0 0 8 = false := by decide

theorem clusterTwice_phys : clusterTwice.phys? 1 0 = some 0 := by decide

/-- The load has been performed, and its response is a packet for core 4. -/
theorem exec_clusterTwice : ∃ t, exec (.remoteAccess 7 0) clusterTwice = .next t ∧
    t.agenda = [⟨0, .boot⟩, ⟨10, .packetForward 0 true⟩] := ⟨_, rfl, by decide⟩

/-- Refutes O44: the statement has the response of an access to the own physical core due in the cycle that R188 gives, in every
state. In `clusterTwice` it goes out as a packet, and no response stands on the agenda. -/
theorem not_accessesPerform : ¬ Obligations.AccessesPerform := by
  unfold Obligations.AccessesPerform
  rintro ⟨-, -, h⟩
  obtain ⟨hscratch, -⟩ := h clusterTwice (.remoteAccess 7 0) 7 0 ownLoad ownRead firstWord (.inl rfl) clusterTwice_canonical rfl rfl
    rfl (by rintro l ⟨⟩; decide) rfl rfl (by decide) (by decide) (by rintro o ⟨⟩) (by decide)
  obtain ⟨hperforms, -⟩ := hscratch 0 0 rfl clusterTwice_phys (by decide)
  obtain ⟨t, a', q', ht, -, -, -, -, -, -, -, -, -, -, -, -, hresponse, -⟩ := hperforms clusterTwice_open (by decide) (by decide)
  obtain ⟨u, hu, hagenda⟩ := exec_clusterTwice
  have hmem := hresponse (by decide) clusterTwice_phys
  rw [hu] at ht
  rw [← Host.Outcome.next.inj ht, hagenda] at hmem
  exact absurd hmem (by decide)

end Sys2Proof.Machine

/-!
PROOFS. Ranges, tags and order: obligation O46.

First what the start of any access does, by its limit and its checks; then the ranges of `fe` and `guard`, the search of the tag
table, what `drain` and `fence` wait for, and the probe of `xlat`.
-/

namespace Sys2Proof.Machine

/-! ### The start of an access (R180, R181, R187) -/

section

variable {s : State} {w : Tid}

/-- No place is ADDR, whatever the access. -/
theorem State.checkPlace_of_place_none {a : Word} (h : s.place w a = none) (scrOnly posted : Bool) (size : ℕ) :
    s.checkPlace w scrOnly posted size a = .error .addr := by
  simp only [State.checkPlace, h]

/-- An address of scratch that the routers let through has only its alignment to pass. -/
theorem State.checkPlace_of_reaches {a : Word} {l off : ℕ} (h : s.place w a = some (.scratch l off))
    (hreaches : s.reaches w (.scratch l off) = true) (scrOnly posted : Bool) (size : ℕ) :
    s.checkPlace w scrOnly posted size a = if a.toNat % size ≠ 0 then .error .align else .ok (.scratch l off) := by
  simp [State.checkPlace, h, hreaches, Place.isScratch]

/-- With 16 relaxed accesses on their way another one parks (R187). -/
theorem State.access_of_full {x : AccSpec} (hrx : x.rx = true) (hfull : 16 ≤ (s.thread w).relaxed.length) (es : List ElemReq) :
    s.access w x es = s.park w .relaxed 0 false .reissue := by
  simp only [State.access, hrx, hfull, decide_true, Bool.and_self, if_true]

variable {x : AccSpec} {es : List ElemReq} (hroom : x.rx = true → (s.thread w).relaxed.length < 16)

include hroom

theorem State.access_of_room : ¬(x.rx && decide (16 ≤ (s.thread w).relaxed.length)) = true := by
  rw [Bool.and_eq_true, decide_eq_true_iff]
  rintro ⟨hrx, hfull⟩
  exact absurd (hroom hrx) (Nat.not_lt.2 hfull)

/-- A check that does not pass is a trap at the instruction, with the element's address (R180). -/
theorem State.access_of_trap {c : Cause} {va : Word}
    (h : s.checkAll w x.kind x.scrOnly x.posted x.size [] es = .stop (.trap c) va) :
    s.access w x es = s.trapAt w c (s.pcOf w) va 0 := by
  rw [State.access, if_neg (State.access_of_room hroom), h]
  rfl

/-- Where every check passes the access is under way, and the thread passes on. -/
theorem State.access_of_parts {ps : List (ℕ × Part)} (h : s.checkAll w x.kind x.scrOnly x.posted x.size [] es = .parts ps) :
    s.access w x es = (s.beginAccess w x ps).advance w := by
  rw [State.access, if_neg (State.access_of_room hroom), h]

end

/-! ### `fe` and `guard` over a range (R191, R203) -/

section

variable {s : State} {k : AccKind} {size : ℕ} {va len : Word}

theorem State.rangeAccess_of_place_none (h : s.place s.cur va = none) :
    s.rangeAccess k size va len = s.trapAt s.cur .addr (s.pcOf s.cur) va 0 := by
  rw [State.rangeAccess, State.checkPlace_of_place_none h]
  rfl

variable {l off : ℕ} (h : s.place s.cur va = some (.scratch l off)) (hreaches : s.reaches s.cur (.scratch l off) = true)

include h hreaches

theorem State.rangeAccess_of_misaligned (hsize : va.toNat % size ≠ 0) :
    s.rangeAccess k size va len = s.trapAt s.cur .align (s.pcOf s.cur) va 0 := by
  rw [State.rangeAccess, State.checkPlace_of_reaches h hreaches, if_pos hsize]
  rfl

variable (hsize : va.toNat % size = 0)

include hsize

/-- The checks of a range whose start passes: its end, then its length. -/
theorem State.rangeAccess_eq :
    s.rangeAccess k size va len =
      if (s.job s.cur.job).foot < off + len.toNat then s.trapAt s.cur .addr (s.pcOf s.cur) va 0
      else if len.toNat % size ≠ 0 then s.trapAt s.cur .align (s.pcOf s.cur) va 0
      else if len = 0 then s.advance s.cur
      else
        s.access s.cur { kind := k, t := .n64, size := if size = 8 then 8 else 1, lat := 12, scrOnly := true }
          ((List.range (len.toNat / size)).map fun i => { idx := i, va := va + BitVec.ofNat 64 (i * size) }) := by
  rw [State.rangeAccess, State.checkPlace_of_reaches h hreaches, if_neg (not_not_intro hsize)]
  simp only [bne_iff_ne]
  rfl

theorem State.rangeAccess_of_beyond (hfoot : (s.job s.cur.job).foot < off + len.toNat) :
    s.rangeAccess k size va len = s.trapAt s.cur .addr (s.pcOf s.cur) va 0 := by
  rw [State.rangeAccess_eq h hreaches hsize, if_pos hfoot]

variable (hfoot : off + len.toNat ≤ (s.job s.cur.job).foot)

include hfoot

theorem State.rangeAccess_of_length (hlen : len.toNat % size ≠ 0) :
    s.rangeAccess k size va len = s.trapAt s.cur .align (s.pcOf s.cur) va 0 := by
  rw [State.rangeAccess_eq h hreaches hsize, if_neg (Nat.not_lt.2 hfoot), if_pos hlen]

variable (hlen : len.toNat % size = 0)

include hlen

theorem State.rangeAccess_of_empty (hzero : len = 0) : s.rangeAccess k size va len = s.advance s.cur := by
  rw [State.rangeAccess_eq h hreaches hsize, if_neg (Nat.not_lt.2 hfoot), if_neg (not_not_intro hlen), if_pos hzero]

theorem State.rangeAccess_of_parts (hpos : 0 < len.toNat) {unit : ℕ} (hunit : (if size = 8 then 8 else 1) = unit)
    {ps : List (ℕ × Part)}
    (hps : s.checkAll s.cur k true false unit []
      ((List.range (len.toNat / size)).map fun i => { idx := i, va := va + BitVec.ofNat 64 (i * size) }) = .parts ps) :
    s.rangeAccess k size va len =
      (s.beginAccess s.cur { kind := k, t := .n64, size := unit, lat := 12, scrOnly := true } ps).advance s.cur := by
  have hzero : len ≠ 0 := by
    rintro rfl
    exact absurd hpos (by decide)
  rw [State.rangeAccess_eq h hreaches hsize, if_neg (Nat.not_lt.2 hfoot), if_neg (not_not_intro hlen), if_neg hzero, hunit]
  exact State.access_of_parts (fun hrx => Bool.noConfusion hrx) hps

end

/-! ### The tag table (R201) -/

/-- The entry with which way i of the set of a key holds it. -/
def LCore.holdsKey (c : LCore) (k : Word) (gs : BitVec 5) (i : ℕ) (e : TagEntry) : Prop :=
  c.tags.get? (tagSet k gs * 4 + i) = some e ∧ e.tag = tagOf k gs ∧ e.g = gs.toNat

section

variable {c : LCore} {k : Word} {gs : BitVec 5}

theorem LCore.tagWay_eq (c : LCore) (k : Word) (gs : BitVec 5) : c.tagWay k gs =
    (List.range 4).find? fun i => (c.tags.get? (tagSet k gs * 4 + i)).any fun e => e.tag == tagOf k gs && e.g == gs.toNat := by
  refine congrArg (fun p => (List.range 4).find? p) (funext fun i => ?_)
  cases c.tags.get? (tagSet k gs * 4 + i) with
  | none => rfl
  | some e => rfl

theorem LCore.any_holdsKey_iff (i : ℕ) :
    ((c.tags.get? (tagSet k gs * 4 + i)).any fun e => e.tag == tagOf k gs && e.g == gs.toNat) = true ↔ ∃ e, c.holdsKey k gs i e := by
  simp [LCore.holdsKey, Option.any_eq_true]

/-- The first way that holds the key. -/
theorem LCore.tagWay_of_holds {i : ℕ} {e : TagEntry} (hi : i < 4) (he : c.holdsKey k gs i e)
    (hfirst : ∀ h < i, ¬∃ e, c.holdsKey k gs h e) : c.tagWay k gs = some i := by
  rw [LCore.tagWay_eq]
  refine List.find?_range_eq_some.2 ⟨(LCore.any_holdsKey_iff i).2 ⟨e, he⟩, List.mem_range.2 hi, fun h hh => ?_⟩
  rw [Bool.not_eq_true', ← Bool.not_eq_true, LCore.any_holdsKey_iff]
  exact hfirst h hh

theorem LCore.tagWay_of_not_holds (hnone : ∀ i < 4, ¬∃ e, c.holdsKey k gs i e) : c.tagWay k gs = none := by
  rw [LCore.tagWay_eq, List.find?_eq_none]
  intro i hi
  rw [LCore.any_holdsKey_iff]
  exact hnone i (List.mem_range.1 hi)

/-- A hit gives the offset of the key's byte. -/
theorem LCore.tagLook_of_holds {i : ℕ} {e : TagEntry} (hway : c.tagWay k gs = some i) (he : c.holdsKey k gs i e) :
    c.tagLook k gs = BitVec.ofNat 64 (e.off + k.toNat % 2 ^ gs.toNat) := by
  obtain ⟨hget, -, -⟩ := he
  simp only [LCore.tagLook, hway, Map.getD, hget, Option.getD_some]

/-- A miss gives the lowest way that is free. -/
theorem LCore.tagLook_of_free {i : ℕ} (hway : c.tagWay k gs = none) (hi : i < 4) (hfree : c.tags.get? (tagSet k gs * 4 + i) = none)
    (hfirst : ∀ h < i, c.tags.get? (tagSet k gs * 4 + h) ≠ none) :
    c.tagLook k gs = BitVec.ofNat 64 (2 ^ 63 + tagSet k gs * 4 + i) := by
  have hfind : (List.range 4).find? (fun h => (c.tags.get? (tagSet k gs * 4 + h)).isNone) = some i :=
    List.find?_range_eq_some.2 ⟨by rw [hfree]; rfl, List.mem_range.2 hi, fun h hh => by
      simpa [Option.isSome_iff_ne_none] using hfirst h hh⟩
  simp only [LCore.tagLook, hway, hfind]

/-- With no way free it gives the one that the victim pointer names. -/
theorem LCore.tagLook_of_filled (hway : c.tagWay k gs = none) (hfilled : ∀ i < 4, c.tags.get? (tagSet k gs * 4 + i) ≠ none) :
    c.tagLook k gs = BitVec.ofNat 64 (2 ^ 63 + 2 ^ 62 + tagSet k gs * 4 + c.victim.getD (tagSet k gs) 0) := by
  have hfind : (List.range 4).find? (fun h => (c.tags.get? (tagSet k gs * 4 + h)).isNone) = none :=
    List.find?_eq_none.2 fun i hi => by simpa using hfilled i (List.mem_range.1 hi)
  simp only [LCore.tagLook, hway, hfind]

end

/-! ### `drain` and `fence` (R205, R206) -/

section

variable (s : State) (w : Tid)

/-- What `drain` waits for. -/
theorem State.undrained_iff : s.undrained w = true ↔
    (∃ i x, (i, x) ∈ s.accs ∧ x.own = w ∧ x.returned = false ∧ (x.posted = true ∨ (x.kind.atomic = true ∧ x.dst = none))) ∨
      ∃ f ∈ (s.thread w).outbox, f.rx = true := by
  simp only [State.undrained, Bool.or_eq_true, List.any_eq_true, Prod.exists, Bool.and_eq_true, beq_iff_eq, Bool.not_eq_true',
    Option.isNone_iff_eq_none]
  refine or_congr (exists₂_congr fun i x => and_congr_right fun _ => ?_) Iff.rfl
  rw [and_assoc]
  exact and_congr_right fun _ => and_comm

/-- What `fence` waits for of an access to a scope. -/
theorem State.inScope_iff (sc : Scope) (q : Part) : s.inScope w sc q = true ↔
    match q.home, sc with
    | .scratch l, .core => l = w.lcn ∧ q.performed = false
    | .scratch l, .cluster => (s.job w.job).cluOf l = (s.job w.job).cluOf w.lcn ∧ q.performed = false
    | .scratch _, .job => q.performed = false
    | .pool, .device => q.performed = false
    | .pool, .system => q.returned = false
    | _, _ => False := by
  unfold State.inScope
  cases q.home <;> cases sc <;> simp

/-- The search of the accesses under way by which `fence` waits. -/
theorem State.any_inScope_iff (sc : Scope) :
    (s.accs.any fun (_, x) => x.own == w && x.rx && x.parts.any fun (_, q) => s.inScope w sc q) = true ↔
      ∃ i x n q, (i, x) ∈ s.accs ∧ x.own = w ∧ x.rx = true ∧ (n, q) ∈ x.parts ∧
        match q.home, sc with
        | .scratch l, .core => l = w.lcn ∧ q.performed = false
        | .scratch l, .cluster => (s.job w.job).cluOf l = (s.job w.job).cluOf w.lcn ∧ q.performed = false
        | .scratch _, .job => q.performed = false
        | .pool, .device => q.performed = false
        | .pool, .system => q.returned = false
        | _, _ => False := by
  simp only [List.any_eq_true, Prod.exists, Bool.and_eq_true, beq_iff_eq, State.inScope_iff]
  constructor
  · rintro ⟨i, x, hmem, ⟨⟨hown, hrx⟩, n, q, hpart, hscope⟩⟩
    exact ⟨i, x, n, q, hmem, hown, hrx, hpart, hscope⟩
  · rintro ⟨i, x, n, q, hmem, hown, hrx, hpart, hscope⟩
    exact ⟨i, x, hmem, ⟨⟨hown, hrx⟩, n, q, hpart, hscope⟩⟩

end

/-! ### `xlat` (R200) -/

section

variable (s : State)

theorem foldl_max_ge {α : Type} {f : ℕ → α → ℕ} (hf : ∀ c x, c ≤ f c x) (l : List α) (c : ℕ) : c ≤ l.foldl f c := by
  induction l generalizing c with
  | nil => exact le_rfl
  | cons x l ih => exact (hf c x).trans (ih (f c x))

/-- The walker is free no earlier than now. -/
theorem State.le_walkerFree (pcl : ℕ) : s.cyc ≤ s.walkerFree pcl := by
  refine foldl_max_ge (fun c p => ?_) _ _
  split
  · split
    · split
      · exact le_max_left _ _
      · exact le_rfl
    · exact le_rfl
  · exact le_rfl

/-- A state with the same jobs has the same registers. -/
theorem State.keepsJobs.sameRegs {s t : State} (h : s.keepsJobs t) : s.sameRegs t := by
  intro v
  have hthread := h.thread v
  have hcore : t.core v.job v.lcn = s.core v.job v.lcn := by simp only [State.core, State.job, h.jobs]
  refine ⟨fun r => ?_, fun r => ?_, fun q => ?_, fun k => ?_⟩
  · simp only [State.rd, hthread, hcore]
  · simp only [State.rdV, hthread, hcore]
  · simp only [State.rdQ, hthread]
  · simp only [State.rdK, hthread]

/-- A walk that is asked for ends in this cycle or later, under the name that the draw gives it (log 2). -/
theorem State.startWalk_spec (k : Walk) :
    (s.startWalk k).walks.get? s.seq = some k ∧ s.keepsJobs (s.startWalk k) ∧
      ∃ c, s.cyc ≤ c ∧ ⟨c, .translationWalk s.seq⟩ ∈ (s.startWalk k).agenda :=
  ⟨Map.get?_set_self _ _ _, .frame, _, (s.le_walkerFree _).trans (Nat.le_add_right _ _), (mem_insertPending _ _ _).2 (.inl rfl)⟩

/-- The report of a translation. -/
theorem Tlb.report_eq (t : Tlb) (reach : Bool) : ∃ v : Bool,
    t.report reach = BitVec.ofNat 64 ((if v then 1 else 0) + t.perm.toNat * 2 + t.level * 32 + t.code * 256) ∧
      (v = true ↔ reach = true ∧ t.perm.extractLsb' 0 3 ≠ 0) := by
  refine ⟨reach && t.perm.toNat % 8 != 0, rfl, ?_⟩
  rw [Bool.and_eq_true, bne_iff_ne, ne_eq, ne_eq, ← BitVec.toNat_inj, BitVec.extractLsb'_toNat]
  rfl

/-- The destination of a probe that misses is outstanding, with its lookahead window, under the name that the walk carries. -/
def State.probing (s : State) (w : Tid) (d : SReg) (la : BitVec 4) : State :=
  (s.drawn.hold w s.seq [.s d]).openWindow w s.seq la

theorem State.probing_onlyMoves (w : Tid) (d : SReg) (la : BitVec 4) : s.onlyMoves (s.probing w d la) w := by
  unfold State.probing State.openWindow State.hold
  exact ((State.onlyMoves.ofDrawn s w).andThen (State.onlyMoves.ofModThread _ w _ rfl)).andThen
    (State.onlyMoves.ofModThread _ w _ rfl)

theorem State.probing_thread (w : Tid) (d : SReg) (la : BitVec 4) : (s.probing w d la).thread w =
    { s.thread w with
      busy := (s.thread w).busy ++ ([RegRef.s d].filter fun r => !r.fixed).map fun r => (s.seq, r),
      window := (s.thread w).window ++ [(s.seq, la.toNat)] } := by
  simp only [State.probing, State.openWindow, State.hold, State.modThread_thread_self]
  rfl

/-- A probe that misses asks for a walk, holds its destination until the walk's report lands, and the thread passes on. -/
theorem State.probe_spec (w : Tid) (d : SReg) (la : BitVec 4) (k : Walk) {n : State}
    (hn : ((s.probing w d la).startWalk k).advance w = n) :
    n.pcOf w = s.pcOf w + 12 ∧ (d ≠ 0 → (s.seq, .s d) ∈ (n.thread w).busy) ∧ s.sameRegs n ∧ s.sameBytes n ∧
      ∃ id c, n.walks.get? id = some k ∧ s.cyc ≤ c ∧ ⟨c, .translationWalk id⟩ ∈ n.agenda := by
  have hmoves := s.probing_onlyMoves w d la
  obtain ⟨hwalk, hkeeps, c, hc, hevent⟩ := (s.probing w d la).startWalk_spec k
  have hpasses := State.advance_onlyMoves ((s.probing w d la).startWalk k) w
  have hthread := State.advance_thread ((s.probing w d la).startWalk k) w
  rw [hkeeps.thread, s.probing_thread] at hthread
  subst hn
  refine ⟨?_, fun hd => ?_, hmoves.sameRegs.trans (hkeeps.sameRegs.trans hpasses.sameRegs),
    hmoves.sameBytes.trans (hkeeps.sameBytes.trans hpasses.sameBytes), _, c, hwalk, hmoves.cyc ▸ hc, hevent⟩
  · rw [State.pcOf, hthread]
    rfl
  · rw [hthread]
    have hfree : (RegRef.s d).fixed = false := beq_false_of_ne hd
    simp [hfree]

end

/-! ### The instructions (R191, R203, R201, R200) -/

section

variable {s : State} {w : Tid} (hw : w = s.cur)

include hw

/-- The clauses of a range, of an instruction that means the access of a range. -/
theorem State.rangeAccess_spec {i : Instr} {k : AccKind} {size unit : ℕ} {ea v : Word}
    (hi : exec i s = .next (s.rangeAccess k size ea v)) (hunit : (if size = 8 then 8 else 1) = unit) :
    (s.place w ea = none → exec i s = .next (s.trapAt w .addr (s.pcOf w) ea 0)) ∧
    (∀ l off, s.place w ea = some (.scratch l off) → s.reaches w (.scratch l off) = true →
      (ea.toNat % size ≠ 0 → exec i s = .next (s.trapAt w .align (s.pcOf w) ea 0)) ∧
      (ea.toNat % size = 0 → (s.job w.job).foot < off + v.toNat → exec i s = .next (s.trapAt w .addr (s.pcOf w) ea 0)) ∧
      (ea.toNat % size = 0 → off + v.toNat ≤ (s.job w.job).foot → v.toNat % size ≠ 0 →
        exec i s = .next (s.trapAt w .align (s.pcOf w) ea 0)) ∧
      (ea.toNat % size = 0 → off ≤ (s.job w.job).foot → v.toNat = 0 → exec i s = .next (s.advance w)) ∧
      (ea.toNat % size = 0 → v.toNat % size = 0 → 0 < v.toNat → off + v.toNat ≤ (s.job w.job).foot →
        ∀ ps, s.checkAll w k true false unit []
            ((List.range (v.toNat / size)).map fun i => { idx := i, va := ea + BitVec.ofNat 64 (i * size) }) = .parts ps →
          exec i s = .next ((s.beginAccess w { kind := k, t := .n64, size := unit, lat := 12, scrOnly := true } ps).advance w))) := by
  subst hw
  simp only [hi, Host.Outcome.next.injEq]
  refine ⟨State.rangeAccess_of_place_none, fun l off h hreaches => ⟨State.rangeAccess_of_misaligned h hreaches,
    State.rangeAccess_of_beyond h hreaches, State.rangeAccess_of_length h hreaches, fun hsize hoff hzero => ?_,
    fun hsize hlen hpos hfoot ps hps => State.rangeAccess_of_parts h hreaches hsize hfoot hlen hpos hunit hps⟩⟩
  refine State.rangeAccess_of_empty h hreaches hsize ?_ ?_ ?_
  · rw [hzero]
    exact hoff
  · rw [hzero, Nat.zero_mod]
  · exact BitVec.eq_of_toNat_eq hzero

end

section

variable {s : State} {g : Gd} (hon : s.guardOn s.cur g = true)

include hon

/-- `tlook` writes what the table answers. -/
theorem State.tlook_yieldsLa (la : BitVec 4) (gs : BitVec 5) (d a : SReg) {v : Word}
    (hv : (s.core s.cur.job s.cur.lcn).tagLook (s.rd s.cur a) gs = v) :
    s.yieldsLa (.tlook g la gs d a) 12 la [.s d v] 0 := by
  subst hv
  exact State.exec_of_guardOn hon rfl rfl

/-- `tinv` of a key that a way holds clears that way. -/
theorem State.tinv_of_some {gs : BitVec 5} {a : SReg} {i : ℕ}
    (hway : (s.core s.cur.job s.cur.lcn).tagWay (s.rd s.cur a) gs = some i) :
    exec (.tinv g gs a) s = .next ((s.modCore s.cur.job s.cur.lcn fun c =>
      { c with tags := c.tags.del (tagSet (s.rd s.cur a) gs * 4 + i) }).advance s.cur) := by
  refine State.exec_of_guardOn hon (i := .tinv g gs a) rfl ?_
  simp only [hway]

/-- `tinv` of another key does nothing. -/
theorem State.tinv_of_none {gs : BitVec 5} {a : SReg}
    (hway : (s.core s.cur.job s.cur.lcn).tagWay (s.rd s.cur a) gs = none) :
    exec (.tinv g gs a) s = .next (s.advance s.cur) := by
  refine State.exec_of_guardOn hon (i := .tinv g gs a) rfl ?_
  simp only [hway]

/-- What `tset` checks of its offset, and what it writes. -/
theorem State.exec_tset (gs : BitVec 5) (a b : SReg) :
    exec (.tset g gs a b) s = .next
      (if (s.rd s.cur b).toNat % 2 ^ 21 % 2 ^ gs.toNat ≠ 0 ∨ (s.job s.cur.job).foot ≤ (s.rd s.cur b).toNat % 2 ^ 21 then
        s.trapAt s.cur .addr (s.pcOf s.cur) (s.rd s.cur b) 0
      else
        (s.modCore s.cur.job s.cur.lcn fun c =>
          { c with
            tags := c.tags.set (tagSet (s.rd s.cur a) gs * 4 + (s.rd s.cur b).toNat / 2 ^ 22 % 4)
              ⟨tagOf (s.rd s.cur a) gs, gs.toNat, (s.rd s.cur b).toNat % 2 ^ 21⟩
            victim := c.victim.set (tagSet (s.rd s.cur a) gs) (((s.rd s.cur b).toNat / 2 ^ 22 % 4 + 1) % 4) }).advance s.cur) := by
  refine State.exec_of_guardOn hon (i := .tset g gs a b) rfl ?_
  simp only [bitsOf, pow_zero, Nat.div_one, Bool.or_eq_true, bne_iff_ne, decide_eq_true_iff, State.trap]
  rfl

/-- What `drain` does. -/
theorem State.exec_drain : exec (.drain g) s = .next
    (if s.undrained s.cur = true then s
    else if (s.thread s.cur).sfq = [] then s.advance s.cur
    else s.trapAt s.cur .storeFault (s.pcOf s.cur) 0 (BitVec.ofNat 64 (s.thread s.cur).sfq.length)) := by
  refine State.exec_of_guardOn hon (i := .drain g) rfl ?_
  simp only [List.isEmpty_iff]
  rfl

/-- What `fence` does. -/
theorem State.exec_fence (sc : Scope) : exec (.fence g sc) s = .next
    (if (s.accs.any fun (_, x) => x.own == s.cur && x.rx && x.parts.any fun (_, q) => s.inScope s.cur sc q) = true then s
    else s.advance s.cur) :=
  State.exec_of_guardOn hon (i := .fence g sc) rfl rfl

variable {la : BitVec 4} {d a : SReg} {imm : BitVec 32}

/-- An address that is no place reports 0. -/
theorem State.xlat_of_place_none (h : s.place s.cur (s.rd s.cur a + imm.signExtend 64) = none) :
    s.yieldsLa (.xlat g la d a imm) 12 la [.s d 0] 0 := by
  refine State.exec_of_guardOn hon (i := .xlat g la d a imm) rfl ?_
  simp only [State.eaImm, h]

/-- One of scratch reports its permissions, where the routers let it through. -/
theorem State.xlat_of_scratch {l off : ℕ} (h : s.place s.cur (s.rd s.cur a + imm.signExtend 64) = some (.scratch l off)) :
    s.yieldsLa (.xlat g la d a imm) 12 la [.s d (if s.reaches s.cur (.scratch l off) = true then 0xF07 else 0)] 0 := by
  refine State.exec_of_guardOn hon (i := .xlat g la d a imm) rfl ?_
  simp only [State.eaImm, h]

/-- One of the pool with its translation at hand reports that. -/
theorem State.xlat_of_cached {va : ℕ} {t : Tlb} (h : s.place s.cur (s.rd s.cur a + imm.signExtend 64) = some (.pool va))
    (ht : s.cached (s.phys s.cur.job s.cur.lcn) s.cur.job va = some t) :
    s.yieldsLa (.xlat g la d a imm) 12 la [.s d (t.report (s.dev.slice (t.frame + va % t.size)).isSome)] 0 := by
  refine State.exec_of_guardOn hon (i := .xlat g la d a imm) rfl ?_
  simp only [State.eaImm, h, ht]

/-- One of the pool without it asks for a walk. -/
theorem State.xlat_of_not_cached {va : ℕ} (h : s.place s.cur (s.rd s.cur a + imm.signExtend 64) = some (.pool va))
    (ht : s.cached (s.phys s.cur.job s.cur.lcn) s.cur.job va = none) :
    exec (.xlat g la d a imm) s = .next (((s.probing s.cur d la).startWalk
      { own := s.cur, pc := s.pcOf s.cur, va := s.rd s.cur a + imm.signExtend 64, write := false, atomic := false, exec := false,
        post := none, eng := none, probe := some (d, s.seq) }).advance s.cur) := by
  refine State.exec_of_guardOn hon (i := .xlat g la d a imm) rfl ?_
  simp only [State.eaImm, h, ht]
  rfl

/-- One of the system space reports what the manual leaves open, below bit 12. -/
theorem State.xlat_of_system {x : Place} (h : s.place s.cur (s.rd s.cur a + imm.signExtend 64) = some x)
    (hscratch : ∀ l o, x ≠ .scratch l o) (hpool : ∀ v, x ≠ .pool v) :
    s.yieldsLa (.xlat g la d a imm) 12 la [.s d (Config.xlatSystem (s.rd s.cur a + imm.signExtend 64) &&& 0xFFF)] 0 := by
  refine State.exec_of_guardOn hon (i := .xlat g la d a imm) rfl ?_
  simp only [State.eaImm, h]

end

/-- Settles O46: a range passes its checks in the order of `State.rangeAccess_eq`, the tag table is searched in the order of the
ways, and what `drain` and `fence` wait for is a search of the accesses under way. -/
theorem rangesTagsAndOrder : Obligations.RangesTagsAndOrder := by
  intro s g la gs sc d a b m imm hon _ _
  refine ⟨State.rangeAccess_spec rfl (State.exec_of_guardOn hon (i := .fe g m a b imm) rfl rfl) rfl,
    State.rangeAccess_spec rfl (State.exec_of_guardOn hon (i := .guard g m a b imm) rfl rfl) rfl,
    ⟨?_, ?_, ?_, ?_, ?_⟩, ⟨?_, ?_⟩, ⟨?_, ?_⟩, State.xlat_of_place_none hon, ?_, fun l off => State.xlat_of_scratch hon, ?_, ?_⟩
  · intro i e hi hget htag hg hfirst
    have hway := LCore.tagWay_of_holds hi ⟨hget, htag, hg⟩ hfirst
    exact ⟨State.tlook_yieldsLa hon la gs d a (LCore.tagLook_of_holds hway ⟨hget, htag, hg⟩), State.tinv_of_some hon hway⟩
  · intro hnone
    have hway := LCore.tagWay_of_not_holds hnone
    exact ⟨fun i hi hfree hfirst => State.tlook_yieldsLa hon la gs d a (LCore.tagLook_of_free hway hi hfree hfirst),
      fun hfilled => State.tlook_yieldsLa hon la gs d a (LCore.tagLook_of_filled hway hfilled), State.tinv_of_none hon hway⟩
  · exact State.exec_of_guardOn hon (i := .tinvAll g) rfl rfl
  · intro hbad
    rw [State.exec_tset hon, if_pos hbad]
  · intro halign hbelow
    rw [State.exec_tset hon, if_neg (not_or.2 ⟨not_not_intro halign, Nat.not_le.2 hbelow⟩)]
    rfl
  · intro hposted
    rw [State.exec_drain hon, if_pos ((State.undrained_iff s _).2 hposted)]
  · intro hposted
    rw [State.exec_drain hon, if_neg (mt (State.undrained_iff s _).1 hposted)]
  · intro hwaits
    rw [State.exec_fence hon, if_pos ((State.any_inScope_iff s _ sc).2 hwaits)]
  · intro hwaits
    rw [State.exec_fence hon, if_neg (mt (State.any_inScope_iff s _ sc).1 hwaits)]
  · intro x hx hscratch hpool
    refine ⟨_, ?_, State.xlat_of_system hon hx hscratch hpool⟩
    rw [BitVec.toNat_and]
    exact Nat.and_lt_two_pow _ (n := 12) (by decide)
  · intro va hva hmiss
    obtain ⟨hpc, hbusy, hregs, hbytes, id, c, hwalk, hc, hevent⟩ := State.probe_spec s s.cur d la _ rfl
    exact ⟨_, id, _, c, State.xlat_of_not_cached hon hva hmiss, hpc, hbusy, hwalk, rfl, rfl, rfl, hc, hevent, hregs, hbytes⟩
  · intro va t hva ht _ _
    obtain ⟨v, hreport, hv⟩ := t.report_eq (s.dev.slice (t.frame + va % t.size)).isSome
    refine ⟨v, hreport ▸ State.xlat_of_cached hon hva ht, ?_⟩
    rw [hv, Option.isSome_iff_exists]

end Sys2Proof.Machine

/-!
PROOFS. The start of an access: obligation O43.

A part that lies in the own scratch goes to its bank and changes nothing else but the bank's time and the agenda; before its parts
leave, an access is entered with the thread and its destination held. Each instruction of classes 0x6 and 0x7 is one such access.
-/

namespace Sys2Proof.Machine

/-! ### A part on its way to a bank of its own core (R188) -/

/-- From `s` to `t` no access and no job changes, no logical cluster moves, and nothing leaves the agenda. -/
structure State.toBanks (s t : State) : Prop where
  keeps : s.keepsJobs t
  accs : t.accs = s.accs
  cyc : t.cyc = s.cyc
  seat : ∀ j c, t.seat j c = s.seat j c
  agenda : ∀ e ∈ s.agenda, e ∈ t.agenda

theorem State.toBanks.refl (s : State) : s.toBanks s := ⟨.refl s, rfl, rfl, fun _ _ => rfl, fun _ => id⟩

theorem State.toBanks.trans {s t u : State} (h : s.toBanks t) (k : t.toBanks u) : s.toBanks u :=
  ⟨h.keeps.trans k.keeps, k.accs.trans h.accs, k.cyc.trans h.cyc, fun j c => (k.seat j c).trans (h.seat j c),
    fun e he => k.agenda e (h.agenda e he)⟩

theorem State.toBanks.part? {s t : State} (h : s.toBanks t) (aid p : ℕ) : t.part? aid p = s.part? aid p := by
  simp only [State.part?, h.accs]

theorem State.toBanks.phys? {s t : State} (h : s.toBanks t) (j l : ℕ) : t.phys? j l = s.phys? j l := by
  simp only [State.phys?, h.seat, State.job, h.keeps.jobs]

section

variable {s : State}

/-- A logical cluster stands where it stood while JOBREG stays. -/
theorem State.modPCore_seat (pc : ℕ) (f : PCore → PCore) (hf : (f (s.pcore pc)).jobreg = (s.pcore pc).jobreg) (j c : ℕ) :
    (s.modPCore pc f).seat j c = s.seat j c := by
  have hjobreg (i : ℕ) : ((s.modPCore pc f).pcore i).jobreg = (s.pcore i).jobreg := by
    by_cases hi : i = pc
    · rw [hi, State.modPCore_pcore_self, hf]
    · rw [State.modPCore_pcore_ne _ _ _ _ hi]
  simp only [State.seat, hjobreg]
  rfl

/-- The cycle in which a bank takes the access of a byte that starts now on its way of `d` cycles. -/
theorem State.bankSlot_spec (pc b d : ℕ) :
    s.toBanks (s.bankSlot pc b d).1 ∧ s.cyc + d ≤ (s.bankSlot pc b d).2 ∧
      ((s.pcore pc).bank.get? (b / 32 % 16) = none → (s.bankSlot pc b d).2 = s.cyc + d) := by
  have hkeeps : s.keepsJobs (s.bankSlot pc b d).1 := by
    simp only [State.bankSlot]
    exact s.modPCore_keepsJobs pc _ fun _ => rfl
  refine ⟨⟨hkeeps, rfl, rfl, s.modPCore_seat pc _ rfl, fun _ => id⟩, ?_, fun hfree => ?_⟩
  · simp only [State.bankSlot]
    split
    · exact le_max_left _ _
    · exact le_rfl
  · simp only [State.bankSlot, hfree]

variable {aid p : ℕ} {a : Access} {q : Part} (hpart : s.part? aid p = some (a, q)) (hhome : q.home = .scratch a.own.lcn)
  (hphys : (s.phys? a.own.job a.own.lcn).isSome = true)

include hpart hhome hphys

omit hphys in
/-- A part for the own scratch takes no link. -/
theorem State.dispatchPart_own : s.dispatchPart aid p = s.toBank aid p := by
  simp only [State.dispatchPart, hpart, hhome, bne_self_eq_false, Bool.and_false, Bool.false_eq_true, if_false]

theorem State.toBank_own {e : Elem} {es : List Elem} (helems : q.elems = e :: es) : s.toBank aid p =
    (s.bankSlot (s.phys a.own.job a.own.lcn) (s.seg a.own.job a.own.lcn + e.at_)).1.atCycle
      (s.bankSlot (s.phys a.own.job a.own.lcn) (s.seg a.own.job a.own.lcn + e.at_)).2 (.remoteAccess aid p) := by
  obtain ⟨home, slice, elems, sent, performed, returned, fault, hits, hitVa, subst, flags⟩ := q
  simp only at hhome helems
  subst hhome helems
  have hserves : s.serves a.own.job a.own.lcn a.own.lcn = true := by simp [State.serves, hphys]
  simp only [State.toBank, hpart, hserves, Bool.not_true, Bool.false_eq_true, if_false]

theorem State.dispatchPart_toBanks : s.toBanks (s.dispatchPart aid p) := by
  rw [State.dispatchPart_own hpart hhome]
  cases helems : q.elems with
  | nil =>
    obtain ⟨home, slice, elems, sent, performed, returned, fault, hits, hitVa, subst, flags⟩ := q
    simp only at hhome helems
    subst hhome helems
    simp only [State.toBank, hpart]
    exact .refl s
  | cons e es =>
    rw [State.toBank_own hpart hhome hphys helems]
    obtain ⟨hbanks, -, -⟩ := s.bankSlot_spec (s.phys a.own.job a.own.lcn) (s.seg a.own.job a.own.lcn + e.at_) 4
    exact hbanks.trans ⟨.frame, rfl, rfl, fun _ _ => rfl, fun x hx => (mem_insertPending _ _ _).2 (.inr hx)⟩

/-- The bank takes the part 4 cycles on, or after what is before it. -/
theorem State.dispatchPart_due {e : Elem} {es : List Elem} (helems : q.elems = e :: es) : ∃ c, s.cyc + 4 ≤ c ∧
    ⟨c, .remoteAccess aid p⟩ ∈ (s.dispatchPart aid p).agenda ∧
    ((s.pcore (s.phys a.own.job a.own.lcn)).bank.get? ((s.seg a.own.job a.own.lcn + e.at_) / 32 % 16) = none → c = s.cyc + 4) := by
  rw [State.dispatchPart_own hpart hhome, State.toBank_own hpart hhome hphys helems]
  obtain ⟨-, hle, hfree⟩ := s.bankSlot_spec (s.phys a.own.job a.own.lcn) (s.seg a.own.job a.own.lcn + e.at_) 4
  exact ⟨_, hle, (mem_insertPending _ _ _).2 (.inl rfl), hfree⟩

end

/-- Of the parts of an access that lie in the own scratch each goes to its bank. -/
theorem State.foldl_dispatchPart_own {aid : ℕ} {a : Access} (l : List (ℕ × Part)) (s : State)
    (hparts : ∀ p ∈ l, s.part? aid p.1 = some (a, p.2) ∧ p.2.home = .scratch a.own.lcn)
    (hphys : (s.phys? a.own.job a.own.lcn).isSome = true) :
    s.toBanks (l.foldl (fun s (i, _) => s.dispatchPart aid i) s) ∧
      ∀ p ∈ l, p.2.elems ≠ [] → ∃ c, s.cyc + 4 ≤ c ∧
        ⟨c, .remoteAccess aid p.1⟩ ∈ (l.foldl (fun s (i, _) => s.dispatchPart aid i) s).agenda := by
  induction l generalizing s with
  | nil => exact ⟨.refl s, fun p hp => nomatch hp⟩
  | cons r l ih =>
    obtain ⟨hpart, hhome⟩ := hparts r (.head l)
    have hbanks := State.dispatchPart_toBanks hpart hhome hphys
    obtain ⟨hrest, hdue⟩ := ih (s.dispatchPart aid r.1)
      (fun p hp => ⟨(hbanks.part? _ _).trans (hparts p (.tail r hp)).1, (hparts p (.tail r hp)).2⟩) (by rwa [hbanks.phys?])
    refine ⟨hbanks.trans hrest, fun p hp helems => ?_⟩
    rcases List.mem_cons.1 hp with rfl | hp
    · obtain ⟨e, es, hcons⟩ := List.exists_cons_of_ne_nil helems
      obtain ⟨c, hc, hevent, -⟩ := State.dispatchPart_due hpart hhome hphys hcons
      exact ⟨c, hc, hrest.agenda _ hevent⟩
    · rw [← hbanks.cyc]
      exact hdue p hp helems

/-- A list numbered from `k` on, read as a map. -/
theorem Map.get?_mapIdx_add {α : Type} (l : List (ℕ × α)) (i k : ℕ) :
    Map.get? (l.mapIdx fun i p => (i + k, p.2)) (i + k) = l[i]?.map Prod.snd := by
  induction l generalizing i k with
  | nil => rfl
  | cons p l ih =>
    rw [List.mapIdx_cons, Map.get?]
    cases i with
    | zero => simp
    | succ i =>
      rw [if_neg (by omega)]
      simpa [Nat.add_assoc, Nat.add_comm 1 k] using ih i (k + 1)

/-- The parts of an access are numbered in the order of the list. -/
theorem Map.get?_mapIdx_snd {α : Type} (l : List (ℕ × α)) (i : ℕ) :
    Map.get? (l.mapIdx fun i p => (i, p.2)) i = l[i]?.map Prod.snd := Map.get?_mapIdx_add l i 0

/-! ### What an access begins with (R42, R43, R187) -/

/-- The access that an instruction begins. -/
def State.accessOf (s : State) (w : Tid) (x : AccSpec) (ps : List (ℕ × Part)) : Access :=
  { id := s.seq, own := w, pc := s.pcOf w, kind := x.kind, t := x.t, size := x.size, vec := x.vec, rx := x.rx, lat := x.lat,
    posted := x.posted, dst := x.dst, fseq := (s.thread w).fseq, parts := ps.mapIdx fun i p => (i, p.2) }

/-- How the thread counts the access: as the ordinary one or among the relaxed ones, and in FSEQ when it is posted. -/
def Thread.counts (x : AccSpec) (id : ℕ) (t : Thread) : Thread :=
  { t with
    ordAcc := if x.rx then t.ordAcc else some id
    relaxed := if x.rx then t.relaxed ++ [id] else t.relaxed
    fseq := if x.posted then (t.fseq + 1) % 65536 else t.fseq }

/-- The access is listed and counted. -/
def State.counted (s : State) (w : Tid) (x : AccSpec) (ps : List (ℕ × Part)) : State :=
  { s.drawn with accs := s.accs.set s.seq (s.accessOf w x ps) }.modThread w (Thread.counts x s.seq)

/-- Its destination is held too, and its lookahead window open. -/
def State.entered (s : State) (w : Tid) (x : AccSpec) (ps : List (ℕ × Part)) : State :=
  let held := x.dst.elim (s.counted w x ps) fun r => (s.counted w x ps).hold w s.seq [r]
  x.la.elim held (held.openWindow w s.seq)

/-- The start of an access: it is entered, and then its parts leave; the first alone where words or granules are changed one by
one. -/
theorem State.beginAccess_eq (s : State) (w : Tid) (x : AccSpec) (ps : List (ℕ × Part)) : s.beginAccess w x ps =
    (if x.kind.serial then (s.accessOf w x ps).parts.take 1 else (s.accessOf w x ps).parts).foldl
      (fun t (i, _) => t.dispatchPart s.seq i) (s.entered w x ps) := by
  obtain ⟨kind, t, size, lat, vec, rx, posted, scrOnly, dst, la⟩ := x
  cases dst <;> cases la <;> rfl


section

variable {s : State} {w : Tid} {x : AccSpec} {ps : List (ℕ × Part)}

theorem State.hold_onlyMoves (s : State) (w : Tid) (id : ℕ) (rs : List RegRef) : s.onlyMoves (s.hold w id rs) w :=
  State.onlyMoves.ofModThread s w _ rfl

theorem State.openWindow_onlyMoves (s : State) (w : Tid) (id : ℕ) (la : BitVec 4) : s.onlyMoves (s.openWindow w id la) w :=
  State.onlyMoves.ofModThread s w _ rfl

theorem State.entered_onlyMoves : (s.counted w x ps).onlyMoves (s.entered w x ps) w := by
  have hheld : (s.counted w x ps).onlyMoves (x.dst.elim (s.counted w x ps) fun r => (s.counted w x ps).hold w s.seq [r]) w := by
    cases x.dst with
    | none => exact .refl _ w
    | some r => exact State.hold_onlyMoves _ w _ _
  unfold State.entered
  cases x.la with
  | none => exact hheld
  | some n => exact hheld.andThen (State.openWindow_onlyMoves _ w _ n)

theorem State.entered_sameRegs : s.sameRegs (s.entered w x ps) :=
  State.keepsJobs.sameRegs (t := { s.drawn with accs := s.accs.set s.seq (s.accessOf w x ps) }) .frame
    |>.trans (State.sameRegs.ofModThread _ w _ rfl rfl rfl rfl) |>.trans State.entered_onlyMoves.sameRegs

theorem State.entered_sameBytes : s.sameBytes (s.entered w x ps) :=
  State.keepsJobs.sameBytes (t := { s.drawn with accs := s.accs.set s.seq (s.accessOf w x ps) }) .frame
    |>.trans (State.modThread_sameBytes _ w _) |>.trans State.entered_onlyMoves.sameBytes

theorem State.entered_seat (j c : ℕ) : (s.entered w x ps).seat j c = s.seat j c := by
  rw [State.entered_onlyMoves.seat, State.counted, State.modThread_seat]
  rfl

/-- What a job holds beside its cores stays. -/
theorem State.entered_jobField {α : Type} (f : Job → α) (hf : ∀ b : Job, f b = f b.bare) (j : ℕ) :
    f ((s.entered w x ps).job j) = f (s.job j) := by
  rw [State.entered_onlyMoves.jobField f hf, State.counted, hf, State.modThread_job_bare, ← hf]
  rfl

theorem State.entered_phys? (j l : ℕ) : (s.entered w x ps).phys? j l = s.phys? j l := by
  have hclu := State.entered_jobField (s := s) (w := w) (x := x) (ps := ps) (Job.cluOf · l) (fun _ => rfl) j
  have hmem := State.entered_jobField (s := s) (w := w) (x := x) (ps := ps) (Job.memOf · l) (fun _ => rfl) j
  simp only [State.phys?, State.entered_seat, hclu, hmem]

theorem State.entered_seg (j l : ℕ) : (s.entered w x ps).seg j l = s.seg j l := by
  have hclu := State.entered_jobField (s := s) (w := w) (x := x) (ps := ps) (Job.cluOf · l) (fun _ => rfl) j
  have hfoot := State.entered_jobField (s := s) (w := w) (x := x) (ps := ps) Job.foot (fun _ => rfl) j
  simp only [State.seg, State.foldG, State.entered_seat, hclu, hfoot]

theorem State.entered_pcore (pc : ℕ) : (s.entered w x ps).pcore pc = s.pcore pc := by
  rw [State.pcore, State.entered_onlyMoves.pcores]
  rfl

theorem State.entered_cyc : (s.entered w x ps).cyc = s.cyc := by
  rw [State.entered_onlyMoves.cyc]
  rfl

theorem State.entered_accs : (s.entered w x ps).accs.get? s.seq = some (s.accessOf w x ps) := by
  rw [State.entered_onlyMoves.accs]
  exact Map.get?_set_self _ _ _

theorem State.counted_thread : (s.counted w x ps).thread w = Thread.counts x s.seq (s.thread w) :=
  State.modThread_thread_self _ _ _

/-- An ordinary access is the thread's ordinary one. -/
theorem State.entered_ordAcc (hrx : x.rx = false) : ((s.entered w x ps).thread w).ordAcc = some s.seq := by
  rw [State.entered_onlyMoves.field (fun t => t.ordAcc) (fun _ => rfl) w, State.counted_thread]
  simp only [Thread.counts, hrx, Bool.false_eq_true, if_false]

/-- The thread is still at the instruction. -/
theorem State.entered_pc : ((s.entered w x ps).thread w).pc = (s.thread w).pc := by
  have hheld : ((x.dst.elim (s.counted w x ps) fun r => (s.counted w x ps).hold w s.seq [r]).thread w).pc = (s.thread w).pc := by
    cases x.dst with
    | none =>
      have hcounted := State.counted_thread (s := s) (w := w) (x := x) (ps := ps)
      rw [Option.elim_none, hcounted]
      rfl
    | some r => simp [State.hold, State.counted_thread, Thread.counts]
  unfold State.entered
  cases x.la with
  | none => exact hheld
  | some n => simpa [State.openWindow] using hheld

/-- Its destination is outstanding. -/
theorem State.entered_busy {r : RegRef} (hdst : x.dst = some r) (hr : r.fixed = false) :
    (s.seq, r) ∈ ((s.entered w x ps).thread w).busy := by
  have hheld : (s.seq, r) ∈ (((s.counted w x ps).hold w s.seq [r]).thread w).busy := by
    simp [State.hold, hr]
  unfold State.entered
  rw [hdst]
  cases x.la with
  | none => exact hheld
  | some n => simpa [State.openWindow] using hheld

/-- An access all of which lies in the own scratch is under way, and its parts are on their way to their banks. -/
theorem State.beginAccess_own (hserial : x.kind.serial = false) (hown : ∀ p ∈ ps, p.2.home = .scratch w.lcn)
    (hphys : (s.phys? w.job w.lcn).isSome = true) :
    (s.entered w x ps).toBanks (s.beginAccess w x ps) ∧
      ∀ i, i < ps.length → (∀ p ∈ ps, p.2.elems ≠ []) →
        ∃ c, s.cyc + 4 ≤ c ∧ ⟨c, .remoteAccess s.seq i⟩ ∈ (s.beginAccess w x ps).agenda := by
  have hparts : ∀ p ∈ (s.accessOf w x ps).parts,
      (s.entered w x ps).part? s.seq p.1 = some (s.accessOf w x ps, p.2) ∧ p.2.home = .scratch (s.accessOf w x ps).own.lcn := by
    intro p hp
    obtain ⟨i, hi, rfl⟩ := List.mem_mapIdx.1 hp
    refine ⟨?_, hown ps[i] (List.getElem_mem hi)⟩
    simp only [State.part?, State.entered_accs, Option.bind_some]
    rw [State.accessOf, Map.get?_mapIdx_snd, List.getElem?_eq_getElem hi]
    rfl
  obtain ⟨hbanks, hdue⟩ := State.foldl_dispatchPart_own _ _ hparts (by rwa [State.entered_phys?])
  rw [State.beginAccess_eq, if_neg (by simp [hserial])]
  refine ⟨hbanks, fun i hi helems => ?_⟩
  rw [← State.entered_cyc (s := s) (w := w) (x := x) (ps := ps)]
  exact hdue (i, ps[i].2) (List.mem_mapIdx.2 ⟨i, hi, rfl⟩) (helems ps[i] (List.getElem_mem hi))

/-- One part to a bank that nothing uses is there in 4 cycles. -/
theorem State.beginAccess_single (hserial : x.kind.serial = false) {k : ℕ} {q : Part} {e : Elem} (hps : ps = [(k, q)])
    (hown : q.home = .scratch w.lcn) {pc : ℕ} (hphys : s.phys? w.job w.lcn = some pc) (helems : q.elems = [e])
    (hbank : (s.pcore pc).bank.get? ((s.seg w.job w.lcn + e.at_) / 32 % 16) = none) :
    ⟨s.cyc + 4, .remoteAccess s.seq 0⟩ ∈ (s.beginAccess w x ps).agenda := by
  subst hps
  have hpart : (s.entered w x [(k, q)]).part? s.seq 0 = some (s.accessOf w x [(k, q)], q) := by
    simp only [State.part?, State.entered_accs, Option.bind_some]
    rfl
  have hplace := State.entered_phys? (s := s) (w := w) (x := x) (ps := [(k, q)]) w.job w.lcn
  obtain ⟨c, -, hevent, hfree⟩ := State.dispatchPart_due hpart hown (by rw [State.accessOf, hplace, hphys]; rfl) helems
  have hidle : c = s.cyc + 4 := by
    rw [State.entered_pcore, State.entered_seg, State.entered_cyc, State.phys] at hfree
    refine hfree ?_
    simp only [State.accessOf, hplace, hphys, Option.getD_some]
    exact hbank
  rw [State.beginAccess_eq, if_neg (by simp [hserial]), ← hidle]
  exact hevent

end

/-! ### What each access instruction does -/

/-- The access `x`, of parts all of which lie in the own scratch, is under way in `n`. -/
def State.underWay (s : State) (x : AccSpec) (ps : List (ℕ × Part)) (pc : ℕ) (n : State) : Prop :=
  n.accs.get? s.seq = some (s.accessOf s.cur x ps) ∧
    n.pcOf s.cur = s.pcOf s.cur + 12 ∧ (x.rx = false → (n.thread s.cur).ordAcc = some s.seq) ∧
    (∀ r, x.dst = some r → r ≠ .s 0 → (s.seq, r) ∈ (n.thread s.cur).busy) ∧
    (∀ i, i < ps.length → (∀ p ∈ ps, p.2.elems ≠ []) → ∃ c, s.cyc + 4 ≤ c ∧ ⟨c, .remoteAccess s.seq i⟩ ∈ n.agenda) ∧
    (∀ (k : ℕ) (q : Part) (e : Elem), ps = [(k, q)] → q.elems = [e] →
      (s.pcore pc).bank.get? ((s.seg s.cur.job s.cur.lcn + e.at_) / 32 % 16) = none →
      ⟨s.cyc + 4, .remoteAccess s.seq 0⟩ ∈ n.agenda) ∧
    s.sameRegs n ∧ s.sameBytes n

/-- The instruction `i` means the access `x` to the elements `es`: it parks, traps or begins the access. -/
def State.does (s : State) (i : Instr) (x : AccSpec) (es : List ElemReq) : Prop :=
  (x.rx = true → 16 ≤ (s.thread s.cur).relaxed.length → exec i s = .next (s.park s.cur .relaxed 0 false .reissue)) ∧
  ((x.rx = true → (s.thread s.cur).relaxed.length < 16) →
    (∀ c va, s.checkAll s.cur x.kind x.scrOnly x.posted x.size [] es = .stop (.trap c) va →
      exec i s = .next (s.trapAt s.cur c (s.pcOf s.cur) va 0)) ∧
    ∀ ps, s.checkAll s.cur x.kind x.scrOnly x.posted x.size [] es = .parts ps → ∃ n,
      exec i s = .next n ∧ n = (s.beginAccess s.cur x ps).advance s.cur ∧
      ((∀ p ∈ ps, p.2.home = .scratch s.cur.lcn) → ∀ pc, s.phys? s.cur.job s.cur.lcn = some pc → s.underWay x ps pc n))

section

variable {s : State} {x : AccSpec}

/-- What has begun of an access whose destination, if it is not x0, is one that can be outstanding. -/
theorem State.beginAccess_underWay (hserial : x.kind.serial = false) (hdst : ∀ r, x.dst = some r → r ≠ .s 0 → r.fixed = false)
    {ps : List (ℕ × Part)} (hown : ∀ p ∈ ps, p.2.home = .scratch s.cur.lcn) {pc : ℕ}
    (hphys : s.phys? s.cur.job s.cur.lcn = some pc) :
    s.underWay x ps pc ((s.beginAccess s.cur x ps).advance s.cur) := by
  obtain ⟨hbanks, hdue⟩ := State.beginAccess_own (x := x) hserial hown (by rw [hphys]; rfl)
  have hpasses := State.advance_onlyMoves (s.beginAccess s.cur x ps) s.cur
  have hthread := State.advance_thread (s.beginAccess s.cur x ps) s.cur
  rw [hbanks.keeps.thread] at hthread
  refine ⟨?_, ?_, fun hrx => ?_, fun r hr hx0 => ?_, hdue, fun k q e hps helems hbank => ?_,
    State.entered_sameRegs.trans (hbanks.keeps.sameRegs.trans hpasses.sameRegs),
    State.entered_sameBytes.trans (hbanks.keeps.sameBytes.trans hpasses.sameBytes)⟩
  · rw [hpasses.accs, hbanks.accs, State.entered_accs]
  · rw [State.pcOf, hthread, State.entered_pc]
    rfl
  · rw [hthread]
    exact State.entered_ordAcc hrx
  · rw [hthread]
    exact State.entered_busy hr (hdst r hr hx0)
  · exact State.beginAccess_single hserial hps (hown (k, q) (hps ▸ List.mem_singleton_self _)) hphys helems hbank

theorem State.does_of_access {i : Instr} {es : List ElemReq} (hi : exec i s = .next (s.access s.cur x es))
    (hserial : x.kind.serial = false) (hdst : ∀ r, x.dst = some r → r ≠ .s 0 → r.fixed = false) : s.does i x es := by
  refine ⟨fun hrx hfull => ?_, fun hroom => ⟨fun c va hstop => ?_, fun ps hps => ⟨_, ?_, rfl, fun hown pc hphys => ?_⟩⟩⟩
  · rw [hi, State.access_of_full hrx hfull]
  · rw [hi, State.access_of_trap hroom hstop]
  · rw [hi, State.access_of_parts hroom hps]
  · exact State.beginAccess_underWay hserial hdst hown hphys

end

theorem AccSpec.no_dst (r : RegRef) (h : none = some r) (_ : r ≠ .s 0) : r.fixed = false := nomatch h

theorem AccSpec.scalar_dst {d : SReg} (r : RegRef) (h : some (RegRef.s d) = some r) (hr : r ≠ .s 0) : r.fixed = false := by
  cases h
  exact beq_false_of_ne fun hd => hr (congrArg RegRef.s hd)

theorem AccSpec.vector_dst {v : VReg} (r : RegRef) (h : some (RegRef.v v) = some r) (_ : r ≠ .s 0) : r.fixed = false := by
  cases h
  rfl

/-- Of at most 64 elements each has its lane. -/
theorem elemReqs_congr {n : ℕ} (hn : n ≤ 64) {va va' x x' : ℕ → Word} (hva : ∀ e < 64, va e = va' e) (hx : ∀ e < 64, x e = x' e) :
    elemReqs n va x = (List.range n).map fun e => { idx := e, va := va' e, val := x' e } := by
  refine List.map_congr_left fun e he => ?_
  have hlane : e < 64 := Nat.lt_of_lt_of_le (List.mem_range.1 he) hn
  rw [hva e hlane, hx e hlane]

/-- A lane of a vector register, as the model reads it and as the statement does. -/
theorem lane_eq (y : Vec) {e : ℕ} (he : e < 64) :
    (y[e % 64]'(Nat.mod_lt _ (by decide))).zeroExtend 64 = if h : e < 64 then y[e].zeroExtend 64 else 0 := by
  simp only [he, dite_true, Nat.mod_eq_of_lt he]

section

variable {s : State} {g : Gd} (hon : s.guardOn s.cur g = true) {rx scr : Bool} {t : Ty} {la : BitVec 4}

include hon

theorem State.does_loadS {i : Instr} {k : AccKind} {d : SReg} {va : Word} (hserial : k.serial = false)
    (hi : exec i s = .next (if s.guardOn s.cur g then s.loadS k la rx t d va else s.advance s.cur)) :
    s.does i { kind := k, t := t, size := t.bytes, lat := 12, rx := rx, scrOnly := k.scratchOnly, dst := some (.s d), la := some la }
      [{ idx := 0, va := va }] :=
  State.does_of_access (State.exec_of_guardOn hon hi rfl) hserial AccSpec.scalar_dst

theorem State.does_storeS {i : Instr} {k : AccKind} {d : SReg} {va : Word} (hserial : k.serial = false)
    (hi : exec i s = .next (if s.guardOn s.cur g then s.storeS k rx t d va else s.advance s.cur)) :
    s.does i { kind := k, t := t, size := t.bytes, lat := 12, rx := rx, posted := rx, scrOnly := k.scratchOnly }
      [{ idx := 0, va := va, val := s.rd s.cur d }] :=
  State.does_of_access (State.exec_of_guardOn hon hi rfl) hserial AccSpec.no_dst

theorem State.does_atomic {i : Instr} {k : AccKind} {d : SReg} {va val cmp : Word} (hserial : k.serial = false)
    (hi : exec i s = .next (if s.guardOn s.cur g then s.atomic k la rx t d va val cmp else s.advance s.cur)) :
    s.does i { kind := k, t := t, size := t.bytes, lat := 16, rx := rx, dst := some (.s d), la := some la }
      [{ idx := 0, va := va, val := val, cmp := cmp }] :=
  State.does_of_access (State.exec_of_guardOn hon hi rfl) hserial AccSpec.scalar_dst

theorem State.does_update {i : Instr} {k : AccKind} {va val : Word} (hserial : k.serial = false)
    (hi : exec i s = .next (if s.guardOn s.cur g then s.update k rx t va val else s.advance s.cur)) :
    s.does i { kind := k, t := t, size := t.bytes, lat := 16, rx := rx, posted := rx } [{ idx := 0, va := va, val := val }] :=
  State.does_of_access (State.exec_of_guardOn hon hi rfl) hserial AccSpec.no_dst

variable {cnt : BitVec 8} (hcnt : cnt.toNat ≤ 64) {v : VReg} {va va' : ℕ → Word} (hva : ∀ e < 64, va e = va' e)

include hcnt hva

theorem State.does_loadV {i : Instr}
    (hi : exec i s = .next (if s.guardOn s.cur g then s.loadV la rx t scr cnt v va else s.advance s.cur)) :
    s.does i
      { kind := .load, t := t, size := t.bytes, lat := 16, vec := true, rx := rx, scrOnly := scr, dst := some (.v v), la := some la }
      ((List.range cnt.toNat).map fun e => { idx := e, va := va' e, val := 0 }) :=
  State.does_of_access (State.exec_of_guardOn hon hi (by rw [State.loadV, elemReqs_congr hcnt hva fun _ _ => rfl])) rfl
    AccSpec.vector_dst

theorem State.does_storeV {i : Instr}
    (hi : exec i s = .next (if s.guardOn s.cur g then s.storeV rx t scr cnt v va else s.advance s.cur)) :
    s.does i
      { kind := .store, t := t, size := t.bytes, lat := 12, vec := true, rx := rx, posted := rx, scrOnly := scr }
      ((List.range cnt.toNat).map fun e =>
        { idx := e, va := va' e, val := if h : e < 64 then (s.rdV s.cur v)[e].zeroExtend 64 else 0 }) :=
  State.does_of_access
    (State.exec_of_guardOn hon hi (by simp only [State.storeV, elemReqs_congr hcnt hva fun _ => lane_eq (s.rdV s.cur v)])) rfl
    AccSpec.no_dst

end

/-- Settles O43: each instruction is one access of its elements, and what an access does by its limit and its checks is
`State.does_of_access`. -/
theorem accessesBegin : Obligations.AccessesBegin := by
  intro s g la rx t cnt sh op fop rm d a b v u ix imm hon hcnt
  have hindexed (e : ℕ) (he : e < 64) : s.vaIndex sh a u imm e =
      s.rd s.cur a + imm.signExtend 64 + ((if h : e < 64 then (s.rdV s.cur u)[e].zeroExtend 64 else 0) <<< sh.toNat) := by
    rw [← lane_eq _ he]
    rfl
  exact ⟨State.does_loadS hon (i := .ld g la rx t d a ix imm) rfl rfl,
    State.does_storeS hon (i := .st g rx t d a ix imm) rfl rfl,
    State.does_loadS hon (i := .ldf g la t d a ix imm) rfl rfl,
    State.does_loadS hon (i := .ldp g la t d a ix imm) rfl rfl,
    State.does_storeS hon (i := .ste g t d a ix imm) rfl rfl,
    State.does_storeS hon (i := .stf g rx t d a ix imm) rfl rfl,
    State.does_loadV hon hcnt (fun _ _ => rfl) (i := .vld g la rx t cnt v a ix imm) rfl,
    State.does_storeV hon hcnt (fun _ _ => rfl) (i := .vst g rx t cnt v a ix imm) rfl,
    State.does_loadV hon hcnt (fun _ _ => rfl) (i := .vlds g la rx t cnt v a b imm) rfl,
    State.does_storeV hon hcnt (fun _ _ => rfl) (i := .vsts g rx t cnt v a b imm) rfl,
    State.does_loadV hon hcnt hindexed (i := .vldx g la rx t sh cnt v a u imm) rfl,
    State.does_storeV hon hcnt hindexed (i := .vstx g rx t sh cnt v a u imm) rfl,
    State.does_atomic hon (i := .amo g la rx t op d a b imm) rfl rfl,
    State.does_atomic hon (i := .cas g la rx t d a b imm) rfl rfl,
    State.does_atomic hon (i := .famo g la rx t rm fop d a b imm) rfl rfl,
    State.does_update hon (i := .rupd g rx t op a b imm) rfl rfl,
    State.does_update hon (i := .frupd g rx t rm fop a b imm) rfl rfl⟩

end Sys2Proof.Machine

/-!
PROOFS. How an access and a walk end: obligation O45.

In order: results that are queued and registers that are held; the walk, its caches and the records of its faults; the stores that
reach the fabric memory when a response comes in; the return of a permit; the end of an access; what it writes; the response of its
only part; and the record of a posted access that faulted.
-/

namespace Sys2Proof.Machine

/-! ### The walk and its caches (R197, R198) -/

/-- A translation of an address of a job by a page of R198. -/
def Tlb.translates (l : Tlb) (job va : ℕ) : Prop :=
  l.job = job ∧ l.base ≤ va ∧ va < l.base + l.size ∧ l.frame % l.size = 0 ∧ l.base % l.size = 0 ∧ 2 ≤ l.level ∧ l.level ≤ 5 ∧
    ∃ n, n < 3 ∧ (l.level = 2 → n = 0) ∧ l.size = 4096 * 64 ^ (5 - l.level) * 4 ^ n ∧ l.code = 3 * (5 - l.level) + n

/-- The translation of an address by a leaf of a level with a group code. -/
def Tlb.page (job va frame : ℕ) (perm : BitVec 4) (level grp : ℕ) : Tlb :=
  { job := job, base := va / pageSize level grp * pageSize level grp, size := pageSize level grp, frame := frame, perm := perm,
    level := level, code := pageCode level grp }

theorem Tlb.page_translates {job va frame level grp : ℕ} (perm : BitVec 4) (hframe : frame % pageSize level grp = 0)
    (hlow : 2 ≤ level) (hhigh : level ≤ 5) (hgrp : grp < 3) (hlarge : level = 2 → grp = 0) :
    (Tlb.page job va frame perm level grp).translates job va := by
  have hpos : 0 < pageSize level grp := by
    unfold pageSize
    positivity
  refine ⟨rfl, Nat.div_mul_le_self _ _, Nat.lt_div_mul_add hpos, hframe, Nat.mul_mod_left _ _, hlow, hhigh, grp, hgrp, hlarge, rfl, ?_⟩
  exact congrArg (· + grp) (Nat.mul_comm _ _)

section

variable {s : State}

/-! ### A result and the registers it holds (R92, R93) -/

/-- A result is queued under the next name, which holds its registers. -/
theorem State.land_thread (w : Tid) (lat : ℕ) (ws : List RegWrite) (fl : FlagBits) : (s.land w lat ws fl).thread w =
    { s.thread w with
      landings := (s.thread w).landings ++ [⟨s.seq, s.cyc + lat, ws, fl⟩]
      busy := (s.thread w).busy ++ ((ws.map RegWrite.ref).filter fun r => !r.fixed).map fun r => (s.seq, r) } := by
  have hlater (t : State) (d : ℕ) (e : Event) : (t.later d e).thread w = t.thread w := rfl
  rw [State.land, hlater, State.hold, State.modThread_thread_self, State.modThread_thread_self]
  rfl

theorem State.mem_land_agenda (w : Tid) (lat : ℕ) (ws : List RegWrite) (fl : FlagBits) :
    ⟨s.cyc + lat, .resultLands w s.seq⟩ ∈ (s.land w lat ws fl).agenda := (mem_insertPending _ _ _).2 (.inl rfl)

theorem State.mem_land_landings (w : Tid) (lat : ℕ) (ws : List RegWrite) (fl : FlagBits) :
    ⟨s.seq, s.cyc + lat, ws, fl⟩ ∈ ((s.land w lat ws fl).thread w).landings := by
  rw [State.land_thread]
  exact List.mem_append_right _ (List.mem_singleton_self _)

/-- The names under which registers are held after a release and a result. -/
theorem State.busy_land_release {w : Tid} {id lat : ℕ} {ws : List RegWrite} {fl : FlagBits} {x : ℕ × RegRef}
    (hx : x ∈ (((s.release w id).land w lat ws fl).thread w).busy) : (x ∈ (s.thread w).busy ∧ x.1 ≠ id) ∨ x.1 = s.seq := by
  rw [State.land_thread, State.release, State.modThread_thread_self] at hx
  rcases List.mem_append.1 hx with hold | hnew
  · obtain ⟨hmem, hne⟩ := List.mem_filter.1 hold
    exact .inl ⟨hmem, bne_iff_ne.1 hne⟩
  · obtain ⟨r, -, rfl⟩ := List.mem_map.1 hnew
    exact .inr rfl

theorem State.release_sameRegs (w : Tid) (id : ℕ) : s.sameRegs (s.release w id) := State.sameRegs.ofModThread s w _ rfl rfl rfl rfl

theorem State.release_sameBytes (w : Tid) (id : ℕ) : s.sameBytes (s.release w id) := State.modThread_sameBytes s w _

/-- A walk that ends at a leaf ends at a page. -/
theorem State.translates_of_walkFrom {job va fuel base : ℕ} {l : Tlb} (hfuel : fuel ≤ 6)
    (h : s.walkFrom job va fuel base = .leaf l) : l.translates job va := by
  induction fuel generalizing base with
  | zero => cases h
  | succ fuel ih =>
    simp only [State.walkFrom] at h
    split at h
    · cases h
    split at h
    · cases h
    split at h
    · split at h
      · cases h
      · exact ih (Nat.le_of_succ_le hfuel) h
    split at h
    · cases h
    next hshape =>
    split at h
    · cases h
    split at h
    · cases h
    next hframe =>
    cases h
    simp only [Bool.or_eq_true, Bool.and_eq_true, decide_eq_true_iff, bne_iff_ne, not_or, not_and, not_not] at hshape hframe
    obtain ⟨⟨hlevel, hgroup⟩, hlarge⟩ := hshape
    exact Tlb.page_translates _ hframe (Nat.le_of_not_lt hlevel) (Nat.sub_le _ _)
      (Nat.lt_of_le_of_ne (Nat.le_of_lt_succ (Nat.mod_lt _ (by decide))) hgroup) hlarge

/-- What is cached is the youngest entry. -/
theorem mem_cacheTlb {cap : ℕ} (hcap : 0 < cap) (t : Tlb) (l : List Tlb) : t ∈ cacheTlb cap t l := by
  rw [cacheTlb, List.drop_append_of_le_length]
  · exact List.mem_append_right _ (List.mem_singleton_self t)
  · rw [List.length_append]
    simp only [List.length_singleton]
    omega

theorem State.fillTlb_keepsJobs (pc : ℕ) (t : Tlb) : s.keepsJobs (s.fillTlb pc t) :=
  (s.modPCore_keepsJobs pc (fun q => { q with tlb := cacheTlb 64 t q.tlb }) fun _ => rfl).trans .frame

theorem State.mem_fillTlb (pc : ℕ) (t : Tlb) :
    t ∈ ((s.fillTlb pc t).pcore pc).tlb ∧ t ∈ ((s.fillTlb pc t).pclu (pclOf pc)).walker := by
  have hcore : (s.fillTlb pc t).pcore pc = (s.modPCore pc fun q => { q with tlb := cacheTlb 64 t q.tlb }).pcore pc := rfl
  have hclu : ((s.fillTlb pc t).pclu (pclOf pc)).walker = cacheTlb 2048 t (s.pclu (pclOf pc)).walker := by
    simp [State.fillTlb, State.modPClu, State.pclu]
  rw [hcore, hclu, State.modPCore_pcore_self]
  exact ⟨mem_cacheTlb (by decide) t _, mem_cacheTlb (by decide) t _⟩

/-! ### The end of a thread's own walk (R197, R376) -/

theorem State.endWalkStall_of_stall {w : Tid} (h : (s.thread w).stall = some .walk) : s.endWalkStall w = s.unstall w := by
  rw [State.endWalkStall, if_pos h]

theorem State.unstall_thread (w : Tid) : (s.unstall w).thread w = { s.thread w with stall := none } :=
  State.modThread_thread_self _ _ _

theorem State.unstall_sameRegs (w : Tid) : s.sameRegs (s.unstall w) := State.sameRegs.ofModThread s w _ rfl rfl rfl rfl

theorem State.unstall_sameBytes (w : Tid) : s.sameBytes (s.unstall w) := State.modThread_sameBytes s w _

theorem State.park_sameRegs (w : Tid) (k : WaitKind) (o : Word) (b : Bool) (c : Cont) : s.sameRegs (s.park w k o b c) :=
  State.sameRegs.ofModThread s w _ rfl rfl rfl rfl

/-- A record stands in an entry of its core's trap queue, and the stage manager has it. -/
def State.recorded (s : State) (r : TqRec) : State :=
  (s.modPCore r.pcore fun q => { q with tq := q.tq.set r.ent r, tqNew := q.tqNew ++ [r.ent] }).toService r

theorem State.recorded_keepsJobs (r : TqRec) : s.keepsJobs (s.recorded r) :=
  (s.modPCore_keepsJobs r.pcore (fun q => { q with tq := q.tq.set r.ent r, tqNew := q.tqNew ++ [r.ent] }) fun _ => rfl).trans .frame

theorem State.recorded_tq (r : TqRec) : ((s.recorded r).pcore r.pcore).tq.get? r.ent = some r := by
  have hcore : (s.recorded r).pcore r.pcore =
    (s.modPCore r.pcore fun q => { q with tq := q.tq.set r.ent r, tqNew := q.tqNew ++ [r.ent] }).pcore r.pcore := rfl
  rw [hcore, State.modPCore_pcore_self]
  exact Map.get?_set_self _ _ _

/-- A record of a thread's own access takes the lowest entry that is free, and the thread parks for the service. -/
theorem State.placeTq_of_free {r : TqRec} {i : ℕ} (hparks : r.parks = true) (hi : i < 15)
    (hfree : (s.pcore r.pcore).tq.get? i = none) (hfirst : ∀ h < i, (s.pcore r.pcore).tq.get? h ≠ none) :
    s.placeTq r = ((s.recorded { r with ent := i }).unstall r.own).park r.own .service (BitVec.ofNat 64 i) false .reissue := by
  have hfind : (List.range 15).find? (fun i => ((s.pcore r.pcore).tq.get? i).isNone) = some i :=
    List.find?_range_eq_some.2 ⟨by rw [hfree]; rfl, List.mem_range.2 hi, fun h hh => by
      simpa [Option.isSome_iff_ne_none] using hfirst h hh⟩
  have hplaced : ({ r with ent := i } : TqRec).parks = true := hparks
  simp only [State.placeTq, hfind, hplaced, if_true]
  rfl

theorem State.placeTq_spec {r : TqRec} {i : ℕ} (hparks : r.parks = true) (hi : i < 15)
    (hfree : (s.pcore r.pcore).tq.get? i = none) (hfirst : ∀ h < i, (s.pcore r.pcore).tq.get? h ≠ none) :
    ((s.placeTq r).pcore r.pcore).tq.get? i = some { r with ent := i } ∧ ((s.placeTq r).thread r.own).st = .parked ∧
      ((s.placeTq r).thread r.own).wait = some ⟨.service, BitVec.ofNat 64 i, s.cyc, false, .reissue⟩ ∧
      s.sameRegs (s.placeTq r) ∧ s.sameBytes (s.placeTq r) := by
  have hkeeps := s.recorded_keepsJobs { r with ent := i }
  rw [State.placeTq_of_free hparks hi hfree hfirst]
  refine ⟨s.recorded_tq { r with ent := i }, ?_, ?_,
    hkeeps.sameRegs.trans ((State.unstall_sameRegs r.own).trans (State.park_sameRegs r.own _ _ _ _)),
    hkeeps.sameBytes.trans ((State.unstall_sameBytes r.own).trans (State.modThread_sameBytes _ r.own _))⟩
  · rw [State.park_thread]
  · rw [State.park_thread]
    rfl

/-! ### The report of a walk for `xlat` (R200) -/

/-- The report is a result that lands 12 cycles on; the registers that were held for it are held under that result's name. -/
theorem State.probed_spec (w : Tid) (d : SReg) (id : ℕ) (v : Word) :
    ⟨s.seq, s.cyc + 12, [.s d v], 0⟩ ∈ ((s.probed w d id v).thread w).landings ∧
      ⟨s.cyc + 12, .resultLands w s.seq⟩ ∈ (s.probed w d id v).agenda ∧
      (∀ x ∈ ((s.probed w d id v).thread w).busy, x.1 ≠ id ∨ x.1 = s.seq) ∧
      s.sameRegs (s.probed w d id v) ∧ s.sameBytes (s.probed w d id v) := by
  set landed := (s.release w id).land w 12 [.s d v] 0 with hlanded
  have hlandings : ⟨s.seq, s.cyc + 12, [.s d v], 0⟩ ∈ (landed.thread w).landings := (s.release w id).mem_land_landings w 12 _ 0
  have hagenda : ⟨s.cyc + 12, .resultLands w s.seq⟩ ∈ landed.agenda := (s.release w id).mem_land_agenda w 12 _ 0
  have hbusy : ∀ x ∈ (landed.thread w).busy, x.1 ≠ id ∨ x.1 = s.seq := fun x hx =>
    (State.busy_land_release hx).imp_left And.right
  have hmoves : (s.release w id).onlyMoves landed w := State.land_onlyMoves _ w _ _ _
  have hregs := (s.release_sameRegs w id).trans hmoves.sameRegs
  have hbytes := (s.release_sameBytes w id).trans hmoves.sameBytes
  simp only [State.probed, ← hlanded]
  split
  · next n _ =>
    have hopen := State.openWindow_onlyMoves landed w (s.release w id).seq (BitVec.ofNat 4 n)
    have hthread : (landed.openWindow w (s.release w id).seq (BitVec.ofNat 4 n)).thread w =
        { landed.thread w with window := (landed.thread w).window ++ [((s.release w id).seq, (BitVec.ofNat 4 n).toNat)] } :=
      State.modThread_thread_self _ _ _
    rw [hthread]
    exact ⟨hlandings, hagenda, hbusy, hregs.trans hopen.sameRegs, hbytes.trans hopen.sameBytes⟩
  · exact ⟨hlandings, hagenda, hbusy, hregs, hbytes⟩

/-! ### The steps of a walk's end -/

/-- The walk is no longer listed. -/
def State.unlisted (s : State) (wid : ℕ) : State := { s with walks := s.walks.del wid }

theorem State.unlisted_keepsJobs (wid : ℕ) : s.keepsJobs (s.unlisted wid) := .frame

theorem State.unlisted_walkFrom (wid job va fuel base : ℕ) :
    (s.unlisted wid).walkFrom job va fuel base = s.walkFrom job va fuel base := by
  induction fuel generalizing base with
  | zero => rfl
  | succ fuel ih =>
    have hnat (a n : ℕ) : (s.unlisted wid).poolNat a n = s.poolNat a n := rfl
    have hdev : (s.unlisted wid).dev = s.dev := rfl
    simp only [State.walkFrom, ih, hnat, hdev]

theorem State.unlisted_walkTable (wid pc job va : ℕ) : (s.unlisted wid).walkTable pc job va = s.walkTable pc job va :=
  State.unlisted_walkFrom wid job va 6 _

/-- How a walk for a thread ends, by what it found: with a report, or in the thread's own issue. -/
def State.walkEnds (s : State) (wid : ℕ) (k : Walk) : WalkEnd → State
  | .leaf l => k.probe.elim (((s.unlisted wid).fillTlb (s.phys k.own.job k.own.lcn) l).endWalkStall k.own) fun p =>
      ((s.unlisted wid).fillTlb (s.phys k.own.job k.own.lcn) l).probed k.own p.1 p.2
        (l.report (s.dev.slice (l.frame + k.va.toNat % 2 ^ 48 % l.size)).isSome)
  | .fault n c => k.probe.elim (((s.unlisted wid).endWalkStall k.own).placeTq
      ((s.unlisted wid).faultRec k.own k.pc (if k.exec then k.pc else k.va) c k.write k.post none)) fun p =>
      (s.unlisted wid).probed k.own p.1 p.2 (BitVec.ofNat 64 (n * 32))

theorem State.exec_walk {wid : ℕ} {k : Walk} (hwalk : s.walks.get? wid = some k) (hpost : k.post = none) (heng : k.eng = none)
    (hahead : k.ahead = none) : exec (.translationWalk wid) s = .next
      (s.walkEnds wid k (s.walkTable (s.phys k.own.job k.own.lcn) k.own.job (k.va.toNat % 2 ^ 48))) := by
  have hsame (k' : Walk) (h : s.walks.get? wid = some k') : k' = k := (Option.some.inj (hwalk.symm.trans h)).symm
  have hva : bitsOf k.va 0 48 = k.va.toNat % 2 ^ 48 := by rw [bitsOf, pow_zero, Nat.div_one]
  have hend {e : WalkEnd} (h : (s.unlisted wid).walkTable (s.phys k.own.job k.own.lcn) k.own.job (bitsOf k.va 0 48) = e) :
      s.walkTable (s.phys k.own.job k.own.lcn) k.own.job (k.va.toNat % 2 ^ 48) = e := by
    rw [← hva, ← State.unlisted_walkTable wid, h]
  have hexec : exec (.translationWalk wid) s = execTranslationWalk wid s := rfl
  rw [hexec]
  fun_cases execTranslationWalk wid s with
  | case1 h => exact nomatch hwalk.symm.trans h
  | case2 k' hk' s1 pc va t ht s2 a p h =>
    cases hsame k' hk'
    exact nomatch hpost.symm.trans h
  | case3 k' hk' s1 pc va t ht s2 e h =>
    cases hsame k' hk'
    exact nomatch heng.symm.trans h
  | case4 k' hk' s1 pc va t ht s2 l h =>
    cases hsame k' hk'
    exact nomatch hahead.symm.trans h
  | case5 k' hk' s1 pc va t ht s2 d id hprobe =>
    cases hsame k' hk'
    rw [hend ht, State.walkEnds, hprobe, ← hva]
    rfl
  | case6 k' hk' s1 pc va t ht s2 hprobe =>
    cases hsame k' hk'
    rw [hend ht, State.walkEnds, hprobe]
    rfl
  | case7 k' hk' s1 pc va n c hc e h =>
    cases hsame k' hk'
    exact nomatch heng.symm.trans h
  | case8 k' hk' s1 pc va n c hc l h =>
    cases hsame k' hk'
    exact nomatch hahead.symm.trans h
  | case9 k' hk' s1 pc va n c hc d id hprobe =>
    cases hsame k' hk'
    rw [hend hc, State.walkEnds, hprobe]
    rfl
  | case10 k' hk' s1 pc va n c hc hprobe hahead' heng' =>
    cases hsame k' hk'
    rw [hend hc, State.walkEnds, hprobe, if_pos (Option.isNone_iff_eq_none.2 hpost)]
    rfl

end

/-! ### What a walk's end leaves behind -/

section

variable {s : State} {wid : ℕ} {k : Walk} (hwalk : s.walks.get? wid = some k) (hpost : k.post = none) (heng : k.eng = none)
  (hahead : k.ahead = none)

/-- The report of a walk lands, whatever it found. -/
theorem State.walk_lands {d : SReg} {id : ℕ} {v : Word} {u : State} (hkeeps : s.keepsJobs u)
    (hcyc : u.cyc = s.cyc) (hexec : exec (.translationWalk wid) s = .next (u.probed k.own d id v)) :
    ∃ t n, exec (.translationWalk wid) s = .next t ∧ ⟨n, s.cyc + 12, [.s d v], 0⟩ ∈ (t.thread k.own).landings ∧
      ⟨s.cyc + 12, .resultLands k.own n⟩ ∈ t.agenda ∧ (∀ x ∈ (t.thread k.own).busy, x.1 ≠ id ∨ x.1 = n) ∧ s.sameRegs t ∧
      s.sameBytes t := by
  obtain ⟨hlands, hevent, hbusy, hregs, hbytes⟩ := u.probed_spec k.own d id v
  rw [hcyc] at hlands hevent
  exact ⟨_, _, hexec, hlands, hevent, hbusy, hkeeps.sameRegs.trans hregs, hkeeps.sameBytes.trans hbytes⟩

include hwalk hpost heng hahead

variable (hprobe : k.probe = none) (hstall : (s.thread k.own).stall = some .walk)

include hprobe hstall

/-- The thread's own walk at a leaf caches it and lets the thread issue. -/
theorem State.own_walk_leaf {l : Tlb}
    (hleaf : s.walkTable (s.phys k.own.job k.own.lcn) k.own.job (k.va.toNat % 2 ^ 48) = .leaf l) :
    ∃ t, exec (.translationWalk wid) s = .next t ∧ l ∈ (t.pcore (s.phys k.own.job k.own.lcn)).tlb ∧
      l ∈ (t.pclu (pclOf (s.phys k.own.job k.own.lcn))).walker ∧ (t.thread k.own).stall = none ∧
      t.pcOf k.own = s.pcOf k.own ∧ s.sameRegs t ∧ s.sameBytes t := by
  have hexec := State.exec_walk hwalk hpost heng hahead
  set filled := (s.unlisted wid).fillTlb (s.phys k.own.job k.own.lcn) l with hfilled
  have hkeeps : s.keepsJobs filled := (s.unlisted_keepsJobs wid).trans (State.fillTlb_keepsJobs _ l)
  obtain ⟨hcore, hclu⟩ := (s.unlisted wid).mem_fillTlb (s.phys k.own.job k.own.lcn) l
  rw [hleaf, State.walkEnds, hprobe, Option.elim_none, State.endWalkStall_of_stall (by rw [hkeeps.thread]; exact hstall)] at hexec
  refine ⟨_, hexec, hcore, hclu, ?_, ?_, hkeeps.sameRegs.trans (State.unstall_sameRegs _),
    hkeeps.sameBytes.trans (State.unstall_sameBytes _)⟩
  · rw [State.unstall_thread]
  · rw [State.pcOf, State.unstall_thread, hkeeps.thread]
    rfl

/-- The thread's own walk at a fault places a record, and the thread parks for the service. -/
theorem State.own_walk_fault {n i : ℕ} {c : Cause}
    (hfault : s.walkTable (s.phys k.own.job k.own.lcn) k.own.job (k.va.toNat % 2 ^ 48) = .fault n c) (hi : i < 15)
    (hfree : (s.pcore (s.phys k.own.job k.own.lcn)).tq.get? i = none)
    (hfirst : ∀ h < i, (s.pcore (s.phys k.own.job k.own.lcn)).tq.get? h ≠ none) :
    ∃ t r, exec (.translationWalk wid) s = .next t ∧ (t.pcore (s.phys k.own.job k.own.lcn)).tq.get? i = some r ∧ r.cause = c ∧
      r.pc = k.pc ∧ r.addr = (if k.exec then k.pc else k.va) ∧ r.thr = k.own.thr ∧ r.lcn = k.own.lcn ∧ r.ent = i ∧
      (t.thread k.own).st = .parked ∧
      (t.thread k.own).wait = some ⟨.service, BitVec.ofNat 64 i, s.cyc, false, .reissue⟩ ∧ s.sameRegs t ∧ s.sameBytes t := by
  have hexec := State.exec_walk hwalk hpost heng hahead
  have hkeeps := s.unlisted_keepsJobs wid
  rw [hfault, State.walkEnds, hprobe, Option.elim_none, State.endWalkStall_of_stall (by rw [hkeeps.thread]; exact hstall)] at hexec
  obtain ⟨htq, hst, hwait, hregs, hbytes⟩ := State.placeTq_spec (s := (s.unlisted wid).unstall k.own)
    (r := (s.unlisted wid).faultRec k.own k.pc (if k.exec then k.pc else k.va) c k.write k.post none)
    (by rw [State.faultRec, hpost]; rfl) hi hfree hfirst
  exact ⟨_, _, hexec, htq, rfl, rfl, rfl, rfl, rfl, rfl, hst, hwait,
    hkeeps.sameRegs.trans ((State.unstall_sameRegs _).trans hregs),
    hkeeps.sameBytes.trans ((State.unstall_sameBytes _).trans hbytes)⟩

end

/-! ### The stores that reach the fabric memory (R256) -/

/-- A byte after stores in order. -/
theorem Memory.read_foldl_write (l : List (ℕ × ℕ × Byte)) (m : Memory) (hm : m.wf) (a : ℕ) :
    (l.foldl (fun m c => m.write c.2.1 c.2.2) m).read a =
      ((l.filter fun c => c.2.1 == a).getLast?.map fun c => c.2.2).getD (m.read a) := by
  induction l using List.reverseRecOn with
  | nil => rfl
  | append_singleton l c ih =>
    have hwf : Memory.wf (l.foldl (fun m c => m.write c.2.1 c.2.2) m) :=
      List.foldlRecOn _ _ hm fun _ h _ _ => Memory.write_wf _ _ _ h
    rw [List.foldl_append, List.foldl_cons, List.foldl_nil, List.filter_append]
    by_cases hc : c.2.1 = a
    · rw [List.filter_cons_of_pos (by simpa using hc), List.filter_nil, List.getLast?_concat, ← hc, Memory.read_write_self _ _ _ hwf]
      rfl
    · rw [List.filter_cons_of_neg (by simpa using hc), List.filter_nil, List.append_nil,
        Memory.read_write_ne _ _ _ _ (Ne.symm hc) hwf, ih]

section

variable {s : State}

theorem State.poolByte_eq (s : State) (a : ℕ) : s.poolByte a =
    ((s.poolBuf.filter fun c => c.2.1 == a).getLast?.map fun c => c.2.2).getD (s.pool.read a) := by
  unfold State.poolByte
  cases (s.poolBuf.filter fun c => c.2.1 == a).getLast? <;> rfl

/-- A slice gives each byte as before when buffered stores reach the fabric memory. -/
theorem State.flushLoc_poolByte (h : s.canonical) (loc : ℕ) (upTo : ℕ → Bool) (a : ℕ) :
    (s.flushLoc loc upTo).poolByte a = s.poolByte a := by
  obtain ⟨hpool, -, -⟩ := h
  set here := s.poolBuf.filter fun c => c.2.1 / 8 == loc with hhere
  set n := here.length - (here.reverse.takeWhile fun c => !upTo c.1).length
  set others := s.poolBuf.filter fun c => c.2.1 / 8 != loc with hothers
  have hafter : s.flushLoc loc upTo =
      { s with pool := (here.take n).foldl (fun m c => m.write c.2.1 c.2.2) s.pool, poolBuf := others ++ here.drop n } := rfl
  rw [hafter, State.poolByte_eq, State.poolByte_eq, Memory.read_foldl_write _ _ hpool]
  by_cases ha : a / 8 = loc
  · have hothersNone : others.filter (fun c => c.2.1 == a) = [] := by
      rw [List.filter_eq_nil_iff]
      rintro c hc hca
      rw [beq_iff_eq] at hca
      exact bne_iff_ne.1 (List.mem_filter.1 hc).2 (hca ▸ ha)
    have hbuf : s.poolBuf.filter (fun c => c.2.1 == a) = here.filter fun c => c.2.1 == a := by
      rw [hhere, List.filter_filter]
      refine List.filter_congr fun c _ => ?_
      by_cases hca : c.2.1 = a <;> simp [hca, ha]
    rw [hbuf, ← List.take_append_drop n here, List.filter_append, List.filter_append, hothersNone]
    simp only [List.take_append_drop, List.nil_append, List.getLast?_append]
    cases ((here.drop n).filter fun c => c.2.1 == a).getLast? <;> rfl
  · have hhereNone (l : List (ℕ × ℕ × Byte)) (hl : ∀ c ∈ l, c ∈ here) : l.filter (fun c => c.2.1 == a) = [] := by
      rw [List.filter_eq_nil_iff]
      rintro c hc hca
      rw [beq_iff_eq] at hca
      exact ha (hca ▸ beq_iff_eq.1 (List.mem_filter.1 (hl c hc)).2)
    have hbuf : others.filter (fun c => c.2.1 == a) = s.poolBuf.filter fun c => c.2.1 == a := by
      rw [hothers, List.filter_filter]
      refine List.filter_congr fun c _ => ?_
      by_cases hca : c.2.1 = a <;> simp [hca, ha]
    rw [List.filter_append, hhereNone _ fun c => List.mem_of_mem_drop, hhereNone _ fun c => List.mem_of_mem_take, hbuf,
      List.append_nil]
    rfl

theorem State.poolFlush_poolByte (h : s.canonical) (tag a : ℕ) : (s.poolFlush tag).poolByte a = s.poolByte a := by
  unfold State.poolFlush
  exact (List.foldlRecOn (motive := fun t : State => t.canonical ∧ t.poolByte a = s.poolByte a) _ _ ⟨h, rfl⟩
    fun t ⟨ht, hbyte⟩ loc _ => ⟨ht.flushLoc, (State.flushLoc_poolByte ht loc _ a).trans hbyte⟩).2

end

/-! ### What the return of a permit leaves as it is (R195)

A permit that returns goes to a request that waits for it: a part of an access leaves and its thread may run again, a block of a
code line is asked for, or an engine operation goes on. -/

/-- A thread apart from whether it waits. -/
def Thread.awake (t : Thread) : Thread := { t with st := .running, wait := none, stamp := 0, retry := false }

/-- The access `a` of the single part `q` is under way, whether that has left or not. -/
def State.holdsSingle (s : State) (aid p : ℕ) (a : Access) (q : Part) : Prop :=
  ∃ b, s.accs.get? aid = some { a with parts := [(p, { q with sent := b })] }

/-- From `s` to `t` a request that waited for a permit goes on. -/
structure State.grants (s t : State) : Prop where
  cyc : t.cyc = s.cyc
  seq : s.seq ≤ t.seq
  pool : t.pool = s.pool
  poolBuf : t.poolBuf = s.poolBuf
  host : t.host = s.host
  mem : ∀ pc, (t.pcore pc).mem = (s.pcore pc).mem
  coreRegs : ∀ j l, (t.core j l).y = (s.core j l).y ∧ (t.core j l).w = (s.core j l).w
  thread : ∀ v, (t.thread v).awake = (s.thread v).awake
  waiting : ∀ v x, (s.thread v).wait = some x → x.kind = .fe → t.thread v = s.thread v
  single : ∀ aid p a q, s.holdsSingle aid p a q → t.holdsSingle aid p a q

theorem State.grants.trans {s t u : State} (h : s.grants t) (k : t.grants u) : s.grants u where
  cyc := k.cyc.trans h.cyc
  seq := h.seq.trans k.seq
  pool := k.pool.trans h.pool
  poolBuf := k.poolBuf.trans h.poolBuf
  host := k.host.trans h.host
  mem := fun pc => (k.mem pc).trans (h.mem pc)
  coreRegs := fun j l => ⟨(k.coreRegs j l).1.trans (h.coreRegs j l).1, (k.coreRegs j l).2.trans (h.coreRegs j l).2⟩
  thread := fun v => (k.thread v).trans (h.thread v)
  waiting := fun v x hx hfe => by
    have hsame := h.waiting v x hx hfe
    rw [k.waiting v x (hsame ▸ hx) hfe, hsame]
  single := fun aid p a q hq => k.single aid p a q (h.single aid p a q hq)

section

variable {s t : State}

/-- A field of a thread that does not say whether it waits. -/
theorem State.grants.field (h : s.grants t) {α : Type} (f : Thread → α) (hf : ∀ x : Thread, f x = f x.awake) (v : Tid) :
    f (t.thread v) = f (s.thread v) := by
  rw [hf (t.thread v), h.thread, ← hf]

theorem State.grants.sameRegs (h : s.grants t) : s.sameRegs t := by
  intro v
  obtain ⟨hy, hw⟩ := h.coreRegs v.job v.lcn
  have hx := h.field (fun x => x.x) (fun _ => rfl) v
  have hv := h.field (fun x => x.v) (fun _ => rfl) v
  have hq := h.field (fun x => x.q) (fun _ => rfl) v
  have hk := h.field (fun x => x.k) (fun _ => rfl) v
  refine ⟨fun r => ?_, fun r => ?_, fun q => ?_, fun k => ?_⟩
  · simp only [State.rd, hx, hy]
  · simp only [State.rdV, hv, hw]
  · simp only [State.rdQ, hq]
  · simp only [State.rdK, hk]

/-- A step that leaves the jobs and the accesses. -/
theorem State.keepsJobs.grants (h : s.keepsJobs t) (hcyc : t.cyc = s.cyc) (hseq : s.seq ≤ t.seq) (hbuf : t.poolBuf = s.poolBuf)
    (hsingle : ∀ aid p a q, s.holdsSingle aid p a q → t.holdsSingle aid p a q) : s.grants t where
  cyc := hcyc
  seq := hseq
  pool := h.pool
  poolBuf := hbuf
  host := h.host
  mem := h.scratch
  coreRegs := fun j l => by
    have hcore : t.core j l = s.core j l := by simp only [State.core, State.job, h.jobs]
    rw [hcore]
    exact ⟨rfl, rfl⟩
  thread := fun v => by rw [h.thread]
  waiting := fun v _ _ _ => h.thread v
  single := hsingle

theorem State.grants.refl (s : State) : s.grants s := (State.keepsJobs.refl s).grants rfl le_rfl rfl fun _ _ _ _ => id

theorem State.later_grants (d : ℕ) (e : Event) : s.grants (s.later d e) :=
  State.keepsJobs.grants .frame rfl le_rfl rfl fun _ _ _ _ => id

theorem State.injectPacket_grants (d : ℕ) (p : Packet) : s.grants (s.injectPacket d p) :=
  State.keepsJobs.grants .frame rfl (Nat.le_succ _) rfl fun _ _ _ _ => id

theorem State.modPCore_grants (pc : ℕ) (f : PCore → PCore) (hf : ∀ q, (f q).mem = q.mem) : s.grants (s.modPCore pc f) :=
  (s.modPCore_keepsJobs pc f hf).grants rfl le_rfl rfl fun _ _ _ _ => id

/-- A change of a job beside its cores. -/
theorem State.modJob_grants (j : ℕ) (f : Job → Job) (hf : ∀ b, (f b).cores = b.cores) : s.grants (s.modJob j f) := by
  have hcore (i l : ℕ) : (s.modJob j f).core i l = s.core i l := by
    by_cases hi : i = j
    · subst hi
      rw [State.core, State.modJob_job_self, hf, State.core]
    · rw [State.core, State.modJob_job_ne _ _ _ _ hi, State.core]
  have hthread (v : Tid) : (s.modJob j f).thread v = s.thread v := by rw [State.thread, hcore, State.thread]
  exact
    { cyc := rfl, seq := le_rfl, pool := rfl, poolBuf := rfl, host := rfl, mem := fun _ => rfl,
      coreRegs := fun i l => by
        rw [hcore]
        exact ⟨rfl, rfl⟩
      thread := fun v => congrArg Thread.awake (hthread v)
      waiting := fun v _ _ _ => hthread v
      single := fun _ _ _ _ => id }

theorem State.unpark_awake (w v : Tid) : ((s.unpark w).thread v).awake = (s.thread v).awake := by
  by_cases hv : v = w
  · subst hv
    rw [State.unpark, State.modThread_thread_self]
    split <;> rfl
  · exact congrArg Thread.awake (State.modThread_thread_ne s w v _ hv)

/-- A thread that does not wait for a word may run again. -/
theorem State.unpark_grants (w : Tid) (hw : ∀ x, (s.thread w).wait = some x → x.kind ≠ .fe) : s.grants (s.unpark w) where
  cyc := rfl
  seq := le_rfl
  pool := rfl
  poolBuf := rfl
  host := rfl
  mem := fun _ => rfl
  coreRegs := fun j l => by
    have hbare : ((s.unpark w).core j l).bare = (s.core j l).bare := s.modThread_core_bare w _ j l
    have hy : ((s.unpark w).core j l).bare.y = (s.core j l).bare.y := congrArg LCore.y hbare
    have hw : ((s.unpark w).core j l).bare.w = (s.core j l).bare.w := congrArg LCore.w hbare
    exact ⟨hy, hw⟩
  thread := fun v => State.unpark_awake w v
  waiting := fun v x hx hfe => State.modThread_thread_ne s w v _ fun hv => hw x (hv ▸ hx) hfe
  single := fun _ _ _ _ => id

/-- Saying of a part that it has left. -/
theorem State.modPart_sent_grants (aid p : ℕ) : s.grants (s.modPart aid p fun q => { q with sent := true }) := by
  unfold State.modPart State.modAcc
  cases haid : s.accs.get? aid with
  | none => exact .refl s
  | some a =>
    refine State.keepsJobs.grants .frame rfl le_rfl rfl ?_
    rintro aid' p' a' q ⟨b, hb⟩
    by_cases hid : aid' = aid
    · subst hid
      cases haid.symm.trans hb
      by_cases hp : p' = p
      · subst hp
        exact ⟨true, by simp [Map.get?, Map.set]⟩
      · exact ⟨b, by simp [Map.get?, hp]⟩
    · exact ⟨b, (Map.get?_set_ne _ _ _ _ hid).trans hb⟩

theorem State.sendPart_grants (aid p : ℕ) : s.grants (s.sendPart aid p) := by
  unfold State.sendPart
  split
  · exact .refl s
  · next a q _ =>
    have hdrawn : s.grants s.drawn := State.keepsJobs.grants .frame rfl (Nat.le_succ _) rfl fun _ _ _ _ => id
    exact (hdrawn.trans (State.modPart_sent_grants aid p)).trans (State.injectPacket_grants 0 _)

theorem State.modEng_grants (h : HRef) (f : EngOp → EngOp) : s.grants (s.modEng h f) := by
  unfold State.modEng
  exact s.modJob_grants _ _ fun _ => rfl

theorem State.modLeadProd_grants (h : HRef) (f : Product → Product) : s.grants (s.modLeadProd h f) := by
  unfold State.modLeadProd
  exact s.modJob_grants _ _ fun _ => rfl

theorem State.engGo_grants (h : HRef) : s.grants (s.engGo h) := by
  unfold State.engGo
  dsimp only
  split
  · exact s.later_grants _ _
  split
  · exact s.later_grants _ _
  split
  · exact s.later_grants _ _
  · exact .refl s

theorem State.engPermit_grants (pc : ℕ) (h : HRef) (r sl : ℕ) : s.grants (s.engPermit pc h r sl) := by
  unfold State.engPermit
  dsimp only
  split
  · exact ((s.modEng_grants h _).trans (State.modLeadProd_grants h _)).trans (State.engGo_grants h)
  · exact s.modPCore_grants pc _ fun _ => rfl

theorem State.sendRead_grants (w : Tid) (line : Word) (sl d : ℕ) : s.grants (s.sendRead w line sl d) :=
  State.keepsJobs.grants .frame rfl (Nat.le_add_right _ 2) rfl fun _ _ _ _ => id

theorem State.returnPermit_grants (pc sl : ℕ) : s.grants (s.returnPermit pc sl) := by
  unfold State.returnPermit
  dsimp only
  split
  · exact s.modPCore_grants pc _ fun _ => rfl
  · next x _ =>
    have hleaves : s.grants (s.modPCore pc fun q => { q with permitQ := q.permitQ.erase x }) :=
      s.modPCore_grants pc _ fun _ => rfl
    split
    · next aid p _ =>
      have hsent := hleaves.trans (State.sendPart_grants aid p)
      split
      · split
        · next hwait =>
          split
          · refine hsent.trans (State.unpark_grants _ fun x hx => ?_)
            cases hwait.symm.trans hx
            exact fun h => nomatch h
          · exact hsent
        · exact hsent
      · exact hsent
    · exact hleaves.trans (State.sendRead_grants ..)
    · exact hleaves.trans (State.engPermit_grants pc _ _ _)

/-- With no request that waits for the slice the count goes down. -/
theorem State.returnPermit_permits {pc sl : ℕ} (hnone : ∀ x ∈ (s.pcore pc).permitQ, x.1 ≠ sl) :
    ((s.returnPermit pc sl).pcore pc).permits.getD sl 0 = (s.pcore pc).permits.getD sl 0 - 1 := by
  have hfind : (s.pcore pc).permitQ.find? (fun x => x.1 == sl) = none :=
    List.find?_eq_none.2 fun x hx => by simpa using hnone x hx
  simp only [State.returnPermit, hfind, State.modPCore_pcore_self, Map.getD_set_self]

end

/-! ### The end of an access (R187, R188) -/

/-- The flags of an access: those of its parts, and SB for substituted data. -/
def Access.flagsOut (a : Access) : FlagBits :=
  a.parts.foldl (fun (f : FlagBits) (_, q) => f ||| q.flags ||| flagIf q.subst fSB) 0

/-- The thread has no access of this name that holds its next one back. -/
def Thread.concluded (aid cyc : ℕ) (t : Thread) : Thread :=
  if t.ordAcc = some aid then { t with ordAcc := none, accAt := cyc + 1 } else t

/-- The access is not listed, and nothing is held for it. -/
def State.concluded (s : State) (w : Tid) (aid : ℕ) : State :=
  (({ s with accs := s.accs.del aid } : State).modThread w (Thread.concluded aid s.cyc)).release w aid

/-- Its result is queued for this cycle, or its flags are set. -/
def State.answered (s : State) (aid : ℕ) (a : Access) : State :=
  if a.dst.isSome then (s.concluded a.own aid).land a.own 0 a.writes a.flagsOut else (s.concluded a.own aid).setFlags a.own a.flagsOut

/-- A thread that waited on the word of the access runs. -/
def State.wakes (s : State) (w : Tid) (aid : ℕ) : State :=
  match (s.thread w).wait with
  | some { kind := .fe, cont := .access i, .. } => if i = aid then s.unpark w else s
  | _ => s

section

variable {s : State} {aid : ℕ} {a : Access}

theorem State.finishAccess_eq (haid : s.accs.get? aid = some a) (hreturned : a.returned = true) :
    s.finishAccess aid = (s.answered aid a).wakes a.own aid := by
  simp only [State.finishAccess, haid, hreturned, Bool.not_true, Bool.false_eq_true, if_false]
  rfl

theorem Thread.concluded_fields (aid cyc : ℕ) (t : Thread) : (t.concluded aid cyc).ghits = t.ghits ∧ (t.concluded aid cyc).gaddr = t.gaddr ∧
    (t.concluded aid cyc).sfq = t.sfq ∧ (t.concluded aid cyc).sfDue = t.sfDue ∧ (t.concluded aid cyc).st = t.st ∧ (t.concluded aid cyc).wait = t.wait ∧
    (t.concluded aid cyc).busy = t.busy ∧ (t.concluded aid cyc).flags = t.flags := by
  unfold Thread.concluded
  split <;> exact ⟨rfl, rfl, rfl, rfl, rfl, rfl, rfl, rfl⟩

theorem Thread.concluded_sameRegs (aid cyc : ℕ) (t : Thread) : (t.concluded aid cyc).x = t.x ∧ (t.concluded aid cyc).v = t.v ∧
    (t.concluded aid cyc).q = t.q ∧ (t.concluded aid cyc).k = t.k := by
  unfold Thread.concluded
  split <;> exact ⟨rfl, rfl, rfl, rfl⟩

theorem State.concluded_thread (w : Tid) : (s.concluded w aid).thread w = ((s.thread w).concluded aid s.cyc).released aid := by
  rw [State.concluded, State.release, State.modThread_thread_self, State.modThread_thread_self]
  rfl

theorem State.concluded_sameRegs (w : Tid) : s.sameRegs (s.concluded w aid) := by
  obtain ⟨hx, hv, hq, hk⟩ := Thread.concluded_sameRegs aid s.cyc (s.thread w)
  have hunlisted : s.sameRegs { s with accs := s.accs.del aid } := State.keepsJobs.sameRegs .frame
  exact (hunlisted.trans (State.sameRegs.ofModThread _ w _ hx hv hq hk)).trans (State.release_sameRegs w aid)

/-- What the end of an access does to the thread, before that may run again. -/
structure State.answers (s t : State) (aid : ℕ) (a : Access) : Prop where
  accs : t.accs.get? aid = none
  pcores : t.pcores = s.pcores
  pool : t.pool = s.pool
  poolBuf : t.poolBuf = s.poolBuf
  host : t.host = s.host
  regs : s.sameRegs t
  busy : ∀ x ∈ (t.thread a.own).busy, (x ∈ (s.thread a.own).busy ∧ x.1 ≠ aid) ∨ x.1 = s.seq
  ordAcc : (s.thread a.own).ordAcc = some aid → (t.thread a.own).ordAcc = none ∧ (t.thread a.own).accAt = s.cyc + 1
  guards : (t.thread a.own).ghits = (s.thread a.own).ghits ∧ (t.thread a.own).gaddr = (s.thread a.own).gaddr
  faults : (t.thread a.own).sfq = (s.thread a.own).sfq ∧ (t.thread a.own).sfDue = (s.thread a.own).sfDue
  lands : a.dst.isSome = true → ⟨s.seq, s.cyc, a.writes, a.flagsOut⟩ ∈ (t.thread a.own).landings ∧
    ⟨s.cyc, .resultLands a.own s.seq⟩ ∈ t.agenda
  flags : a.dst = none → (t.thread a.own).flags = (s.thread a.own).flags ||| a.flagsOut

/-- What is left when nothing of the access is listed or held, the result or the flags apart. -/
theorem State.answers_of_concluded {t : State} (haccs : t.accs = (s.concluded a.own aid).accs) (hpcores : t.pcores = s.pcores)
    (hpool : t.pool = s.pool) (hbuf : t.poolBuf = s.poolBuf) (hhost : t.host = s.host)
    (hregs : (s.concluded a.own aid).sameRegs t)
    (hbusy : ∀ x ∈ (t.thread a.own).busy, x ∈ ((s.concluded a.own aid).thread a.own).busy ∨ x.1 = s.seq)
    (hself : ∃ flags flagsAt landings busy, t.thread a.own =
      { (s.concluded a.own aid).thread a.own with flags := flags, flagsAt := flagsAt, landings := landings, busy := busy })
    (hlands : a.dst.isSome = true → ⟨s.seq, s.cyc, a.writes, a.flagsOut⟩ ∈ (t.thread a.own).landings ∧
      ⟨s.cyc, .resultLands a.own s.seq⟩ ∈ t.agenda)
    (hflags : a.dst = none → (t.thread a.own).flags = ((s.concluded a.own aid).thread a.own).flags ||| a.flagsOut) :
    s.answers t aid a := by
  obtain ⟨hghits, hgaddr, hsfq, hsfDue, -, -, hheld, hsticky⟩ := Thread.concluded_fields aid s.cyc (s.thread a.own)
  have hthread := State.concluded_thread (s := s) (aid := aid) a.own
  obtain ⟨flags, flagsAt, landings, busy, hself⟩ := hself
  rw [hthread] at hself hbusy hflags
  refine ⟨?_, hpcores, hpool, hbuf, hhost, (State.concluded_sameRegs a.own).trans hregs, fun x hx => (hbusy x hx).imp_left fun h => ?_,
    fun h => ?_, ?_, ?_, hlands, fun h => ?_⟩
  · rw [haccs]
    exact Map.get?_del_self _ _
  · obtain ⟨hmem, hne⟩ := List.mem_filter.1 h
    exact ⟨hheld ▸ hmem, bne_iff_ne.1 hne⟩
  · rw [hself, Thread.concluded, if_pos h]
    exact ⟨rfl, rfl⟩
  · rw [hself]
    exact ⟨hghits, hgaddr⟩
  · rw [hself]
    exact ⟨hsfq, hsfDue⟩
  · rw [hflags h]
    exact congrArg (· ||| a.flagsOut) hsticky

theorem State.setFlags_sameRegs (w : Tid) (fl : FlagBits) : s.sameRegs (s.setFlags w fl) := by
  unfold State.setFlags
  split
  · exact (State.keepsJobs.refl s).sameRegs
  · exact State.sameRegs.ofModThread s w _ rfl rfl rfl rfl

theorem State.answered_answers : s.answers (s.answered aid a) aid a := by
  cases hdst : a.dst with
  | some r =>
    rw [State.answered, hdst, Option.isSome_some, if_pos rfl]
    have hmoves := State.land_onlyMoves (s.concluded a.own aid) a.own 0 a.writes a.flagsOut
    have hlanded := State.land_thread (s := s.concluded a.own aid) a.own 0 a.writes a.flagsOut
    refine State.answers_of_concluded rfl rfl rfl rfl rfl hmoves.sameRegs (fun x hx => ?_) ⟨_, _, _, _, hlanded⟩
      (fun _ => ⟨State.mem_land_landings .., State.mem_land_agenda ..⟩) fun h => nomatch hdst.symm.trans h
    rw [hlanded] at hx
    refine (List.mem_append.1 hx).imp_right fun hnew => ?_
    obtain ⟨r, -, rfl⟩ := List.mem_map.1 hnew
    rfl
  | none =>
    rw [State.answered, hdst, Option.isSome_none, if_neg Bool.false_ne_true]
    have hself := (State.setFlags_changes (s.concluded a.own aid) a.own a.flagsOut).self
    have hkeeps {β : Type} (f : State → β) (hf : ∀ w g, f ((s.concluded a.own aid).modThread w g) = f (s.concluded a.own aid)) :
        f ((s.concluded a.own aid).setFlags a.own a.flagsOut) = f (s.concluded a.own aid) := by
      unfold State.setFlags
      split
      · rfl
      · exact hf _ _
    refine State.answers_of_concluded (hkeeps State.accs fun _ _ => rfl) (hkeeps State.pcores fun _ _ => rfl)
      (hkeeps State.pool fun _ _ => rfl) (hkeeps State.poolBuf fun _ _ => rfl) (hkeeps State.host fun _ _ => rfl)
      (State.setFlags_sameRegs _ _) (fun x hx => .inl ?_) ⟨_, _, _, _, hself⟩ (fun h => ?_) fun _ => ?_
    · rwa [hself] at hx
    · rw [hdst] at h
      exact Bool.noConfusion h
    · rw [hself]
      rfl

theorem State.unpark_sameRegs (w : Tid) : s.sameRegs (s.unpark w) := by
  refine State.sameRegs.ofModThread s w _ ?_ ?_ ?_ ?_ <;> split <;> rfl

theorem State.answers.unpark {t : State} (h : s.answers t aid a) : s.answers (t.unpark a.own) aid a := by
  have hfield {β : Type} (f : Thread → β) (hf : ∀ x, f x = f x.awake) : f ((t.unpark a.own).thread a.own) = f (t.thread a.own) := by
    rw [hf, State.unpark_awake, ← hf]
  have hbusy := hfield Thread.busy fun _ => rfl
  have hord := hfield Thread.ordAcc fun _ => rfl
  have hat := hfield Thread.accAt fun _ => rfl
  have hghits := hfield Thread.ghits fun _ => rfl
  have hgaddr := hfield Thread.gaddr fun _ => rfl
  have hsfq := hfield Thread.sfq fun _ => rfl
  have hdue := hfield Thread.sfDue fun _ => rfl
  have hlandings := hfield Thread.landings fun _ => rfl
  have hflags := hfield Thread.flags fun _ => rfl
  exact
    { accs := h.accs, pcores := h.pcores, pool := h.pool, poolBuf := h.poolBuf, host := h.host
      regs := h.regs.trans (State.unpark_sameRegs a.own)
      busy := hbusy ▸ h.busy
      ordAcc := hord ▸ hat ▸ h.ordAcc
      guards := hghits ▸ hgaddr ▸ h.guards
      faults := hsfq ▸ hdue ▸ h.faults
      lands := hlandings ▸ h.lands
      flags := hflags ▸ h.flags }

theorem State.wakes_cases (w : Tid) : s.wakes w aid = s ∨ s.wakes w aid = s.unpark w := by
  unfold State.wakes
  split
  · split
    · exact .inr rfl
    · exact .inl rfl
  · exact .inl rfl

/-- What the end of an access does. -/
theorem State.finishAccess_answers (haid : s.accs.get? aid = some a) (hreturned : a.returned = true) :
    s.answers (s.finishAccess aid) aid a := by
  rw [State.finishAccess_eq haid hreturned]
  rcases State.wakes_cases (s := s.answered aid a) (aid := aid) a.own with h | h
  · rw [h]
    exact State.answered_answers
  · rw [h]
    exact State.answered_answers.unpark

theorem State.answered_waits : ((s.answered aid a).thread a.own).st = (s.thread a.own).st ∧
    ((s.answered aid a).thread a.own).wait = (s.thread a.own).wait := by
  obtain ⟨-, -, -, -, hst, hwait, -, -⟩ := Thread.concluded_fields aid s.cyc (s.thread a.own)
  have hthread := State.concluded_thread (s := s) (aid := aid) a.own
  unfold State.answered
  split
  · rw [State.land_thread, hthread]
    exact ⟨hst, hwait⟩
  · rw [(State.setFlags_changes _ _ _).self, hthread]
    exact ⟨hst, hwait⟩

/-- A thread that is parked on the word of the access runs after its end. -/
theorem State.finishAccess_running (haid : s.accs.get? aid = some a) (hreturned : a.returned = true)
    (hst : (s.thread a.own).st = .parked) {x : Wait} (hwait : (s.thread a.own).wait = some x) (hkind : x.kind = .fe)
    (hcont : x.cont = .access aid) : ((s.finishAccess aid).thread a.own).st = .running := by
  obtain ⟨kind, obj, since, timed, cont⟩ := x
  cases hkind
  cases hcont
  obtain ⟨hst', hwait'⟩ := State.answered_waits (s := s) (aid := aid) (a := a)
  have hwakes : (s.answered aid a).wakes a.own aid = (s.answered aid a).unpark a.own := by
    simp only [State.wakes, hwait', hwait, if_true]
  rw [State.finishAccess_eq haid hreturned, hwakes]
  exact (State.unpark_parked _ _ (hst'.trans hst)).1

end

/-! ### What an access writes (R185, R186) -/

/-- The value of a scalar result. -/
theorem Ty.extend_eq (t : Ty) (x : ℕ) :
    t.extend x = if t.isInt = true then BitVec.ofInt 64 (t.reads x) else BitVec.ofNat 64 (x % 2 ^ t.width) := by
  split
  · next ht => exact Ty.extend_int ht x
  · next ht =>
    have hsigned : t.signed = false := by
      revert ht
      cases t <;> decide
    rw [Ty.extend, hsigned, if_neg Bool.false_ne_true]

section

variable (f : Elem → Lane) (es : List Elem)

/-- The lanes that the elements of a list write, in order. -/
def lanesOf (m : Map Lane) : Map Lane := es.foldl (fun m e => m.set e.idx (f e)) m

theorem lanesOf_of_not_mem {i : ℕ} (hi : i ∉ es.map fun e => e.idx) (m : Map Lane) : (lanesOf f es m).getD i 0 = m.getD i 0 := by
  induction es generalizing m with
  | nil => rfl
  | cons e es ih =>
    rw [List.map_cons, List.mem_cons, not_or] at hi
    obtain ⟨hne, hrest⟩ := hi
    exact (ih hrest _).trans (Map.getD_set_ne _ _ _ _ _ hne)

theorem lanesOf_of_mem (hnd : (es.map fun e => e.idx).Nodup) {e : Elem} (he : e ∈ es) (m : Map Lane) :
    (lanesOf f es m).getD e.idx 0 = f e := by
  induction es generalizing m with
  | nil => nomatch he
  | cons y es ih =>
    rw [List.map_cons, List.nodup_cons] at hnd
    obtain ⟨hnot, hnd⟩ := hnd
    rcases List.mem_cons.1 he with rfl | he
    · exact (lanesOf_of_not_mem f es hnot _).trans (Map.getD_set_self _ _ _ _)
    · exact ih hnd he _

/-- The mask of the elements of a list. -/
theorem getLsbD_maskOf (m : BitVec 64) {i : ℕ} (hi : i < 64) :
    (es.foldl (fun m e => m ||| (1#64 <<< e.idx)) m).getLsbD i = true ↔ m.getLsbD i = true ∨ ∃ e ∈ es, e.idx = i := by
  induction es generalizing m with
  | nil => simp
  | cons e es ih =>
    rw [List.foldl_cons, ih]
    have hbit : (m ||| (1#64 <<< e.idx)).getLsbD i = true ↔ m.getLsbD i = true ∨ e.idx = i := by
      rw [BitVec.getLsbD_or, Bool.or_eq_true]
      refine or_congr Iff.rfl ?_
      simp [hi]
      omega
    rw [hbit, or_assoc]
    simp

end

section

variable {a : Access} {p : ℕ} {q : Part} (hparts : a.parts = [(p, q)])

include hparts

theorem Access.flagsOut_single : a.flagsOut = q.flags ||| (if q.subst then fSB else 0) := by
  rw [Access.flagsOut, hparts]
  simp [flagIf]

theorem Access.writes_scalar {r : SReg} {e : Elem} (hdst : a.dst = some (.s r)) (helems : q.elems = [e]) : a.writes =
    [.s r (if a.t.isInt = true then BitVec.ofInt 64 (a.t.reads e.res.toNat) else BitVec.ofNat 64 (e.res.toNat % 2 ^ a.t.width))] := by
  rw [← Ty.extend_eq]
  simp [Access.writes, hparts, hdst, helems]

/-- A vector result has the lane of each element and of no other. -/
theorem Access.writes_vector {r : VReg} (hdst : a.dst = some (.v r)) (hint : a.t.isInt = true)
    (hnd : (q.elems.map fun e => e.idx).Nodup) : ∃ out m, a.writes = [.v r out m] ∧
      (∀ e ∈ q.elems, ∀ h : e.idx < 64, m.getLsbD e.idx = true ∧ out[e.idx] = BitVec.ofInt 32 (a.t.reads e.res.toNat)) ∧
      ∀ i, m.getLsbD i = true → ∃ e ∈ q.elems, e.idx = i := by
  refine ⟨Vec.ofFn fun i => (lanesOf (fun e => a.t.extendLane e.res.toNat) q.elems []).getD i.val 0,
    q.elems.foldl (fun m e => m ||| (1#64 <<< e.idx)) 0, ?_, fun e he h => ⟨?_, ?_⟩, fun i hi => ?_⟩
  · simp [Access.writes, hparts, hdst, lanesOf]
  · exact (getLsbD_maskOf q.elems 0 h).2 (.inr ⟨e, he, rfl⟩)
  · rw [← Ty.extendLane_int hint]
    exact (Vec.getElem_ofFn _ ⟨e.idx, h⟩).trans (lanesOf_of_mem _ _ hnd he _)
  · have hlt : i < 64 := BitVec.lt_of_getLsbD hi
    rcases (getLsbD_maskOf q.elems 0 hlt).1 hi with hzero | helem
    · simp at hzero
    · exact helem

end

/-! ### The response of the only part of an access (R187, R195) -/

/-- The part with its response. -/
def Part.answered (q : Part) : Part := { q with returned := true }

/-- The state when the response of a part has come in: a pool request's stores have reached the fabric memory, and its permit
has returned. -/
def State.received (s : State) (aid p : ℕ) (a : Access) (q : Part) : State :=
  if q.home = .pool then
    ((s.modPart aid p Part.answered).poolFlush (aid * 256 + p)).returnPermit (s.phys a.own.job a.own.lcn) q.slice
  else s.modPart aid p Part.answered

section

variable {s : State} {aid p : ℕ} {a : Access} {q : Part}

/-- What stays while a response comes in. -/
structure State.receives (s t : State) (aid p : ℕ) (a : Access) (q : Part) : Prop where
  cyc : t.cyc = s.cyc
  seq : s.seq ≤ t.seq
  host : t.host = s.host
  mem : ∀ pc, (t.pcore pc).mem = (s.pcore pc).mem
  poolByte : ∀ b, t.poolByte b = s.poolByte b
  regs : s.sameRegs t
  thread : ∀ v, (t.thread v).awake = (s.thread v).awake
  waiting : ∀ v x, (s.thread v).wait = some x → x.kind = .fe → t.thread v = s.thread v
  single : t.holdsSingle aid p a q.answered
  offPool : q.home ≠ .pool → t.seq = s.seq ∧ t.pool = s.pool
  permits : q.home = .pool → (∀ x ∈ (s.pcore (s.phys a.own.job a.own.lcn)).permitQ, x.1 ≠ q.slice) →
    (t.pcore (s.phys a.own.job a.own.lcn)).permits.getD q.slice 0 =
      (s.pcore (s.phys a.own.job a.own.lcn)).permits.getD q.slice 0 - 1

theorem State.modPart_eq (haid : s.accs.get? aid = some a) (hparts : a.parts = [(p, q)]) (f : Part → Part) :
    s.modPart aid p f = { s with accs := s.accs.set aid { a with parts := [(p, f q)] } } := by
  simp [State.modPart, State.modAcc, haid, hparts, Map.get?, Map.set]

/-- Stores that reach the fabric memory change nothing but that and the buffer. -/
theorem State.poolFlush_frame (tag : ℕ) : ∃ pool buf, s.poolFlush tag = { s with pool := pool, poolBuf := buf } := by
  unfold State.poolFlush
  refine List.foldlRecOn (motive := fun t : State => ∃ pool buf, t = { s with pool := pool, poolBuf := buf }) _ _ ⟨_, _, rfl⟩ ?_
  rintro t ⟨pool, buf, rfl⟩ loc -
  exact ⟨_, _, rfl⟩

theorem State.received_receives (hs : s.canonical) (haid : s.accs.get? aid = some a) (hparts : a.parts = [(p, q)]) :
    s.receives (s.received aid p a q) aid p a q := by
  have hmod := State.modPart_eq haid hparts Part.answered
  have hkeeps : s.keepsJobs (s.modPart aid p Part.answered) := by
    rw [hmod]
    exact .frame
  have hsingle : (s.modPart aid p Part.answered).holdsSingle aid p a q.answered := by
    rw [hmod]
    exact ⟨q.sent, Map.get?_set_self _ _ _⟩
  by_cases hhome : q.home = .pool
  · rw [State.received, if_pos hhome]
    have hbytes (b : ℕ) : ((s.modPart aid p Part.answered).poolFlush (aid * 256 + p)).poolByte b = s.poolByte b := by
      rw [State.poolFlush_poolByte hs.modPart, hmod]
      rfl
    obtain ⟨pool, buf, hflush⟩ := State.poolFlush_frame (s := s.modPart aid p Part.answered) (aid * 256 + p)
    rw [hflush] at hbytes ⊢
    set flushed : State := { s.modPart aid p Part.answered with pool := pool, poolBuf := buf } with hflushed
    have hgrants : flushed.grants (flushed.returnPermit (s.phys a.own.job a.own.lcn) q.slice) := State.returnPermit_grants _ _
    have hthread (v : Tid) : flushed.thread v = s.thread v := hkeeps.thread v
    have hcore (pc : ℕ) : flushed.pcore pc = s.pcore pc := by
      rw [hflushed, hmod]
      rfl
    have hregs : s.sameRegs flushed := hkeeps.sameRegs
    exact
      { cyc := hgrants.cyc.trans (by rw [hflushed, hmod])
        seq := hgrants.seq.trans' (by rw [hflushed, hmod])
        host := hgrants.host.trans hkeeps.host
        mem := fun pc => (hgrants.mem pc).trans (hkeeps.scratch pc)
        poolByte := fun b => by
          rw [← hbytes b, State.poolByte, hgrants.pool, hgrants.poolBuf, State.poolByte]
        regs := hregs.trans hgrants.sameRegs
        thread := fun v => (hgrants.thread v).trans (by rw [hthread])
        waiting := fun v x hx hfe => (hgrants.waiting v x ((hthread v).symm ▸ hx) hfe).trans (hthread v)
        single := hgrants.single _ _ _ _ hsingle
        offPool := fun h => absurd hhome h
        permits := fun _ hnone => by
          rw [State.returnPermit_permits (by rwa [hcore]), hcore] }
  · rw [State.received, if_neg hhome]
    exact
      { cyc := by rw [hmod]
        seq := by rw [hmod]
        host := hkeeps.host
        mem := hkeeps.scratch
        poolByte := fun b => by
          rw [hmod]
          rfl
        regs := hkeeps.sameRegs
        thread := fun v => by rw [hkeeps.thread]
        waiting := fun v _ _ _ => hkeeps.thread v
        single := hsingle
        offPool := fun _ => by
          rw [hmod]
          exact ⟨rfl, rfl⟩
        permits := fun h => absurd h hhome }

/-! ### The mark of guard hits (R202) -/

theorem State.markGuard_thread (w : Tid) (hits : ℕ) (va : Word) : (s.markGuard w hits va).thread w =
    { s.thread w with
      ghits := (s.thread w).ghits + hits
      gaddr := if 0 < hits ∧ (s.thread w).ghits = 0 then va else (s.thread w).gaddr } := by
  unfold State.markGuard
  by_cases h : hits = 0
  · simp [h]
  · rw [if_neg h, State.modThread_thread_self]
    simp [Nat.pos_of_ne_zero h]

theorem State.markGuard_sameRegs (w : Tid) (hits : ℕ) (va : Word) : s.sameRegs (s.markGuard w hits va) := by
  unfold State.markGuard
  split
  · exact (State.keepsJobs.refl s).sameRegs
  · exact State.sameRegs.ofModThread s w _ rfl rfl rfl rfl

/-- What of a state no change of a thread touches. -/
theorem State.markGuard_field {β : Type} (f : State → β) (hf : ∀ w g, f (s.modThread w g) = f s) (w : Tid) (hits : ℕ) (va : Word) :
    f (s.markGuard w hits va) = f s := by
  unfold State.markGuard
  split
  · rfl
  · exact hf _ _

/-! ### The whole response -/

/-- The response of a part that has none yet. -/
theorem State.exec_accessResponse (haid : s.accs.get? aid = some a) (hparts : a.parts = [(p, q)]) (hq : q.returned = false) :
    exec (.accessResponse aid p) s = .next
      (((s.received aid p a q).markGuard a.own q.hits q.hitVa).finishAccess aid) := by
  have hpart : s.part? aid p = some (a, q) := by simp [State.part?, haid, hparts, Map.get?]
  have hphys : (s.modPart aid p Part.answered).phys a.own.job a.own.lcn = s.phys a.own.job a.own.lcn := by
    rw [State.modPart_eq haid hparts]
    rfl
  have hexec : exec (.accessResponse aid p) s = execAccessResponse aid p s := rfl
  have hreceived : (if q.home = .pool then
      ((s.modPart aid p Part.answered).poolFlush (aid * 256 + p)).returnPermit
        ((s.modPart aid p Part.answered).phys a.own.job a.own.lcn) q.slice
      else s.modPart aid p Part.answered) = s.received aid p a q := by
    rw [hphys]
    rfl
  rw [hexec, execAccessResponse, hpart, ← hreceived]
  simp only [hq, Bool.false_eq_true, if_false]
  rfl

/-- From `s` to `t` the access `a` has ended by the response of its only part `q`; `lands` says of a result and its flags that they
land in this cycle. -/
structure State.returns (s t : State) (aid : ℕ) (a : Access) (q : Part) : Prop where
  accs : t.accs.get? aid = none
  busy : ∀ x ∈ (t.thread a.own).busy, (x ∈ (s.thread a.own).busy ∧ x.1 ≠ aid) ∨ s.seq ≤ x.1
  regs : s.sameRegs t
  mem : ∀ pc, (t.pcore pc).mem = (s.pcore pc).mem
  host : t.host = s.host
  poolByte : ∀ b, t.poolByte b = s.poolByte b
  pool : q.home ≠ .pool → t.pool = s.pool
  ordAcc : (s.thread a.own).ordAcc = some aid → (t.thread a.own).ordAcc = none ∧ (t.thread a.own).accAt = s.cyc + 1
  ghits : (t.thread a.own).ghits = (s.thread a.own).ghits + q.hits
  gaddr : 0 < q.hits → (t.thread a.own).gaddr = if (s.thread a.own).ghits = 0 then q.hitVa else (s.thread a.own).gaddr
  lands : a.dst.isSome = true → ∃ id, (q.home ≠ .pool → id = s.seq) ∧
    ⟨id, s.cyc, a.writes, q.flags ||| (if q.subst then fSB else 0)⟩ ∈ (t.thread a.own).landings ∧
    ⟨s.cyc, .resultLands a.own id⟩ ∈ t.agenda
  flags : a.dst = none → (t.thread a.own).flags = (s.thread a.own).flags ||| (q.flags ||| (if q.subst then fSB else 0))
  running : ∀ x, (s.thread a.own).st = .parked → (s.thread a.own).wait = some x → x.kind = .fe → x.cont = .access aid →
    (t.thread a.own).st = .running
  permits : q.home = .pool → (∀ x ∈ (s.pcore (s.phys a.own.job a.own.lcn)).permitQ, x.1 ≠ q.slice) →
    (t.pcore (s.phys a.own.job a.own.lcn)).permits.getD q.slice 0 =
      (s.pcore (s.phys a.own.job a.own.lcn)).permits.getD q.slice 0 - 1

/-- What an access writes does not say whether its part has left or has its response. -/
theorem Access.writes_answered (hparts : a.parts = [(p, q)]) (b : Bool) :
    Access.writes { a with parts := [(p, { q.answered with sent := b })] } = a.writes := by
  simp only [Access.writes, hparts, Part.answered]
  rfl

theorem State.receives.returns {u : State} (hu : s.receives u aid p a q) (hparts : a.parts = [(p, q)]) :
    s.returns ((u.markGuard a.own q.hits q.hitVa).finishAccess aid) aid a q := by
  obtain ⟨b, hb⟩ := hu.single
  have hfield {β : Type} (f : State → β) (hf : ∀ (v : State) w g, f (v.modThread w g) = f v) :
      f (u.markGuard a.own q.hits q.hitVa) = f u := State.markGuard_field f (hf u) _ _ _
  have hacc : (u.markGuard a.own q.hits q.hitVa).accs.get? aid = some { a with parts := [(p, { q.answered with sent := b })] } := by
    rw [hfield State.accs fun _ _ _ => rfl]
    exact hb
  have hreturned : Access.returned { a with parts := [(p, { q.answered with sent := b })] } = true := by
    simp [Access.returned, Part.answered]
  have hanswers := State.finishAccess_answers hacc hreturned
  have hflagsOut : Access.flagsOut { a with parts := [(p, { q.answered with sent := b })] } = q.flags ||| (if q.subst then fSB else 0) :=
    Access.flagsOut_single (p := p) (q := { q.answered with sent := b }) rfl
  have hcyc : (u.markGuard a.own q.hits q.hitVa).cyc = s.cyc := (hfield State.cyc fun _ _ _ => rfl).trans hu.cyc
  have hseq : (u.markGuard a.own q.hits q.hitVa).seq = u.seq := hfield State.seq fun _ _ _ => rfl
  have hpcore (pc : ℕ) : ((u.markGuard a.own q.hits q.hitVa).finishAccess aid).pcore pc = u.pcore pc := by
    rw [State.pcore, hanswers.pcores, hfield State.pcores fun _ _ _ => rfl, State.pcore]
  have hthread := State.markGuard_thread (s := u) a.own q.hits q.hitVa
  have hawake {β : Type} (f : Thread → β) (hf : ∀ x, f x = f x.awake) : f (u.thread a.own) = f (s.thread a.own) := by
    rw [hf, hu.thread, ← hf]
  exact
    { accs := hanswers.accs
      busy := fun x hx => by
        rcases hanswers.busy x hx with ⟨hmem, hne⟩ | hnew
        · rw [hthread] at hmem
          exact .inl ⟨hawake Thread.busy (fun _ => rfl) ▸ hmem, hne⟩
        · exact .inr (hu.seq.trans_eq (hseq.symm.trans hnew.symm))
      regs := (hu.regs.trans (State.markGuard_sameRegs _ _ _)).trans hanswers.regs
      mem := fun pc => (congrArg PCore.mem (hpcore pc)).trans (hu.mem pc)
      host := by rw [hanswers.host, hfield State.host fun _ _ _ => rfl, hu.host]
      poolByte := fun c => by
        rw [← hu.poolByte c, State.poolByte, hanswers.pool, hanswers.poolBuf, hfield State.pool fun _ _ _ => rfl,
          hfield State.poolBuf fun _ _ _ => rfl, State.poolByte]
      pool := fun hhome => by rw [hanswers.pool, hfield State.pool fun _ _ _ => rfl, (hu.offPool hhome).2]
      ordAcc := fun h => by
        rw [← hcyc]
        refine hanswers.ordAcc ?_
        rw [hthread]
        exact (hawake Thread.ordAcc fun _ => rfl).trans h
      ghits := by
        rw [hanswers.guards.1, hthread, hawake Thread.ghits fun _ => rfl]
      gaddr := fun h => by
        rw [hanswers.guards.2, hthread, hawake Thread.ghits fun _ => rfl, hawake Thread.gaddr fun _ => rfl]
        simp only [h, true_and]
      lands := fun h => by
        have hlands := hanswers.lands h
        rw [Access.writes_answered hparts, hflagsOut, hcyc] at hlands
        exact ⟨_, fun hhome => hseq.trans (hu.offPool hhome).1, hlands⟩
      flags := fun h => by
        rw [hanswers.flags h, hthread, hflagsOut, hawake Thread.flags fun _ => rfl]
      running := fun x hst hwait hfe hcont => by
        have hsame : (u.markGuard a.own q.hits q.hitVa).thread a.own = { s.thread a.own with
            ghits := (s.thread a.own).ghits + q.hits
            gaddr := if 0 < q.hits ∧ (s.thread a.own).ghits = 0 then q.hitVa else (s.thread a.own).gaddr } := by
          rw [hthread, hu.waiting a.own x hwait hfe]
        have hst' : ((u.markGuard a.own q.hits q.hitVa).thread a.own).st = .parked := by rw [hsame, hst]
        have hwait' : ((u.markGuard a.own q.hits q.hitVa).thread a.own).wait = some x := by rw [hsame, hwait]
        exact State.finishAccess_running (a := { a with parts := [(p, { q.answered with sent := b })] }) hacc hreturned hst' hwait'
          hfe hcont
      permits := fun hhome hnone => by rw [hpcore, hu.permits hhome hnone] }

end

/-! ### A posted access that faulted (R187, R204) -/

section

variable {s : State} {aid p : ℕ} {a : Access} {q : Part}

/-- The end of a relaxed access in the thread's list is a change of the thread, and may be another. -/
theorem State.leaveRelaxed_cases (w : Tid) (id : ℕ) :
    s.leaveRelaxed w id = s.modThread w (fun t => { t with relaxed := t.relaxed.erase id }) ∨
      s.leaveRelaxed w id = (s.modThread w fun t => { t with relaxed := t.relaxed.erase id }).unpark w := by
  unfold State.leaveRelaxed
  dsimp only
  split
  · exact .inr rfl
  · exact .inl rfl

theorem State.afterPerform_cases (aid : ℕ) : s.afterPerform aid = s ∨ ∃ a : Access, s.afterPerform aid = s.leaveRelaxed a.own aid := by
  unfold State.afterPerform
  split
  · split
    · exact .inr ⟨_, rfl⟩
    · exact .inl rfl
  · exact .inl rfl

/-- Performing the last part changes the thread's count of relaxed accesses, and whether it waits. -/
structure State.counts (s t : State) : Prop where
  accs : t.accs = s.accs
  regs : s.sameRegs t
  bytes : s.sameBytes t
  faults : ∀ v, (t.thread v).sfq = (s.thread v).sfq ∧ (t.thread v).sfDue = (s.thread v).sfDue

theorem State.counts.trans {s t u : State} (h : s.counts t) (k : t.counts u) : s.counts u where
  accs := k.accs.trans h.accs
  regs := h.regs.trans k.regs
  bytes := h.bytes.trans k.bytes
  faults := fun v => ⟨(k.faults v).1.trans (h.faults v).1, (k.faults v).2.trans (h.faults v).2⟩

theorem State.counts.refl (s : State) : s.counts s :=
  ⟨rfl, (State.keepsJobs.refl s).sameRegs, (State.keepsJobs.refl s).sameBytes, fun _ => ⟨rfl, rfl⟩⟩

theorem State.unpark_counts (w : Tid) : s.counts (s.unpark w) where
  accs := rfl
  regs := State.unpark_sameRegs w
  bytes := State.modThread_sameBytes s w _
  faults := fun v => by
    have h := State.unpark_awake (s := s) w v
    have hsfq : ((s.unpark w).thread v).awake.sfq = (s.thread v).awake.sfq := congrArg Thread.sfq h
    have hdue : ((s.unpark w).thread v).awake.sfDue = (s.thread v).awake.sfDue := congrArg Thread.sfDue h
    exact ⟨hsfq, hdue⟩

theorem State.erase_counts (w : Tid) (id : ℕ) : s.counts (s.modThread w fun t => { t with relaxed := t.relaxed.erase id }) where
  accs := rfl
  regs := State.sameRegs.ofModThread s w _ rfl rfl rfl rfl
  bytes := State.modThread_sameBytes s w _
  faults := fun v => by
    by_cases hv : v = w
    · subst hv
      rw [State.modThread_thread_self]
      exact ⟨rfl, rfl⟩
    · rw [State.modThread_thread_ne s w v _ hv]
      exact ⟨rfl, rfl⟩

theorem State.afterPerform_counts (aid : ℕ) : s.counts (s.afterPerform aid) := by
  rcases State.afterPerform_cases (s := s) aid with h | ⟨a, h⟩
  · rw [h]
    exact .refl s
  · rw [h]
    rcases State.leaveRelaxed_cases (s := s) a.own aid with h | h
    · rw [h]
      exact State.erase_counts _ _
    · rw [h]
      exact (State.erase_counts _ _).trans (State.unpark_counts _)

/-- The only part of an access is in its own block. -/
theorem State.faultBlock_eq (haid : s.accs.get? aid = some a) (hparts : a.parts = [(p, q)]) (hperformed : q.performed = false)
    (c : Cause) (done : Bool) : s.faultBlock aid q c done =
      { s with accs := s.accs.set aid { a with parts := [(p, { q with fault := some c, performed := done, returned := done })] } } := by
  simp [State.faultBlock, State.modAcc, haid, hparts, hperformed]

/-- The thread with a record in its store-fault queue. -/
def Thread.faulted (r : SfRec) (t : Thread) : Thread :=
  { t with sfq := t.sfq ++ [r], sfDue := t.sfDue || decide (t.sfq.length + 1 = 4) }

variable {c : Cause} (haid : s.accs.get? aid = some a) (hparts : a.parts = [(p, q)]) (hreturned : q.returned = false)
  (hperformed : q.performed = false) (hfault : q.fault = some c)

include haid hparts hreturned hperformed hfault

omit hperformed in
theorem State.exec_storeFaultRecord : exec (.storeFaultRecord aid p) s = .next
    (if (s.thread a.own).sfq.length < 4 then
      (((s.modThread a.own (Thread.faulted (a.record q c))).faultBlock aid q c true).afterPerform aid).finishAccess aid
    else s.faultBlock aid q c false) := by
  have hpart : s.part? aid p = some (a, q) := by simp [State.part?, haid, hparts, Map.get?]
  have hexec : exec (.storeFaultRecord aid p) s = execStoreFaultRecord aid p s := rfl
  simp only [hexec, execStoreFaultRecord, hpart, hfault, hreturned, Bool.false_eq_true, if_false, State.recordFault]
  rfl

/-- With room in the queue the access ends there. -/
theorem State.storeFaultRecord_room (hroom : (s.thread a.own).sfq.length < 4) : ∃ t, exec (.storeFaultRecord aid p) s = .next t ∧
    t.accs.get? aid = none ∧ (t.thread a.own).sfq = (s.thread a.own).sfq ++ [a.record q c] ∧
    (t.thread a.own).sfDue = ((s.thread a.own).sfDue || decide ((s.thread a.own).sfq.length = 3)) ∧ s.sameRegs t ∧ s.sameBytes t := by
  have hexec := State.exec_storeFaultRecord haid hparts hreturned hfault
  rw [if_pos hroom, State.faultBlock_eq (s := s.modThread a.own _) haid hparts hperformed] at hexec
  set queued := s.modThread a.own (Thread.faulted (a.record q c)) with hqueued
  set b : Access := { a with parts := [(p, { q with fault := some c, performed := true, returned := true })] } with hb
  set marked : State := { queued with accs := queued.accs.set aid b } with hmarked
  have hcounts : marked.counts (marked.afterPerform aid) := State.afterPerform_counts aid
  have hacc : (marked.afterPerform aid).accs.get? aid = some b := by
    rw [hcounts.accs]
    exact Map.get?_set_self _ _ _
  have hanswers := State.finishAccess_answers hacc (by simp [hb, Access.returned])
  have hthread : marked.thread a.own = Thread.faulted (a.record q c) (s.thread a.own) := State.modThread_thread_self _ _ _
  have hregs : s.sameRegs marked :=
    (State.sameRegs.ofModThread s a.own _ rfl rfl rfl rfl).trans (State.keepsJobs.sameRegs .frame)
  have hbytes : s.sameBytes marked := (State.modThread_sameBytes s a.own _).trans (State.keepsJobs.sameBytes .frame)
  have hfinish : (marked.afterPerform aid).sameBytes ((marked.afterPerform aid).finishAccess aid) := by
    refine ⟨fun x => by rw [hanswers.pool], fun x => by rw [hanswers.host], fun pc x => ?_⟩
    rw [State.pcore, hanswers.pcores, State.pcore]
  refine ⟨_, hexec, hanswers.accs, ?_, ?_, (hregs.trans hcounts.regs).trans hanswers.regs, (hbytes.trans hcounts.bytes).trans hfinish⟩
  · rw [hanswers.faults.1, (hcounts.faults _).1]
    exact congrArg Thread.sfq hthread
  · rw [hanswers.faults.2, (hcounts.faults _).2]
    refine (congrArg Thread.sfDue hthread).trans (congrArg ((s.thread a.own).sfDue || ·) (decide_eq_decide.2 ?_))
    exact Nat.succ_inj

/-- While it is full the access stays outstanding. -/
theorem State.storeFaultRecord_full (hfull : 4 ≤ (s.thread a.own).sfq.length) : ∃ t, exec (.storeFaultRecord aid p) s = .next t ∧
    (t.thread a.own).sfq = (s.thread a.own).sfq ∧ t.part? aid p = some (a, q) ∧ s.sameRegs t ∧ s.sameBytes t := by
  have hexec := State.exec_storeFaultRecord haid hparts hreturned hfault
  have hpart : { q with fault := some c, performed := false, returned := false } = q := by
    cases q
    cases hreturned
    cases hperformed
    cases hfault
    rfl
  have haccess : { a with parts := [(p, q)] } = a := by
    rw [← hparts]
  rw [if_neg (Nat.not_lt.2 hfull), State.faultBlock_eq haid hparts hperformed, hpart, haccess] at hexec
  refine ⟨_, hexec, rfl, ?_, State.keepsJobs.sameRegs .frame, State.keepsJobs.sameBytes .frame⟩
  simp [State.part?, hparts, Map.get?]

end

/-- Settles O45: a response comes in (`State.receives`) and the access ends (`State.answers`); a fault's record is followed by the same
end; and a walk ends as `State.walkEnds` says. -/
theorem accessesReturn : Obligations.AccessesReturn := by
  refine ⟨?_, ?_, ?_, ?_⟩
  · intro s aid p a q hs haid hparts hq _
    have hreturns := (State.received_receives hs haid hparts).returns hparts
    refine ⟨_, State.exec_accessResponse haid hparts hq, hreturns.accs, hreturns.busy, hreturns.regs,
      fun pc b => by rw [hreturns.mem], hreturns.host, hreturns.poolByte, hreturns.pool, hreturns.ordAcc, hreturns.ghits,
      hreturns.gaddr, fun r e hdst helems hhome => ?_, fun r hdst hint hnd _ => ?_, hreturns.flags, hreturns.running, hreturns.permits⟩
    · obtain ⟨id, hid, hlands⟩ := hreturns.lands (by rw [hdst]; rfl)
      rw [hid hhome, Access.writes_scalar hparts hdst helems] at hlands
      exact hlands
    · obtain ⟨id, -, hlands, -⟩ := hreturns.lands (by rw [hdst]; rfl)
      obtain ⟨out, m, hwrites, hlanes, hmask⟩ := Access.writes_vector hparts hdst hint hnd
      rw [hwrites] at hlands
      exact ⟨id, out, m, hlands, hlanes, hmask⟩
  · intro s aid p a q e c haid hparts _ hreturned hperformed hfault helems hvec
    have hrecord : a.record q c = { faddr := e.va, fpc := a.pc, fcause := c, felem := 0, fseq := a.fseq,
                                    fdata := BitVec.ofNat 64 (e.val.toNat % 2 ^ (8 * a.size)) } := by
      simp only [Access.record, helems, List.headD_cons, hvec, Bool.false_eq_true, if_false]
    rw [← hrecord]
    exact ⟨State.storeFaultRecord_room haid hparts hreturned hperformed hfault,
      State.storeFaultRecord_full haid hparts hreturned hperformed hfault⟩
  · intro s wid k d id hwalk hpost heng hahead hprobe
    have hexec := State.exec_walk hwalk hpost heng hahead
    refine ⟨fun l hleaf => ?_, fun n c hfault => ?_⟩
    · obtain ⟨v, hreport, hv⟩ := l.report_eq (s.dev.slice (l.frame + k.va.toNat % 2 ^ 48 % l.size)).isSome
      rw [hleaf, State.walkEnds, hprobe, Option.elim_some, hreport] at hexec
      refine ⟨v, State.walk_lands ((s.unlisted_keepsJobs wid).trans (State.fillTlb_keepsJobs _ l)) rfl hexec, ?_⟩
      rw [hv, Option.isSome_iff_exists]
    · rw [hfault, State.walkEnds, hprobe, Option.elim_some] at hexec
      exact State.walk_lands (s.unlisted_keepsJobs wid) rfl hexec
  · intro s wid k hwalk hpost heng hahead hprobe hstall
    refine ⟨fun l hleaf => ?_, fun n c i hfault hi hfree hfirst =>
      State.own_walk_fault hwalk hpost heng hahead hprobe hstall hfault hi hfree hfirst⟩
    obtain ⟨hjob, hbase, hend, hframe, haligned, hlow, hhigh, hshape⟩ := State.translates_of_walkFrom le_rfl hleaf
    exact ⟨hjob, hbase, hend, hframe, haligned, hlow, hhigh, hshape,
      State.own_walk_leaf hwalk hpost heng hahead hprobe hstall hleaf⟩

end Sys2Proof.Machine
